-- ==== Sys2Proof/Word.lean ====
section
/-! DEFINITION. The plain word types of the model and their plainest arithmetic. -/

namespace Sys2Proof

/-- One byte (R2: every multi-byte field is little-endian, byte 0 at the lowest address). -/
abbrev Byte := BitVec 8

/-- A 64-bit word: a register of the target port, a Helix word, a seed. -/
abbrev Word64 := BitVec 64

/-- Unsigned arithmetic of stated width wraps (R8). -/
def wrap (w n : Nat) : Nat := n % 2 ^ w

end Sys2Proof
end

