-- ==== Sys2Proof/Syntax.lean ====
section
/-! DEFINITION. The commands the block takes: one constructor for each row of the opcode table, with its operands. -/

namespace Sys2Proof

/-- The two request paths of the object dictionary (R108). -/
inductive Path where
  | window | ddp
deriving DecidableEq, Repr

/-- Status of a memory response (Table 3.9). `reserved` is the reserved write status of R60. -/
inductive MemStatus where
  | okay | slverr | decerr | poison | reserved
deriving DecidableEq, Repr

/-- One MCTP packet as the I3C target receives it (R106, R107): the transport header's fields, whether its PEC checked, and
its payload after the transport header. -/
structure MctpPacket where
  pecOk   : Bool
  som     : Bool
  eom     : Bool
  seq     : Nat
  tag     : Nat
  tagOwner : Bool
  source  : Nat
  payload : List Byte
deriving DecidableEq, Repr

/-- What the start sequence finds when it runs (Table 15.6). Each list names the start steps whose standard way, or whose
alternate, fails in this start; the masks are what memory BIST and the logic test find; the rest are the checks of the records
that the steps read from the retention store and from memory. -/
structure StartReport where
  standardFails  : List Nat
  alternateFails : List Nat
  lanesBad       : Nat
  sharesBad      : Nat
  banksBad       : Nat
  pairsBad       : Nat
  imageCrcOk     : Bool
  imageLayoutOk  : Bool
  maskRecordOk   : Bool
  counterRecordOk : Bool
  timeImported   : Bool
  sealsOk        : Bool
  firmwareOk     : Bool
  partitions     : Nat
deriving DecidableEq, Repr

/-- Where an ECC word in error was found: a structure with one copy (Table 15.1); two copies that pass and differ, with the second copy of C
for a queue's counts (R145, R151); one copy of such a pair; or a word that ECC corrected. -/
inductive EccPlace where
  | ledger (facet : Fin 16)
  | positionStore (lane : Fin 16)
  | delayList
  | hotBank (bank : Fin 16)
  | pairMemory (pair : Fin 8)
  | poolLists (pool : Fin 64)
  | queueCounts (queue : Fin 4096) (released : BitVec 32)
  | oneCopy
  | corrected
deriving DecidableEq, Repr

/-- The unit whose two control copies disagree (R369). -/
inductive CopyUnit where
  | tes | dsp
deriving DecidableEq, Repr

/-- TAP operations the test port provides (R419). -/
inductive TapOp where
  | bypass | idcode | wrapper | memoryBist
deriving DecidableEq, Repr

/-- One command to the block: one constructor per row of the opcode table. NEW_ENTRY, CANCEL_ENTRY, HELD_RING_REEVALUATE, FORWARD_MESSAGE and
FED_POLL name with their last operands what the sender holds to stand in memory (the entry, the prompt, the units of a ring): the engine takes it
from the responses of its own reads (R121, R355), and these operands have no effect (log entry 147, DESIGN CHOICE). -/
inductive Instr where
  | aonPorRelease (corePowered : Bool)
  | aonRstAssert
  | aonRstRelease (report : StartReport)
  | tstTrst
  | powerLoss
  | startWatchdogExpiry
  | phaseReport (facet : Fin 16) (phase : BitVec 16)
  | stepBegin (facet : Fin 16) (phase : BitVec 16)
  | mCompose (facet : Fin 16)
  | mPrefetch (facet : Fin 16)
  | mDraft (facet : Fin 16)
  | mCapture (facet : Fin 16)
  | mCommit (facet : Fin 16)
  | phaseStall (facet : Fin 16)
  | phaseStallRecovery (facet : Fin 16)
  | gnomonTick
  | timeImport (ns : Nat)
  | importTimeout
  | wallTick
  | deadlineMiss (slot : Nat)
  | delayRelease (list : Fin 4)
  | delayInsert (list : Fin 4) (key : Nat) (kind : Fin 3) (payload : Nat)
  | delayCancel (list : Fin 4) (kind : Fin 3) (payload : Nat)
  | submissionDoorbell (ring : Fin 4096) (strb : BitVec 8) (data : Word64)
  | deliveryDoorbell (queue : Fin 4096) (strb : BitVec 8) (data : Word64)
  | disallowedTargetAccess (write : Bool) (addr : BitVec 26) (strb : BitVec 8) (priv : Bool) (tag : BitVec 8)
  | noticeRead (strb : BitVec 8) (priv : Bool) (tag : BitVec 8)
  | memReadResponse (channel : Fin 2) (tag : Fin 1024) (status : MemStatus) (data : List Byte)
  | memWriteResponse (channel : Fin 2) (tag : Fin 1024) (status : MemStatus)
  | memWatchdogExpiry (channel : Fin 2) (write : Bool) (tag : Fin 1024)
  | memLateResponse (channel : Fin 2) (write : Bool) (tag : Fin 1024)
  | committedWriteReissue (channel : Fin 2) (tag : Fin 1024)
  | commandDispatch
  | creditReturn (part : Fin 64) (count : Nat)
  | reportBeat (channel : Fin 4) (data : List Byte)
  | completionRecord (channel : Fin 4) (data : List Byte)
  | funnelRead
  | cmdWatchdogExpiry (tag : Fin 262144)
  | drainAck (part : Fin 64)
  | drainEnd (part : Fin 64)
  | drainTimeout (part : Fin 64)
  | contextDone (data : List Byte)
  | contextTimeout (part : Fin 64)
  | tileTransfer (lane : Fin 16) (hdr : Word64) (data : List Byte) (crc : BitVec 32)
  | replayNak (data : Word64)
  | replayTimeout (facet : Fin 16) (position : Nat)
  | tokenReturn (count : Fin 5)
  | dictRead (path : Path)
  | dictWrite (path : Path)
  | dictInfo (path : Path)
  | rspDoneClear
  | snapshotExpiry (path : Path)
  | stagedWriteExpiry (path : Path)
  | mctpPacket (packet : MctpPacket)
  | entdaa (address : BitVec 7)
  | enec (events : BitVec 8)
  | disec (events : BitVec 8)
  | rstdaa
  | getpid
  | getbcr
  | getdcr
  | getstatus
  | getmrl
  | getmwl
  | setmrl (length : BitVec 16)
  | setmwl (length : BitVec 16)
  | rstact (action : BitVec 8)
  | pImageWrite
  | retentionRecordWrite
  | highWaterSave
  | pDefaults (path : Path)
  | requestConfig (path : Path)
  | requestOperational (path : Path)
  | requestQuiesced (path : Path)
  | engineDrainComplete
  | drainLimitExpiry
  | featureAcceptWrite (path : Path)
  | newEntry (ring : Fin 4096) (entry : List Byte) (prompt : List Nat)
  | cancelEntry (ring : Fin 4096) (entry : List Byte)
  | heldRingReevaluate (ring : Fin 4096) (entry : List Byte) (prompt : List Nat)
  | ringEnable (path : Path)
  | ringDisable (path : Path)
  | queueEnable (path : Path)
  | queueDisable (path : Path)
  | deferredStart (slot : Nat)
  | budgetPeriodBoundary
  | cancelHandle (path : Path)
  | hotFill (slot : Nat)
  | queuePublication (queue : Fin 4096)
  | forwardMessage (message : List Byte) (prompt : List Nat)
  | liveMessage (message : List Byte)
  | replyMessage (message : List Byte)
  | migrateHandle (path : Path)
  | migrateTimeout (msgId : Nat)
  | poolEnable (path : Path)
  | poolDisable (path : Path)
  | poolNoticeRead (path : Path)
  | pageReclaim (pool : Fin 64)
  | pageEvict (pool : Fin 64)
  | pageRecall (pool : Fin 64)
  | planComplete (facet : Fin 16)
  | binBuildComplete (facet : Fin 16) (group : Nat) (entry : Nat)
  | facetRequestUnassigned (path : Path)
  | facetRequestStandby (path : Path)
  | facetRequestActive (path : Path)
  | facetRequestDraining (path : Path)
  | facetPartsWrite (path : Path)
  | facetModeWrite (path : Path)
  | markWrite (path : Path)
  | pinnedEnableWrite (path : Path)
  | descriptorZeroCounter (tag : Fin 262144)
  | jobStart (path : Path)
  | jobTeardown (path : Path)
  | jobGraphLoaded (facet : Fin 16) (urgent : Bool) (graph : List Byte) (semTable : List Byte) (offload : List Byte)
  | iterationLoad (facet : Fin 16) (urgent : Bool)
  | gateReady (facet : Fin 16) (urgent : Bool)
  | teardownComplete (facet : Fin 16) (urgent : Bool)
  | watermarkNoticeRead (path : Path)
  | partWaitMaxRead (path : Path)
  | firmwareBlockRequest (pair : Fin 8) (stream : Word64) (counter : BitVec 60) (unit24 : Bool)
  | policyProposal (pair : Fin 8) (facet : Fin 16) (sequences : Nat) (positions : Nat)
  | shapeProposal (pair : Fin 8) (handle : Word64) (slot : Fin 16) (valid : Bool)
  | helixSelfCheck (lane : Fin 16) (w0 : Word64) (w1 : Word64)
  | helixProbeRead (path : Path)
  | sampleResult (facet : Fin 16) (step : Nat) (position : Nat)
  | maskSlotLoad (path : Path)
  | hullMaxRead (path : Path)
  | secantWalk (facet : Fin 16) (slot : Nat)
  | shapeTableWrite (path : Path)
  | generationSliceEnd (facet : Fin 16)
  | urgentStart (path : Path)
  | urgentTeardown (path : Path)
  | semaphoreDonation (sem : Fin 64)
  | donationOverrun (sem : Fin 64)
  | accountingPeriodBoundary
  | modelRegister (path : Path)
  | modelActivate (path : Path)
  | versionLoad (path : Path)
  | versionPublish (path : Path)
  | versionAbort (path : Path)
  | slotHandover (model : Fin 256)
  | stalenessExpiry (model : Fin 256)
  | updatePartWrite (facet : Fin 16) (urgent : Bool)
  | learnerDecision (facet : Fin 16) (urgent : Bool)
  | learnReset (path : Path)
  | fedPoll (produced : Nat) (units : List Byte)
  | fedVote (source : Nat) (message : List Byte)
  | fedDecide (source : Nat) (message : List Byte)
  | fedVoteTimeout (model : Fin 256)
  | fedResolve (path : Path)
  | sramEccError (place : EccPlace)
  | residueMismatch (lane : Fin 16)
  | controlCopyMismatch (which : CopyUnit) (parityFails : Option (Fin 2)) (facet : Option (Fin 16))
  | lockstepDivergence (pair : Fin 8)
  | lockstepResyncComplete (pair : Fin 8)
  | facetResume (path : Path)
  | backgroundSlot (task : Fin 6)
  | bgEnable (path : Path)
  | bgDisable (path : Path)
  | bgShutdownComplete (task : Fin 6)
  | fwLoad (path : Path)
  | fwLoadComplete (digestOk : Bool)
  | countsClear (path : Path)
  | binFilterWrite (path : Path)
  | triggerFire (path : Path)
  | traceUnfreeze (path : Path)
  | eventRecordAccept
  | rateWindowBoundary
  | powerFailWarning
  | supplyHealthy
  | operatingHour
  | pointCapChange (cap : Fin 4)
  | pointAck (current : Fin 4)
  | pointAckTimeout
  | facetGate (facet : Fin 16)
  | facetUp (facet : Fin 16)
  | facetUpTimeout (facet : Fin 16)
  | retainRequest
  | rsFlushAck
  | wakeComparator (index : Fin 8)
  | subWake (count : Nat)
  | wakeRequest
  | wakeCauseRead (path : Path)
  | aonPorAssert
  | drainAckFall (part : Fin 64)
  | pointAckFall
  | retainRequestWithdrawn
  | facetUpFall (facet : Fin 16)
  | windowRegisterWrite (offset : BitVec 16) (strb : BitVec 8) (data : Word64)
  | i3cPrivateRead
  | victimProposal (pair : Fin 8) (handles : List Word64)
  | tapInstruction (op : TapOp)
deriving DecidableEq, Repr

end Sys2Proof
end

