-- ==== Sys2Proof/Machine/Bits.lean ====
section
/-! DEFINITION. Bit fields, little-endian byte strings and the two CRCs. -/

namespace Sys2Proof.Machine

open Sys2Proof

/-- Field [hi:lo] of an unsigned number (R2). -/
def bits (n hi lo : Nat) : Nat := n / 2 ^ lo % 2 ^ (hi + 1 - lo)

/-- Little-endian value of a byte string (R2). -/
def leNat : List Byte → Nat
  | [] => 0
  | b :: r => b.toNat + 256 * leNat r

/-- The low `n` bytes of a number, little-endian (R2). -/
def leBytes : Nat → Nat → List Byte
  | 0, _ => []
  | n + 1, v => BitVec.ofNat 8 v :: leBytes n (v / 256)

/-- `n` bytes of a byte string from an offset; a byte past the end reads 0. -/
def slice (l : List Byte) (off n : Nat) : List Byte :=
  let t := (l.drop off).take n
  t ++ List.replicate (n - t.length) 0

/-- The little-endian field of `n` bytes at an offset. -/
def fieldAt (l : List Byte) (off n : Nat) : Nat := leNat (slice l off n)

/-- One bit step of a reflected CRC-32. -/
def crcBit (poly : BitVec 32) (c : BitVec 32) : BitVec 32 :=
  if c.getLsbD 0 then (c >>> 1) ^^^ poly else c >>> 1

/-- One byte of a reflected CRC-32. -/
def crcByte (poly : BitVec 32) (c : BitVec 32) (b : Byte) : BitVec 32 :=
  Nat.iterate (crcBit poly) 8 (c ^^^ b.setWidth 32)

/-- A reflected CRC-32 with initial value and final XOR 0xFFFF_FFFF. -/
def crc32 (poly : BitVec 32) (l : List Byte) : BitVec 32 :=
  l.foldl (crcByte poly) 0xFFFFFFFF ^^^ 0xFFFFFFFF

/-- CRC-32C (Castagnoli), R87. -/
def crc32c (l : List Byte) : BitVec 32 := crc32 0x82F63B78 l

/-- CRC-32 of IEEE 802.3, R159. -/
def crc32iso (l : List Byte) : BitVec 32 := crc32 0xEDB88320 l

/-- Number of set bits below 64. -/
def popcount (n : Nat) : Nat := ((List.range 64).filter fun i => n.testBit i).length

/-- The set bits below 64, ascending. -/
def setBits (n : Nat) : List Nat := (List.range 64).filter fun i => n.testBit i

/-- A number with one bit set. -/
def setBit (n i : Nat) : Nat := n ||| 2 ^ i

/-- A number with one bit clear. -/
def clearBit (n i : Nat) : Nat := if n.testBit i then n - 2 ^ i else n

/-- ceil(a / b). -/
def ceilDiv (a b : Nat) : Nat := (a + b - 1) / b

/-- A power of two. -/
def isPow2 (n : Nat) : Bool := n != 0 && n &&& (n - 1) == 0

/-- a − b modulo 2³² (R54). -/
def sub32 (a b : Nat) : Nat := (a + 2 ^ 32 - b % 2 ^ 32) % 2 ^ 32

/-- The elements of a list, each once, in order of first occurrence. -/
def distinct {α : Type} [DecidableEq α] (l : List α) : List α := l.foldl (fun acc x => if x ∈ acc then acc else acc ++ [x]) []

end Sys2Proof.Machine
end

