-- ==== Sys2Proof/Config.lean ====
section
/-! DEFINITION. What the integrator ties off or the manual leaves open: constants without a value, so that no proof can rest on one. -/

namespace Sys2Proof.Config

/-- The tie-off `mgt_pen` (R106). -/
opaque mgtPen : BitVec 32

/-- The tie-off behind RETAIN_WINDOW (0xA040). -/
opaque retainWindow : BitVec 64

/-- The tie-off `aon_rs_evt_mib`, whose value lies in 1 … 15 (Table 17.2); `evtMib` brings any constant into that range. -/
opaque evtMibRaw : Nat

/-- Size of the persistent event ring in MiB (Table 17.2). -/
def evtMib : Nat := 1 + evtMibRaw % 15

/-- Low 12 bits of an event code that the manual does not state (R394 gives only the family nibble). The argument tells the
events apart: the number of the rule that raises it, times sixteen, plus an ordinal within the rule. -/
opaque eventLow : Nat → BitVec 12

/-- Answers of the I3C target whose bytes the manual does not state (R106): PID, BCR, DCR and STATUS, by ordinal. -/
opaque i3cAnswer : Nat → List Byte

/-- The mandatory data byte of an in-band interrupt for a pending read, which the MCTP binding defines and the manual does not state (R106). -/
opaque pendingReadByte : BitVec 8

/-- Device part of IDCODE (R419): the manual states only that the manufacturer field is a tie-off. -/
opaque idcode : BitVec 32

/-- What a boundary, wrapper or BIST data register captures (R419: the test content is not in the manual). -/
opaque tapCapture : Nat → BitVec 32

/-- 64-bit words of all the block's SRAM, the W of the SCRUB task (Table 15.5 gives no figure). -/
opaque scrubWords : Nat

/-- EVENT_CATALOGUE (R394): the manual states only the form of its entries and four of the codes. -/
opaque eventCatalogue : List Byte

/-- A result the manual leaves without a value; the argument is a place and the operands it depends on. -/
opaque freeNat : Nat → Nat → Nat

end Sys2Proof.Config
end

