-- ==== Sys2Proof/Machine/State.lean ====
section
/-! DEFINITION. The state of the engine as plain data: every register, queue, buffer, counter and mode the manual gives the
block, the queue of commands that wait, and the state right after power-on. -/

namespace Sys2Proof.Machine

open Sys2Proof

/-- A sparse table: keys strictly rising in every table the machine builds (the operations are in Machine/Map.lean). -/
abbrev Map (α : Type) := List (Nat × α)

/-- Why a command stops the machine. No meaning of this model faults: the manual gives every command an effect. -/
inductive Fault where
  /-- An address outside the dictionary window's 32 KiB data buffer. Raised by nobody: the window's decoder never forms one. Safe. -/
  | badBufferAddress
deriving DecidableEq, Repr

/-- Why a command has no meaning. -/
inductive Refusal where
  /-- The command's row is not modelled yet; raised by an arm of exec only. Safe. -/
  | notModelled (mnemonic : String)
deriving DecidableEq, Repr

/-- Engine states (Table 5.8). -/
inductive EngState where
  | off | retain | start | config | operational | draining | quiesced | faultHold
deriving DecidableEq, Repr

/-- Facet states (Table 1.2). -/
inductive FacetState where
  | unassigned | standby | active | exclusive | draining | halted
deriving DecidableEq, Repr

/-- The five named marks (Table 2.2). -/
inductive Mark where
  | compose | pfetch | draft | capture | commit
deriving DecidableEq, Repr

/-- One value for each mark. -/
structure Marks where
  compose : Nat
  pfetch  : Nat
  draft   : Nat
  capture : Nat
  commit  : Nat
deriving DecidableEq, Repr

/-- Tessellator states of one facet (Table 8.2). -/
inductive TesState where
  | idle | scan | planned
deriving DecidableEq, Repr

/-- Position kinds (Table 8.1). -/
inductive PosKind where
  | decode | tree | prefill | score | vacated | draft
deriving DecidableEq, Repr

/-- Service classes; the order of the constructors is the code of Table 4.2, not the rank. -/
inductive Cls where
  | lc | be | dl
deriving DecidableEq, Repr

/-- Vertex states (Table 6.6, byte 8). A free slot has no entry in the Locus. -/
inductive SeqState where
  | deferred | prefill | decode | ended | migrating
deriving DecidableEq, Repr

/-- End reasons (Table 6.8). -/
inductive EndReason where
  | endToken | stop | length | cancel | deadline | migrated | jobError
deriving DecidableEq, Repr

/-- Version policies of a sequence (Table 6.1, byte 12). -/
inductive VPolicy where
  | follow | fixed | exact
deriving DecidableEq, Repr

/-- Sampling modes (Table 11.3). -/
inductive SampMode where
  | sample | greedy | score
deriving DecidableEq, Repr

/-- The 48-byte sampling block (Table 11.3). -/
structure Sampling where
  mode       : SampMode
  maskSlot   : Nat
  maskOn     : Bool
  maskInvert : Bool
  topK       : Nat
  temperature : BitVec 32
  topP       : Nat
  minP       : Nat
  repetition : BitVec 32
  frequency  : BitVec 32
  presence   : BitVec 32
  biasCount  : Nat
  biasAddr   : Nat
  scoreAddr  : Nat
deriving DecidableEq, Repr

/-- Speculation statistics (Table 12.3). -/
structure SpecStats where
  trees    : Nat
  accepted : Nat
  rate     : Nat
  last     : Nat
  misses   : Nat
  suspend  : Nat
  shape    : Nat
  shapeValid : Bool
deriving DecidableEq, Repr

/-- A vertex (Table 6.6). Its handle is made of the slot it lies in, its tenant, generation and origin (Table 6.5). -/
structure Vertex where
  tenant     : Nat
  generation : Nat
  origin     : Nat
  state      : SeqState
  endReason  : Option EndReason
  vslot      : Nat
  fallback   : Bool
  hostPool   : Bool
  shareReduced : Bool
  facet      : Nat
  generated  : Nat
  kvTokens   : Nat
  lastToken  : Nat
  reservedTok : Nat
  version    : Nat
  lastStep   : Nat
  projection : Nat
  btRoot     : Nat
  affinity   : Nat
  tag        : Word64
  seed       : Word64
  stream     : Word64
  deadline   : Nat
  start      : Nat
  admitted   : Nat
  model      : Nat
  cls        : Cls
  level      : Nat
  flags      : Nat
  vpolicy    : VPolicy
  topn       : Nat
  queue      : Nat
  promptLen  : Nat
  maxNew     : Nat
  stop       : List Nat
  sampling   : Sampling
  penalty    : List Nat
  spec       : SpecStats
  prefixLen  : Nat
  arrival    : Nat
deriving DecidableEq, Repr

/-- One leaf entry of a block table (Table 7.2). -/
structure PageRef where
  pool   : Nat
  page   : Nat
  isSealed : Bool
deriving DecidableEq, Repr

/-- One live sequence: its committed vertex and block table, the same with the open ledger's changes, and what LOC, PGM, DLM and
the sampler hold for it. `stale` keeps what the table's leaf lines in memory still hold at indices that map no page now: such an entry is
never written (R157). -/
structure Seq where
  com       : Vertex
  cur       : Vertex
  pagesCom  : List PageRef
  pagesCur  : List PageRef
  blocks    : List Nat
  stale     : Map Nat
  tokensCom : List Nat
  tokensCur : List Nat
  prompt    : List Nat
  given     : List Nat
  bias      : List (Nat × BitVec 32)
  hot       : Bool
  lastPlaced : Nat
  moving    : Bool
  migrateAsked : Bool
  cancelAsked : Option EndReason
  urgent    : Bool
  missSeen  : Bool
  resQueue  : List (Nat × Nat)
  resRing   : List (Nat × Nat)
  recordReady : Bool
  lastEntry : Option Nat
deriving DecidableEq, Repr

/-- A draft tree (Tables 12.1 and 12.2): `parents` holds p(1) … p(T); `toks` the draft tokens (none while undecided); `voids`
the void nodes; `draftSlot` and `draftVersion` the draft model's slot and version fixed at composition (R295). -/
structure Tree where
  parents   : List Nat
  shapeId   : Nat
  base      : Option Nat
  treePos   : Nat
  draftPos  : Nat
  draftModel : Nat
  draftSlot : Nat
  draftVersion : Nat
  toks      : List (Option Nat)
  voids     : List Nat
deriving DecidableEq, Repr

/-- One sequence's place in a plan: `first` is its lowest position index and `count` its positions, `start` the sequence position of
its first input, `isOpen` that its result is still to be recorded, and `noKv` that the sequence's KV has been reset since, so that
recording the result adds no KV. -/
structure Place where
  slot     : Nat
  part     : Nat
  kind     : PosKind
  first    : Nat
  count    : Nat
  start    : Nat
  tokenNum : Nat
  endsPrompt : Bool
  model    : Nat
  vslot    : Nat
  version  : Nat
  reserved : Nat
  isOpen   : Bool
  noKv     : Bool
  tree     : Option Tree
deriving DecidableEq, Repr

/-- What has become of a position. -/
inductive PosStatus where
  | planned | awaiting | complete | decided | vacated | released
deriving DecidableEq, Repr

/-- One position of a plan (Table 8.5). -/
structure Pos where
  index    : Nat
  slot     : Nat
  part     : Nat
  kind     : PosKind
  needs    : Bool
  tokenNum : Nat
  node     : Nat
  model    : Nat
  vslot    : Nat
  version  : Nat
  status   : PosStatus
deriving DecidableEq, Repr

/-- A plan: the complete composition of one step (R173 to R187). `doneIds` names the commands completed OK, `frozen` that `M_DRAFT` has
released its DRAFT commands, `argsNext` the next free byte of its half of the argument region, `listsSent` that its KV lists have been written, `bins` the EXPERT
commands whose bins are built, with address and length (0 for an empty wave) of their argument blocks, and `exits` the early exits
reported: 64 × block + node, the EXIT entry, the address of the active list written for it, and the positions it removed. -/
structure Plan where
  step      : Nat
  places    : List Place
  positions : List Pos
  charge    : Nat
  carry     : Bool
  tags      : List Nat
  doneIds   : List Nat
  frozen    : Bool
  argsNext  : Nat
  listsSent : Bool
  bins      : List (Nat × Nat × Nat)
  exits     : List (Nat × Nat × Nat × List Nat)
deriving DecidableEq, Repr

/-- The unit that Table 15.1 names for masking. -/
inductive FaultUnit where
  | unnamed | part (p : Nat) | lane (n : Nat) | bank (n : Nat) | pair (n : Nat)
deriving DecidableEq, Repr

/-- A fault found by the command being carried out: its facets, the unit it names, and whether it is permanent (Table 15.1). -/
structure FaultRec where
  facets    : List Nat
  unit      : FaultUnit
  permanent : Bool
deriving DecidableEq, Repr

/-- Charges of one account (Table 13.7, bytes 32–119). -/
structure Charges where
  tokens  : Nat
  prefill : Nat
  score   : Nat
  spec    : Nat
  tileCc  : Nat
  busy    : Nat
  bytes   : Nat
  energy  : Nat
  memBytes : Nat
  ctxBytes : Nat
deriving DecidableEq, Repr

/-- The open ledger of a facet (R19), beside the changes held in the sequences' `cur` parts. -/
structure Ledger where
  charges : Map Charges
  moves   : Map Nat
  results : List (Nat × Nat)
  emitted : List (Nat × Nat)
deriving DecidableEq, Repr

/-- One facet: its state, phase, marks, composition, plans and open ledger. Its mode is 0x5001 of the dictionary; `modePlan` is the mode
that the last composition to begin was made in, and `modeRun` the mode of the step that runs (R18); `idleSinceNs` is the stamp since which it has met a condition of R410; `reproj` holds the slots that the running re-projection has
still to visit (R302). -/
structure Facet where
  state      : FacetState
  step       : Nat
  phase      : Nat
  marks      : Marks
  setPending : Bool
  setReady   : Bool
  fired      : List Mark
  stepRuns   : Bool
  phaseNs    : Nat
  stallLogged : Bool
  stallFaulted : Bool
  tes        : TesState
  composeCc  : Nat
  composing  : Option Plan
  plans      : List Plan
  entryPlan  : Bool
  ledger     : Ledger
  stepBegins : List Nat
  energies   : List Nat
  positionsRun : List Nat
  stepEnergy : Nat
  raiseRun   : Nat
  recovering : Bool
  reSeek     : Bool
  episode : List FaultUnit
  shared     : Bool
  lastFaultStep : Option Nat
  stopAtCommit : Bool
  noPlacing  : Bool
  alternating : Bool
  idleSinceNs : Option Nat
  waitingUp  : Option FacetState
  upSinceNs  : Nat
  proposal   : Nat × Nat
  pinnedParts : Map Nat
  pinnedOn   : Bool
  sliceEndNs : Option Nat
  modePlan   : Nat
  modeRun    : Nat
  reproj     : List Nat
deriving DecidableEq, Repr

/-- Partition dispatch states (Table 9.3). -/
inductive PartState where
  | closed | opened | interrupting | preempting | held | masked
deriving DecidableEq, Repr

/-- One command window of a partition (Table 16.2). -/
structure CmdWindow where
  tag     : Nat
  status  : Nat
  layer   : Nat
  operator : Nat
  span    : Nat
  unit    : Nat
  busy    : Nat
  stalled : List Nat
  idle    : Nat
  fabric  : Nat
  endNs   : Nat
  startCc : Nat
deriving DecidableEq, Repr

/-- One partition as DSP and CTX see it. `ready` holds its READY descriptors in FCFS order, `sent` the outstanding commands in order
of transfer, and `ghosts` the commands the fabric still holds that are outstanding no more: retired (false), or past their watchdog or on
a masked partition (true). `ctxBusy` is 1 while a SAVE is outstanding and 2 while a RESTORE is, for the context `ctxId` of slot `ctxSlot`;
`holds` is the slot of the context whose state the partition keeps, 3 for none (R309, R310). A `resident` of 0x10000 stands for the
context of a job whose header has not been read (R223). -/
structure Part where
  state    : PartState
  credits  : Nat
  resident : Nat
  intReq   : Bool
  preReq   : Bool
  ack      : Bool
  acked    : Bool
  reqNs    : Nat
  ready    : List Nat
  sent     : List Nat
  ghosts   : List (Nat × Bool)
  ctxBusy  : Nat
  ctxNs    : Nat
  ctxSlot  : Nat
  ctxId    : Nat
  holds    : Nat
  live     : Option CmdWindow
  latched  : Option CmdWindow
  closedWindows : Nat
deriving DecidableEq, Repr

/-- Descriptor states other than FREE (R206). -/
inductive DescState where
  | waiting | delayed | ready | dispatched | suspended
deriving DecidableEq, Repr

/-- Who owns a descriptor (Table 9.1). -/
inductive Owner where
  | plan | copy | job
deriving DecidableEq, Repr

/-- A task descriptor that is not FREE (Table 9.1). `kind` is the code of Table 4.2, or 8 for GATE. -/
structure Desc where
  state    : DescState
  owner    : Owner
  facet    : Nat
  part     : Nat
  kind     : Nat
  cls      : Cls
  level    : Nat
  counter  : Nat
  layer    : Nat
  operator : Nat
  tenant   : Nat
  context  : Nat
  model    : Nat
  vslot    : Nat
  args     : Nat
  argsLen  : Nat
  succ     : List Nat
  step     : Nat
  delay    : Option (Nat × Nat)
  readyCc  : Nat
  bypass   : Nat
  entry    : Nat
  opClass  : Nat
  wave     : Nat
  waitTok  : List Nat
  node     : Nat
  urgentJob : Bool
  sentNs   : Nat
  sentNo   : Nat
  expired  : Bool
  retireOnRecord : Bool
  cmdId    : Nat
  active   : Option (List Nat)
deriving DecidableEq, Repr

/-- One completion record (Table 4.3). -/
structure Record where
  part   : Nat
  facet  : Nat
  status : Nat
  tag    : Nat
  busy   : Nat
  bytes  : Nat
  energy : Nat
deriving DecidableEq, Repr

/-- A record in the completion funnel, with its class and level and the cc in which it was appended (R79). -/
structure FunnelEntry where
  record : Record
  cls    : Cls
  level  : Nat
  since  : Nat
deriving DecidableEq, Repr

/-- Kinds of second pass (R271). -/
inductive Pass where
  | nucleus (n : Nat) | hull
deriving DecidableEq, Repr

/-- One entry of the sampler's position store (Table 11.2). `acc` and `accF` hold the 65 band sums; `done`
marks an entry whose results are recorded, which is free from the next cc on (R249). -/
structure PosEntry where
  facet    : Nat
  step     : Nat
  position : Nat
  slot     : Nat
  zqmax    : Int
  acc      : List Nat
  accF     : List Int
  hull     : List (Int × Nat × Int)
  overflow : Bool
  cands    : List (Int × Nat)
  count    : Nat
  given    : Option (Nat × Option Int)
  nonfinite : Bool
  tiles    : List Nat
  complete : Bool
  pass     : Option Pass
  passTiles : List Nat
  lowest   : Option (Int × Nat)
  nucleus  : Option Nat
  nucleusLast : Option (Int × Nat)
  best     : Option (Int × Nat)
  done     : Bool
deriving DecidableEq, Repr

/-- One replay request outstanding at the logit hold, whether a CRC mismatch is why, and its stamp (R88, R91). -/
structure ReplayReq where
  facet    : Nat
  step     : Nat
  position : Nat
  first    : Nat
  last     : Nat
  crc      : Bool
  sinceNs  : Nat
deriving DecidableEq, Repr

/-- A token entry (Table 4.12), with the key that commands wait on for it (R187, R285). -/
structure TokenEntry where
  facet    : Nat
  step     : Nat
  position : Nat
  token    : Nat
  pad      : Bool
  key      : Nat
deriving DecidableEq, Repr

/-- Purposes of the memory port (Table 3.10); the constructor's place plus one is the sub-index. -/
inductive Purpose where
  | ring | page | locus | fed | event | exper | start | account | trace
deriving DecidableEq, Repr

/-- What waits on a memory access. -/
inductive MemUse where
  /-- The record of an admission decision; its OKAY advances c of the ring. -/
  | admissionRecord (ring : Nat)
  /-- The vertex of an admission; its OKAY lets the record be written, for the ring (none: disabled since) and at the address of its entry. -/
  | admissionVertex (ring : Option Nat) (slot : Nat) (addr : Nat) (record : List Byte)
  /-- The entry that ADM reads; the prompt, and the prefix-index and token-record lines, of the admission under way. -/
  | admissionRead (ring : Nat)
  | promptRead
  | walkRead
  /-- The lines of a vertex that LOC fills. -/
  | vertexRead (facet : Nat) (slot : Nat)
  /-- Delivery entry of a queue, at free-running index `index`. -/
  | deliveryEntry (queue : Nat) (index : Nat)
  /-- Header of a queue that publishes `k`. -/
  | queueHeader (queue : Nat) (k : Nat)
  /-- Header of a queue whose counts are rebuilt, with the two copies of C (R145). -/
  | queueRebuild (queue : Nat) (c0 : Nat) (c1 : Nat)
  /-- Journal entry, seal, or table line of a facet's committed ledger. -/
  | journalEntry (facet : Nat) (step : Nat)
  | journalSeal (facet : Nat)
  | tableLine (facet : Nat)
  /-- A write that descriptors wait on: step block, argument block, active list (source 2), KV list (source 3). -/
  | stepWrite (facet : Nat) (tags : List Nat)
  | kvList (facet : Nat) (tags : List Nat)
  /-- Bias list of a slot, and given tokens `first` on of a score sequence (R253). -/
  | biasRead (facet : Nat) (slot : Nat) (tags : List Nat)
  | givenRead (facet : Nat) (slot : Nat) (first : Nat) (count : Nat) (tags : List Nat)
  /-- A leaf entry that completes a page move. -/
  | moveLeaf (slot : Nat) (index : Nat)
  | experience (ring : Nat) (index : Nat)
  | experienceCount (ring : Nat)
  | accountRecord (tenant : Nat)
  | telemetry (facet : Nat) (urgent : Bool)
  | learnHeader (facet : Nat) (urgent : Bool)
  | updatePart (facet : Nat) (urgent : Bool)
  | eventRecord (seq : Nat)
  | traceRecord (index : Nat)
  | fedFrame
  | fedCount
  /-- The consumed count of the federation's in ring. -/
  | fedIn
  /-- The in ring's header and units (R355), and a vertex that the flip walk reads (R336). -/
  | fedPoll
  | fedUnits
  | flipRead (facet : Nat) (model : Nat) (slot : Nat)
  | contextRecord (facet : Nat)
  | graphRead (facet : Nat) (urgent : Bool)
  | startRead
  | other
deriving DecidableEq, Repr

/-- A memory request (Table 3.9): outstanding on its channel, or in MOV's queue while the channel is full. `addr` is the address of
its first beat; the byte enables of a write cover `data`, from byte `lead` of the first beat on. -/
structure MemReq where
  channel : Nat
  tag     : Nat
  write   : Bool
  addr    : Nat
  beats   : Nat
  lead    : Nat
  data    : List Byte
  purpose : Purpose
  qos     : Nat
  cls     : Nat
  ways    : Nat
  tenant  : Option Nat
  use     : MemUse
  retried : Bool
  sinceNs : Nat
  expired : Bool
  fails   : Nat
  reissueNs : Option Nat
deriving DecidableEq, Repr

/-- The memory port and MOV's queue in order of arrival (R59 to R68), the failed committed writes that wait to be issued again, the
purpose served last on each channel at each QoS value (key 16 × channel + QoS), and what capped purposes have moved of late: stamp in ns,
sub-index, bytes (R65). -/
structure MemPort where
  out   : List MemReq
  queue : List MemReq
  failed : List MemReq
  served : Map Nat
  moved : List (Nat × Nat × Nat)
deriving DecidableEq, Repr

/-- A submission ring (R117): what ADM keeps beside its dictionary fields. `entry` is entry c once its read has OKAY; `deciding` says that
ADM is past check 6 on it, or that its record is on its way; `toRead`, that a doorbell was latched in this cc (R56). -/
structure Ring where
  consumed : Nat
  latched  : Nat
  hold     : Nat
  deciding : Bool
  entry    : Option (List Byte)
  readFailNs : Option Nat
  offCc    : Option Nat
  toRead   : Bool
deriving DecidableEq, Repr

/-- The admission that ADM has under way, past check 6 (R121, R160, R424): its ring (none: a FORWARD message, whose header `message` holds), the
entry, the version slot that check 3 pinned, the rate window of check 6, the prompt's tokens as far as they have been read, and, once the whole
prompt is there, the pages on which the walk has taken references. -/
structure Trial where
  ring    : Option Nat
  message : List Byte
  entry   : List Byte
  slot    : Nat
  window  : Nat
  prompt  : List Nat
  walk    : Option (List PageRef)
deriving DecidableEq, Repr

/-- ADM: the admission under way, and the FORWARD and LIVE messages that wait for it to end. -/
structure Adm where
  trial    : Option Trial
  messages : List (List Byte)
deriving DecidableEq, Repr

/-- ADM's service of the rings (R119): the ring whose turn it is, the entries decided in the turn, and the ring last served of each class
(by rank). -/
structure RingTurn where
  ring  : Option Nat
  count : Nat
  last  : Map Nat
deriving DecidableEq, Repr

/-- A token delivery queue (R140): its four counts, its arm bit and the K of a header write in flight. -/
structure Queue where
  w : Nat
  k : Nat
  m : Nat
  c : Nat
  armed : Bool
  publishing : Option Nat
  migReserved : Nat
deriving DecidableEq, Repr

/-- One page of a pool (Table 7.1) with its token record. -/
structure PageInfo where
  refs   : Nat
  key    : Nat
  tokens : List Nat
  listed : Bool
deriving DecidableEq, Repr

/-- A pool. Its free list is `front`, then the pages from `fresh` up that have never been used, then `freed`; `cached` is the cached
list. -/
structure Pool where
  info    : Map PageInfo
  front   : List Nat
  fresh   : Nat
  freed   : List Nat
  cached  : List Nat
  minFree : Option Nat
  crossings : Nat
deriving DecidableEq, Repr

/-- A prefix-index entry (Table 7.3), with its place 0 to 3 in its bucket. -/
structure PrefixEntry where
  place : Nat
  key   : Nat
  pool  : Nat
  page  : Nat
  order : Nat
deriving DecidableEq, Repr

/-- A page move in progress (R166). -/
structure Move where
  slot   : Nat
  index  : Nat
  source : Nat × Nat
  dest   : Nat × Nat
  tag    : Nat
  isRecall : Bool
deriving DecidableEq, Repr

/-- A page copy that waits for a descriptor (R209): the home facet, the slot and page index, and whether it is a recall. -/
structure CopyWait where
  facet  : Nat
  slot   : Nat
  index  : Nat
  isRecall : Bool
deriving DecidableEq, Repr

/-- KV page management: pools, block-table region, prefix index, moves, and the copies that wait to start. -/
structure Pages where
  pools    : Map Pool
  blocksFresh : Nat
  blocksFreed : List Nat
  index    : List PrefixEntry
  inserts  : Nat
  moves    : List Move
  waits    : List CopyWait
  victims  : List Word64
deriving DecidableEq, Repr

/-- Job states (Table 9.7). -/
inductive JobState where
  | idle | pending | loading | running | teardown | ended
deriving DecidableEq, Repr

/-- A node of a job graph (Table 9.6). -/
structure JobNode where
  operator : Nat
  layer    : Nat
  kind     : Nat
  part     : Nat
  deps     : Nat
  args     : Nat
  argsLen  : Nat
  succ     : List Nat
  delay    : Option (Nat × Nat)
deriving DecidableEq, Repr

/-- A job of a facet (slot 1, or slot 2 for an urgent job), and the attempt VFN holds for its iteration: `sums` holds the exact sums
of squares Σw², Σg² and Σu² per layer ordinal, in units of 2^−149, and `bad` the first value that is not finite (layer ID, stamp).
`succs` is S of the graph's header; `retained` the flag of the iteration's attempt block, and `retains` that of the next one (R342). -/
structure Job where
  state     : JobState
  result    : Nat
  iteration : Nat
  errorNode : Nat
  nodes     : List JobNode
  iterations : Nat
  tenant    : Nat
  cls       : Cls
  level     : Nat
  model     : Nat
  context   : Nat
  parts     : List Nat
  sems      : List (Nat × Nat × Nat)
  offload   : List (Nat × Nat × Nat)
  learnSent : Map Nat
  loaded    : Bool
  tags      : List Nat
  gateTag   : Option Nat
  gateReady : Bool
  graphOk   : Bool
  cause     : Nat
  suspended : Bool
  sliceIters : Nat
  yielded   : Bool
  gateTimes : List Nat
  headerOk  : Bool
  updateOk  : Bool
  learnLeft : Nat
  holdsShadow : Bool
  retained  : Bool
  retains   : Bool
  succs     : Nat
  resume    : Bool
  telemetryOk : Bool
  nextHeaderOk : Bool
  decision  : Option Nat
  acquired  : Option Nat
  sums      : Map (Nat × Nat × Nat)
  bad       : Option (Nat × Nat)
deriving DecidableEq, Repr

/-- A switch of a facet between contexts (R310): slots and contexts, whether the incoming context may be restored, the partitions whose
release is still to come, and the tenant charged. Whether a partition's context is saved follows from the one it holds. -/
structure Switch where
  outSlot : Nat
  inSlot  : Nat
  outCtx  : Nat
  inCtx   : Nat
  restore : Bool
  waiting : List Nat
  charge  : Nat
deriving DecidableEq, Repr

/-- A semaphore waiter (R320). -/
structure Waiter where
  facet   : Nat
  urgent  : Bool
  context : Nat
  cls     : Cls
  level   : Nat
  cc      : Nat
  tag     : Nat
deriving DecidableEq, Repr

/-- A semaphore: its holder, its waiters in request order, and the donation for it, if one runs. -/
structure Sem where
  holder   : Option (Nat × Bool × Nat)
  waiters  : List Waiter
  donation : Option Nat
deriving DecidableEq, Repr

/-- Who asked for a version slot (R337). -/
inductive Requester where
  | load | attempt (facet : Nat) (urgent : Bool)
deriving DecidableEq, Repr

/-- A federation round of a model (R357): its votes as verdict + 4 × proposed version + 2^34 × digest, the verdict sent once the
aggregate was final, the job whose attempt it is for, and the stamp of the engine's own verdict or of its last VOTE. -/
structure Round where
  attempt : Nat
  own     : Option Nat
  job     : Nat × Bool
  sinceNs : Nat
  votes   : List (Nat × Nat)
  sent    : Bool
  verdict : Nat
  proposed : Nat
  digest  : Nat
deriving DecidableEq, Repr

/-- What VFN holds for a model beside its dictionary entries: the slot request, its stamp and whether its staleness budget has passed, the slots
that the flip walk has still to visit (R336), the layer exponents, the federation round and the most recent decisions (attempt, and a vote's coding). -/
structure Learner where
  layerExp : Map Int
  request  : Option Requester
  requestNs : Nat
  stale    : Bool
  walk     : List Nat
  shadowQueue : List (Nat × Bool)
  shadowOf : Option (Nat × Bool)
  topVersion : Nat
  keptVoids : Nat
  round    : Option Round
  decided  : List (Nat × Nat)
deriving DecidableEq, Repr

/-- A delay-list entry (Table 2.4), the cc of its insertion, and whether it has fallen due at a step begin (R44, R45). -/
structure DelayEntry where
  key     : Nat
  kind    : Nat
  payload : Nat
  sinceCc : Nat
  atBegin : Bool
deriving DecidableEq, Repr

/-- One delay list and its reservations (R220). -/
structure DelayList where
  entries  : List DelayEntry
  reserved : Nat
deriving DecidableEq, Repr

/-- What is known of an event as it is raised: family, code, severity, sub-unit, facet, partition and detail bytes. -/
structure Ev where
  fam    : Nat
  code   : BitVec 16
  sev    : Nat
  unit   : Nat
  facet  : Option Nat
  part   : Option Nat
  detail : List Byte
deriving DecidableEq, Repr

/-- An event record in EVR (Table 16.6), with its snapshot (empty where none is attached), the sequence number of its first snapshot
part, and whether each destination it is due at still waits for it. -/
structure EventRec where
  seq      : Nat
  code     : BitVec 16
  stamp    : Nat
  severity : Nat
  summary  : Bool
  snap     : List Byte
  partSeq  : Nat
  unit     : Nat
  facet    : Option Nat
  part     : Option Nat
  count    : Nat
  step     : Nat
  detail   : List Byte
  dueMem   : Bool
  duePersist : Bool
deriving DecidableEq, Repr

/-- A code tracked in the rate-limit window: its first occurrence, those logged and those suppressed (R398). -/
structure RateEntry where
  first  : Ev
  logged : Nat
  suppressed : Nat
deriving DecidableEq, Repr

/-- The event recorder (R394 to R403). `rateNs` lies in the present rate-limit window and `rateMs` is its length, `closed` holds what windows that
have ended leave to be summed up, with the stamp of their end, and `raised`
lists the occurrences of the command being carried out, in the order raised. -/
structure Events where
  raised  : List Ev
  intake  : List EventRec
  buffer  : List EventRec
  rates   : List RateEntry
  rateMs  : Nat
  rateNs  : Nat
  closed  : List (RateEntry × Nat)
  lostIntake : Nat
  lostOver : Nat
  takenCc : Option Nat
  stopBelowS4 : Bool
  persistRing : List (List Byte)
  notice  : Nat
deriving DecidableEq, Repr

/-- The trace writer (R388 to R393) and the cumulative state counts (R384): the code each counted unit was in at the last cc, the cc
it entered that state, the counts (key 16 × unit + code), the units that have advanced work in this cc, and the
number of records before its trigger that the frozen window holds (R393). `made` and `fired` hold the
records (type, sub-unit, facet, payload) and the trigger firings of the command being carried out. -/
structure Trace where
  buffer   : List (Nat × List Byte)
  dropped  : Nat
  dropStamp : Nat
  dropCause : Nat
  gapIndex : Option Nat
  gapCount : Nat
  gapWritten : Nat
  gapStamp : Nat
  frozenPre : Nat
  unitState : Map Nat
  unitSince : Map Nat
  unitCounts : Map Nat
  busy    : List Nat
  made    : List (Nat × Nat × Option Nat × List Byte)
  fired   : List Nat
deriving DecidableEq, Repr

/-- One background task (Table 15.5): its state (0 OFF, 1 RUNNING, 2 DRAINING), a pending enable, whether it takes its unit's guaranteed
slots (R375), t0, the units done since, and the number
of periods whose end the engine has looked at while the task was OFF (R376). -/
structure Task where
  state   : Nat
  pending : Bool
  turn    : Bool
  sinceNs : Nat
  done    : Nat
  warned  : Nat
deriving DecidableEq, Repr

/-- What one accounting record is to cover: charges, periods, and wall ns at its start and end (Table 13.7). -/
structure AcctRec where
  charges : Charges
  periods : Nat
  start   : Nat
  stop    : Nat
deriving DecidableEq, Repr

/-- Accounting (R325 to R328): the accumulators of the current period, the accounts whose records wait, the record on its way to memory,
the start and length of the current period, whether a period has ended whose flush has not begun, and the number of the next record. -/
structure Account where
  accounts : Map Charges
  flushing : Map AcctRec
  posted   : Option (Nat × AcctRec)
  startNs  : Nat
  periodMs : Nat
  due      : Bool
  record   : Nat
deriving DecidableEq, Repr

/-- The I3C target and the MCTP reassembly (R106, R107): the message under assembly (source, tag, sequence number of the next packet,
bytes so far), the requests not yet answered (the cc in which each was complete, tag + 8 × source, DDP bytes), and the packets of
responses that wait to be read. -/
structure Side where
  address  : Nat
  ibiOn    : Bool
  mrl      : Nat
  mwl      : Nat
  rstAct   : Nat
  assembling : Option (Nat × Nat × Nat × List Byte)
  requests : List (Nat × Nat × List Byte)
  responses : List MctpPacket
deriving DecidableEq, Repr

/-- A DOMAIN snapshot of a path: entry key, bytes, stamp in ns (R105). -/
structure Snap where
  key   : Nat
  bytes : List Byte
  ns    : Nat
deriving DecidableEq, Repr

/-- Interrupt vectors (R58): high in this cc, high in the cc before, and carried to the next cc. -/
structure Irq where
  now   : Nat
  prev  : Nat
  carry : Nat
deriving DecidableEq, Repr

/-- Core wall time (R39): g, the cc since the last tick seen, `prev`, the floor of the last µs evaluated (R40), the increment, and the clock
point in MHz that the rules use in this cc (R409). -/
structure Clock where
  g     : Nat
  n     : Nat
  prev  : Nat
  us    : Nat
  inc   : Nat
  mhz   : Nat
deriving DecidableEq, Repr

/-- Input and output levels of the target, always-on, dispatch and logit ports that the block holds or samples. `rspReady` is
`hcp_rsp_ready` (Table 3.1). -/
structure Pins where
  pointReq  : Nat
  pointCap  : Nat
  pointCur  : Nat
  pointAck  : Bool
  pointReqNs : Nat
  pointLogged : Bool
  facetUp   : Nat
  retReq    : Bool
  retAck    : Bool
  rsFlush   : Bool
  rstLow    : Bool
  rspReady  : Bool
deriving DecidableEq, Repr

/-- What a transfer on an output port carried. The transfers of the last command are listed in `Hw.out`. -/
inductive PortOut where
  /-- A command on the fabric dispatch port (Table 4.2). -/
  | command (part facet kind tag layer operator tenant : Nat) (cls : Cls) (level context model vslot step args argsLen : Nat)
  /-- A context request (Table 4.7): op, partition, context, address, units. -/
  | context (save : Bool) (part context addr units : Nat)
  /-- A replay request and a release on the logit stream port (Table 4.11). -/
  | replay (facet step position first last : Nat)
  | release (facet step first count : Nat)
  | token (entry : TokenEntry)
  /-- A read response on the target port: tag, data, status code. -/
  | response (tag : BitVec 8) (data : Word64) (status : Nat)
  /-- A DDP response message, the in-band interrupt that announces a pending packet with its mandatory data byte, and a packet that the controller reads. -/
  | ddp (bytes : List Byte)
  | ibi (dataByte : Byte)
  | packet (packet : MctpPacket)
  /-- The answer to an I3C common command. -/
  | i3c (bytes : List Byte)
  /-- The reply to a policy core's Helix request. -/
  | helix (w0 w1 : Word64) (u0 u1 : Option (BitVec 32))
  /-- A write of the retention store: area and byte count. -/
  | retention (area bytes : Nat)
  /-- The TAP's captured data register. -/
  | tap (dr : BitVec 32)
  /-- A timer handed to firmware or to the engine by a delay list. -/
  | timer (kind payload : Nat)
  /-- The refusal FULL of a delay-list insertion, to its requester (R45). -/
  | delayFull (list kind payload : Nat)
deriving DecidableEq, Repr

/-- The engine-wide state machine (R109 to R112). -/
structure Eng where
  state    : EngState
  pendingTarget : Option EngState
  drainNs  : Nat
  limitHit : Bool
  powerFail : Bool
  pfNs     : Nat
deriving DecidableEq, Repr

/-- Sampler state beside the dictionary: the position store, the tiles discarded so far of vacated positions (facet, step, position, tile
keys), replay requests, the token return queue, mask slots, the largest hull since its read, per lane the facets with tiles reduced on
it since its last passing check (R244), and the tiles that lanes offer and hold (R241, R249). -/
structure Sampler where
  store   : List PosEntry
  vacant  : List (Nat × Nat × Nat × List Nat)
  replays : List ReplayReq
  tokens  : List TokenEntry
  masks   : Map (List Byte)
  hullMax : Nat
  laneFacets : Map Nat
  held    : Map Word64
deriving DecidableEq, Repr

/-- A migration whose MIGRATED entry has not committed (R146 to R148): its message, the queue that keeps a place for the entry, the sequence's
slot and handle (none and 0 for a forwarded submission), the engine the message went to, the stamp of the message, and, once the migration is over,
the remote handle, the remote engine and the outcome that the entry carries. -/
structure Migration where
  msgId : Nat
  queue : Nat
  slot  : Option Nat
  handle : Nat
  dest  : Nat
  sinceNs : Nat
  reply : Option (Nat × Nat × Nat)
deriving DecidableEq, Repr

/-- Federation rings and migration (R146 to R148, R354 to R359). `outOff` and `inOff`: the ring is disabled by a DECERR (Table 3.11).
`inProduced`: the in ring's produced count as last read; `inData`: what has been read of its units from `consumed` on; `polling`: a poll is under
way; `pollNs`: the stamp of the last one (R355). -/
structure Fed where
  produced : Nat
  consumed : Nat
  outRead  : Nat
  waitingOut : List (List Byte)
  outOff   : Bool
  inOff    : Bool
  inProduced : Nat
  inData   : List Byte
  polling  : Bool
  pollNs   : Nat
  nextMsg  : Nat
  migrations : List Migration
deriving DecidableEq, Repr

/-- Policy-core pairs (R369): resync stamps in ns, and whether a resync runs. -/
structure Pair where
  resyncing : Bool
  stamps    : List Nat
deriving DecidableEq, Repr

/-- A line of a table in memory: its address, its bytes, and the tenant the write is made for, if it is made for one (R64). -/
structure Line where
  addr   : Nat
  data   : List Byte
  tenant : Option Nat
deriving DecidableEq, Repr

/-- One committed step on its way to memory (R373): its step number, the journal offset of its first entry, its lines, the queue pairs of its seal, how far it has come (0 entries written, 1 seal written, 2 lines written to their tables), and the
sequences as they were before the commit, for a start that finds no seal. -/
structure JGroup where
  step   : Nat
  first  : Nat
  lines  : List Line
  pairs  : List (Nat × Nat)
  stage  : Nat
  before : List (Nat × Option Seq)
deriving DecidableEq, Repr

/-- A facet's commit journal (R373): the offset of the next entry, the applied pointer, and the steps not yet applied, oldest first. -/
structure Journal where
  next    : Nat
  applied : Nat
  groups  : List JGroup
deriving DecidableEq, Repr

/-- Everything of the core island. `budgetNs` is the stamp at which the tokens used were last set to 0 (R132). `imageLive`: the store's P image is one that this start has restored or written (R99, R101). `descDone` names the facet of each FREE descriptor that completed and has not been taken again, those
that were retired left out (R208, R213). `ccNext` is the least rank of a command that may still join the present cc (Machine/Tick.lean); `ccSnap` is the
snapshot as it stood when the cc began, where a rule may ask for one (R396);
`hostReads` holds the responses of the target port not yet transferred: tag, data and status (R48); `faults` lists the faults that the
command being carried out has found. -/
structure Hw where
  cc      : Nat
  ccNext  : Nat
  ccOnce  : List Nat
  ccSnap  : List Byte
  clk     : Clock
  eng     : Eng
  pins    : Pins
  od      : Map Nat
  dom     : Map (List Byte)
  imageLive : Bool
  snaps   : Map Snap
  staged  : Map Snap
  side    : Side
  irq     : Irq
  events  : Events
  trace   : Trace
  rings   : Map Ring
  turn    : RingTurn
  queues  : Map Queue
  seqs    : Map Seq
  gens    : Map Nat
  arrival : Nat
  slotsFront : List Nat
  slotsFresh : Nat
  slotsFreed : List Nat
  adm     : Adm
  windows : Map (List (Nat × Nat))
  budgetNs : Nat
  facets  : Map Facet
  parts   : Map Part
  descs   : Map Desc
  descFresh : Nat
  descFreed : List Nat
  descDone : Map Nat
  lastPart : Nat
  funnel  : List FunnelEntry
  reports : Map (List (List Byte))
  delays  : Map DelayList
  mem     : MemPort
  smp     : Sampler
  pages   : Pages
  jobs    : Map Job
  switches : Map Switch
  images  : List (Nat × Nat)
  ctxRecords : Map (List Byte)
  sems    : Map Sem
  learners : Map Learner
  routers : Map (List (Nat × Nat × Nat))
  secUsed : Nat
  acct    : Account
  tasks   : Map Task
  pairs   : Map Pair
  fed     : Fed
  journal : Map Journal
  engineSeedUsed : Nat
  expRings : Map (Nat × Nat)
  expReadNs : Map Nat
  hostReads : List (BitVec 8 × Word64 × Nat)
  faults  : List FaultRec
  out     : List PortOut
deriving DecidableEq, Repr

/-- Outcome codes of a start step (Table 15.7). -/
structure StepLog where
  outcome : Nat
  way     : Nat
  detail  : Nat
deriving DecidableEq, Repr

/-- A start ledger, one start (Table 15.7). -/
structure StartLedger where
  number : Nat
  stamp  : Nat
  cause  : Nat
  result : Nat
  failed : Nat
  steps  : List StepLog
deriving DecidableEq, Repr

/-- A P image (R101): the dictionary layout version, the values, the DOMAIN values, and the CRC-32C over them. -/
structure PImage where
  layout : Nat
  values : Map Nat
  domains : Map (List Byte)
  crc    : Nat
deriving DecidableEq, Repr

/-- A record of the Gnomon area (R102), with its CRC-32C. -/
structure KeptRecord where
  values : Map Nat
  crc    : Nat
deriving DecidableEq, Repr

/-- What the engine has written to the retention store (Table 17.5): P image, mask record, counter record, ledgers, the Gnomon's counts,
and the power-fail record: warnings, stamp of the last, and the µs its sequence took. -/
structure Retention where
  image    : Option PImage
  masks    : Option KeptRecord
  counters : Option KeptRecord
  ledgers  : List StartLedger
  hourTicks : Nat
  hours    : Nat
  cycles   : Nat
  warnings : Nat
  lastPf   : Nat
  holdup   : Nat
deriving DecidableEq, Repr

/-- The Gnomon island and the retention store's contents: what survives `aon_rst_n` (R24). `startTicks` counts the ticks since the last reset
release, for the start watchdog (R379). -/
structure Gnomon where
  powered   : Bool
  count     : Nat
  inc       : Nat
  offset    : Int
  synced    : Bool
  ageTicks  : Nat
  anyImport : Bool
  od        : Map Nat
  ledgers   : List StartLedger
  cause     : Nat
  watchdogMs : Nat
  watchdogRun : Nat
  startTicks : Nat
  wake      : Bool
  iso       : Bool
  rs        : Retention
  tapIr     : TapOp
deriving DecidableEq, Repr

/-- The dictionary window's registers (Table 5.6) and its DATA buffer of 32 KiB (address and byte, rising addresses, no zero byte
listed: an unlisted byte reads 0). -/
structure Window where
  index  : BitVec 16
  sub    : BitVec 8
  op     : BitVec 4
  offset : BitVec 32
  length : BitVec 16
  busy   : Bool
  done   : Bool
  status : Nat
  rspLen : Nat
  served : Nat
  order  : Nat
  data   : List Host.Cell
deriving DecidableEq, Repr

/-- The whole machine: the waiting commands, the dictionary window, the Gnomon island and the core island. -/
structure State where
  pending : List Instr
  win     : Window
  gnm     : Gnomon
  hw      : Hw
deriving DecidableEq, Repr

/-- No charge. -/
def Charges.zero : Charges :=
  { tokens := 0, prefill := 0, score := 0, spec := 0, tileCc := 0, busy := 0, bytes := 0, energy := 0, memBytes := 0, ctxBytes := 0 }

/-- An empty ledger. -/
def Ledger.empty : Ledger := { charges := [], moves := [], results := [], emitted := [] }

/-- The marks at reset (Table 2.2). -/
def Marks.reset : Marks := { compose := 0x2000, pfetch := 0x3000, draft := 0x6000, capture := 0xC000, commit := 0xE000 }

/-- A facet at reset: UNASSIGNED (R16), nothing composed. -/
def Facet.reset : Facet :=
  { state := .unassigned, step := 0, phase := 0, marks := Marks.reset, setPending := false, setReady := false, fired := [],
    stepRuns := false, phaseNs := 0, stallLogged := false, stallFaulted := false, tes := .idle, composeCc := 0, composing := none, plans := [],
    entryPlan := false, ledger := Ledger.empty, stepBegins := [], energies := [], positionsRun := [],
    stepEnergy := 0, raiseRun := 0, recovering := false, reSeek := false, episode := [], shared := false,
    lastFaultStep := none, stopAtCommit := false, noPlacing := false, alternating := false, idleSinceNs := none,
    waitingUp := none, upSinceNs := 0, proposal := (0, 0), pinnedParts := [], pinnedOn := false,
    sliceEndNs := none, modePlan := 0xFF, modeRun := 0xFF, reproj := [] }

/-- A partition at reset: CLOSED (Table 9.3), no credit (R72 sets them on entry to OPERATIONAL). -/
def Part.reset : Part :=
  { state := .closed, credits := 0, resident := 0, intReq := false, preReq := false, ack := false, acked := false,
    reqNs := 0, ready := [], sent := [], ghosts := [],
    ctxBusy := 0, ctxNs := 0, ctxSlot := 0, ctxId := 0, holds := 0, live := none, latched := none, closedWindows := 0 }

/-- A ring at reset (Table 6.10). -/
def Ring.reset : Ring := { consumed := 0, latched := 0, hold := 0, deciding := false, entry := none, readFailNs := none, offCc := none, toRead := false }

/-- A delivery queue at reset (Table 6.10). -/
def Queue.reset : Queue := { w := 0, k := 0, m := 0, c := 0, armed := false, publishing := none, migReserved := 0 }

/-- A pool at reset: nothing allocated (R151). -/
def Pool.reset : Pool := { info := [], front := [], fresh := 0, freed := [], cached := [], minFree := none, crossings := 0 }

/-- A free page (Table 7.1). -/
def PageInfo.free : PageInfo := { refs := 0, key := 0, tokens := [], listed := false }

/-- No job (Table 9.7). -/
def Job.idle : Job :=
  { state := .idle, result := 0, iteration := 0, errorNode := 0, nodes := [], iterations := 0, tenant := 0, cls := .be,
    level := 0, model := 0, context := 0, parts := [], sems := [], offload := [], learnSent := [], loaded := false,
    tags := [], gateTag := none, gateReady := false, graphOk := false, cause := 0, suspended := false, sliceIters := 0,
    yielded := false, gateTimes := [], headerOk := false, updateOk := false, learnLeft := 0, holdsShadow := false,
    retained := false, retains := false, succs := 0, resume := false, telemetryOk := false, nextHeaderOk := false, decision := none, acquired := none,
    sums := [], bad := none }

/-- A free semaphore (R320). -/
def Sem.free : Sem := { holder := none, waiters := [], donation := none }

/-- The learner state of a model at reset. -/
def Learner.reset : Learner :=
  { layerExp := [], request := none, requestNs := 0, stale := false, walk := [], shadowQueue := [], shadowOf := none,
    topVersion := 0, keptVoids := 0, round := none, decided := [] }

/-- An empty journal. -/
def Journal.reset : Journal :=
  { next := 0, applied := 0, groups := [] }

/-- A background task at reset: RUNNING (Table 15.9). -/
def Task.reset : Task := { state := 1, pending := false, turn := false, sinceNs := 0, done := 0, warned := 0 }

/-- A pair at reset. -/
def Pair.reset : Pair := { resyncing := false, stamps := [] }

/-- A delay list at reset. -/
def DelayList.reset : DelayList := { entries := [], reserved := 0 }

/-- Input and output levels at reset. -/
def Pins.reset : Pins :=
  { pointReq := 0, pointCap := 0, pointCur := 0, pointAck := false, pointReqNs := 0, pointLogged := false, facetUp := 0xFFFF,
    retReq := false, retAck := false, rsFlush := false, rstLow := false, rspReady := true }

/-- The core island at reset: every dictionary entry at its default (an unlisted entry reads its default), nothing live. -/
def Hw.reset : Hw :=
  { cc := 0, ccNext := 0, ccOnce := [], ccSnap := [], clk := { g := 0, n := 0, prev := 0, us := 0, inc := 1953125, mhz := 2000 },
    eng := { state := .start, pendingTarget := none, drainNs := 0, limitHit := false, powerFail := false, pfNs := 0 },
    pins := Pins.reset, od := [], dom := [], imageLive := false, snaps := [], staged := [],
    side := { address := 0, ibiOn := false, mrl := 0, mwl := 0, rstAct := 0, assembling := none, requests := [], responses := [] },
    irq := { now := 0, prev := 0, carry := 0 },
    events := { raised := [], intake := [], buffer := [], rates := [], rateMs := 1000, rateNs := 0, closed := [], lostIntake := 0, lostOver := 0, takenCc := none, stopBelowS4 := false,
                persistRing := [], notice := 0 },
    trace := { buffer := [], dropped := 0, dropStamp := 0, dropCause := 0, gapIndex := none, gapCount := 0, gapWritten := 0, gapStamp := 0, frozenPre := 0,
               unitState := [], unitSince := [], unitCounts := [], busy := [], made := [], fired := [] },
    rings := [], turn := { ring := none, count := 0, last := [] }, queues := [], seqs := [], gens := [], arrival := 0, slotsFront := [], slotsFresh := 0, slotsFreed := [],
    adm := { trial := none, messages := [] }, windows := [], budgetNs := 0, facets := [],
    parts := [], descs := [], descFresh := 0, descFreed := [], descDone := [], lastPart := 63, funnel := [], reports := [],
    delays := [], mem := { out := [], queue := [], failed := [], served := [], moved := [] },
    smp := { store := [], vacant := [], replays := [], tokens := [], masks := [], hullMax := 0, laneFacets := [], held := [] },
    pages := { pools := [], blocksFresh := 0, blocksFreed := [], index := [], inserts := 0, moves := [], waits := [], victims := [] },
    jobs := [], switches := [], images := [], ctxRecords := [], sems := [], learners := [], routers := [], secUsed := 0,
    acct := { accounts := [], flushing := [], posted := none, startNs := 0, periodMs := 1000, due := false, record := 0 },
    tasks := [], pairs := [],
    fed := { produced := 0, consumed := 0, outRead := 0, waitingOut := [], outOff := false, inOff := false, inProduced := 0, inData := [], polling := false, pollNs := 0, nextMsg := 0, migrations := [] },
    journal := [], engineSeedUsed := 0, expRings := [], expReadNs := [], hostReads := [], faults := [], out := [] }

/-- An empty retention store. -/
def Retention.empty : Retention :=
  { image := none, masks := none, counters := none, ledgers := [], hourTicks := 0, hours := 0, cycles := 0, warnings := 0, lastPf := 0,
    holdup := 0 }

/-- The Gnomon island after `aon_por_n` (R24, R36, R379). -/
def Gnomon.reset : Gnomon :=
  { powered := true, count := 0, inc := 1953125, offset := 0, synced := false, ageTicks := 0, anyImport := false, od := [],
    ledgers := [], cause := 0, watchdogMs := 30000, watchdogRun := 0, startTicks := 0, wake := false, iso := false,
    rs := Retention.empty, tapIr := .idcode }

/-- The dictionary window at reset (Table 5.6). -/
def Window.reset : Window :=
  { index := 0, sub := 0, op := 0, offset := 0, length := 0, busy := false, done := false, status := 0, rspLen := 0, served := 0,
    order := 0, data := [] }

/-- The machine right after reset: the engine in START (0x1100 reads 0x2, Table 5.11) with both islands powered and both resets
released; the start sequence runs with the AON_RST_RELEASE command. POWER_CYCLES (0xD111) has counted the release (R404). -/
def State.reset : State :=
  { pending := [], win := Window.reset, gnm := { Gnomon.reset with od := [(0xD111010000, 1)] }, hw := Hw.reset }

end Sys2Proof.Machine
end

