-- ==== Sys2Proof/Machine/Map.lean ====
section
/-! DEFINITION. The operations on sparse tables. -/

namespace Sys2Proof.Machine

/-- The value at a key, if the table lists it. The search stops at the first larger key. -/
def Map.find? {α : Type} : Map α → Nat → Option α
  | [], _ => none
  | (k', v) :: r, k => if k = k' then some v else if k < k' then none else Map.find? r k

/-- The value at a key, or `d` where the table lists none. -/
def Map.getD {α : Type} (m : Map α) (k : Nat) (d : α) : α := (Map.find? m k).getD d

/-- The table with a key set. -/
def Map.insert {α : Type} : Map α → Nat → α → Map α
  | [], k, v => [(k, v)]
  | (k', v') :: r, k, v =>
    if k = k' then (k, v) :: r
    else if k < k' then (k, v) :: (k', v') :: r
    else (k', v') :: Map.insert r k v

/-- The table with a key removed. -/
def Map.erase {α : Type} (m : Map α) (k : Nat) : Map α := m.filter fun e => e.1 ≠ k

/-- The values of a table in key order. -/
def Map.vals {α : Type} (m : Map α) : List α := m.map Prod.snd

end Sys2Proof.Machine
end

