-- ==== Sys2Proof/Machine/DictTable.lean ====
section
/-! DEFINITION. The entries of the object dictionary as the chapters' tables list them, and their default values. -/

namespace Sys2Proof.Machine

open Sys2Proof

/-- Entry types (Table 5.2). -/
inductive EntryType where
  | u8 | u16 | u32 | u64 | i64 | f32 | bool | str | domain
deriving DecidableEq, Repr

/-- Access classes (Table 5.3). -/
inductive Access where
  | ro | rw | wo | rwc | const | rc
deriving DecidableEq, Repr

/-- What chooses the object behind an index: a selector entry, the request's path, or nothing beyond the sub-index. -/
inductive Selector where
  | none | ring | queue | tenant | handle | pool | model | experience | descriptor | path
deriving DecidableEq, Repr

/-- One line of a dictionary table: sub-indices `sub` to `sub + count − 1`, and the range a write may set. -/
structure Entry where
  idx   : Nat
  sub   : Nat
  count : Nat
  type  : EntryType
  access : Access
  isP   : Bool
  lo    : Nat
  hi    : Nat
  sel   : Selector
deriving DecidableEq, Repr

/-- Dictionary lines 1 to 58, in index order. -/
def dictPart0 : List Entry := [
  ⟨0x1000, 1, 1, .str, .const, false, 0x0, 0x0, .none⟩,
  ⟨0x1000, 2, 1, .str, .const, false, 0x0, 0x0, .none⟩,
  ⟨0x1000, 3, 1, .u32, .const, false, 0x0, 0xFFFFFFFF, .none⟩,
  ⟨0x1000, 4, 1, .str, .const, false, 0x0, 0x0, .none⟩,
  ⟨0x1000, 5, 1, .u16, .const, false, 0x0, 0xFFFF, .none⟩,
  ⟨0x1000, 6, 1, .u32, .const, false, 0x0, 0xFFFFFFFF, .none⟩,
  ⟨0x1000, 7, 1, .u8, .ro, false, 0x0, 0xFF, .none⟩,
  ⟨0x1000, 8, 1, .u8, .ro, false, 0x0, 0xFF, .none⟩,
  ⟨0x1010, 1, 4, .u64, .const, false, 0x0, 0xFFFFFFFFFFFFFFFF, .none⟩,
  ⟨0x1011, 1, 4, .u64, .rwc, false, 0x0, 0xFFFFFFFFFFFFFFFF, .none⟩,
  ⟨0x1012, 1, 4, .u64, .ro, false, 0x0, 0xFFFFFFFFFFFFFFFF, .none⟩,
  ⟨0x1020, 1, 1, .u8, .rw, true, 0x0, 0x3F, .none⟩,
  ⟨0x1100, 1, 1, .u8, .ro, false, 0x0, 0xFF, .none⟩,
  ⟨0x1101, 1, 1, .u8, .wo, false, 0x3, 0x6, .none⟩,
  ⟨0x1102, 1, 1, .u8, .ro, false, 0x0, 0xFF, .none⟩,
  ⟨0x1103, 1, 1, .u8, .ro, false, 0x0, 0xFF, .none⟩,
  ⟨0x1104, 1, 1, .u64, .ro, false, 0x0, 0xFFFFFFFFFFFFFFFF, .none⟩,
  ⟨0x1105, 1, 1, .u32, .rw, true, 0x1, 0x36EE80, .none⟩,
  ⟨0x1200, 1, 1, .u64, .ro, false, 0x0, 0xFFFFFFFFFFFFFFFF, .none⟩,
  ⟨0x1200, 2, 1, .u8, .ro, false, 0x0, 0xFF, .none⟩,
  ⟨0x1200, 3, 1, .bool, .wo, false, 0x0, 0x1, .none⟩,
  ⟨0x2000, 1, 1, .u64, .ro, false, 0x0, 0xFFFFFFFFFFFFFFFF, .none⟩,
  ⟨0x2001, 1, 1, .u64, .ro, false, 0x0, 0xFFFFFFFFFFFFFFFF, .none⟩,
  ⟨0x2002, 1, 1, .u64, .ro, false, 0x0, 0xFFFFFFFFFFFFFFFF, .none⟩,
  ⟨0x2100, 1, 1, .u64, .rwc, true, 0x0, 0xFFFFFFFFFFFFFFFF, .none⟩,
  ⟨0x2101, 1, 1, .u32, .rw, true, 0xA, 0x2710, .none⟩,
  ⟨0x2102, 1, 2, .u64, .ro, false, 0x0, 0xFFFFFFFFFFFFFFFF, .none⟩,
  ⟨0x2103, 1, 2, .u64, .ro, false, 0x0, 0xFFFFFFFFFFFFFFFF, .none⟩,
  ⟨0x2104, 1, 2, .u16, .ro, false, 0x0, 0xFFFF, .none⟩,
  ⟨0x2110, 1, 9, .u32, .rwc, true, 0x0, 0xFFFFFFFF, .none⟩,
  ⟨0x2111, 1, 9, .u16, .rw, true, 0x0, 0x100, .none⟩,
  ⟨0x2112, 1, 9, .u64, .ro, false, 0x0, 0xFFFFFFFFFFFFFFFF, .none⟩,
  ⟨0x2120, 1, 7, .u32, .rwc, true, 0x0, 0xFFFFFFFF, .none⟩,
  ⟨0x2200, 1, 64, .u8, .rwc, true, 0x1, 0x40, .none⟩,
  ⟨0x2201, 1, 1, .u64, .ro, true, 0x0, 0xFFFFFFFFFFFFFFFF, .none⟩,
  ⟨0x2202, 1, 16, .u32, .rw, true, 0x64, 0x989680, .none⟩,
  ⟨0x2203, 1, 16, .u64, .ro, false, 0x0, 0xFFFFFFFFFFFFFFFF, .none⟩,
  ⟨0x2204, 1, 4, .u64, .ro, false, 0x0, 0xFFFFFFFFFFFFFFFF, .none⟩,
  ⟨0x2205, 1, 1, .u64, .ro, false, 0x0, 0xFFFFFFFFFFFFFFFF, .none⟩,
  ⟨0x2206, 1, 1, .u32, .rw, true, 0xA, 0x186A0, .none⟩,
  ⟨0x2207, 1, 64, .u64, .ro, false, 0x0, 0xFFFFFFFFFFFFFFFF, .none⟩,
  ⟨0x2208, 1, 1, .u64, .ro, false, 0x0, 0xFFFFFFFFFFFFFFFF, .none⟩,
  ⟨0x2209, 1, 1, .u32, .rw, true, 0x64, 0xF4240, .none⟩,
  ⟨0x2300, 1, 1, .u16, .ro, false, 0x0, 0xFFFF, .none⟩,
  ⟨0x2301, 1, 16, .u64, .ro, false, 0x0, 0xFFFFFFFFFFFFFFFF, .none⟩,
  ⟨0x2302, 1, 16, .u64, .ro, false, 0x0, 0xFFFFFFFFFFFFFFFF, .none⟩,
  ⟨0x2303, 1, 1, .u64, .ro, false, 0x0, 0xFFFFFFFFFFFFFFFF, .none⟩,
  ⟨0x2304, 1, 1, .u64, .ro, false, 0x0, 0xFFFFFFFFFFFFFFFF, .none⟩,
  ⟨0x2305, 1, 1, .u32, .rw, true, 0xA, 0x2710, .none⟩,
  ⟨0x2306, 1, 1, .u64, .ro, false, 0x0, 0xFFFFFFFFFFFFFFFF, .none⟩,
  ⟨0x2400, 1, 1, .u64, .ro, false, 0x0, 0xFFFFFFFFFFFFFFFF, .none⟩,
  ⟨0x2400, 2, 1, .u64, .ro, false, 0x0, 0xFFFFFFFFFFFFFFFF, .none⟩,
  ⟨0x2400, 3, 1, .u64, .ro, false, 0x0, 0xFFFFFFFFFFFFFFFF, .none⟩,
  ⟨0x2401, 1, 1, .u8, .ro, false, 0x0, 0xFF, .none⟩,
  ⟨0x2401, 2, 1, .u64, .ro, false, 0x0, 0xFFFFFFFFFFFFFFFF, .none⟩,
  ⟨0x2401, 3, 1, .u64, .ro, false, 0x0, 0xFFFFFFFFFFFFFFFF, .none⟩,
  ⟨0x2401, 4, 1, .u64, .ro, false, 0x0, 0xFFFFFFFFFFFFFFFF, .none⟩,
  ⟨0x3000, 1, 1, .u64, .rwc, true, 0x0, 0xFFFFFFFFFFFFFFFF, .none⟩]

/-- Dictionary lines 59 to 116, in index order. -/
def dictPart1 : List Entry := [
  ⟨0x3001, 1, 1, .u32, .ro, false, 0x0, 0xFFFFFFFF, .none⟩,
  ⟨0x3002, 1, 1, .u32, .rwc, true, 0x0, 0x40000, .none⟩,
  ⟨0x3003, 1, 1, .u32, .ro, false, 0x0, 0xFFFFFFFF, .none⟩,
  ⟨0x3004, 1, 1, .u64, .ro, false, 0x0, 0xFFFFFFFFFFFFFFFF, .none⟩,
  ⟨0x3005, 1, 1, .u64, .ro, false, 0x0, 0xFFFFFFFFFFFFFFFF, .none⟩,
  ⟨0x3006, 1, 1, .u32, .ro, true, 0x0, 0xFFFFFFFF, .none⟩,
  ⟨0x3007, 1, 13, .u64, .ro, false, 0x0, 0xFFFFFFFFFFFFFFFF, .none⟩,
  ⟨0x3008, 1, 1, .u64, .ro, false, 0x0, 0xFFFFFFFFFFFFFFFF, .none⟩,
  ⟨0x3010, 1, 1, .u16, .rw, false, 0x0, 0xFFF, .path⟩,
  ⟨0x3011, 1, 1, .u64, .rw, true, 0x0, 0xFFFFFFFFFFFFFFFF, .ring⟩,
  ⟨0x3011, 2, 1, .u64, .rw, true, 0x0, 0xFFFFFFFFFFFFFFFF, .ring⟩,
  ⟨0x3011, 3, 1, .u32, .rw, true, 0x10, 0x10000, .ring⟩,
  ⟨0x3011, 4, 1, .u16, .rw, true, 0x0, 0x1FFF, .ring⟩,
  ⟨0x3011, 5, 1, .u8, .rw, true, 0x0, 0x2, .ring⟩,
  ⟨0x3011, 6, 1, .bool, .rw, true, 0x0, 0x1, .ring⟩,
  ⟨0x3011, 7, 1, .u32, .ro, false, 0x0, 0xFFFFFFFF, .ring⟩,
  ⟨0x3011, 8, 1, .u32, .ro, false, 0x0, 0xFFFFFFFF, .ring⟩,
  ⟨0x3011, 9, 1, .u8, .ro, false, 0x0, 0xFF, .ring⟩,
  ⟨0x3011, 10, 1, .u8, .ro, false, 0x0, 0xFF, .ring⟩,
  ⟨0x3020, 1, 1, .u16, .rw, false, 0x0, 0xFFF, .path⟩,
  ⟨0x3021, 1, 1, .u64, .rw, true, 0x0, 0xFFFFFFFFFFFFFFFF, .queue⟩,
  ⟨0x3021, 2, 1, .u32, .rw, true, 0x40, 0x100000, .queue⟩,
  ⟨0x3021, 3, 1, .u16, .rw, true, 0x0, 0xFFFF, .queue⟩,
  ⟨0x3021, 4, 1, .u8, .rw, true, 0x0, 0xF, .queue⟩,
  ⟨0x3021, 5, 1, .u8, .rw, true, 0x0, 0x3F, .queue⟩,
  ⟨0x3021, 6, 1, .bool, .rw, true, 0x0, 0x1, .queue⟩,
  ⟨0x3021, 7, 1, .u32, .ro, false, 0x0, 0xFFFFFFFF, .queue⟩,
  ⟨0x3021, 8, 1, .u32, .ro, false, 0x0, 0xFFFFFFFF, .queue⟩,
  ⟨0x3021, 9, 1, .u32, .ro, false, 0x0, 0xFFFFFFFF, .queue⟩,
  ⟨0x3021, 10, 1, .u32, .ro, false, 0x0, 0xFFFFFFFF, .queue⟩,
  ⟨0x3021, 11, 1, .u64, .ro, false, 0x0, 0xFFFFFFFFFFFFFFFF, .queue⟩,
  ⟨0x3050, 1, 1, .u16, .rw, true, 0x0, 0xFFFF, .none⟩,
  ⟨0x3051, 1, 1, .u32, .rw, true, 0xA, 0x927C0, .none⟩,
  ⟨0x3052, 1, 1, .u64, .ro, false, 0x0, 0xFFFFFFFFFFFFFFFF, .none⟩,
  ⟨0x3100, 1, 1, .u16, .rw, false, 0x0, 0x1FFF, .path⟩,
  ⟨0x3101, 1, 1, .bool, .rw, true, 0x0, 0x1, .tenant⟩,
  ⟨0x3101, 2, 1, .u8, .rw, true, 0x0, 0xFF, .tenant⟩,
  ⟨0x3101, 3, 1, .u8, .rwc, true, 0x0, 0x7, .tenant⟩,
  ⟨0x3101, 4, 1, .u8, .rw, true, 0x0, 0xF, .tenant⟩,
  ⟨0x3101, 5, 1, .u32, .rw, true, 0x1, 0x100000, .tenant⟩,
  ⟨0x3101, 6, 1, .u64, .rw, true, 0x0, 0xFFFFFFFFFFFFFFFF, .tenant⟩,
  ⟨0x3101, 7, 1, .u32, .rw, true, 0x0, 0xFFFFFFFF, .tenant⟩,
  ⟨0x3101, 8, 1, .u8, .rw, true, 0x0, 0x2, .tenant⟩,
  ⟨0x3101, 9, 1, .bool, .rw, true, 0x0, 0x1, .tenant⟩,
  ⟨0x3101, 10, 1, .u8, .rw, true, 0x0, 0xF, .tenant⟩,
  ⟨0x3101, 11, 1, .u32, .ro, false, 0x0, 0xFFFFFFFF, .tenant⟩,
  ⟨0x3101, 12, 1, .u16, .rw, true, 0x0, 0xFFFF, .tenant⟩,
  ⟨0x3101, 13, 1, .u64, .ro, true, 0x0, 0xFFFFFFFFFFFFFFFF, .tenant⟩,
  ⟨0x3101, 14, 1, .u64, .ro, true, 0x0, 0xFFFFFFFFFFFFFFFF, .tenant⟩,
  ⟨0x3110, 1, 16, .u16, .rw, true, 0x0, 0xFFFF, .none⟩,
  ⟨0x3120, 1, 1, .u32, .rw, true, 0x1, 0x1E13380, .none⟩,
  ⟨0x3121, 1, 1, .u8, .ro, false, 0x0, 0xFF, .none⟩,
  ⟨0x3300, 1, 1, .u64, .rw, false, 0x0, 0xFFFFFFFFFFFFFFFF, .path⟩,
  ⟨0x3301, 1, 1, .domain, .ro, false, 0x0, 0x0, .handle⟩,
  ⟨0x3302, 1, 1, .u64, .wo, false, 0x0, 0xFFFFFFFFFFFFFFFF, .none⟩,
  ⟨0x3303, 1, 1, .u64, .wo, false, 0x0, 0xFFFFFFFFFFFFFFFF, .none⟩,
  ⟨0x4000, 1, 1, .u8, .rw, false, 0x0, 0x3F, .path⟩,
  ⟨0x4001, 1, 1, .u64, .rwc, true, 0x0, 0xFFFFFFFFFFFFFFFF, .pool⟩]

/-- Dictionary lines 117 to 174, in index order. -/
def dictPart2 : List Entry := [
  ⟨0x4001, 2, 1, .u32, .rwc, true, 0x1000, 0x4000000, .pool⟩,
  ⟨0x4001, 3, 1, .u32, .rwc, true, 0x0, 0x4000000, .pool⟩,
  ⟨0x4001, 4, 1, .u8, .rwc, true, 0x0, 0x1, .pool⟩,
  ⟨0x4001, 5, 1, .u64, .rwc, true, 0x0, 0xFFFFFFFFFFFFFFFF, .pool⟩,
  ⟨0x4001, 6, 1, .u64, .rwc, true, 0x0, 0xFFFFFFFFFFFFFFFF, .pool⟩,
  ⟨0x4001, 7, 1, .u64, .rwc, true, 0x0, 0xFFFFFFFFFFFFFFFF, .pool⟩,
  ⟨0x4001, 8, 1, .bool, .rwc, true, 0x0, 0x1, .pool⟩,
  ⟨0x4001, 9, 1, .u32, .ro, false, 0x0, 0xFFFFFFFF, .pool⟩,
  ⟨0x4001, 10, 1, .u32, .rw, true, 0x0, 0xFFFFFFFF, .pool⟩,
  ⟨0x4001, 11, 1, .u32, .rw, true, 0x0, 0xFFFFFFFF, .pool⟩,
  ⟨0x4001, 12, 1, .u64, .rc, false, 0x0, 0xFFFFFFFFFFFFFFFF, .pool⟩,
  ⟨0x4001, 13, 1, .u64, .ro, false, 0x0, 0xFFFFFFFFFFFFFFFF, .pool⟩,
  ⟨0x4001, 14, 1, .u32, .ro, false, 0x0, 0xFFFFFFFF, .pool⟩,
  ⟨0x4001, 15, 1, .u32, .rw, true, 0x0, 0xFFFFFFFF, .pool⟩,
  ⟨0x4003, 1, 1, .u16, .rwc, true, 0x0, 0xFFFF, .none⟩,
  ⟨0x4010, 1, 1, .u64, .rwc, true, 0x0, 0xFFFFFFFFFFFFFFFF, .none⟩,
  ⟨0x4011, 1, 1, .u32, .rwc, true, 0x0, 0xFFFFFFFF, .none⟩,
  ⟨0x4012, 1, 1, .u32, .ro, false, 0x0, 0xFFFFFFFF, .none⟩,
  ⟨0x4013, 1, 1, .u64, .ro, false, 0x0, 0xFFFFFFFFFFFFFFFF, .none⟩,
  ⟨0x4020, 1, 1, .u64, .rwc, true, 0x0, 0xFFFFFFFFFFFFFFFF, .none⟩,
  ⟨0x4021, 1, 1, .u32, .rwc, true, 0x400, 0x1000000, .none⟩,
  ⟨0x4022, 1, 1, .u64, .ro, false, 0x0, 0xFFFFFFFFFFFFFFFF, .none⟩,
  ⟨0x4023, 1, 1, .u64, .ro, false, 0x0, 0xFFFFFFFFFFFFFFFF, .none⟩,
  ⟨0x4024, 1, 1, .u64, .ro, false, 0x0, 0xFFFFFFFFFFFFFFFF, .none⟩,
  ⟨0x4025, 1, 1, .u64, .ro, false, 0x0, 0xFFFFFFFFFFFFFFFF, .none⟩,
  ⟨0x4026, 1, 1, .u64, .ro, false, 0x0, 0xFFFFFFFFFFFFFFFF, .none⟩,
  ⟨0x4030, 1, 1, .u64, .ro, false, 0x0, 0xFFFFFFFFFFFFFFFF, .none⟩,
  ⟨0x4031, 1, 1, .u64, .ro, false, 0x0, 0xFFFFFFFFFFFFFFFF, .none⟩,
  ⟨0x4032, 1, 1, .u64, .ro, false, 0x0, 0xFFFFFFFFFFFFFFFF, .none⟩,
  ⟨0x4033, 1, 1, .u64, .ro, false, 0x0, 0xFFFFFFFFFFFFFFFF, .none⟩,
  ⟨0x4034, 1, 1, .u64, .ro, false, 0x0, 0xFFFFFFFFFFFFFFFF, .none⟩,
  ⟨0x4035, 1, 1, .u64, .ro, false, 0x0, 0xFFFFFFFFFFFFFFFF, .none⟩,
  ⟨0x4100, 1, 1, .u8, .rw, false, 0x0, 0xFF, .path⟩,
  ⟨0x4101, 1, 1, .u8, .rwc, true, 0x10, 0x40, .model⟩,
  ⟨0x4101, 2, 1, .u32, .rwc, true, 0x0, 0xFFFFFFFF, .model⟩,
  ⟨0x4101, 3, 1, .u64, .rwc, true, 0x0, 0xFFFFFFFFFFFFFFFF, .model⟩,
  ⟨0x4101, 4, 1, .u64, .rwc, true, 0x0, 0xFFFFFFFFFFFFFFFF, .model⟩,
  ⟨0x4101, 5, 1, .u32, .rwc, true, 0x0, 0xFFFFFFFF, .model⟩,
  ⟨0x4101, 6, 1, .u32, .rw, true, 0x1, 0x20000, .model⟩,
  ⟨0x4101, 7, 1, .u32, .rw, true, 0x1, 0x20000, .model⟩,
  ⟨0x4101, 8, 1, .u32, .rw, true, 0x1, 0x40000, .model⟩,
  ⟨0x4101, 9, 1, .bool, .rw, true, 0x0, 0x1, .model⟩,
  ⟨0x4200, 1, 16, .u64, .rw, true, 0x0, 0xFFFFFFFFFFFFFFFF, .none⟩,
  ⟨0x5000, 1, 16, .u64, .rw, true, 0x0, 0xFFFFFFFFFFFFFFFF, .none⟩,
  ⟨0x5001, 1, 16, .u8, .rw, true, 0x0, 0xFF, .none⟩,
  ⟨0x5002, 1, 16, .u8, .ro, false, 0x0, 0xFF, .none⟩,
  ⟨0x5003, 1, 16, .u8, .wo, false, 0x0, 0x4, .none⟩,
  ⟨0x5004, 1, 16, .u8, .rw, true, 0x0, 0xFF, .none⟩,
  ⟨0x5005, 1, 16, .u32, .rwc, true, 0x100, 0x10000, .none⟩,
  ⟨0x5006, 1, 16, .u64, .ro, false, 0x0, 0xFFFFFFFFFFFFFFFF, .none⟩,
  ⟨0x5010, 1, 16, .u64, .ro, false, 0x0, 0xFFFFFFFFFFFFFFFF, .none⟩,
  ⟨0x5011, 1, 16, .u32, .ro, false, 0x0, 0xFFFFFFFF, .none⟩,
  ⟨0x5012, 1, 16, .u64, .ro, false, 0x0, 0xFFFFFFFFFFFFFFFF, .none⟩,
  ⟨0x5013, 1, 16, .u64, .ro, false, 0x0, 0xFFFFFFFFFFFFFFFF, .none⟩,
  ⟨0x5014, 1, 16, .u32, .ro, false, 0x0, 0xFFFFFFFF, .none⟩,
  ⟨0x5015, 1, 16, .u32, .ro, false, 0x0, 0xFFFFFFFF, .none⟩,
  ⟨0x5016, 1, 16, .u64, .ro, false, 0x0, 0xFFFFFFFFFFFFFFFF, .none⟩,
  ⟨0x5017, 1, 16, .u32, .ro, false, 0x0, 0xFFFFFFFF, .none⟩]

/-- Dictionary lines 175 to 232, in index order. -/
def dictPart3 : List Entry := [
  ⟨0x5018, 1, 1, .u64, .ro, false, 0x0, 0xFFFFFFFFFFFFFFFF, .none⟩,
  ⟨0x5019, 1, 1, .u64, .ro, false, 0x0, 0xFFFFFFFFFFFFFFFF, .none⟩,
  ⟨0x5019, 2, 1, .u64, .ro, false, 0x0, 0xFFFFFFFFFFFFFFFF, .none⟩,
  ⟨0x501A, 1, 1, .u64, .ro, false, 0x0, 0xFFFFFFFFFFFFFFFF, .none⟩,
  ⟨0x5020, 1, 16, .u64, .rwc, true, 0x0, 0xFFFFFFFFFFFFFFFF, .none⟩,
  ⟨0x5021, 1, 16, .u32, .rwc, true, 0x0, 0xFFFFE000, .none⟩,
  ⟨0x5030, 1, 16, .domain, .rw, false, 0x0, 0x0, .none⟩,
  ⟨0x5031, 1, 16, .bool, .rw, false, 0x0, 0x1, .none⟩,
  ⟨0x5032, 1, 16, .u64, .ro, false, 0x0, 0xFFFFFFFFFFFFFFFF, .none⟩,
  ⟨0x5040, 1, 16, .u8, .rw, true, 0x0, 0x1, .none⟩,
  ⟨0x5041, 1, 16, .u64, .rw, false, 0x0, 0xFFFFFFFFFFFFFFFF, .none⟩,
  ⟨0x5042, 1, 16, .u64, .rw, false, 0x0, 0xFFFFFFFFFFFFFFFF, .none⟩,
  ⟨0x5100, 1, 1, .u32, .rw, true, 0x1, 0x4000, .none⟩,
  ⟨0x5100, 2, 1, .u32, .rw, true, 0x1, 0x20000, .none⟩,
  ⟨0x5100, 3, 1, .u32, .rw, true, 0x10, 0x20000, .none⟩,
  ⟨0x5100, 4, 1, .u8, .rw, true, 0x0, 0x64, .none⟩,
  ⟨0x5100, 5, 1, .bool, .rw, true, 0x0, 0x1, .none⟩,
  ⟨0x5100, 6, 1, .u8, .rw, true, 0x1, 0x40, .none⟩,
  ⟨0x5100, 7, 1, .u8, .rw, true, 0x1, 0x10, .none⟩,
  ⟨0x5100, 8, 1, .u16, .rw, true, 0x0, 0xFFFF, .none⟩,
  ⟨0x5100, 9, 1, .u16, .rw, true, 0x0, 0xFFFF, .none⟩,
  ⟨0x5100, 10, 1, .u16, .rw, true, 0x0, 0xFFFF, .none⟩,
  ⟨0x5100, 11, 1, .u16, .rw, true, 0x0, 0xFFFF, .none⟩,
  ⟨0x5100, 12, 1, .u16, .rw, true, 0x0, 0xFFFF, .none⟩,
  ⟨0x5100, 13, 1, .u32, .rw, true, 0x7D, 0x186A0, .none⟩,
  ⟨0x5100, 14, 1, .bool, .rw, true, 0x0, 0x1, .none⟩,
  ⟨0x5100, 15, 1, .u16, .rw, true, 0x0, 0x7D0, .none⟩,
  ⟨0x5100, 16, 1, .u32, .rw, true, 0x400, 0x100000, .none⟩,
  ⟨0x5101, 1, 1, .u32, .rw, true, 0x1, 0x4000, .none⟩,
  ⟨0x5101, 2, 1, .u32, .rw, true, 0x1, 0x20000, .none⟩,
  ⟨0x5101, 3, 1, .u32, .rw, true, 0x10, 0x20000, .none⟩,
  ⟨0x5101, 4, 1, .u8, .rw, true, 0x0, 0x64, .none⟩,
  ⟨0x5101, 5, 1, .bool, .rw, true, 0x0, 0x1, .none⟩,
  ⟨0x5101, 6, 1, .u8, .rw, true, 0x1, 0x40, .none⟩,
  ⟨0x5101, 7, 1, .u8, .rw, true, 0x1, 0x10, .none⟩,
  ⟨0x5101, 8, 1, .u16, .rw, true, 0x0, 0xFFFF, .none⟩,
  ⟨0x5101, 9, 1, .u16, .rw, true, 0x0, 0xFFFF, .none⟩,
  ⟨0x5101, 10, 1, .u16, .rw, true, 0x0, 0xFFFF, .none⟩,
  ⟨0x5101, 11, 1, .u16, .rw, true, 0x0, 0xFFFF, .none⟩,
  ⟨0x5101, 12, 1, .u16, .rw, true, 0x0, 0xFFFF, .none⟩,
  ⟨0x5101, 13, 1, .u32, .rw, true, 0x7D, 0x186A0, .none⟩,
  ⟨0x5101, 14, 1, .bool, .rw, true, 0x0, 0x1, .none⟩,
  ⟨0x5101, 15, 1, .u16, .rw, true, 0x0, 0x7D0, .none⟩,
  ⟨0x5101, 16, 1, .u32, .rw, true, 0x400, 0x100000, .none⟩,
  ⟨0x5102, 1, 1, .u32, .rw, true, 0x1, 0x4000, .none⟩,
  ⟨0x5102, 2, 1, .u32, .rw, true, 0x1, 0x20000, .none⟩,
  ⟨0x5102, 3, 1, .u32, .rw, true, 0x10, 0x20000, .none⟩,
  ⟨0x5102, 4, 1, .u8, .rw, true, 0x0, 0x64, .none⟩,
  ⟨0x5102, 5, 1, .bool, .rw, true, 0x0, 0x1, .none⟩,
  ⟨0x5102, 6, 1, .u8, .rw, true, 0x1, 0x40, .none⟩,
  ⟨0x5102, 7, 1, .u8, .rw, true, 0x1, 0x10, .none⟩,
  ⟨0x5102, 8, 1, .u16, .rw, true, 0x0, 0xFFFF, .none⟩,
  ⟨0x5102, 9, 1, .u16, .rw, true, 0x0, 0xFFFF, .none⟩,
  ⟨0x5102, 10, 1, .u16, .rw, true, 0x0, 0xFFFF, .none⟩,
  ⟨0x5102, 11, 1, .u16, .rw, true, 0x0, 0xFFFF, .none⟩,
  ⟨0x5102, 12, 1, .u16, .rw, true, 0x0, 0xFFFF, .none⟩,
  ⟨0x5102, 13, 1, .u32, .rw, true, 0x7D, 0x186A0, .none⟩,
  ⟨0x5102, 14, 1, .bool, .rw, true, 0x0, 0x1, .none⟩]

/-- Dictionary lines 233 to 290, in index order. -/
def dictPart4 : List Entry := [
  ⟨0x5102, 15, 1, .u16, .rw, true, 0x0, 0x7D0, .none⟩,
  ⟨0x5102, 16, 1, .u32, .rw, true, 0x400, 0x100000, .none⟩,
  ⟨0x5103, 1, 1, .u32, .rw, true, 0x1, 0x4000, .none⟩,
  ⟨0x5103, 2, 1, .u32, .rw, true, 0x1, 0x20000, .none⟩,
  ⟨0x5103, 3, 1, .u32, .rw, true, 0x10, 0x20000, .none⟩,
  ⟨0x5103, 4, 1, .u8, .rw, true, 0x0, 0x64, .none⟩,
  ⟨0x5103, 5, 1, .bool, .rw, true, 0x0, 0x1, .none⟩,
  ⟨0x5103, 6, 1, .u8, .rw, true, 0x1, 0x40, .none⟩,
  ⟨0x5103, 7, 1, .u8, .rw, true, 0x1, 0x10, .none⟩,
  ⟨0x5103, 8, 1, .u16, .rw, true, 0x0, 0xFFFF, .none⟩,
  ⟨0x5103, 9, 1, .u16, .rw, true, 0x0, 0xFFFF, .none⟩,
  ⟨0x5103, 10, 1, .u16, .rw, true, 0x0, 0xFFFF, .none⟩,
  ⟨0x5103, 11, 1, .u16, .rw, true, 0x0, 0xFFFF, .none⟩,
  ⟨0x5103, 12, 1, .u16, .rw, true, 0x0, 0xFFFF, .none⟩,
  ⟨0x5103, 13, 1, .u32, .rw, true, 0x7D, 0x186A0, .none⟩,
  ⟨0x5103, 14, 1, .bool, .rw, true, 0x0, 0x1, .none⟩,
  ⟨0x5103, 15, 1, .u16, .rw, true, 0x0, 0x7D0, .none⟩,
  ⟨0x5103, 16, 1, .u32, .rw, true, 0x400, 0x100000, .none⟩,
  ⟨0x5200, 1, 16, .u16, .rw, true, 0x0, 0xFFFF, .none⟩,
  ⟨0x5201, 1, 16, .u16, .rw, true, 0x0, 0xFFFF, .none⟩,
  ⟨0x5202, 1, 16, .u16, .rw, true, 0x0, 0xFFFF, .none⟩,
  ⟨0x5203, 1, 16, .u16, .rw, true, 0x0, 0xFFFF, .none⟩,
  ⟨0x5204, 1, 16, .u16, .rw, true, 0x0, 0xFFFF, .none⟩,
  ⟨0x5205, 1, 16, .u64, .ro, true, 0x0, 0xFFFFFFFFFFFFFFFF, .none⟩,
  ⟨0x5206, 1, 16, .u16, .ro, false, 0x0, 0xFFFF, .none⟩,
  ⟨0x5207, 1, 16, .u32, .rw, true, 0x1, 0xEA60, .none⟩,
  ⟨0x5208, 1, 16, .u64, .ro, false, 0x0, 0xFFFFFFFFFFFFFFFF, .none⟩,
  ⟨0x5209, 1, 16, .u64, .ro, false, 0x0, 0xFFFFFFFFFFFFFFFF, .none⟩,
  ⟨0x520A, 1, 16, .u64, .ro, false, 0x0, 0xFFFFFFFFFFFFFFFF, .none⟩,
  ⟨0x5401, 1, 1, .domain, .rwc, true, 0x0, 0x0, .model⟩,
  ⟨0x5402, 1, 1, .u8, .rwc, true, 0x10, 0x40, .model⟩,
  ⟨0x5403, 1, 1, .domain, .rwc, true, 0x0, 0x0, .model⟩,
  ⟨0x5404, 1, 1, .u32, .rwc, true, 0x0, 0xFFFFFFFF, .model⟩,
  ⟨0x6000, 1, 1, .u32, .ro, false, 0x0, 0xFFFFFFFF, .none⟩,
  ⟨0x6001, 1, 16, .u32, .ro, false, 0x0, 0xFFFFFFFF, .none⟩,
  ⟨0x6002, 1, 1, .u32, .ro, false, 0x0, 0xFFFFFFFF, .none⟩,
  ⟨0x6003, 1, 1, .u64, .ro, false, 0x0, 0xFFFFFFFFFFFFFFFF, .none⟩,
  ⟨0x6004, 1, 1, .u32, .rw, false, 0x0, 0x3FFFF, .path⟩,
  ⟨0x6005, 1, 1, .domain, .ro, false, 0x0, 0x0, .descriptor⟩,
  ⟨0x6006, 1, 1, .u16, .rw, true, 0x1, 0xFFFF, .none⟩,
  ⟨0x6007, 1, 16, .u16, .rw, true, 0x0, 0x1000, .none⟩,
  ⟨0x6008, 1, 1, .u8, .rw, true, 0x0, 0x3F, .none⟩,
  ⟨0x6009, 1, 16, .u64, .ro, false, 0x0, 0xFFFFFFFFFFFFFFFF, .none⟩,
  ⟨0x6010, 1, 64, .u8, .ro, false, 0x0, 0xFF, .none⟩,
  ⟨0x6011, 1, 64, .u16, .ro, false, 0x0, 0xFFFF, .none⟩,
  ⟨0x6012, 1, 64, .u32, .ro, false, 0x0, 0xFFFFFFFF, .none⟩,
  ⟨0x6013, 1, 64, .u8, .ro, false, 0x0, 0xFF, .none⟩,
  ⟨0x6014, 1, 64, .u64, .ro, false, 0x0, 0xFFFFFFFFFFFFFFFF, .none⟩,
  ⟨0x6015, 1, 64, .u64, .ro, false, 0x0, 0xFFFFFFFFFFFFFFFF, .none⟩,
  ⟨0x6016, 1, 64, .u32, .rc, false, 0x0, 0xFFFFFFFF, .none⟩,
  ⟨0x6017, 1, 64, .u64, .ro, false, 0x0, 0xFFFFFFFFFFFFFFFF, .none⟩,
  ⟨0x6018, 1, 64, .u64, .ro, false, 0x0, 0xFFFFFFFFFFFFFFFF, .none⟩,
  ⟨0x6019, 1, 64, .u32, .rw, true, 0x1, 0x40000, .none⟩,
  ⟨0x601A, 1, 64, .u64, .rc, false, 0x0, 0xFFFFFFFFFFFFFFFF, .none⟩,
  ⟨0x6020, 1, 16, .u8, .rw, true, 0x1, 0x64, .none⟩,
  ⟨0x6021, 1, 16, .u64, .rc, false, 0x0, 0xFFFFFFFFFFFFFFFF, .none⟩,
  ⟨0x6300, 1, 4, .u8, .rwc, true, 0x0, 0x1F, .none⟩,
  ⟨0x6301, 1, 4, .u16, .ro, false, 0x0, 0xFFFF, .none⟩]

/-- Dictionary lines 291 to 348, in index order. -/
def dictPart5 : List Entry := [
  ⟨0x6302, 1, 4, .u64, .ro, false, 0x0, 0xFFFFFFFFFFFFFFFF, .none⟩,
  ⟨0x6303, 1, 4, .u64, .ro, false, 0x0, 0xFFFFFFFFFFFFFFFF, .none⟩,
  ⟨0x6304, 1, 4, .domain, .ro, false, 0x0, 0x0, .none⟩,
  ⟨0x6305, 1, 4, .u16, .ro, false, 0x0, 0xFFFF, .none⟩,
  ⟨0x6400, 1, 16, .u64, .rw, false, 0x0, 0xFFFFFFFFFFFFFFFF, .none⟩,
  ⟨0x6401, 1, 16, .u8, .wo, false, 0x1, 0x2, .none⟩,
  ⟨0x6402, 1, 16, .u8, .ro, false, 0x0, 0xFF, .none⟩,
  ⟨0x6403, 1, 16, .u8, .ro, false, 0x0, 0xFF, .none⟩,
  ⟨0x6404, 1, 16, .u32, .ro, false, 0x0, 0xFFFFFFFF, .none⟩,
  ⟨0x6405, 1, 16, .u32, .ro, false, 0x0, 0xFFFFFFFF, .none⟩,
  ⟨0x7001, 1, 1, .u32, .rwc, true, 0x1, 0x100000, .model⟩,
  ⟨0x7002, 1, 1, .u8, .rwc, true, 0x0, 0x4, .model⟩,
  ⟨0x7003, 1, 1, .u32, .rwc, true, 0x0, 0xFFFFFFFF, .model⟩,
  ⟨0x7010, 1, 1, .domain, .const, false, 0x0, 0x0, .none⟩,
  ⟨0x7011, 1, 1, .domain, .const, false, 0x0, 0x0, .none⟩,
  ⟨0x7012, 1, 1, .domain, .const, false, 0x0, 0x0, .none⟩,
  ⟨0x7013, 1, 1, .domain, .const, false, 0x0, 0x0, .none⟩,
  ⟨0x7014, 1, 1, .u32, .const, false, 0x0, 0xFFFFFFFF, .none⟩,
  ⟨0x7020, 1, 1, .u64, .ro, false, 0x0, 0xFFFFFFFFFFFFFFFF, .none⟩,
  ⟨0x7021, 1, 1, .u64, .ro, false, 0x0, 0xFFFFFFFFFFFFFFFF, .none⟩,
  ⟨0x7022, 1, 1, .u64, .ro, false, 0x0, 0xFFFFFFFFFFFFFFFF, .none⟩,
  ⟨0x7023, 1, 1, .u64, .ro, false, 0x0, 0xFFFFFFFFFFFFFFFF, .none⟩,
  ⟨0x7024, 1, 1, .u64, .ro, false, 0x0, 0xFFFFFFFFFFFFFFFF, .none⟩,
  ⟨0x7025, 1, 1, .u64, .ro, false, 0x0, 0xFFFFFFFFFFFFFFFF, .none⟩,
  ⟨0x7026, 1, 1, .u64, .ro, false, 0x0, 0xFFFFFFFFFFFFFFFF, .none⟩,
  ⟨0x7027, 1, 1, .u16, .ro, false, 0x0, 0xFFFF, .none⟩,
  ⟨0x7028, 1, 1, .u64, .ro, false, 0x0, 0xFFFFFFFFFFFFFFFF, .none⟩,
  ⟨0x7029, 1, 1, .u64, .ro, false, 0x0, 0xFFFFFFFFFFFFFFFF, .none⟩,
  ⟨0x702A, 1, 1, .u16, .rc, false, 0x0, 0xFFFF, .none⟩,
  ⟨0x7030, 1, 16, .u64, .ro, false, 0x0, 0xFFFFFFFFFFFFFFFF, .none⟩,
  ⟨0x7040, 1, 16, .domain, .rw, false, 0x0, 0x0, .none⟩,
  ⟨0x7041, 1, 1, .u16, .ro, true, 0x0, 0xFFFF, .none⟩,
  ⟨0x7042, 1, 1, .u16, .ro, false, 0x0, 0xFFFF, .none⟩,
  ⟨0x7100, 1, 1, .u8, .const, false, 0x0, 0xFF, .none⟩,
  ⟨0x7101, 1, 1, .u64, .const, false, 0x0, 0xFFFFFFFFFFFFFFFF, .none⟩,
  ⟨0x7102, 1, 1, .u64, .const, false, 0x0, 0xFFFFFFFFFFFFFFFF, .none⟩,
  ⟨0x7103, 1, 1, .u64, .rwc, true, 0x0, 0xFFFFFFFFFFFFFFFF, .none⟩,
  ⟨0x7104, 1, 1, .u64, .ro, false, 0x0, 0xFFFFFFFFFFFFFFFF, .none⟩,
  ⟨0x7105, 1, 1, .u64, .ro, true, 0x0, 0xFFFFFFFFFFFFFFFF, .none⟩,
  ⟨0x7106, 1, 1, .u64, .ro, false, 0x0, 0xFFFFFFFFFFFFFFFF, .none⟩,
  ⟨0x7110, 1, 1, .u64, .rw, false, 0x0, 0xFFFFFFFFFFFFFFFF, .path⟩,
  ⟨0x7110, 2, 1, .u64, .rw, false, 0x0, 0xFFFFFFFFFFFFFFFF, .path⟩,
  ⟨0x7110, 3, 1, .u64, .rw, false, 0x0, 0xFFFFFFFFFFFFFFFF, .path⟩,
  ⟨0x7110, 4, 1, .u64, .ro, false, 0x0, 0xFFFFFFFFFFFFFFFF, .path⟩,
  ⟨0x7110, 5, 1, .u64, .ro, false, 0x0, 0xFFFFFFFFFFFFFFFF, .path⟩,
  ⟨0x7200, 1, 1, .u8, .rwc, true, 0x0, 0xFF, .model⟩,
  ⟨0x7201, 1, 1, .u8, .rw, true, 0x1, 0xFF, .none⟩,
  ⟨0x7202, 1, 1, .u16, .rw, true, 0x1, 0xFFFF, .none⟩,
  ⟨0x7203, 1, 1, .u64, .ro, false, 0x0, 0xFFFFFFFFFFFFFFFF, .none⟩,
  ⟨0x7204, 1, 1, .u64, .ro, false, 0x0, 0xFFFFFFFFFFFFFFFF, .none⟩,
  ⟨0x7205, 1, 1, .u64, .ro, false, 0x0, 0xFFFFFFFFFFFFFFFF, .none⟩,
  ⟨0x7206, 1, 17, .u64, .ro, false, 0x0, 0xFFFFFFFFFFFFFFFF, .none⟩,
  ⟨0x7207, 1, 1, .u64, .ro, false, 0x0, 0xFFFFFFFFFFFFFFFF, .none⟩,
  ⟨0x7208, 1, 1, .u64, .ro, false, 0x0, 0xFFFFFFFFFFFFFFFF, .none⟩,
  ⟨0x7209, 1, 1, .u64, .ro, false, 0x0, 0xFFFFFFFFFFFFFFFF, .none⟩,
  ⟨0x720A, 1, 1, .u64, .ro, false, 0x0, 0xFFFFFFFFFFFFFFFF, .none⟩,
  ⟨0x720B, 1, 1, .u64, .ro, false, 0x0, 0xFFFFFFFFFFFFFFFF, .none⟩,
  ⟨0x720C, 1, 1, .u16, .ro, false, 0x0, 0xFFFF, .none⟩]

/-- Dictionary lines 349 to 406, in index order. -/
def dictPart6 : List Entry := [
  ⟨0x7210, 1, 16, .domain, .rw, true, 0x0, 0x0, .none⟩,
  ⟨0x7211, 1, 1, .u16, .ro, true, 0x0, 0xFFFF, .none⟩,
  ⟨0x8000, 1, 1, .bool, .rwc, true, 0x0, 0x1, .model⟩,
  ⟨0x8001, 1, 1, .bool, .rw, true, 0x0, 0x1, .model⟩,
  ⟨0x8002, 1, 1, .u64, .rwc, true, 0x0, 0xFFFFFFFFFFFFFFFF, .model⟩,
  ⟨0x8003, 1, 2, .u64, .rwc, true, 0x0, 0xFFFFFFFFFFFFFFFF, .model⟩,
  ⟨0x8004, 1, 2, .u64, .rwc, true, 0x0, 0xFFFFFFFFFFFFFFFF, .model⟩,
  ⟨0x8005, 1, 1, .domain, .rwc, true, 0x0, 0x0, .model⟩,
  ⟨0x8006, 1, 1, .u8, .rw, true, 0x0, 0x1, .model⟩,
  ⟨0x8007, 1, 1, .bool, .rw, true, 0x0, 0x1, .model⟩,
  ⟨0x8008, 1, 1, .u32, .rw, true, 0x0, 0x36EE80, .model⟩,
  ⟨0x8009, 1, 1, .u32, .rw, true, 0x0, 0xFFFFFFFF, .model⟩,
  ⟨0x8010, 1, 1, .u64, .wo, false, 0x0, 0xFFFFFFFFFFFFFFFF, .model⟩,
  ⟨0x8011, 1, 1, .u32, .ro, true, 0x0, 0xFFFFFFFF, .model⟩,
  ⟨0x8012, 1, 2, .u8, .ro, true, 0x0, 0xFF, .model⟩,
  ⟨0x8013, 1, 2, .u32, .ro, true, 0x0, 0xFFFFFFFF, .model⟩,
  ⟨0x8014, 1, 2, .u32, .ro, false, 0x0, 0xFFFFFFFF, .model⟩,
  ⟨0x8015, 1, 1, .u32, .ro, false, 0x0, 0xFFFFFFFF, .model⟩,
  ⟨0x8016, 1, 1, .u64, .ro, false, 0x0, 0xFFFFFFFFFFFFFFFF, .model⟩,
  ⟨0x8017, 1, 1, .u64, .ro, false, 0x0, 0xFFFFFFFFFFFFFFFF, .model⟩,
  ⟨0x8020, 1, 1, .u8, .ro, true, 0x0, 0xFF, .model⟩,
  ⟨0x8021, 1, 1, .u8, .rw, true, 0x0, 0x1F, .model⟩,
  ⟨0x8022, 1, 1, .u8, .rw, true, 0x0, 0x1F, .model⟩,
  ⟨0x8023, 1, 1, .u8, .rw, true, 0x0, 0x1F, .model⟩,
  ⟨0x8024, 1, 1, .u32, .rw, true, 0x1, 0xF4240, .model⟩,
  ⟨0x8025, 1, 1, .u32, .ro, true, 0x0, 0xFFFFFFFF, .model⟩,
  ⟨0x8026, 1, 1, .domain, .ro, true, 0x0, 0x0, .model⟩,
  ⟨0x8027, 1, 1, .u16, .rw, true, 0x0, 0xFFFF, .model⟩,
  ⟨0x8028, 1, 1, .f32, .rw, true, 0x0, 0xFFFFFFFF, .model⟩,
  ⟨0x8029, 1, 1, .u64, .ro, true, 0x0, 0xFFFFFFFFFFFFFFFF, .model⟩,
  ⟨0x802A, 1, 1, .u64, .ro, true, 0x0, 0xFFFFFFFFFFFFFFFF, .model⟩,
  ⟨0x802B, 1, 1, .u8, .rw, true, 0x0, 0x1, .model⟩,
  ⟨0x802C, 1, 1, .u8, .rw, true, 0x1, 0xFF, .model⟩,
  ⟨0x802D, 1, 1, .bool, .wo, false, 0x0, 0x1, .model⟩,
  ⟨0x802E, 1, 1, .u64, .ro, true, 0x0, 0xFFFFFFFFFFFFFFFF, .model⟩,
  ⟨0x802F, 1, 1, .u64, .ro, true, 0x0, 0xFFFFFFFFFFFFFFFF, .model⟩,
  ⟨0x8030, 1, 1, .u64, .ro, true, 0x0, 0xFFFFFFFFFFFFFFFF, .model⟩,
  ⟨0x8031, 1, 1, .u32, .ro, false, 0x0, 0xFFFFFFFF, .model⟩,
  ⟨0x8032, 1, 1, .bool, .rw, true, 0x0, 0x1, .model⟩,
  ⟨0x8033, 1, 1, .domain, .ro, false, 0x0, 0x0, .model⟩,
  ⟨0x8040, 1, 1, .u64, .rwc, true, 0x0, 0xFFFFFFFFFFFFFFFF, .model⟩,
  ⟨0x8041, 1, 1, .u32, .rwc, true, 0x40, 0x10000, .model⟩,
  ⟨0x8042, 1, 1, .u32, .ro, true, 0x0, 0xFFFFFFFF, .model⟩,
  ⟨0x8043, 1, 1, .u32, .rw, true, 0x0, 0xFFFFFFFF, .model⟩,
  ⟨0x8100, 1, 16, .u64, .rwc, true, 0x0, 0xFFFFFFFFFFFFFFFF, .none⟩,
  ⟨0x8101, 1, 16, .u64, .rw, false, 0x0, 0xFFFFFFFFFFFFFFFF, .none⟩,
  ⟨0x8102, 1, 16, .u8, .rw, true, 0x1, 0x40, .none⟩,
  ⟨0x8103, 1, 16, .u8, .rw, true, 0x0, 0x1, .none⟩,
  ⟨0x8104, 1, 16, .u64, .rw, false, 0x0, 0xFFFFFFFFFFFFFFFF, .none⟩,
  ⟨0x8200, 1, 1, .u8, .rw, false, 0x0, 0x3F, .path⟩,
  ⟨0x8201, 1, 1, .u64, .rw, true, 0x0, 0xFFFFFFFFFFFFFFFF, .experience⟩,
  ⟨0x8201, 2, 1, .u32, .rw, true, 0x400, 0x1000000, .experience⟩,
  ⟨0x8201, 3, 1, .u16, .rw, true, 0x0, 0x1FFF, .experience⟩,
  ⟨0x8201, 4, 1, .u8, .rw, true, 0x0, 0xFF, .experience⟩,
  ⟨0x8201, 5, 1, .bool, .rw, true, 0x0, 0x1, .experience⟩,
  ⟨0x8201, 6, 1, .u32, .ro, false, 0x0, 0xFFFFFFFF, .experience⟩,
  ⟨0x8201, 7, 1, .u32, .ro, false, 0x0, 0xFFFFFFFF, .experience⟩,
  ⟨0x8201, 8, 1, .u64, .ro, false, 0x0, 0xFFFFFFFFFFFFFFFF, .experience⟩]

/-- Dictionary lines 407 to 464, in index order. -/
def dictPart7 : List Entry := [
  ⟨0x8202, 1, 1, .u64, .ro, false, 0x0, 0xFFFFFFFFFFFFFFFF, .none⟩,
  ⟨0x8300, 1, 1, .u16, .rwc, true, 0x0, 0xFFF, .none⟩,
  ⟨0x8301, 1, 1, .u16, .rwc, true, 0x0, 0xFFFF, .none⟩,
  ⟨0x8302, 1, 1, .domain, .rw, true, 0x0, 0x0, .none⟩,
  ⟨0x8303, 1, 1, .u64, .rwc, true, 0x0, 0xFFFFFFFFFFFFFFFF, .none⟩,
  ⟨0x8304, 1, 1, .u32, .rwc, true, 0x2000, 0x1000000, .none⟩,
  ⟨0x8305, 1, 1, .u64, .rwc, true, 0x0, 0xFFFFFFFFFFFFFFFF, .none⟩,
  ⟨0x8306, 1, 1, .u32, .rwc, true, 0x2000, 0x1000000, .none⟩,
  ⟨0x8307, 1, 1, .u16, .rw, true, 0x1, 0x2710, .none⟩,
  ⟨0x8308, 1, 1, .u32, .rw, true, 0xA, 0x927C0, .none⟩,
  ⟨0x8309, 1, 1, .u8, .wo, false, 0x1, 0x2, .model⟩,
  ⟨0x830A, 1, 1, .u8, .ro, false, 0x0, 0xFF, .model⟩,
  ⟨0x830B, 1, 1, .u64, .ro, false, 0x0, 0xFFFFFFFFFFFFFFFF, .none⟩,
  ⟨0x830C, 1, 1, .u64, .ro, false, 0x0, 0xFFFFFFFFFFFFFFFF, .none⟩,
  ⟨0x9000, 1, 16, .u8, .rw, true, 0x1, 0x7, .none⟩,
  ⟨0x9001, 1, 16, .u8, .rwc, true, 0x0, 0x7, .none⟩,
  ⟨0x9010, 1, 16, .u8, .rw, true, 0x0, 0x2, .none⟩,
  ⟨0x9011, 1, 16, .u32, .rw, true, 0x0, 0x989680, .none⟩,
  ⟨0x9012, 1, 16, .u64, .ro, false, 0x0, 0xFFFFFFFFFFFFFFFF, .none⟩,
  ⟨0x9013, 1, 16, .u32, .ro, false, 0x0, 0xFFFFFFFF, .none⟩,
  ⟨0x9014, 1, 16, .u64, .ro, false, 0x0, 0xFFFFFFFFFFFFFFFF, .none⟩,
  ⟨0x9015, 1, 16, .u64, .ro, false, 0x0, 0xFFFFFFFFFFFFFFFF, .none⟩,
  ⟨0x9016, 1, 16, .u64, .ro, false, 0x0, 0xFFFFFFFFFFFFFFFF, .none⟩,
  ⟨0x9017, 1, 16, .u64, .ro, false, 0x0, 0xFFFFFFFFFFFFFFFF, .none⟩,
  ⟨0x9018, 1, 16, .u64, .ro, false, 0x0, 0xFFFFFFFFFFFFFFFF, .none⟩,
  ⟨0x9019, 1, 16, .u32, .ro, false, 0x0, 0xFFFFFFFF, .none⟩,
  ⟨0x901A, 1, 16, .u64, .ro, false, 0x0, 0xFFFFFFFFFFFFFFFF, .none⟩,
  ⟨0x9020, 1, 1, .u8, .rwc, true, 0x0, 0xFF, .model⟩,
  ⟨0x9021, 1, 1, .u16, .rwc, true, 0x1, 0x100, .model⟩,
  ⟨0x9100, 1, 16, .u64, .rwc, true, 0x0, 0xFFFFFFFFFFFFFFFF, .none⟩,
  ⟨0x9101, 1, 16, .u32, .rwc, true, 0x0, 0xFFFFFFFF, .none⟩,
  ⟨0x9102, 1, 16, .u32, .rwc, true, 0x0, 0xFFFFFFFF, .none⟩,
  ⟨0x9103, 1, 16, .u32, .rwc, true, 0x0, 0xFFFFFFFF, .none⟩,
  ⟨0x9104, 1, 16, .u32, .rwc, true, 0x0, 0xFFFFFFFF, .none⟩,
  ⟨0x9105, 1, 1, .u16, .rwc, true, 0x1, 0xFFFF, .none⟩,
  ⟨0x9106, 1, 16, .u64, .ro, false, 0x0, 0xFFFFFFFFFFFFFFFF, .none⟩,
  ⟨0x9107, 1, 16, .u64, .ro, false, 0x0, 0xFFFFFFFFFFFFFFFF, .none⟩,
  ⟨0x9108, 1, 16, .u64, .ro, false, 0x0, 0xFFFFFFFFFFFFFFFF, .none⟩,
  ⟨0x9109, 1, 16, .domain, .ro, false, 0x0, 0x0, .none⟩,
  ⟨0x910A, 1, 16, .u64, .rw, false, 0x0, 0xFFFFFFFFFFFFFFFF, .none⟩,
  ⟨0x9110, 1, 16, .u32, .rw, true, 0x0, 0xFFFFFFFF, .none⟩,
  ⟨0x9111, 1, 16, .u32, .rw, true, 0x1, 0xEA60, .none⟩,
  ⟨0x9112, 1, 16, .u64, .ro, false, 0x0, 0xFFFFFFFFFFFFFFFF, .none⟩,
  ⟨0x9200, 1, 16, .u64, .rw, false, 0x0, 0xFFFFFFFFFFFFFFFF, .none⟩,
  ⟨0x9201, 1, 16, .u8, .wo, false, 0x1, 0x2, .none⟩,
  ⟨0x9202, 1, 16, .u64, .rw, false, 0x0, 0xFFFFFFFFFFFFFFFF, .none⟩,
  ⟨0x9203, 1, 16, .u8, .ro, false, 0x0, 0xFF, .none⟩,
  ⟨0x9204, 1, 16, .u8, .ro, false, 0x0, 0xFF, .none⟩,
  ⟨0x9205, 1, 16, .u64, .ro, false, 0x0, 0xFFFFFFFFFFFFFFFF, .none⟩,
  ⟨0x9206, 1, 16, .bool, .ro, false, 0x0, 0x1, .none⟩,
  ⟨0x9207, 1, 16, .u64, .ro, false, 0x0, 0xFFFFFFFFFFFFFFFF, .none⟩,
  ⟨0x9209, 1, 16, .u32, .ro, false, 0x0, 0xFFFFFFFF, .none⟩,
  ⟨0x9210, 1, 16, .u64, .rw, false, 0x0, 0xFFFFFFFFFFFFFFFF, .none⟩,
  ⟨0x9211, 1, 16, .u64, .rw, false, 0x0, 0xFFFFFFFFFFFFFFFF, .none⟩,
  ⟨0x9220, 1, 64, .u32, .ro, false, 0x0, 0xFFFFFFFF, .none⟩,
  ⟨0x9221, 1, 64, .u16, .ro, false, 0x0, 0xFFFF, .none⟩,
  ⟨0x9222, 1, 1, .u32, .rw, true, 0x64, 0x989680, .none⟩,
  ⟨0x9223, 1, 1, .u64, .ro, false, 0x0, 0xFFFFFFFFFFFFFFFF, .none⟩]

/-- Dictionary lines 465 to 522, in index order. -/
def dictPart8 : List Entry := [
  ⟨0x9224, 1, 1, .u64, .ro, true, 0x0, 0xFFFFFFFFFFFFFFFF, .none⟩,
  ⟨0x9300, 1, 1, .u64, .rwc, true, 0x0, 0xFFFFFFFFFFFFFFFF, .none⟩,
  ⟨0x9301, 1, 1, .u32, .rwc, true, 0x400, 0x100000, .none⟩,
  ⟨0x9302, 1, 1, .u32, .rw, true, 0xA, 0x36EE80, .none⟩,
  ⟨0x9303, 1, 1, .u32, .ro, true, 0x0, 0xFFFFFFFF, .none⟩,
  ⟨0x9304, 1, 1, .u32, .rw, true, 0x0, 0xFFFFFFFF, .none⟩,
  ⟨0x9305, 1, 1, .u32, .rwc, true, 0x0, 0x186A0, .none⟩,
  ⟨0x9306, 1, 1, .u64, .ro, false, 0x0, 0xFFFFFFFFFFFFFFFF, .none⟩,
  ⟨0x9310, 1, 1, .domain, .ro, false, 0x0, 0x0, .tenant⟩,
  ⟨0xA001, 1, 1, .u8, .rw, true, 0x1, 0x8, .none⟩,
  ⟨0xA002, 1, 16, .u64, .ro, true, 0x0, 0xFFFFFFFFFFFFFFFF, .none⟩,
  ⟨0xA003, 1, 16, .u64, .ro, true, 0x0, 0xFFFFFFFFFFFFFFFF, .none⟩,
  ⟨0xA005, 1, 16, .u8, .wo, false, 0x1, 0x1, .none⟩,
  ⟨0xA006, 1, 16, .u8, .ro, false, 0x0, 0xFF, .none⟩,
  ⟨0xA010, 1, 1, .u16, .ro, true, 0x0, 0xFFFF, .none⟩,
  ⟨0xA011, 1, 1, .u16, .ro, true, 0x0, 0xFFFF, .none⟩,
  ⟨0xA012, 1, 1, .u8, .ro, true, 0x0, 0xFF, .none⟩,
  ⟨0xA013, 1, 1, .u8, .ro, true, 0x0, 0xFF, .none⟩,
  ⟨0xA014, 1, 1, .u8, .rw, false, 0x0, 0xFF, .none⟩,
  ⟨0xA020, 1, 4, .u64, .ro, true, 0x0, 0xFFFFFFFFFFFFFFFF, .none⟩,
  ⟨0xA030, 1, 16, .u64, .rwc, true, 0x0, 0xFFFFFFFFFFFFFFFF, .none⟩,
  ⟨0xA031, 1, 16, .u32, .rwc, true, 0x0, 0xFFFFFFFF, .none⟩,
  ⟨0xA040, 1, 1, .u64, .ro, false, 0x0, 0xFFFFFFFFFFFFFFFF, .none⟩,
  ⟨0xA050, 1, 6, .bool, .rw, true, 0x0, 0x1, .none⟩,
  ⟨0xA051, 1, 6, .u8, .ro, false, 0x0, 0xFF, .none⟩,
  ⟨0xA052, 1, 6, .u32, .rw, true, 0x1, 0x93A80, .none⟩,
  ⟨0xA053, 1, 6, .u64, .rw, true, 0x1, 0xFFFFFFFFFFFFFFFF, .none⟩,
  ⟨0xA054, 1, 6, .u64, .ro, false, 0x0, 0xFFFFFFFFFFFFFFFF, .none⟩,
  ⟨0xA055, 1, 6, .u64, .ro, false, 0x0, 0xFFFFFFFFFFFFFFFF, .none⟩,
  ⟨0xA060, 1, 1, .u64, .rwc, true, 0x0, 0xFFFFFFFFFFFFFFFF, .none⟩,
  ⟨0xA061, 1, 1, .u32, .rwc, true, 0x0, 0x30000, .none⟩,
  ⟨0xA062, 1, 1, .domain, .rwc, true, 0x0, 0x0, .none⟩,
  ⟨0xA063, 1, 1, .bool, .wo, false, 0x0, 0x1, .none⟩,
  ⟨0xA064, 1, 1, .u8, .ro, false, 0x0, 0xFF, .none⟩,
  ⟨0xA100, 1, 1, .domain, .ro, false, 0x0, 0x0, .none⟩,
  ⟨0xA101, 1, 1, .u64, .ro, true, 0x0, 0xFFFFFFFFFFFFFFFF, .none⟩,
  ⟨0xA102, 1, 1, .u32, .rw, true, 0x3E8, 0x927C0, .none⟩,
  ⟨0xA103, 1, 1, .u32, .ro, true, 0x0, 0xFFFFFFFF, .none⟩,
  ⟨0xA104, 1, 1, .bool, .ro, false, 0x0, 0x1, .none⟩,
  ⟨0xB000, 1, 39, .domain, .ro, false, 0x0, 0x0, .none⟩,
  ⟨0xB001, 1, 39, .u8, .ro, false, 0x0, 0xFF, .none⟩,
  ⟨0xB002, 1, 1, .bool, .wo, false, 0x0, 0x1, .none⟩,
  ⟨0xB010, 1, 64, .u8, .rw, true, 0x1, 0x27, .none⟩,
  ⟨0xB011, 1, 64, .domain, .ro, false, 0x0, 0x0, .none⟩,
  ⟨0xB012, 1, 64, .domain, .ro, false, 0x0, 0x0, .none⟩,
  ⟨0xB020, 1, 64, .u64, .rw, true, 0x0, 0xFFFFFFFFFFFFFFFF, .none⟩,
  ⟨0xB021, 1, 64, .domain, .ro, false, 0x0, 0x0, .none⟩,
  ⟨0xB030, 1, 1, .u64, .rwc, true, 0x0, 0xFFFFFFFFFFFFFFFF, .none⟩,
  ⟨0xB031, 1, 1, .u64, .rwc, true, 0x10000, 0x1000000000, .none⟩,
  ⟨0xB032, 1, 1, .bool, .rw, true, 0x0, 0x1, .none⟩,
  ⟨0xB033, 1, 1, .u16, .rw, true, 0x0, 0xFFFF, .none⟩,
  ⟨0xB034, 1, 1, .u64, .rw, true, 0x0, 0xFFFFFFFFFFFFFFFF, .none⟩,
  ⟨0xB035, 1, 1, .u64, .ro, false, 0x0, 0xFFFFFFFFFFFFFFFF, .none⟩,
  ⟨0xB036, 1, 1, .u64, .ro, false, 0x0, 0xFFFFFFFFFFFFFFFF, .none⟩,
  ⟨0xB037, 1, 1, .u32, .rw, true, 0x1, 0x40000000, .none⟩,
  ⟨0xB038, 1, 1, .u64, .ro, false, 0x0, 0xFFFFFFFFFFFFFFFF, .none⟩,
  ⟨0xB039, 1, 1, .bool, .wo, false, 0x0, 0x1, .none⟩,
  ⟨0xB03A, 1, 1, .u64, .ro, false, 0x0, 0xFFFFFFFFFFFFFFFF, .none⟩]

/-- Dictionary lines 523 to 580, in index order. -/
def dictPart9 : List Entry := [
  ⟨0xB040, 1, 8, .u64, .rw, true, 0x0, 0xFFFFFFFFFFFFFFFF, .none⟩,
  ⟨0xB041, 1, 8, .u64, .rw, true, 0x0, 0xFFFFFFFFFFFFFFFF, .none⟩,
  ⟨0xB042, 1, 1, .u8, .wo, false, 0x0, 0x7, .none⟩,
  ⟨0xC000, 1, 1, .u8, .rw, true, 0x0, 0x4, .none⟩,
  ⟨0xC001, 1, 1, .u8, .rw, true, 0x2, 0x5, .none⟩,
  ⟨0xC002, 1, 1, .u8, .rw, true, 0x0, 0x3F, .none⟩,
  ⟨0xC003, 1, 1, .u8, .rw, true, 0x0, 0x5, .none⟩,
  ⟨0xC004, 1, 1, .u64, .ro, true, 0x0, 0xFFFFFFFFFFFFFFFF, .none⟩,
  ⟨0xC005, 1, 1, .u64, .rwc, true, 0x0, 0xFFFFFFFFFFFFFFFF, .none⟩,
  ⟨0xC006, 1, 1, .u32, .rwc, true, 0x400, 0x100000, .none⟩,
  ⟨0xC007, 1, 1, .u32, .ro, true, 0x0, 0xFFFFFFFF, .none⟩,
  ⟨0xC008, 1, 1, .u32, .rw, true, 0x0, 0xFFFFFFFF, .none⟩,
  ⟨0xC009, 1, 1, .u64, .ro, true, 0x0, 0xFFFFFFFFFFFFFFFF, .none⟩,
  ⟨0xC00A, 1, 1, .u64, .ro, true, 0x0, 0xFFFFFFFFFFFFFFFF, .none⟩,
  ⟨0xC00B, 1, 1, .u32, .ro, false, 0x0, 0xFFFFFFFF, .none⟩,
  ⟨0xC00C, 1, 1, .u32, .ro, true, 0x0, 0xFFFFFFFF, .none⟩,
  ⟨0xC010, 1, 1, .u32, .rw, true, 0x1, 0x36EE80, .none⟩,
  ⟨0xC011, 1, 5, .u16, .rw, true, 0x0, 0xFFFF, .none⟩,
  ⟨0xC012, 1, 64, .u32, .rw, true, 0x0, 0xFFFFFFFF, .none⟩,
  ⟨0xC013, 1, 1, .u64, .ro, false, 0x0, 0xFFFFFFFFFFFFFFFF, .none⟩,
  ⟨0xC014, 1, 1, .u64, .ro, false, 0x0, 0xFFFFFFFFFFFFFFFF, .none⟩,
  ⟨0xC020, 1, 16, .u32, .rw, true, 0x0, 0xFFFFFFFF, .none⟩,
  ⟨0xC021, 1, 1, .u64, .ro, false, 0x0, 0xFFFFFFFFFFFFFFFF, .none⟩,
  ⟨0xC022, 1, 1, .u64, .ro, false, 0x0, 0xFFFFFFFFFFFFFFFF, .none⟩,
  ⟨0xC030, 1, 16, .u64, .ro, true, 0x0, 0xFFFFFFFFFFFFFFFF, .none⟩,
  ⟨0xC040, 1, 1, .domain, .const, false, 0x0, 0x0, .none⟩,
  ⟨0xC041, 1, 1, .domain, .ro, false, 0x0, 0x0, .none⟩,
  ⟨0xD000, 1, 1, .u8, .rw, true, 0x0, 0x3, .none⟩,
  ⟨0xD001, 1, 1, .u8, .ro, false, 0x0, 0xFF, .none⟩,
  ⟨0xD002, 1, 1, .u8, .ro, false, 0x0, 0xFF, .none⟩,
  ⟨0xD003, 1, 1, .u64, .ro, false, 0x0, 0xFFFFFFFFFFFFFFFF, .none⟩,
  ⟨0xD010, 1, 16, .u8, .ro, false, 0x0, 0xFF, .none⟩,
  ⟨0xD011, 1, 16, .u8, .rw, true, 0x1, 0x3, .none⟩,
  ⟨0xD012, 1, 16, .u8, .rw, true, 0x1, 0xFF, .none⟩,
  ⟨0xD013, 1, 16, .u32, .ro, false, 0x0, 0xFFFFFFFF, .none⟩,
  ⟨0xD014, 1, 16, .u32, .rw, true, 0x0, 0xFFFFFFFF, .none⟩,
  ⟨0xD020, 1, 1, .u64, .ro, false, 0x0, 0xFFFFFFFFFFFFFFFF, .none⟩,
  ⟨0xD021, 1, 1, .u16, .rc, false, 0x0, 0xFFFF, .none⟩,
  ⟨0xD030, 1, 8, .u64, .rw, false, 0x0, 0xFFFFFFFFFFFFFFFF, .none⟩,
  ⟨0xD031, 1, 1, .u8, .rw, false, 0x0, 0xFF, .none⟩,
  ⟨0xD032, 1, 1, .u16, .rw, false, 0x0, 0xFFFF, .none⟩,
  ⟨0xD040, 1, 1, .u8, .rw, false, 0x0, 0xFF, .none⟩,
  ⟨0xD041, 1, 1, .u64, .ro, true, 0x0, 0xFFFFFFFFFFFFFFFF, .none⟩,
  ⟨0xD042, 1, 1, .u64, .ro, true, 0x0, 0xFFFFFFFFFFFFFFFF, .none⟩,
  ⟨0xD043, 1, 1, .u32, .ro, true, 0x0, 0xFFFFFFFF, .none⟩,
  ⟨0xD050, 1, 1, .u64, .ro, false, 0x0, 0xFFFFFFFFFFFFFFFF, .none⟩,
  ⟨0xD051, 1, 1, .u32, .ro, false, 0x0, 0xFFFFFFFF, .none⟩,
  ⟨0xD100, 1, 1, .u64, .ro, false, 0x0, 0xFFFFFFFFFFFFFFFF, .none⟩,
  ⟨0xD100, 2, 1, .bool, .ro, false, 0x0, 0x1, .none⟩,
  ⟨0xD100, 3, 1, .i64, .ro, false, 0x0, 0xFFFFFFFFFFFFFFFF, .none⟩,
  ⟨0xD100, 4, 1, .u32, .rw, true, 0xA, 0x7D0, .none⟩,
  ⟨0xD100, 5, 1, .u64, .rw, true, 0x3E8, 0x3B9ACA00, .none⟩,
  ⟨0xD100, 6, 1, .u64, .ro, true, 0x0, 0xFFFFFFFFFFFFFFFF, .none⟩,
  ⟨0xD100, 7, 1, .u32, .ro, false, 0x0, 0xFFFFFFFF, .none⟩,
  ⟨0xD100, 8, 1, .u32, .rw, true, 0x3E8, 0xEA60, .none⟩,
  ⟨0xD110, 1, 1, .u32, .ro, true, 0x0, 0xFFFFFFFF, .none⟩,
  ⟨0xD111, 1, 1, .u32, .ro, true, 0x0, 0xFFFFFFFF, .none⟩,
  ⟨0xD112, 1, 1, .u32, .ro, false, 0x0, 0xFFFFFFFF, .none⟩]

/-- Every line of the dictionary, in index order. -/
def dictTable : List Entry :=
  dictPart0 ++ dictPart1 ++ dictPart2 ++ dictPart3 ++ dictPart4 ++ dictPart5 ++ dictPart6 ++ dictPart7 ++ dictPart8 ++ dictPart9

/-- Non-zero defaults, by 256 × index + sub-index (sub-index 0: every sub-index of the index). -/
def defaults0 : Map Nat := [
  (0x100003, 0x4800),
  (0x100005, 0x100),
  (0x100007, 0x10),
  (0x100008, 0x40),
  (0x101001, 0xC000000000000FFF),
  (0x101101, 0xFF3),
  (0x110000, 0x2),
  (0x110500, 0x2710),
  (0x210000, 0x1000),
  (0x210100, 0x64),
  (0x211001, 0xFFFF000C),
  (0x211002, 0xFFFF000C),
  (0x211003, 0xFFFF000A),
  (0x211004, 0xFFFF0009),
  (0x211005, 0xFFFF0018),
  (0x211006, 0xFFFF0016),
  (0x211007, 0xFFFF0015),
  (0x211008, 0xFFFF0014),
  (0x211009, 0xFFFF0022),
  (0x211109, 0x20),
  (0x212000, 0xFFFF0000),
  (0x220000, 0x8),
  (0x220200, 0x186A0),
  (0x220600, 0x3E8),
  (0x220900, 0x2710),
  (0x230000, 0xFFFF),
  (0x230500, 0x64),
  (0x300200, 0x4000),
  (0x300300, 0x10000),
  (0x301103, 0x400),
  (0x301105, 0x1),
  (0x302102, 0x1000),
  (0x305100, 0x3E8),
  (0x310102, 0x2),
  (0x310105, 0x10000),
  (0x31010A, 0xF),
  (0x311000, 0xFFFF),
  (0x312000, 0x15180),
  (0x400102, 0x10000),
  (0x40010A, 0x400),
  (0x40010B, 0x1000)]

/-- Non-zero defaults, by 256 × index + sub-index (sub-index 0: every sub-index of the index). -/
def defaults1 : Map Nat := [
  (0x402100, 0x10000),
  (0x410101, 0x10),
  (0x410106, 0x800),
  (0x410107, 0x100),
  (0x410108, 0x40),
  (0x410109, 0x1),
  (0x500100, 0xFF),
  (0x500400, 0x1),
  (0x500500, 0x2000),
  (0x510001, 0x800),
  (0x510002, 0x2000),
  (0x510003, 0x100),
  (0x510004, 0x19),
  (0x510005, 0x1),
  (0x510006, 0x20),
  (0x510007, 0x8),
  (0x510008, 0x1000),
  (0x510009, 0x1800),
  (0x51000A, 0x3000),
  (0x51000B, 0xA000),
  (0x51000C, 0xC000),
  (0x51000D, 0xC8),
  (0x51000E, 0x1),
  (0x510010, 0x10000),
  (0x510101, 0x4000),
  (0x510102, 0x20000),
  (0x510103, 0x1000),
  (0x510104, 0x32),
  (0x510106, 0x10),
  (0x510107, 0x4),
  (0x510108, 0x2000),
  (0x510109, 0x3000),
  (0x51010A, 0x6000),
  (0x51010B, 0xC000),
  (0x51010C, 0xE000),
  (0x51010D, 0x3E8),
  (0x51010E, 0x1),
  (0x510110, 0x10000),
  (0x510201, 0x2000),
  (0x510202, 0x10000),
  (0x510203, 0x800),
  (0x510204, 0x28),
  (0x510206, 0x10),
  (0x510207, 0x4),
  (0x510208, 0x2000),
  (0x510209, 0x2800),
  (0x51020A, 0x6000),
  (0x51020B, 0xC000),
  (0x51020C, 0xF000),
  (0x51020D, 0x3E8),
  (0x510210, 0x10000)]

/-- Non-zero defaults, by 256 × index + sub-index (sub-index 0: every sub-index of the index). -/
def defaults2 : Map Nat := [
  (0x510301, 0x2000),
  (0x510302, 0x10000),
  (0x510303, 0x400),
  (0x510304, 0x1E),
  (0x510306, 0x8),
  (0x510307, 0x4),
  (0x510308, 0x2000),
  (0x510309, 0x3000),
  (0x51030A, 0x6000),
  (0x51030B, 0xC000),
  (0x51030C, 0xE000),
  (0x51030D, 0x7D0),
  (0x51030E, 0x1),
  (0x510310, 0x10000),
  (0x520000, 0x2000),
  (0x520100, 0x3000),
  (0x520200, 0x6000),
  (0x520300, 0xC000),
  (0x520400, 0xE000),
  (0x520700, 0x64),
  (0x540200, 0x14),
  (0x600200, 0x100000),
  (0x600600, 0x100),
  (0x600700, 0x40),
  (0x601900, 0x400),
  (0x602000, 0x5A),
  (0x700100, 0x1),
  (0x700200, 0x1),
  (0x700300, 0xFFFFFFFF),
  (0x701400, 0xB17217F8),
  (0x710000, 0x10),
  (0x710100, 0x3B9E0C71A4F258D3),
  (0x710200, 0x270C351C0B2C2514),
  (0x720000, 0xFF),
  (0x720100, 0x8),
  (0x720200, 0x40),
  (0x800800, 0x2710),
  (0x802000, 0x10),
  (0x802100, 0x10),
  (0x802300, 0x18)]

/-- Non-zero defaults, by 256 × index + sub-index (sub-index 0: every sub-index of the index). -/
def defaults3 : Map Nat := [
  (0x802400, 0x7D0),
  (0x802700, 0xAF8),
  (0x802B00, 0x1),
  (0x802C00, 0x1),
  (0x804100, 0x400),
  (0x810200, 0x2),
  (0x820102, 0x10000),
  (0x830100, 0xFFFF),
  (0x830400, 0x10000),
  (0x830600, 0x10000),
  (0x830700, 0x14),
  (0x830800, 0x3E8),
  (0x900000, 0x7),
  (0x901000, 0x1),
  (0x901100, 0x7D0),
  (0x902000, 0xFF),
  (0x902100, 0x80),
  (0x910500, 0xFA0),
  (0x911100, 0x64),
  (0x922200, 0x2710),
  (0x930100, 0x4000),
  (0x930200, 0x3E8),
  (0x930500, 0x258),
  (0xA00100, 0x2),
  (0xA05000, 0x1),
  (0xA05100, 0x1),
  (0xA05201, 0x15180),
  (0xA05202, 0xE10),
  (0xA05203, 0x1),
  (0xA05302, 0x10),
  (0xA05303, 0x10),
  (0xA05304, 0x400000),
  (0xA05305, 0x100000),
  (0xA05306, 0x10000),
  (0xA10200, 0x7530),
  (0xB00100, 0xF),
  (0xB01000, 0x5),
  (0xB03100, 0x10000),
  (0xB03300, 0xA6),
  (0xB03700, 0x400)]

/-- Non-zero defaults, by 256 × index + sub-index (sub-index 0: every sub-index of the index). -/
def defaults4 : Map Nat := [
  (0xC00000, 0x1),
  (0xC00100, 0x3),
  (0xC00300, 0x4),
  (0xC00600, 0x4000),
  (0xC01000, 0x3E8),
  (0xC01100, 0x40),
  (0xD01100, 0x3),
  (0xD01200, 0xE0),
  (0xD01400, 0x3E8),
  (0xD03200, 0x1),
  (0xD10004, 0x3E8),
  (0xD10005, 0x186A0),
  (0xD10008, 0x7D0)]

/-- The default of an entry; an entry that no list names defaults to 0. -/
def odDefault (idx sub : Nat) : Nat :=
  let l := if idx < 0x4021 then defaults0 else if idx < 0x5103 then defaults1 else if idx < 0x8024 then defaults2 else if idx < 0xC000 then defaults3 else defaults4
  if idx = 0xA053 ∧ sub = 1 then Config.scrubWords / 4
  else match Map.find? l (idx * 256) with
    | some v => v
    | none => Map.getD l (idx * 256 + sub) 0

end Sys2Proof.Machine
end

