-- ==== Sys2Proof/Machine/Ops.lean ====
section
/-! DEFINITION. Operations that every family of commands shares: dictionary values, the tables of the core island, core wall time,
interrupt vectors, events, trace records, and what the end of every command settles. -/

namespace Sys2Proof.Machine

open Sys2Proof

/-! ## Dictionary values -/

/-- Key of an entry's value: index, sub-index and the object a selector chooses (selectors of stored entries have 16 bits or fewer). -/
def odKey (idx sub obj : Nat) : Nat := (idx * 256 + sub) * 65536 + obj % 65536

/-- Value of an entry for an object; the default where nothing has been stored. -/
def Hw.getAt (h : Hw) (idx sub obj : Nat) : Nat :=
  match Map.find? h.od (odKey idx sub obj) with
  | some v => v
  | none => odDefault idx sub

/-- Value of an entry without a selector. -/
def Hw.get (h : Hw) (idx sub : Nat) : Nat := h.getAt idx sub 0

/-- Value of an entry whose default is 0. -/
def Hw.raw (h : Hw) (idx sub : Nat) : Nat := Map.getD h.od (odKey idx sub 0) 0

/-- Stores an entry's value for an object. -/
def Hw.setAt (h : Hw) (idx sub obj v : Nat) : Hw := { h with od := Map.insert h.od (odKey idx sub obj) v }

/-- Stores an entry's value. -/
def Hw.set (h : Hw) (idx sub v : Nat) : Hw := h.setAt idx sub 0 v

/-- Adds to a 64-bit count (it wraps, R8). -/
def Hw.bumpAt (h : Hw) (idx sub obj n : Nat) : Hw := h.setAt idx sub obj ((h.getAt idx sub obj + n) % 2 ^ 64)

/-- Adds to a 64-bit count without a selector. -/
def Hw.bump (h : Hw) (idx sub n : Nat) : Hw := h.bumpAt idx sub 0 n

/-- Adds 1 to a 64-bit count. -/
def Hw.inc (h : Hw) (idx sub : Nat) : Hw := h.bump idx sub 1

/-- Adds 1 to a counter of cc: once in a cc, however often it is asked for. -/
def Hw.incOnceAt (h : Hw) (idx sub obj : Nat) : Hw :=
  if odKey idx sub obj ∈ h.ccOnce then h else { h.bumpAt idx sub obj 1 with ccOnce := odKey idx sub obj :: h.ccOnce }

/-- The same of a counter without a selector. -/
def Hw.incOnce (h : Hw) (idx sub : Nat) : Hw := h.incOnceAt idx sub 0

/-! ## Tables of the core island -/

/-- Facet `f`. -/
def Hw.facet (h : Hw) (f : Nat) : Facet := Map.getD h.facets f Facet.reset
/-- Stores facet `f`. -/
def Hw.setFacet (h : Hw) (f : Nat) (x : Facet) : Hw := { h with facets := Map.insert h.facets f x }
/-- Changes facet `f`. -/
def Hw.modFacet (h : Hw) (f : Nat) (g : Facet → Facet) : Hw := h.setFacet f (g (h.facet f))
/-- Partition `p`. -/
def Hw.part (h : Hw) (p : Nat) : Part := Map.getD h.parts p Part.reset
/-- Stores partition `p`. -/
def Hw.setPart (h : Hw) (p : Nat) (x : Part) : Hw := { h with parts := Map.insert h.parts p x }
/-- Changes partition `p`. -/
def Hw.modPart (h : Hw) (p : Nat) (g : Part → Part) : Hw := h.setPart p (g (h.part p))
/-- Submission ring `r`. -/
def Hw.ring (h : Hw) (r : Nat) : Ring := Map.getD h.rings r Ring.reset
/-- Changes submission ring `r`. -/
def Hw.modRing (h : Hw) (r : Nat) (g : Ring → Ring) : Hw := { h with rings := Map.insert h.rings r (g (h.ring r)) }
/-- Delivery queue `q`. -/
def Hw.queue (h : Hw) (q : Nat) : Queue := Map.getD h.queues q Queue.reset
/-- Changes delivery queue `q`. -/
def Hw.modQueue (h : Hw) (q : Nat) (g : Queue → Queue) : Hw := { h with queues := Map.insert h.queues q (g (h.queue q)) }
/-- The live sequence in a Locus slot. -/
def Hw.seq? (h : Hw) (slot : Nat) : Option Seq := Map.find? h.seqs slot
/-- Stores the sequence of a slot. -/
def Hw.setSeq (h : Hw) (slot : Nat) (q : Seq) : Hw := { h with seqs := Map.insert h.seqs slot q }
/-- Changes the sequence of a slot, if the slot is live. -/
def Hw.modSeq (h : Hw) (slot : Nat) (g : Seq → Seq) : Hw :=
  match h.seq? slot with
  | some q => h.setSeq slot (g q)
  | none => h
/-- Changes a sequence's vertex in the open ledger. -/
def Hw.modCur (h : Hw) (slot : Nat) (g : Vertex → Vertex) : Hw := h.modSeq slot fun q => { q with cur := g q.cur }
/-- Descriptor of a tag, unless it is FREE. -/
def Hw.desc? (h : Hw) (t : Nat) : Option Desc := Map.find? h.descs t
/-- Changes a descriptor that is not FREE. -/
def Hw.modDesc (h : Hw) (t : Nat) (g : Desc → Desc) : Hw :=
  match h.desc? t with
  | some d => { h with descs := Map.insert h.descs t (g d) }
  | none => h
/-- Pool `p`. -/
def Hw.pool (h : Hw) (p : Nat) : Pool := Map.getD h.pages.pools p Pool.reset
/-- Changes pool `p`. -/
def Hw.modPool (h : Hw) (p : Nat) (g : Pool → Pool) : Hw :=
  { h with pages := { h.pages with pools := Map.insert h.pages.pools p (g (h.pool p)) } }
/-- Key of a facet's job: slot 1, or slot 2 for the urgent job. -/
def jobKey (f : Nat) (urgent : Bool) : Nat := 2 * f + if urgent then 1 else 0
/-- A facet's job. -/
def Hw.job (h : Hw) (f : Nat) (u : Bool) : Job := Map.getD h.jobs (jobKey f u) Job.idle
/-- Stores a facet's job. -/
def Hw.setJob (h : Hw) (f : Nat) (u : Bool) (j : Job) : Hw := { h with jobs := Map.insert h.jobs (jobKey f u) j }
/-- Changes a facet's job. -/
def Hw.modJob (h : Hw) (f : Nat) (u : Bool) (g : Job → Job) : Hw := h.setJob f u (g (h.job f u))
/-- Semaphore `n`. -/
def Hw.sem (h : Hw) (n : Nat) : Sem := Map.getD h.sems n Sem.free
/-- Changes semaphore `n`. -/
def Hw.modSem (h : Hw) (n : Nat) (g : Sem → Sem) : Hw := { h with sems := Map.insert h.sems n (g (h.sem n)) }
/-- Learner state of model `m`. -/
def Hw.learner (h : Hw) (m : Nat) : Learner := Map.getD h.learners m Learner.reset
/-- Changes the learner state of model `m`. -/
def Hw.modLearner (h : Hw) (m : Nat) (g : Learner → Learner) : Hw :=
  { h with learners := Map.insert h.learners m (g (h.learner m)) }
/-- Background task `t`. -/
def Hw.task (h : Hw) (t : Nat) : Task := Map.getD h.tasks t Task.reset
/-- Changes background task `t`. -/
def Hw.modTask (h : Hw) (t : Nat) (g : Task → Task) : Hw := { h with tasks := Map.insert h.tasks t (g (h.task t)) }
/-- Policy-core pair `p`. -/
def Hw.pair (h : Hw) (p : Nat) : Pair := Map.getD h.pairs p Pair.reset
/-- Delay list `l`. -/
def Hw.delay (h : Hw) (l : Nat) : DelayList := Map.getD h.delays l DelayList.reset
/-- Changes delay list `l`. -/
def Hw.modDelay (h : Hw) (l : Nat) (g : DelayList → DelayList) : Hw :=
  { h with delays := Map.insert h.delays l (g (h.delay l)) }

/-- Inserts into a list behind every element that does not come after it. -/
def insertBy {α : Type} (before : α → α → Bool) (x : α) : List α → List α
  | [] => [x]
  | y :: r => if before x y then x :: y :: r else y :: insertBy before x r

/-- Stable insertion sort; `before` is strict. -/
def sortBy {α : Type} (before : α → α → Bool) (l : List α) : List α := l.foldl (fun acc x => insertBy before x acc) []

/-- Partitions of a facet that are not masked: bits of FACET_PARTS without PART_MASKED (0x5000, 0x2201). -/
def Hw.facetParts (h : Hw) (f : Nat) : List Nat :=
  (setBits (h.raw 0x5000 (f + 1))).filter fun p => !(h.raw 0x2201 1).testBit p

/-- The facet a partition belongs to (R15). -/
def Hw.facetOf (h : Hw) (p : Nat) : Option Nat := (List.range 16).find? fun f => (h.raw 0x5000 (f + 1)).testBit p

/-- A facet's mode: 0 Apex, 1 Plane, 2 Lattice, 3 Chord; 0xFF none (0x5001). -/
def Hw.mode (h : Hw) (f : Nat) : Nat := h.get 0x5001 (f + 1)

/-- Whether a feature is active (R114). -/
def Hw.feature (h : Hw) (bit : Nat) : Bool := (h.raw 0x1012 (bit / 64 + 1)).testBit (bit % 64)

/-- Whether a feature is in force for dictionary writes (R114). -/
def Hw.featureForWrites (h : Hw) (bit : Nat) : Bool :=
  match h.eng.state with
  | .start | .config => (h.get 0x1011 (bit / 64 + 1)).testBit (bit % 64)
  | _ => h.feature bit

/-- Facet states in which phase reports are read (R27). -/
def FacetState.runs : FacetState → Bool
  | .active | .exclusive | .draining => true
  | _ => false

/-- The mode that governs a facet now: that of the running step's composition, or else the mode written (R18). -/
def Hw.modeNow (h : Hw) (f : Nat) : Nat :=
  if (h.facet f).state.runs && (h.facet f).stepRuns then (h.facet f).modeRun else h.mode f

/-! ## Time -/

/-- Core clock in MHz at a DVFS point (R39, R409). -/
def pointMhz : Nat → Nat
  | 0 => 2000
  | 1 => 1600
  | 2 => 1200
  | _ => 800

/-- The clock point in MHz that the engine's rules use: the faster of the point running and the point requested until the change is
acknowledged (R409). -/
def Hw.fMhz (h : Hw) : Nat := pointMhz (min h.pins.pointCur h.pins.pointReq)

/-- Core wall time in ns (R39). -/
def Hw.now (h : Hw) : Nat :=
  let tickNs := h.clk.inc / 64
  let elapsed := h.clk.n * 1000 / h.clk.mhz
  let t := h.clk.g + min elapsed (tickNs - 1)
  if t < h.clk.prev then h.clk.prev else t

/-- Floor of core wall time in µs. -/
def Hw.nowUs (h : Hw) : Nat := h.now / 1000

/-! ## Interrupt vectors -/

/-- Raises an interrupt vector: high in this cc, or carried where it was high in the cc before (R58). -/
def Hw.pulse (h : Hw) (v : Nat) : Hw :=
  if h.irq.prev.testBit v then { h with irq := { h.irq with carry := setBit h.irq.carry v } }
  else { h with irq := { h.irq with now := setBit h.irq.now v } }

/-- Appends a transfer on an output port. -/
def Hw.emit (h : Hw) (o : PortOut) : Hw := { h with out := h.out ++ [o] }

/-! ## Trace records -/

/-- Number of records of the trace ring (R388). -/
def Hw.traceRecords (h : Hw) : Nat := h.get 0xB031 1 / 32

/-- Records of 32 bytes in the 8 MiB trace buffer (R391). -/
def traceBufferRecords : Nat := 262144

/-- The 32 bytes of a trace record (R389). -/
def traceBytes (stamp index type unit : Nat) (facet : Option Nat) (payload : List Byte) : List Byte :=
  leBytes 8 stamp ++ leBytes 4 index ++ [BitVec.ofNat 8 type, BitVec.ofNat 8 unit,
    BitVec.ofNat 8 (match facet with | some f => f + 16 | none => 0), 0] ++ slice payload 0 16

/-- Appends a record to the trace buffer at the next index (R388). -/
def Hw.traceAppend (h : Hw) (bytes : Nat → List Byte) : Hw :=
  let i := h.raw 0xB035 1
  { h.set 0xB035 1 ((i + 1) % 2 ^ 64) with trace := { h.trace with buffer := h.trace.buffer ++ [(i, bytes i)] } }

/-- Drops a trace record for a cause (R391). -/
def Hw.traceDrop (h : Hw) (cause : Nat) : Hw :=
  let t := h.trace
  { h.inc 0xB036 1 with trace := { t with dropped := t.dropped + 1, dropCause := (if t.dropped = 0 then cause else t.dropCause),
                                          dropStamp := (if t.dropped = 0 then h.now else t.dropStamp) } }

/-- The GAP record that goes before the next record after drops (R391). -/
def Hw.traceGap (h : Hw) : Hw :=
  let t := h.trace
  if t.dropped = 0 then h
  else
    let h' := h.traceAppend fun i =>
      traceBytes t.dropStamp (i % 2 ^ 32) 15 0x0C none (leBytes 8 t.dropped ++ [BitVec.ofNat 8 t.dropCause])
    { h' with trace := { h'.trace with dropped := 0 } }

/-- Index at which recording meets the frozen window: T − P + n − 1 (R393). -/
def Hw.frozenLimit (h : Hw) : Option Nat :=
  let z := h.raw 0xB038 1
  if z.testBit 63 then
    let t := z % 2 ^ 63
    some (t - h.trace.frozenPre + h.traceRecords - 1)
  else none

/-- Whether recording has come to the frozen window. -/
def Hw.meetsFrozen (h : Hw) : Bool :=
  match h.frozenLimit with
  | some l => decide (l ≤ h.raw 0xB035 1)
  | none => false

/-- The GAP record at the frozen window, with the first record dropped there counted in it (R393). -/
def Hw.frozenGap (h : Hw) : Hw :=
  let i := h.raw 0xB035 1
  let h1 := (h.inc 0xB036 1).traceAppend fun i => traceBytes h.now (i % 2 ^ 32) 15 0x0C none (leBytes 8 1 ++ [2])
  { h1 with trace := { h1.trace with gapIndex := some i, gapCount := 1, gapWritten := 1, gapStamp := h.now } }

/-- Takes one record into the trace (R391, R393): dropped into the frozen window's GAP count, dropped while the buffer is full,
or appended after a pending GAP record. -/
def Hw.traceTake (h : Hw) (type unit : Nat) (facet : Option Nat) (payload : List Byte) : Hw :=
  let t := h.trace
  if t.gapIndex.isSome then
    { h.inc 0xB036 1 with trace := { t with gapCount := t.gapCount + 1 } }
  else if h.meetsFrozen then h.frozenGap
  else if t.buffer.length ≥ traceBufferRecords then h.traceDrop 0
  else
    let h1 := h.traceGap
    if h1.meetsFrozen then h1.frozenGap else h1.traceAppend fun i => traceBytes h.now (i % 2 ^ 32) type unit facet payload

/-- Records a trace record of a type, where FEAT_TRACE, TRACE_ENABLE and TRACE_TYPES ask for it (R388, R389). STALL records also
need the unit's bit of TRACE_UNITS. The record takes its index at the end of the command (R390). STEP, COMMAND, COMMIT, MARK, TRIGGER and GAP
records name OBS, which writes them (log entry 73, DESIGN CHOICE). -/
def Hw.traceRec (h : Hw) (type unit : Nat) (facet : Option Nat) (payload : List Byte) : Hw :=
  if h.raw 0xB032 1 = 1 ∧ h.feature 10 ∧ (h.get 0xB033 1).testBit type ∧ (type = 3 → (h.raw 0xB034 1).testBit unit) then
    { h with trace := { h.trace with made := h.trace.made ++ [(type, unit, facet, payload)] } }
  else h

/-! ## Events -/

/-- Sub-unit that an event of a family names (Table 1.1). The manual names no unit for family 0x0, which is no sub-unit's, for a sampler or core
pair event without an instance, or for family 0xE, which two sub-units share: 0, the first instance, and EVR (log entry 73, DESIGN CHOICE). -/
def familyUnit (fam : Nat) : Nat :=
  [0, 1, 2, 3, 4, 5, 0x10, 6, 7, 8, 9, 0x0A, 0x0B, 0x20, 0x0D, 0x0E].getD fam 0

/-- The code of an event whose low bits the manual does not state: `tag` is the rule's number times sixteen plus an ordinal. -/
def evCode (fam tag : Nat) : BitVec 16 := BitVec.ofNat 16 (fam * 4096) ||| (Config.eventLow tag).setWidth 16

/-- The rate limit of a code (R398); 0 is unlimited. -/
def Hw.rateLimit (h : Hw) (code : BitVec 16) (sev : Nat) : Nat :=
  match ((List.range 64).map fun i => h.raw 0xC012 (i + 1)).find? fun r => r / 65536 ≠ 0 && decide (BitVec.ofNat 16 r = code) with
  | some r => r / 65536
  | none => h.get 0xC011 (sev + 1)

/-- What a rate table says of one more occurrence, and the table after it (R398). -/
inductive RateAnswer where
  | log | suppress | untracked
deriving DecidableEq, Repr

/-- Counts one occurrence against a limit; 256 codes are tracked (R398). -/
def rateTake (limit : Nat) (e : Ev) (t : List RateEntry) : RateAnswer × List RateEntry :=
  let put := fun (f : RateEntry → RateEntry) => t.map fun r => if r.first.code = e.code then f r else r
  if limit = 0 then (.log, t)
  else match t.find? fun r => decide (r.first.code = e.code) with
    | some r =>
      if r.logged < limit then (.log, put fun x => { x with logged := x.logged + 1 })
      else (.suppress, put fun x => { x with suppressed := x.suppressed + 1 })
    | none => if t.length < 256 then (.log, t ++ [{ first := e, logged := 1, suppressed := 0 }]) else (.untracked, t)

/-- The record of an event (Table 16.6). -/
def Hw.eventRec (h : Hw) (e : Ev) (seq count : Nat) (summary : Bool) (stamp : Nat) : EventRec :=
  { seq := seq, code := e.code, stamp := stamp, severity := e.sev, summary := summary, snap := [], partSeq := 0, unit := e.unit,
    facet := e.facet, part := e.part, count := count,
    step := (match e.facet with | some f => (h.facet f).step | none => 0),
    detail := e.detail, dueMem := h.raw 0xC005 1 ≠ 0, duePersist := h.get 0xC001 1 ≤ e.sev }

/-- Takes the next sequence numbers. -/
def Hw.takeSeq (h : Hw) (n : Nat) : Hw := h.set 0xC004 1 ((h.raw 0xC004 1 + n) % 2 ^ 48)

/-- A logged event: its sequence number, the notices and vector it raises, its place in the intake, and its EVENT trace record
(R395, R402, R403, R57, Table 16.4). -/
def Hw.logRecord (h : Hw) (e : Ev) (count : Nat) (summary : Bool) (stamp : Nat) : Hw :=
  if h.events.stopBelowS4 ∧ e.sev < 4 then h
  else
    let seq := h.raw 0xC004 1
    let h1 := h.takeSeq 1
    let h2 := if e.sev ≥ 3 then { h1 with events := { h1.events with notice := setBit h1.events.notice e.fam } } else h1
    let h3 := if e.sev ≥ h.get 0xC003 1 then h2.pulse (h.raw 0xC002 1) else h2
    let h4 :=
      if h.events.intake.length < 64 then
        { h3 with events := { h3.events with intake := h3.events.intake ++ [h.eventRec e seq count summary stamp] } }
      else { h3.inc 0xC00A 1 with events := { h3.events with lostIntake := h3.events.lostIntake + 1 } }
    h4.traceRec 7 e.unit e.facet (leBytes 6 seq ++ leBytes 2 e.code.toNat ++ [BitVec.ofNat 8 e.sev])

/-- An occurrence of an event: counted in its family (R394); whether it is logged is settled at the end of the command, in ascending
sub-unit (R395). -/
def Hw.raiseEv (h : Hw) (e : Ev) : Hw :=
  let h1 := h.inc 0xC030 (e.fam + 1)
  { h1 with events := { h1.events with raised := h1.events.raised ++ [e] } }

/-- Where the rate-limit window has ended by the present stamp, what it suppressed waits to be summed up, and the next window runs: an
occurrence belongs to the half-open window of its own stamp (R41, R398). -/
def Hw.rollRates (h : Hw) : Hw :=
  let e := h.events
  let len := e.rateMs * 1000000
  if e.rateNs / len < h.now / len then
    { h with events := { e with
        rates := [], rateMs := h.get 0xC010 1, rateNs := h.now,
        closed := e.closed ++ (e.rates.filter fun r => r.suppressed ≠ 0).map fun r => (r, (e.rateNs / len + 1) * len) } }
  else h

/-- Logs an occurrence when its severity reaches LOG_MIN and its rate limit allows it; S5 is always logged (R394, R398). -/
def Hw.logEvent (h : Hw) (e : Ev) : Hw :=
  if e.sev = 5 then h.logRecord e 1 false h.now
  else if e.sev < h.get 0xC000 1 then h
  else
    let h1 := h.rollRates
    let r := rateTake (h1.rateLimit e.code e.sev) e h1.events.rates
    let h2 := { h1 with events := { h1.events with rates := r.2 } }
    match r.1 with
    | .log => h2.logRecord e 1 false h.now
    | .untracked => (h2.inc 0xC014 1).logRecord e 1 false h.now
    | .suppress => h2.inc 0xC013 1

/-- Raises an event of a family, whose code's low bits the manual does not state. `tag`: rule number × 16 + ordinal. -/
def Hw.event (h : Hw) (fam tag sev : Nat) (facet part : Option Nat) : Hw :=
  h.raiseEv { fam := fam, code := evCode fam tag, sev := sev, unit := familyUnit fam, facet := facet, part := part, detail := [] }

/-- Raises the event of a family for one unit instance (a lane or a core pair). -/
def Hw.eventUnit (h : Hw) (fam tag sev unit : Nat) (facet : Option Nat) : Hw :=
  h.raiseEv { fam := fam, code := evCode fam tag, sev := sev, unit := unit, facet := facet, part := none, detail := [] }

/-! ## Engine state -/

/-- Codes of Table 5.8. -/
def EngState.code : EngState → Nat
  | .off => 0 | .retain => 1 | .start => 2 | .config => 3 | .operational => 4 | .draining => 5 | .quiesced => 6 | .faultHold => 7

/-- Codes of Table 3.7. -/
def FacetState.code : FacetState → Nat
  | .unassigned => 0 | .standby => 1 | .active => 2 | .exclusive => 3 | .draining => 4 | .halted => 5

/-- A transition of the engine: the state left is kept in 0x1103, 0x1104 counts, and DOMAIN snapshots and staged values end
(R105, Table 5.11). -/
def Hw.enter (h : Hw) (st : EngState) : Hw :=
  let h' := (h.set 0x1103 1 h.eng.state.code).inc 0x1104 1
  { h' with eng := { h'.eng with state := st }, snaps := [], staged := [] }

/-! ## The frame of a command -/

/-- A snapshot's 192 bytes (Table 16.7). -/
def Hw.snapshot (h : Hw) : List Byte :=
  [BitVec.ofNat 8 h.eng.state.code, 0] ++ leBytes 2 (h.raw 0xA010 1) ++ leBytes 8 (h.raw 0x2201 1) ++
  leBytes 4 h.descs.length ++ leBytes 4 h.seqs.length ++ leBytes 2 h.smp.store.length ++ leBytes 2 h.secUsed ++
  leBytes 2 (h.mem.out.filter fun r => r.channel = 0).length ++ leBytes 2 (h.mem.out.filter fun r => r.channel = 1).length ++
  [0, 0, 0, 0] ++
  ((List.range 16).map fun f =>
    BitVec.ofNat 8 ((h.facet f).state.code + 8 * (if (h.facet f).state = .unassigned then 0 else h.mode f % 4)) ::
      BitVec.ofNat 8 (h.raw 0xA006 (f + 1)) :: leBytes 2 (h.facet f).phase ++ leBytes 6 ((h.facet f).step % 2 ^ 48)).flatten

/-- Whether an event's code matches a snapshot rule (R396). -/
def Hw.snapMatch (h : Hw) (code : BitVec 16) : Bool :=
  (List.range 16).any fun i =>
    let r := h.raw 0xC020 (i + 1)
    r / 65536 ≠ 0 && (code.toNat &&& (r / 65536)) == (r % 65536 &&& (r / 65536))

/-- Attaches the cc's snapshot to the first event of the cc that matches a rule, where it is one that the command has logged: one of sequence
number `first` or above (R396). The snapshot shows the machine before the cc's updates; where no cc start has been kept, the machine `before` the
command. Its eight parts take the next sequence numbers. -/
def Hw.attachSnap (before h : Hw) (first : Nat) : Hw :=
  if odKey 0xC020 0 0 ∈ h.ccOnce then h
  else match h.events.intake.find? fun e => decide (first ≤ e.seq) && before.snapMatch e.code with
    | some x =>
      let n := h.raw 0xC004 1
      let snap := if h.ccSnap = [] then before.snapshot else h.ccSnap
      { h.takeSeq 8 with
        ccOnce := odKey 0xC020 0 0 :: h.ccOnce,
        events := { h.events with intake := h.events.intake.map fun e => if e.seq = x.seq then { e with snap := snap, partSeq := n } else e } }
    | none => h

/-- Whether some snapshot rule is on (R396). -/
def Hw.snapRules (h : Hw) : Bool := (List.range 16).any fun i => decide (65536 ≤ h.raw 0xC020 (i + 1))

/-- A trigger fires: it disarms at once and counts; its record follows at the end of the command (R392). -/
def Hw.fireTrigger (h : Hw) (n : Nat) : Hw :=
  let h1 := (h.set 0xB040 (n + 1) (clearBit (h.raw 0xB040 (n + 1)) 3)).inc 0xB03A 1
  { h1 with trace := { h1.trace with fired := n :: h1.trace.fired } }

/-- The TRIGGER record of a firing, taken whatever the trace settings; it freezes the window before it unless one is frozen (R392,
R393). -/
def Hw.triggerRecord (h : Hw) (n : Nat) : Hw :=
  let t := h.raw 0xB035 1
  let h2 := h.traceTake 14 0x0C none ([BitVec.ofNat 8 n, BitVec.ofNat 8 (h.raw 0xB040 (n + 1) % 8)] ++ List.replicate 6 0 ++
    leBytes 8 (h.raw 0xB041 (n + 1)))
  if (h.raw 0xB038 1).testBit 63 ∨ h2.raw 0xB035 1 = t then h2
  else
    { h2.set 0xB038 1 (2 ^ 63 + (h2.raw 0xB035 1 - 1)) with
      trace := { h2.trace with frozenPre := min (h.get 0xB037 1) (h.traceRecords / 2) } }

/-- Whether an armed trigger of kind 2 or 3 fires on the events raised (R392). -/
def Hw.eventTrigger (h : Hw) (n : Nat) : Bool :=
  let w := h.raw 0xB040 (n + 1)
  let v := h.raw 0xB041 (n + 1)
  w.testBit 3 &&
  ((w % 8 == 2 && h.events.raised.any fun r => (r.code.toNat &&& bits v 31 16) == (bits v 15 0 &&& bits v 31 16)) ||
   (w % 8 == 3 && h.events.raised.any fun r => decide (v % 8 ≤ r.sev)))

/-- The end of a command: its events are logged and its trace records take their indices, each in ascending sub-unit and within one in
the order made; the snapshot is attached and the triggers that fired write their records in ascending number (R390, R392, R395, R396).
A command that may find faults has answered them before this (`State.onCoreF`, `State.onAll`), so the list it clears is empty. -/
def Hw.settle (before h : Hw) : Hw :=
  let h1 := (sortBy (fun a b => decide (a.unit < b.unit)) h.events.raised).foldl Hw.logEvent h
  let h2 := before.attachSnap h1 (h.raw 0xC004 1)
  let h3 := (List.range 8).foldl (fun a n => if a.eventTrigger n then a.fireTrigger n else a) h2
  let h4 := (sortBy (fun a b => decide (a.2.1 < b.2.1)) h3.trace.made).foldl (fun a r => a.traceTake r.1 r.2.1 r.2.2.1 r.2.2.2) h3
  let h5 := ((List.range 8).filter fun n => h3.trace.fired.contains n).foldl Hw.triggerRecord h4
  { h5 with events := { h5.events with raised := [] }, trace := { h5.trace with made := [], fired := [] }, faults := [] }

/-- Marks a unit as advancing work in this cc. -/
def Hw.markBusy (h : Hw) (unit : Nat) : Hw :=
  { h with trace := { h.trace with busy := if unit ∈ h.trace.busy then h.trace.busy else unit :: h.trace.busy } }

/-- A unit that has advanced nothing in this cc. -/
def Hw.markIdle (h : Hw) (unit : Nat) : Hw := { h with trace := { h.trace with busy := h.trace.busy.filter fun u => u ≠ unit } }

/-- No further command joins the present cc: what this one has written applies from the next on (chapter 16, below Table 16.9). -/
def Hw.lastOfCc (h : Hw) : Hw := { h with ccNext := 0x300001 }

/-- Whether the core island runs: powered, and not held in reset. -/
def State.live (s : State) : Bool :=
  !(s.hw.eng.state == .off || s.hw.eng.state == .retain || s.hw.pins.rstLow)

/-- The core island at the start of a command: the unit is marked as advancing work in this cc. -/
def Hw.begin (h : Hw) (unit : Nat) : Hw := h.markBusy unit

end Sys2Proof.Machine
end

