-- ==== Sys2Proof/Machine/Mem.lean ====
section
/-! DEFINITION. The memory port: channels, tags, MOV's queues and the requests that wait for a response (R59 to R68). -/

namespace Sys2Proof.Machine

open Sys2Proof

/-- Sub-index of a purpose (Table 3.10). -/
def Purpose.sub : Purpose → Nat
  | .ring => 1 | .page => 2 | .locus => 3 | .fed => 4 | .event => 5 | .exper => 6 | .start => 7 | .account => 8 | .trace => 9

/-- Channel of an address: the parity of its bits that CHANNEL_SELECT picks (R63). -/
def Hw.channelOf (h : Hw) (addr : Nat) : Nat := popcount (addr &&& h.get 0x2100 1) % 2

/-- QoS, class and ways of an access: the purpose's, with class and ways of the tenant's isolation group where that is 1 to 7 (R64). -/
def Hw.memTags (h : Hw) (p : Purpose) (tenant : Option Nat) : Nat × Nat × Nat :=
  let w := h.get 0x2110 p.sub
  let g := match tenant with | some t => h.getAt 0x3101 3 t | none => 0
  if g = 0 then (bits w 3 0, bits w 6 4, bits w 31 16)
  else
    let v := h.get 0x2120 g
    (bits w 3 0, bits v 6 4, bits v 31 16)

/-- Whether a channel can take one more request of a kind: 512 reads, 256 writes (R60). A request whose watchdog has expired still holds
its place until its late response: the manual states the limits for outstanding requests and does not say when one past its watchdog
ceases to be one (log entry 115, DESIGN CHOICE). -/
def MemPort.hasRoom (m : MemPort) (ch : Nat) (write : Bool) : Bool :=
  decide ((m.out.filter fun r => r.channel = ch && r.write == write).length < if write then 256 else 512)

/-- A transaction tag that no outstanding request of the channel bears (Table 3.9). -/
def MemPort.freeTag (m : MemPort) (ch : Nat) : Nat :=
  ((List.range 1024).find? fun t => m.out.all fun r => !(r.channel == ch && r.tag == t)).getD 0

/-- `mem_idle`: neither channel has a request, write beat or response outstanding (R59). -/
def Hw.memIdle (h : Hw) : Bool := h.mem.out == []

/-- The bytes a request touches: first address and number. -/
def MemReq.span (r : MemReq) : Nat × Nat := if r.write then (r.addr + r.lead, r.data.length) else (r.addr, 64 * r.beats)

/-- Whether two requests touch a common byte and one of them writes it: the later of the two waits for the earlier one's response (R62). -/
def MemReq.meets (a b : MemReq) : Bool :=
  (a.write || b.write) && decide (a.span.1 < b.span.1 + b.span.2) && decide (b.span.1 < a.span.1 + a.span.2)

/-- Whether a purpose's rate cap allows a request now: with it, the bytes of the trailing 1 µs stay within the cap × 1 µs (R65). A request
larger than the whole allowance goes where the purpose has moved nothing in that time (log entry 69, DESIGN CHOICE). -/
def Hw.capAllows (h : Hw) (r : MemReq) : Bool :=
  let cap := h.get 0x2111 r.purpose.sub
  let moved := ((h.mem.moved.filter fun e => e.2.1 = r.purpose.sub && decide (h.now < e.1 + 1000)).map fun e => e.2.2).sum
  cap == 0 || decide (moved + 64 * r.beats ≤ 1000 * cap) || moved == 0

/-- The queued requests that may transfer now, in order of arrival: their channel has room, their purpose's cap allows it, and no earlier
access that they must follow is still without its response (R60, R62, R65, R423). -/
def Hw.memReady (h : Hw) : List MemReq :=
  let running := (h.mem.out.filter fun q => !q.expired) ++ h.mem.failed
  (h.mem.queue.foldl (fun (acc : List MemReq × List MemReq) r =>
    (r :: acc.1,
     if (acc.1.all fun q => !q.meets r) && (running.all fun q => !q.meets r) && h.mem.hasRoom r.channel r.write && h.capAllows r
     then acc.2 ++ [r] else acc.2)) ([], [])).2

/-- How far a request's purpose is from its turn among the purposes of its QoS value on its channel (R65). -/
def MemPort.turnOf (m : MemPort) (r : MemReq) : Nat := (r.purpose.sub + 17 - Map.getD m.served (16 * r.channel + r.qos) 0) % 9

/-- Whether one ready request goes before another: by channel, then descending QoS, then the turn of its purpose (R65). -/
def MemPort.before (m : MemPort) (a b : MemReq) : Bool :=
  decide (a.channel < b.channel) ||
  (a.channel == b.channel && (decide (b.qos < a.qos) || (a.qos == b.qos && decide (m.turnOf a < m.turnOf b))))

/-- Transfers a request on its channel; its watchdog runs from here (R67). -/
def Hw.memIssue (h : Hw) (r : MemReq) : Hw :=
  let r' := { r with tag := h.mem.freeTag r.channel, sinceNs := h.now, expired := false }
  let h' := h.bump 0x2112 r.purpose.sub (64 * r.beats)
  let late := h'.mem.moved.filter fun e => decide (h.now < e.1 + 1000)
  { h' with mem := { h'.mem with
      out := h'.mem.out ++ [r'], queue := h'.mem.queue.erase r,
      served := Map.insert h'.mem.served (16 * r.channel + r.qos) r.purpose.sub,
      moved := if h.get 0x2111 r.purpose.sub = 0 then late else late ++ [(h.now, r.purpose.sub, 64 * r.beats)] } }

/-- Transfers queued requests, at most `n`, in the order of R65. -/
def Hw.memPumpN : Nat → Hw → Hw
  | 0, h => h
  | n + 1, h =>
    match sortBy h.mem.before h.memReady with
    | r :: _ => memPumpN n (h.memIssue r)
    | [] => h

/-- Transfers every queued request that may go. -/
def Hw.memPump (h : Hw) : Hw := h.memPumpN h.mem.queue.length

/-- Hands a request to MOV, which issues it at once where it may go (R65). -/
def Hw.memSend (h : Hw) (r : MemReq) : Hw := Hw.memPump { h with mem := { h.mem with queue := h.mem.queue ++ [r] } }

/-- Hands MOV an access that is issued again: it keeps its place before accesses that wait for it (R62, R68, R423). -/
def Hw.memAgain (h : Hw) (r : MemReq) : Hw := Hw.memPump { h with mem := { h.mem with queue := r :: h.mem.queue } }

/-- Starts an access of at most 64 beats that crosses no 4 KiB boundary: requests begin at a 64-byte line, and a write's byte enables start
at its own first byte (R59, R63, R64). Longer runs go through `Hw.writeBytes` and `Hw.readBytes`. -/
def Hw.memPost (h : Hw) (write : Bool) (addr beats : Nat) (data : List Byte) (p : Purpose) (tenant : Option Nat) (use : MemUse) : Hw :=
  let t := h.memTags p tenant
  h.memSend { channel := h.channelOf addr, tag := 0, write := write, addr := addr / 64 * 64, beats := beats,
              lead := addr % 64, data := data, purpose := p,
              qos := t.1, cls := t.2.1, ways := t.2.2, tenant := tenant, use := use, retried := false, sinceNs := 0,
              expired := false, fails := 0, reissueNs := none }

/-- Pieces of a run of bytes, cut at every 4 KiB boundary (R59), with their addresses; `fuel` bounds the pieces. -/
def writeChunks : Nat → Nat → List Byte → List (Nat × List Byte)
  | 0, _, _ => []
  | fuel + 1, addr, l =>
    if l = [] then []
    else
      let k := 4096 - addr % 4096
      (addr, l.take k) :: writeChunks fuel (addr + k) (l.drop k)

/-- Writes a run of bytes, each request with the same use. A request starts at the 64-byte line of its first byte. -/
def Hw.writeBytes (h : Hw) (addr : Nat) (l : List Byte) (p : Purpose) (tenant : Option Nat) (use : MemUse) : Hw :=
  (writeChunks (l.length + 1) addr l).foldl (fun a c =>
    a.memPost true c.1 (ceilDiv (c.1 % 64 + c.2.length) 64) c.2 p tenant use) h

/-- Requests that a run of `n` bytes from `addr` takes. -/
def chunkCount (addr n : Nat) : Nat := if n = 0 then 0 else (addr % 4096 + n + 4095) / 4096

/-- Reads `n` bytes from `addr` in whole 64-byte lines, cut at every 4 KiB boundary (R59). -/
def Hw.readBytes (h : Hw) (addr n : Nat) (p : Purpose) (tenant : Option Nat) (use : MemUse) : Hw :=
  (List.range (chunkCount addr n)).foldl (fun a k =>
    let lo := max (addr / 64 * 64) (addr / 4096 * 4096 + 4096 * k)
    let hi := min (ceilDiv (addr + n) 64 * 64) (addr / 4096 * 4096 + 4096 * (k + 1))
    a.memPost false lo ((hi - lo) / 64) [] p tenant use) h

/-- The outstanding request a response names. -/
def Hw.memFind (h : Hw) (ch tag : Nat) (write : Bool) : Option MemReq :=
  h.mem.out.find? fun r => r.channel = ch && r.tag = tag && r.write == write

/-- Takes a request off its channel; its tag is free again and queued requests may follow. -/
def Hw.memRemove (h : Hw) (r : MemReq) : Hw := Hw.memPump { h with mem := { h.mem with out := h.mem.out.erase r } }

/-- Every access that is outstanding, queued, or failed and waiting to be issued again. -/
def MemPort.all (m : MemPort) : List MemReq := m.out ++ m.queue ++ m.failed

/-- Changes what the accesses under way are for. -/
def Hw.reuse (h : Hw) (g : MemUse → MemUse) : Hw :=
  let m := fun (l : List MemReq) => l.map fun r => { r with use := g r.use }
  { h with mem := { h.mem with out := m h.mem.out, queue := m h.mem.queue, failed := m h.mem.failed } }

/-- An access once its ring is disabled: nothing of the ring waits on it any more; a record still goes to its entry's address. -/
def MemUse.offRing (r : Nat) : MemUse → MemUse
  | .admissionRecord k => if k = r then .other else .admissionRecord k
  | .admissionVertex (some k) slot addr record => .admissionVertex (if k = r then none else some k) slot addr record
  | .admissionRead k => if k = r then .other else .admissionRead k
  | u => u

/-- An access once the admission under way has ended. -/
def MemUse.offTrial : MemUse → MemUse
  | .promptRead | .walkRead => .other
  | u => u

/-- An access once ADM decides no more. -/
def MemUse.offEntry : MemUse → MemUse
  | .admissionRead _ => .other
  | u => u

/-- Whether some access that `f` picks is outstanding, queued, or failed and waiting to be issued again. -/
def Hw.memWaiting (h : Hw) (f : MemUse → Bool) : Bool := h.mem.all.any fun r => f r.use

end Sys2Proof.Machine
end

