-- ==== Sys2Proof/Machine/Units.lean ====
section
/-! DEFINITION. What state each counted sub-unit is in (R382, R383, R226). -/

namespace Sys2Proof.Machine

open Sys2Proof

/-- The counted instances by unit ID (R382): ADM to EVR, SMP0 to SMP15, PC0 to PC7. -/
def countedUnits : List Nat :=
  (List.range 13).map (· + 1) ++ (List.range 16).map (· + 0x10) ++ (List.range 8).map (· + 0x20)

/-- Whether some facet's replay runs (R366). -/
def Hw.replaying (h : Hw) : Bool := h.facets.any fun e => e.2.recovering

/-- The sub-unit whose work a memory access is; MOV carries every one. -/
def MemUse.unit : MemUse → Option Nat
  | .admissionRecord _ | .admissionVertex _ _ _ _ | .admissionRead _ | .promptRead => some 1
  | .deliveryEntry _ _ | .queueHeader _ _ | .journalEntry _ _ | .journalSeal _ | .tableLine _ | .vertexRead _ _ => some 2
  | .kvList _ _ | .moveLeaf _ _ | .walkRead => some 3
  | .stepWrite _ _ => some 4
  | .graphRead _ _ => some 5
  | .experience _ _ | .experienceCount _ | .telemetry _ _ | .learnHeader _ _ | .updatePart _ _ | .fedFrame | .fedCount | .fedIn | .fedPoll | .fedUnits | .flipRead _ _ _ => some 8
  | .contextRecord _ => some 0xA
  | .traceRecord _ => some 0xC
  | .eventRecord _ => some 0xD
  | _ => none

/-- Whether a retry of a memory access that `p` picks is outstanding (R68). -/
def Hw.retryRuns (h : Hw) (p : MemUse → Bool) : Bool :=
  (h.mem.out ++ h.mem.queue).any fun r => r.retried && r.fails == 0 && !r.expired && p r.use

/-- The context shown as resident on a partition. Between a facet's entry into EXCLUSIVE and the read of its job's header the context is
the one the unread header names: a free value (log entry 116, DESIGN CHOICE). -/
def Hw.residentShown (h : Hw) (p : Nat) : Nat :=
  let x := (h.part p).resident
  if x = 0x10000 then Config.freeNat 229 p % 2 ^ 16 else x

/-- Descriptors a facet holds. -/
def Hw.descHeld (h : Hw) (f : Nat) : Nat := (h.descs.filter fun e => e.2.facet = f).length

/-- Arena entries a facet holds (R226). -/
def Hw.arenaHeld (h : Hw) (f : Nat) : Nat := ((h.descs.filter fun e => e.2.facet = f).map fun e => e.2.succ.length).sum

/-- Whether a facet's allotments of descriptors and arena entries hold an iteration of a job (R207, R226). -/
def Hw.iterationFits (h : Hw) (f : Nat) (j : Job) : Bool :=
  decide (h.descHeld f + j.nodes.length ≤ 2 * h.get 0x5005 (f + 1)) &&
  decide (h.arenaHeld f + (j.nodes.map fun n => n.succ.length).sum ≤ 8 * h.get 0x5005 (f + 1))

/-- Whether a job's last iteration has been decided. -/
def Job.finished (j : Job) : Bool := j.iterations != 0 && decide (j.iterations ≤ j.iteration)

/-- Whether an iteration of a job, its graph read, waits for descriptors or arena entries (R226). -/
def Hw.loadWaits (h : Hw) (f : Nat) (j : Job) : Bool :=
  j.graphOk && (j.state == .loading || j.state == .running) && j.gateTag.isNone && !j.finished && !j.suspended && !h.iterationFits f j

/-- A page copy waits for a descriptor (R209): PGM's list of them by facet. -/
def Hw.copyWaits (h : Hw) (f : Nat) : Bool := h.pages.waits.any fun w => w.facet == f

/-- The first code whose condition holds; idle where none does. -/
def firstCode (l : List (Bool × Nat)) : Nat := ((l.find? fun e => e.1).map Prod.snd).getD 0xF

/-- DSP's state when it advances nothing, in its own order of reasons (R226). -/
def Hw.dspCode (h : Hw) : Nat :=
  if h.descs = [] ∧ (h.jobs.all fun j => j.2.state ≠ .loading) then 0xF
  else firstCode
    [(h.replaying, 0xB),
     (h.retryRuns fun u => u.unit == some 5, 9),
     (h.memWaiting fun u => u.unit == some 5, 2),
     (h.jobs.any fun e => h.loadWaits (e.1 / 2) e.2, 7),
     (h.learners.any fun l => match l.2.request with | some (.attempt _ _) => true | _ => false, 7),
     (h.parts.any fun p => p.2.credits = 0 && p.2.ready ≠ [], 4),
     (h.descs.any fun d => d.2.state = .delayed && (match d.2.delay with
        | some (l, _) => decide (h.raw 0x6300 (l + 1) ≥ 16) | none => false), 1),
     (true, 5)]

/-- The state code of a unit that advances nothing in a cc: its first stall reason in the order of R382 where it holds work, idle where it
holds none. CTX reports WAIT_SEM in every cc in which a grant is awaited (R320). -/
def Hw.restCode (h : Hw) (u : Nat) : Nat :=
  let retry := (h.retryRuns fun x => x.unit == some u, 9)
  let mem := (h.memWaiting fun x => x.unit == some u, 2)
  match u with
  | 1 => firstCode [retry, mem, (h.rings.any fun r => r.2.hold ≠ 0, 7)]
  | 2 => firstCode [retry, mem]
  | 3 => firstCode [retry, mem, (h.pages.waits ≠ [], 7), (h.pages.moves ≠ [], 5)]
  | 4 => if h.facets.any fun e => e.2.composing.isSome then firstCode [(h.replaying, 0xB), retry, (true, 1)] else 0xF
  | 5 => h.dspCode
  | 6 => if h.replaying then 0xB else 0xF
  | 7 => if h.secUsed > 0 then firstCode [(h.replaying, 0xB), (true, 3)] else 0xF
  | 8 => firstCode [retry, (h.jobs.any fun j => j.2.gateReady, 2), (h.learners.any fun l => l.2.request.isSome, 5)]
  | 0x0A => firstCode [retry, mem, (h.switches ≠ [], 5)]
  | 0x0B => firstCode [(h.retryRuns fun _ => true, 9), (h.mem.out ≠ [] || h.mem.queue ≠ [], 2)]
  | 0x0C => firstCode [retry, (h.trace.buffer ≠ [], 0xA)]
  | 0x0D => firstCode [retry, (h.events.intake ≠ [] || h.events.buffer.any fun e => e.dueMem || e.duePersist, 0xA)]
  | u =>
    if 0x10 ≤ u ∧ u < 0x20 then 
      firstCode [(h.replaying && h.smp.store != [], 0xB), ((Map.find? h.smp.held (u - 0x10)).isSome, 7), (h.smp.store != [], 3)]
    else if 0x20 ≤ u ∧ u < 0x28 then firstCode [((h.pair (u - 0x20)).resyncing, 0xC)]
    else 0xF

/-- Whether some semaphore has a waiter. -/
def Hw.grantAwaited (h : Hw) : Bool := h.sems.any fun e => e.2.waiters ≠ []

/-- The state code of a unit in this cc: busy where it has advanced work. CTX reports WAIT_SEM whatever else it does while a grant is
awaited (R320; log entry 143, DEDUCED). -/
def Hw.unitCode (h : Hw) (u : Nat) : Nat :=
  if u = 0x0A ∧ h.grantAwaited then 6 else if u ∈ h.trace.busy then 0 else h.restCode u

end Sys2Proof.Machine
end

