-- ==== Sys2Proof/Machine/Dsp.lean ====
section
/-! DEFINITION. The dispatcher's shared operations: descriptors, counters, ready lists, command windows, notices and faults. -/

namespace Sys2Proof.Machine

open Sys2Proof

/-! ## Faults found by a command -/

/-- Records a fault of the command being carried out (Table 15.1). Its facets go to recovery at the command's end. -/
def Hw.fault (h : Hw) (facets : List Nat) (unit : FaultUnit) (permanent : Bool) : Hw :=
  { h with faults := h.faults ++ [{ facets := facets, unit := unit, permanent := permanent }] }

/-! ## Ranks -/

/-- Class rank: LC, then DL, then BE (R178, R215). -/
def Cls.rank : Cls → Nat
  | .lc => 0 | .dl => 1 | .be => 2

/-- Class codes of Table 4.2. -/
def Cls.code : Cls → Nat
  | .lc => 0 | .be => 1 | .dl => 2

/-- The class of a code; 3 is reserved. -/
def clsOf : Nat → Option Cls
  | 0 => some .lc | 1 => some .be | 2 => some .dl | _ => none

/-- Rank of a class and level; smaller is served first (R80, R215). -/
def dispatchRank (c : Cls) (level : Nat) : Nat := 16 * c.rank + (15 - level)

/-! ## Watermark notices -/

/-- Follows a level across a change: the maximum and the crossings since the last read, and the vector at the first crossing (R234). -/
def Hw.noteLevel (h : Hw) (idx sub threshold before after : Nat) : Hw :=
  let v := h.raw idx sub
  let crosses := v / 2 ^ 32
  let cross := decide (before ≤ threshold) && decide (threshold < after)
  let crosses' := if cross then min (crosses + 1) (2 ^ 32 - 1) else crosses
  let h' := h.set idx sub (crosses' * 2 ^ 32 + max (v % 2 ^ 32) after)
  if cross && crosses == 0 then h'.pulse (h.raw 0x6008 1) else h'

/-- Threshold of a facet's descriptor notice: a percentage of its allotment, rounded down (R234). -/
def Hw.descHigh (h : Hw) (f : Nat) : Nat := h.get 0x6020 (f + 1) * (2 * h.get 0x5005 (f + 1)) / 100

/-- READY descriptors of a partition (PART_READY_DEPTH). -/
def Hw.readyDepth (h : Hw) (p : Nat) : Nat := (h.part p).ready.length

/-! ## Taking and freeing descriptors -/

/-- Takes a descriptor from the free FIFO: indices rise from 0 until every one has been used, then follow the order of freeing (R207). -/
def Hw.takeDesc (h : Hw) (d : Desc) : Nat × Hw :=
  let r : Nat × Hw :=
    if h.descFresh < 262144 then (h.descFresh, { h with descFresh := h.descFresh + 1 })
    else match h.descFreed with
      | t :: rest => (t, { h with descFreed := rest })
      | [] => (0, h)
  let before := h.descHeld d.facet
  let h' := { r.2 with descs := Map.insert r.2.descs r.1 d, descDone := Map.erase r.2.descDone r.1 }
  (r.1, h'.noteLevel 0x6021 (d.facet + 1) (h.descHigh d.facet) before (before + 1))

/-- A descriptor becomes FREE and returns to the FIFO's tail with its arena entries (R207, R208). -/
def Hw.freeDesc (h : Hw) (t : Nat) : Hw :=
  match h.desc? t with
  | some d =>
    let h1 := { h with descs := Map.erase h.descs t, descFreed := h.descFreed ++ [t] }
    h1.modPart d.part fun p => { p with ready := p.ready.erase t }
  | none => h

/-- A descriptor whose work is complete becomes FREE (R208). -/
def Hw.doneDesc (h : Hw) (t : Nat) : Hw :=
  match h.desc? t with
  | some d => let h1 := h.freeDesc t; { h1 with descDone := Map.insert h1.descDone t d.facet }
  | none => h

/-- Removes a descriptor's entry from the delay lists (R220). -/
def Hw.cancelDelays (h : Hw) (t : Nat) : Hw :=
  { h with delays := h.delays.map fun e =>
      (e.1, { e.2 with entries := e.2.entries.filter fun x => !(x.kind == 0 && x.payload == t) }) }

/-- A partition's oldest outstanding command, and the start of its window where none runs (R385). -/
def Hw.startWindow (h : Hw) (p : Nat) : Hw :=
  let x := h.part p
  match x.live, x.sent with
  | none, t :: _ =>
    match h.desc? t with
    | some d =>
      let w : CmdWindow :=
        { tag := t, status := 0, layer := d.layer, operator := d.operator, span := 0, unit := h.get 0xB010 (p + 1), busy := 0,
          stalled := [], idle := 0, fabric := 0, endNs := 0, startCc := h.cc }
      h.setPart p { x with live := some w }
    | none => h
  | _, _ => h

/-- Counts the current cc in a window: busy, a stalled cc of its reason, or idle (R385). -/
def CmdWindow.count (w : CmdWindow) (code : Nat) : CmdWindow :=
  let w1 := { w with span := (w.span + 1) % 2 ^ 48 }
  if code = 0 then { w1 with busy := (w1.busy + 1) % 2 ^ 48 }
  else if code = 0xF then { w1 with idle := (w1.idle + 1) % 2 ^ 48 }
  else { w1 with stalled := code :: w1.stalled }

/-- The stall reason with the most cc, the lowest code winning a tie; 0xF if none (R385). -/
def CmdWindow.reason (w : CmdWindow) : Nat :=
  (List.range 13).foldl (fun best c =>
    if w.stalled.count c > (if best = 0xF then 0 else w.stalled.count best) then c else best) 0xF

/-- Adds a command to the lowest-numbered enabled bin whose filter it meets (R387). Totals lie in 0xB021 at sub-index bin + 1 and
objects 0 to 4: commands, span, busy, bytes, energy. -/
def Hw.binAdd (h : Hw) (w : CmdWindow) (bytes energy : Nat) : Hw :=
  match (List.range 64).find? fun b =>
      let v := h.raw 0xB020 (b + 1)
      v.testBit 48 && decide (bits v 15 0 ≤ w.layer) && decide (w.layer ≤ bits v 31 16) &&
        (bits v 47 32 == 0xFFFF || bits v 47 32 == w.operator) with
  | some b =>
    (((((h.bumpAt 0xB021 (b + 1) 0 1).bumpAt 0xB021 (b + 1) 1 w.span).bumpAt 0xB021 (b + 1) 2 w.fabric).bumpAt
      0xB021 (b + 1) 3 bytes).bumpAt 0xB021 (b + 1) 4 energy)
  | none => h

/-- Ends a partition's window: end-latch, bins, the COMMAND trace record, and the next head's window (R385, R386, R387, Table 16.4).
`status` is 0xF for a window ended by retirement or watchdog. -/
def Hw.endWindow (h : Hw) (p tag status fabric bytes energy : Nat) : Hw :=
  let x := h.part p
  match x.live with
  | some w =>
    if w.tag = tag then
      let w0 := if h.cc > w.startCc then w.count (h.unitCode w.unit) else w
      let w1 := { w0 with status := status, fabric := fabric, endNs := h.now }
      let h1 := h.setPart p { x with live := none, latched := some w1, closedWindows := x.closedWindows + 1 }
      let h2 := h1.binAdd w1 bytes energy
      let h3 := h2.traceRec 2 0x0C (h.facetOf p)
        (leBytes 4 (tag + p * 2 ^ 18 + status * 2 ^ 24) ++ leBytes 2 w1.layer ++ leBytes 2 w1.operator ++ leBytes 6 w1.span ++
          [BitVec.ofNat 8 w1.reason])
      h3
    else h
  | none => h

/-- A command of a partition is no longer outstanding: it leaves the order of transfer, its window ends, and the next head's starts. -/
def Hw.unsend (h : Hw) (p tag status fabric bytes energy : Nat) : Hw :=
  let h1 := h.endWindow p tag status fabric bytes energy
  (h1.modPart p fun x => { x with sent := x.sent.erase tag }).startWindow p

/-- Removes a descriptor's request from every semaphore. -/
def Hw.dropWaiter (h : Hw) (t : Nat) : Hw :=
  { h with sems := h.sems.map fun e => (e.1, { e.2 with waiters := e.2.waiters.filter fun w => !(w.tag == t) }) }

/-- Retires a descriptor at once: no later record, decrement or delay release that names it has effect; a window it holds ends, its
delay entry is cancelled and its reservation ends (R208, R220, R385). The fabric still owes the record of one that was sent (R77). -/
def Hw.retire (h : Hw) (t : Nat) : Hw :=
  match h.desc? t with
  | some d =>
    let h1 := if d.state = .dispatched ∧ !d.expired then
        (h.unsend d.part t 0xF 0 0 0).modPart d.part fun p => { p with ghosts := p.ghosts ++ [(t, false)] }
      else h
    let h2 : Hw := match d.state, d.delay with
      | .waiting, some (l, _) => h1.modDelay l fun x => { x with reserved := x.reserved - 1 }
      | .delayed, _ => h1.cancelDelays t
      | _, _ => h1
    (h2.dropWaiter t).freeDesc t
  | none => h

/-! ## Ready lists -/

/-- Enters a READY descriptor at the tail of its partition's list (R214). -/
def Hw.makeReady (h : Hw) (t : Nat) : Hw :=
  match h.desc? t with
  | some d =>
    let depth := h.readyDepth d.part
    let h1 := h.modDesc t fun d => { d with state := .ready, readyCc := h.cc, sentNo := 0 }
    let h2 := h1.modPart d.part fun p => { p with ready := p.ready ++ [t] }
    h2.noteLevel 0x601A (d.part + 1) (h.get 0x6019 (d.part + 1)) depth (depth + 1)
  | none => h

/-- Re-enters a descriptor ahead of every other entry, among re-entered ones in the original order of dispatch, with its bypass kept
(R224). -/
def Hw.reenter (h : Hw) (t : Nat) : Hw :=
  match h.desc? t with
  | some d =>
    let depth := h.readyDepth d.part
    let later := fun x => match h.desc? x with
      | some e => e.sentNo == 0 || decide (d.sentNo < e.sentNo)
      | none => true
    let h1 := h.modDesc t fun d => { d with state := .ready, readyCc := h.cc }
    let h2 := h1.modPart d.part fun p => { p with ready := insertBy (fun _ y => later y) t p.ready }
    h2.noteLevel 0x601A (d.part + 1) (h.get 0x6019 (d.part + 1)) depth (depth + 1)
  | none => h

/-- The delay-list key of a node whose counter reaches 0 (R219). -/
def Hw.delayKey (h : Hw) (l value : Nat) : Nat :=
  let tb := h.raw 0x6300 (l + 1)
  if tb < 16 then h.nowUs + value
  else
    let f := h.facet (tb - 16)
    let s := f.step % 2 ^ 48
    if value > f.phase then s * 65536 + value else ((s + 1) % 2 ^ 48) * 65536 + value

/-- A counter fault of a facet (R213). -/
def Hw.counterFault (h : Hw) (f : Nat) : Hw := ((h.inc 0x6003 1).event 5 (213 * 16) 4 (some f) none).fault [f] .unnamed false

/-- One decrement of a counter (R212). One that names a retired descriptor is discarded (R208); one that names another descriptor that is
not WAITING, a completed one among them, or whose counter is 0, is a counter fault (R213). The counter's reaching 0 fixes the key of a
delayed descriptor (R219). DSP is busy in a cc in which it performs a decrement (R226). -/
def Hw.decrement (h0 : Hw) (t : Nat) : Hw :=
  let h := h0.markBusy 5
  match h.desc? t with
  | none => match Map.find? h.descDone t with
    | some f => h.counterFault f
    | none => h
  | some d =>
    if d.state = .waiting ∧ d.counter > 0 then
      let d1 := { d with counter := d.counter - 1 }
      let d2 := if d1.counter = 0 then { d1 with delay := d.delay.map fun x => (x.1, h.delayKey x.1 x.2) } else d1
      { h with descs := Map.insert h.descs t d2 }
    else h.counterFault d.facet

/-- Decrements in order. -/
def Hw.decrementAll (h : Hw) (l : List Nat) : Hw := l.foldl Hw.decrement h

/-! ## Selection -/

/-- Whether a READY descriptor may be a candidate on its partition: its context is resident (R215), an EXCLUSIVE facet sends only its jobs'
commands (R22, R229), its context holds the semaphore an ACQUIRE node asks for (R320), and an offload node is within its limits (R353). -/
def Hw.eligible (h : Hw) (p t : Nat) : Bool :=
  match h.desc? t with
  | none => false
  | some d =>
    d.context == (h.part p).resident && (d.owner == .job || (h.facet d.facet).state != .exclusive) &&
    (match d.owner with
     | .job =>
       let j := h.job d.facet d.urgentJob
       (j.sems.all fun e => !(e.1 == d.node && e.2.2 == 0) || (h.sem e.2.1).holder == some (d.facet, d.urgentJob, d.context)) &&
       (match j.offload.find? fun e => e.1 = d.node with
        | none => true
        | some (_, op, trigger) =>
          let running := (h.part p).sent.filter fun x => match h.desc? x with
            | some e => e.owner == .job && e.facet == d.facet && (j.offload.any fun o => o.1 == e.node)
            | none => false
          decide (running.length < h.get 0x8102 (d.facet + 1)) && (op == 0 || decide (trigger ≤ Map.getD j.learnSent p 0)))
     | _ => true)

/-- Rank of a descriptor. -/
def Hw.rankOf (h : Hw) (t : Nat) : Nat :=
  match h.desc? t with
  | some d => dispatchRank d.cls d.level
  | none => 1000

/-- Heads of a partition's ready lists among eligible descriptors: the first of each rank (R215). -/
def Hw.heads (h : Hw) (p : Nat) : List Nat :=
  ((h.part p).ready.filter (h.eligible p)).foldl (fun acc t => if acc.any fun x => h.rankOf x = h.rankOf t then acc else acc ++ [t]) []

/-- The element of a list with the smallest key, the first among equals. -/
def minBy (key : Nat → Nat) : List Nat → Option Nat
  | [] => none
  | x :: r =>
    match minBy key r with
    | none => some x
    | some y => if key y < key x then some y else some x

/-- Whether a head has reached BYPASS_LIMIT (R217). -/
def Hw.promoted (h : Hw) (t : Nat) : Bool :=
  match h.desc? t with
  | some d => decide (h.get 0x6006 1 ≤ d.bypass)
  | none => false

/-- A partition's candidate: a promoted head, or else the head of the highest rank (R215, R217). -/
def Hw.candidate (h : Hw) (p : Nat) : Option Nat :=
  let hs := h.heads p
  match minBy h.rankOf (hs.filter h.promoted) with
  | some t => some t
  | none => minBy h.rankOf hs

/-- Whether DSP may send to a partition (R216, R73). -/
def Hw.sendable (h : Hw) (p : Nat) : Bool :=
  let x := h.part p
  x.state == .opened && decide (x.credits > 0) && !x.intReq && !x.preReq && (h.facetOf p).isSome && !(h.raw 0x2201 1).testBit p

/-- The partition and descriptor DSP sends in this cc: the candidate of highest rank, between equals the first partition cyclically
after the last served (R216). -/
def Hw.choose (h : Hw) : Option (Nat × Nat) :=
  let order := (List.range 64).map fun i => (h.lastPart + 1 + i) % 64
  let cands := order.filterMap fun p => if h.sendable p then (h.candidate p).map fun t => (p, t) else none
  cands.foldl (fun best c => match best with
    | none => some c
    | some b => if h.rankOf c.2 < h.rankOf b.2 then some c else best) none

end Sys2Proof.Machine
end

