-- ==== Sys2Proof/Machine/Events.lean ====
section
/-! DEFINITION. The event recorder: the buffer, the memory event ring, the persistent ring and the flush (R395 to R401). -/

namespace Sys2Proof.Machine

open Sys2Proof

/-- An event record's 64 bytes (Table 16.6). -/
def EventRec.bytes (e : EventRec) : List Byte :=
  let l := leBytes 6 e.seq ++ leBytes 2 e.code.toNat ++ leBytes 8 e.stamp ++
    [BitVec.ofNat 8 (e.severity + (if e.summary then 8 else 0) + if e.snap = [] then 0 else 16), BitVec.ofNat 8 e.unit,
     BitVec.ofNat 8 (match e.facet with | some f => f + 16 | none => 0),
     BitVec.ofNat 8 (match e.part with | some p => p + 64 | none => 0)] ++
    leBytes 4 e.count ++ leBytes 8 e.step ++ slice e.detail 0 24 ++ [0, 0, 0, 0]
  l ++ leBytes 4 (crc32c l).toNat

/-- EVENT_BUFFER: 4,096 slots in ascending sequence number. -/
def Hw.eventBufferBytes (h : Hw) : List Byte :=
  slice ((sortBy (fun (a b : EventRec) => decide (a.seq < b.seq)) h.events.buffer).flatMap EventRec.bytes) 0 262144

/-- Slots of EVR's buffer (R397). -/
def eventSlots : Nat := 4096

/-- Whether a record still waits for a destination it is due at: the memory ring while it is enabled, or the persistent ring (R397). -/
def Hw.unsettled (h : Hw) (e : EventRec) : Bool := (e.dueMem && h.raw 0xC005 1 != 0) || e.duePersist

/-- The record of least sequence number among those that `p` picks. -/
def oldestEvent (l : List EventRec) (p : EventRec → Bool) : Option EventRec :=
  l.foldl (fun best e => if p e then
      match best with
      | some b => if e.seq < b.seq then some e else best
      | none => some e
    else best) none

/-- The persistent ring's size in records: the tie-off's MiB in records of 64 bytes (R400, Table 17.2). -/
def persistRecords : Nat := Config.evtMib * 16384

/-- Writes a record to the persistent ring, over its oldest once the ring is full (R400). -/
def Hw.persistRecord (h : Hw) (e : EventRec) : Hw :=
  let ring := h.events.persistRing ++ [e.bytes]
  let h1 := (h.bump 0xD050 1 64).emit (.retention 2 64)
  { h1 with events := { h1.events with
      persistRing := ring.drop (ring.length - persistRecords),
      buffer := h1.events.buffer.map fun x => if x.seq = e.seq then { x with duePersist := false } else x } }

/-- Writes the oldest record that the persistent ring waits for (R400). -/
def Hw.persistOldest (h : Hw) : Hw :=
  match oldestEvent h.events.buffer fun e => e.duePersist with
  | some e => h.persistRecord e
  | none => h

/-- Records in the buffer that the persistent ring waits for. -/
def Hw.persistHeld (h : Hw) : Nat := (h.events.buffer.filter fun e => e.duePersist).length

/-- Writes the records that the persistent ring waits for until at most `n` are left. -/
def Hw.persistUntil (h : Hw) (n : Nat) : Hw := (List.range (h.persistHeld - n)).foldl (fun a _ => a.persistOldest) h

/-- Posts the next record of the memory event ring, in sequence order, where the ring has room (R399). -/
def Hw.writeEvent (h : Hw) : Hw :=
  let n := h.get 0xC006 1
  let w := h.raw 0xC007 1
  if h.raw 0xC005 1 = 0 ∨ sub32 w (h.raw 0xC008 1) ≥ n ∨ h.memWaiting (fun u => match u with | .eventRecord _ => true | _ => false) then h
  else match oldestEvent (h.events.buffer ++ h.events.intake) fun e => e.dueMem with
    | some e =>
      if h.events.buffer.contains e then
        h.memPost true (h.raw 0xC005 1 + w % n * 64) 1 e.bytes .event none (.eventRecord e.seq)
      else h
    | none => h

/-- Whether EVR flushes with foreground priority: in FAULT_HOLD, and while a record of severity S5 is unsettled (R401). -/
def Hw.flushing (h : Hw) : Bool := h.eng.state == .faultHold || h.events.buffer.any fun e => e.severity == 5 && h.unsettled e

/-- The flush of R401: the persistent ring at once, the memory ring one record after another. -/
def Hw.flushEvents (h : Hw) : Hw := if h.flushing then (h.persistUntil 0).writeEvent else h

/-- Puts a record into the buffer: a free slot, the oldest settled slot, or the slot of the oldest record of the lowest severity below
its own, which counts as overwritten (R397). -/
def Hw.placeEvent (h : Hw) (e : EventRec) : Option Hw :=
  let put := fun (drop : List EventRec) (lost : Nat) =>
    let l := h.events.buffer.filter fun x => !drop.contains x
    some ({ h.bump 0xC009 1 lost with events := { h.events with buffer := l ++ [e], lostOver := h.events.lostOver + lost } } : Hw)
  if h.events.buffer.length < eventSlots then put [] 0
  else match oldestEvent h.events.buffer fun x => !h.unsettled x with
    | some x => put [x] 0
    | none =>
      let low := h.events.buffer.foldl (fun m x => min m x.severity) e.severity
      if low < e.severity then
        match oldestEvent h.events.buffer fun x => x.severity == low with
        | some x => put [x] 1
        | none => none
      else none

/-- Part `k` of an event's snapshot (R396). -/
def snapPart (e : EventRec) (k : Nat) : EventRec :=
  { e with seq := (e.partSeq + k) % 2 ^ 48, code := 0xE001, summary := false, snap := [], partSeq := 0, unit := 0x0D, facet := none,
           part := none, count := 1, step := e.seq + k * 2 ^ 48, detail := slice e.snap (24 * k) 24 }

/-- Puts an event into the buffer with the eight parts of its snapshot, or alone where they find no slots (R396, R397). -/
def Hw.placeWithSnap (h : Hw) (e : EventRec) : Hw :=
  let alone := fun (a : Hw) (x : EventRec) => (a.placeEvent x).getD (a.inc 0xC00A 1)
  if e.snap = [] then alone h e
  else match ((List.range 8).map (snapPart e)).foldl (fun a p => a.bind fun b => b.placeEvent p) (h.placeEvent e) with
    | some a => a.inc 0xC021 1
    | none => alone (h.inc 0xC022 1) { e with snap := [] }

/-- A GAP event of EVR (Table 16.5). -/
def Hw.gapEvent (h : Hw) (lost cause : Nat) : Hw :=
  h.raiseEv { fam := 0xE, code := 0xE0FE, sev := 2, unit := 0x0D, facet := none, part := none,
              detail := leBytes 8 lost ++ [BitVec.ofNat 8 cause] }

/-- Reports the events lost at the intake, which now has room, and those overwritten, once a slot is to be had (R395, R397). -/
def Hw.reportLost (h : Hw) : Hw :=
  let n := h.events.lostIntake
  let h1 := if n = 0 then h else ({ h with events := { h.events with lostIntake := 0 } } : Hw).gapEvent n 0
  let k := h1.events.lostOver
  if k ≠ 0 ∧ (h1.events.buffer.length < eventSlots ∨ h1.events.buffer.any fun x => !h1.unsettled x) then
    ({ h1 with events := { h1.events with lostOver := 0 } } : Hw).gapEvent k 1
  else h1

/-- EVR takes a record from its intake (R395, R397). It holds at most 512 records that the persistent ring waits for (R402). -/
def Hw.acceptEvent (h : Hw) : Hw :=
  match h.events.intake with
  | [] => h
  | e :: rest =>
    let h1 : Hw := { h with events := { h.events with intake := rest } }
    let n := if e.snap = [] then 1 else 9
    let h2 := if e.duePersist then h1.persistUntil (512 - n) else h1
    ((h2.placeWithSnap e).reportLost).flushEvents

end Sys2Proof.Machine
end

