-- ==== Sys2Proof/Machine/Float32.lean ====
section
/-! DEFINITION. IEEE 754 binary32 with round to nearest, ties to even (R8), over exact integer arithmetic. -/

namespace Sys2Proof.Machine

open Sys2Proof

/-- Sign bit. -/
def f32Neg (x : BitVec 32) : Bool := x.getLsbD 31

/-- Exponent field. -/
def f32Exp (x : BitVec 32) : Nat := x.toNat / 2 ^ 23 % 256

/-- Fraction field. -/
def f32Frac (x : BitVec 32) : Nat := x.toNat % 2 ^ 23

/-- NaN. -/
def f32IsNaN (x : BitVec 32) : Bool := f32Exp x == 255 && f32Frac x != 0

/-- ±Inf. -/
def f32IsInf (x : BitVec 32) : Bool := f32Exp x == 255 && f32Frac x == 0

/-- Finite. -/
def f32IsFinite (x : BitVec 32) : Bool := f32Exp x != 255

/-- Magnitude of a finite value in units of 2⁻¹⁴⁹: an exact integer. -/
def f32Mag (x : BitVec 32) : Nat :=
  if f32Exp x = 0 then f32Frac x else (2 ^ 23 + f32Frac x) * 2 ^ (f32Exp x - 1)

/-- A finite value in units of 2⁻¹⁴⁹. -/
def f32Int (x : BitVec 32) : Int := if f32Neg x then -(f32Mag x : Int) else f32Mag x

/-- n / d rounded to the nearest integer, ties to even. -/
def rneDiv (n d : Nat) : Nat :=
  let q := n / d
  let r := n % d
  if 2 * r < d then q else if 2 * r > d then q + 1 else if q % 2 = 0 then q else q + 1

/-- floor(log2 (n / d)) for positive n and d. -/
def log2Ratio (n d : Nat) : Int :=
  let l : Int := (n.log2 : Int) - d.log2
  if l ≥ 0 then (if n < d * 2 ^ l.toNat then l - 1 else l)
  else (if n * 2 ^ (-l).toNat < d then l - 1 else l)

/-- The binary32 nearest to ± (n / d) · 2ᵉ, ties to even; overflow gives ±Inf. -/
def f32Round (neg : Bool) (n d : Nat) (e : Int) : BitVec 32 :=
  let s : Nat := if neg then 2 ^ 31 else 0
  if n = 0 then BitVec.ofNat 32 s
  else
    let u := max (log2Ratio n d + e - 23) (-149)
    let k := e - u
    let q := if k ≥ 0 then rneDiv (n * 2 ^ k.toNat) d else rneDiv n (d * 2 ^ (-k).toNat)
    let (q, u) := if q = 2 ^ 24 then (2 ^ 23, u + 1) else (q, u)
    if q < 2 ^ 23 then BitVec.ofNat 32 (s + q)
    else
      let ef := (u + 150).toNat
      if ef ≥ 255 then BitVec.ofNat 32 (s + 255 * 2 ^ 23)
      else BitVec.ofNat 32 (s + ef * 2 ^ 23 + (q - 2 ^ 23))

/-- An exact integer times 2ᵉ, rounded. -/
def f32OfInt (v : Int) (e : Int) : BitVec 32 := f32Round (v < 0) v.natAbs 1 e

/-- ±0x7F7F_FFFF in place of ±Inf (R256). -/
def f32Clamp (x : BitVec 32) : BitVec 32 :=
  if f32IsInf x then (if f32Neg x then 0xFF7FFFFF else 0x7F7FFFFF) else x

/-- Sum of two finite values. An exact zero sum is −0 only where both are −0. -/
def f32Add (x y : BitVec 32) : BitVec 32 :=
  let v := f32Int x + f32Int y
  if v = 0 then (if f32Neg x && f32Neg y then 0x80000000 else 0) else f32OfInt v (-149)

/-- Negation. -/
def f32Negate (x : BitVec 32) : BitVec 32 := x ^^^ 0x80000000

/-- Difference of two finite values. -/
def f32Sub (x y : BitVec 32) : BitVec 32 := f32Add x (f32Negate y)

/-- Product of two finite values. -/
def f32Mul (x y : BitVec 32) : BitVec 32 :=
  f32Round (f32Neg x != f32Neg y) (f32Mag x * f32Mag y) 1 (-298)

/-- Quotient of two finite values, the divisor not 0. -/
def f32Div (x y : BitVec 32) : BitVec 32 :=
  f32Round (f32Neg x != f32Neg y) (f32Mag x) (f32Mag y) 0

/-- A small unsigned integer as binary32. -/
def f32OfNat (n : Nat) : BitVec 32 := f32Round false n 1 0

/-- x > 0 for a finite value. -/
def f32Pos (x : BitVec 32) : Bool := 0 < f32Int x

/-- x ≤ y for finite values. -/
def f32Le (x y : BitVec 32) : Bool := f32Int x ≤ f32Int y

/-- RNE of a finite value times 2ᵏ to an integer (k ≥ 0). -/
def f32RneScaled (x : BitVec 32) (k : Nat) : Int :=
  let n := rneDiv (f32Mag x * 2 ^ k) (2 ^ 149)
  if f32Neg x then -(n : Int) else n

/-- Integer square root by binary digits: `b` bits of result. -/
def isqrt : Nat → Nat → Nat → Nat
  | 0, _, r => r
  | b + 1, n, r => if (r + 2 ^ b) * (r + 2 ^ b) ≤ n then isqrt b n (r + 2 ^ b) else isqrt b n r

/-- binary32 square root of a finite value that is not negative. The root is taken to 60 fraction bits of the value in units of
2⁻¹⁵⁰; a non-zero remainder is kept in a sticky bit, so the rounding is exact. -/
def f32Sqrt (x : BitVec 32) : BitVec 32 :=
  if f32Mag x = 0 then x
  else
    let n := f32Mag x * 2 * 2 ^ 120
    let r := isqrt 256 n 0
    let sticky := if r * r = n then 0 else 1
    f32Round false (2 * r + sticky) 1 (-136)

end Sys2Proof.Machine
end

