-- ==== Sys2Proof/Machine/Helix.lean ====
section
/-! DEFINITION. The Helix block function (R236 to R243) and the sampler's fixed-point arithmetic (R258, R261, R262, R266). -/

namespace Sys2Proof.Machine

open Sys2Proof

/-- HELIX_PARITY (R236). -/
def helixParity : Word64 := 0x3B9E0C71A4F258D3

/-- Rotation of round r (Table 10.1). -/
def helixRot (r : Nat) : Nat := [20, 37, 44, 11, 28, 53, 12, 39].getD (r % 8) 0

/-- Key word s of a seed (R236). -/
def helixKey (seed : Word64) (s : Nat) : Word64 :=
  match s % 3 with
  | 0 => seed
  | 1 => seed.rotateLeft 32
  | _ => seed ^^^ seed.rotateLeft 32 ^^^ helixParity

/-- Key injection s (R237). -/
def helixInject (seed : Word64) (s : Nat) (x : Word64 × Word64) : Word64 × Word64 :=
  (x.1 + helixKey seed s, x.2 + helixKey seed (s + 1) + BitVec.ofNat 64 s)

/-- Round r (R237). -/
def helixRound (r : Nat) (x : Word64 × Word64) : Word64 × Word64 :=
  (x.1 + x.2, x.2.rotateLeft (helixRot r) ^^^ (x.1 + x.2))

/-- Four rounds after injection s. -/
def helixGroup (seed : Word64) (s : Nat) (x : Word64 × Word64) : Word64 × Word64 :=
  (List.range 4).foldl (fun a j => helixRound (4 * s + j) a) (helixInject seed s x)

/-- The block of a seed and a counter: w0 and w1 (R237). -/
def helixBlock (seed lo hi : Word64) : Word64 × Word64 :=
  helixInject seed 4 ((List.range 4).foldl (fun a s => helixGroup seed s a) (lo, hi))

/-- The noise key of token `v` for token number `i` of a stream (R238, R239). -/
def noiseKey (seed stream : Word64) (i v : Nat) : Word64 :=
  let b := helixBlock seed (BitVec.ofNat 64 (v / 2 % 2 ^ 19 + i % 2 ^ 41 * 2 ^ 19)) stream
  if v % 2 = 0 then b.1 else b.2

/-- UNIT24 of a word as binary32 (R243). -/
def unit24 (w : Word64) : BitVec 32 := f32Round false (w.toNat / 2 ^ 40 + 1) 1 (-24)

/-! ## Tables of Table 11.5, by their generation rules -/

/-- The fixed point in which the tables' real values are summed. -/
def fxOne : Nat := 2 ^ 200

/-- Sum of `fuel` terms of e^(num/den), from term number `n` of value `t`. -/
def expTerms (num den : Nat) : Nat → Nat → Nat → Nat
  | 0, _, _ => 0
  | fuel + 1, t, n => t + expTerms num den fuel (t * num / (den * (n + 1))) (n + 1)

/-- e^(num/den) for num ≤ den, in units of 2^−200. -/
def expFx (num den : Nat) : Nat := expTerms num den 80 fxOne 0

/-- EXPT[h] = RNE(e^(h/64) × 2^30). -/
def exptTable (h : Nat) : Nat := rneDiv (expFx h 64 * 2 ^ 30) fxOne

/-- e^k in units of 2^−200. -/
def expPow : Nat → Nat
  | 0 => fxOne
  | k + 1 => expPow k * expFx 1 1 / fxOne

/-- BANDC[k] = RNE(e^(−k) × 2^95). -/
def bandTable (k : Nat) : Nat := rneDiv (2 ^ 95 * fxOne) (expPow k)

/-- Sum of `fuel` terms z^(2i+1)/(2i+1), from the power `p` of z = zn/zd. -/
def atanhTerms (zn zd : Nat) : Nat → Nat → Nat → Nat
  | 0, _, _ => 0
  | fuel + 1, p, i => p / (2 * i + 1) + atanhTerms zn zd fuel (p * zn * zn / (zd * zd)) (i + 1)

/-- ln(n/d) for d ≤ n ≤ 2d, in units of 2^−200. -/
def lnFx (n d : Nat) : Nat := 2 * atanhTerms (n - d) (n + d) 70 (fxOne * (n - d) / (n + d)) 0

/-- LNT[j] = RNE(ln((128 + j)/128) × 2^32). -/
def lntTable (j : Nat) : Nat := rneDiv (lnFx (128 + j) 128 * 2 ^ 32) fxOne

/-- RCP[j] = RNE(2^39 / (128 + j)). -/
def rcpTable (j : Nat) : Nat := rneDiv (2 ^ 39) (128 + j)

/-- LN2 = RNE(ln 2 × 2^32). -/
def ln2Const : Nat := 0xB17217F8

/-- lnq(a, s): ln(a × 2^−s) in Q.32 (R262). -/
def lnq (a s : Nat) : Int :=
  let e := a.log2
  let F : Nat := (if e ≥ 32 then a / 2 ^ (e - 32) else a * 2 ^ (32 - e)) - 2 ^ 32
  let j : Nat := F / 2 ^ 25
  let d : Nat := F % 2 ^ 25
  let t : Nat := d * rcpTable j / 2 ^ 32
  let t2 : Nat := t * t / 2 ^ 32
  let t3 : Nat := t2 * t / 2 ^ 32
  let half : Nat := t2 / 2
  let third : Nat := t3 / 3
  (Int.ofNat e - Int.ofNat s) * Int.ofNat ln2Const + Int.ofNat (lntTable j) + (Int.ofNat t - Int.ofNat half + Int.ofNat third)

/-- E(f), the exponential of a 16-bit fraction in Q2.30 (R258). -/
def expFrac (f : Nat) : Nat :=
  let l := f % 1024
  let p := 2 ^ 30 + l * 2 ^ 14 + l * l / 8
  (exptTable (f / 1024) * p + 2 ^ 29) / 2 ^ 30

/-- The race value r of a token with transformed logit `zq` and key `K` (R266). -/
def raceValue (zq : Int) (K : Word64) : Int :=
  let a := 2 * (K.toNat / 2 ^ 11) + 1
  let w := 2 ^ 54 - a
  let lam : Nat := if w < 2 ^ 46 then w * 2 ^ 4 + w * w / 2 ^ 51 + w * w * w / 2 ^ 104 / 3 else ((-lnq a 54) * 2 ^ 26).toNat
  zq * 2 ^ 16 - lnq lam 58

end Sys2Proof.Machine
end

