-- ==== Sys2Proof/Machine/Pages.lean ====
section
/-! DEFINITION. The page manager's shared operations: free and cached lists, references, the prefix index and block tables. -/

namespace Sys2Proof.Machine

open Sys2Proof

/-- Whether a pool is enabled. -/
def Hw.poolOn (h : Hw) (k : Nat) : Bool := h.getAt 0x4001 8 k == 1

/-- Pages of a pool. -/
def Hw.poolPages (h : Hw) (k : Nat) : Nat := h.getAt 0x4001 3 k

/-- Free pages of a pool (POOL_FREE). -/
def Hw.poolFree (h : Hw) (k : Nat) : Nat :=
  let p := h.pool k
  p.front.length + (h.poolPages k - p.fresh) + p.freed.length

/-- Page info of a page. -/
def Hw.pageInfo (h : Hw) (r : Nat × Nat) : PageInfo := Map.getD (h.pool r.1).info r.2 PageInfo.free

/-- Stores a page's info. -/
def Hw.setPage (h : Hw) (r : Nat × Nat) (i : PageInfo) : Hw :=
  h.modPool r.1 fun p => { p with info := Map.insert p.info r.2 i }

/-- Follows a pool's free count downward: the minimum and the crossings below POOL_LOW since the last read (R153). -/
def Hw.notePool (h : Hw) (k before : Nat) : Hw :=
  let after := h.poolFree k
  let low := h.getAt 0x4001 0xA k
  h.modPool k fun p => { p with
    minFree := some (match p.minFree with | some m => min m after | none => min before after),
    crossings := if low ≤ before ∧ after < low then min (p.crossings + 1) (2 ^ 32 - 1) else p.crossings }

/-- Takes the page at the head of a pool's free list, with one reference (R158). -/
def Hw.takePage (h : Hw) (k : Nat) : Option (Nat × Hw) :=
  let before := h.poolFree k
  let p := h.pool k
  let r : Option (Nat × Pool) :=
    match p.front with
    | x :: rest => some (x, { p with front := rest })
    | [] =>
      if p.fresh < h.poolPages k then some (p.fresh, { p with fresh := p.fresh + 1 })
      else match p.freed with
        | x :: rest => some (x, { p with freed := rest })
        | [] => none
  r.map fun q =>
    let h1 := (h.modPool k fun _ => q.2).setPage (k, q.1) { PageInfo.free with refs := 1 }
    (q.1, (h1.bumpAt 0x4001 0xD k 1).notePool k before)

/-- Puts a page at the tail of its pool's free list. -/
def Hw.freePage (h : Hw) (r : Nat × Nat) : Hw :=
  h.modPool r.1 fun p => { p with info := Map.erase p.info r.2, freed := p.freed ++ [r.2], cached := p.cached.erase r.2 }

/-- Withdraws an allocation: the page is back at the head of the free list (R19, R158). -/
def Hw.unallocPage (h : Hw) (r : Nat × Nat) : Hw :=
  h.modPool r.1 fun p => { p with info := Map.erase p.info r.2, front := r.2 :: p.front }

/-- The prefix index's entry for a page. -/
def Hw.indexed (h : Hw) (r : Nat × Nat) : Bool := h.pages.index.any fun e => e.pool == r.1 && e.page == r.2

/-- A reference on a page is given up: refs 0 sends it to the free list's tail, refs 1 held by the index to the cached list's tail
(R150, R161, R163). A page that is mapped but no longer indexed leaves the cached list (log entry 118, DESIGN CHOICE). -/
def Hw.dropRef (h : Hw) (r : Nat × Nat) : Hw :=
  let i := h.pageInfo r
  if i.refs ≤ 1 then h.freePage r
  else if !h.indexed r then
    (h.setPage r { i with refs := i.refs - 1, listed := false }).modPool r.1 fun p => { p with cached := p.cached.erase r.2 }
  else if i.refs = 2 ∧ !i.listed then
    (h.setPage r { i with refs := 1, listed := true }).modPool r.1 fun p => { p with cached := p.cached ++ [r.2] }
  else h.setPage r { i with refs := i.refs - 1 }

/-- A reference is taken on a page. -/
def Hw.addRef (h : Hw) (r : Nat × Nat) : Hw :=
  let i := h.pageInfo r
  h.setPage r { i with refs := i.refs + 1 }

/-- Tokens per page of a model. -/
def Hw.pageTokens (h : Hw) (m : Nat) : Nat := h.getAt 0x4101 1 m

/-- Pools of a mask in ascending order, enabled ones only. -/
def Hw.poolsOf (h : Hw) (mask : Nat) : List Nat := (setBits mask).filter h.poolOn

/-- Device pools in the order an allocation tries them: those local to the affinity partition first (R158). -/
def Hw.poolOrder (h : Hw) (m affinity : Nat) : List Nat :=
  let all := h.poolsOf (h.getAt 0x4101 3 m)
  let near := fun k => (h.getAt 0x4001 5 k).testBit affinity
  all.filter near ++ all.filter fun k => !near k

/-- Whether a pool grants a page to a class: DL and BE leave POOL_LC_RESERVE pages (R152). -/
def Hw.poolGrants (h : Hw) (k : Nat) (c : Cls) : Bool :=
  if c = .lc then decide (0 < h.poolFree k) else decide (h.getAt 0x4001 0xF k < h.poolFree k)

/-- Allocates one device page for a sequence (R152, R158). -/
def Hw.allocPage (h : Hw) (m affinity : Nat) (c : Cls) : Option (PageRef × Hw) :=
  match (h.poolOrder m affinity).find? fun k => h.poolGrants k c with
  | some k => (h.takePage k).map fun r => ({ pool := k, page := r.1, isSealed := false }, r.2)
  | none => none

/-! ## Block tables -/

/-- Blocks of the table region that are free (TABLE_FREE). -/
def Hw.tableFree (h : Hw) : Nat := h.raw 0x4011 1 - h.pages.blocksFresh + h.pages.blocksFreed.length

/-- Takes one 4 KiB block of the table region. -/
def Hw.takeBlock (h : Hw) : Option (Nat × Hw) :=
  if h.pages.blocksFresh < h.raw 0x4011 1 then
    some (h.pages.blocksFresh, { h with pages := { h.pages with blocksFresh := h.pages.blocksFresh + 1 } })
  else match h.pages.blocksFreed with
    | b :: rest => some (b, { h with pages := { h.pages with blocksFreed := rest } })
    | [] => none

/-- Returns blocks to the table region. -/
def Hw.freeBlocks (h : Hw) (l : List Nat) : Hw := { h with pages := { h.pages with blocksFreed := h.pages.blocksFreed ++ l } }

/-- Leaves that `n` mapped pages need; the first is there from admission (R155, R156). -/
def leavesFor (n : Nat) : Nat := max 1 (ceilDiv n 512)

/-! ## Prefix keys and the index -/

/-- The prefix key of a page, from its parent's key and its tokens (R159). -/
def prefixKey (parent : Nat) (tokens : List Nat) : Nat :=
  let m := leBytes 8 parent ++ (tokens.map (leBytes 4)).flatten
  let k := (crc32iso m).toNat * 2 ^ 32 + (crc32c m).toNat
  if k = 0 then 1 else k

/-- Keys of a token string's full pages in order: `fuel` pages at most (R159, R160). -/
def prefixKeys (P : Nat) : Nat → Nat → List Nat → List (Nat × List Nat)
  | 0, _, _ => []
  | fuel + 1, parent, l =>
    if l.length < P then []
    else
      let k := prefixKey parent (l.take P)
      (k, l.take P) :: prefixKeys P fuel k (l.drop P)

/-- The parent of page 0: model and version (R159). -/
def rootKey (model version : Nat) : Nat := model + version * 2 ^ 32

/-- Bucket of a key (R160). -/
def Hw.bucket (h : Hw) (key : Nat) : Nat := key % h.get 0x4021 1

/-- The walk of a prompt's full pages: matched pages, and the state with its counters (R160). `room` pages can be mapped at most. -/
def Hw.prefixWalk (h : Hw) (room : Nat) : List (Nat × List Nat) → List PageRef × Hw
  | [] => ([], h)
  | (k, toks) :: rest =>
    match room, h.pages.index.find? fun e => e.key = k with
    | 0, _ => ([], h)
    | _, none => ([], h)
    | room' + 1, some e =>
      if (h.pageInfo (e.pool, e.page)).tokens = toks then
        let r := Hw.prefixWalk ((h.inc 0x4023 1).addRef (e.pool, e.page)) room' rest
        ({ pool := e.pool, page := e.page, isSealed := true } :: r.1, r.2)
      else ([], h.inc 0x4026 1)

/-- Gives back the references of a walk (R126, R424). -/
def Hw.giveBack (h : Hw) (pages : List PageRef) : Hw := pages.foldl (fun a r => a.dropRef (r.pool, r.page)) h

/-- The admission under way ends without a decision: its references are given back and its reads serve nothing any more (R424). -/
def Hw.dropTrial (h : Hw) : Hw :=
  match h.adm.trial with
  | none => h
  | some t =>
    let h1 := (({ h with adm := { h.adm with trial := none } } : Hw).giveBack (t.walk.getD [])).reuse MemUse.offTrial
    match t.ring with
    | some r => h1.modRing r fun x => { x with deciding := false, entry := none }
    | none => h1

/-- A ring is disabled: what ADM has read or begun for it is given up, and what is on its way to memory concerns the ring no more
(R118, R424). -/
def Hw.closeRing (h : Hw) (r : Nat) : Hw :=
  let h1 := if (h.adm.trial.bind fun t => t.ring) = some r then h.dropTrial else h
  (h1.modRing r fun x => { x with deciding := false, entry := none, hold := 0, readFailNs := none }).reuse (MemUse.offRing r)

/-- The engine leaves OPERATIONAL: no decision is made on what ADM has read (R424). A message that waits is given up with it (log entry 125,
DESIGN CHOICE). -/
def Hw.closeAdmission (h : Hw) : Hw :=
  let h1 := h.dropTrial.reuse MemUse.offEntry
  { h1 with rings := h1.rings.map fun e => (e.1, { e.2 with entry := none }), adm := { trial := none, messages := [] } }

/-- Order distance of an index entry (R161). -/
def orderAge (now order : Nat) : Nat := (now + 2 ^ 32 - order) % 2 ^ 32

/-- The entry of a bucket with the lowest order (R161). -/
def oldestEntry (now : Nat) (l : List PrefixEntry) : Option PrefixEntry :=
  l.foldl (fun best e => match best with
    | none => some e
    | some b => if orderAge now e.order > orderAge now b.order then some e else some b) none

/-- Writes an index entry for a page, which takes a reference (R161). -/
def Hw.indexWrite (h : Hw) (key : Nat) (r : Nat × Nat) (place : Nat) : Hw :=
  let h1 := (h.inc 0x4024 1).addRef r
  let entry : PrefixEntry := { place := place, key := key, pool := r.1, page := r.2, order := h.pages.inserts % 2 ^ 32 }
  { h1 with pages := { h1.pages with index := h1.pages.index ++ [entry], inserts := h.pages.inserts + 1 } }

/-- Inserts a sealed page into the prefix index: nothing where the key is there, an empty entry of its bucket, the lowest one (log entry 118,
DESIGN CHOICE), or over the entry of the lowest order, which gives up its reference (R161). -/
def Hw.indexInsert (h : Hw) (key : Nat) (r : Nat × Nat) : Hw :=
  if h.pages.index.any fun e => e.key == key then h
  else
    let mine := h.pages.index.filter fun e => h.bucket e.key == h.bucket key
    match (List.range 4).find? fun i => mine.all fun e => e.place != i with
    | some i => h.indexWrite key r i
    | none => match oldestEntry h.pages.inserts mine with
      | some old =>
        let h1 := { h with pages := { h.pages with index := h.pages.index.erase old } }
        ((h1.inc 0x4025 1).dropRef (old.pool, old.page)).indexWrite key r old.place
      | none => h

/-- Reclaims the head of a pool's cached list: a page whose refs is 1 and whose index entry is present loses that entry and is freed; any
other is unlinked and skipped (R162, R163). -/
def Hw.reclaim (h : Hw) (k : Nat) : Hw :=
  match (h.pool k).cached with
  | [] => h
  | pg :: rest =>
    let i := h.pageInfo (k, pg)
    let h1 := h.modPool k fun p => { p with cached := rest }
    if i.refs = 1 ∧ h.indexed (k, pg) then
      let h2 := { h1 with pages := { h1.pages with index := h1.pages.index.filter fun e => !(e.pool == k && e.page == pg) } }
      (h2.inc 0x4035 1).freePage (k, pg)
    else h1.setPage (k, pg) { i with listed := false }

end Sys2Proof.Machine
end

