-- ==== Sys2Proof/Machine/Ledger.lean ====
section
/-! DEFINITION. The open ledger of a facet: charges, budget moves, delivery entries, and its discard. -/

namespace Sys2Proof.Machine

open Sys2Proof

/-- Sum of two charges; every field is a 64-bit count. -/
def Charges.add (a b : Charges) : Charges :=
  let p := fun x y => (x + y) % 2 ^ 64
  { tokens := p a.tokens b.tokens, prefill := p a.prefill b.prefill, score := p a.score b.score, spec := p a.spec b.spec,
    tileCc := p a.tileCc b.tileCc, busy := p a.busy b.busy, bytes := p a.bytes b.bytes, energy := p a.energy b.energy,
    memBytes := p a.memBytes b.memBytes, ctxBytes := p a.ctxBytes b.ctxBytes }

/-- The fault account (R327). -/
def faultAccount : Nat := 0xFFFF

/-- Adds charges to an account of a table. -/
def addCharge (m : Map Charges) (tenant : Nat) (c : Charges) : Map Charges :=
  Map.insert m tenant ((Map.getD m tenant Charges.zero).add c)

/-- Charges a tenant in a facet's open ledger (R327). -/
def Hw.charge (h : Hw) (f tenant : Nat) (c : Charges) : Hw :=
  h.modFacet f fun x => { x with ledger := { x.ledger with charges := addCharge x.ledger.charges tenant c } }

/-- Two records of one account become one that covers the periods of both. -/
def AcctRec.join (a b : AcctRec) : AcctRec :=
  { charges := a.charges.add b.charges, periods := a.periods + b.periods, start := a.start, stop := b.stop }

/-- Puts a record among those that wait, joined to the one that waits already. -/
def joinRecord (m : Map AcctRec) (t : Nat) (r : AcctRec) (older : Bool) : Map AcctRec :=
  Map.insert m t (match Map.find? m t with
    | some x => if older then r.join x else x.join r
    | none => r)

/-- Where the accounting period has ended by the present stamp, every account with a non-zero field becomes a record that waits, and the next
period runs: a charge belongs to the half-open window of its own stamp (R41, R328). -/
def Hw.rollAccounts (h : Hw) : Hw :=
  let a := h.acct
  let len := a.periodMs * 1000000
  if a.startNs / len < h.now / len then
    let move := fun (m : Map AcctRec) (e : Nat × Charges) =>
      if e.2 = Charges.zero then m
      else joinRecord m e.1 { charges := e.2, periods := 1, start := a.startNs, stop := (a.startNs / len + 1) * len } false
    { h with acct := { a with accounts := [], flushing := a.accounts.foldl move a.flushing, startNs := h.now / len * len,
                              periodMs := h.get 0x9302 1, due := true } }
  else h

/-- Charges an account at once: a job's charges and context switches (R325, R327). -/
def Hw.chargeNow (h : Hw) (tenant : Nat) (c : Charges) : Hw :=
  let h1 := h.rollAccounts
  { h1 with acct := { h1.acct with accounts := addCharge h1.acct.accounts tenant c } }

/-- Whether a boundary of the budget periods lies between the last reset of the tokens used and the present stamp (R41, R132). -/
def Hw.budgetOver (h : Hw) : Bool :=
  let len := h.get 0x3120 1 * 1000000000
  decide (h.budgetNs / len < h.now / len)

/-- Used tokens return to 0 where a budget period has ended (R132). -/
def Hw.rollBudget (h : Hw) : Hw :=
  if h.budgetOver then
    { h with budgetNs := h.now, od := h.od.filter fun e => !(decide (odKey 0x3101 0xD 0 ≤ e.1) && decide (e.1 < odKey 0x3101 0xE 0)) }
  else h

/-- Tokens that a tenant has used in the present budget period (R132). -/
def Hw.budgetUsed (h : Hw) (t : Nat) : Nat := if h.budgetOver then 0 else h.getAt 0x3101 0xD t

/-- Splits a value over tenants in proportion to their positions; the remainder goes one unit at a time in ascending tenant number
(R326). `shares` is in ascending tenant number. -/
def splitShare (x : Nat) (shares : List (Nat × Nat)) : List (Nat × Nat) :=
  let total := (shares.map Prod.snd).sum
  if total = 0 then shares.map fun s => (s.1, 0)
  else
    let floors := shares.map fun s => (s.1, x * s.2 / total)
    let rest := x - (floors.map Prod.snd).sum
    let n := floors.length
    (floors.zip (List.range n)).map fun e => (e.1.1, e.1.2 + rest / n + if e.2 < rest % n then 1 else 0)

/-- Moves up to `n` tokens of a sequence from reserved to used in the open ledger; a charge beyond the reservation moves nothing
(R132). -/
def Hw.moveBudget (h : Hw) (f slot n : Nat) : Hw :=
  match h.seq? slot with
  | some q =>
    let k := min n q.cur.reservedTok
    (h.setSeq slot { q with cur := { q.cur with reservedTok := q.cur.reservedTok - k } }).modFacet f fun x =>
      { x with ledger := { x.ledger with moves := Map.insert x.ledger.moves q.cur.tenant (Map.getD x.ledger.moves q.cur.tenant 0 + k) } }
  | none => h

/-- Entries of a delivery queue. -/
def Hw.queueSize (h : Hw) (q : Nat) : Nat := h.getAt 0x3021 2 q

/-- Whether a queue is enabled. -/
def Hw.queueOn (h : Hw) (q : Nat) : Bool := h.getAt 0x3021 6 q == 1

/-- The facet a queue is bound to. -/
def Hw.queueFacet (h : Hw) (q : Nat) : Nat := h.getAt 0x3021 4 q

/-- Reservations held in a queue (R143) and places kept for migrations (R146). -/
def Hw.queueReserved (h : Hw) (q : Nat) : Nat :=
  (h.seqs.foldl (fun n e => if e.2.cur.queue = q then n + (e.2.resQueue.map Prod.snd).sum else n) 0) + (h.queue q).migReserved

/-- Whether `k` more entries can be reserved: W + all reservations − C ≤ n (R143). -/
def Hw.queueRoom (h : Hw) (q k : Nat) : Bool :=
  let x := h.queue q
  decide (sub32 x.w x.c + h.queueReserved q + k ≤ h.queueSize q)

/-- Writes one delivery entry at W (R140, R141, Table 6.7). -/
def Hw.deliver (h : Hw) (q : Nat) (entry : List Byte) : Hw :=
  let x := h.queue q
  let addr := h.getAt 0x3021 1 q + 64 + x.w % h.queueSize q * 32
  let h1 := h.memPost true addr 1 entry .ring (some (h.getAt 0x3021 3 q)) (.deliveryEntry q x.w)
  h1.modQueue q fun y => { y with w := (y.w + 1) % 2 ^ 32 }

/-- The bytes of a delivery entry (Table 6.7). -/
def deliveryBytes (handle index word logprob version entropy aux : Nat) : List Byte :=
  leBytes 8 handle ++ leBytes 4 index ++ leBytes 4 word ++ leBytes 4 logprob ++ leBytes 4 version ++ leBytes 4 entropy ++ leBytes 4 aux

/-- End-reason codes (Table 6.8). -/
def EndReason.code : EndReason → Nat
  | .endToken => 0 | .stop => 1 | .length => 2 | .cancel => 3 | .deadline => 4 | .migrated => 5 | .jobError => 6

/-- A sequence handle (Table 6.5). -/
def handleOf (slot : Nat) (v : Vertex) : Nat :=
  slot + v.tenant * 2 ^ 20 + v.generation * 2 ^ 33 + v.origin * 2 ^ 61

/-- The live slot that a handle names (R134). -/
def Hw.liveSlot (h : Hw) (handle : Nat) : Option Nat :=
  let slot := handle % 2 ^ 20
  match h.seq? slot with
  | some q => if handleOf slot q.com = handle ∧ handle ≠ 0 then some slot else none
  | none => none

/-- Ends a sequence in the open ledger with an END entry (R130, R140). A sequence that has ended keeps its own reason. -/
def Hw.endSeq (h : Hw) (slot : Nat) (r : EndReason) : Hw :=
  match h.seq? slot with
  | some q =>
    if q.cur.state = .ended then h
    else
      let w := (h.queue q.cur.queue).w
      let h1 := h.deliver q.cur.queue
        (deliveryBytes (handleOf slot q.cur) q.cur.generated (2 * 2 ^ 20 + 2 ^ 24 + r.code * 2 ^ 25) 0 0 0 0)
      h1.modSeq slot fun s => { s with cur := { s.cur with state := .ended, endReason := some r }, lastEntry := some w }
  | none => h

/-- Slots whose home facet is `f`. -/
def Hw.slotsOf (h : Hw) (f : Nat) : List Nat := (h.seqs.filter fun e => e.2.com.facet = f).map Prod.fst

/-- Pages of one block table that another does not hold. -/
def pagesMinus (a b : List PageRef) : List PageRef := a.filter fun r => !(b.any fun x => x.pool == r.pool && x.page == r.page)

/-- Withdraws a sequence's open-ledger changes (R19, R366): its pages taken in the ledger return to the head of their free lists. -/
def Hw.discardSeq (h : Hw) (slot : Nat) : Hw :=
  match h.seq? slot with
  | some q =>
    let h1 := (pagesMinus q.pagesCur q.pagesCom).reverse.foldl (fun a r => a.unallocPage (r.pool, r.page)) h
    let keep := 1 + leavesFor q.pagesCom.length
    let h2 := h1.freeBlocks (q.blocks.drop keep)
    h2.setSeq slot { q with cur := q.com, pagesCur := q.pagesCom, tokensCur := q.tokensCom, blocks := q.blocks.take keep,
                            lastEntry := none }
  | none => h

/-- Writes the MIGRATED entry of a migration that is over at W of its queue, in the open ledger of the queue's facet; the sequence, while its
slot still holds it and it is MIGRATING, ends with it (R146 to R148, Table 6.7). -/
def Hw.writeMigrated (h : Hw) (m : Migration) : Hw :=
  match m.reply with
  | none => h
  | some (remote, peer, outcome) =>
    let word := 3 * 2 ^ 20 + 2 ^ 24 + (if m.slot.isSome then EndReason.migrated.code * 2 ^ 25 else 0)
    let entry := leBytes 8 m.handle ++ leBytes 4 m.msgId ++ leBytes 4 word ++ leBytes 8 remote ++ leBytes 2 peer ++
      BitVec.ofNat 8 outcome :: List.replicate 5 0
    let w := (h.queue m.queue).w
    let h1 := h.deliver m.queue entry
    match m.slot with
    | some s => h1.modSeq s fun q =>
        if handleOf s q.com = m.handle ∧ q.cur.state = .migrating then
          { q with cur := { q.cur with state := .ended, endReason := some .migrated }, lastEntry := some w }
        else q
    | none => h1

/-- A migration is over: its entry takes the place that its queue has kept (R146 to R148). -/
def Hw.endMigration (h : Hw) (m : Migration) (remote peer outcome : Nat) : Hw :=
  let m' := { m with reply := some (remote, peer, outcome) }
  let h1 : Hw := { h with fed := { h.fed with migrations := h.fed.migrations.map fun x => if x = m then m' else x } }
  (h1.modQueue m.queue fun x => { x with migReserved := x.migReserved - 1 }).writeMigrated m'

/-- Migrations that are over and whose entries stand in the open ledger of a facet. -/
def Hw.migrationsOf (h : Hw) (f : Nat) : List Migration :=
  h.fed.migrations.filter fun m => m.reply.isSome && h.queueFacet m.queue == f

/-- A ledger commits: the MIGRATED entries in it are final. -/
def Hw.commitMigrations (h : Hw) (f : Nat) : Hw :=
  { h with fed := { h.fed with migrations := h.fed.migrations.filter fun m => !(m.reply.isSome && h.queueFacet m.queue == f) } }

/-- Queues bound to a facet and enabled. -/
def Hw.queuesOf (h : Hw) (f : Nat) : List Nat :=
  (h.queues.map Prod.fst).filter fun q => h.queueOn q && h.queueFacet q == f

/-- Rewinds a facet's queues: W takes the value K (R142). -/
def Hw.rewind (h : Hw) (f : Nat) : Hw :=
  (h.queuesOf f).foldl (fun a q => a.modQueue q fun x => { x with w := x.k }) h

/-- Discards a facet's open ledger: every change is withdrawn, its charges go to the fault account, its queues rewind, the MIGRATED entries that
stood in it are written again from K on, and a composition that has not committed is withdrawn (R142, R147, R366 step 1, R327, R25). -/
def Hw.discardLedger (h : Hw) (f : Nat) : Hw :=
  let x := h.facet f
  let h1 := (h.slotsOf f).foldl Hw.discardSeq h
  let h2 := x.ledger.charges.foldl (fun a e => a.chargeNow faultAccount e.2) h1
  let h3 := (h2.migrationsOf f).foldl Hw.writeMigrated (h2.rewind f)
  let h4 := match x.composing with
    | some p => p.tags.foldl Hw.retire h3
    | none => h3
  let h5 := h4.modFacet f fun y => { y with ledger := Ledger.empty, composing := none, tes := .idle }
  { h5 with smp := { h5.smp with store := h5.smp.store.filter fun e => e.facet ≠ f,
                                 replays := h5.smp.replays.filter fun e => e.facet ≠ f } }

end Sys2Proof.Machine
end

