-- ==== Sys2Proof/Machine/Lines.lean ====
section
/-! DEFINITION. The lines of the tables in memory: vertices, block tables, page info, token records and the prefix index (Tables 6.6, 7.1 to
7.3, 11.3, 12.3), and which of them a change touches (R135, R138, R157, R158, R373). -/

namespace Sys2Proof.Machine

open Sys2Proof

/-! ## Vertices (Tables 6.6, 11.3, 12.3) -/

/-- Codes of the sampling modes (Table 11.3). -/
def SampMode.code : SampMode → Nat
  | .sample => 0 | .greedy => 1 | .score => 2

/-- Codes of the version policies (Table 6.1). -/
def VPolicy.code : VPolicy → Nat
  | .follow => 0 | .fixed => 1 | .exact => 2

/-- Codes of the vertex states (Table 6.6). -/
def SeqState.code : SeqState → Nat
  | .deferred => 1 | .prefill => 2 | .decode => 3 | .ended => 4 | .migrating => 5

/-- The 48-byte sampling block (Table 11.3). -/
def samplingBytes (s : Sampling) : List Byte :=
  [BitVec.ofNat 8 s.mode.code,
   BitVec.ofNat 8 (s.maskSlot + (if s.maskOn then 16 else 0) + if s.maskInvert then 32 else 0)] ++ leBytes 2 s.topK ++
  leBytes 4 s.temperature.toNat ++ leBytes 4 s.topP ++ leBytes 4 s.minP ++ leBytes 4 s.repetition.toNat ++
  leBytes 4 s.frequency.toNat ++ leBytes 4 s.presence.toNat ++ leBytes 2 s.biasCount ++ [0, 0] ++ leBytes 8 s.biasAddr ++
  leBytes 8 s.scoreAddr

/-- Reads a sampling block; a reserved mode reads as SCORE, and is refused by the form check. -/
def samplingOf (l : List Byte) : Sampling :=
  let m := fieldAt l 1 1
  { mode := (match fieldAt l 0 1 % 4 with | 0 => .sample | 1 => .greedy | _ => .score),
    maskSlot := m % 16, maskOn := m.testBit 4, maskInvert := m.testBit 5, topK := fieldAt l 2 2,
    temperature := BitVec.ofNat 32 (fieldAt l 4 4), topP := fieldAt l 8 4, minP := fieldAt l 12 4,
    repetition := BitVec.ofNat 32 (fieldAt l 16 4), frequency := BitVec.ofNat 32 (fieldAt l 20 4),
    presence := BitVec.ofNat 32 (fieldAt l 24 4), biasCount := fieldAt l 28 2, biasAddr := fieldAt l 32 8, scoreAddr := fieldAt l 40 8 }

/-- The penalty window of vertex bytes 192–223: slot s holds the token whose index is s modulo 12 (R251). -/
def penaltyBytes (generated : Nat) (window : List Nat) : List Byte :=
  let first := generated - window.length
  let field := ((window.zip (List.range window.length)).map fun e => e.1 % 2 ^ 20 * 2 ^ (20 * ((first + e.2) % 12))).sum
  leBytes 30 field ++ [BitVec.ofNat 8 window.length, 0]

/-- The penalty window that bytes 192–223 hold for a generated count, oldest token first. -/
def penaltyOf (generated : Nat) (l : List Byte) : List Nat :=
  let n := fieldAt l 30 1 % 16
  let field := fieldAt l 0 30
  (List.range n).map fun j => field / 2 ^ (20 * ((generated - n + j) % 12)) % 2 ^ 20

/-- Speculation statistics (Table 12.3). -/
def specBytes (s : SpecStats) : List Byte :=
  leBytes 4 s.trees ++ leBytes 4 s.accepted ++ leBytes 2 s.rate ++ [BitVec.ofNat 8 s.last, BitVec.ofNat 8 s.misses] ++
  leBytes 2 s.suspend ++ [BitVec.ofNat 8 (s.shape + if s.shapeValid then 16 else 0), 0]

/-- Reads speculation statistics. -/
def specOf (l : List Byte) : SpecStats :=
  { trees := fieldAt l 0 4, accepted := fieldAt l 4 4, rate := fieldAt l 8 2, last := fieldAt l 10 1, misses := fieldAt l 11 1,
    suspend := fieldAt l 12 2, shape := fieldAt l 14 1 % 16, shapeValid := (fieldAt l 14 1).testBit 4 }

/-- The speculation statistics of an admission (R292). -/
def SpecStats.initial : SpecStats :=
  { trees := 0, accepted := 0, rate := 0x100, last := 0, misses := 0, suspend := 0, shape := 0, shapeValid := false }

/-- Vertex line 0 (Table 6.6). -/
def vertexLine0 (slot : Nat) (v : Vertex) : List Byte :=
  leBytes 8 (handleOf slot v) ++
  [BitVec.ofNat 8 v.state.code, BitVec.ofNat 8 (match v.endReason with | some e => e.code | none => 0),
   BitVec.ofNat 8 (v.vslot + (if v.fallback then 2 else 0) + (if v.hostPool then 4 else 0) + if v.shareReduced then 8 else 0),
   BitVec.ofNat 8 v.facet] ++
  leBytes 4 v.generated ++ leBytes 4 v.kvTokens ++ leBytes 4 v.lastToken ++ leBytes 4 v.reservedTok ++ leBytes 4 v.version ++
  leBytes 8 v.lastStep ++ leBytes 8 v.projection ++ leBytes 8 v.btRoot ++ BitVec.ofNat 8 v.affinity :: List.replicate 7 0

/-- Vertex lines 1 and 2. -/
def vertexLines12 (v : Vertex) : List Byte :=
  leBytes 8 v.tag.toNat ++ leBytes 8 v.seed.toNat ++ leBytes 8 v.stream.toNat ++ leBytes 8 v.deadline ++ leBytes 8 v.start ++
  leBytes 8 v.admitted ++
  [BitVec.ofNat 8 v.model, BitVec.ofNat 8 (v.cls.code + 16 * v.level), BitVec.ofNat 8 v.flags, BitVec.ofNat 8 v.vpolicy.code,
   BitVec.ofNat 8 v.topn, 0] ++ leBytes 2 v.queue ++ leBytes 4 v.promptLen ++ leBytes 4 v.maxNew ++
  ((List.range 4).map fun i => leBytes 4 (v.stop.getD i 0xFFFFFFFF)).flatten ++ samplingBytes v.sampling

/-- Vertex line 3. -/
def vertexLine3 (v : Vertex) : List Byte :=
  penaltyBytes v.generated v.penalty ++ specBytes v.spec ++ leBytes 4 v.prefixLen ++ leBytes 8 v.arrival ++ [0, 0, 0, 0]

/-- The 256 bytes of a vertex. -/
def vertexBytes (slot : Nat) (v : Vertex) : List Byte := vertexLine0 slot v ++ vertexLines12 v ++ vertexLine3 v

/-! ## Lines -/

/-- The page that follows a page on its pool's free list or cached list; 0 at a list's tail. -/
def Hw.pageLink (h : Hw) (r : Nat × Nat) : Nat :=
  let p := h.pool r.1
  let after := fun (l : List Nat) => ((l.dropWhile fun x => x != r.2).drop 1).head?
  let fresh := if p.fresh < h.poolPages r.1 then some p.fresh else p.freed.head?
  if p.cached.contains r.2 then (after p.cached).getD 0
  else if p.front.contains r.2 then ((after p.front).orElse fun _ => fresh).getD 0
  else if p.freed.contains r.2 then (after p.freed).getD 0
  else if p.fresh ≤ r.2 then (if r.2 + 1 < h.poolPages r.1 then r.2 + 1 else p.freed.head?.getD 0)
  else 0

/-- The 16 bytes of a page's info (Table 7.1). -/
def Hw.pageInfoBytes (h : Hw) (r : Nat × Nat) : List Byte :=
  let i := h.pageInfo r
  leBytes 4 i.refs ++ leBytes 4 (h.pageLink r + if i.listed then 2 ^ 31 else 0) ++ leBytes 8 i.key

/-- The page-info line that holds a page. -/
def Hw.pageLine (h : Hw) (r : Nat × Nat) : Line :=
  let p := r.2 / 4 * 4
  { addr := h.getAt 0x4001 6 r.1 + p * 16, data := (List.range 4).flatMap fun i => h.pageInfoBytes (r.1, p + i), tenant := none }

/-- A leaf entry (Table 7.2). -/
def leafEntry (r : PageRef) : Nat := r.page + r.pool * 2 ^ 26 + 2 ^ 32 + if r.isSealed then 2 ^ 33 else 0

/-- The leaf line that holds entries 8k … 8k + 7 of a sequence's block table. An entry that maps no page keeps what it holds (R157). -/
def Hw.leafLine (h : Hw) (q : Seq) (pages : List PageRef) (k : Nat) : Line :=
  { addr := h.raw 0x4010 1 + q.blocks.getD (1 + 8 * k / 512) 0 * 4096 + 8 * k % 512 * 8,
    data := (List.range 8).flatMap fun i => leBytes 8 (match pages[8 * k + i]? with
      | some r => leafEntry r
      | none => Map.getD q.stale (8 * k + i) 0),
    tenant := some q.com.tenant }

/-- The directory line that holds leaves 8k … 8k + 7. -/
def Hw.directoryLine (h : Hw) (tenant : Nat) (blocks : List Nat) (k : Nat) : Line :=
  { addr := h.raw 0x4010 1 + blocks.getD 0 0 * 4096 + k * 64,
    data := (List.range 8).flatMap fun i => leBytes 8 (match blocks[1 + 8 * k + i]? with
      | some b => h.raw 0x4010 1 + b * 4096 + 1
      | none => 0),
    tenant := some tenant }

/-- The entry at a place of a bucket. -/
def Hw.indexAt (h : Hw) (b place : Nat) : Option PrefixEntry := h.pages.index.find? fun e => h.bucket e.key == b && e.place == place

/-- The prefix-index line of a bucket (Table 7.3). -/
def Hw.bucketLine (h : Hw) (b : Nat) : Line :=
  { addr := h.raw 0x4020 1 + b * 64,
    data := (List.range 4).flatMap fun i => match h.indexAt b i with
      | some e => leBytes 8 e.key ++ leBytes 4 (e.page + e.pool * 2 ^ 26) ++ leBytes 4 e.order
      | none => List.replicate 16 0,
    tenant := none }

/-- The four lines of a page's token record (R150, R159). -/
def Hw.tokenLines (h : Hw) (tenant : Nat) (r : Nat × Nat) : List Line :=
  let l := slice ((h.pageInfo r).tokens.flatMap (leBytes 4)) 0 256
  (List.range 4).map fun i =>
    { addr := h.getAt 0x4001 7 r.1 + r.2 * 256 + 64 * i, data := slice l (64 * i) 64, tenant := some tenant }

/-- Groups of eight at which a list holds something that another does not hold at the same place. -/
def mappedLines (old new : List PageRef) : List Nat :=
  (List.range (ceilDiv new.length 8)).filter fun k => (List.range 8).any fun i => match new[8 * k + i]? with
    | some r => old[8 * k + i]? != some r
    | none => false

/-- Groups of eight at which two lists differ. -/
def changedLines (a b : List Nat) : List Nat :=
  (List.range (ceilDiv (max a.length b.length) 8)).filter fun k => ((a.drop (8 * k)).take 8) != ((b.drop (8 * k)).take 8)

/-- Address of a slot's vertex (R135). -/
def Hw.vertexAddr (h : Hw) (slot : Nat) : Nat := h.raw 0x3000 1 + slot * 256

/-- The stale entries of a block table once its pages `old` give way to `new` (R157): those of indices that no longer map a page, in the
leaves that stay. -/
def staleAfter (stale : Map Nat) (old new : List PageRef) : Map Nat :=
  let stays := fun (i : Nat) => decide (new.length ≤ i) && decide (i < 512 * leavesFor new.length)
  (((old.zip (List.range old.length)).filter fun e => stays e.2).foldl (fun m e => Map.insert m e.2 (leafEntry e.1)) stale).filter
    fun e => stays e.1

/-- The lines that a change of a committed sequence touches: its vertex, its directory where a leaf came or went, and the leaf lines in which
an entry is newly mapped, sealed or switched (R135, R138, R155 to R158, R373). -/
def Hw.seqLines (h : Hw) (slot : Nat) (old new : Seq) : List Line :=
  let a := h.vertexAddr slot
  let t := some new.com.tenant
  let line3 : List Line := if vertexLine3 old.com = vertexLine3 new.com then [] else [{ addr := a + 192, data := vertexLine3 new.com, tenant := t }]
  let had := (old.blocks.take (1 + leavesFor old.pagesCom.length)).drop 1
  let dir := if new.blocks = [] then [] else (changedLines had (new.blocks.drop 1)).map (h.directoryLine new.com.tenant new.blocks)
  let leaf := if new.blocks = [] then [] else (mappedLines old.pagesCom new.pagesCom).map (h.leafLine new new.pagesCom)
  { addr := a, data := vertexLine0 slot new.com, tenant := t } :: line3 ++ dir ++ leaf

/-- Pages whose info two states hold differently. -/
def Hw.changedPages (a b : Hw) : List (Nat × Nat) :=
  (distinct ((a.pages.pools ++ b.pages.pools).map Prod.fst)).flatMap fun k =>
    let x := a.pool k
    let y := b.pool k
    ((distinct (x.info.map Prod.fst ++ y.info.map Prod.fst ++ x.front ++ x.freed ++ x.cached ++ y.front ++ y.freed ++ y.cached)).filter
      fun p => a.pageInfoBytes (k, p) != b.pageInfoBytes (k, p)).map fun p => (k, p)

/-- Buckets whose line two states hold differently. -/
def Hw.changedBuckets (a b : Hw) : List Nat :=
  (distinct ((a.pages.index ++ b.pages.index).map fun e => b.bucket e.key)).filter fun k =>
    (a.pages.index.filter fun e => b.bucket e.key == k) != b.pages.index.filter fun e => b.bucket e.key == k

/-- The page-info lines of pages, each once. -/
def Hw.infoLines (h : Hw) (l : List (Nat × Nat)) : List Line :=
  (distinct (l.map fun r => r.1 * 2 ^ 26 + r.2 / 4 * 4)).map fun x => h.pageLine (x / 2 ^ 26, x % 2 ^ 26)

/-- The page-info and prefix-index lines at which a state differs from an earlier one. -/
def Hw.pgmLines (h before : Hw) : List Line :=
  h.infoLines (Hw.changedPages before h) ++ (Hw.changedBuckets before h).map h.bucketLine

/-- Writes lines of a change that is committed when made. -/
def Hw.postLines (h : Hw) (p : Purpose) (l : List Line) : Hw :=
  l.foldl (fun a x => a.memPost true x.addr 1 x.data p x.tenant .other) h

/-- Writes the page-info and prefix-index lines of a change of PGM's that is committed when made (R158, R163). -/
def Hw.postPages (h before : Hw) : Hw := h.postLines .page (h.pgmLines before)

end Sys2Proof.Machine
end

