-- ==== Sys2Proof/Machine/Versions.lean ====
section
/-! DEFINITION. Version slots, pins and flips (R332 to R338). -/

namespace Sys2Proof.Machine

open Sys2Proof

/-- State of a model's slot (Table 14.1). -/
def Hw.slotState (h : Hw) (m s : Nat) : Nat := h.getAt 0x8012 (s + 1) m

/-- Sets the state of a slot. -/
def Hw.setSlot (h : Hw) (m s st : Nat) : Hw := h.setAt 0x8012 (s + 1) m st

/-- The CURRENT slot of a model. -/
def Hw.currentSlot (h : Hw) (m : Nat) : Option Nat :=
  if h.slotState m 0 = 3 then some 0 else if h.slotState m 1 = 3 then some 1 else none

/-- The version a slot holds. -/
def Hw.slotVersion (h : Hw) (m s : Nat) : Nat := h.getAt 0x8013 (s + 1) m

/-- Resident slots: CURRENT or PREVIOUS (R332). -/
def Hw.residentSlots (h : Hw) (m : Nat) : List Nat := [0, 1].filter fun s => h.slotState m s = 3 || h.slotState m s = 4

/-- Use count of a slot: live sequences whose committed vertex pins it, plus descriptors that carry it (R332). -/
def Hw.slotUse (h : Hw) (m s : Nat) : Nat :=
  (h.seqs.filter fun e => e.2.com.vslot = s && (if e.2.com.fallback then h.getAt 0x9020 1 e.2.com.model else e.2.com.model) = m).length +
  (h.descs.filter fun e => e.2.model = m && e.2.vslot = s).length

/-- How a sequence keeps its version: by its vpolicy, with EXACT acting as FIXED once it runs on its fallback model (R126, R307). -/
def Vertex.pins (v : Vertex) : VPolicy := if v.fallback ∧ v.vpolicy = .exact then .fixed else v.vpolicy

/-- The model a sequence runs on: the requested one, or its fallback (Table 6.6, R307). -/
def Hw.modelOf (h : Hw) (v : Vertex) : Nat := if v.fallback then h.getAt 0x9020 1 v.model else v.model

/-- A vertex is pinned from the composition that places it until the ledger holding the step's result commits (R137). -/
def Seq.pinned (q : Seq) : Bool := q.resQueue != []

/-- Marks a sequence's places whose results are still to be recorded: their KV no longer counts. -/
def Hw.voidKv (h : Hw) (f slot : Nat) : Hw :=
  h.modFacet f fun x => { x with plans := x.plans.map fun p =>
    { p with places := p.places.map fun c => if c.slot = slot && c.isOpen then { c with noKv := true } else c } }

/-- Drops every page of a sequence from page index `keep` on, in the open ledger: kv_tokens falls to `kv` and the state becomes
PREFILL; pages that the ledger itself had taken go back to their free lists (R167, R307, R336). A DEFERRED sequence stays DEFERRED. A MIGRATING
one stays MIGRATING, which no rule speaks of (log entry 126, DESIGN CHOICE). -/
def Hw.resetKv (h : Hw) (slot keep kv : Nat) : Hw :=
  match h.seq? slot with
  | none => h
  | some q =>
    let h1 := (pagesMinus (q.pagesCur.drop keep) q.pagesCom).reverse.foldl (fun a r => a.unallocPage (r.pool, r.page)) h
    (h1.setSeq slot { q with
      pagesCur := q.pagesCur.take keep,
      cur := { q.cur with kvTokens := kv, state := if q.cur.state = .deferred ∨ q.cur.state = .migrating then q.cur.state else .prefill } }).voidKv
        q.cur.facet slot

/-- Makes a change of the open ledger committed at once, for a facet that runs no step (R336); the lines it changes are written to their
tables (R135, R138). -/
def Hw.commitSeqNow (h : Hw) (slot : Nat) : Hw :=
  match h.seq? slot with
  | some q =>
    let h1 := (pagesMinus q.pagesCom q.pagesCur).foldl (fun a r => a.dropRef (r.pool, r.page)) h
    let keep := 1 + leavesFor q.pagesCur.length
    let new := { q with com := q.cur, pagesCom := q.pagesCur, tokensCom := q.tokensCur, blocks := q.blocks.take keep,
                        stale := staleAfter q.stale q.pagesCom q.pagesCur }
    let h2 := (h1.freeBlocks (q.blocks.drop keep)).setSeq slot new
    (h2.postLines .locus (h2.seqLines slot q new)).postPages h
  | none => h

/-- Re-pins a sequence to the CURRENT slot of its model (R336): in the open ledger of its home facet, or at once where that facet runs
no step; a Lattice facet with flip source 0 counts it (R338), and so does a forced flip of a FIXED sequence (R337). -/
def Hw.flip (h : Hw) (slot : Nat) : Hw :=
  match h.seq? slot with
  | none => h
  | some q =>
    let m := h.modelOf q.cur
    match h.currentSlot m with
    | none => h
    | some s =>
      let v := { q.cur with vslot := s, version := h.slotVersion m s }
      let f := v.facet
      let h0 := h.setSeq slot { q with cur := v }
      let h1 := if h.getAt 0x8007 1 m = 1 then h0.resetKv slot 0 0 else h0
      let h2 := if (h.facet f).state.runs then h1 else h1.commitSeqNow slot
      let h2 := if q.cur.pins = .fixed then h2.bumpAt 0x8016 1 m 1 else h2
      if h.modeNow f = 2 ∧ h.raw 0x8103 (f + 1) = 0 then h2.inc 0x5013 (f + 1) else h2

/-- Whether a flip of a sequence of facet `f` may take place in the composition of step `n` (R338). -/
def Hw.flipAllowed (h : Hw) (f n : Nat) : Bool :=
  h.mode f != 2 || h.raw 0x8103 (f + 1) == 0 || decide (h.raw 0x8104 (f + 1) ≤ n)

/-- Whether a sequence is a live FOLLOW sequence pinned to a slot that is not CURRENT. -/
def Hw.followsFlip (h : Hw) (v : Vertex) : Bool :=
  v.vpolicy == .follow && v.state != .ended && (match h.currentSlot (h.modelOf v) with
    | some s => s != v.vslot
    | none => false)

/-- Whether a sequence is still pinned to a slot whose staleness budget has passed (R337). -/
def Hw.onStale (h : Hw) (v : Vertex) : Bool :=
  (h.learner (h.modelOf v)).stale && h.slotState (h.modelOf v) v.vslot == 5

/-- Whether a sequence is to flip: a FOLLOW sequence to the newest version, or a FIXED one that is forced to (R336, R337). -/
def Hw.wantsFlip (h : Hw) (v : Vertex) : Bool :=
  h.followsFlip v || (v.pins == .fixed && v.state != .ended && h.onStale v && (h.currentSlot (h.modelOf v)).isSome)

/-- The flip walk starts, after a publication or a learner commit: it is to visit every live vertex of the model in ascending slot order
(R336). -/
def Hw.flipWalk (h : Hw) (m : Nat) : Hw :=
  h.modLearner m fun l => { l with walk := (h.seqs.filter fun e => h.modelOf e.2.cur = m).map Prod.fst }

/-- The walk's visit of one vertex: it flips where it is to, unless it is pinned in the hot set or is of a Lattice facet with flip source 1
(R336, R338). -/
def Hw.walkVisit (h : Hw) (m slot : Nat) : Hw :=
  match h.seq? slot with
  | some q =>
    if h.modelOf q.cur = m ∧ h.wantsFlip q.cur ∧ !q.pinned ∧ !(h.modeNow q.com.facet == 2 && h.raw 0x8103 (q.com.facet + 1) == 1) then h.flip slot
    else h
  | none => h

/-- What the walk does in a cc: at most four vertices, those that are not hot read first with purpose LOCUS (R336). -/
def Hw.walkStep (h : Hw) (m : Nat) : Hw :=
  let l := (h.learner m).walk
  (l.take 4).foldl (fun a slot => match a.seq? slot with
    | some q =>
      if q.hot then a.walkVisit m slot
      else a.memPost false (a.vertexAddr slot) 4 [] .locus (some q.com.tenant) (.flipRead q.com.facet m slot)
    | none => a) (h.modLearner m fun x => { x with walk := l.drop 4 })

/-- The walks of every model; none runs in START or FAULT_HOLD. -/
def Hw.walks (h : Hw) : Hw :=
  if h.eng.state = .start ∨ h.eng.state = .faultHold then h
  else (h.learners.filter fun e => e.2.walk != []).foldl (fun a e => a.walkStep e.1) h

end Sys2Proof.Machine
end

