-- ==== Sys2Proof/Machine/Trees.lean ====
section
/-! DEFINITION. Draft trees: shapes, depths, paths and the full tree of a mode (R277 to R284), and programs and domains as lists. -/

namespace Sys2Proof.Machine

open Sys2Proof

/-- Content of a DOMAIN entry for an object; empty where nothing has been written. -/
def Hw.domain (h : Hw) (idx sub obj : Nat) : List Byte := Map.getD h.dom (odKey idx sub obj) []

/-- Stores a DOMAIN entry's content. -/
def Hw.setDomain (h : Hw) (idx sub obj : Nat) (l : List Byte) : Hw := { h with dom := Map.insert h.dom (odKey idx sub obj) l }

/-- A byte string cut into pieces of `n` bytes; `fuel` pieces at most, a shorter rest is dropped. -/
def pieces (n : Nat) : Nat → List Byte → List (List Byte)
  | 0, _ => []
  | fuel + 1, l => if l.length < n ∨ n = 0 then [] else l.take n :: pieces n fuel (l.drop n)

/-- The `n`-byte little-endian words of a byte string. -/
def leWords (n : Nat) (l : List Byte) : List Nat := (pieces n l.length l).map leNat

/-- The program of a model (R185, Table 8.4). -/
def Hw.program (h : Hw) (m : Nat) : List Nat := leWords 8 (h.domain 0x5401 1 m)

/-- Class of a program entry: 0 DENSE, 1 ROUTER, 2 EXPERT, 3 EXIT, 4 PROJECTION. -/
def progClass (e : Nat) : Nat := bits e 34 32

/-- Parameter of a mode (Table 8.3); 0 of no mode. -/
def Hw.paramOf (h : Hw) (m sub : Nat) : Nat := if m < 4 then h.get (0x5100 + m) sub else 0

/-- Parameter of the mode written to a facet. -/
def Hw.modeParam (h : Hw) (f sub : Nat) : Nat := h.paramOf (h.mode f) sub

/-- Parameter of the mode that governs a facet now (R18). -/
def Hw.paramNow (h : Hw) (f sub : Nat) : Nat := h.paramOf (h.modeNow f) sub

/-! ## Shapes -/

/-- Depths of nodes 1 … T, from their parents in ascending order (R277). -/
def treeDepths (parents : List Nat) : List Nat :=
  parents.foldl (fun ds p => ds ++ [1 + (if p = 0 then 0 else ds.getD (p - 1) 0)]) []

/-- Depth of a node; the root lies at 0. -/
def nodeDepth (parents : List Nat) (n : Nat) : Nat := if n = 0 then 0 else (treeDepths parents).getD (n - 1) 0

/-- Depth D of a tree: the largest node depth. -/
def treeDepth (parents : List Nat) : Nat := (treeDepths parents).foldl max 0

/-- Parent of node n ≥ 1. -/
def nodeParent (parents : List Nat) (n : Nat) : Nat := parents.getD (n - 1) 0

/-- Sibling rank of node n: nodes m < n of the same parent (R277). -/
def siblingRank (parents : List Nat) (n : Nat) : Nat :=
  ((parents.take (n - 1)).filter fun p => p = nodeParent parents n).length

/-- Nodes on the way from the root to a node, root excluded, in order from the root; the walk is bounded by the node number. -/
def nodePath (parents : List Nat) : Nat → Nat → List Nat
  | 0, _ => []
  | fuel + 1, n => if n = 0 then [] else nodePath parents fuel (nodeParent parents n) ++ [n]

/-- Whether parents describe a tree of R277. -/
def validTree (parents : List Nat) : Bool :=
  let T := parents.length
  decide (1 ≤ T) && decide (T ≤ 63) &&
  ((List.range T).all fun i => decide (parents.getD i 0 ≤ i)) &&
  ((List.range (T - 1)).all fun i => decide (parents.getD i 0 ≤ parents.getD (i + 1) 0)) &&
  ((List.range (T + 1)).all fun n => decide (parents.count n ≤ 8)) &&
  decide (treeDepth parents ≤ 16)

/-- Parents of a 64-byte shape (Table 12.1). -/
def shapeParents (l : List Byte) : List Nat :=
  ((List.range (fieldAt l 0 1)).map fun i => fieldAt l (i + 1) 1)

/-- A valid shape (R278): R277 holds, and the bytes above T and every reserved bit are 0. -/
def validShape (l : List Byte) : Bool :=
  l.length == 64 && decide (fieldAt l 0 1 ≤ 63) && validTree (shapeParents l) &&
  ((l.drop (fieldAt l 0 1 + 1)).all fun b => b == 0)

/-- Children counts per level of the full tree (R279): one each, and the extra nodes seven at a time from the first level. -/
def fullLevels : Nat → Nat → List Nat
  | 0, _ => []
  | d + 1, extra => let a := min extra 7; (1 + a) :: fullLevels d (extra - a)

/-- Parents of the nodes of consecutive levels; `spine` is the first node of the level above and `next` the next node number. -/
def levelParents : List Nat → Nat → Nat → List Nat
  | [], _, _ => []
  | c :: r, spine, next => List.replicate c spine ++ levelParents r next (next + c)

/-- The full tree of TREE_NODES and TREE_DEPTH (R279), as parents; empty where T is 0. -/
def fullTree (nodes depth : Nat) : List Nat :=
  let t0 := min (nodes - 1) 63
  let d := min depth t0
  let t := min t0 (8 * d)
  levelParents (fullLevels d (t - d)) 0 1

/-- The shape in a slot, if the slot is loaded. -/
def Hw.shapeSlot (h : Hw) (s : Nat) : Option (List Nat) :=
  if (h.raw 0x7211 1).testBit s then some (shapeParents (h.domain 0x7210 (s + 1) 0)) else none

/-- The draft model of a model, if it is active and has a CURRENT version (R281). -/
def Hw.draftOf (h : Hw) (m : Nat) : Option Nat :=
  let d := h.getAt 0x7200 1 m
  if d ≠ 0xFF ∧ h.getAt 0x8001 1 d = 1 ∧ (h.currentSlot d).isSome then some d else none

/-- Shape chosen for a sequence in mode `m`: parents, shape id, and whether a proposal was replaced by the full tree (R281). -/
def Hw.chooseShape (h : Hw) (m : Nat) (v : Vertex) : List Nat × Nat × Bool :=
  let nodes := h.paramOf m 6
  let depth := h.paramOf m 7
  let full := fullTree nodes depth
  if m ≠ 2 ∧ h.paramOf m 0xE = 1 ∧ v.spec.shapeValid then
    match h.shapeSlot v.spec.shape with
    | some p => if p.length + 1 ≤ nodes ∧ treeDepth p ≤ depth then (p, v.spec.shape, false) else (full, 0xFF, true)
    | none => (full, 0xFF, true)
  else (full, 0xFF, false)

/-- Whether trees may run for a vertex taken as DECODE in mode `m`, suspension apart (R281, R303). -/
def Hw.treeAllowed (h : Hw) (m : Nat) (v : Vertex) : Bool :=
  h.feature 0 && h.paramOf m 5 == 1 && v.flags.testBit 0 && v.sampling.mode != .score && !v.shareReduced &&
  (h.draftOf (h.modelOf v)).isSome && decide (1 ≤ (h.chooseShape m v).1.length)

end Sys2Proof.Machine
end

