-- ==== Sys2Proof/Machine/Tess.lean ====
section
/-! DEFINITION. The Tessellator's SCAN: eligibility, order, limits, resources, placement, carry plans and pinned batches (R173 to
R184, R193, R197 to R204, R281, R282). -/

namespace Sys2Proof.Machine

open Sys2Proof

/-! ## What a composition expects of a sequence -/

/-- KV tokens and generated tokens of a sequence. -/
structure Expect where
  kv  : Nat
  gen : Nat
deriving DecidableEq, Repr

/-- Whether a sequence was admitted in score mode. -/
def Vertex.scores (v : Vertex) : Bool := v.sampling.mode == .score

/-- Parents of a place's tree; empty without one. -/
def Place.parents (c : Place) : List Nat := match c.tree with | some t => t.parents | none => []

/-- Sequence positions a place covers: the tree's longest path for a tree, its positions otherwise. -/
def Place.span (c : Place) : Nat := if c.kind = .tree then treeDepth c.parents + 1 else c.count

/-- What a sequence will be once a place's result is in; a tree counts the largest index it can reach (R180). -/
def Expect.after (e : Expect) (c : Place) : Expect :=
  if !c.isOpen then e
  else
    let kv := if c.noKv then e.kv else e.kv + c.span
    match c.kind with
    | .decode | .tree | .score => { kv := kv, gen := e.gen + c.span }
    | .prefill => { kv := kv, gen := if c.endsPrompt then e.gen + 1 else e.gen }
    | .vacated | .draft => e

/-- What the plan being composed reads of a sequence: committed state, the open ledger, and the results still open of plans already
dispatched (R19, R177, R180). -/
def Hw.expected (h : Hw) (f slot : Nat) (v : Vertex) : Expect :=
  (((h.facet f).plans.flatMap fun p => p.places).filter fun c => c.slot = slot).foldl Expect.after
    { kv := v.kvTokens, gen := v.generated }

/-- The work a sequence is ready for: one decode position, `left` positions to prefill (with logits at the last of them or not), or
`left` score positions (R167, R173, R272). -/
inductive Work where
  | decode | prefill (left : Nat) (logits : Bool) | score (left : Nat)
deriving DecidableEq, Repr

/-- Positions that prefill covers: the prompt, or after a reset everything before the position of the last emitted token; a score
sequence prefills one position fewer than its prompt. -/
def Vertex.prefillEnd (v : Vertex) (gen : Nat) : Nat :=
  if v.scores ∨ gen ≥ 1 then v.promptLen + gen - 1 else v.promptLen

/-- The work of a sequence expected to stand at `e`. -/
def Vertex.work (v : Vertex) (e : Expect) : Work :=
  let t := v.prefillEnd e.gen
  if e.kv < t then .prefill (t - e.kv) (!v.scores && e.gen == 0)
  else if v.scores then .score (v.maxNew - e.gen)
  else .decode

/-! ## Eligibility and order -/

/-- Whether a sequence has started (R202). -/
def Vertex.started (v : Vertex) : Bool := decide (v.prefixLen < v.kvTokens) || decide (0 < v.generated)

/-- The horizon of a Lattice facet for step `n` (R198). -/
def Hw.horizon (h : Hw) (f n : Nat) : Nat :=
  if h.raw 0x5040 (f + 1) = 0 then h.arrival
  else if h.raw 0x5042 (f + 1) ≤ n then h.raw 0x5041 (f + 1) else 0

/-- Whether a sequence names a mask slot that has not been written since the last start (R252). -/
def Hw.maskMissing (h : Hw) (v : Vertex) : Bool := v.sampling.maskOn && !(h.raw 0x7042 1).testBit v.sampling.maskSlot

/-- Eligibility for the plan of step `n` (R127, R177, R198, R202, R252, R307). A fallback acts from the first composition after its ledger
commits (R296): between its order, which drops the sequence's KV, and that commit the sequence is not placed (log entry 119, DESIGN
CHOICE). -/
def Hw.isEligible (h : Hw) (f n : Nat) (q : Seq) : Bool :=
  q.cur.facet == f && q.recordReady && (q.cur.state == .prefill || q.cur.state == .decode) && !q.moving && q.cancelAsked.isNone &&
  !q.migrateAsked && !h.maskMissing q.cur && !(h.facet f).noPlacing && q.cur.fallback == q.com.fallback &&
  ((h.facet f).state != .draining || q.cur.started) &&
  (h.mode f != 2 || decide (q.cur.arrival < h.horizon f n))

/-- The eligibility order (R178): class rank; deadline for DL, level for LC and BE; level for DL; arrival number. -/
def keyBefore (a b : Vertex) : Bool :=
  if a.cls.rank ≠ b.cls.rank then decide (a.cls.rank < b.cls.rank)
  else if a.cls = .dl then
    (if a.deadline ≠ b.deadline then decide (a.deadline < b.deadline)
     else if a.level ≠ b.level then decide (b.level < a.level)
     else decide (a.arrival < b.arrival))
  else if a.level ≠ b.level then decide (b.level < a.level)
  else decide (a.arrival < b.arrival)

/-- The eligibility list of a facet for step `n`, as slots in key order. -/
def Hw.eligibleList (h : Hw) (f n : Nat) : List Nat :=
  (sortBy (fun a b => keyBefore a.2.cur b.2.cur) (h.seqs.filter fun e => h.isEligible f n e.2)).map Prod.fst

/-! ## Size of a plan -/

/-- Logits charged for one position of a model (R175). -/
def Hw.logitCost (h : Hw) (m : Nat) : Nat :=
  ceilDiv (h.getAt 0x7001 1 m) 128 * 128 * if h.getAt 0x7002 1 m = 0 then 2 else 1

/-- Logit charge of a place (R173, R175). -/
def Hw.placeCharge (h : Hw) (c : Place) : Nat :=
  match c.kind, c.tree with
  | .tree, some t => (t.parents.length + 1) * h.logitCost c.model + t.parents.length * h.logitCost t.draftModel
  | .prefill, _ => if c.endsPrompt then h.logitCost c.model else 0
  | .score, _ => c.count * h.logitCost c.model
  | _, _ => h.logitCost c.model

/-- Key of a step block: model, version slot, draft group or not, and partition. -/
def blockKey (model vslot : Nat) (draft : Bool) (part : Nat) : Nat := ((model * 2 + vslot) * 2 + if draft then 1 else 0) * 64 + part

/-- Step blocks a place has entries in: its group's, and its draft group's for a tree. -/
def Place.blocks (c : Place) : List Nat :=
  blockKey c.model c.vslot false c.part ::
    match c.tree with
    | some t => [blockKey t.draftModel t.draftSlot true c.part]
    | none => []

/-- Step blocks of a plan in ascending key order. -/
def Hw.planBlocks (_h : Hw) (l : List Place) : List Nat :=
  sortBy (fun a b => decide (a < b)) (distinct (l.flatMap Place.blocks))

/-- Places with entries in a block. -/
def Hw.blockPlaces (_h : Hw) (key : Nat) (l : List Place) : List Place := l.filter fun c => key ∈ c.blocks

/-- Whether a block belongs to a draft group. -/
def blockDraft (key : Nat) : Bool := key / 64 % 2 == 1

/-- Model of a block. -/
def blockModel (key : Nat) : Nat := key / 256

/-- Version slot of a block. -/
def blockSlot (key : Nat) : Nat := key / 128 % 2

/-- Position entries of a place in a block: T of a draft group, T + 1 of a tree's target group, all otherwise. -/
def Place.entriesIn (c : Place) (draft : Bool) : Nat :=
  match c.tree with
  | some t => if draft then t.parents.length else t.parents.length + 1
  | none => c.count

/-- Rounds up to a multiple of 64. -/
def align64 (n : Nat) : Nat := ceilDiv n 64 * 64

/-- Pages in a place's KV list (R169). -/
def Hw.placePages (h : Hw) (c : Place) : Nat :=
  match h.seq? c.slot with
  | some q => min q.pagesCur.length (ceilDiv (c.start + c.span) (h.pageTokens (h.modelOf q.cur)))
  | none => 0

/-- Bytes of a place's KV list with its tree record, in whole 64-byte lines (Tables 7.4, 12.2). -/
def Hw.listBytes (h : Hw) (c : Place) : Nat :=
  align64 (16 + 8 * h.placePages c) + if c.tree.isSome then 128 else 0

/-- Bytes of a step block (Table 8.5). -/
def Hw.blockBytes (h : Hw) (key : Nat) (l : List Place) : Nat :=
  let cs := h.blockPlaces key l
  align64 (64 + 16 * (cs.map fun c => c.entriesIn (blockDraft key)).sum + 8 * cs.length) + (cs.map h.listBytes).sum

/-- Descriptors of one pass through a program: two for an EXPERT entry (R187). -/
def progDescs (prog : List Nat) : Nat := (prog.map fun e => if progClass e = 2 then 2 else 1).sum

/-- Depth of the deepest tree among places. -/
def treesDepth (l : List Place) : Nat := (l.map fun c => treeDepth c.parents).foldl max 0

/-- Descriptors of a block: its program, once for each depth of a draft group (R187, R285). -/
def Hw.blockDescs (h : Hw) (key : Nat) (l : List Place) : Nat :=
  progDescs (h.program (blockModel key)) * if blockDraft key then treesDepth (h.blockPlaces key l) else 1

/-- Limits of a composition. -/
structure Limits where
  step    : Nat
  maxSeqs : Nat
  maxPos  : Nat
  passA   : Nat
  budget  : Nat
  descs   : Nat
  bytes   : Nat
  parts   : List Nat
  room    : Nat
  chunk   : Nat
deriving DecidableEq, Repr

/-- Positions of a plan. -/
def positionsOf (l : List Place) : Nat := (l.map fun c => c.count).sum

/-- Positions on a partition. -/
def positionsOn (p : Nat) (l : List Place) : Nat := positionsOf (l.filter fun c => c.part = p)

/-- Whether a plan's sequences, groups and descriptors lie within their limits (R174). -/
def Hw.shapeFits (h : Hw) (lim : Limits) (l : List Place) : Bool :=
  let blocks := h.planBlocks l
  decide (l.length ≤ lim.maxSeqs) && decide ((distinct (blocks.map fun k => k / 64)).length ≤ 8) &&
  decide ((blocks.map fun k => h.blockDescs k l).sum ≤ lim.descs)

/-- Whether a plan's positions and logit charge lie within the limits (R174, R175). -/
def Hw.sizeFits (h : Hw) (lim : Limits) (posLimit : Nat) (l : List Place) : Bool :=
  decide (positionsOf l ≤ posLimit) && decide ((l.map h.placeCharge).sum ≤ lim.budget)

/-- Whether a plan lies within every limit of R174 and R175 but for its argument space. -/
def Hw.within (h : Hw) (lim : Limits) (posLimit : Nat) (l : List Place) : Bool := h.shapeFits lim l && h.sizeFits lim posLimit l

/-- Whether a plan's step blocks fit in half of the facet's argument region (R174, R186). -/
def Hw.blocksFit (h : Hw) (lim : Limits) (l : List Place) : Bool :=
  decide (((h.planBlocks l).map fun k => h.blockBytes k l).sum ≤ lim.bytes)

/-! ## Resources -/

/-- Why a sequence could not get its resources (R184, R282). -/
inductive Short where
  | hot | queue | ring | pages | table | space
deriving DecidableEq, Repr

/-- Hot entries that are not masked (HOT_CAPACITY). -/
def Hw.hotCapacity (h : Hw) : Nat := 65536 - 4096 * popcount (h.raw 0xA011 1)

/-- Steps a hot vertex has gone without placement (R137). -/
def Hw.unplaced (h : Hw) (q : Seq) : Nat := (h.facet q.com.facet).step - q.lastPlaced

/-- The unpinned hot vertex unplaced the longest, the lowest slot among equals (R137). -/
def Hw.evictee (h : Hw) : Option Nat :=
  ((h.seqs.filter fun e => e.2.hot && !e.2.pinned).foldl (fun (best : Option (Nat × Nat)) e =>
    match best with
    | none => some (e.1, h.unplaced e.2)
    | some b => if b.2 < h.unplaced e.2 then some (e.1, h.unplaced e.2) else best) none).map Prod.fst

/-- Evicts a vertex from the hot set where the set is full (R137). -/
def Hw.makeHotRoom (h : Hw) : Hw :=
  if (h.seqs.filter fun e => e.2.hot).length < h.hotCapacity then h
  else match h.evictee with
    | some s => (h.modSeq s fun q => { q with hot := false }).inc 0x3005 1
    | none => h

/-- The vertex that LOC fills next for a facet: the first of its next composition's eligibility order that is not hot (R137, R177). -/
def Hw.nextFill (h : Hw) (f : Nat) : Option Nat :=
  (h.eligibleList f ((h.facet f).step + 1)).find? fun s => match h.seq? s with
    | some q => !q.hot
    | none => false

/-- Fills a vertex into the hot set: its four lines are read with purpose LOCUS (R137, Table 3.10). -/
def Hw.fillHot (h : Hw) (slot : Nat) : Hw :=
  match h.seq? slot with
  | some q =>
    if q.hot then h
    else
      let h1 := h.makeHotRoom
      if (h1.seqs.filter fun e => e.2.hot).length < h1.hotCapacity then
        ((h1.modSeq slot fun s => { s with hot := true }).inc 0x3004 1).memPost false (h1.raw 0x3000 1 + slot * 256) 4 [] .locus
          (some q.com.tenant) (.vertexRead q.com.facet slot)
      else h1
  | none => h

/-- Tokens a place reserves for: the tree's depth plus one, or one (R143). -/
def Place.tokensReserved (c : Place) : Nat := if c.kind = .tree then treeDepth c.parents + 1 else 1

/-- Entries reserved in the delivery queue (R143). -/
def reserveCount (v : Vertex) (t : Nat) : Nat := t * (1 + ceilDiv v.topn 2) + 1

/-- The enabled experience ring of a tenant and requested model (R339). -/
def Hw.expRing (h : Hw) (tenant model : Nat) : Option Nat :=
  (List.range 64).find? fun r =>
    h.getAt 0x8201 5 r == 1 && h.getAt 0x8201 3 r == tenant && h.getAt 0x8201 4 r == model

/-- The ring that takes a sequence's experience records, where it yields any (R339). -/
def Hw.ringFor (h : Hw) (v : Vertex) : Option Nat :=
  if h.feature 9 ∧ v.flags.testBit 2 then h.expRing v.tenant v.model else none

/-- Whether an experience ring has room for `t` more records (R340). -/
def Hw.ringRoom (h : Hw) (r t : Nat) : Bool :=
  let res := h.seqs.foldl (fun n e => if h.ringFor e.2.cur = some r then n + (e.2.resRing.map Prod.snd).sum else n) 0
  decide (sub32 (Map.getD h.expRings r (0, 0)).1 (h.getAt 0x8201 7 r) + res + t ≤ h.getAt 0x8201 2 r)

/-- Takes the pages a place needs; the count is structural over the pages still missing (R155, R156, R158). -/
def Hw.takePages (h : Hw) (slot : Nat) : Nat → Hw × Option Short
  | 0 => (h, none)
  | k + 1 =>
    match h.seq? slot with
    | none => (h, none)
    | some q =>
      let leafed : Option Hw :=
        if leavesFor (q.pagesCur.length + 1) ≤ q.blocks.length - 1 then some h
        else (h.takeBlock).map fun r => r.2.setSeq slot { q with blocks := q.blocks ++ [r.1] }
      match leafed with
      | none => (h, some .table)
      | some h1 =>
        match h1.allocPage (h.modelOf q.cur) q.cur.affinity q.cur.cls with
        | none => (h, some .pages)
        | some (pg, h2) => Hw.takePages (h2.modSeq slot fun s => { s with pagesCur := s.pagesCur ++ [pg] }) slot k

/-- Takes a place's resources in the order of R184; where one fails, everything it had obtained is given back. -/
def Hw.takeFor (h : Hw) (lim : Limits) (placed : List Place) (c : Place) : Hw × Option Short :=
  match h.seq? c.slot with
  | none => (h, some .space)
  | some q =>
    let pins := (h.seqs.filter fun e => e.2.pinned).length
    if !q.pinned ∧ pins + 1024 ≥ h.hotCapacity then (h, some .hot)
    else
      let h1 := h.fillHot c.slot
      let k := reserveCount q.cur c.tokensReserved
      if !h1.queueRoom q.cur.queue k then (h, some .queue)
      else
        let h2 := h1.modSeq c.slot fun s => { s with resQueue := s.resQueue ++ [(lim.step, k)], lastPlaced := lim.step }
        let ring := h2.ringFor q.cur
        if (match ring with | some r => !h2.ringRoom r c.tokensReserved | none => false) then (h, some .ring)
        else
          let h3 := if ring.isSome then
              h2.modSeq c.slot fun s => { s with resRing := s.resRing ++ [(lim.step, c.tokensReserved)] } else h2
          let need := ceilDiv (c.start + c.span) (h3.pageTokens (h3.modelOf q.cur)) - q.pagesCur.length
          match h3.takePages c.slot need with
          | (_, some e) => (h, some e)
          | (h4, none) => if h4.blocksFit lim (placed ++ [c]) then (h4, none) else (h, some .space)

/-! ## Placement -/

/-- The partition with the fewest positions, the lowest number among equals (R182). -/
def fewest (parts : List Nat) (placed : List Place) : Option Nat := minBy (fun p => positionsOn p placed) parts

/-- The partition chosen for `need` positions: the affinity partition where it has room (not on a Lattice facet), or else the one with
the fewest positions, if it has room (R182). -/
def Hw.partitionFor (h : Hw) (f : Nat) (lim : Limits) (placed : List Place) (affinity need : Nat) : Option Nat :=
  let fits := fun p => decide (positionsOn p placed + need ≤ lim.room)
  if h.mode f ≠ 2 ∧ affinity ∈ lim.parts ∧ fits affinity then some affinity
  else match fewest lim.parts placed with
    | some p => if fits p then some p else none
    | none => none

/-- SCAN's working state: the machine, the places in order of placement, and the slots left out for a resource. -/
structure Scan where
  hw      : Hw
  places  : List Place
  failed  : List (Nat × Short)

/-- A place with no tree. -/
def Hw.plainPlace (h : Hw) (slot part : Nat) (v : Vertex) (e : Expect) (kind : PosKind) (count : Nat) (ends : Bool) : Place :=
  { slot := slot, part := part, kind := kind, first := 0, count := count, start := e.kv, tokenNum := e.gen, endsPrompt := ends,
    model := h.modelOf v, vslot := v.vslot, version := v.version, reserved := 0, isOpen := true, noKv := false, tree := none }

/-- A sequence is left out (R179, R197). -/
def Scan.leaveOut (s : Scan) (f slot : Nat) (why : Option Short) : Scan :=
  let h1 := s.hw.inc 0x5012 (f + 1)
  match why with
  | some e => { s with hw := if h1.mode f = 2 then h1.inc 0x5013 (f + 1) else h1, failed := s.failed ++ [(slot, e)] }
  | none => { s with hw := h1 }

/-- Places a sequence that already has its partition, if limits and resources allow it. -/
def Scan.tryPlace (s : Scan) (lim : Limits) (posLimit : Nat) (c : Place) : Scan × Option (Option Short) :=
  if !s.hw.within lim posLimit (s.places ++ [c]) then (s, some none)
  else match s.hw.takeFor lim s.places c with
    | (h, none) => ({ s with hw := h, places := s.places ++ [c] }, none)
    | (_, some e) => (s, some (some e))

/-- Places one DECODE position, or leaves the sequence out. -/
def Scan.placeDecode (s : Scan) (f : Nat) (lim : Limits) (posLimit slot : Nat) (v : Vertex) (e : Expect) : Scan :=
  match s.hw.partitionFor f lim s.places v.affinity 1 with
  | none => s.leaveOut f slot none
  | some p =>
    match s.tryPlace lim posLimit (s.hw.plainPlace slot p v e .decode 1 false) with
    | (s1, none) => s1
    | (s1, some why) => s1.leaveOut f slot why

/-- The place of a sequence's tree; the draft model runs on the slot that is CURRENT now (R295). -/
def Hw.treePlace (h : Hw) (slot part : Nat) (v : Vertex) (e : Expect) (parents : List Nat) (shape draft : Nat) (baseKnown : Bool) :
    Place :=
  let ds := (h.currentSlot draft).getD 0
  { h.plainPlace slot part v e .tree (2 * parents.length + 1) false with
    tree := some { parents := parents, shapeId := shape, base := if baseKnown then some e.gen else none, treePos := 0, draftPos := 0,
                   draftModel := draft, draftSlot := ds, draftVersion := h.slotVersion draft ds,
                   toks := List.replicate parents.length none, voids := [] } }

/-- What kept a tree out of a plan (R282): what the rule names, or a limit of R174 that it does not name. -/
inductive TreeLack where
  | size | space | sec | shape
deriving DecidableEq, Repr

/-- One DECODE position in place of a tree (R282). It counts in 0x7209 where what was lacking is what the rule names; a plan at its limit of
sequences, groups or descriptors is not named, and such a position is tried without a count (log entry 119, DESIGN CHOICE). On a Lattice
facet argument space and the SEC entry are resources whose failure counts (R197). -/
def Scan.decodeInstead (s : Scan) (f : Nat) (lim : Limits) (slot : Nat) (v : Vertex) (e : Expect) (why : TreeLack) : Scan :=
  let s1 : Scan := if (why = .space ∨ why = .sec) ∧ s.hw.mode f = 2 then { s with hw := s.hw.inc 0x5013 (f + 1) } else s
  let s2 := s1.placeDecode f lim lim.passA slot v e
  if why ≠ .shape ∧ s2.places.length ≠ s.places.length then { s2 with hw := s2.hw.inc 0x7209 1 } else s2

/-- Places a sequence ready to decode: with a tree where R281 and R282 allow one, otherwise one DECODE position. -/
def Scan.placeReady (s : Scan) (f : Nat) (lim : Limits) (slot : Nat) (q : Seq) (e : Expect) : Scan :=
  let h := s.hw
  let v := q.cur
  let baseKnown := ((h.facet f).plans.flatMap fun p => p.places).all fun c => !(c.slot == slot && c.isOpen && c.kind == .tree)
  if v.state ≠ .decode ∨ !h.treeAllowed (h.mode f) v then s.placeDecode f lim lim.passA slot v e
  else if h.mode f ≠ 2 ∧ v.spec.suspend > 0 then
    let s1 := s.placeDecode f lim lim.passA slot v e
    if s1.places.length = s.places.length then s1
    else { s1 with hw := s1.hw.modCur slot fun w => { w with spec := { w.spec with suspend := w.spec.suspend - 1 } } }
  else
    let r := h.chooseShape (h.mode f) v
    let s0 : Scan := if r.2.2 then { s with hw := (h.inc 0x7207 1).event 0xD (281 * 16) 2 (some f) none } else s
    match h.draftOf (h.modelOf v), h.partitionFor f lim s.places v.affinity (2 * r.1.length + 1) with
    | some d, some p =>
      let c := h.treePlace slot p v e r.1 r.2.1 d baseKnown
      if !h.sizeFits lim lim.passA (s.places ++ [c]) then s0.decodeInstead f lim slot v e .size
      else match s0.tryPlace lim lim.passA c with
        | (_, some none) => s0.decodeInstead f lim slot v e .shape
        | (_, some (some .space)) => s0.decodeInstead f lim slot v e .space
        | (s1, some why) => s1.leaveOut f slot why
        | (s1, none) =>
          if h.secUsed < 4096 then { s1 with hw := { s1.hw with secUsed := s1.hw.secUsed + 1 } }
          else s0.decodeInstead f lim slot v e .sec
    | _, _ => s0.decodeInstead f lim slot v e .size

/-- Places a chunk of at most `left` positions, which shrinks to the plan's and the partition's room (R179). -/
def Scan.placeChunk (s : Scan) (f : Nat) (lim : Limits) (posLimit slot : Nat) (q : Seq) (e : Expect) (kind : PosKind) (left : Nat)
    (logits : Bool) : Scan :=
  let h := s.hw
  let v := q.cur
  match h.partitionFor f lim s.places v.affinity 1 with
  | none => s.leaveOut f slot none
  | some p =>
    let share := if v.shareReduced then h.getAt 0x4101 7 (h.modelOf v) else lim.maxPos
    let c := min (min lim.chunk left) (min share (min (posLimit - positionsOf s.places) (lim.room - positionsOn p s.places)))
    if c = 0 then s.leaveOut f slot none
    else
      match s.tryPlace lim posLimit (h.plainPlace slot p v e kind c (logits && c == left)) with
      | (s1, none) => s1
      | (s1, some why) => s1.leaveOut f slot why

/-- Flips a FOLLOW sequence at the composition that considers it (R336, R338). -/
def Scan.flipAt (s : Scan) (f slot : Nat) (lim : Limits) : Scan :=
  match s.hw.seq? slot with
  | some q => if s.hw.wantsFlip q.cur ∧ s.hw.flipAllowed f lim.step then { s with hw := s.hw.flip slot } else s
  | none => s

/-- Pass A on one entry: sequences ready to decode, and chunks of urgent DL sequences off Lattice (R179). -/
def Scan.passA (f : Nat) (lim : Limits) (s0 : Scan) (slot : Nat) : Scan :=
  let s := s0.flipAt f slot lim
  match s.hw.seq? slot with
  | none => s
  | some q =>
    let e := s.hw.expected f slot q.cur
    match q.cur.work e with
    | .decode => s.placeReady f lim slot q e
    | .prefill left logits =>
      if q.urgent ∧ s.hw.mode f ≠ 2 then
        let s1 := s.placeChunk f lim lim.passA slot q e .prefill left logits
        if s1.places.length = s.places.length then s else s1
      else s
    | .score _ => s

/-- Pass B on one entry: the PREFILL and SCORE sequences that remain (R179). -/
def Scan.passB (f : Nat) (lim : Limits) (s : Scan) (slot : Nat) : Scan :=
  match s.hw.seq? slot with
  | none => s
  | some q =>
    if s.places.any fun c => c.slot == slot then s
    else
      let e := s.hw.expected f slot q.cur
      match q.cur.work e with
      | .decode => s
      | .prefill left logits => s.placeChunk f lim lim.maxPos slot q e .prefill left logits
      | .score left => s.placeChunk f lim lim.maxPos slot q e .score left true

/-! ## Limits -/

/-- Sampler weights that share the lanes: of facets that run, or on a Lattice facet of those that have partitions (R175, R197). -/
def Hw.weightSum (h : Hw) (f : Nat) : Nat :=
  (((List.range 16).filter fun g => if h.mode f = 2 then h.raw 0x5000 (g + 1) != 0 else (h.facet g).state.runs).map fun g =>
    h.get 0x5004 (g + 1)).sum

/-- The facet's logit budget B (R175, R197). -/
def Hw.logitBudget (h : Hw) (f : Nat) : Nat :=
  let w := h.get 0x5004 (f + 1)
  if w = 0 then 0
  else
    let lanes := if h.mode f = 2 then 16 else 16 - popcount (h.raw 0xA010 1)
    let mhz := if h.mode f = 2 then 2000 else h.clk.mhz
    lanes * 128 * h.modeParam f 0xD * mhz * w / h.weightSum f

/-- The Chord position cap (R199). -/
def Hw.chordCap (h : Hw) (f maxPos : Nat) : Nat :=
  let x := h.facet f
  let cap := h.modeParam f 0xF
  let n := x.positionsRun.sum
  let ePos := if n = 0 then 0 else x.energies.sum / n
  if h.mode f = 3 ∧ cap > 0 ∧ ePos > 0 then max 1 (min maxPos (cap * h.modeParam f 0xD * 1000 / ePos)) else maxPos

/-- A mode limit under a proposal; 0 is no proposal (R181). -/
def capped (proposal limit : Nat) : Nat := if proposal = 0 then limit else min proposal limit

/-- Limits of the composition of step `n` on a facet, before the prefill share is set aside; `proposed` where a proposal counts. -/
def Hw.limits (h : Hw) (f n : Nat) (proposed : Bool) : Limits :=
  let x := h.facet f
  let adapt := proposed && h.modeParam f 0xE = 1 && h.mode f != 2
  let pos0 := h.chordCap f (h.modeParam f 2)
  let maxPos := if adapt then capped x.proposal.2 pos0 else pos0
  let parts := h.facetParts f
  { step := n, maxSeqs := if adapt then capped x.proposal.1 (h.modeParam f 1) else h.modeParam f 1,
    maxPos := maxPos, passA := maxPos, budget := h.logitBudget f, descs := h.get 0x5005 (f + 1),
    bytes := h.raw 0x5021 (f + 1) / 2, parts := parts,
    room := ceilDiv (ceilDiv maxPos parts.length * 9) 8, chunk := h.modeParam f 3 }

/-! ## Page starvation -/

/-- Whether a pool can gain a page (R163, R164): it stands below POOL_LOW, and a page of its cached list can be reclaimed, or, with none, a
page of an unpinned sequence can be evicted to a host pool of its model. -/
def Hw.poolGains (h : Hw) (k : Nat) : Bool :=
  decide (h.poolFree k < h.getAt 0x4001 0xA k) &&
  (((h.pool k).cached.any fun pg => (h.pageInfo (k, pg)).refs == 1 && h.indexed (k, pg)) ||
   (h.feature 7 && h.seqs.any fun e => !e.2.pinned &&
      ((h.poolsOf (h.getAt 0x4101 4 (h.modelOf e.2.com))).any fun p => decide (0 < h.poolFree p)) &&
      e.2.pagesCom.any fun r => r.pool == k && (h.pageInfo (r.pool, r.page)).refs == 1))

/-- Whether a pool of a model's device mask can gain a page by reclaim or eviction (R167). -/
def Hw.canGain (h : Hw) (m : Nat) : Bool := (h.poolsOf (h.getAt 0x4101 3 m)).any h.poolGains

/-- Pages of a sequence's admission prefix. -/
def Hw.prefixPages (h : Hw) (q : Seq) : Nat := q.cur.prefixLen / h.pageTokens (h.modelOf q.cur)

/-- Rank of a reset candidate: BE before DL before LC. -/
def resetRank : Cls → Nat
  | .be => 0 | .dl => 1 | .lc => 2

/-- The sequence that page starvation resets: unpinned, of the model, with a page beyond its admission prefix; class BE, DL, LC, then
the highest arrival number (R167). -/
def Hw.resetVictim (h : Hw) (f m : Nat) : Option Nat :=
  ((h.seqs.filter fun e => e.2.cur.facet == f && !e.2.pinned && h.modelOf e.2.cur == m &&
      (e.2.cur.state == .prefill || e.2.cur.state == .decode) && decide (h.prefixPages e.2 < e.2.pagesCur.length)).foldl
    (fun (best : Option (Nat × Vertex)) e => match best with
      | none => some (e.1, e.2.cur)
      | some b =>
        if resetRank e.2.cur.cls < resetRank b.2.cls ∨ (e.2.cur.cls = b.2.cls ∧ b.2.arrival < e.2.cur.arrival) then some (e.1, e.2.cur)
        else best) none).map Prod.fst

/-- Resets the KV of one sequence of a model that failed to get pages (R167, R155). -/
def Hw.starve (h : Hw) (f m : Nat) (tableOut : Bool) : Hw :=
  if !tableOut ∧ h.canGain m then h
  else match h.resetVictim f m with
    | none => h
    | some slot =>
      match h.seq? slot with
      | none => h
      | some q =>
        let h1 := (h.resetKv slot (h.prefixPages q) q.cur.prefixLen).inc 0x4032 1
        if h1.mode f = 2 then h1.inc 0x5013 (f + 1) else h1

/-- Reads an experience ring's consumed count again, at most once in a µs (R340). -/
def Hw.rereadRing (h : Hw) (r : Nat) : Hw :=
  if (h.memWaiting fun u => u = .experienceCount r) || (match Map.find? h.expReadNs r with | some t => decide (h.now < t + 1000) | none => false)
  then h
  else Hw.memPost { h with expReadNs := Map.insert h.expReadNs r h.now } false (h.getAt 0x8201 1 r) 1 [] .exper (some (h.getAt 0x8201 3 r)) (.experienceCount r)

/-- The counters of the resources that failed in a composition, one count for the cc in which each did, and the resets of page
starvation (R143, R155, R167, R340). -/
def Scan.shortages (s : Scan) (f : Nat) : Hw :=
  let slots := fun e => (s.failed.filter fun x => x.2 = e).map Prod.fst
  let vs := fun e => (slots e).filterMap fun n => (s.hw.seq? n).map fun q => q.cur
  let models := fun e => distinct ((vs e).map s.hw.modelOf)
  let h1 := if slots .pages ≠ [] then s.hw.incOnce 0x4033 1 else s.hw
  let h2 := if slots .table ≠ [] then h1.incOnce 0x4013 1 else h1
  let h3 := (distinct ((vs .queue).map fun v => v.queue)).foldl (fun a q => a.incOnceAt 0x3021 0xB q) h2
  let h4 := (distinct ((vs .ring).filterMap s.hw.ringFor)).foldl (fun a r => (a.incOnceAt 0x8201 8 r).rereadRing r) h3
  let h5 := (models .pages).foldl (fun a m => a.starve f m false) h4
  (models .table).foldl (fun a m => a.starve f m true) h5

/-! ## Compositions -/

/-- The plan made of places. -/
def Hw.planOf (h : Hw) (n : Nat) (places : List Place) (carry : Bool) : Plan :=
  { step := n, places := places, positions := [], charge := (places.map h.placeCharge).sum, carry := carry, tags := [],
    doneIds := [], frozen := false, argsNext := 0, listsSent := false, bins := [], exits := [] }

/-- Hands a scanned composition to BUILD (Table 8.2). -/
def Scan.finish (s : Scan) (f n : Nat) (carry : Bool) : Hw :=
  let h := s.shortages f
  h.modFacet f fun x => { x with tes := .scan, composeCc := h.cc, composing := some (h.planOf n s.places carry) }

/-- The two passes over the eligibility list; SCAN_LIMIT bounds the entries considered (R179, Table 8.2). -/
def Hw.scanPasses (h : Hw) (f n : Nat) : Scan :=
  let lim0 := h.limits f n true
  let list := h.eligibleList f n
  let prefills := list.any fun s => match h.seq? s with
    | some q => q.cur.work (h.expected f s q.cur) != .decode
    | none => false
  let lim := if prefills then { lim0 with passA := lim0.maxPos - lim0.maxPos * h.modeParam f 4 / 100 } else lim0
  let limit := h.modeParam f 0x10
  let s1 := (list.take limit).foldl (Scan.passA f lim) { hw := h, places := [], failed := [] }
  (list.take (limit - min limit list.length)).foldl (Scan.passB f lim) s1

/-- The proposal a composition used (0x5006); each proposal serves one composition (R181). -/
def Hw.useProposal (h : Hw) (f : Nat) : Hw :=
  let x := h.facet f
  if x.proposal = (0, 0) then h
  else
    let h1 := if h.modeParam f 0xE = 1 ∧ h.mode f ≠ 2 then h.setAt 0x5006 (f + 1) 0 (x.proposal.2 + x.proposal.1 * 2 ^ 32) else h
    h1.modFacet f fun y => { y with proposal := (0, 0) }

/-! ## Pinned batches -/

/-- The handles of a facet's pinned list (R203). -/
def Hw.pinnedList (h : Hw) (f : Nat) : List Nat := leWords 8 (h.domain 0x5030 (f + 1) 0)

/-- A VACATED position of a pinned batch (R204). `home` is the partition plus 64 times the group. -/
def vacantPlace (slot home : Nat) : Place :=
  { slot := slot, part := home % 64, kind := .vacated, first := 0, count := 1, start := 0, tokenNum := 0, endsPrompt := false,
    model := home / 128, vslot := home / 64 % 2, version := 0, reserved := 0, isOpen := false, noKv := false, tree := none }

/-- A listed sequence's place in a plan where nothing else has it (R174, R204): left out if the plan would pass a limit. -/
def Scan.pinPlace (s : Scan) (f : Nat) (lim : Limits) (slot : Nat) (c : Place) : Scan :=
  if s.hw.shapeFits lim (s.places ++ [c]) ∧ positionsOf (s.places ++ [c]) ≤ lim.maxPos then { s with places := s.places ++ [c] }
  else s.leaveOut f slot none

/-- One VACATED position of a pinned batch (R204). -/
def Scan.pinVacant (s : Scan) (f : Nat) (lim : Limits) (slot home : Nat) : Scan :=
  let s1 := s.pinPlace f lim slot (vacantPlace slot home)
  if s1.places.length = s.places.length then s1 else { s1 with hw := s1.hw.bumpAt 0x5032 (f + 1) 0 1 }

/-- What a listed sequence that is ready gets: a chunk that shrinks so that the plan fits (`later` listed sequences keep a position each) or
one DECODE position (R204). -/
def Hw.pinnedPlace (h : Hw) (f : Nat) (lim : Limits) (placed : List Place) (later slot part : Nat) (q : Seq) : Option Place :=
  let x := h.expected f slot q.cur
  let room := lim.maxPos - positionsOf placed - later
  let chunk := fun kind left logits =>
    let c := min (min lim.chunk left) room
    if c = 0 then none else some (h.plainPlace slot part q.cur x kind c (logits && c == left))
  match q.cur.work x with
  | .decode => some (h.plainPlace slot part q.cur x .decode 1 false)
  | .prefill left logits => chunk .prefill left logits
  | .score left => chunk .score left true

/-- The place of one listed sequence (R204): its position or chunk; one VACATED position where it has ended, or will have at the commit that
a cancel waits for, or where its resources fail; none while it is live and not eligible, or where the plan has no room for it. -/
def Scan.pinOne (f : Nat) (lim : Limits) (s : Scan) (e : Nat × Nat × Nat) : Scan :=
  let (i, later, handle) := e
  let h := s.hw
  let live := h.liveSlot handle
  let home := match Map.find? (h.facet f).pinnedParts i with
    | some x => x
    | none =>
      let p := (fewest lim.parts s.places).getD 0
      match live.bind h.seq? with
      | some q => p + 64 * (h.modelOf q.cur * 2 + q.cur.vslot)
      | none => p
  let s0 : Scan := { s with hw := h.modFacet f fun x => { x with pinnedParts := Map.insert x.pinnedParts i home } }
  match live with
  | none => s0.pinVacant f lim (handle % 2 ^ 20) home
  | some slot =>
    let s1 := s0.flipAt f slot lim
    match s1.hw.seq? slot with
    | none => s0.pinVacant f lim slot home
    | some q =>
      if q.cur.state = .ended ∨ q.cancelAsked.isSome then s1.pinVacant f lim slot home
      else if !s1.hw.isEligible f lim.step q then s1
      else match s1.hw.pinnedPlace f lim s1.places later slot (home % 64) q with
        | none => s1.leaveOut f slot none
        | some c =>
          let s2 := s1.pinPlace f lim slot c
          if s2.places.length = s1.places.length then s2
          else match s1.hw.takeFor lim s1.places c with
            | (h2, none) => { s1 with hw := h2, places := s1.places ++ [c] }
            | (_, some why) =>
              let v := s1.pinVacant f lim slot home
              { v with failed := v.failed ++ [(slot, why)], hw := if h.mode f = 2 then v.hw.inc 0x5013 (f + 1) else v.hw }

/-- The composition of a pinned batch (R204). -/
def Hw.scanPinned (h : Hw) (f n : Nat) : Scan :=
  let list := h.pinnedList f
  let k := list.length
  ((List.range k).map fun i => (i, k - 1 - i, list.getD i 0)).foldl (Scan.pinOne f (h.limits f n true)) { hw := h, places := [], failed := [] }

/-- Takes over the staged state of PINNED_ENABLE, which applies from the first composition that begins after a write (R203). -/
def Hw.syncPinned (h : Hw) (f : Nat) : Hw :=
  let want := h.raw 0x5031 (f + 1) == 1 && h.feature 63
  if want = (h.facet f).pinnedOn then h
  else h.modFacet f fun x => { x with pinnedOn := want, pinnedParts := [] }

/-- SCAN for step `n` of a facet: its whole effect, recorded in the open ledger (R176 to R184). A loaded set of marks that is pending
governs the step it composes (R18, R32). -/
def Hw.compose (h : Hw) (f n : Nat) : Hw :=
  let h1 := (h.syncPinned f).modFacet f fun x => { x with setReady := x.setPending, modePlan := h.mode f }
  ((if (h1.facet f).pinnedOn then h1.scanPinned f n else h1.scanPasses f n).finish f n false).useProposal f

/-- The carry plan's place of one sequence of step N's plan (R193). -/
def Scan.carryOne (f : Nat) (lim : Limits) (s : Scan) (old : Place) : Scan :=
  match s.hw.seq? old.slot with
  | none => s
  | some q =>
    if old.kind = .vacated ∨ !s.hw.isEligible f lim.step q then s
    else
      let x := s.hw.expected f old.slot q.cur
      let c := match q.cur.work x with
        | .decode => some (s.hw.plainPlace old.slot old.part q.cur x .decode 1 false)
        | .prefill left logits =>
          let c := min old.count left
          some (s.hw.plainPlace old.slot old.part q.cur x .prefill c (logits && c == left))
        | .score left =>
          let c := min old.count left
          if c = 0 then none else some (s.hw.plainPlace old.slot old.part q.cur x .score c true)
      match c with
      | none => s
      | some c =>
        if !s.hw.within lim lim.maxPos (s.places ++ [c]) then s
        else match s.hw.takeFor lim s.places c with
          | (h, none) => { s with hw := h, places := s.places ++ [c] }
          | (_, some why) => s.leaveOut f old.slot (some why)

/-- Builds the carry plan of step `n` from the plan of the step before (R193, R194), within the facet's limits of R174 and R175; a proposal
waits for a composition (R181). -/
def Hw.composeCarry (h : Hw) (f n : Nat) (before : List Place) : Hw :=
  (before.foldl (Scan.carryOne f (h.limits f n false)) { hw := h, places := [], failed := [] }).finish f n true

end Sys2Proof.Machine
end

