-- ==== Sys2Proof/Machine/Build.lean ====
section
/-! DEFINITION. The Tessellator's BUILD: position numbers, step blocks, argument blocks, KV lists, descriptors and their counters, and
what becomes of a plan's positions that are vacated (R21, R169, R183, R186, R187, R211, R253, R283, R285). -/

namespace Sys2Proof.Machine

open Sys2Proof

/-! ## Writes that descriptors wait on -/

/-- Writes a run of bytes with purpose PAGE. -/
def Hw.writeRun (h : Hw) (addr : Nat) (l : List Byte) (tenant : Option Nat) (use : MemUse) : Hw := h.writeBytes addr l .page tenant use

/-- The tenant that a command's accesses are made for: none where its block has several (R64, R211). -/
def tenantFor (t : Nat) : Option Nat := if t = 0x1FFF then none else some t

/-- Plans whose positions may receive tiles: those dispatched, and one being composed once it has positions. -/
def Hw.livePlans (h : Hw) (f : Nat) : List Plan :=
  (h.facet f).plans ++ match (h.facet f).composing with | some p => [p] | none => []

/-- Changes the plan of step `n` of a facet. -/
def Hw.modPlan (h : Hw) (f n : Nat) (g : Plan → Plan) : Hw :=
  let upd := fun (p : Plan) => if p.step = n then g p else p
  h.modFacet f fun x => { x with plans := x.plans.map upd, composing := x.composing.map upd }

/-! ## Token keys -/

/-- What a descriptor waits on: the token entry of a sequence's positions in a step. -/
def tokenKey (step slot : Nat) : Nat := 2 * (step * 2 ^ 20 + slot)

/-- What a descriptor waits on: the draft token of a DRAFT position. -/
def draftKey (step pos : Nat) : Nat := 2 * (step * 2 ^ 17 + pos) + 1

/-! ## Numbering -/

/-- Whether a sequence's positions in a new plan are vacated: it has ended, it is gone, or it waits to migrate (R21, R147). -/
def Hw.vacates (h : Hw) (c : Place) : Bool :=
  c.kind == .vacated ||
  match h.seq? c.slot with
  | some q => q.cur.state == .ended || q.cur.state == .migrating || q.migrateAsked
  | none => true

/-- Position `i` of a place numbered from `c.first` (R183, R283). -/
def Hw.makePos (h : Hw) (c : Place) (i : Nat) : Pos :=
  let base : Pos := { index := c.first + i, slot := c.slot, part := c.part, kind := c.kind, needs := true, tokenNum := c.tokenNum,
                      node := 0, model := c.model, vslot := c.vslot, version := c.version, status := .awaiting }
  let p : Pos := match c.kind, c.tree with
    | .tree, some t =>
      if i ≤ t.parents.length then { base with node := i, tokenNum := c.tokenNum + nodeDepth t.parents i }
      else
        let n := i - t.parents.length
        { base with kind := .draft, node := n, tokenNum := c.tokenNum + nodeDepth t.parents n - 1, model := t.draftModel,
                    vslot := t.draftSlot, version := t.draftVersion }
    | .prefill, _ =>
      if c.endsPrompt ∧ i + 1 = c.count then base
      else { base with needs := false, tokenNum := c.start + i, status := .planned }
    | .score, _ => { base with tokenNum := c.tokenNum + i }
    | _, _ => base
  if h.vacates c then { p with kind := .vacated, needs := true, status := .vacated } else p

/-- Numbers places by partition, and within one by order of placement (R183). -/
def numberPlaces (parts : List Nat) (l : List Place) : List Place :=
  let ordered := parts.flatMap fun p => l.filter fun c => c.part = p
  (ordered.foldl (fun (acc : List Place × Nat) c =>
    let c' := { c with first := acc.2, tree := c.tree.map fun t =>
      { t with treePos := acc.2, draftPos := acc.2 + t.parents.length + 1 } }
    (acc.1 ++ [c'], acc.2 + c.count)) ([], 0)).1

/-- Every position of numbered places. -/
def Hw.positionsFor (h : Hw) (l : List Place) : List Pos := l.flatMap fun c => (List.range c.count).map (h.makePos c)

/-! ## Bytes of blocks and lists -/

/-- Code of a position kind (Table 8.1). -/
def PosKind.code : PosKind → Nat
  | .decode => 0 | .tree => 1 | .prefill => 2 | .score => 3 | .vacated => 4 | .draft => 5

/-- Address of a page. -/
def Hw.pageAddr (h : Hw) (r : PageRef) : Nat := h.getAt 0x4001 1 r.pool + r.page * h.getAt 0x4001 2 r.pool

/-- Whether a pool is a host pool. -/
def Hw.hostPool (h : Hw) (k : Nat) : Bool := h.getAt 0x4001 4 k == 1

/-- Positions with committed KV before step `n`, as far as the results of the steps before it are in (Table 7.4). -/
def Hw.kvBefore (h : Hw) (f n slot : Nat) (q : Seq) : Nat :=
  ((((h.livePlans f).filter fun p => decide (p.step < n)).flatMap fun p => p.places).filter fun c => c.slot = slot).foldl Expect.after
    { kv := q.cur.kvTokens, gen := q.cur.generated } |>.kv

/-- A sequence's KV list (Table 7.4). -/
def Hw.kvList (h : Hw) (f n : Nat) (c : Place) : List Byte :=
  match h.seq? c.slot with
  | some q =>
    let pages := q.pagesCur.take (h.placePages c)
    leBytes 8 (handleOf c.slot q.cur) ++ leBytes 4 (h.kvBefore f n c.slot q) ++ leBytes 4 pages.length ++
      (pages.map fun r => leBytes 8 (h.pageAddr r + if h.hostPool r.pool then 2 ^ 63 else 0)).flatten
  | none => List.replicate 16 0

/-- A tree record (Table 12.2). -/
def treeRecord (c : Place) (t : Tree) : List Byte :=
  slice (BitVec.ofNat 8 t.parents.length :: t.parents.map (BitVec.ofNat 8 ·)) 0 64 ++ leBytes 4 (t.base.getD 0) ++ leBytes 4 t.treePos ++
    leBytes 4 t.draftPos ++ [BitVec.ofNat 8 c.vslot, BitVec.ofNat 8 t.draftModel, BitVec.ofNat 8 t.shapeId] ++ List.replicate 49 0

/-- A place's list with its tree record, padded to its size in the block. -/
def Hw.listRecord (h : Hw) (f n : Nat) (c : Place) : List Byte :=
  let l := h.kvList f n c
  slice l 0 (align64 (16 + 8 * h.placePages c)) ++ match c.tree with | some t => treeRecord c t | none => []

/-- Whether a position is a DRAFT position of its place's tree, whatever it has become. -/
def Plan.isDraft (p : Plan) (x : Pos) : Bool :=
  match (p.places.find? fun c => c.slot == x.slot).bind fun c => c.tree with
  | some t => decide (t.draftPos ≤ x.index)
  | none => false

/-- The positions of a block in ascending index. -/
def blockPosList (p : Plan) (key : Nat) : List Pos :=
  p.positions.filter fun x => x.part == key % 64 && x.model == blockModel key && x.vslot == blockSlot key &&
    p.isDraft x == blockDraft key

/-- Offsets of the KV lists of a block's places. -/
def Hw.listOffsets (h : Hw) (key : Nat) (cs : List Place) (posCount : Nat) : List Nat :=
  let _ := key
  (cs.foldl (fun (acc : List Nat × Nat) c => (acc.1 ++ [acc.2], acc.2 + h.listBytes c))
    ([], align64 (64 + 16 * posCount + 8 * cs.length))).1

/-- One position entry of a step block (Table 8.5). -/
def Hw.posEntry (h : Hw) (cs : List Place) (x : Pos) : List Byte :=
  let host := match h.seq? x.slot with
    | some q => q.pagesCur.any fun r => h.hostPool r.pool
    | none => false
  leBytes 4 (x.index + x.kind.code * 2 ^ 17 + (if x.needs then 2 ^ 20 else 0) + (if host then 2 ^ 21 else 0)) ++
    leBytes 4 x.tokenNum ++ leBytes 4 ((cs.findIdx? fun c => c.slot == x.slot).getD 0) ++
    leBytes 2 (match x.kind with | .tree | .draft => x.node | _ => 0) ++ [0, 0]

/-- A step block without its KV lists (Table 8.5). -/
def Hw.stepBlock (h : Hw) (f : Nat) (p : Plan) (key : Nat) : List Byte :=
  let cs := h.blockPlaces key p.places
  let xs := blockPosList p key
  leBytes 8 p.step ++ [BitVec.ofNat 8 f, BitVec.ofNat 8 (key % 64), 0, 0] ++ leBytes 4 xs.length ++ leBytes 4 cs.length ++
    leBytes 4 (64 + 16 * xs.length) ++ List.replicate 40 0 ++ (xs.map (h.posEntry cs)).flatten ++
    ((h.listOffsets key cs xs.length).map (leBytes 8)).flatten

/-- Base of the half of a facet's argument region that serves step `n` (R186). -/
def Hw.halfBase (h : Hw) (f n : Nat) : Nat := h.raw 0x5020 (f + 1) + n % 2 * (h.raw 0x5021 (f + 1) / 2)

/-- Addresses of a plan's step blocks, in block order, and the first byte after them. -/
def Hw.blockAddrs (h : Hw) (f : Nat) (p : Plan) : List (Nat × Nat) × Nat :=
  (h.planBlocks p.places).foldl (fun (acc : List (Nat × Nat) × Nat) k => (acc.1 ++ [(k, acc.2)], acc.2 + h.blockBytes k p.places))
    ([], h.halfBase f p.step)

/-- Address of a block of a plan. -/
def Hw.blockAddr (h : Hw) (f : Nat) (p : Plan) (key : Nat) : Nat :=
  (((h.blockAddrs f p).1.find? fun e => e.1 = key).map Prod.snd).getD 0

/-- A command's argument block without bin entries (Table 8.6). -/
def argBlock (step block active bins opClass wave : Nat) : List Byte :=
  leBytes 8 step ++ leBytes 8 block ++ leBytes 8 active ++ leBytes 4 bins ++ [BitVec.ofNat 8 opClass, BitVec.ofNat 8 wave] ++
    List.replicate 34 0

/-! ## Active lists -/

/-- Positions of a block that a command of a node works on: for a draft group, those of its depth (R285). -/
def blockNodePositions (p : Plan) (key node : Nat) : List Nat :=
  ((blockPosList p key).filter fun x => !blockDraft key || (match (p.places.find? fun c => c.slot == x.slot).bind fun c => c.tree with
    | some t => nodeDepth t.parents x.node == node
    | none => true)).map fun x => x.index

/-- The early exits in force for a command: those of EXIT entries before it on its block and node (R192). -/
def Plan.exitsBefore (p : Plan) (key node entry : Nat) : List (Nat × Nat × Nat × List Nat) :=
  p.exits.filter fun e => e.1 == key * 64 + node && decide (e.2.1 < entry)

/-- The compacted active list of a command, none where no position has exited before it or it is the PROJECTION (R192). -/
def Hw.activeOf (h : Hw) (p : Plan) (key node entry : Nat) : Option (List Nat) :=
  let out := (p.exitsBefore key node entry).flatMap fun e => e.2.2.2
  if out = [] ∨ progClass ((h.program (blockModel key)).getD entry 0) = 4 then none
  else some ((blockNodePositions p key node).filter fun i => !(out.contains i))

/-- Address of the active list in force for a command, or 0 (Table 8.6). -/
def Plan.activeAddr (p : Plan) (key node entry : Nat) : Nat :=
  match (p.exitsBefore key node entry).getLast? with
  | some e => e.2.2.1
  | none => 0

/-! ## The command graph -/

/-- One command of a plan before it has a descriptor. -/
structure CmdSpec where
  block : Nat
  entry : Nat
  word  : Nat
  node  : Nat
  wave  : Nat
deriving DecidableEq, Repr

/-- Whether a program entry's commands carry bins (R189); without FEAT_EXPERT_BINS an EXPERT entry runs as one command. -/
def Hw.hasBins (h : Hw) (word : Nat) : Bool := progClass word == 2 && h.feature 5

/-- The commands of one block: its program, once per depth of a draft group, an EXPERT entry as two waves (R187, R285). -/
def Hw.blockSpecs (h : Hw) (key : Nat) (places : List Place) : List CmdSpec :=
  let prog := h.program (blockModel key)
  let nodes := if blockDraft key then (List.range (treesDepth (h.blockPlaces key places))).map (· + 1) else [0]
  nodes.flatMap fun d => (prog.zip (List.range prog.length)).flatMap fun e =>
    (if h.hasBins e.1 then [0, 1] else [0]).map fun w => { block := key, entry := e.2, word := e.1, node := d, wave := w }

/-- Whether command `a` is one that command `b` depends on (R187, R190). -/
def precedes (a b : CmdSpec) : Bool :=
  (a.block / 64 == b.block / 64 && a.node == b.node && a.entry + 1 == b.entry && (a.block == b.block || b.word.testBit 35)) ||
  (a.block == b.block && a.node == b.node && a.entry == b.entry && a.wave == 0 && b.wave == 1)

/-- The identity of a command within its plan. -/
def cmdIdOf (s : CmdSpec) : Nat := (s.block * 8192 + s.entry) * 64 + s.node * 2 + s.wave

/-- Places whose results or token entries a sequence still owes: its keys (R187). -/
def Hw.rootKeys (h : Hw) (f slot : Nat) : List Nat :=
  let fac := h.facet f
  let owes := fun (p : Plan) => p.places.any fun c => c.slot == slot && c.isOpen &&
    (c.kind == .decode || c.kind == .tree || (c.kind == .prefill && c.endsPrompt))
  let queued := fun (p : Plan) => h.smp.tokens.any fun t => t.facet == f && t.key == tokenKey p.step slot
  (fac.plans.filter fun p => owes p || queued p).map fun p => tokenKey p.step slot

/-- Draft-token keys of the nodes of a block's trees at a depth, or at every depth where `d` is 0. -/
def draftKeys (step d : Nat) (cs : List Place) : List Nat :=
  cs.flatMap fun c => match c.tree with
    | some t => ((List.range t.parents.length).filter fun i => d = 0 || nodeDepth t.parents (i + 1) = d).map fun i =>
        draftKey step (t.draftPos + i)
    | none => []

/-- Token entries a block's first operator waits on (R187, R285). -/
def Hw.waitKeys (h : Hw) (f : Nat) (p : Plan) (s : CmdSpec) : List Nat :=
  if s.entry ≠ 0 then []
  else
    let cs := h.blockPlaces s.block p.places
    let roots := cs.flatMap fun c => h.rootKeys f c.slot
    if blockDraft s.block then (if s.node = 1 then roots else draftKeys p.step (s.node - 1) cs)
    else roots ++ draftKeys p.step 0 cs

/-- Rank order of a block's sequences for R211: the highest class, then the highest level. -/
def Hw.blockHead (h : Hw) (cs : List Place) : Cls × Nat :=
  (cs.filterMap fun c => (h.seq? c.slot).map fun q => q.cur).foldl (fun (b : Cls × Nat) v =>
    if dispatchRank v.cls v.level < dispatchRank b.1 b.2 then (v.cls, v.level) else b) (.be, 0)

/-- The single tenant of a block, or 0x1FFF (R211). -/
def Hw.blockTenant (h : Hw) (cs : List Place) : Nat :=
  match distinct (cs.filterMap fun c => (h.seq? c.slot).map fun q => q.cur.tenant) with
  | [t] => t
  | _ => 0x1FFF

/-- The kind of a block's commands (R211): DRAFT, SCORE where every position of its step block is one, or COMPUTE. -/
def blockKind (key : Nat) (xs : List Pos) : Nat :=
  if blockDraft key then 1 else if xs ≠ [] ∧ xs.all fun x => x.kind == .score then 2 else 0

/-- The descriptor of a command (Table 9.1, R187, R211), with `preds` commands before it. -/
def Hw.specDesc (h : Hw) (f : Nat) (p : Plan) (s : CmdSpec) (preds args : Nat) : Desc :=
  let cs := h.blockPlaces s.block p.places
  let head := h.blockHead cs
  let waits := h.waitKeys f p s
  let first := s.entry = 0 ∧ s.node ≤ 1
  let base := h.blockAddr f p s.block
  let lists := if first then
      ((cs.zip (h.listOffsets s.block cs (blockPosList p s.block).length)).map fun e => chunkCount (base + e.2) (h.listBytes e.1)).sum
    else 0
  let blockWrites := chunkCount base (h.stepBlock f p s.block).length
  { state := .waiting, owner := .plan, facet := f, part := s.block % 64, kind := blockKind s.block (blockPosList p s.block), cls := head.1, level := head.2,
    counter := preds + waits.length + lists + blockWrites + 1, layer := bits s.word 31 16, operator := bits s.word 15 0,
    tenant := h.blockTenant cs, context := 0, model := blockModel s.block, vslot := blockSlot s.block, args := args, argsLen := 1,
    succ := [], step := p.step, delay := none, readyCc := 0, bypass := 0, entry := s.entry, opClass := progClass s.word, wave := s.wave,
    waitTok := waits, node := s.node, urgentJob := false, sentNs := 0, sentNo := 0, expired := false, retireOnRecord := false,
    cmdId := cmdIdOf s, active := none }

/-- Takes the descriptors of a plan in order, argument blocks following the step blocks; EXPERT argument blocks are placed when their
bins are built (R189). -/
def Hw.takeDescs (h : Hw) (f : Nat) (p : Plan) (specs : List CmdSpec) : List Nat × Hw :=
  let start := (h.blockAddrs f p).2
  let r := (specs.zip (List.range specs.length)).foldl (fun (acc : List Nat × Hw) e =>
    let preds := (specs.filter fun a => precedes a e.1).length
    let t := acc.2.takeDesc (h.specDesc f p e.1 preds (start + 64 * e.2))
    (acc.1 ++ [t.1], t.2)) ([], h)
  let tagOf := fun i => r.1.getD i 0
  let n := specs.length
  (r.1, (specs.zip (List.range n)).foldl (fun a e =>
    a.modDesc (tagOf e.2) fun d => { d with succ :=
      ((specs.zip (List.range n)).filter fun b => precedes e.1 b.1).map fun b => tagOf b.2 }) r.2)

/-- Tags of a plan's commands that satisfy a condition. -/
def Hw.tagsWhere (h : Hw) (p : Plan) (c : Desc → Bool) : List Nat :=
  p.tags.filter fun t => match h.desc? t with | some d => c d | none => false

/-- Block key of a plan descriptor. -/
def Desc.block (d : Desc) : Nat := d.cmdId / 64 / 8192

/-- Writes a plan's step blocks and argument blocks (R186). -/
def Hw.writeBlocks (h : Hw) (f : Nat) (p : Plan) : Hw :=
  let addrs := (h.blockAddrs f p).1
  let h1 := addrs.foldl (fun a b =>
    a.writeRun b.2 (h.stepBlock f p b.1) (tenantFor (h.blockTenant (h.blockPlaces b.1 p.places))) (.stepWrite f (h.tagsWhere p fun d => d.block == b.1))) h
  (p.tags.filterMap fun t => (h.desc? t).map fun d => (t, d)).foldl (fun a e =>
    if h.hasBins (e.2.opClass * 2 ^ 32) then a
    else a.writeRun e.2.args (argBlock p.step (h.blockAddr f p e.2.block) 0 0 e.2.opClass 0) (tenantFor e.2.tenant) (.stepWrite f [e.1])) h1

/-- Writes a plan's KV lists, with tree records (R169, R282). -/
def Hw.writeLists (h : Hw) (f : Nat) (p : Plan) : Hw :=
  (h.blockAddrs f p).1.foldl (fun a b =>
    let cs := h.blockPlaces b.1 p.places
    let firsts := h.tagsWhere p fun d => d.block == b.1 && d.entry == 0 && decide (d.node ≤ 1)
    (cs.zip (h.listOffsets b.1 cs (blockPosList p b.1).length)).foldl (fun g e =>
      g.writeRun (b.2 + e.2) (h.listRecord f p.step e.1) (tenantFor (h.blockTenant [e.1])) (.kvList f firsts)) a) h

/-- Reads the bias lists and given tokens of a plan's sequences into the sampler; the PROJECTION commands of their step blocks,
a draft's among them, wait (R253). -/
def Hw.readBiases (h : Hw) (f : Nat) (p : Plan) : Hw :=
  p.places.foldl (fun a c => match h.seq? c.slot with
    | none => a
    | some q =>
      let projections := h.tagsWhere p fun d => d.opClass == 4 && c.blocks.contains d.block
      let s := q.cur.sampling
      let a1 := if s.biasCount > 0 then
          a.readBytes s.biasAddr (8 * s.biasCount) .page (some q.cur.tenant) (.biasRead f c.slot projections) else a
      if c.kind = .score then
        a1.readBytes (s.scoreAddr + 4 * c.tokenNum) (4 * c.count) .page (some q.cur.tenant)
          (.givenRead f c.slot c.tokenNum c.count projections)
      else a1) h

/-! ## Vacated positions -/

/-- The padding entry of a position (R21). -/
def Hw.padEntry (h : Hw) (f step : Nat) (x : Pos) (draft : Bool) : TokenEntry :=
  { facet := f, step := step, position := x.index, token := h.getAt 0x5404 1 x.model % 2 ^ 20, pad := true,
    key := if draft then draftKey step x.index else tokenKey step x.slot }

/-- Padding entries of a sequence's positions in a plan (R21). -/
def Hw.padEntries (h : Hw) (f : Nat) (p : Plan) (slot : Nat) : List TokenEntry :=
  (p.positions.filter fun x => x.slot = slot).map fun x => h.padEntry f p.step x (p.isDraft x)

/-- Whether every tile of a position has been accepted. -/
def Hw.tilesIn (h : Hw) (f step i : Nat) : Bool :=
  h.smp.store.any fun e => e.facet == f && e.step == step && e.position == i && (e.complete || e.pass.isSome)

/-- A vacated position: where tiles are still to come, they are discarded; otherwise nothing more is to happen (R21, R92). One that is
decided stays as it is. -/
def Pos.vacate (x : Pos) (tilesIn : Bool) : Pos :=
  if x.status = .decided ∨ x.status = .released then x
  else { x with kind := .vacated, status := if x.needs && !tilesIn then .vacated else .decided }

/-- Whether a plan holds open positions of a sequence. -/
def Plan.holds (p : Plan) (slot : Nat) : Bool := p.places.any fun c => c.slot == slot && c.isOpen

/-- Whether a position's result is not yet in a committed ledger. -/
def Hw.uncommittedPos (h : Hw) (f : Nat) (p : Plan) (x : Pos) : Bool :=
  (h.facet f).ledger.results.contains (p.step, x.slot) || p.holds x.slot

/-- Whether a position may be released (R92). -/
def Hw.releasable (h : Hw) (f : Nat) (p : Plan) (x : Pos) : Bool :=
  match x.status with
  | .released => true
  | .decided => x.kind == .vacated || !h.uncommittedPos f p x
  | .planned | .complete => !x.needs && x.kind != .vacated && !h.uncommittedPos f p x
  | _ => false

/-- Runs of consecutive position indices, as first index and length. -/
def runsOf : List Nat → List (Nat × Nat)
  | [] => []
  | i :: r => match runsOf r with
    | (j, n) :: t => if j = i + 1 then (i, n + 1) :: t else (i, 1) :: (j, n) :: t
    | [] => [(i, 1)]

/-- Releases the positions of a plan from its first one up to the first that may not be released (R92). -/
def Hw.releasePlan (h : Hw) (f : Nat) (p : Plan) : Hw :=
  let ready := p.positions.takeWhile (h.releasable f p)
  let fresh := (ready.filter fun x => x.status != .released).map fun x => x.index
  if fresh = [] then h
  else
    let h1 := (runsOf fresh).foldl (fun a r => a.emit (.release f (p.step % 65536) r.1 r.2)) h
    let mark := fun (x : Pos) => if fresh.contains x.index then { x with status := .released } else x
    h1.modPlan f p.step fun y => { y with positions := y.positions.map mark }

/-- Releases what may be released of the plan of step `n` (R92). -/
def Hw.releaseStep (h : Hw) (f n : Nat) : Hw :=
  match (h.livePlans f).find? fun p => p.step == n with
  | some p => h.releasePlan f p
  | none => h

/-- Vacates what is undecided of a sequence's positions in one plan: padding entries go out for the positions that `owed` picks, the store
gives the positions up, an open tree leaves SEC, and what has no tiles to come is released (R21, R92, R297, R425). -/
def Hw.vacateIn (h : Hw) (f : Nat) (p : Plan) (slot : Nat) (owed : Pos → Bool) : Hw :=
  let xs := p.positions.filter fun x => x.slot == slot && x.kind != .vacated && x.status != .decided && x.status != .released
  let pads := (xs.filter owed).map fun x => h.padEntry f p.step x (p.isDraft x)
  let mine := fun (e : PosEntry) => e.facet == f && e.step == p.step && e.slot == slot
  let begun := (h.smp.store.filter fun e => mine e && !e.complete && e.pass.isNone).map fun e => (f, p.step, e.position, e.tiles)
  let trees := (p.places.filter fun c => c.slot == slot && c.kind == .tree && c.isOpen).length
  let h1 := h.modPlan f p.step fun y => { y with
    places := y.places.map fun c => if c.slot = slot then { c with isOpen := false } else c,
    positions := y.positions.map fun x => if x.slot = slot then x.vacate (h.tilesIn f p.step x.index) else x }
  let h2 : Hw := { h1 with secUsed := h1.secUsed - trees, smp := { h1.smp with
    tokens := h1.smp.tokens ++ pads, vacant := h1.smp.vacant ++ begun, store := h1.smp.store.filter fun e => !mine e } }
  h2.releaseStep f p.step

/-- Vacates a sequence's positions in every plan composed after step `n` (R21, R297). -/
def Hw.vacateAfter (h : Hw) (f slot n : Nat) : Hw :=
  ((h.livePlans f).filter fun p => decide (n < p.step) && p.holds slot && p.positions != []).foldl (fun a p =>
    let trees := (p.places.filter fun c => c.slot == slot && c.kind == .tree && c.isOpen).length
    (if trees > 0 then a.bump 0x7208 1 trees else a).vacateIn f p slot fun _ => true) h

/-! ## PLANNED -/

/-- Sends the KV lists and bias reads of a plan. -/
def Hw.sendLists (h : Hw) (f : Nat) (p : Plan) : Hw := (h.writeLists f p).readBiases f p

/-- The end of BUILD: positions are numbered, descriptors and blocks written, and the plan reaches PLANNED (R176, R183 to R187). Lists
go out at once where no `M_PREFETCH` will follow before the plan is the dispatch graph (`now`). -/
def Hw.buildPlan (h : Hw) (f : Nat) (p0 : Plan) (now : Bool) : Hw × Plan :=
  let places := numberPlaces (h.facetParts f) p0.places
  let p1 : Plan := { p0 with places := places, positions := h.positionsFor places }
  let specs := (h.planBlocks places).flatMap fun k => h.blockSpecs k places
  let r := h.takeDescs f p1 specs
  let p2 : Plan := { p1 with tags := r.1, argsNext := (h.blockAddrs f p1).2 + 64 * specs.length, listsSent := now }
  let h1 := r.2.writeBlocks f p2
  let h2 := if now then h1.sendLists f p2 else h1
  let gone := (distinct (places.map fun c => c.slot)).filter fun s =>
    p2.positions.any fun x => x.slot == s && x.kind == .vacated
  let trees := (places.filter fun c => c.kind == .tree && decide (c.slot ∈ gone)).length
  let h3 := if trees > 0 then h2.bump 0x7208 1 trees else h2
  let h4 := { h3 with secUsed := h3.secUsed - trees,
                      smp := { h3.smp with tokens := h3.smp.tokens ++ gone.flatMap fun s => h3.padEntries f p2 s } }
  (h4, { p2 with places := places.map fun c => if c.slot ∈ gone then { c with isOpen := false } else c })

/-- Whether a descriptor of a plan may be released: its plan is the dispatch graph, or it is a DRAFT command after `M_DRAFT` (R176,
R180); and no bias or given-token read that it waits on is outstanding (R253). -/
def Hw.released (h : Hw) (t : Nat) (d : Desc) : Bool :=
  match d.owner with
  | .plan =>
    let x := h.facet d.facet
    ((x.plans.any fun p => p.step == d.step) ||
     (d.kind == 1 && match x.composing with | some p => p.step == d.step && p.frozen | none => false)) &&
    !h.memWaiting fun u => match u with
      | .biasRead _ _ tags => tags.contains t
      | .givenRead _ _ _ _ tags => tags.contains t
      | _ => false
  | _ => true

end Sys2Proof.Machine
end

