-- ==== Sys2Proof/Machine/Learner.lean ====
section
/-! DEFINITION. VFN: the learner attempt, its norms and blocks, its decision, the shadow slot and the federation round
(R337, R341 to R360). -/

namespace Sys2Proof.Machine

open Sys2Proof

/-! ## Learner state -/

/-- Layer table of a model: layer ID and element count per ordinal (R330). -/
def Hw.layers (h : Hw) (m : Nat) : List (Nat × Nat) := (leWords 8 (h.domain 0x8005 1 m)).map fun e => (e % 65536, e / 65536)

/-- Whether a model's gradients are BF16: e and every d_l stay 0 (R342). -/
def Hw.bf16 (h : Hw) (m : Nat) : Bool := h.getAt 0x8006 1 m == 1

/-- The loss scale exponent e (0x8020). -/
def Hw.lossExp (h : Hw) (m : Nat) : Nat := if h.bf16 m then 0 else h.getAt 0x8020 1 m

/-- The layer exponent d_l. -/
def Hw.layerExpOf (h : Hw) (m l : Nat) : Int := if h.bf16 m then 0 else Map.getD (h.learner m).layerExp l 0

/-- The bytes of every d_l, I8 in ordinal order (0x8026). -/
def Hw.layerExpBytes (h : Hw) (m : Nat) : List Byte :=
  (List.range (h.layers m).length).map fun l => BitVec.ofInt 8 (h.layerExpOf m l)

/-- LEARN_RESET (0x802D): e = INIT, d_l = 0, clean-step count 0. -/
def Hw.learnReset (h : Hw) (m : Nat) : Hw :=
  ((h.setAt 0x8020 1 m (h.getAt 0x8021 1 m)).setAt 0x8025 1 m 0).modLearner m fun l => { l with layerExp := [] }

/-- CURRENT_VERSION. -/
def Hw.currentVersion (h : Hw) (m : Nat) : Nat :=
  match h.currentSlot m with
  | some s => h.slotVersion m s
  | none => 0

/-- The slot an attempt writes: the one that is not CURRENT (R341, R342). -/
def Hw.writeSlot (h : Hw) (m : Nat) : Nat :=
  match h.currentSlot m with
  | some s => 1 - s
  | none => 0

/-- Whether a model commits through the federation (R346). -/
def Hw.federated (h : Hw) (m : Nat) : Bool := h.getAt 0x8032 1 m == 1 && h.feature 2

/-! ## Norms -/

/-- Stands in a sum for a partial that is not finite, or negative: the sum has then no stated value. -/
def badSum : Nat := 2 ^ 700

/-- A sum in units of 2^−149 read as binary32; a sum that a bad partial entered has no stated value. -/
def sumF32 (place s : Nat) : BitVec 32 :=
  if s ≥ badSum then BitVec.ofNat 32 (Config.freeNat 343 place) else f32OfInt s (-149)

/-- The sums of a layer. -/
def Job.sum (j : Job) (l : Nat) : Nat × Nat × Nat := Map.getD j.sums l (0, 0, 0)

/-- G² of R344 exactly, in units of 2^−243. -/
def Hw.gradSq (h : Hw) (m : Nat) (j : Job) : Nat :=
  (j.sums.map fun e => e.2.2.1 * 2 ^ (94 - 2 * ((h.lossExp m : Int) + h.layerExpOf m e.1)).toNat).sum

/-- G² rounded once to binary32. -/
def Hw.gradSqF32 (h : Hw) (m : Nat) (j : Job) : BitVec 32 := f32OfInt (h.gradSq m j) (-243)

/-- G of R344; free where a bad partial entered a sum. -/
def Hw.gradNorm (h : Hw) (m : Nat) (j : Job) : BitVec 32 :=
  if j.sums.any fun e => decide (e.2.2.1 ≥ badSum) then BitVec.ofNat 32 (Config.freeNat 344 0)
  else
    let q := h.gradSqF32 m j
    if f32IsInf q then q else f32Sqrt q

/-- The clip factor of R344. -/
def Hw.clipOf (h : Hw) (m : Nat) (j : Job) : BitVec 32 :=
  let c := BitVec.ofNat 32 (h.getAt 0x8028 1 m)
  let g := h.gradNorm m j
  if f32Pos c && !f32Le g c then (if f32IsFinite g then f32Div c g else BitVec.ofNat 32 (Config.freeNat 344 1)) else 0x3F800000

/-- Whether a partial is non-finite: NaN, ±Inf, or negative, −0 excepted (R343). -/
def partialBad (x : BitVec 32) : Bool := !f32IsFinite x || (f32Neg x && f32Mag x != 0)

/-- A partial as a term of a sum. -/
def partialTerm (x : BitVec 32) : Nat := if partialBad x then badSum else f32Mag x

/-- A non-finite value is detected (R348): the clean-step count becomes 0, layer and stamp are latched, S3. -/
def Hw.detectBad (h : Hw) (f : Nat) (u : Bool) (layer : Nat) : Hw :=
  let m := (h.job f u).model
  let h1 := h.modJob f u fun j => { j with bad := some (j.bad.getD (layer, h.now)) }
  (h1.setAt 0x8025 1 m 0).event 9 (348 * 16) 3 (some f) none

/-- Accumulates one norm partial of a job's command (R343). A non-finite value is detected where a partial is one, or a sum becomes one by it
(R348). -/
def Hw.normPartial (h : Hw) (f : Nat) (u : Bool) (layer : Nat) (w g d : BitVec 32) : Hw :=
  let j := h.job f u
  match (h.layers j.model).findIdx? fun e => e.1 == layer with
  | none => h.event 9 (343 * 16) 3 (some f) none
  | some l =>
    let s := j.sum l
    let s' := (s.1 + partialTerm w, s.2.1 + partialTerm g, s.2.2 + partialTerm d)
    let j' := { j with sums := Map.insert j.sums l s' }
    let h1 := h.setJob f u j'
    let inf := fun (n : Nat) => decide (n ≥ badSum) || f32IsInf (f32OfInt n (-149))
    let grows := fun (a b : Nat) => inf b && !inf a
    if partialBad w || partialBad g || partialBad d || grows s.1 s'.1 || grows s.2.1 s'.2.1 || grows s.2.2 s'.2.2 ||
        (f32IsInf (h.gradSqF32 j.model j') && !f32IsInf (h.gradSqF32 j.model j))
    then h1.detectBad f u layer else h1

/-! ## The shadow slot -/

/-- Gives the shadow to the first attempt that waits for it, or starts the retirement it needs (R337, R344). -/
def Hw.serveShadow (h : Hw) (m : Nat) : Hw :=
  let l := h.learner m
  match l.shadowOf, l.request, l.shadowQueue with
  | none, none, (f, u) :: rest =>
    let w := h.writeSlot m
    match h.slotState m w with
    | 0 => ((h.setSlot m w 2).modLearner m fun x => { x with shadowOf := some (f, u), shadowQueue := rest }).modJob f u fun j =>
        { j with holdsShadow := true, acquired := some w }
    | 4 => (h.setSlot m w 5).modLearner m fun x => { x with
        request := some (.attempt f u), requestNs := h.now, stale := false, shadowQueue := rest }
    | _ => h
  | _, _, _ => h

/-- An attempt requests the write slot at its iteration's load (R344). -/
def Hw.requestShadow (h : Hw) (f : Nat) (u : Bool) : Hw :=
  let m := (h.job f u).model
  (h.modLearner m fun l => { l with shadowQueue := l.shadowQueue ++ [(f, u)] }).serveShadow m

/-- Ends an attempt's hold on the shadow, or its wait for it. `st` is the state the slot takes where the attempt holds it. -/
def Hw.endShadow (h : Hw) (f : Nat) (u : Bool) (m st : Nat) : Hw :=
  let l := h.learner m
  let h1 : Hw := match l.shadowOf, (h.job f u).acquired with
    | some x, some w => if x = (f, u) then (h.setSlot m w st).modLearner m fun y => { y with shadowOf := none } else h
    | _, _ => h
  (h1.modLearner m fun y => { y with shadowQueue := y.shadowQueue.filter fun x => x != (f, u) }).modJob f u fun j =>
    { j with holdsShadow := false, acquired := none }

/-- A RETIRING slot passes to whoever requested it once its use count is 0 (R337). -/
def Hw.handover (h : Hw) (m : Nat) : Hw :=
  match (h.learner m).request, [0, 1].find? fun s => h.slotState m s = 5 with
  | some r, some s =>
    if h.slotUse m s ≠ 0 then h
    else
      let h1 := h.modLearner m fun l => { l with request := none, stale := false }
      match r with
      | .load => h1.setSlot m s 1
      | .attempt f u =>
        let j := h.job f u
        if j.state = .running ∧ j.model = m then
          ((h1.setSlot m s 2).modLearner m fun l =>
            { l with shadowOf := some (f, u), shadowQueue := l.shadowQueue.filter fun x => x != (f, u) }).modJob f u fun x =>
            { x with holdsShadow := true, acquired := some s }
        else (h1.setSlot m s 0).serveShadow m
  | _, _ => h

/-! ## Decisions -/

/-- Shifts of a commit on the scale: growth (R349). -/
def Hw.growScale (h : Hw) (m : Nat) : Hw :=
  let c := h.getAt 0x8025 1 m + 1
  if c ≥ h.getAt 0x8024 1 m then
    let h1 := h.setAt 0x8025 1 m 0
    if h.bf16 m then h1 else h1.setAt 0x8020 1 m (min (h.getAt 0x8020 1 m + 1) (max (h.getAt 0x8023 1 m) (h.getAt 0x8020 1 m)))
  else h.setAt 0x8025 1 m c

/-- I8 value of a byte. -/
def int8 (n : Nat) : Int := (BitVec.ofNat 8 n).toInt

/-- Layer exponent after a commit (R350). -/
def steerExp (lo hi : Int) (sumG count : Nat) (d : Int) : Int :=
  let x := ((sumG.log2 : Int) - 149) - (count.log2 : Int)
  let r := x / 2
  if hi < r then max (-16) (d - 1) else if r < lo then min 16 (d + 1) else d

/-- Steers every layer with Σg² > 0 (R350). -/
def Hw.steer (h : Hw) (m : Nat) (j : Job) : Hw :=
  if h.bf16 m then h
  else
    let rng := h.getAt 0x8027 1 m
    let ls := h.layers m
    j.sums.foldl (fun a e =>
      if e.2.2.1 = 0 then a
      else
        let d := steerExp (int8 (rng % 256)) (int8 (rng / 256)) e.2.2.1 (ls.getD e.1 (0, 1)).2 (h.layerExpOf m e.1)
        a.modLearner m fun l => { l with layerExp := Map.insert l.layerExp e.1 d }) h

/-- The data index after a void (R351). -/
def Hw.voidData (h : Hw) (m : Nat) : Hw :=
  let kept := (h.learner m).keptVoids
  if h.getAt 0x802B 1 m = 1 ∧ kept < h.getAt 0x802C 1 m then h.modLearner m fun l => { l with keptVoids := kept + 1 }
  else (h.bumpAt 0x8029 1 m 1).modLearner m fun l => { l with keptVoids := 0 }

/-- LAYER_NORMS of the attempt being decided (0x8033). -/
def Hw.keepNorms (h : Hw) (m : Nat) (j : Job) : Hw :=
  h.setDomain 0x8033 1 m ((List.range (h.layers m).length).flatMap fun l =>
    let s := j.sum l
    leBytes 4 (sumF32 (3 * l) s.1).toNat ++ leBytes 4 (sumF32 (3 * l + 1) s.2.1).toNat ++ leBytes 4 (sumF32 (3 * l + 2) s.2.2).toNat)

/-- The learner state of model `m` after decision `d` of Table 14.4 on the attempt of job (f, u): commit (R347), void (R348, R351) or
abort (R358). The flip walk of a commit is the caller's. -/
def Hw.applyDecision (h : Hw) (f : Nat) (u : Bool) (m d : Nat) : Hw :=
  let j := h.job f u
  let h0 := ((h.keepNorms m j).bumpAt 0x802A 1 m 1).modJob f u fun x => { x with sums := [], bad := none }
  if d = 0 then
    let v := h.currentVersion m + 1
    let w := j.acquired.getD (h.writeSlot m)
    let h1 := match h.currentSlot m with | some s => h0.setSlot m s 4 | none => h0
    let h2 := ((h1.setSlot m w 3).setAt 0x8013 (w + 1) m v).modLearner m fun l =>
      { l with topVersion := max l.topVersion v, keptVoids := 0, shadowOf := none }
    let h3 := ((h2.steer m j).bumpAt 0x8029 1 m 1).growScale m
    (((h3.bumpAt 0x802E 1 m 1).setAt 0x8031 1 m 0).modJob f u fun x => { x with holdsShadow := false, acquired := none })
  else if d = 1 ∨ d = 4 then
    let h1 := (h0.endShadow f u m 0).voidData m
    let e := h.getAt 0x8020 1 m
    let h2 := if h.bf16 m then h1 else h1.setAt 0x8020 1 m (max (min e (h.getAt 0x8022 1 m)) (e - 1))
    let run := h.getAt 0x8031 1 m + 1
    let h3 := (h2.bumpAt 0x802F 1 m 1).setAt 0x8031 1 m (run % 2 ^ 32)
    if run % 16 = 0 then h3.event 9 (351 * 16) 4 (some f) none else h3
  else
    let h1 := h0.endShadow f u m 0
    if h.federated m then h1.bumpAt 0x8030 1 m 1 else h1

/-! ## Attempt blocks and telemetry -/

/-- Address of the attempt block of iteration `k` (R342). -/
def Hw.attemptBlock (h : Hw) (f : Nat) (u : Bool) (k : Nat) : Nat :=
  h.raw 0x8100 (f + 1) + (if u then 16384 else 0) + k % 2 * 8192

/-- Writes the header of the block of iteration `k`, with the layer exponents (Table 14.3); `st` is the machine whose learner state it
shows. -/
def Hw.writeHeader (h st : Hw) (f : Nat) (u : Bool) (k : Nat) (retained : Bool) : Hw :=
  let m := (h.job f u).model
  let t := some (h.job f u).tenant
  let hdr := leBytes 8 k ++ leBytes 8 (st.getAt 0x8029 1 m) ++
    [BitVec.ofNat 8 m, BitVec.ofNat 8 ((st.currentSlot m).getD 0), BitVec.ofNat 8 (st.writeSlot m), if retained then 1 else 0,
     BitVec.ofNat 8 (st.lossExp m), 0, 0, 0] ++ leBytes 4 (st.currentVersion m) ++ leBytes 4 (st.currentVersion m + 1) ++
    List.replicate 32 0
  let a := h.attemptBlock f u k
  let exps := st.layerExpBytes m
  (h.memPost true a 1 hdr .page t (.learnHeader f u)).writeBytes (a + 128) exps .page t (.learnHeader f u)

/-- Number of a model's next telemetry record: those written, and those on their way (Table 14.4). -/
def Hw.telemetryNext (h : Hw) (m : Nat) : Nat :=
  h.getAt 0x8042 1 m + (h.mem.all.filter fun r => match r.use with
    | .telemetry f u => (h.job f u).model == m
    | _ => false).length

/-- Whether a model's telemetry ring has room for one more record. -/
def Hw.telemetryRoom (h : Hw) (m : Nat) : Bool :=
  decide (sub32 (h.telemetryNext m) (h.getAt 0x8043 1 m) < h.getAt 0x8041 1 m)

/-- The telemetry record of decision code `code` (Table 14.4); `st` is the machine after the decision. -/
def Hw.telemetryBytes (h st : Hw) (f : Nat) (u : Bool) (code : Nat) : List Byte :=
  let j := h.job f u
  let m := j.model
  let i := h.telemetryNext m % 2 ^ 32
  let clipped := if h.clipOf m j = 0x3F800000 then 0 else 1
  let flags := clipped + (if j.retained then 2 else 0) + (if h.federated m then 4 else 0) + (i / h.getAt 0x8041 1 m + 1) % 2 * 8
  let sum := fun (g : Nat × Nat × Nat → Nat) => (j.sums.map fun e => g e.2).sum
  let body := leBytes 8 j.iteration ++ leBytes 8 (h.getAt 0x8029 1 m) ++
    [BitVec.ofNat 8 code, BitVec.ofNat 8 (st.lossExp m), BitVec.ofNat 8 flags, 0] ++
    leBytes 4 (st.currentVersion m) ++ leBytes 4 (match j.bad with | some b => b.1 | none => 0xFFFFFFFF) ++
    leBytes 4 (h.gradNorm m j).toNat ++ leBytes 4 (sumF32 1000001 (sum fun s => s.1)).toNat ++
    leBytes 4 (sumF32 1000002 (sum fun s => s.2.2)).toNat ++ leBytes 8 h.now ++
    leBytes 8 (match j.bad with | some b => b.2 | none => 0) ++ leBytes 4 (st.getAt 0x8025 1 m)
  body ++ leBytes 4 (crc32c body).toNat

/-- Writes a telemetry record where the ring has room. -/
def Hw.writeTelemetry (h st : Hw) (f : Nat) (u : Bool) (code : Nat) : Hw :=
  let m := (h.job f u).model
  let i := h.telemetryNext m % 2 ^ 32
  h.memPost true (h.getAt 0x8040 1 m + i % h.getAt 0x8041 1 m * 64) 1 (h.telemetryBytes st f u code) .ring (some (h.job f u).tenant)
    (.telemetry f u)

/-- Writes the update part of the current attempt's block (R344). -/
def Hw.writeUpdate (h : Hw) (f : Nat) (u : Bool) : Hw :=
  let j := h.job f u
  let m := j.model
  let g := if h.getAt 0x8028 1 m % 2 ^ 31 = 0 then 0 else h.gradNorm m j
  let body := leBytes 4 (h.clipOf m j).toNat ++ [if j.bad.isSome then 1 else 0, 0, 0, 0] ++ leBytes 4 g.toNat
  h.memPost true (h.attemptBlock f u j.iteration + 64) 1 body .page (some j.tenant) (.updatePart f u)

/-- Whether the update part may be written now (R344): the shadow is held, and either no clipping is asked for or every LEARN
record is in. -/
def Hw.updateReady (h : Hw) (f : Nat) (u : Bool) : Bool :=
  let j := h.job f u
  j.state == .running && j.holdsShadow && !j.updateOk && (h.getAt 0x8028 1 j.model % 2 ^ 31 == 0 || j.learnLeft == 0) &&
  !h.memWaiting fun x => x == .updatePart f u

/-- Starts a decision: its telemetry record and the next header go out, once the telemetry ring has room (R346). Until then the
decision is kept with 16 added. -/
def Hw.postDecision (h : Hw) (f : Nat) (u : Bool) (d : Nat) (retained : Bool) : Hw :=
  let j := h.job f u
  let h0 := h.setJob f u { j with decision := some (d + 16), retains := retained }
  if h.telemetryRoom j.model then
    let st := h.applyDecision f u j.model d
    let h1 := (h0.writeTelemetry st f u d).writeHeader st f u (j.iteration + 1) retained
    h1.modJob f u fun x => { x with decision := some d, telemetryOk := false, nextHeaderOk := false }
  else h0

/-! ## Federation messages -/

/-- Units of a ring that a frame takes (R355). -/
def frameUnits (l : List Byte) : Nat := ceilDiv l.length 64

/-- Writes a frame at the produced count: up to the ring's end and then from its start (R355). -/
def Hw.fedWrite (h : Hw) (frame : List Byte) : Hw :=
  let n := h.get 0x8304 1
  let u := h.fed.produced % n
  let padded := slice frame 0 (64 * frameUnits frame)
  let first := padded.take (64 * (n - u))
  let rest := padded.drop (64 * (n - u))
  let base := h.raw 0x8303 1 + 4096
  let put := fun (a : Hw) (addr : Nat) (l : List Byte) => a.writeBytes addr l .fed none .fedFrame
  let h1 := put (put h (base + u * 64) first) base rest
  { h1 with fed := { h1.fed with produced := h1.fed.produced + frameUnits frame } }

/-- A frame or message is discarded: counted, S3 (R355). -/
def Hw.badFrame (h : Hw) : Hw := (h.inc 0x830B 1).event 9 (355 * 16) 3 none none

/-- Whether the out ring has room for a frame, and is not disabled. -/
def Hw.fedRoom (h : Hw) (frame : List Byte) : Bool :=
  !h.fed.outOff && decide (h.fed.produced + frameUnits frame ≤ h.fed.outRead + h.get 0x8304 1)

/-- Sends a frame, or keeps it while the out ring lacks room (R355). -/
def Hw.fedSend (h : Hw) (dest cls : Nat) (payload : List Byte) : Hw :=
  let frame := leBytes 4 payload.length ++ [BitVec.ofNat 8 cls, 0, 0, 0] ++ leBytes 2 (h.raw 0x8300 1) ++ leBytes 2 dest ++
    [0, 0, 0, 0] ++ payload
  if h.fed.waitingOut = [] ∧ h.fedRoom frame then h.fedWrite frame
  else { h with fed := { h.fed with waitingOut := h.fed.waitingOut ++ [frame] } }

/-- Sends the frames that now fit; one pass over those that wait. -/
def Hw.fedDrain (h : Hw) : Hw :=
  h.fed.waitingOut.foldl (fun a fr =>
    if a.fed.waitingOut.head? = some fr ∧ a.fedRoom fr then
      Hw.fedWrite { a with fed := { a.fed with waitingOut := a.fed.waitingOut.drop 1 } } fr
    else a) h

/-- Whether the federation's rings and messages are used (R354); none are pulled in START or FAULT_HOLD. -/
def Hw.fedOn (h : Hw) : Bool := h.feature 2 && h.eng.state != .start && h.eng.state != .faultHold

/-- Whether a frame header can be taken: class, length, and destination (Table 14.6). -/
def Hw.frameOk (h : Hw) (l : List Byte) : Bool :=
  (fieldAt l 4 1 == 1 || fieldAt l 4 1 == 2) && fieldAt l 10 2 == h.raw 0x8300 1

/-- Takes the frames that have been read whole, `fuel` at most: the consumed count moves past each. A frame of reserved length, or one that runs
past the produced count, is discarded with all that follows it, since nothing says where the next frame begins. The message of a frame that can
be taken is a command of its own. -/
def Hw.takeFrames : Nat → Hw → Hw
  | 0, h => h
  | fuel + 1, h =>
    let l := h.fed.inData
    if l.length < 64 then h
    else
      let n := fieldAt l 0 4
      let units := ceilDiv (16 + n) 64
      if n < 64 ∨ 16777200 < n ∨ h.fed.inProduced < h.fed.consumed + units then
        Hw.badFrame { h with fed := { h.fed with consumed := h.fed.inProduced, inData := [] } }
      else if l.length < 64 * units then h
      else
        let h1 : Hw := { h with fed := { h.fed with consumed := h.fed.consumed + units, inData := l.drop (64 * units) } }
        takeFrames fuel (if h.frameOk l then h1 else h1.badFrame)

/-- Reads on in the in ring, up to the produced count and at most to the next 4 KiB boundary; once all is read, the batch is over and the consumed
count is written (R355). -/
def Hw.fedReadOn (h : Hw) (before : Nat) : Hw :=
  let u := h.fed.consumed + h.fed.inData.length / 64
  let n := h.get 0x8306 1
  if u < h.fed.inProduced then
    let k := min (h.fed.inProduced - u) (64 - u % 64)
    h.memPost false (h.raw 0x8305 1 + 4096 + u % n * 64) k [] .fed none .fedUnits
  else
    let h1 : Hw := { h with fed := { h.fed with polling := false, inData := [] } }
    if h.fed.consumed = before then h1 else h1.memPost true (h.raw 0x8305 1 + 8) 1 (leBytes 8 h.fed.consumed) .fed none .fedIn

/-- The in ring's produced count has been read. -/
def Hw.fedHeader (h : Hw) (data : List Byte) : Hw :=
  Hw.fedReadOn { h with fed := { h.fed with inProduced := max h.fed.consumed (fieldAt data 0 8), inData := [] } } h.fed.consumed

/-- Units of the in ring have been read: the frames that are whole now are taken, in order (R355). -/
def Hw.fedUnitsIn (h : Hw) (data : List Byte) : Hw :=
  let l := h.fed.inData ++ data
  (Hw.takeFrames (l.length / 64) { h with fed := { h.fed with inData := l } }).fedReadOn h.fed.consumed

/-- FED_PARENT; none at the root. -/
def Hw.fedParent (h : Hw) : Option Nat := if h.get 0x8301 1 = 0xFFFF then none else some (h.get 0x8301 1)

/-- FED_CHILDREN. -/
def Hw.fedChildren (h : Hw) : List Nat := leWords 2 (h.domain 0x8302 1 0)

/-- A commit message (Table 14.7). -/
def Hw.commitMessage (h : Hw) (kind verdict m attempt proposed digest : Nat) : List Byte :=
  let body := [BitVec.ofNat 8 kind, BitVec.ofNat 8 verdict, 0, 0] ++ leBytes 4 (h.getAt 0x8009 1 m) ++ leBytes 8 attempt ++
    leBytes 4 proposed ++ leBytes 4 digest ++ List.replicate 8 0 ++ leBytes 8 h.now ++ List.replicate 20 0
  body ++ leBytes 4 (crc32c body).toNat

/-- The digest of R357: version, data index, e and every d_l as they would stand after a commit. -/
def Hw.fedDigest (h : Hw) (f : Nat) (u : Bool) (m : Nat) : Nat :=
  let st := h.applyDecision f u m 0
  (crc32c (leBytes 4 (h.currentVersion m + 1) ++ leBytes 8 (h.getAt 0x8029 1 m + 1) ++ [BitVec.ofNat 8 (st.lossExp m)] ++
    st.layerExpBytes m)).toNat

/-- An empty round of the model's attempt: votes may come before the engine's own verdict. -/
def Hw.freshRound (h : Hw) (m : Nat) : Round :=
  { attempt := h.getAt 0x802A 1 m, own := none, job := (16, false), sinceNs := 0, votes := [], sent := false, verdict := 0, proposed := h.currentVersion m + 1, digest := 0 }

/-- Verdict of a stored vote against the engine's own proposal: DIVERGED where version or digest differs (R357). Votes are kept
in the coding of `voteCode`. -/
def voteVerdict (r : Round) (v : Nat) : Nat :=
  if v / 4 % 2 ^ 32 = r.proposed ∧ v / 2 ^ 34 = r.digest then v % 4 else 3

/-- The aggregate verdict, and whether it is final (R357); with `late` every missing child counts as FAILED. -/
def Hw.aggregate (h : Hw) (r : Round) (late : Bool) : Nat × Bool :=
  let missing := h.fedChildren.filter fun c => !(r.votes.any fun v => v.1 == c)
  let base := (r.votes.map fun v => voteVerdict r v.2).foldl max (r.own.getD 0)
  let a := if late && missing != [] then max base 2 else base
  (a, r.own.isSome && (decide (0 < a) || late || missing == []))

/-- The job whose attempt a federated decision is for. -/
def Hw.roundJob (h : Hw) (m : Nat) : Option (Nat × Bool) :=
  ((h.jobs.filter fun e => e.2.model = m && e.2.state == .running && e.2.gateReady).head?).map fun e => (e.1 / 2, e.1 % 2 == 1)

/-- Whether the model's round is open with the engine's own verdict, and the job whose attempt it is for. -/
def Hw.roundJobIs (h : Hw) (m f : Nat) (u : Bool) : Bool :=
  match (h.learner m).round with
  | some r => r.own.isSome && r.job == (f, u)
  | none => false

/-- Whether the model's round is open with the engine's own verdict. -/
def Hw.roundOpen (h : Hw) (m : Nat) : Bool :=
  match (h.learner m).round with
  | some r => r.own.isSome
  | none => false

/-- A verdict with the proposed version and digest it is for. -/
def voteCode (verdict proposed digest : Nat) : Nat := verdict + 4 * proposed + 2 ^ 34 * digest

/-- Closes the model's round: it joins the 16 most recent decisions (R359). -/
def Hw.closeRound (h : Hw) (m attempt verdict : Nat) : Hw :=
  h.modLearner m fun l =>
    let c := match l.round with
      | some r => voteCode verdict r.proposed r.digest
      | none => verdict
    { l with round := none, decided := ((attempt, c) :: l.decided).take 16 }

/-- Applies a federated verdict to the model (R358): through the job's decision where one waits at its GATE, and to the learner state
at once otherwise. The slot of a job that is gone is released in either case. -/
def Hw.fedApply (h : Hw) (m verdict : Nat) : Hw :=
  match (h.learner m).round with
  | none => h
  | some r =>
    match h.roundJob m with
    | some (f, u) =>
      if (h.job f u).decision.isSome then h else h.postDecision f u verdict (decide (verdict ≥ 2))
    | none =>
      let h1 := (h.applyDecision r.job.1 r.job.2 m verdict).closeRound m r.attempt verdict
      let h2 := if verdict = 0 then h1.flipWalk m else h1
      h2.serveShadow m

/-- Sends DECIDE for a round to every child. -/
def Hw.fedForward (h : Hw) (m verdict attempt proposed digest : Nat) : Hw :=
  h.fedChildren.foldl (fun a c => a.fedSend c 2 (a.commitMessage 2 verdict m attempt proposed digest)) h

/-- Takes a round as far as its verdicts allow: a final aggregate goes to the parent as a VOTE, or, at the root, to the children as a
DECIDE that the root applies (R357). -/
def Hw.fedProgress (h : Hw) (m : Nat) (late : Bool) : Hw :=
  match (h.learner m).round with
  | none => h
  | some r =>
    let a := h.aggregate r late
    if !a.2 || r.sent then h
    else
      let h1 := h.modLearner m fun l => { l with round := some { r with sent := true, verdict := a.1, sinceNs := h.now } }
      match h.fedParent with
      | some p => h1.fedSend p 2 (h1.commitMessage 1 a.1 m r.attempt r.proposed r.digest)
      | none => (h1.fedForward m a.1 r.attempt r.proposed r.digest).fedApply m a.1

/-- The engine's own verdict for the round of the model's attempt (R357). -/
def Hw.fedOwn (h : Hw) (f : Nat) (u : Bool) (m verdict : Nat) : Hw :=
  let r := (h.learner m).round.getD (h.freshRound m)
  if r.own.isSome then h
  else
    let r' : Round := { r with own := some verdict, job := (f, u), sinceNs := h.now, proposed := h.currentVersion m + 1, digest := h.fedDigest f u m }
    (h.modLearner m fun l => { l with round := some r' }).fedProgress m false

/-- VFN's decision when the GATE is ready (R346). -/
def Hw.decideGate (h : Hw) (f : Nat) (u : Bool) : Hw :=
  let j := h.job f u
  let m := j.model
  if j.decision.isSome then h
  else if j.bad.isSome then
    let h1 := if h.federated m then h.fedOwn f u m 1 else h
    if (h1.job f u).decision.isSome then h1 else h1.postDecision f u 1 false
  else if h.currentVersion m = 2 ^ 32 - 1 then h.postDecision f u 4 false
  else if h.federated m then h.fedOwn f u m 0
  else h.postDecision f u 0 false

/-- The void of an iteration whose job is torn down (R232, R348): on a federated model the round's verdict is FAILED, or the round's decision is
applied at once where it has been taken (R357, R358); the changes of a void are made at once otherwise. The telemetry record's decision code has no stated value. -/
def Hw.voidTorn (h : Hw) (f : Nat) (u : Bool) : Hw :=
  let j := h.job f u
  let m := j.model
  if j.gateTag.isNone then (h.endShadow f u m 0).serveShadow m
  else if h.federated m then
    match j.decision, (h.learner m).round with
    | some d, some r =>
      let h1 := (h.applyDecision f u m (d % 16)).closeRound m r.attempt (d % 16)
      (if d % 16 = 0 then h1.flipWalk m else h1).serveShadow m
    | _, _ => h.fedOwn f u m 2
  else
    let st := h.applyDecision f u m 1
    let h1 := if h.telemetryRoom m then h.writeTelemetry st f u (Config.freeNat 232 j.iteration % 5) else h
    (h1.applyDecision f u m 1).serveShadow m

end Sys2Proof.Machine
end

