-- ==== Sys2Proof/Machine/Jobs.lean ====
section
/-! DEFINITION. Partitions' drains, context switches, semaphores, facet entry and exit, and the lives of jobs (R221 to R232, R309 to
R324, R410, R411). -/

namespace Sys2Proof.Machine

open Sys2Proof

/-! ## Partition requests -/

/-- Raises `fdp_int_req` for a partition (R222). -/
def Hw.requestInt (h : Hw) (p : Nat) : Hw :=
  let x := h.part p
  if x.state = .opened ∨ x.state = .closed then
    h.setPart p { x with state := .interrupting, intReq := true, acked := false, reqNs := h.now }
  else h

/-- Raises `fdp_pre_req` for a partition; over an interrupt, both are high and pre-empt governs (R81, R222). -/
def Hw.requestPre (h : Hw) (p : Nat) : Hw :=
  let x := h.part p
  if x.state = .opened ∨ x.state = .closed then
    h.setPart p { x with state := .preempting, preReq := true, acked := false, reqNs := h.now }
  else if x.state = .interrupting then h.setPart p { x with state := .preempting, preReq := true, reqNs := h.now }
  else h

/-- Whether a partition's drain can end: the ack has risen and no outstanding record is awaited (R77, R81). -/
def Hw.drainOver (h : Hw) (p : Nat) : Bool :=
  let x := h.part p
  (x.intReq || x.preReq) && x.acked && x.sent == [] && x.ghosts.all fun g => g.2

/-- Opens the closed partitions of a facet that starts to run, with a resident context (Table 9.3, R223). -/
def Hw.openParts (h : Hw) (f ctx : Nat) : Hw :=
  (h.facetParts f).foldl (fun a p => a.modPart p fun x =>
    { x with state := if x.state = .closed then .opened else x.state, resident := ctx }) h

/-- The partitions of a facet keep the context of a slot from here on. -/
def Hw.setHolds (h : Hw) (f s : Nat) : Hw := (h.facetParts f).foldl (fun a p => a.modPart p fun x => { x with holds := s }) h

/-- Closes the open partitions of a facet that stops running (Table 9.3). A partition that keeps no job's context keeps the generation
context (R309). -/
def Hw.closeParts (h : Hw) (f : Nat) : Hw :=
  (h.facetParts f).foldl (fun a p => a.modPart p fun x =>
    { x with state := if x.state = .opened then .closed else x.state, holds := if x.holds = 3 then 0 else x.holds }) h

/-- A released partition's state (Table 9.3). -/
def Hw.openOrClosed (h : Hw) (f : Nat) : PartState := if (h.facet f).state.runs then .opened else .closed

/-! ## Contexts -/

/-- Image size of a context slot, in 4 KiB units (R309). -/
def Hw.slotUnits (h : Hw) (f s : Nat) : Nat := h.raw (0x9102 + s) (f + 1)

/-- Bytes of one slot's part of the context area: L of R309. -/
def Hw.ctxSlotLen (h : Hw) (f : Nat) : Nat := 4096 + 64 * h.raw 0x9101 (f + 1)

/-- Address of a slot's context record. -/
def Hw.ctxRecordAddr (h : Hw) (f s : Nat) : Nat := h.raw 0x9100 (f + 1) + s * h.ctxSlotLen f

/-- Ordinal of a partition within its facet. -/
def Hw.ordinal (h : Hw) (f p : Nat) : Nat := ((h.facetParts f).findIdx? fun x => x == p).getD 0

/-- Key of a resume record held for a facet. -/
def resumeKey (f : Nat) : Nat := 64 + f

/-- Address of a partition's image (R309); a job that resumes restores from its record's base and stride (R324). -/
def Hw.imageAddr (h : Hw) (f s p : Nat) : Nat :=
  let o := h.ordinal f p
  if s = 1 ∧ (h.job f false).resume then
    let r := Map.getD h.ctxRecords (resumeKey f) []
    fieldAt r 8 8 + o * fieldAt r 16 4
  else h.ctxRecordAddr f s + 4096 + o * h.raw 0x9101 (f + 1)

/-- Context ID of a facet's slot. -/
def Hw.slotCtx (h : Hw) (f s : Nat) : Nat := if s = 0 then 0 else (h.job f (s == 2)).context

/-- Whether a slot's image for a partition is valid (R309); a resume record stands for a valid image of each ordinal that it counts (R324). -/
def Hw.imageValid (h : Hw) (f s p : Nat) : Bool :=
  h.images.contains (3 * f + s, p) ||
  (s == 1 && (h.job f false).resume && decide (h.ordinal f p < fieldAt (Map.getD h.ctxRecords (resumeKey f) []) 2 1))

/-- Discards every image of a slot. -/
def Hw.dropImages (h : Hw) (f s : Nat) : Hw := { h with images := h.images.filter fun e => e.1 != 3 * f + s }

/-- The context of a slot ends: its images are invalid, and no partition keeps its state (R309). -/
def Hw.dropContext (h : Hw) (f s : Nat) : Hw :=
  (h.facetParts f).foldl (fun a p => a.modPart p fun x => if x.holds = s then { x with holds := 3 } else x) (h.dropImages f s)

/-- Sends a SAVE or RESTORE request to a partition (R84, R310). -/
def Hw.issueCtx (h : Hw) (f p s : Nat) (save : Bool) (ctx : Nat) : Hw :=
  let h1 := (h.modPart p fun x => { x with ctxBusy := (if save then 1 else 2), ctxNs := h.now, ctxSlot := s, ctxId := ctx }).inc (if save then 0x9106 else 0x9107) (f + 1)
  h1.emit (.context save p ctx (h.imageAddr f s p) (h.slotUnits f s))

/-- Whether descriptor `t` is SUSPENDED on partition `p` for context `ctx` of facet `f`. -/
def suspendedOn (f p ctx : Nat) (d : Desc) : Bool := d.state == .suspended && d.facet == f && d.part == p && d.context == ctx

/-- Tags of descriptors that satisfy a condition, in ascending order. -/
def Hw.descTags (h : Hw) (c : Desc → Bool) : List Nat := (h.descs.filter fun e => c e.2).map Prod.fst

/-- Releases a HELD partition with the incoming context of slot `s` resident; its SUSPENDED descriptors re-enter (R310 step 4, R224). -/
def Hw.releasePart (h : Hw) (f p s ctx : Nat) : Hw :=
  let h1 := h.modPart p fun x => { x with state := h.openOrClosed f, resident := ctx, ctxBusy := 0, holds := s }
  (h1.descTags (suspendedOn f p ctx)).foldl Hw.reenter h1

/-! ## Semaphores -/

/-- Order of waiters (R320). -/
def waiterBefore (a b : Waiter) : Bool :=
  if a.cls.rank ≠ b.cls.rank then decide (a.cls.rank < b.cls.rank)
  else if a.level ≠ b.level then decide (b.level < a.level)
  else if a.cc ≠ b.cc then decide (a.cc < b.cc)
  else decide (a.tag < b.tag)

/-- Grants a free semaphore to its first waiter (R320). -/
def Hw.grantSem (h : Hw) (n : Nat) : Hw :=
  match (h.sem n).holder, sortBy waiterBefore (h.sem n).waiters with
  | none, w :: _ => h.modSem n fun s => { s with holder := some (w.facet, w.urgent, w.context), waiters := s.waiters.erase w }
  | _, _ => h

/-- The table entry of a node: semaphore and op. -/
def Job.semOf (j : Job) (node : Nat) : Option (Nat × Nat) := (j.sems.find? fun e => e.1 == node).map fun e => e.2

/-- Releases a semaphore and grants it to the first waiter in the same cc (R320). -/
def Hw.releaseSem (h : Hw) (n : Nat) : Hw := (h.modSem n fun s => { s with holder := none }).grantSem n

/-- Force-releases every semaphore that a context of a job holds (R322). -/
def Hw.forceSems (h : Hw) (f : Nat) (u : Bool) : Hw :=
  h.sems.foldl (fun a e =>
    match e.2.holder with
    | some (hf, hu, ctx) =>
      if hf = f ∧ hu = u then
        let a1 := (a.inc 0x9224 1).raiseEv { fam := 0xB, code := evCode 0xB (322 * 16), sev := 4, unit := familyUnit 0xB, facet := some f,
                                             part := none, detail := leBytes 2 ctx ++ [BitVec.ofNat 8 e.1] }
        (a1.modSem e.1 fun s => { s with holder := none, donation := none }).grantSem e.1
      else a
    | none => a) h

/-! ## Facet levels and entry -/

/-- The working level a facet's controller is given (R410, R412). -/
def Hw.workLevel (h : Hw) (f : Nat) : Nat := h.get 0xD011 (f + 1)

/-- A facet enters ACTIVE or EXCLUSIVE: its partitions open, and on ACTIVE SCAN starts for the next step (R201, R223). A generation slice
runs from its entry to ACTIVE (R313). -/
def Hw.enterRun (h : Hw) (f : Nat) (st : FacetState) : Hw :=
  let job := h.job f false
  let ctx := if st = .exclusive then (if job.yielded || job.loaded then job.context else 0x10000) else 0
  let h0 := if h.mode f = 3 then h.set 0xD010 (f + 1) (h.workLevel f) else h
  let h1 := (h0.modFacet f fun x => { x with
    state := st, waitingUp := none, phaseNs := h.now, stallLogged := false, stallFaulted := false, noPlacing := false, stopAtCommit := false,
    entryPlan := st == .active, raiseRun := 0, fired := [], stepRuns := false,
    sliceEndNs := if st == .active && x.alternating then some (h.now + 1000000 * h.get 0x9111 (f + 1)) else none }).openParts f ctx
  if st = .active then h1.compose f ((h1.facet f).step + 1) else h1

/-- A facet enters ACTIVE or EXCLUSIVE at once, or from level 0, or while `aon_facet_up` is low, in the cc after that is high (R411). -/
def Hw.startRun (h : Hw) (f : Nat) (st : FacetState) : Hw :=
  if h.raw 0xD010 (f + 1) = 0 ∨ !h.pins.facetUp.testBit f then
    (h.set 0xD010 (f + 1) (if h.raw 0xD010 (f + 1) = 0 then h.workLevel f else h.raw 0xD010 (f + 1))).modFacet f fun x =>
      { x with waitingUp := some st, upSinceNs := h.now }
  else h.enterRun f st

/-- Address of a job's graph, and of its semaphore table and its offload table where it has one (R319, R352). -/
def Hw.graphAddr (h : Hw) (f : Nat) (u : Bool) : Nat := h.raw (if u then 0x9200 else 0x6400) (f + 1)
def Hw.tableAddrs (h : Hw) (f : Nat) (u : Bool) : List Nat :=
  (h.raw (if u then 0x9211 else 0x9210) (f + 1) :: if u then [] else [h.raw 0x8101 (f + 1)]).filter fun a => a != 0

/-- Reads the header of a job's graph and the heads of its tables (purpose RING); what follows them is read once they are in. A table whose
count lies across a 4 KiB boundary is read at its greatest length (R227, R316, R319). -/
def Hw.readGraph (h : Hw) (f : Nat) (u : Bool) : Hw :=
  (h.tableAddrs f u).foldl (fun a t => a.readBytes t (if t % 4096 > 4092 then 8 + 8 * 4096 else 8) .ring none (.graphRead f u))
    (h.memPost false (h.graphAddr f u) 1 [] .ring none (.graphRead f u))

/-- Reads a job's graph again, for its next iteration (R230). -/
def Hw.rereadGraph (h : Hw) (f : Nat) (u : Bool) : Hw :=
  let j := h.job f u
  h.readBytes (h.graphAddr f u) (64 + 32 * j.nodes.length + 4 * j.succs) .ring (some j.tenant) (.graphRead f u)

/-- Whether a job state counts as held: PENDING, LOADING, RUNNING or TEARDOWN. -/
def JobState.held : JobState → Bool
  | .pending | .loading | .running | .teardown => true
  | _ => false

/-- Whether a job is on its facet: LOADING, RUNNING or TEARDOWN. -/
def JobState.live : JobState → Bool
  | .loading | .running | .teardown => true
  | _ => false

/-- Charges a switch's bytes to its tenant; 0x10000 charges none (Table 13.6). -/
def Hw.chargeCtx (h : Hw) (tenant bytes : Nat) : Hw :=
  if tenant = 0x10000 then h else h.chargeNow tenant { Charges.zero with ctxBytes := bytes }

/-- The context record of a slot (Table 13.3). -/
def Hw.contextRecord (h : Hw) (f s : Nat) : List Byte :=
  let u := s == 2
  let j := h.job f u
  let body := leBytes 2 j.context ++ [BitVec.ofNat 8 j.parts.length, BitVec.ofNat 8 s] ++ leBytes 4 (h.slotUnits f s) ++
    leBytes 8 (h.ctxRecordAddr f s + 4096) ++ leBytes 4 (h.raw 0x9101 (f + 1)) ++ leBytes 4 j.iteration ++
    leBytes 8 (h.raw (if u then 0x9200 else 0x6400) (f + 1)) ++ leBytes 2 j.tenant ++
    [BitVec.ofNat 8 (j.cls.code + 16 * j.level), BitVec.ofNat 8 j.model] ++ List.replicate 12 0 ++ leBytes 8 h.now ++ [0, 0, 0, 0]
  body ++ leBytes 4 (crc32c body).toNat

/-- Whether the context of a facet's slot goes on: the generation context does, and a job's until it ends or is torn down (R309, R310). -/
def Hw.ctxGoesOn (h : Hw) (f s : Nat) : Bool :=
  match s with
  | 0 => true
  | 1 => let j := h.job f false; j.state == .running || j.state == .loading || (j.state == .pending && j.yielded)
  | 2 => let j := h.job f true; j.state == .running || j.state == .loading
  | _ => false

/-- Whether a donation to the facet's own job runs (R321). -/
def Hw.donated (h : Hw) (f : Nat) (u : Bool) : Bool :=
  h.sems.any fun e => e.2.donation.isSome && (match e.2.holder with | some (hf, hu, _) => hf == f && hu == u | none => false)

/-- A switch has completed on every partition: the urgent job's return ends the suspension, also where a further urgent job is being read
meanwhile (R317); a yield's switch lets the facet enter ACTIVE for its generation slice (R313). -/
def Hw.switchDone (h : Hw) (f : Nat) (sw : Switch) : Hw :=
  let h1 : Hw := { h with switches := Map.erase h.switches f }
  if sw.inSlot = 1 ∧ sw.outSlot = 2 ∧ !h1.donated f false then
    let h2 := h1.modJob f false fun j => { j with suspended := false }
    if (h2.job f false).gateReady then h2.decideGate f false else h2
  else if sw.inSlot = 0 ∧ (h1.facet f).state = .standby ∧ (h1.job f false).yielded ∧ h1.eng.state = .operational then
    (h1.modFacet f fun x => { x with alternating := true }).startRun f .active
  else if sw.inSlot = 1 then h1.modJob f false fun j => { j with resume := false }
  else h1

/-- A partition leaves a switch. -/
def Hw.partSwitched (h : Hw) (f p : Nat) : Hw :=
  match Map.find? h.switches f with
  | some sw =>
    let sw' := { sw with waiting := sw.waiting.erase p }
    if sw'.waiting = [] then h.switchDone f sw' else { h with switches := Map.insert h.switches f sw' }
  | none => h

/-- Steps 3 and 4 of a switch on one HELD partition: RESTORE where the incoming image is valid, unless the partition keeps that context's
state already; or the release, which ends the switch with the last partition (R310). -/
def Hw.ctxAdvance (h : Hw) (f p : Nat) (sw : Switch) : Hw :=
  if (h.part p).holds ≠ sw.inSlot ∧ sw.restore ∧ h.imageValid f sw.inSlot p ∧ h.slotUnits f sw.inSlot > 0 then
    h.issueCtx f p sw.inSlot false sw.inCtx
  else (h.releasePart f p sw.inSlot sw.inCtx).partSwitched f p

/-- What a switch does on a partition that is HELD with no request outstanding: SAVE of the context whose state it keeps, where that goes
on, is not the incoming one and has an image size, or the next step at once (R310). -/
def Hw.ctxStep (h : Hw) (f p : Nat) (sw : Switch) : Hw :=
  let s := (h.part p).holds
  if s ≠ sw.inSlot ∧ h.ctxGoesOn f s ∧ h.slotUnits f s > 0 then h.issueCtx f p s true (h.slotCtx f s)
  else h.ctxAdvance f p sw

/-- A partition has become HELD: its facet's switch goes on (R310). A partition held for no switch is released to its facet's state. -/
def Hw.ctxHeld (h : Hw) (p : Nat) : Hw :=
  match h.facetOf p with
  | none => h
  | some f =>
    match Map.find? h.switches f with
    | some sw => if p ∈ sw.waiting then h.ctxStep f p sw else h
    | none => h.releasePart f p (h.part p).holds (h.part p).resident

/-- A SAVE of slot `s` is done OK: the image is valid while its context goes on, and the record is written once every partition's image
is (R309, R312). The partition keeps no context from here on. -/
def Hw.saveDone (h : Hw) (f p s : Nat) : Hw :=
  let key := 3 * f + s
  let h0 := h.modPart p fun x => { x with holds := 3 }
  if !h.ctxGoesOn f s then h0
  else
    let h1 : Hw := { h0 with images := if h0.images.contains (key, p) then h0.images else h0.images ++ [(key, p)] }
    if s ≠ 0 ∧ ((h1.facetParts f).all fun q => h1.images.contains (key, q)) then
      let r := h1.contextRecord f s
      ({ h1 with ctxRecords := Map.insert h1.ctxRecords (2 * f + (s - 1)) r } : Hw).memPost true
        (h1.ctxRecordAddr f s) 1 r .ring (some (h1.job f (s == 2)).tenant) .other
    else h1

/-- A RESTORE of slot `s` is done OK: the image is valid no longer, and the partition keeps that context (R309). -/
def Hw.restoreDone (h : Hw) (f p s : Nat) : Hw :=
  ({ h with images := h.images.erase (3 * f + s, p) } : Hw).modPart p fun x => { x with holds := if h.ctxGoesOn f s then s else 3 }

/-- Starts a switch of a facet to a context slot on each of its partitions; one that is HELD goes on at once, or with the done of its
outstanding request (R310). A switch takes the place of one that has not ended. -/
def Hw.startSwitch (h : Hw) (f outSlot inSlot : Nat) (restore : Bool) (tenant : Nat) : Hw :=
  let parts := h.facetParts f
  let sw : Switch := { outSlot := outSlot, inSlot := inSlot, outCtx := h.slotCtx f outSlot, inCtx := h.slotCtx f inSlot,
                       restore := restore, waiting := parts, charge := tenant }
  if parts = [] then h.switchDone f sw
  else
    let h1 := parts.foldl Hw.requestPre { h with switches := Map.insert h.switches f sw }
    (parts.filter fun p => (h.part p).state == .held && (h.part p).ctxBusy == 0).foldl Hw.ctxHeld h1

/-- A facet's job leaves PENDING (or a STANDBY facet takes it): LOADING, the facet EXCLUSIVE, the graph read; a yielded job and one
that resumes come in by a switch from slot 0 (R228, R313, R324). -/
def Hw.startJob (h : Hw) (f : Nat) : Hw :=
  let j := h.job f false
  let back := j.yielded
  let h1 := h.setJob f false { j with state := .loading, loaded := back, graphOk := false, yielded := false, sliceIters := 0,
                                      parts := h.facetParts f, suspended := false }
  let h2 := (h1.modFacet f fun x => { x with alternating := back, sliceEndNs := none }).startRun f .exclusive
  let h3 := h2.readGraph f false
  if back then h3.startSwitch f 0 1 true j.tenant
  else if j.resume then
    h3.memPost false (h.raw 0x910A (f + 1)) 1 [] .ring none (.contextRecord f)
  else h3.setHolds f 1

/-- A facet enters STANDBY: partitions close, and a PENDING job starts in the next cc (Table 1.2, R228); a yielded job starts only at
its slice's end (R313). -/
def Hw.enterStandby (h : Hw) (f : Nat) (sliceEnd : Bool) : Hw :=
  let h1 := (h.modFacet f fun x => { x with
    state := .standby, composing := none, tes := .idle, entryPlan := false, stepRuns := false, fired := [],
    noPlacing := false, stopAtCommit := false, idleSinceNs := some h.now, waitingUp := none, recovering := false, sliceEndNs := none }).closeParts f
  let j := h1.job f false
  if j.state = .pending ∧ (!j.yielded || sliceEnd) then h1.startJob f else h1

/-! ## Ends of jobs -/

/-- Descriptors of a job. -/
def jobDesc (f : Nat) (u : Bool) (d : Desc) : Bool := d.owner == .job && d.facet == f && d.urgentJob == u

/-- Whether a job's context is the one its facet runs, donations apart: the urgent one's while the facet's job is suspended or over. -/
def Hw.onFacet (h : Hw) (f : Nat) (u : Bool) : Bool :=
  let j := h.job f false
  if u then j.suspended || !j.state.live else !j.suspended || !(h.job f true).state.live

/-- Whether every command of a job is complete and, where the job runs its facet, every credit of the facet returned (R22, R317). -/
def Hw.jobClear (h : Hw) (f : Nat) (u : Bool) : Bool :=
  (h.descTags (jobDesc f u)) == [] && (!h.onFacet f u ||
  (h.facetParts f).all fun p => (h.part p).credits == h.get 0x2200 (p + 1) && !(h.part p).intReq && !(h.part p).preReq)

/-- Donations to the facet's own job are over: its context is to run again anyway (R317, R321). -/
def Hw.endDonations (h : Hw) (f : Nat) : Hw :=
  { h with sems := h.sems.map fun e => match e.2.holder with
      | some (hf, false, _) => if hf = f then (e.1, { e.2 with donation := none }) else e
      | _ => e }

/-- Ends a job with a result (Table 9.7). The urgent job's end switches the facet back to its job (R317), or to STANDBY where that
has ended (R323); the facet's job's end sends the facet to STANDBY unless the urgent job runs. The shadow of an attempt whose federated round is
open stays until the round's decision (R358). -/
def Hw.endJob (h : Hw) (f : Nat) (u : Bool) (result : Nat) : Hw :=
  let m := (h.job f u).model
  let h0 := if h.roundJobIs m f u then h else (h.endShadow f u m 0).serveShadow m
  let h1 := h0.modJob f u fun j => { j with state := .ended, result := result, tags := [], gateTag := none, gateReady := false }
  let h2 := (if result = 1 then h1 else h1.forceSems f u).dropContext f (if u then 2 else 1)
  if (h2.facet f).state ≠ .exclusive then
    h2.modFacet f fun x => { x with waitingUp := if x.waitingUp = some .exclusive then none else x.waitingUp }
  else if u then
    let j := h2.job f false
    if j.state = .running ∧ j.suspended then (h2.endDonations f).startSwitch f 2 1 true 0x10000
    else if j.state.live then h2
    else h2.enterStandby f false
  else if (h2.job f true).state.live then h2
  else h2.enterStandby f false

/-- The slot whose context a facet runs when no donation does: the urgent job's from its pre-emption to its end (R316, R321). -/
def Hw.ownerSlot (h : Hw) (f : Nat) : Nat :=
  let x := h.job f true
  if x.state.live && x.graphOk then 2 else if (h.facet f).state = .exclusive then 1 else 0

/-- The tenant that a job command's work is charged to: the waiter's during a donation (R321). -/
def Hw.jobTenant (h : Hw) (f : Nat) (u : Bool) : Nat :=
  match List.find? (fun (e : Nat × Sem) =>
      e.2.donation.isSome && (match e.2.holder with | some (hf, hu, _) => hf == f && hu == u | none => false)) h.sems with
  | some (_, s) =>
    match sortBy waiterBefore s.waiters with
    | w :: _ => (h.job w.facet w.urgent).tenant
    | [] => (h.job f u).tenant
  | none => (h.job f u).tenant

/-- Tears a job down (R232, R323): descriptors not DISPATCHED retire, the open iteration is voided, its image and semaphores go, and
the partitions of its DISPATCHED descriptors are interrupted. During a donation to it the facet switches back to its owner (R322). -/
def Hw.teardown (h : Hw) (f : Nat) (u : Bool) (cause : Nat) : Hw :=
  let j := h.job f u
  if !(j.state == .loading || j.state == .running) then h
  else
    let h1 := (h.descTags fun d => jobDesc f u d && (d.state != .dispatched || d.expired)).foldl Hw.retire h
    let h2 := h1.voidTorn f u
    let h3 := ((h2.modJob f u fun x => { x with state := .teardown, cause := cause, gateTag := none, gateReady := false, decision := none,
                                                headerOk := false, tags := [] }).dropContext f (if u then 2 else 1)).forceSems f u
    let sent := h3.descTags fun d => jobDesc f u d && d.state == .dispatched
    let h4 := sent.foldl (fun a t => a.modDesc t fun d => { d with retireOnRecord := true }) h3
    let h5 := (distinct (sent.filterMap fun t => (h4.desc? t).map fun d => d.part)).foldl Hw.requestInt h4
    if h.donated f u then h5.startSwitch f (if u then 2 else 1) (h5.ownerSlot f) true (h.jobTenant f u) else h5

/-- Finishes a teardown once every partition has acked and every record has been read (R232). -/
def Hw.finishTeardown (h : Hw) (f : Nat) (u : Bool) : Hw :=
  let j := h.job f u
  if j.state = .teardown ∧ h.jobClear f u then h.endJob f u j.cause else h

/-- Whether a RUNNING job yields now (R313). -/
def Hw.yields (h : Hw) (f : Nat) (j : Job) : Bool :=
  h.raw 0x9110 (f + 1) != 0 && decide (h.raw 0x9110 (f + 1) ≤ j.sliceIters) && !j.finished

/-- Ends a RUNNING job whose last iteration is decided, or lets it yield, once R22's conditions hold (R230, R313). -/
def Hw.tryEndJob (h : Hw) (f : Nat) (u : Bool) : Hw :=
  let j := h.job f u
  if j.state ≠ .running ∨ j.gateTag.isSome ∨ !h.jobClear f u ∨ j.suspended then h
  else if j.finished then h.endJob f u 1
  else if !u ∧ h.yields f j ∧ (h.facet f).state = .exclusive then
    let h1 := (h.modJob f false fun x => { x with state := .pending, yielded := true }).inc 0x9112 (f + 1)
    (h1.enterStandby f false).startSwitch f 1 0 true 0x10000
  else h

/-- T_switch of R311 in ns. -/
def Hw.switchNs (h : Hw) (f outSlot inSlot : Nat) : Nat :=
  let parts := h.facetParts f
  let bOut := h.slotUnits f outSlot * 4096
  let bIn := if parts.any fun p => h.imageValid f inSlot p then h.slotUnits f inSlot * 4096 else 0
  ceilDiv (parts.length * (bOut + bIn)) (h.get 0x9105 1)

/-- Tears down the job of a request that breaks R320, as for JOB_ERROR. -/
def Hw.jobOwnError (h : Hw) (f : Nat) (u : Bool) : Hw := h.teardown f u 4

/-- The request of an ACQUIRE node's descriptor in the cc in which it becomes READY (R320). -/
def Hw.semRequest (h : Hw) (t : Nat) : Hw :=
  match h.desc? t with
  | none => h
  | some d =>
    if d.owner ≠ .job then h
    else match (h.job d.facet d.urgentJob).semOf d.node with
      | some (n, 0) =>
        let me := (d.facet, d.urgentJob, d.context)
        if h.sems.any fun e => e.2.holder == some me then h.jobOwnError d.facet d.urgentJob
        else
          let w : Waiter := { facet := d.facet, urgent := d.urgentJob, context := d.context, cls := d.cls, level := d.level, cc := h.cc,
                              tag := t }
          (h.modSem n fun s => { s with waiters := s.waiters ++ [w] }).grantSem n
      | _ => h

/-- The release of a semaphore at its RELEASE node's record; a donation for it ends and the facet switches back (R320, R321). -/
def Hw.semReleased (h : Hw) (n f : Nat) : Hw :=
  let donated := (h.sem n).donation.isSome
  let h1 := (h.modSem n fun s => { s with donation := none }).releaseSem n
  if donated then
    let tenant := match (h1.sem n).holder with
      | some (wf, wu, _) => (h1.job wf wu).tenant
      | none => 0x10000
    h1.startSwitch f 1 (h1.ownerSlot f) true tenant
  else h1

/-! ## Graphs and tables -/

/-- The header of a job graph (Table 9.5). -/
structure GraphHeader where
  nodes : Nat
  succs : Nat
  iters : Nat
  tenant : Nat
  classByte : Nat
  model : Nat
  context : Nat

/-- Reads a header. -/
def graphHeader (l : List Byte) : GraphHeader :=
  { nodes := fieldAt l 0 4, succs := fieldAt l 4 4, iters := fieldAt l 8 4, tenant := fieldAt l 12 2, classByte := fieldAt l 14 1,
    model := fieldAt l 15 1, context := fieldAt l 16 2 }

/-- Whether a header's fields are within their ranges and its reserved bits 0 (R227). -/
def Hw.headerOk (h : Hw) (f : Nat) (l : List Byte) (g : GraphHeader) : Bool :=
  let d := h.get 0x5005 (f + 1)
  decide (1 ≤ g.nodes) && decide (g.nodes ≤ 2 * d) && decide (g.succs ≤ 8 * d) && decide (g.tenant ≤ 8191) &&
  (clsOf (g.classByte % 4)).isSome && bits g.classByte 3 2 == 0 && decide (1 ≤ g.context) && ((slice l 18 46).all fun b => b == 0) &&
  decide (64 + 32 * g.nodes + 4 * g.succs ≤ l.length)

/-- What follows the header of a graph, or the head of a table, is read once that is in (R227). A header whose counts are out of range has
nothing read after it. -/
def Hw.graphLine (h : Hw) (f : Nat) (u : Bool) (addr bytes : Nat) (data : List Byte) : Hw :=
  let j := h.job f u
  if j.state ≠ .loading ∨ j.graphOk then h
  else
    let g := graphHeader data
    let d := h.get 0x5005 (f + 1)
    let base := h.graphAddr f u
    let h1 := if addr = base ∧ bytes = 64 ∧ g.nodes ≤ 2 * d ∧ g.succs ≤ 8 * d then
        h.readBytes (base + 64) (32 * g.nodes + 4 * g.succs) .ring (some g.tenant) (.graphRead f u) else h
    (h.tableAddrs f u).foldl (fun a t =>
      let n := fieldAt data (t - addr) 4
      let have_ := addr + bytes
      if addr = t / 64 * 64 ∧ bytes ≤ 128 ∧ t + 4 ≤ have_ ∧ n ≤ 4096 ∧ have_ < t + 8 + 8 * n then
        a.readBytes have_ (t + 8 + 8 * n - have_) .ring none (.graphRead f u) else a) h1

/-- One node of a graph (Table 9.6). -/
def graphNode (g : GraphHeader) (l : List Byte) (i : Nat) : JobNode :=
  let o := 64 + 32 * i
  let base := 64 + 32 * g.nodes
  let w := fieldAt l (o + 26) 1
  { operator := fieldAt l o 2, layer := fieldAt l (o + 2) 2, kind := fieldAt l (o + 4) 1, part := fieldAt l (o + 5) 1 % 64,
    deps := fieldAt l (o + 6) 2, args := fieldAt l (o + 8) 8, argsLen := fieldAt l (o + 16) 2,
    succ := (List.range (min (fieldAt l (o + 24) 2) g.succs)).map fun k => fieldAt l (base + 4 * (fieldAt l (o + 20) 4 + k)) 4,
    delay := if w.testBit 2 then some (w % 4, fieldAt l (o + 28) 4) else none }

/-- The successor entries of a graph: node indices. -/
def graphSuccs (g : GraphHeader) (l : List Byte) : List Nat := (List.range g.succs).map fun k => fieldAt l (64 + 32 * g.nodes + 4 * k) 4

/-- Whether a node's own fields are in range (R227). -/
def Hw.nodeOk (h : Hw) (f : Nat) (g : GraphHeader) (l : List Byte) (i : Nat) (n : JobNode) : Bool :=
  let o := 64 + 32 * i
  let w := fieldAt l (o + 26) 1
  [0, 3, 4, 5, 8].contains n.kind && fieldAt l (o + 5) 1 / 64 == 0 && fieldAt l (o + 18) 2 == 0 && w / 8 == 0 &&
  fieldAt l (o + 27) 1 == 0 && decide (fieldAt l (o + 20) 4 + fieldAt l (o + 24) 2 ≤ g.succs) &&
  decide (n.part < (h.facetParts f).length) && (n.succ.all fun s => decide (s < g.nodes)) &&
  (n.kind != 8 || n.succ == []) &&
  (!w.testBit 2 || decide (h.raw 0x6300 (w % 4 + 1) < 16) || decide (fieldAt l (o + 30) 2 = 0))

/-- Nodes that can be reached from a set, closed `fuel` times. -/
def reachFrom (ns : List JobNode) : Nat → List Nat → List Nat
  | 0, s => s
  | fuel + 1, s =>
    let more := (s.flatMap fun i => match ns[i]? with | some n => n.succ | none => []).filter fun i => !(s.contains i)
    if more = [] then s else reachFrom ns fuel (s ++ distinct more)

/-- Nodes strictly reachable from a node. -/
def reachable (ns : List JobNode) (i : Nat) : List Nat :=
  reachFrom ns ns.length (match ns[i]? with | some n => distinct n.succ | none => [])

/-- Whether a node offends against a well-formed graph: in its fields, its deps, a second GATE, a cycle through it, or no path from it to
the GATE (R227). -/
def Hw.nodeBad (h : Hw) (f : Nat) (g : GraphHeader) (l : List Byte) (ns : List JobNode) (gate i : Nat) : Bool :=
  match ns[i]? with
  | none => true
  | some n =>
    !h.nodeOk f g l i n || n.deps != (graphSuccs g l).count i || (n.kind == 8 && i != gate) || (reachable ns i).contains i ||
    (i != gate && !(reachable ns i).contains gate)

/-- The first offending node of a graph in ascending index, 0xFFFFFFFF for the header; none for a well-formed graph (R227). A graph without a
GATE or without a node of deps 0, and a successor entry at or above N that no node refers to, offend in the header (log entry 78, DESIGN
CHOICE). -/
def Hw.graphError (h : Hw) (f : Nat) (g : GraphHeader) (l : List Byte) (ns : List JobNode) : Option Nat :=
  if !h.headerOk f l g then some 0xFFFFFFFF
  else match ns.findIdx? fun n => n.kind == 8 with
    | none => some 0xFFFFFFFF
    | some gate => match (List.range ns.length).find? (h.nodeBad f g l ns gate) with
      | some i => some i
      | none =>
        if (ns.all fun n => n.deps != 0) || (graphSuccs g l).any fun s => decide (g.nodes ≤ s) then some 0xFFFFFFFF else none

/-- Entries of a semaphore or offload table of 8-byte entries after an 8-byte header: node, byte 4, byte 5, bytes 6 and 7. -/
def tableEntries (l : List Byte) : List (Nat × Nat × Nat × Nat) :=
  (List.range (fieldAt l 0 4)).map fun j =>
    (fieldAt l (8 + 8 * j) 4, fieldAt l (12 + 8 * j) 1, fieldAt l (13 + 8 * j) 1, fieldAt l (14 + 8 * j) 2)

/-- Whether a table's header is in range: count and length. Reserved bytes act as 0 (R3). -/
def tableHead (l : List Byte) : Bool := decide (fieldAt l 0 4 ≤ 4096) && decide (8 + 8 * fieldAt l 0 4 ≤ l.length)

/-- The node that makes a semaphore table malformed; 0xFFFFFFFF for its header (R319, Table 13.4). -/
def semError (ns : List JobNode) (l : List Byte) : Option Nat :=
  if !tableHead l then some 0xFFFFFFFF
  else
    let es := tableEntries l
    let nodes := es.map Prod.fst
    let bad := fun (e : Nat × Nat × Nat × Nat) =>
      let (n, s, op, _) := e
      let others := fun (o : Nat) => (es.filter fun x => x.2.1 % 64 == s % 64 && x.2.2.1 == o).map Prod.fst
      decide (ns.length ≤ n) || decide (2 ≤ op) || decide (1 < nodes.count n) ||
      (match ns[n]? with | some x => x.kind == 8 | none => true) ||
      (if op = 0 then ((others 1).filter fun r => (reachable ns n).contains r).length != 1
       else ((others 0).filter fun a => (reachable ns a).contains n).length != 1)
    (es.find? bad).map fun e => e.1

/-- The node that makes an offload table malformed (R352). -/
def offloadError (ns : List JobNode) (l : List Byte) : Option Nat :=
  if !tableHead l then some 0xFFFFFFFF
  else
    let es := tableEntries l
    let nodes := es.map Prod.fst
    let bad := fun (e : Nat × Nat × Nat × Nat) =>
      let (n, op, _, trig) := e
      match ns[n]? with
      | none => true
      | some x =>
        let learns := ((ns.zip (List.range ns.length)).filter fun y =>
          y.1.kind == 3 && y.1.part == x.part && !(reachable ns n).contains y.2).length
        x.kind != 0 || decide (2 ≤ op) || decide (1 < nodes.count n) || (if op = 0 then trig != 0 else decide (learns < trig))
    (es.find? bad).map fun e => e.1

/-! ## Loading -/

/-- Ends a job that is not well formed: MALFORMED, with the node in error (R227). Its facet leaves EXCLUSIVE only once every credit is
back (R22): until then the job is in TEARDOWN. -/
def Hw.malformed (h : Hw) (f : Nat) (u : Bool) (node : Nat) : Hw :=
  let h1 := h.modJob f u fun j => { j with errorNode := node }
  if h1.jobClear f u then h1.endJob f u 3 else h1.modJob f u fun j => { j with state := .teardown, cause := 3 }

/-- Header checks beyond R227 of a facet's job: its class against the facet's mask (R299), its tenant's isolation group (R301), its
model (R331). -/
def Hw.jobAllowed (h : Hw) (f : Nat) (g : GraphHeader) : Bool :=
  let mask := h.get 0x9000 (f + 1)
  let iso := h.raw 0x9001 (f + 1)
  mask.testBit (g.classByte % 4) && (iso == 0 || h.getAt 0x3101 3 g.tenant == iso) && h.getAt 0x8001 1 g.model == 1

/-- Header checks of an urgent job (R316, R341). -/
def Hw.urgentAllowed (h : Hw) (f : Nat) (g : GraphHeader) : Bool :=
  let j := h.job f false
  g.classByte % 4 == 2 && (h.getAt 0x3101 2 g.tenant).testBit 2 && g.iters != 0 && g.context != j.context && g.model != j.model &&
  decide (g.nodes + (h.descTags (jobDesc f false)).length ≤ 2 * h.get 0x5005 (f + 1))

/-- Whether a resume record fits the job (R324). -/
def Hw.resumeOk (h : Hw) (f : Nat) (g : GraphHeader) : Bool :=
  let r := Map.getD h.ctxRecords (resumeKey f) []
  fieldAt r 60 4 == (crc32c (slice r 0 60)).toNat && fieldAt r 0 2 == g.context && fieldAt r 24 8 == h.raw 0x6400 (f + 1) &&
  fieldAt r 32 2 == g.tenant && decide (fieldAt r 2 1 ≤ (h.facetParts f).length)

/-- A checked job proceeds: the header of its first attempt block goes out, and the graph is read again for the first iteration; an urgent
job pre-empts, with no restore (R230, R316, R324, R342). -/
def Hw.beginJob (h : Hw) (f : Nat) (u : Bool) : Hw :=
  let j := h.job f u
  let h1 := h.setJob f u { j with graphOk := true, headerOk := false, retained := false }
  let h2 := (h1.writeHeader h1 f u j.iteration false).rereadGraph f u
  if u then
    (((h2.modJob f false fun x => { x with suspended := true }).inc 0x9205 (f + 1)).startSwitch f 1 2 false j.tenant)
  else
    let h3 := (h2.facetParts f).foldl (fun a p => a.modPart p fun x =>
      { x with resident := if x.resident = 0x10000 then j.context else x.resident }) h2
    if j.resume then (h3.set 0x910A (f + 1) 0).startSwitch f 0 1 true j.tenant else h3

/-- A job graph, its semaphore table and its offload table have been read (R227, R316, R319, R324, R352). -/
def Hw.graphLoaded (h : Hw) (f : Nat) (u : Bool) (graph semTable offload : List Byte) : Hw :=
  let j := h.job f u
  if j.state ≠ .loading ∨ j.graphOk then h
  else
    let g := graphHeader graph
    let ns := if h.headerOk f graph g then (List.range g.nodes).map (graphNode g graph) else []
    let hasSem := h.raw (if u then 0x9211 else 0x9210) (f + 1) ≠ 0
    let hasOff := !u ∧ h.raw 0x8101 (f + 1) ≠ 0
    match h.graphError f g graph ns with
    | some n => h.malformed f u n
    | none =>
      if !h.jobAllowed f g ∨ (u ∧ !h.urgentAllowed f g) then h.malformed f u 0xFFFFFFFF
      else match (if hasSem then semError ns semTable else none), (if hasOff then offloadError ns offload else none) with
        | some n, _ => h.malformed f u n
        | none, some n => h.malformed f u n
        | none, none =>
          let resumed := !u && j.resume
          let h1 := h.setJob f u { j with
            nodes := ns, iterations := g.iters, tenant := g.tenant, cls := (clsOf (g.classByte % 4)).getD .be, level := g.classByte / 16,
            model := g.model, context := g.context, loaded := true, succs := g.succs,
            sems := if hasSem then (tableEntries semTable).map fun e => (e.1, e.2.1 % 64, e.2.2.1) else [],
            offload := if hasOff then (tableEntries offload).map fun e => (e.1, e.2.1, e.2.2.2) else [],
            iteration := if resumed then fieldAt (Map.getD h.ctxRecords (resumeKey f) []) 20 4 else j.iteration }
          if resumed ∧ !h.resumeOk f g then h1.malformed f u 0xFFFFFFFE else h1.beginJob f u

/-! ## Iterations -/

/-- The descriptor of a job node (R211, R229, R230, R353). -/
def Hw.nodeDesc (h : Hw) (f : Nat) (u : Bool) (j : Job) (i : Nat) (n : JobNode) : Desc :=
  let off := j.offload.any fun e => e.1 == i
  { state := .waiting, owner := .job, facet := f, part := j.parts.getD n.part 0, kind := n.kind, cls := j.cls,
    level := if off then 0 else j.level, counter := n.deps, layer := n.layer, operator := n.operator, tenant := j.tenant,
    context := j.context, model := j.model, vslot := if n.kind = 4 then h.writeSlot j.model else (h.currentSlot j.model).getD 0,
    args := n.args, argsLen := n.argsLen, succ := [], step := j.iteration,
    delay := if n.deps = 0 then n.delay.map fun x => (x.1, h.delayKey x.1 x.2) else n.delay, readyCc := 0,
    bypass := 0, entry := 0, opClass := 0, wave := 0, waitTok := [], node := i, urgentJob := u, sentNs := 0, sentNo := 0,
    expired := false, retireOnRecord := false, cmdId := i, active := none }

/-- Whether an iteration of a job may load (R230, R209): none is open, iterations are left, the job is neither suspended nor about to
yield, its graph has been read again, its descriptors and arena entries fit the facet's allotments (R207, R226), and no round of its model is open
(log entry 129, DESIGN CHOICE). -/
def Hw.mayLoad (h : Hw) (f : Nat) (u : Bool) : Bool :=
  let j := h.job f u
  j.graphOk && (j.state == .loading || j.state == .running) && j.gateTag.isNone && !j.finished && !j.suspended &&
  (h.facet f).state == .exclusive && (u || !h.yields f j) && !(h.switches.any fun e => e.1 == f && u) &&
  !(h.memWaiting fun x => x == .graphRead f u) && h.iterationFits f j && !h.roundOpen j.model

/-- Loads an iteration: one descriptor per node; the shadow slot is requested (R230, R344). -/
def Hw.loadIteration (h : Hw) (f : Nat) (u : Bool) : Hw :=
  if !h.mayLoad f u then h
  else
    let j := h.job f u
    let r := (j.nodes.zip (List.range j.nodes.length)).foldl (fun (acc : List Nat × Hw) e =>
      let t := acc.2.takeDesc (acc.2.nodeDesc f u j e.2 e.1)
      let t2 : Hw := match e.1.delay with
        | some (l, _) => t.2.modDelay l fun x => { x with reserved := x.reserved + 1 }
        | none => t.2
      (acc.1 ++ [t.1], t2)) ([], h)
    let h1 := (j.nodes.zip r.1).foldl (fun a e => a.modDesc e.2 fun d => { d with succ := e.1.succ.map fun i => r.1.getD i 0 }) r.2
    let gate := (j.nodes.findIdx? fun n => n.kind == 8).bind fun i => r.1[i]?
    let h2 := h1.setJob f u { j with
      state := .running, tags := r.1, gateTag := gate, gateReady := false, decision := none, updateOk := false, learnSent := [],
      sums := [], bad := none, learnLeft := (j.nodes.filter fun n => n.kind == 3).length }
    h2.requestShadow f u

/-- Whether VFN lets a job's descriptor go: the block's header for every command, the update part for OPTIM (R342, R344). -/
def Hw.jobReleased (h : Hw) (d : Desc) : Bool :=
  let j := h.job d.facet d.urgentJob
  d.owner != .job || (j.headerOk && (d.kind != 4 || j.updateOk))

/-- A GATE's counter has reached 0 (R231). -/
def Hw.gateZero (h : Hw) (f : Nat) (u : Bool) : Hw :=
  let j := h.job f u
  match j.gateTag.bind fun t => (h.desc? t).map fun d => (t, d) with
  | some (t, d) =>
    if j.state = .running ∧ d.counter = 0 ∧ d.state = .waiting then
      let h1 := (h.modDesc t fun x => { x with state := .ready, readyCc := h.cc }).modJob f u fun x => { x with gateReady := true }
      if j.suspended then h1 else h1.decideGate f u
    else h
  | none => h

/-- VFN records its decision: once telemetry and next header have OKAY, the decision is applied, the GATE is decided and the job goes
on to its next iteration, for which its graph is read again, or to its end or its yield (R230, R231, R313, R346, R347). -/
def Hw.recordDecision (h : Hw) (f : Nat) (u : Bool) : Hw :=
  let j := h.job f u
  if j.state ≠ .running ∨ !j.gateReady ∨ j.suspended then h
  else match j.decision with
    | none => h.decideGate f u
    | some d =>
      if d ≥ 16 then h.postDecision f u (d - 16) j.retains
      else if !(j.telemetryOk && j.nextHeaderOk) then h
      else
        let m := j.model
        let attempt := h.getAt 0x802A 1 m
        let h1 := h.applyDecision f u m d
        let h2 := if d = 0 then h1.flipWalk m else h1
        let h3 := if (h.learner m).round.isSome then h2.closeRound m attempt (if d = 4 then 1 else d) else h2
        let h4 := match j.gateTag with | some t => h3.doneDesc t | none => h3
        let h5 := h4.modJob f u fun x => { x with
          iteration := x.iteration + 1, sliceIters := x.sliceIters + 1, gateTag := none, gateReady := false, decision := none,
          tags := [], headerOk := true, updateOk := false, retained := j.retains, retains := false,
          gateTimes := (h.now :: x.gateTimes).take 17 }
        let h6 := h5.serveShadow m
        let again := !(h6.job f u).finished && (u || !h6.yields f (h6.job f u))
        (if again then h6.rereadGraph f u else h6).tryEndJob f u

/-- Aborts the open iteration of a job after a fault (R372): the shadow is given up, the learner state kept, ABORT_FAILED written, and
the iteration loads again once the drain ends. A federated model's verdict is FAILED. -/
def Hw.abortIteration (h : Hw) (f : Nat) (u : Bool) : Hw :=
  let j := h.job f u
  if j.state ≠ .running ∨ j.gateTag.isNone then h
  else
    let m := j.model
    let h1 := (h.descTags fun d => jobDesc f u d && (d.state != .dispatched || d.expired)).foldl Hw.retire h
    let sent := h1.descTags fun d => jobDesc f u d && d.state == .dispatched
    let h2 := sent.foldl (fun a t => a.modDesc t fun d => { d with retireOnRecord := true }) h1
    let st := h2.applyDecision f u m 2
    let h3 := if h2.telemetryRoom m then h2.writeTelemetry st f u 2 else h2
    let h4 := if h.federated m then (h3.endShadow f u m 0).fedOwn f u m 2 else h3.applyDecision f u m 2
    let h5 := h4.modJob f u fun x => { x with gateTag := none, gateReady := false, decision := none, tags := [], headerOk := false,
                                              updateOk := false, retained := false }
    ((h5.writeHeader h5 f u j.iteration false).serveShadow m).rereadGraph f u

end Sys2Proof.Machine
end

