-- ==== Sys2Proof/Machine/Sampler.lean ====
section
/-! DEFINITION. The sampler: tiles, transformed logits, the position store, selection, second passes, and what a decided position
records (R85 to R93, R247 to R275, R283 to R289, R339). -/

namespace Sys2Proof.Machine

open Sys2Proof

/-! ## Positions of the running plans -/

/-- Changes one position of a plan. -/
def Hw.modPos (h : Hw) (f n i : Nat) (g : Pos → Pos) : Hw :=
  h.modPlan f n fun p => { p with positions := p.positions.map fun x => if x.index = i then g x else x }

/-- Changes the place of a sequence in a plan. -/
def Hw.modPlace (h : Hw) (f n slot : Nat) (g : Place → Place) : Hw :=
  h.modPlan f n fun p => { p with places := p.places.map fun c => if c.slot = slot then g c else c }

/-- The plan and position that a low step number and a position index name. -/
def Hw.posAt (h : Hw) (f stepLow i : Nat) : Option (Plan × Pos) :=
  (h.livePlans f).findSome? fun p =>
    if p.step % 65536 = stepLow % 65536 then (p.positions.find? fun x => x.index = i).map fun x => (p, x) else none

/-- The place of a position. -/
def Plan.placeOf (p : Plan) (x : Pos) : Option Place := p.places.find? fun c => c.slot == x.slot

/-- Whether a position awaits tiles (R88). -/
def Pos.awaits (x : Pos) : Bool :=
  x.needs && (x.status == .planned || x.status == .awaiting || x.status == .vacated)

/-! ## Decoding -/

/-- A logit code to binary32 (Table 11.4). -/
def decodeLogit (fmt code : Nat) : BitVec 32 :=
  match fmt with
  | 0 => BitVec.ofNat 32 code
  | 1 => BitVec.ofNat 32 (code * 65536)
  | 2 =>
    let s := code / 32768 % 2
    let e := code / 1024 % 32
    let m := code % 1024
    if e = 31 then BitVec.ofNat 32 (s * 2 ^ 31 + 255 * 2 ^ 23 + m * 2 ^ 13)
    else if e = 0 then f32Round (s == 1) m 1 (-24)
    else f32Round (s == 1) (1024 + m) 1 ((e : Int) - 25)
  | 3 =>
    let s := code / 128 % 2
    let e := code / 8 % 16
    let m := code % 8
    if e = 15 ∧ m = 7 then BitVec.ofNat 32 (s * 2 ^ 31 + 0x7FC00000)
    else if e = 0 then f32Round (s == 1) m 1 (-9)
    else f32Round (s == 1) (8 + m) 1 ((e : Int) - 10)
  | _ =>
    let s := code / 128 % 2
    let e := code / 4 % 32
    let m := code % 4
    if e = 31 then BitVec.ofNat 32 (s * 2 ^ 31 + 255 * 2 ^ 23 + m * 2 ^ 21)
    else if e = 0 then f32Round (s == 1) m 1 (-16)
    else f32Round (s == 1) (4 + m) 1 ((e : Int) - 17)

/-- Bytes of one logit of a format. -/
def logitBytes (fmt : Nat) : Nat := if fmt = 0 then 4 else if fmt ≤ 2 then 2 else 1

/-- The tokens and logits of a tile transfer below `V` (R86). -/
def tileLogits (fmt tile beat V : Nat) (data : List Byte) : List (Nat × BitVec 32) :=
  let n := if fmt = 0 then 64 else 128
  ((List.range n).map fun j =>
    (128 * tile + (if fmt = 0 then 64 * beat else 0) + j, decodeLogit fmt (fieldAt data (logitBytes fmt * j) (logitBytes fmt)))).filter fun e =>
      decide (e.1 < V)

/-! ## What a position is reduced with -/

/-- The fixed inputs of a position (R247). -/
structure SampCtx where
  vocab   : Nat
  format  : Nat
  samp    : Sampling
  window  : List Nat
  bias    : List (Nat × BitVec 32)
  mask    : List Byte
  seed    : Word64
  stream  : Word64
  index   : Nat
  races   : Bool
  keep    : Nat
  given   : Option Nat

/-- Last twelve elements of a list. -/
def last12 (l : List Nat) : List Nat := l.drop (l.length - 12)

/-- The tokens of a path of tree nodes. -/
def Tree.pathTokens (t : Tree) (n : Nat) : List Nat :=
  (nodePath t.parents 64 n).filterMap fun k => (t.toks.getD (k - 1) none)

/-- The path of a position: its TREE node's, or that of its DRAFT node's parent (R283). -/
def posPath (c : Place) (x : Pos) : List Nat :=
  match c.tree with
  | some t => if x.kind = .draft then t.pathTokens (nodeParent t.parents x.node) else if x.kind = .tree then t.pathTokens x.node else []
  | none => []

/-- Whether a position needs a candidate slot (R265). -/
def needsCands (s : Sampling) (topn : Nat) : Bool :=
  match s.mode with
  | .greedy => false
  | .sample => s.topK != 0 || s.topP != 0 || topn != 0
  | .score => topn != 0

/-- The inputs of a position of a plan. -/
def Hw.sampCtx (h : Hw) (q : Seq) (c : Place) (x : Pos) : SampCtx :=
  let v := q.cur
  let rank := match c.tree with | some t => if x.kind = .draft then siblingRank t.parents x.node else 0 | none => 0
  { vocab := h.getAt 0x7001 1 x.model, format := h.getAt 0x7002 1 x.model, samp := v.sampling,
    window := if x.kind = .score then [] else last12 (v.penalty ++ posPath c x), bias := q.bias,
    mask := if v.sampling.maskOn then Map.getD h.smp.masks v.sampling.maskSlot [] else [], seed := v.seed, stream := v.stream,
    index := x.tokenNum, races := v.sampling.mode == .sample && x.kind != .score,
    keep := if needsCands v.sampling v.topn then 4096 else max (max 1 v.topn) (if rank > 0 then 8 else 1),
    given := if x.kind = .score then (match q.given[x.tokenNum]? with | some g => some g | none => none) else none }

/-- Whether a mask slot excludes a token (R252). -/
def SampCtx.masked (s : SampCtx) (v : Nat) : Bool :=
  s.samp.maskOn && (((s.mask.getD (v / 8) 0).getLsbD (v % 8)) == s.samp.maskInvert)

/-- Whether a bias of −Inf names a token. -/
def SampCtx.biasOut (s : SampCtx) (v : Nat) : Bool := s.bias.any fun e => e.1 == v && f32IsInf e.2

/-- −Inf. -/
def negInf : BitVec 32 := 0xFF800000

/-- Transformed logit zq of a token whose logit is finite and which is not excluded (R256). -/
def SampCtx.transform (s : SampCtx) (v : Nat) (x0 : BitVec 32) : Int :=
  let b := (s.bias.filter fun e => e.1 == v).foldl (fun a e => f32Clamp (f32Add a e.2)) 0
  let x1 := f32Clamp (f32Add x0 b)
  let c := s.window.count v
  let x2 :=
    if c = 0 then x1
    else
      let y := f32Clamp (if f32Pos x1 then f32Div x1 s.samp.repetition else f32Mul x1 s.samp.repetition)
      let y1 := f32Clamp (f32Sub y (f32Clamp (f32Mul (f32OfNat c) s.samp.frequency)))
      f32Clamp (f32Sub y1 s.samp.presence)
  let tinv := f32Div 0x3F800000 s.samp.temperature
  let z := f32Clamp (f32Mul x2 tinv)
  max (-0x7FFFFFFF) (min 0x7FFFFFFF (f32RneScaled z 16))

/-! ## The position store -/

/-- An empty entry. -/
def PosEntry.fresh (facet step position slot : Nat) : PosEntry :=
  { facet := facet, step := step, position := position, slot := slot, zqmax := 0, acc := List.replicate 65 0,
    accF := List.replicate 65 0, hull := [], overflow := false, cands := [], count := 0, given := none, nonfinite := false, tiles := [],
    complete := false, pass := none, passTiles := [], lowest := none, nucleus := none, nucleusLast := none, best := none,
    done := false }

/-- Whether token `a` ranks above token `b` (R265). -/
def ranksAbove (a b : Int × Nat) : Bool := decide (b.1 < a.1) || (decide (a.1 = b.1) && decide (a.2 < b.2))

/-- Whether hull token `u` dominates `t` (R267). -/
def dominates (u t : Int × Nat × Int) : Bool :=
  ranksAbove (u.1, u.2.1) (t.1, t.2.1) && (decide (t.2.2 < u.2.2) || (decide (u.2.2 = t.2.2) && decide (u.2.1 < t.2.1)))

/-- A hull in rank order with a token taken in (R267). -/
def hullInsert (hull : List (Int × Nat × Int)) (t : Int × Nat × Int) : List (Int × Nat × Int) :=
  if hull.any fun u => dominates u t then hull
  else insertBy (fun a b => ranksAbove (a.1, a.2.1) (b.1, b.2.1)) t (hull.filter fun u => !dominates t u)

/-- Adds to one element of a list. -/
def bumpNat (l : List Nat) (k n : Nat) : List Nat := l.set k (l.getD k 0 + n)

/-- Adds to one element of a list of integers. -/
def bumpInt (l : List Int) (k : Nat) (n : Int) : List Int := l.set k (l.getD k 0 + n)

/-- Reduces one non-excluded token into an entry (R259, R265, R267). -/
def PosEntry.addToken (e : PosEntry) (s : SampCtx) (v : Nat) (zq : Int) : PosEntry :=
  let z := if e.count = 0 then zq else max e.zqmax zq
  let d := if e.count = 0 then 0 else (z / 65536 - e.zqmax / 65536).toNat
  let acc := if d = 0 then e.acc else (List.replicate d 0 ++ e.acc).take 65
  let accF := if d = 0 then e.accF else (List.replicate d 0 ++ e.accF).take 65
  let k := (z / 65536 - zq / 65536).toNat
  let f := (zq % 65536).toNat
  let E := if k ≤ 64 then expFrac f else 0
  let cands := (insertBy ranksAbove (zq, v) e.cands).take s.keep
  let hull := if s.races && !e.overflow then hullInsert e.hull (zq, v, raceValue zq (noiseKey s.seed s.stream s.index v)) else e.hull
  { e with zqmax := z, acc := if k ≤ 64 then bumpNat acc k E else acc, accF := if k ≤ 64 then bumpInt accF k (E * f) else accF,
           cands := cands, hull := if hull.length > 256 then [] else hull, overflow := e.overflow || decide (hull.length > 256),
           count := e.count + 1, given := match e.given with
             | some (g, none) => if g = v then some (g, some zq) else e.given
             | o => o }

/-- Reduces one logit (R256). -/
def PosEntry.reduce (s : SampCtx) (e : PosEntry) (t : Nat × BitVec 32) : PosEntry :=
  if f32IsNaN t.2 || (f32IsInf t.2 && !f32Neg t.2) then { e with nonfinite := true }
  else if t.2 == negInf || s.masked t.1 || s.biasOut t.1 then e
  else e.addToken s t.1 (s.transform t.1 t.2)

/-! ## Results -/

/-- The normaliser S (R260). -/
def PosEntry.norm (e : PosEntry) : Nat := ((e.acc.zip (List.range 65)).map fun x => x.1 * bandTable x.2).sum

/-- B of a completed position. -/
def PosEntry.band (e : PosEntry) : Int := e.zqmax / 65536

/-- Log-probability of a non-excluded token (R263). -/
def PosEntry.logprob (e : PosEntry) (zq : Int) : BitVec 32 :=
  let lp := zq * 65536 - e.band * 2 ^ 32 - lnq e.norm 125
  f32OfInt (min lp 0) (-32)

/-- Entropy in nats (R264). -/
def PosEntry.entropy (e : PosEntry) : BitVec 32 :=
  let N : Int := (((e.acc.zip e.accF).zip (List.range 65)).map fun x =>
    (bandTable x.2 : Int) * (x.1.2 - ((x.2 * x.1.1 * 65536 : Nat) : Int))).sum
  let D := (N * 65536).tdiv e.norm
  f32OfInt (max (lnq e.norm 125 - D) 0) (-32)

/-- Weight of a candidate (R269). -/
def PosEntry.weight (e : PosEntry) (zq : Int) : Nat :=
  let k := (e.band - zq / 65536).toNat
  if k ≤ 64 then expFrac (zq % 65536).toNat * bandTable k else 0

/-- Walks candidates in rank order for the nucleus boundary: the length and last token, if the sum is reached (R269). -/
def nucleusWalk (e : PosEntry) (target : Nat) : List (Int × Nat) → Nat → Nat → Option (Nat × (Int × Nat))
  | [], _, _ => none
  | c :: r, cum, j =>
    let cum' := cum + e.weight c.1
    if target ≤ cum' * 2 ^ 32 then some (j + 1, c) else nucleusWalk e target r cum' (j + 1)

/-- The nucleus of an entry, from the candidates it holds. -/
def PosEntry.nucleusOf (e : PosEntry) (topP : Nat) : Option (Nat × (Int × Nat)) :=
  nucleusWalk e (topP * e.norm) e.cands 0 0

/-- The threshold τ of min-p (R268). -/
def PosEntry.minPBound (e : PosEntry) (minP : Nat) : Int := e.zqmax + lnq minP 32 / 65536

/-- Whether a token lies in the selection set (R268): within top-k, the nucleus, and min-p. -/
def PosEntry.selected (e : PosEntry) (s : Sampling) (t : Int × Nat) : Bool :=
  (s.topK == 0 || (match e.cands[s.topK - 1]? with | some b => t == b || ranksAbove t b | none => true)) &&
  (match e.nucleusLast with | some b => t == b || ranksAbove t b | none => true) &&
  (s.minP == 0 || decide (e.minPBound s.minP ≤ t.1))

/-- Whether a second pass is due before the results stand: the nucleus is short of its sum with ranks left to count and fewer than
three nucleus passes made, or the hull overflowed and no hull pass has been made (R269 to R271). -/
def PosEntry.passDue (e : PosEntry) (s : SampCtx) : Option Pass :=
  let passes := match e.pass with | some (.nucleus n) => n | _ => 0
  if !s.races || e.count = 0 || e.nonfinite then none
  else if s.samp.topP ≠ 0 ∧ e.nucleus.isNone ∧ (e.nucleusOf s.samp.topP).isNone ∧ e.cands.length < e.count ∧ passes < 3 ∧
      e.pass ≠ some .hull then some (.nucleus (passes + 1))
  else if e.overflow ∧ e.best.isNone ∧ e.pass ≠ some .hull then some .hull
  else none

/-- An entry with its nucleus settled from the candidates seen (R269). -/
def PosEntry.settleNucleus (e : PosEntry) (s : SampCtx) : PosEntry :=
  if !s.races || s.samp.topP = 0 || e.nucleus.isSome then e
  else match e.nucleusOf s.samp.topP with
    | some (n, t) => { e with nucleus := some n, nucleusLast := some t }
    | none => { e with nucleus := some e.count, nucleusLast := none }

/-- Whether the nucleus falls short of its sum after every pass, so that it is not cut (R269). -/
def PosEntry.uncut (e : PosEntry) (s : SampCtx) : Bool :=
  s.races && s.samp.topP != 0 && e.nucleus.isNone && (e.nucleusOf s.samp.topP).isNone && decide (e.cands.length < e.count)

/-- One token of a second pass: a nucleus pass collects the next ranks, a hull pass the largest race value of the selection set. -/
def PosEntry.passToken (s : SampCtx) (e : PosEntry) (t : Nat × BitVec 32) : PosEntry :=
  if f32IsNaN t.2 || f32IsInf t.2 || s.masked t.1 || s.biasOut t.1 then e
  else
    let zq := s.transform t.1 t.2
    match e.pass with
    | some (.nucleus n) =>
      if e.cands.contains (zq, t.1) then e else { e with cands := (insertBy ranksAbove (zq, t.1) e.cands).take (4096 * (n + 1)) }
    | some .hull =>
      if e.selected s.samp (zq, t.1) then
        let r := raceValue zq (noiseKey s.seed s.stream s.index t.1)
        match e.best, e.lowest with
        | some (r0, v0), _ => if r0 < r ∨ (r0 = r ∧ t.1 < v0) then { e with best := some (r, t.1), lowest := some (zq, t.1) } else e
        | none, _ => { e with best := some (r, t.1), lowest := some (zq, t.1) }
      else e
    | none => e

/-- The winner of a position that has non-excluded tokens (R268, R270). -/
def PosEntry.winner (e : PosEntry) (s : SampCtx) : Option (Int × Nat) :=
  if s.samp.mode == .greedy then e.cands.head?
  else if e.overflow then e.lowest
  else (((e.hull.filter fun t => e.selected s.samp (t.1, t.2.1)).getLast?).map fun t => (t.1, t.2.1))

/-- The results of Table 11.1: token, log-probability, entropy and top-n pairs. -/
structure Sampled where
  token   : Nat
  logprob : BitVec 32
  entropy : BitVec 32
  top     : List (Nat × BitVec 32)

/-- Top-n pairs (R273). -/
def PosEntry.topPairs (e : PosEntry) (n : Nat) : List (Nat × BitVec 32) := (e.cands.take n).map fun c => (c.2, e.logprob c.1)

/-- Entropy as delivered: only where the entry asks for it (R264). -/
def PosEntry.entropyFor (e : PosEntry) (v : Vertex) : BitVec 32 := if v.flags.testBit 3 then e.entropy else 0

/-- The results of a position that selects a token. -/
def PosEntry.sampled (e : PosEntry) (s : SampCtx) (v : Vertex) : Option Sampled :=
  (e.winner s).map fun w => { token := w.2, logprob := e.logprob w.1, entropy := e.entropyFor v, top := e.topPairs v.topn }

/-- The results of a SCORE position (R272). -/
def PosEntry.scored (e : PosEntry) (v : Vertex) (given : Nat) : Sampled :=
  if e.count = 0 then { token := given, logprob := negInf, entropy := 0, top := [] }
  else { token := given, logprob := (match e.given with | some (_, some zq) => e.logprob zq | _ => negInf),
         entropy := e.entropyFor v, top := e.topPairs v.topn }

/-! ## Recording -/

/-- End reason after an emitted token (R274), or after a scored one (R272). -/
def Hw.endAfter (h : Hw) (v : Vertex) (token : Nat) (scored : Bool) : Option EndReason :=
  if scored then (if v.generated + 1 = v.maxNew then some .length else none)
  else
    let e := h.getAt 0x7003 1 (h.modelOf v)
    if e ≠ 0xFFFFFFFF ∧ token = e then some .endToken
    else if v.stop.contains token then some .stop
    else if v.generated + 1 = v.maxNew then some .length
    else none

/-- The TOPN entries' pairs: two per entry, a missing one as token 0 and −Inf (R140). -/
def topEntries (n : Nat) (top : List (Nat × BitVec 32)) : List ((Nat × BitVec 32) × (Nat × BitVec 32)) :=
  (List.range (ceilDiv n 2)).map fun k => (top.getD (2 * k) (0, negInf), top.getD (2 * k + 1) (0, negInf))

/-- An experience record without phase and lag, as a number (Table 14.2). -/
def expRecord (handle index word lp version model entropy : Nat) : Nat :=
  leNat (leBytes 8 handle ++ leBytes 4 index ++ leBytes 4 word ++ leBytes 4 lp ++ leBytes 4 version ++ leBytes 1 model ++ [0, 0, 0] ++
    leBytes 4 entropy)

/-- Emits or scores one token of a sequence in the open ledger: its delivery entries, the vertex, budget, charge and experience record
(R132, R140, R251, R273, R274, R325, R339). A given token beyond 20 bits keeps its low 20 bits in the entries (log entry 128, DESIGN CHOICE).
`model` and `version` produced it. Answers whether the sequence ended with it. -/
def Hw.emitToken (h : Hw) (f slot : Nat) (r : Sampled) (model version : Nat) (scored walk : Bool) : Hw × Bool :=
  match h.seq? slot with
  | none => (h, false)
  | some q =>
    let v := q.cur
    let i := v.generated
    let ends := h.endAfter v r.token scored
    let lastBits := match ends with | some e => 2 ^ 24 + e.code * 2 ^ 25 | none => 0
    let handle := handleOf slot v
    let tok := r.token % 2 ^ 20
    let tops := topEntries v.topn r.top
    let w0 := (h.queue v.queue).w
    let h1 := h.deliver v.queue (deliveryBytes handle i (tok + if v.topn = 0 then lastBits else 0) r.logprob.toNat version
      r.entropy.toNat (model + v.topn * 256))
    let h2 := (tops.zip (List.range tops.length)).foldl (fun a e =>
      a.deliver v.queue (deliveryBytes handle i (2 ^ 20 + if e.2 + 1 = tops.length then lastBits else 0) e.1.1.1 e.1.1.2.toNat
        e.1.2.1 e.1.2.2.toNat)) h1
    let v' : Vertex := { v with
      generated := i + 1, lastToken := r.token, penalty := if scored then v.penalty else last12 (v.penalty ++ [r.token]),
      state := if ends.isSome then .ended else v.state, endReason := if ends.isSome then ends else v.endReason }
    let h3 := (h2.modSeq slot fun s => { s with
      cur := v', tokensCur := if scored then s.tokensCur else s.tokensCur ++ [r.token],
      lastEntry := if ends.isSome then some ((w0 + tops.length) % 2 ^ 32) else s.lastEntry }).moveBudget f slot 1
    let c := if scored then { Charges.zero with score := 1 } else { Charges.zero with tokens := 1 }
    let h4 := h3.charge f v.tenant c
    let word := tok + (if scored then 2 ^ 20 else 0) + (if walk then 2 ^ 21 else 0) + (if v.fallback then 2 ^ 22 else 0) +
      (match ends with | some e => 2 ^ 23 + e.code * 2 ^ 24 | none => 0)
    let h5 := if h.feature 9 ∧ v.flags.testBit 2 then
        let x := expRecord handle i word r.logprob.toNat version model r.entropy.toNat
        h4.modFacet f fun y => { y with ledger := { y.ledger with emitted := y.ledger.emitted ++ [((h.ringFor v).getD 64, x)] } }
      else h4
    (h5, ends.isSome)

/-- Notes in the ledger that a step's result of a sequence is recorded in it. -/
def Hw.noteResult (h : Hw) (f step slot : Nat) : Hw :=
  h.modFacet f fun x => { x with ledger := { x.ledger with
    results := if x.ledger.results.contains (step, slot) then x.ledger.results else x.ledger.results ++ [(step, slot)] } }

/-- Closes a sequence's place in a plan and notes its result; where the place's KV still counts, `kv` tokens are added. -/
def Hw.closePlace (h : Hw) (f step slot kv : Nat) (c : Place) : Hw :=
  let h1 := (h.modPlace f step slot fun x => { x with isOpen := false }).noteResult f step slot
  if c.noKv then h1
  else h1.modCur slot fun v => { v with kvTokens := v.kvTokens + kv }

/-- The state that the prompt's end brings: a sequence whose prefill is over and that has a token runs DECODE. -/
def Vertex.settled (v : Vertex) : Vertex :=
  if v.state = .prefill ∧ !v.scores ∧ 1 ≤ v.generated ∧ v.prefillEnd v.generated ≤ v.kvTokens then { v with state := .decode } else v

/-- Prompt positions of a chunk that have not been charged before (R132, R325): charges so far are what the reservation has lost
beyond the generated tokens. -/
def Vertex.newPrefill (v : Vertex) (start count : Nat) : Nat :=
  let charged := v.promptLen + v.maxNew - v.reservedTok - v.generated
  let done := max start (v.prefixLen + charged)
  min (start + count) v.promptLen - done

/-- Records a prefill chunk: KV, budget and the prefill charge (R132, R167, R325). -/
def Hw.recordPrefill (h : Hw) (f step : Nat) (c : Place) : Hw :=
  match h.seq? c.slot with
  | none => h
  | some q =>
    let n := q.cur.newPrefill c.start c.count
    let h1 := (h.closePlace f step c.slot c.count c).moveBudget f c.slot n
    let h2 := if n > 0 then h1.charge f q.cur.tenant { Charges.zero with prefill := n } else h1
    h2.modCur c.slot Vertex.settled

/-- Appends a token entry to the return queue (R93). -/
def Hw.returnToken (h : Hw) (e : TokenEntry) : Hw := { h with smp := { h.smp with tokens := h.smp.tokens ++ [e] } }

/-- A position's results are recorded: its entry is free from the next cc on (R249). -/
def Hw.freeEntry (h : Hw) (f step i : Nat) : Hw :=
  let mine := fun (f' step' i' : Nat) => f' == f && step' == step && i' == i
  { h with smp := { h.smp with
      store := h.smp.store.map fun e => if mine e.facet e.step e.position then { e with done := true } else e,
      replays := h.smp.replays.filter fun e => !mine e.facet e.step e.position } }

/-- The store's entry of a position. -/
def Hw.entry? (h : Hw) (f step i : Nat) : Option PosEntry :=
  h.smp.store.find? fun e => e.facet == f && e.step == step && e.position == i && !e.done

/-- Replaces a position's entry. -/
def Hw.setEntry (h : Hw) (e : PosEntry) : Hw :=
  { h with smp := { h.smp with store := h.smp.store.map fun x =>
      if x.facet = e.facet ∧ x.step = e.step ∧ x.position = e.position then e else x } }

/-- Commands that wait on a token entry wait no longer (R187, R212). -/
def Hw.endWaits (h : Hw) (key : Nat) : Hw :=
  (h.descTags fun d => d.owner == .plan && d.waitTok.contains key).foldl (fun a t =>
    (a.modDesc t fun d => { d with waitTok := d.waitTok.erase key }).decrement t) h

/-- A position yields no token: its sequence ends with JOB_ERROR, and what it holds in later plans is vacated (R257, R21). Commands that
wait on its token wait no longer, unless entries of it are still to go out. -/
def Hw.jobErrorSeq (h : Hw) (f step slot : Nat) : Hw :=
  let h1 := (((h.endSeq slot .jobError).modPlace f step slot fun x => { x with isOpen := false }).noteResult f step slot).vacateAfter
    f slot step
  if h1.smp.tokens.any fun t => t.key == tokenKey step slot then h1 else h1.endWaits (tokenKey step slot)

/-- Counts and logs a non-finite or empty position (R257). -/
def Hw.badPosition (h : Hw) (f : Nat) (nonfinite : Bool) : Hw :=
  (h.inc (if nonfinite then 0x7025 else 0x7026) 1).event 6 (257 * 16) 3 (some f) none

/-- What follows an end by an emitted token: later positions are vacated (R21). -/
def Hw.afterEnd (h : Hw) (f slot step : Nat) (ended : Bool) : Hw := if ended then h.vacateAfter f slot step else h

/-- Records a DECODE position or the last position of a prompt (R273). -/
def Hw.recordToken (h : Hw) (f : Nat) (p : Plan) (c : Place) (x : Pos) (r : Sampled) : Hw :=
  let h0 := if c.kind = .prefill then h.recordPrefill f p.step c else h.closePlace f p.step c.slot 1 c
  let e := (h0.inc 0x7021 1).emitToken f c.slot r x.model x.version false false
  let h1 := e.1.modCur c.slot Vertex.settled
  (h1.returnToken { facet := f, step := p.step, position := x.index, token := r.token, pad := false,
                     key := tokenKey p.step c.slot }).afterEnd f c.slot p.step e.2

/-- Records a SCORE position; the place closes with its last one (R272). -/
def Hw.recordScore (h : Hw) (f : Nat) (p : Plan) (c : Place) (x : Pos) (r : Sampled) (empty : Bool) : Hw :=
  let h0 := if empty then h.inc 0x7026 1 else h
  let isLast := x.index + 1 = c.first + c.count
  let h1 := if isLast then h0.closePlace f p.step c.slot c.count c else h0.noteResult f p.step c.slot
  let e := h1.emitToken f c.slot r x.model x.version true false
  e.1.afterEnd f c.slot p.step e.2

/-- The draft token of a DRAFT position, none where its node is void (R284). -/
def PosEntry.draftToken (e : PosEntry) (s : SampCtx) (rank : Nat) : Option Nat :=
  if e.nonfinite || e.count = 0 then none
  else match e.winner s with
    | none => none
    | some w =>
      if rank = 0 then some w.2
      else ((e.cands.filter fun c => c.2 != w.2)[rank - 1]?).map fun c => c.2

/-- A token that stands for a void node (0x5404). -/
def Hw.padToken (h : Hw) (m : Nat) : Nat := h.getAt 0x5404 1 m % 2 ^ 20

/-- Records the draft token of a node: a void node, or one with a void parent, takes the padding token (R284, R285). -/
def Hw.recordDraft (h : Hw) (f : Nat) (p : Plan) (c : Place) (x : Pos) (e : PosEntry) (s : SampCtx) : Hw :=
  match c.tree with
  | none => h
  | some t =>
    let parent := nodeParent t.parents x.node
    let tok := if t.voids.contains parent then none else e.draftToken s (siblingRank t.parents x.node)
    let word := tok.getD (h.padToken x.model)
    let t' : Tree := { t with toks := t.toks.set (x.node - 1) (some word), voids := if tok.isSome then t.voids else t.voids ++ [x.node] }
    let h1 := h.modPlace f p.step c.slot fun y => { y with tree := some t' }
    let h2 := if e.nonfinite ∨ e.count = 0 then h1.inc 0x720B 1 else h1
    let h3 := match h.seq? c.slot with
      | some q => h2.charge f q.cur.tenant { Charges.zero with spec := 1 }
      | none => h2
    h3.returnToken { facet := f, step := p.step, position := x.index, token := word, pad := false, key := draftKey p.step x.index }

/-- Issues a replay request for tiles of a position (R91). -/
def Hw.requestReplay (h : Hw) (f step i first last : Nat) (crc : Bool) : Hw :=
  let r : ReplayReq := { facet := f, step := step, position := i, first := first, last := last, crc := crc, sinceNs := h.now }
  ({ h.inc 0x2303 1 with smp := { h.smp with replays := h.smp.replays ++ [r] } } : Hw).emit (.replay f (step % 65536) i first last)

/-- Tile keys of a whole position: tile × 2 + beat. -/
def tileKeys (V fmt : Nat) : List Nat :=
  (List.range (ceilDiv V 128)).flatMap fun t => if fmt = 0 then [2 * t, 2 * t + 1] else [2 * t]

/-- Starts a second pass of a position (R271). A nucleus that stays uncut counts before the hull pass (R269). -/
def Hw.startPass (h : Hw) (e : PosEntry) (s : SampCtx) (p : Pass) : Hw :=
  let e1 := match p with | .hull => e.settleNucleus s | .nucleus _ => e
  let e2 : PosEntry := { e1 with pass := some p, passTiles := [], complete := false, best := none,
                                 lowest := none }
  let h0 := if p = .hull ∧ e.uncut s then h.inc 0x7024 1 else h
  let h1 := (h0.setEntry e2).inc (match p with | .hull => 0x7022 | .nucleus _ => 0x7023) 1
  h1.requestReplay e.facet e.step e.position 0 (ceilDiv s.vocab 128 - 1) false

/-- The decision of a completed position (R273): a second pass first where one is due, then the record of its kind. A SCORE position
waits for the ones before it. -/
def Hw.decidePosition (h : Hw) (f step i : Nat) : Hw :=
  match h.posAt f step i, h.entry? f step i with
  | some (p, x), some e =>
    match p.placeOf x, h.seq? x.slot with
    | some c, some q =>
      let s := h.sampCtx q c x
      if !e.complete ∨ p.step ≠ step ∨ x.kind = .vacated ∨ x.status = .decided then h
      else match e.passDue s with
        | some pass => h.startPass e s pass
        | none =>
          let e' := e.settleNucleus s
          let h0 := if e.uncut s ∧ !e.nonfinite then h.inc 0x7024 1 else h
          let done := fun (a : Hw) => (a.modPos f step i fun y => { y with status := .decided }).freeEntry f step i
          match x.kind with
          | .tree =>
            let h1 := if (e'.winner s).isSome ∧ !e.nonfinite then h0.inc 0x7021 1 else h0
            if c.isOpen then (h1.setEntry e').modPos f step i fun y => { y with status := .complete } else done h1
          | .draft => done (((if (e'.winner s).isSome ∧ !e.nonfinite then h0.inc 0x7021 1 else h0)).recordDraft f p c x e' s)
          | .score =>
            if x.tokenNum ≠ q.cur.generated then h
            else if e.nonfinite then done ((h0.badPosition f true).jobErrorSeq f step x.slot)
            else done (h0.recordScore f p c x (e'.scored q.cur (e.given.map Prod.fst |>.getD 0)) (e.count == 0))
          | _ =>
            if e.nonfinite ∨ e.count = 0 then done ((h0.badPosition f e.nonfinite).jobErrorSeq f step x.slot)
            else match e'.sampled s q.cur with
              | some r => done (h0.recordToken f p c x r)
              | none => h0
    | _, _ => h
  | _, _ => h

/-! ## The walk -/

/-- How a walk stops (R257, R287). -/
inductive WalkStop where
  | waits | noChild | ends | bad (nonfinite : Bool)
deriving DecidableEq, Repr

/-- What a TREE position has for the walk: nothing yet, no token, or its result. -/
inductive NodeSample where
  | missing | none (nonfinite : Bool) | some (r : Sampled)

/-- The child of a node that matches a token: not void, with that draft token (R287). -/
def Tree.match? (t : Tree) (cur token : Nat) : Option Nat :=
  ((List.range t.parents.length).map (· + 1)).find? fun n =>
    nodeParent t.parents n == cur && !(t.voids.contains n) && t.toks.getD (n - 1) none == some token

/-- The verification walk from a node: the outputs in order (node, result), and how it stops; `fuel` bounds it by the depth (R287). -/
def walkTree (t : Tree) (sample : Nat → NodeSample) (ends : Nat → Nat → Bool) :
    Nat → Nat → Nat → List (Nat × Sampled) → List (Nat × Sampled) × WalkStop
  | 0, _, _, out => (out, .noChild)
  | fuel + 1, cur, i, out =>
    match sample cur with
    | .missing => (out, .waits)
    | .none b => (out, .bad b)
    | .some r =>
      let out' := out ++ [(cur, r)]
      if ends r.token i then (out', .ends)
      else match t.match? cur r.token with
        | some n => walkTree t sample ends fuel n (i + 1) out'
        | none => (out', .noChild)

end Sys2Proof.Machine
end

