-- ==== Sys2Proof/Machine/Recovery.lean ====
section
/-! DEFINITION. Faults and their answers: masking, replay, re-tessellation, HALTED and FAULT_HOLD (R362 to R374). -/

namespace Sys2Proof.Machine

open Sys2Proof

/-! ## Halting -/

/-- Retires the descriptors of a facet's plans: those not DISPATCHED at once, the others as their records are read (R371). -/
def Hw.retirePlans (h : Hw) (f : Nat) : Hw :=
  let mine := fun (d : Desc) => d.owner == .plan && d.facet == f
  let h1 := (h.descTags fun d => mine d && (d.state != .dispatched || d.expired)).foldl Hw.retire h
  (h1.descTags fun d => mine d).foldl (fun a t => a.modDesc t fun d => { d with retireOnRecord := true }) h1

/-- Gives up a facet's plans: reservations of their steps are returned and their trees leave SEC (R143, R370). -/
def Hw.dropPlans (h : Hw) (f : Nat) : Hw :=
  let plans := (h.facet f).plans
  let steps := plans.map fun p => p.step
  let trees := (plans.flatMap fun p => p.places.filter fun c => c.kind == .tree && c.isOpen).length
  let h1 := (h.slotsOf f).foldl (fun a s => a.modSeq s fun q => { q with
    resQueue := q.resQueue.filter fun e => !steps.contains e.1, resRing := q.resRing.filter fun e => !steps.contains e.1 }) h
  ({ h1 with secUsed := h1.secUsed - trees, routers := h1.routers.filter fun e => e.1 / 2 ^ 28 % 16 != f,
             smp := { h1.smp with vacant := h1.smp.vacant.filter fun e => e.1 != f } } : Hw).modFacet f fun x => { x with plans := [] }

/-- Gives up a facet's plans as it leaves for STANDBY. Those of steps already run stay as far as tiles of vacated positions are still to be
discarded, after which these are released (R21, R92). -/
def Hw.leavePlans (h : Hw) (f : Nat) : Hw :=
  let x := h.facet f
  let rest := (x.plans.filter fun p => decide (p.step ≤ x.step) && p.positions.any fun y => y.status == .vacated).map fun p =>
    { p with places := [], tags := [], positions := p.positions.map fun y => if y.status = .vacated then y else { y with status := .released } }
  let vacant := h.smp.vacant.filter fun e => e.1 == f && rest.any fun p => p.step == e.2.1
  let h1 := (h.retirePlans f).dropPlans f
  ({ h1 with smp := { h1.smp with vacant := h1.smp.vacant ++ vacant } } : Hw).modFacet f fun y => { y with plans := rest }

/-- A facet enters HALTED (R371): its open ledger is discarded, its partitions are interrupted, its plans retire and its jobs are torn
down; its sequences stay live with their committed state. -/
def Hw.halt (h : Hw) (f : Nat) : Hw :=
  let x := h.facet f
  if x.state = .unassigned ∨ x.state = .halted then h
  else
    let h1 := ((h.discardLedger f).retirePlans f).dropPlans f
    let h2 := h1.modFacet f fun y => { y with state := .halted, recovering := false, reSeek := false, waitingUp := none,
                                              idleSinceNs := some h.now, entryPlan := false, stepRuns := false }
    let h3 := ((h2.teardown f false 2).teardown f true 2).dropImages f 0
    let h4 := h3.modJob f false fun j => if j.state = .pending then { j with state := .ended, result := 2, yielded := false } else j
    (h4.facetParts f).foldl Hw.requestInt h4

/-- The engine enters FAULT_HOLD, for the escalation of facet `f` or for no facet, and with it every facet other than UNASSIGNED enters
HALTED; the event is raised before EVR's flush (Table 1.2, R371, R401, Table 16.5). -/
def Hw.faultHold (h : Hw) (f : Option Nat) : Hw :=
  if h.eng.state = .faultHold then h
  else
    let h1 := (h.closeAdmission.enter .faultHold).raiseEv
      { fam := 0, code := 0x0002, sev := 5, unit := familyUnit 0, facet := f, part := none, detail := [BitVec.ofNat 8 (f.getD 0xFF)] }
    ((List.range 16).foldl Hw.halt h1).flushEvents

/-! ## Masking -/

/-- The hot-set bank that holds a slot's vertex; the manual does not say which. -/
def bankOf (slot : Nat) : Nat := Config.freeNat 374 slot % 16

/-- A move leaves the list; its sequence is eligible again once no other move of it runs. -/
def Hw.dropMove (h : Hw) (m : Move) : Hw :=
  let h1 : Hw := { h with pages := { h.pages with moves := h.pages.moves.erase m } }
  h1.modSeq m.slot fun q => { q with moving := h1.pages.moves.any fun x => x.slot == m.slot }

/-- A move ends without switching: the old page stays mapped and the destination is freed (R166). -/
def Hw.moveFailed (h : Hw) (m : Move) : Hw := ((h.dropMove m).freePage m.dest).inc 0x4034 1

/-- A command is outstanding no more, and no record of it is awaited: a descriptor that was to be retired with its record is retired, and
a page copy ends (R77, R81, R166). -/
def Hw.lose (h : Hw) (t : Nat) : Hw :=
  let h1 := h.modDesc t fun d => { d with expired := true }
  match h1.desc? t with
  | some d =>
    if d.owner = .copy then
      match h1.pages.moves.find? fun m => m.tag == t with
      | some m => (h1.moveFailed m).retire t
      | none => h1.retire t
    else if d.retireOnRecord then h1.retire t
    else h1
  | none => h1

/-- Masks a partition (R83, R365): its outstanding commands are no longer awaited; a job on it is torn down (R229); a facet left with
no partition enters HALTED. -/
def Hw.maskPart (h : Hw) (p : Nat) : Hw :=
  if (h.raw 0x2201 1).testBit p then h
  else
    let sent := (h.part p).sent
    let h0 := match sent with | t :: _ => h.endWindow p t 0xF 0 0 0 | [] => h
    let h1 := sent.foldl Hw.lose
      ((h0.set 0x2201 1 (setBit (h.raw 0x2201 1) p)).modPart p fun x =>
        { x with state := .masked, intReq := false, preReq := false, ctxBusy := 0, sent := [],
                 ghosts := (x.ghosts.map fun g => (g.1, true)) ++ sent.map fun t => (t, true) })
    match h1.facetOf p with
    | none => h1
    | some f =>
      let onJob := fun (u : Bool) => (h1.job f u).parts.contains p && (h1.job f u).state.live
      let h2 := if onJob false then h1.teardown f false 2 else h1
      let h3 := if onJob true then h2.teardown f true 2 else h2
      let h4 := h3.partSwitched f p
      if h4.facetParts f = [] then h4.halt f else h4

/-- Masks a hot-set bank: its hot vertices are dropped (Table 15.4). -/
def Hw.maskBank (h : Hw) (b : Nat) : Hw :=
  let h1 := h.set 0xA011 1 (setBit (h.raw 0xA011 1) b)
  { h1 with seqs := h1.seqs.map fun e => if bankOf e.1 = b then (e.1, { e.2 with hot := false }) else e }

/-- Masks the unit a fault names. -/
def Hw.maskUnit (h : Hw) (u : FaultUnit) : Hw :=
  match u with
  | .unnamed => h
  | .part p => h.maskPart p
  | .lane n => h.set 0xA010 1 (setBit (h.raw 0xA010 1) n)
  | .bank b => h.maskBank b
  | .pair n => h.set 0xA012 1 (setBit (h.raw 0xA012 1) n)

/-! ## Replay -/

/-- Makes the results of a discarded ledger open again (R366 step 4); a tree that was walked takes its SEC entry again (R297). -/
def Hw.reopen (h : Hw) (f : Nat) (results : List (Nat × Nat)) : Hw :=
  results.foldl (fun a r =>
    let walked := (((a.facet f).plans.filter fun p => p.step == r.1).flatMap fun p => p.places).any fun c =>
      c.slot == r.2 && c.kind == .tree && !c.isOpen
    ({ a with secUsed := if walked then a.secUsed + 1 else a.secUsed } : Hw).modPlan f r.1 fun p => { p with
      places := p.places.map fun c => if c.slot = r.2 && c.kind != .vacated then { c with isOpen := true } else c,
      positions := p.positions.map fun x =>
        if x.slot = r.2 && x.kind != .draft && x.status == .decided then { x with status := .awaiting } else x }) h

/-- Steps 1 and 2 of a replay: the open ledger is discarded and every partition interrupted (R366). -/
def Hw.startReplay (h : Hw) (f : Nat) : Hw :=
  let results := (h.facet f).ledger.results
  let h1 := ((h.discardLedger f).reopen f results).inc 0xA002 (f + 1)
  let h2 := h1.modFacet f fun x => { x with
    recovering := true,
    plans := x.plans.map fun p => { p with positions := p.positions.map fun y =>
      if y.status = .complete then { y with status := .awaiting } else y } }
  (h2.facetParts f).foldl Hw.requestInt h2

/-- Stage 2 of R370: every plan retires, and SCAN starts for the next step once the drain ends. -/
def Hw.startReseek (h : Hw) (f : Nat) : Hw :=
  let h1 := (((h.discardLedger f).retirePlans f).dropPlans f).inc 0xA003 (f + 1)
  let h2 := if h1.modeNow f = 2 then h1.inc 0x5013 (f + 1) else h1
  let h3 := h2.modFacet f fun x => { x with recovering := true, reSeek := true }
  (h3.facetParts f).foldl Hw.requestInt h3

/-- Keys a re-issued command still waits on: tokens that earlier steps owe, and draft tokens not yet decided. -/
def Hw.owedKeys (h : Hw) (f : Nat) (p : Plan) (s : CmdSpec) : List Nat :=
  let undecided := p.places.flatMap fun c => match c.tree with
    | some t => (List.range t.parents.length).filterMap fun i => if (t.toks.getD i none).isNone then some (draftKey p.step (t.draftPos + i)) else none
    | none => []
  (h.waitKeys f p s).filter fun k => if k % 2 = 0 then decide (k / 2 / 2 ^ 20 < p.step) else undecided.contains k

/-- Renames descriptors in the memory accesses that decrement them. -/
def MemUse.rename (u : MemUse) (g : Nat → Option Nat) : MemUse :=
  match u with
  | .stepWrite f tags => .stepWrite f (tags.filterMap g)
  | .kvList f tags => .kvList f (tags.filterMap g)
  | .biasRead f s tags => .biasRead f s (tags.filterMap g)
  | .givenRead f s a n tags => .givenRead f s a n (tags.filterMap g)
  | o => o

/-- Tags that a write's OKAY decrements. -/
def MemUse.writeTags : MemUse → List Nat
  | .stepWrite _ tags | .kvList _ tags => tags
  | _ => []

/-- Creates descriptors again for the commands of a plan that have not completed OK (R366 step 3). -/
def Hw.reissue (h : Hw) (f : Nat) (p : Plan) : Hw :=
  let specs := (h.planBlocks p.places).flatMap fun k => h.blockSpecs k p.places
  let todo := specs.filter fun s => !p.doneIds.contains (cmdIdOf s)
  if todo = [] then h
  else
    let old := p.tags.filterMap fun t => (h.desc? t).map fun d => (d.cmdId, t)
    let uses := h.mem.all.flatMap fun r => r.use.writeTags
    let owed := fun (s : CmdSpec) => match old.find? fun e => e.1 = cmdIdOf s with
      | some (_, t) => uses.count t
      | none => 0
    let start := (h.blockAddrs f p).2
    let h1 := p.tags.foldl Hw.retire h
    let r := todo.foldl (fun (acc : List (Nat × Nat) × Hw) s =>
      let waits := h.owedKeys f p s
      let built := p.bins.find? fun b => b.1 = cmdIdOf s
      let args := match built with
        | some b => b.2.1
        | none => start + 64 * ((specs.findIdx? fun x => x == s).getD 0)
      let d := { acc.2.specDesc f p s 0 args with
        counter := (todo.filter fun a => precedes a s).length + waits.length + owed s +
          (if acc.2.hasBins s.word && built.isNone then 1 else 0),
        waitTok := waits, argsLen := match built with | some b => b.2.2 | none => 1,
        active := match built with
          | some (_, _, 0) => some []
          | _ => h.activeOf p s.block s.node s.entry }
      let t := acc.2.takeDesc d
      (acc.1 ++ [(cmdIdOf s, t.1)], t.2)) ([], h1)
    let newTag := fun (id : Nat) => (r.1.find? fun e => e.1 = id).map Prod.snd
    let renamed := fun (t : Nat) => match old.find? fun e => e.2 = t with
      | some e => newTag e.1
      | none => some t
    let h2 := todo.foldl (fun a s => match newTag (cmdIdOf s) with
      | some t => a.modDesc t fun d => { d with succ := (todo.filter fun b => precedes s b).filterMap fun b => newTag (cmdIdOf b) }
      | none => a) r.2
    let ren := fun (l : List MemReq) => l.map fun q => { q with use := q.use.rename renamed }
    ({ h2 with mem := { h2.mem with out := ren h2.mem.out, queue := ren h2.mem.queue, failed := ren h2.mem.failed } } : Hw).modPlan f p.step fun y =>
      { y with tags := r.1.map Prod.snd }

/-- Whether the PROJECTION command that sends a position's tiles has completed OK. -/
def Hw.projected (h : Hw) (p : Plan) (c : Place) (x : Pos) : Bool :=
  let draft := x.kind == .draft
  let key := blockKey x.model x.vslot draft x.part
  let depth := match c.tree with | some t => if draft then nodeDepth t.parents x.node else 0 | none => 0
  (h.blockSpecs key p.places).any fun s => progClass s.word == 4 && s.node == depth && p.doneIds.contains (cmdIdOf s)

/-- Derives a plan's missing results again (R366 step 4): tiles are asked of the logit hold, and chunks without logits are recorded. -/
def Hw.rederive (h : Hw) (f : Nat) (p : Plan) : Hw :=
  let h1 := p.positions.foldl (fun a x => match p.placeOf x with
    | some c =>
      if x.needs && (x.status == .planned || x.status == .awaiting) && !a.tilesIn f p.step x.index && a.projected p c x then
        a.requestReplay f p.step x.index 0 (ceilDiv (a.getAt 0x7001 1 x.model) 128 - 1) false
      else a
    | none => a) h
  p.places.foldl (fun a c =>
    if c.kind = .prefill ∧ !c.endsPrompt ∧ c.isOpen ∧
        (p.positions.any fun x => x.slot == c.slot && a.projected p c x) then a.recordPrefill f p.step c else a) h1

/-- Whether a plan's commands yet to be issued again include one that would fall to a masked partition. -/
def Hw.displaced (h : Hw) (p : Plan) : Bool :=
  ((h.planBlocks p.places).flatMap fun k => h.blockSpecs k p.places).any fun s =>
    !p.doneIds.contains (cmdIdOf s) && (h.raw 0x2201 1).testBit (s.block % 64)

/-- Starts SCAN for the step the fabric begins next, once the plans that held uncommitted work are gone (R370). -/
def Hw.reSeekNow (h : Hw) (f : Nat) : Hw :=
  (h.modFacet f fun y => { y with recovering := false, reSeek := false, entryPlan := true }).compose f ((h.facet f).step + 1)

/-- What follows the last drain of a facet in recovery: a replay's steps 3 to 5, or stage 2's SCAN (R366, R370). Work that would fall to
a masked partition cannot be issued again, so the facet's plans are then re-tessellated as R370 does (R76). -/
def Hw.afterRecoveryDrain (h : Hw) (f : Nat) : Hw :=
  let x := h.facet f
  if !x.recovering || (h.facetParts f).any fun p => (h.part p).intReq || (h.part p).preReq then h
  else if x.reSeek then h.reSeekNow f
  else if x.plans.any h.displaced then
    let h1 := (h.retirePlans f).dropPlans f
    (if h1.modeNow f = 2 then h1.inc 0x5013 (f + 1) else h1).reSeekNow f
  else
    let h1 := x.plans.foldl (fun a p => a.reissue f p) h
    let h2 := x.plans.foldl (fun a p => a.rederive f p) h1
    let h3 := h2.modFacet f fun y => { y with recovering := false }
    if (x.fired.contains .compose ∨ x.entryPlan) ∧ (h3.facet f).composing.isNone ∧ !(x.plans.any fun p => p.step == x.step + 1) then
      h3.compose f (x.step + 1)
    else h3

/-! ## Escalation -/

/-- Whether the faults of an episode leave only the facet to stop: each names none, or a partition of the facet (R370). -/
def Hw.facetOnly (h : Hw) (f : Nat) (l : List FaultUnit) : Bool :=
  l.all fun u => match u with
    | .unnamed => true
    | .part p => h.facetOf p == some f
    | _ => false

/-- The last stage of R370. -/
def Hw.stopFacet (h : Hw) (f : Nat) : Hw := if h.facetOnly f (h.facet f).episode then h.halt f else h.faultHold (some f)

/-- The job that holds an EXCLUSIVE facet is the urgent one while it is there. -/
def Hw.holderIsUrgent (h : Hw) (f : Nat) : Bool := (h.job f true).state.live

/-- An EXCLUSIVE facet's answer to a fault: the open iteration is aborted and loads again (R372). -/
def Hw.abortFacet (h : Hw) (f : Nat) : Hw :=
  let h1 := (h.inc 0xA002 (f + 1)).abortIteration f (h.holderIsUrgent f)
  let sent := (h1.facetParts f).filter fun p => (h1.part p).sent != []
  sent.foldl Hw.requestInt h1

/-- One fault on one facet (R365, R370, R372). -/
def Hw.faultOn (h : Hw) (f : Nat) (u : FaultUnit) : Hw :=
  let x := h.facet f
  if !x.state.runs then h
  else
    let c := h.raw 0xA006 (f + 1)
    let b := h.get 0xA001 1
    let h1 := (h.set 0xA006 (f + 1) (min 255 (c + 1))).modFacet f fun y =>
      { y with episode := y.episode ++ [u], lastFaultStep := some y.step }
    if c < b then (if x.state = .exclusive then h1.abortFacet f else h1.startReplay f)
    else if c = b ∧ u ≠ .unnamed then
      let h2 := h1.maskUnit u
      if (h2.facet f).state.runs then
        (if x.state = .exclusive then (h2.inc 0xA003 (f + 1)).abortFacet f else h2.startReseek f)
      else h2
    else h1.stopFacet f

/-- Answers every fault that the command has found: a permanent fault masks its unit at once (R365). -/
def Hw.runFaults (h : Hw) : Hw :=
  let l := h.faults
  l.foldl (fun a r =>
    let a1 := if r.permanent then a.maskUnit r.unit else a
    (distinct r.facets).foldl (fun b f => b.faultOn f r.unit) a1) { h with faults := [] }

/-- Facets that run generation: ACTIVE or DRAINING. -/
def Hw.generating (h : Hw) : List Nat :=
  (List.range 16).filter fun f => (h.facet f).state == .active || (h.facet f).state == .draining

end Sys2Proof.Machine
end

