-- ==== Sys2Proof/Machine/Operands.lean ====
section
/-! DEFINITION. Byte layouts of the records that commands carry in and that the block writes out: submission entries, admission
records, migration messages, seals and fabric records. -/

namespace Sys2Proof.Machine

open Sys2Proof

/-! ## Submission entries and admission records (Tables 6.1, 6.3) -/

/-- A submission entry's fields. -/
structure Submission where
  tag       : Word64
  op        : Nat
  model     : Nat
  classByte : Nat
  flags     : Nat
  vpolicy   : Nat
  topn      : Nat
  queue     : Nat
  version   : Nat
  promptLen : Nat
  maxNew    : Nat
  promptAddr : Nat
  seed      : Word64
  stream    : Word64
  deadline  : Nat
  stop      : List Nat
  sampling  : Sampling
  bytes     : List Byte

/-- Reads a submission entry. -/
def submissionOf (l : List Byte) : Submission :=
  { tag := BitVec.ofNat 64 (fieldAt l 0 8), op := fieldAt l 8 1, model := fieldAt l 9 1, classByte := fieldAt l 10 1,
    flags := fieldAt l 11 1, vpolicy := fieldAt l 12 1, topn := fieldAt l 13 1, queue := fieldAt l 14 2, version := fieldAt l 16 4,
    promptLen := fieldAt l 20 4, maxNew := fieldAt l 24 4, promptAddr := fieldAt l 32 8, seed := BitVec.ofNat 64 (fieldAt l 40 8),
    stream := BitVec.ofNat 64 (fieldAt l 48 8), deadline := fieldAt l 56 8,
    stop := (List.range 4).map fun i => fieldAt l (64 + 4 * i) 4, sampling := samplingOf (slice l 80 48), bytes := slice l 0 128 }

/-- Whether a binary32 lies in [lo, hi]; a NaN or an infinity does not. -/
def f32In (lo hi x : BitVec 32) : Bool := f32IsFinite x && f32Le lo x && f32Le x hi

/-- Whether a sampling block breaks a range of Table 11.3 (R250); `maskReady` tells whether a mask slot is current. -/
def samplingBad (scoreOn : Bool) (maskReady : Nat → Bool) (l : List Byte) : Bool :=
  let s := samplingOf l
  fieldAt l 0 1 % 4 == 3 || fieldAt l 0 1 / 4 != 0 || (s.mode == .score && !scoreOn) || fieldAt l 1 1 / 64 != 0 ||
  (s.maskOn && !maskReady s.maskSlot) || decide (4096 < s.topK) || !f32In 0x3C000000 0x43000000 s.temperature ||
  !f32In 0x3F800000 0x41000000 s.repetition || !f32In 0xC0800000 0x40800000 s.frequency ||
  !f32In 0xC0800000 0x40800000 s.presence || decide (16 < s.biasCount) || fieldAt l 30 2 != 0 ||
  (decide (0 < s.biasCount) && s.biasAddr % 8 != 0) ||
  (if s.mode = .score then s.scoreAddr % 64 != 0 else s.scoreAddr != 0)

/-- Check 1 of a NEW entry: whether it is malformed (Table 6.2, R250). -/
def Hw.formBad (h : Hw) (l : List Byte) : Bool :=
  let e := submissionOf l
  e.op != 0 || (clsOf (e.classByte % 4)).isNone || bits e.classByte 3 2 != 0 || e.flags / 16 != 0 || e.vpolicy % 4 == 3 ||
  e.vpolicy / 4 != 0 || decide (32 < e.topn) || decide (4095 < e.queue) || fieldAt l 28 4 != 0 || e.promptLen == 0 || e.maxNew == 0 ||
  e.promptAddr % 64 != 0 || (e.deadline != 0 && e.classByte % 4 != 2) || (e.version != 0 && e.vpolicy % 4 != 2) ||
  samplingBad (h.feature 8) (fun s => (h.raw 0x7042 1).testBit s) (slice l 80 48)

/-- The fields of an admission record that its outcome fixes (Table 6.3). -/
structure AdmitFields where
  handle : Nat
  outcome : Nat
  flags  : Nat
  facet  : Nat
  model  : Nat
  version : Nat
  prefixLen : Nat
  msgId  : Nat
  start  : Nat
  projection : Nat

/-- The 64 bytes of an admission record for entry `i` of a ring of `n` entries. -/
def admitRecord (tag : Word64) (a : AdmitFields) (stamp i n : Nat) : List Byte :=
  leBytes 8 tag.toNat ++ leBytes 8 a.handle ++
  [BitVec.ofNat 8 a.outcome, BitVec.ofNat 8 a.flags, BitVec.ofNat 8 a.facet, BitVec.ofNat 8 a.model] ++ leBytes 4 a.version ++
  leBytes 4 a.prefixLen ++ leBytes 4 a.msgId ++ leBytes 8 a.start ++ leBytes 8 a.projection ++ leBytes 8 stamp ++ leBytes 4 i ++
  [0, 0, 0, BitVec.ofNat 8 ((i / n + 1) % 2)]

/-! ## Migration messages (Table 6.9a) -/

/-- The 64-byte header of a migration message with its CRC over header and body. -/
def migrationMessage (kind origin dest msgId : Nat) (handle tag remote outcome : Nat) (body : List Byte) : List Byte :=
  let hdr := [BitVec.ofNat 8 kind, 0] ++ leBytes 2 origin ++ leBytes 2 dest ++ [0, 0] ++ leBytes 4 msgId ++ leBytes 4 body.length ++
    leBytes 8 handle ++ leBytes 8 tag ++ leBytes 8 remote ++ BitVec.ofNat 8 outcome :: List.replicate 19 0
  hdr ++ leBytes 4 (crc32c (hdr ++ body)).toNat ++ body

/-- Whether a migration message's CRC checks and its body has the stated length. -/
def migrationOk (l : List Byte) : Bool :=
  let body := l.drop 64
  decide (64 ≤ l.length) && body.length == fieldAt l 12 4 && fieldAt l 60 4 == (crc32c (slice l 0 60 ++ body)).toNat

/-- The body of a LIVE message. -/
def liveBody (v : Vertex) (tokens : List Nat) : List Byte :=
  vertexLines12 v ++ vertexLine3 v ++ leBytes 4 v.generated ++ leBytes 4 v.version ++ leBytes 4 v.reservedTok ++ [0, 0, 0, 0] ++
  (tokens.map (leBytes 4)).flatten

/-! ## Fabric records (Tables 4.3, 4.7, 4.9, 4.11) -/

/-- Reads a completion record. -/
def recordOf (l : List Byte) : Record :=
  let w := fieldAt l 0 4
  { part := bits w 5 0, facet := bits w 9 6, status := bits w 13 10, tag := bits w 31 14, busy := fieldAt l 8 6, bytes := fieldAt l 14 6,
    energy := fieldAt l 20 4 }

/-- A logit stream position name: facet, low step, position, and first and last tile (Table 4.11). -/
structure TileName where
  facet : Nat
  step  : Nat
  position : Nat
  first : Nat
  last  : Nat

/-- Reads a replay request, NAK or release word. -/
def tileName (w : Nat) : TileName :=
  { facet := bits w 3 0, step := bits w 19 4, position := bits w 36 20, first := bits w 49 37, last := bits w 62 50 }

/-- The 64-bit form of a token entry (Table 4.12). -/
def tokenWord (t : TokenEntry) : Nat :=
  t.facet + t.step % 65536 * 16 + t.position * 2 ^ 20 + t.token * 2 ^ 37 + if t.pad then 2 ^ 57 else 0

end Sys2Proof.Machine
end

