-- ==== Sys2Proof/Machine/Dlm.lean ====
section
/-! DEFINITION. DLM: projections, urgency, fallback orders and what a missed deadline brings (R302 to R308, R42). -/

namespace Sys2Proof.Machine

open Sys2Proof

/-- Mean difference of consecutive stamps, newest first; 0 where there are fewer than two. -/
def meanGap (l : List Nat) : Nat :=
  match l, l.getLast? with
  | newest :: _ :: _, some oldest => (newest - oldest) / (l.length - 1)
  | _, _ => 0

/-- STEP_TIME_MEAN of a facet, tau_f: over its last 16 steps; TARGET_STEP_US before any has run (R303). -/
def Hw.stepTime (h : Hw) (f : Nat) : Nat :=
  let l := (h.facet f).stepBegins.take 17
  if l.length < 2 then h.paramNow f 0xD * 1000 else meanGap l

/-- JOB_ITER_MEAN of a facet's job. -/
def Hw.iterMean (h : Hw) (f : Nat) : Nat := meanGap ((h.job f false).gateTimes.take 17)

/-- A projection that fails: 2⁶⁴ − 1. -/
def never : Nat := 2 ^ 64 - 1

/-- The wait w of a projection (R304). -/
def Hw.projWait (h : Hw) (f : Nat) : Nat :=
  let j := h.job f false
  match (h.facet f).state with
  | .active => 0
  | .standby => if j.state = .pending ∧ j.yielded ∧ (h.facet f).noPlacing = false ∧ h.switches.any (fun e => e.1 == f) then 0 else never
  | .exclusive =>
    if h.raw 0x9110 (f + 1) > 0 ∧ h.iterMean f > 0 then
      (h.raw 0x9110 (f + 1) - j.sliceIters) * h.iterMean f + h.switchNs f 1 0
    else never
  | _ => never

/-- Whether trees run for a vertex taken as DECODE, in the sense of R303. -/
def Hw.treeRunning (h : Hw) (f : Nat) (v : Vertex) : Bool :=
  h.treeAllowed (h.modeNow f) v && (h.modeNow f == 2 || v.spec.suspend == 0)

/-- The projection P of a sequence at stamp `t` (R303). -/
def Hw.project (h : Hw) (f : Nat) (v : Vertex) (t : Nat) : Nat :=
  let t0 := max t v.start
  let rp := if v.generated ≥ 1 then v.promptLen + v.generated - 1 - v.kvTokens else v.promptLen - v.kvTokens
  let rd := v.maxNew - v.generated
  let e := if rp > 0 ∧ v.generated = 0 then 1 else 0
  let chunk := h.paramNow f 3
  let c := if v.shareReduced then min chunk (h.getAt 0x4101 7 (h.modelOf v)) else chunk
  let n := (rp + c - 1) / c
  let m0 := rd - e
  let m := if h.treeRunning f v then (m0 * 256 + 255 + v.spec.rate) / (256 + v.spec.rate) else m0
  let tau := if v.fallback then h.stepTime f * h.getAt 0x9021 1 (h.modelOf v) / 256 else h.stepTime f
  let w := h.projWait f
  if w = never then never else min never (t0 + w + (n + m + 1) * tau)

/-- A vertex as it would run on its fallback model: no KV resident. -/
def Vertex.onFallback (v : Vertex) : Vertex := { v with fallback := true, kvTokens := 0 }

/-- The fallback model of a model, if it is active with a committed version resident. One that is not cannot run the entry, so it is not
projected and the requested model's projection decides: R126 does not state this (log entry 132, DESIGN CHOICE). -/
def Hw.fallbackModel (h : Hw) (m : Nat) : Option Nat :=
  let b := h.getAt 0x9020 1 m
  if b ≠ 0xFF ∧ h.getAt 0x8001 1 b = 1 ∧ (h.currentSlot b).isSome then some b else none

/-- Orders a fallback in the open ledger (R307). The entry's vpolicy stays as it is (Table 6.6, byte 115); on the fallback EXACT acts as
FIXED (`Vertex.pins`). -/
def Hw.orderFallback (h : Hw) (f slot b : Nat) : Hw :=
  let s := (h.currentSlot b).getD 0
  let h1 := h.modCur slot fun v => { v with fallback := true, vslot := s, version := h.slotVersion b s }
  ((h1.resetKv slot 0 0).inc 0x9016 (f + 1)).event 0xA (307 * 16) 2 (some f) none

/-- A deadline refuses a sequence: it ends at its facet's next commit (R308). -/
def Hw.refuseDeadline (h : Hw) (slot : Nat) : Hw :=
  h.modSeq slot fun q => { q with cancelAsked := some (q.cancelAsked.getD .deadline) }

/-- One re-projection against what the last commit has made visible (R302, R305, R307, R308). -/
def Hw.reproject (h : Hw) (f slot : Nat) : Hw :=
  match h.seq? slot with
  | none => h
  | some q =>
    let v := q.com
    if v.facet ≠ f ∨ v.cls ≠ .dl ∨ v.state = .ended ∨ v.state = .migrating ∨ q.cur.state = .ended then h
    else
      let p := h.project f v h.now
      let lattice := h.modeNow f == 2
      let h1 := h.modSeq slot fun s => { s with
        cur := { s.cur with projection := p }, urgent := !lattice && decide (v.deadline < p + h.get 0x9011 (f + 1) * 1000) }
      if lattice || decide (p ≤ v.deadline) then h1
      else
        let fall := if v.flags.testBit 1 ∧ !q.cur.fallback then
            match h.fallbackModel v.model with
            | some b => if h.project f v.onFallback h.now ≤ v.deadline then some b else none
            | none => none
          else none
        match fall with
        | some b => h1.orderFallback f slot b
        | none => if h.get 0x9010 (f + 1) = 2 then h1.refuseDeadline slot else h1

/-- A cc of a facet's running re-projection: the next 16 sequences of its list (R302). -/
def Hw.reprojectSome (h : Hw) (f : Nat) : Hw :=
  let l := (h.facet f).reproj
  (l.take 16).foldl (fun a s => a.reproject f s) (h.modFacet f fun x => { x with reproj := l.drop 16 })

/-- A commit starts the re-projection of its facet's live DL sequences, in deadline order; one that still runs restarts from the head
(R302). -/
def Hw.reprojectAll (h : Hw) (f : Nat) : Hw :=
  let l := sortBy (fun a b => decide (a.2.com.deadline < b.2.com.deadline)) (h.seqs.filter fun e => e.2.com.facet = f && e.2.com.cls = .dl)
  let h1 := if (h.facet f).reproj = [] then h else h.inc 0x901A (f + 1)
  (h1.modFacet f fun x => { x with reproj := l.map Prod.fst }).reprojectSome f

end Sys2Proof.Machine
end

