-- ==== Sys2Proof/Machine/Moves.lean ====
section
/-! DEFINITION. Page moves between device and host pools: when one may start, and the copy command it issues (R164 to R166, R171, R209). -/

namespace Sys2Proof.Machine

open Sys2Proof

/-- Whether PGM may take a descriptor for one more copy of a facet (R209). -/
def Hw.mayCopy (h : Hw) (f : Nat) : Bool :=
  let F := h.get 0x5005 (f + 1)
  let Q := match (h.facet f).tes, (h.facet f).composing with
    | .planned, _ => 0
    | _, some p => (p.tags.filter fun t => (h.desc? t).isSome).length
    | _, none => 0
  decide ((h.descTags fun d => d.owner == .copy && d.facet == f).length < h.get 0x6007 (f + 1)) &&
  decide (h.descHeld f + 1 + (F - Q) ≤ 2 * F) && (h.facet f).state != .exclusive

/-- The partition a copy runs on: the facet's lowest that is local to the destination pool, or its lowest (R166). -/
def Hw.copyPart (h : Hw) (f pool : Nat) : Nat :=
  let parts := h.facetParts f
  ((parts.find? fun p => (h.getAt 0x4001 5 pool).testBit p).orElse fun _ => parts.head?).getD 0

/-- The argument block of a copy (R166). -/
def copyArgs (src dst bytes : Nat) : List Byte := leBytes 8 src ++ leBytes 8 dst ++ leBytes 4 bytes ++ List.replicate 44 0

/-- Where the argument block of a copy with tag `t` lies: the manual gives no place. -/
def copyArgsAddr (t : Nat) : Nat := Config.freeNat 166 (2 * t) % 2 ^ 50 * 64

/-- The descriptor of a copy (R166, Table 9.1). Its model and slot fields have no stated value. -/
def Hw.copyDesc (h : Hw) (f tenant part args : Nat) : Desc :=
  { state := .waiting, owner := .copy, facet := f, part := part, kind := 0, cls := .be, level := 0, counter := 1, layer := 0xFFFF,
    operator := h.raw 0x4003 1, tenant := tenant, context := 0, model := Config.freeNat 166 1 % 256, vslot := Config.freeNat 166 3 % 2,
    args := args, argsLen := 1, succ := [], step := 0, delay := none, readyCc := 0, bypass := 0, entry := 0, opClass := 0, wave := 0,
    waitTok := [], node := 0, urgentJob := false, sentNs := 0, sentNo := 0, expired := false, retireOnRecord := false, cmdId := 0,
    active := none }

/-- Issues the copy of page `index` of a sequence into the page `dest`, which is allocated (R166). -/
def Hw.issueMove (h : Hw) (slot index : Nat) (q : Seq) (src : PageRef) (dest : Nat × Nat) (isRecall : Bool) : Hw :=
  let f := q.com.facet
  let t := h.takeDesc (h.copyDesc f q.com.tenant (h.copyPart f dest.1) 0)
  let addr := copyArgsAddr t.1
  let h1 := t.2.modDesc t.1 fun d => { d with args := addr }
  let body := copyArgs (h.pageAddr src) (h.pageAddr { pool := dest.1, page := dest.2, isSealed := false }) (h.getAt 0x4001 2 src.pool)
  let h2 := h1.writeRun addr body (some q.com.tenant) (.stepWrite f [t.1])
  let m : Move := { slot := slot, index := index, source := (src.pool, src.page), dest := dest, tag := t.1, isRecall := isRecall }
  ({ h2 with pages := { h2.pages with moves := h2.pages.moves ++ [m] } } : Hw).modSeq slot fun s => { s with moving := true }

/-- Host pools of a model that are enabled. -/
def Hw.hostPools (h : Hw) (m : Nat) : List Nat := if h.feature 7 then h.poolsOf (h.getAt 0x4101 4 m) else []

/-- Whether page `i` of a sequence may be moved: it is committed and mapped now, its only reference is the table's, and no move of it runs
(R164), nor does one wait. -/
def Hw.pageMovable (h : Hw) (slot i : Nat) (q : Seq) : Bool :=
  match q.pagesCom[i]?, q.pagesCur[i]? with
  | some a, some b =>
    a.pool == b.pool && a.page == b.page && (h.pageInfo (a.pool, a.page)).refs == 1 &&
    (h.pages.moves.all fun m => !(m.slot == slot && m.index == i)) && h.pages.waits.all fun m => !(m.slot == slot && m.index == i)
  | _, _ => false

/-- Page indices of a sequence that may be moved and lie in a pool that `from_` picks, in ascending order. -/
def Hw.movablePages (h : Hw) (slot : Nat) (q : Seq) (from_ : Nat → Bool) : List Nat :=
  (List.range q.pagesCom.length).filter fun i => h.pageMovable slot i q && (q.pagesCom[i]?.map fun r => from_ r.pool).getD false

/-- The pool a moved page of a sequence goes to: for a recall the first device pool in the order of R158 that grants its class a page, else
the lowest-numbered host pool of the model with a free page (log entry 117, DESIGN CHOICE: the manual names no order of host pools). -/
def Hw.movePool (h : Hw) (q : Seq) (isRecall : Bool) : Option Nat :=
  let m := h.modelOf q.com
  if isRecall then (h.poolOrder m q.com.affinity).find? fun k => h.poolGrants k q.com.cls
  else (h.hostPools m).find? fun k => decide (0 < h.poolFree k)

/-- Starts the move of a page, if it may be moved and a pool takes it. A copy that cannot take a descriptor waits (R209). -/
def Hw.startMove (h : Hw) (slot index : Nat) (isRecall : Bool) : Hw :=
  match h.seq? slot with
  | none => h
  | some q => match q.pagesCom[index]?, h.movePool q isRecall with
    | some src, some k =>
      if !h.pageMovable slot index q then h
      else if !h.mayCopy q.com.facet then
        { h with pages := { h.pages with
            waits := h.pages.waits ++ [{ facet := q.com.facet, slot := slot, index := index, isRecall := isRecall }] } }
      else match h.takePage k with
        | some (pg, h1) => h1.issueMove slot index q src (k, pg) isRecall
        | none => h
    | _, _ => h

/-- The copies that wait try again, oldest first. One whose page may no longer be moved is dropped. -/
def Hw.retryMoves (h : Hw) : Hw :=
  h.pages.waits.foldl (fun a w => a.startMove w.slot w.index w.isRecall) { h with pages := { h.pages with waits := [] } }

/-- A sequence with the host-pool flag keeps at most HOST_WINDOW sealed pages with one reference in device pools; the oldest beyond them
move to a host pool (R171). -/
def Hw.hostWindow (h : Hw) (slot : Nat) : Hw :=
  match h.seq? slot with
  | none => h
  | some q =>
    if !q.com.hostPool ∨ q.com.state = .ended then h
    else
      let l := (h.movablePages slot q fun k => !h.hostPool k).filter fun i => (q.pagesCom[i]?.map fun r => r.isSealed).getD false
      (l.take (l.length - h.getAt 0x4101 8 (h.modelOf q.com))).foldl (fun a i => a.startMove slot i false) h

end Sys2Proof.Machine
end

