-- ==== Sys2Proof/Machine/Rings.lean ====
section
/-! DEFINITION. What goes on in the cc after a command: the read of a ring's next entry (R55, R56, R119, R424), and the state that follows the end
of a drain (R112); and the entry to OPERATIONAL. -/

namespace Sys2Proof.Machine

open Sys2Proof

/-! ## Entries of submission rings -/

/-- Whether a ring's latched producer value shows entries not yet decided: one that R54 would refuse, as after a reset, shows none
(R54, R55). -/
def Hw.ringWaiting (h : Hw) (r : Nat) : Bool :=
  let w := sub32 (h.ring r).latched (h.ring r).consumed
  decide (0 < w) && decide (w ≤ h.getAt 0x3011 3 r)

/-- Reads a ring's next entry where one waits that has not been read and no read of it is under way; after a failed read, once ADM evaluates it
again (R119, R424). -/
def Hw.readEntry (h : Hw) (r : Nat) : Hw :=
  let x := h.ring r
  if h.eng.state = .operational ∧ h.getAt 0x3011 6 r = 1 ∧ !x.deciding ∧ h.ringWaiting r ∧ x.entry.isNone ∧ x.hold ≠ 6 ∧
      !(h.memWaiting fun u => u == .admissionRead r) then
    h.memPost false (h.getAt 0x3011 1 r + x.consumed % h.getAt 0x3011 3 r * 128) 2 [] .ring (some (h.getAt 0x3011 4 r)) (.admissionRead r)
  else h

/-- Reads the next entries of every ring, on entry to OPERATIONAL. -/
def Hw.readEntries (h : Hw) : Hw := (h.rings.map Prod.fst).foldl Hw.readEntry h

/-- Reads the next entries of the rings whose doorbells were latched in the cc before (R56). -/
def Hw.readDue (h : Hw) : Hw :=
  ((h.rings.filter fun e => e.2.toRead).map Prod.fst).foldl
    (fun a r => (a.modRing r fun x => { x with toRead := false }).readEntry r) h

/-! ## Entry to OPERATIONAL -/

/-- Blocks that the table region needs before the engine may be OPERATIONAL (R155). -/
def Hw.tableNeed (h : Hw) : Nat :=
  2097152 + ceilDiv (((List.range 64).filter h.poolOn).map h.poolPages).sum 512

/-- Whether OPERATIONAL is refused for want of table blocks (R155). -/
def Hw.tableShort (h : Hw) : Bool := decide (h.raw 0x4011 1 < h.tableNeed)

/-- Enters OPERATIONAL: credits take their configured values (R72), and from CONFIG the accepted features become active (R114). -/
def Hw.enterOperational (h : Hw) : Hw :=
  let h1 := if h.eng.state = .config then
      (List.range 4).foldl (fun a i => a.set 0x1012 (i + 1) (a.get 0x1011 (i + 1))) h
    else h
  let h2 := (List.range 64).foldl (fun a p => a.modPart p fun x => { x with credits := a.get 0x2200 (p + 1) }) h1
  h2.enter .operational

/-- A pending target replaces the one recorded before (R112). -/
def Hw.setTarget (h : Hw) (t : Option EngState) : Hw := { h with eng := { h.eng with pendingTarget := t } }

/-- The state recorded while the engine drained is entered in the cc after QUIESCED (R112); ADM then acts on what it has latched (R55). -/
def Hw.followTarget (h : Hw) : Hw :=
  if h.eng.state = .quiesced then
    match h.eng.pendingTarget with
    | some .operational => (h.setTarget none).enterOperational.readEntries
    | some .config => (h.setTarget none).enter .config
    | _ => h
  else h

end Sys2Proof.Machine
end

