-- ==== Sys2Proof/Machine/Tasks.lean ====
section
/-! DEFINITION. The debts of the background tasks, and the task that each unit's guaranteed slot goes to (R375). -/

namespace Sys2Proof.Machine

open Sys2Proof

/-- Units of work of a pass task (Table 15.5). -/
def taskWork (t : Nat) : Nat := [Config.scrubWords, 64, 16].getD t 0

/-- Bytes that a flush task holds unwritten. -/
def Hw.flushHeld (h : Hw) (t : Nat) : Nat :=
  match t with
  | 3 => 32 * h.trace.buffer.length
  | 4 => 128 * (h.acct.flushing.length + h.acct.posted.toList.length)
  | _ => 64 * (h.events.buffer.filter h.unsettled).length

/-- Period of a pass task in ns (0xA052). -/
def Hw.bgPeriod (h : Hw) (t : Nat) : Nat := h.get 0xA052 (t + 1) * 1000000000

/-- The debt of a background task (R375). -/
def Hw.bgDebt (h : Hw) (t : Nat) : Nat :=
  if t ≥ 3 then h.flushHeld t
  else taskWork t * (h.now - (h.task t).sinceNs) / h.bgPeriod t - (h.task t).done

/-- Whether a task's debt has reached its bound (0xA053). -/
def Hw.bgOwed (h : Hw) (t : Nat) : Bool := decide (h.get 0xA053 (t + 1) ≤ h.bgDebt t)

/-- Whether a task's debt is at its bound, or EVR holds the most records that the persistent ring may wait for (R375, R402). -/
def Hw.bgWants (h : Hw) (t : Nat) : Bool :=
  (h.task t).state != 0 && (h.bgOwed t || (t == 5 && decide (512 ≤ h.persistHeld)))

/-- Whether a task keeps the slot it has: until its debt is 0 (R375). -/
def Hw.bgKeeps (h : Hw) (t : Nat) : Bool := (h.task t).turn && (h.task t).state != 0 && h.bgDebt t != 0

/-- Of two tasks, the one with the larger debt / bound, the first where they are equal (R375). -/
def Hw.bgMore (h : Hw) (a b : Nat) : Nat :=
  if h.bgDebt a * h.get 0xA053 (b + 1) < h.bgDebt b * h.get 0xA053 (a + 1) then b else a

/-- The flush task that the memory channels' slot goes to (R375). -/
def Hw.flushTurn (h : Hw) : Option Nat :=
  match [3, 4, 5].find? h.bgKeeps with
  | some t => some t
  | none => ([3, 4, 5].filter h.bgWants).foldl (fun (best : Option Nat) t => some (match best with | some b => h.bgMore b t | none => t)) none

/-- Whether a task takes the slot of its unit: a pass task's unit is its own, and the flush tasks share the memory channels (Table 15.5). -/
def Hw.bgTurn (h : Hw) (t : Nat) : Bool := if t < 3 then h.bgKeeps t || h.bgWants t else h.flushTurn == some t

/-- The guaranteed slot: the cc whose count mod 64 equals 63 (R375). -/
def Hw.slotCc (h : Hw) : Bool := h.cc % 64 == 63

/-- At a guaranteed slot, who takes it is settled (R375). -/
def Hw.bgTurns (h : Hw) : Hw :=
  if h.slotCc then (List.range 6).foldl (fun a t => a.modTask t fun x => { x with turn := h.bgTurn t }) h else h

/-- Whether a task has the guaranteed slot of this cc. -/
def Hw.bgGuaranteed (h : Hw) (t : Nat) : Bool := h.slotCc && (h.task t).turn && (h.task t).state != 0

/-- Starts a task: t0 and done are reset (R376). -/
def Hw.bgStart (h : Hw) (t : Nat) : Hw := h.modTask t fun _ => { Task.reset with sinceNs := h.now }

/-- Starts the tasks whose shut-down ended in the cc before with an enable pending (R376). -/
def Hw.bgPending (h : Hw) : Hw := ((h.tasks.filter fun e => e.2.state == 0 && e.2.pending).map Prod.fst).foldl Hw.bgStart h

end Sys2Proof.Machine
end

