-- ==== Sys2Proof/Machine/Tiles.lean ====
section
/-! DEFINITION. The tiles of the logit stream port: their headers, the checks of Table 4.10, and the lanes that are held (R85 to R88, R249). -/

namespace Sys2Proof.Machine

open Sys2Proof

/-- A tile header (Table 4.9). -/
structure TileHdr where
  facet    : Nat
  step     : Nat
  position : Nat
  tile     : Nat
  format   : Nat
  beat     : Nat
  isReplay : Bool

/-- The fields of a header. -/
def tileHdr (w : Word64) : TileHdr :=
  let n := w.toNat
  { facet := bits n 3 0, step := bits n 19 4, position := bits n 36 20, tile := bits n 49 37, format := bits n 52 50,
    beat := bits n 53 53, isReplay := n.testBit 54 }

/-- Number of a transfer within its position: tile × 2 + beat. -/
def TileHdr.key (t : TileHdr) : Nat := 2 * t.tile + t.beat

/-- What a header's position has received in the pass that runs, and whether that pass is over. -/
def Hw.received (h : Hw) (p : Plan) (x : Pos) (t : TileHdr) : List Nat × Bool :=
  if x.status = .vacated then
    (((h.smp.vacant.find? fun v => v.1 == t.facet && v.2.1 == p.step && v.2.2.1 == x.index).map fun v => v.2.2.2).getD [], false)
  else match h.entry? t.facet p.step x.index with
    | some e => (if e.pass.isSome then e.passTiles else e.tiles, e.complete)
    | none => ([], false)

/-- A live replay request that covers a tile of a position. -/
def Hw.askedFor (h : Hw) (p : Plan) (t : TileHdr) : Option ReplayReq :=
  h.smp.replays.find? fun r => r.facet == t.facet && r.step == p.step && r.position == t.position && decide (r.first ≤ t.tile) &&
    decide (t.tile ≤ r.last)

/-- Whether a CRC mismatch has had a tile of a position requested (Table 4.10, check 1). -/
def Hw.crcAsked (h : Hw) (p : Plan) (t : TileHdr) : Option ReplayReq :=
  h.smp.replays.find? fun r => r.facet == t.facet && r.step == p.step && r.position == t.position && r.crc &&
    decide (r.first ≤ t.tile) && decide (t.tile ≤ r.last)

/-- The plan and position that a tile is for, where its facet runs and the position awaits tiles (Table 4.10, check 2). -/
def Hw.tileTarget (h : Hw) (t : TileHdr) : Option (Plan × Pos) :=
  if !(h.facet t.facet).state.runs then none
  else match h.posAt t.facet t.step t.position with
    | some (p, x) => if x.awaits && !(h.received p x t).2 then some (p, x) else none
    | none => none

/-- Check 3 of Table 4.10: tile, format and beat are those of the position's model. -/
def Hw.tileFits (h : Hw) (x : Pos) (t : TileHdr) : Bool :=
  decide (t.tile < ceilDiv (h.getAt 0x7001 1 x.model) 128) && decide (t.format ≤ 4) && t.format == h.getAt 0x7002 1 x.model &&
    (t.format == 0 || t.beat == 0)

/-- Check 4 of Table 4.10: the tile has not been accepted, and a replayed one was requested. In a second pass only replayed tiles are new. -/
def Hw.tileNew (h : Hw) (p : Plan) (x : Pos) (t : TileHdr) : Bool :=
  let second := match h.entry? t.facet p.step x.index with | some e => e.pass.isSome | none => false
  !((h.received p x t).1.contains t.key) && (if t.isReplay then (h.askedFor p t).isSome else !second)

/-- Store entries that hold a candidate slot (R249). -/
def Hw.candSlots (h : Hw) : Nat :=
  (h.smp.store.filter fun e => match h.seq? e.slot with
    | some q => needsCands q.cur.sampling q.cur.topn
    | none => false).length

/-- Whether a tile is held for want of an entry or a candidate slot (R249). -/
def Hw.tileHeld (h : Hw) (p : Plan) (x : Pos) (t : TileHdr) : Bool :=
  if x.status = .vacated ∨ (h.entry? t.facet p.step x.index).isSome then false
  else decide (512 ≤ h.smp.store.length) ||
    (match h.seq? x.slot with
     | some q => needsCands q.cur.sampling q.cur.topn && decide (64 ≤ h.candSlots)
     | none => false)

/-- Replaces the lanes that are held, with the tiles they offer. -/
def Hw.withHeld (h : Hw) (l : Map Word64) : Hw := { h with smp := { h.smp with held := l } }

/-- Whether the tile that a lane offers is held for want of an entry or a candidate slot (R249). -/
def Hw.storeHolds (h : Hw) (hdr : Word64) : Bool :=
  match h.tileTarget (tileHdr hdr) with
  | some (p, x) => h.tileFits x (tileHdr hdr) && h.tileNew p x (tileHdr hdr) && h.tileHeld p x (tileHdr hdr)
  | none => false

/-- 0x7028 counts a cc in which a lane is held under R249; the lanes that are held no longer are ready again. -/
def Hw.countHeld (h : Hw) : Hw :=
  let l := h.smp.held.filter fun e => h.storeHolds e.2
  (if l = [] then h else h.inc 0x7028 1).withHeld l

/-- Entries whose results were recorded in the cc before are free (R249). -/
def Hw.freeEntries (h : Hw) : Hw := { h with smp := { h.smp with store := h.smp.store.filter fun e => !e.done } }

end Sys2Proof.Machine
end

