-- ==== Sys2Proof/Machine/Tick.lean ====
section
/-! DEFINITION. Core cycles: what the passing of a cc does, which commands may share one and in what order (R6, R19, R46, R57, R108), and
the frame that every command of the core island runs in. -/

namespace Sys2Proof.Machine

open Sys2Proof

/-- Interrupt vectors at the end of a cc: a raise carried from the cc after a pulse goes high in the next (R58). -/
def Irq.tick (i : Irq) : Irq := { now := i.carry, prev := i.now, carry := 0 }

/-- Counts this cc for a unit in its state, and makes the STALL record of a state that has changed (R384, Table 16.4). -/
def Hw.countUnit (h : Hw) (u : Nat) : Hw :=
  let t := h.trace
  let code := h.unitCode u
  let old := Map.getD t.unitState u 0xF
  let k := 16 * u + code
  let h1 : Hw := { h with trace := { t with unitCounts := Map.insert t.unitCounts k ((Map.getD t.unitCounts k 0 + 1) % 2 ^ 64) } }
  if code = old then h1
  else
    let h2 := h1.traceRec 3 u none ([BitVec.ofNat 8 code, BitVec.ofNat 8 old] ++ leBytes 6 (h.cc - Map.getD t.unitSince u 0))
    { h2 with trace := { h2.trace with unitState := Map.insert t.unitState u code, unitSince := Map.insert t.unitSince u h.cc } }

/-- Counts this cc in every open command window that did not start in it (R385). -/
def Hw.countWindows (h : Hw) : Hw :=
  { h with parts := h.parts.map fun e => (e.1, match e.2.live with
      | some w => if w.startCc < h.cc then { e.2 with live := some (w.count (h.unitCode w.unit)) } else e.2
      | none => e.2) }

/-- HOLD_CC counts a cc in which a ring is held (R123). -/
def Hw.countHold (h : Hw) : Hw := if h.rings.any fun r => r.2.hold ≠ 0 then h.inc 0x3008 1 else h

/-- Whether a copy of a facet, or an iteration load of its jobs, waits for descriptors (R209). -/
def Hw.descWaits (h : Hw) (f : Nat) : Bool :=
  let short := fun (j : Job) => h.loadWaits f j && decide (2 * h.get 0x5005 (f + 1) < h.descHeld f + j.nodes.length)
  h.copyWaits f || short (h.job f false) || short (h.job f true)

/-- 0x6009 counts each cc in which a requester of a facet waits for descriptors (R209). -/
def Hw.countWaits (h : Hw) : Hw :=
  (List.range 16).foldl (fun a f => if h.descWaits f then a.inc 0x6009 (f + 1) else a) h

/-- The end of a cc: unit states and windows are counted, from the end of START on (R384), and the units rest. -/
def Hw.countCc (h : Hw) : Hw :=
  let h1 := if h.eng.state = .start then h else (countedUnits.foldl Hw.countUnit h.countWindows).countHold.countWaits.countHeld
  { h1 with trace := { h1.trace with busy := [] } }

/-- The next cc: the cc count and the interpolation count of R39 advance, the stamp just used becomes `prev`, the clock point that stands
counts from here on (R409), and the vectors move on (R58). -/
def Hw.advance (h : Hw) : Hw :=
  { h with cc := h.cc + 1, ccNext := 0, ccOnce := [], ccSnap := if h.snapRules then h.snapshot else [], clk := { h.clk with n := h.clk.n + 1, prev := h.now, mhz := h.fMhz }, irq := h.irq.tick }

/-- One read response transfers where the integrator accepts it (R48, R53). -/
def Hw.hostTransfer (h : Hw) : Hw :=
  match h.hostReads with
  | (tag, data, status) :: rest =>
    if h.pins.rspReady then Hw.emit { h with hostReads := rest } (.response tag data status) else h
  | [] => h

/-- Whether a facet is in one of the conditions of R410. -/
def Hw.mayGate (h : Hw) (f : Nat) : Bool :=
  match (h.facet f).state with
  | .unassigned | .halted => true
  | .standby =>
    (h.facet f).waitingUp.isNone && (h.job f false).state != .pending && !((h.facetParts f).any fun p => (h.part p).state == .held)
  | _ => false

/-- A facet whose `aon_facet_up` is high enters the state that it waits for; one that is to be ACTIVE while the engine drains drains too
(R111, R411). -/
def Hw.enterUp (h : Hw) (f : Nat) : Hw :=
  match (h.facet f).waitingUp with
  | some st =>
    if h.pins.facetUp.testBit f then
      let h1 := h.enterRun f st
      if st = .active ∧ h.eng.state = .draining then h1.modFacet f fun x => { x with state := .draining } else h1
    else h
  | none => h

/-- Keeps the time since which a facet has met a condition of R410; one that meets none any more is driven at its working level. -/
def Hw.watchGate (h : Hw) (f : Nat) : Hw :=
  if h.mayGate f then
    if (h.facet f).idleSinceNs.isNone then h.modFacet f fun x => { x with idleSinceNs := some h.now } else h
  else
    let h1 := if (h.facet f).idleSinceNs.isSome then h.modFacet f fun x => { x with idleSinceNs := none } else h
    if h.raw 0xD010 (f + 1) = 0 ∧ (h.facet f).state ≠ .unassigned then h1.set 0xD010 (f + 1) (h.workLevel f) else h1

/-- What the units go on with in a new cc: the guaranteed slot of the background tasks (R375), store entries that are free now (R249), requests
that a rate cap held back (R65), a read response that was held (R48), the state that a drain ended for (R112), tasks that start again (R376), ring
entries to be read (R56), facets that wait for `aon_facet_up` or to be gated (R410, R411), re-projections (R302), page copies that wait for a
descriptor (R209) and flip walks (R336). -/
def Hw.ccWork (h : Hw) : Hw :=
  let h0 := (if h.eng.state = .start then h else h.bgTurns).freeEntries.memPump.hostTransfer.followTarget.bgPending.readDue
  let h1 := (h0.facets.map Prod.fst).foldl (fun a f => (a.enterUp f).watchGate f) h0
  let h2 := (h1.facets.filter fun e => e.2.reproj != []).foldl (fun a e => a.reprojectSome e.1) h1
  (if h2.pages.waits = [] then h2 else h2.retryMoves).walks

/-- A cc ends and the next begins, within a command that takes several: the transfers already made stay listed. -/
def Hw.nextCc (h : Hw) : Hw := (Hw.settle h h.countCc).advance.ccWork

/-- One cc passes in the core island. -/
def Hw.tick (h : Hw) : Hw := ({ h with out := [] } : Hw).nextCc

/-- The machine after a cc without a command. -/
def State.tick (s : State) : State := if s.live then { s with hw := s.hw.tick } else s

/-! ## Commands of one cc -/

/-- What a command does within a cc, where the manual fixes its place beside other things of the same cc. Every other command has a cc of
its own (log entry 1, DESIGN CHOICE). -/
inductive CcPart where
  /-- A Gnomon tick is seen: it fixes the stamp of its cc (R39). -/
  | gnomon
  /-- Reads of the target port and of the dictionary: before every update of their cc (R6, R57, R108, R387). -/
  | portRead
  | dictRead
  /-- The phase report of a facet, its mark (commits before the other marks, since a ledger's frees come before allocations for composition,
  R162), the releases of a delay list, the wall tick and the deadline miss of a slot (R46, R40). -/
  | report (facet : Nat)
  | mark (facet : Nat) (commit : Bool)
  | release (list : Nat)
  | wallTick
  | miss (slot : Nat)
  /-- Records, tiles and responses that arrive, by channel or lane (R79, R249, R67). -/
  | record (channel : Nat)
  | tile (lane : Nat)
  | response (channel : Nat) (write : Bool)
  /-- A plan of a facet reaches PLANNED: after the mark of its cc (R176). -/
  | planned (facet : Nat)
  /-- Writes of the dictionary: after the marks of their cc (R18), and before a doorbell (R55). -/
  | dictWrite
  | doorbell
  /-- Watchdogs: after what arrives in their cc (R67, R77). -/
  | expiry
  /-- The ack that takes the engine into RETAIN: after a state request of its cc (R413). -/
  | retain
  /-- Reads of a partition's windows: after the end of one window and the start of the next (R386). -/
  | sample
  | alone
deriving DecidableEq, Repr

/-- The order within a cc. -/
def CcPart.rank : CcPart → Nat
  | .gnomon => 0
  | .portRead => 1
  | .dictRead => 2
  | .report f => 16 + f
  | .mark f c => 32 + f + if c then 0 else 16
  | .release l => 64 + l
  | .wallTick => 0xFF
  | .miss slot => 0x100 + slot
  | .record c => 0x200000 + c
  | .tile n => 0x200010 + n
  | .response c w => 0x200020 + 2 * c + (if w then 1 else 0)
  | .planned f => 0x200030 + f
  | .dictWrite => 0x200040
  | .doorbell => 0x200041
  | .expiry => 0x200042
  | .retain => 0x200043
  | .sample => 0x200044
  | .alone => 0x300000

/-- Whether a command may be carried out in the present cc: none of its rank or of a later one has been, and none at all where it needs a
cc of its own. -/
def Hw.joins (h : Hw) (c : CcPart) : Bool := if c = .alone then h.ccNext == 0 else decide (h.ccNext ≤ c.rank)

/-- The cc in which a command is carried out: the present one, or else the next. The transfers listed are then this command's. -/
def Hw.enterCc (h : Hw) (c : CcPart) : Hw :=
  { (if h.joins c then { h with out := [] } else h.tick) with ccNext := c.rank + 1 }

/-- The same of the machine; no cc passes while the core island is unpowered or held in reset. -/
def State.enterCc (s : State) (c : CcPart) : State := if s.live then { s with hw := s.hw.enterCc c } else s

/-- Runs a command's effect on the core island, in its part of a cc. The command has no effect while the core island is unpowered or held in
reset. -/
def State.onCoreAt (s : State) (c : CcPart) (unit : Nat) (f : Hw → Hw) : State :=
  let s' := s.enterCc c
  if s.live then { s' with hw := Hw.settle s'.hw (f (s'.hw.begin unit)) } else s

/-- Runs a command's effect on the core island in a cc of its own. -/
def State.onCore (s : State) (unit : Nat) (f : Hw → Hw) : State := s.onCoreAt .alone unit f

/-- Runs a command that may find faults, in its part of a cc: they are answered in that cc (R365). -/
def State.onCoreFAt (s : State) (c : CcPart) (unit : Nat) (f : Hw → Hw) : State := s.onCoreAt c unit fun h => (f h).runFaults

/-- The same in a cc of its own. -/
def State.onCoreF (s : State) (unit : Nat) (f : Hw → Hw) : State := s.onCoreFAt .alone unit f

end Sys2Proof.Machine
end

