-- ==== Sys2Proof/Machine/Account.lean ====
section
/-! DEFINITION. Accounting periods and their records (R325 to R328, Table 13.7). -/

namespace Sys2Proof.Machine

open Sys2Proof

/-- The fields of an account, bytes 32 to 119 of Table 13.7 (R325). -/
def Hw.chargeBytes (h : Hw) (c : Charges) : List Byte :=
  leBytes 8 c.tokens ++ leBytes 8 c.prefill ++ leBytes 8 c.score ++ leBytes 8 c.spec ++ leBytes 8 c.tileCc ++ leBytes 8 c.busy ++
  leBytes 8 c.bytes ++ leBytes 8 c.energy ++ leBytes 8 c.memBytes ++ leBytes 8 (c.tileCc * h.get 0x9305 1 / 1000) ++ leBytes 8 c.ctxBytes

/-- A waiting record of an account, with nothing in it where none waits. -/
def Account.waiting (a : Account) (t : Nat) : Charges :=
  match Map.find? a.flushing t with
  | some r => r.charges
  | none => Charges.zero

/-- An account: what it has gained in this period and what its record's OKAY has not cleared yet (R328). -/
def Hw.accountOf (h : Hw) (t : Nat) : Charges :=
  let sent := match h.acct.posted with
    | some (k, r) => if k = t then r.charges else Charges.zero
    | none => Charges.zero
  ((Map.getD h.acct.accounts t Charges.zero).add (h.acct.waiting t)).add sent

/-- ACCT_VIEW of a tenant. -/
def Hw.acctView (h : Hw) (t : Nat) : List Byte := List.replicate 32 0 ++ h.chargeBytes (h.accountOf t) ++ List.replicate 8 0

/-- One accounting record: its place in the ring gives the phase bit (Table 13.7). -/
def Hw.acctRecord (h : Hw) (t : Nat) (r : AcctRec) : List Byte :=
  let i := h.raw 0x9303 1
  let body := leBytes 2 t ++ [BitVec.ofNat 8 ((i / h.get 0x9301 1 + 1) % 2 + if 1 < r.periods then 2 else 0), 0] ++ leBytes 4 r.periods ++
    leBytes 8 r.start ++ leBytes 8 r.stop ++ leBytes 8 h.acct.record ++ h.chargeBytes r.charges ++ [0, 0, 0, 0]
  body ++ leBytes 4 (crc32c body).toNat

/-- Whether the accounting ring is full. -/
def Hw.acctFull (h : Hw) : Bool := decide (h.get 0x9301 1 ≤ sub32 (h.raw 0x9303 1) (h.raw 0x9304 1))

/-- Writes the next waiting record, in ascending tenant number with the fault account last, where the ring has room (R328). -/
def Hw.postAccount (h : Hw) : Hw :=
  if h.acct.posted.isSome ∨ h.acctFull then h
  else match h.acct.flushing with
    | [] => h
    | (t, r) :: rest =>
      let h1 : Hw := { h with acct := { h.acct with flushing := rest, posted := some (t, r), record := h.acct.record + 1 } }
      h1.memPost true (h.raw 0x9300 1 + h.raw 0x9303 1 % h.get 0x9301 1 * 128) 2 (h.acctRecord t r) .account none (.accountRecord t)

/-- Records go out as long as no foreground request waits and the task runs (R375). -/
def Hw.flowAccount (h : Hw) : Hw := if h.mem.queue = [] ∧ (h.task 4).state ≠ 0 then h.postAccount else h

/-- An accounting record has its OKAY: the account is cleared of it and ACCT_WRITTEN advances (R328). -/
def Hw.accountDone (h : Hw) : Hw :=
  ({ h.set 0x9303 1 ((h.raw 0x9303 1 + 1) % 2 ^ 32) with acct := { h.acct with posted := none } } : Hw).flowAccount

/-- A record whose write was dropped: its charges wait again, since no charge is lost (R328). -/
def Hw.accountLost (h : Hw) : Hw :=
  match h.acct.posted with
  | some (t, r) => { h with acct := { h.acct with posted := none, flushing := joinRecord h.acct.flushing t r true } }
  | none => h

/-- An accounting period has ended: its records begin to go out; a flush that waits on a full ring counts (R328). -/
def Hw.accountBoundary (h : Hw) : Hw :=
  let h1 := h.rollAccounts
  if h1.acct.due then
    let h2 : Hw := { h1 with acct := { h1.acct with due := false } }
    (if h2.acctFull ∧ h2.acct.flushing ≠ [] then h2.inc 0x9306 1 else h2).flowAccount
  else h1

/-- ACCOUNTING_PERIOD_BOUNDARY. -/
def execAccountingPeriodBoundary (s : State) : Host.Outcome State Fault Refusal := .next (s.onCore 0x0C Hw.accountBoundary)

end Sys2Proof.Machine
end

