-- ==== Sys2Proof/Machine/Background.lean ====
section
/-! DEFINITION. Background tasks: debts, their slots and shut-down (R375, R376), and the frozen window's GAP record (R393). -/

namespace Sys2Proof.Machine

open Sys2Proof

/-- While SCRUB is OFF and its debt has passed its bound, one S2 event a period (R376). -/
def Hw.scrubWatch (h : Hw) : Hw :=
  let x := h.task 0
  let k := (h.now - x.sinceNs) / h.bgPeriod 0 + 1
  if x.state = 0 ∧ x.warned < k ∧ h.get 0xA053 1 < h.bgDebt 0 then
    (h.modTask 0 fun y => { y with warned := k }).event 0 (376 * 16) 2 none none
  else h

/-- A write of BG_ENABLE (R376): false starts the shut-down, or clears a pending enable; true starts the task, or is recorded as pending
while the shut-down runs. -/
def Hw.bgEnable (h : Hw) (t v : Nat) : Hw :=
  let h1 := h.set 0xA050 (t + 1) v
  match (h.task t).state with
  | 0 => if v = 1 then h1.bgStart t else h1
  | 1 => if v = 1 then h1 else h1.modTask t fun x => { x with state := 2, pending := false }
  | _ => h1.modTask t fun x => { x with pending := v == 1 }

/-- A shut-down is over: a flush task holds nothing any more. The task reads OFF, and starts again in the next cc where an enable is pending
(R376). -/
def Hw.bgStopped (h : Hw) (t : Nat) : Hw :=
  if (h.task t).state ≠ 2 ∨ (3 ≤ t ∧ h.flushHeld t ≠ 0) then h
  else h.modTask t fun y => { y with state := 0 }

/-- Writes the next trace record that waits, at its place in the ring (R388). -/
def Hw.postTrace (h : Hw) : Hw :=
  match h.trace.buffer.find? fun e => !(h.memWaiting fun u => u == .traceRecord e.1) with
  | some (i, l) => h.memPost true (h.raw 0xB030 1 + i % h.traceRecords * 32) 1 l .trace none (.traceRecord i)
  | none => h

/-- One unit of a task's work: a pass task completes a unit, at most W ahead; a flush task writes its next record (R375). -/
def Hw.bgWork (h : Hw) (t : Nat) : Hw :=
  match t with
  | 3 => h.postTrace
  | 4 => h.postAccount
  | 5 => (if h.persistHeld = 0 then h else h.persistOldest).writeEvent
  | _ =>
    let x := h.task t
    if x.done < taskWork t * (h.now - x.sinceNs) / h.bgPeriod t + taskWork t then h.modTask t fun y => { y with done := y.done + 1 } else h

/-- Whether a foreground request waits for a memory channel: one of a purpose other than the flushes' own (R375, Table 15.5). -/
def Hw.foregroundWaits (h : Hw) : Bool :=
  h.mem.queue.any fun r => r.purpose != .trace && r.purpose != .account && r.purpose != .event

/-- BACKGROUND_SLOT: a task that is not OFF takes a slot. A guaranteed one counts; a flush task yields any other to a foreground request
(R375, R402). -/
def Hw.bgSlot (h : Hw) (unit t : Nat) : Hw :=
  if (h.task t).state = 0 ∨ h.eng.state = .start then h.markIdle unit
  else if h.bgGuaranteed t then (h.inc 0xA055 (t + 1)).bgWork t
  else if 3 ≤ t ∧ h.foregroundWaits then h.markIdle unit
  else h.bgWork t

/-- The unit that carries a task's work. -/
def bgUnit (t : Nat) : Nat := [0x0C, 0x0C, 6, 0x0C, 0x0C, 0x0D].getD t 0

/-- BACKGROUND_SLOT. -/
def execBackgroundSlot (task : Fin 6) (s : State) : Host.Outcome State Fault Refusal :=
  .next (s.onCore (bgUnit task.val) fun h => h.bgSlot (bgUnit task.val) task.val)

/-- BG_SHUTDOWN_COMPLETE. -/
def execBgShutdownComplete (task : Fin 6) (s : State) : Host.Outcome State Fault Refusal :=
  .next (s.onCore (bgUnit task.val) fun h => h.bgStopped task.val)

/-! ## The frozen window -/

/-- The GAP record of a frozen window with its present count. -/
def Hw.gapBytes (h : Hw) (i : Nat) : List Byte :=
  traceBytes h.trace.gapStamp (i % 2 ^ 32) 15 0x0C none (leBytes 8 h.trace.gapCount ++ [2])

/-- Rewrites the GAP record of the frozen window where its count has changed (R393). -/
def Hw.gapRewrite (h : Hw) : Hw :=
  match h.trace.gapIndex with
  | none => h
  | some i =>
    if h.trace.gapWritten = h.trace.gapCount then h
    else
      let rest := if h.memWaiting fun u => u == .traceRecord i then h.trace.buffer else h.trace.buffer.filter fun e => e.1 ≠ i
      { h with trace := { h.trace with buffer := rest ++ [(i, h.gapBytes i)], gapWritten := h.trace.gapCount } }

/-- A write of true to TRACE_UNFREEZE: the GAP record is rewritten a last time and recording goes on behind it (R393). -/
def Hw.unfreeze (h : Hw) : Hw :=
  let h1 := h.gapRewrite
  { h1.set 0xB038 1 0 with trace := { h1.trace with gapIndex := none, gapCount := 0, gapWritten := 0 } }

end Sys2Proof.Machine
end

