-- ==== Sys2Proof/Machine/Commit.lean ====
section
/-! DEFINITION. A facet's commit: what the open ledger's changes become, the journal that carries them to memory, and what a commit lets
go on (R19, R92, R130, R138, R141, R158 to R161, R168, R171, R193, R202, R314, R339, R340, R373). -/

namespace Sys2Proof.Machine

open Sys2Proof

/-! ## Incomplete plans -/

/-- Pages of a sequence that stay when an incomplete plan is withdrawn: those committed, those its KV fills, and those that plans
already dispatched need. -/
def Hw.pagesKept (h : Hw) (f slot : Nat) (q : Seq) : Nat :=
  let P := h.pageTokens (h.modelOf q.cur)
  let held := (q.pagesCur.takeWhile fun r => q.pagesCom.any fun x => x.pool == r.pool && x.page == r.page).length
  let need := (((h.facet f).plans.flatMap fun p => p.places).filter fun c => c.slot == slot && c.isOpen && !c.noKv).map fun c =>
    ceilDiv (c.start + c.span) P
  max held (max (need.foldl max 0) (ceilDiv q.cur.kvTokens P))

/-- Withdraws what an incomplete plan of step `n` has taken for one sequence (R143, R193 step 1, R293). -/
def Hw.withdrawPlace (h : Hw) (f n : Nat) (c : Place) : Hw :=
  match h.seq? c.slot with
  | none => h
  | some q =>
    let keep := h.pagesKept f c.slot q
    let h1 := (q.pagesCur.drop keep).reverse.foldl (fun a r => a.unallocPage (r.pool, r.page)) h
    let blocks := 1 + leavesFor (min keep q.pagesCur.length)
    let suspended := c.kind == .decode && q.com.spec.suspend == q.cur.spec.suspend + 1
    let cur := if suspended then { q.cur with spec := { q.cur.spec with suspend := q.cur.spec.suspend + 1 } } else q.cur
    (h1.freeBlocks (q.blocks.drop blocks)).setSeq c.slot
      { q with pagesCur := q.pagesCur.take keep, blocks := q.blocks.take blocks, cur := cur,
               resQueue := q.resQueue.filter fun e => e.1 != n, resRing := q.resRing.filter fun e => e.1 != n }

/-- Withdraws the composition of a facet (R193 step 1). -/
def Hw.withdrawPlan (h : Hw) (f : Nat) : Hw :=
  match (h.facet f).composing with
  | none => h.modFacet f fun x => { x with tes := .idle }
  | some p =>
    let h1 := p.tags.foldl Hw.retire h
    let h2 := p.places.foldl (fun a c => a.withdrawPlace f p.step c) h1
    let trees := (p.places.filter fun c => c.kind == .tree).length
    ({ h2 with secUsed := h2.secUsed - trees } : Hw).modFacet f fun x => { x with composing := none, tes := .idle }

/-! ## Sealing -/

/-- Tokens of a sequence by position: the prompt, then the emitted or the given ones. -/
def Seq.allTokens (q : Seq) : List Nat := q.prompt ++ if q.cur.scores then q.given else q.tokensCur

/-- Seals a sequence's page `j` with its prefix key, and offers it to the index (R159, R161). -/
def Hw.sealPage (h : Hw) (slot j : Nat) (key : Option (Nat × List Nat)) : Hw :=
  match h.seq? slot with
  | none => h
  | some q =>
    match q.pagesCur[j]? with
    | none => h
    | some r =>
      let h1 := h.setSeq slot { q with pagesCur := q.pagesCur.set j { r with isSealed := true } }
      match key with
      | some (k, toks) =>
        let i := h1.pageInfo (r.pool, r.page)
        (h1.setPage (r.pool, r.page) { i with key := k, tokens := toks }).indexInsert k (r.pool, r.page)
      | none => h1

/-- Seals the pages that a ledger has filled (R159). -/
def Hw.sealPages (h : Hw) (slot : Nat) : Hw :=
  match h.seq? slot with
  | none => h
  | some q =>
    let m := h.modelOf q.cur
    let P := h.pageTokens m
    let full := min (q.cur.kvTokens / P) q.pagesCur.length
    let keys := if h.getAt 0x4101 9 m = 1 then prefixKeys P full (rootKey m q.cur.version) q.allTokens else []
    (List.range full).foldl (fun a j =>
      if (q.pagesCur[j]?.map fun r => r.isSealed).getD true then a else a.sealPage slot j keys[j]?) h

/-! ## One sequence -/

/-- Affinity after a commit that changes a sequence's pages (R168). -/
def Hw.affinityOf (h : Hw) (f : Nat) (pages : List PageRef) : Nat :=
  let parts := h.facetParts f
  let lowest := parts.head?.getD 0
  let pools := distinct (pages.map fun r => r.pool)
  match pools.foldl (fun (best : Option (Nat × Nat)) k =>
      let n := (pages.filter fun r => r.pool = k).length
      match best with
      | none => some (k, n)
      | some b => if b.2 < n ∨ (b.2 = n ∧ k < b.1) then some (k, n) else best) none with
  | some (k, _) => (parts.find? fun p => (h.getAt 0x4001 5 k).testBit p).getD lowest
  | none => lowest

/-- The pages of a list as pairs. -/
def pagePairs (l : List PageRef) : List (Nat × Nat) := l.map fun r => (r.pool, r.page)

/-- What the commit of step `n` makes of one sequence: its pages are sealed, what it gave up is freed, an ended sequence gives up
everything but its slot, and its open-ledger part becomes committed. Answers the lines of its own that it changes, and the pages it newly
maps (R132, R156 to R161, R168). -/
def Hw.commitSeq (h : Hw) (f n slot : Nat) : Hw × List Line × List (Nat × Nat) :=
  match h.seq? slot with
  | none => (h, [], [])
  | some old =>
    if old.cur = old.com ∧ old.pagesCur = old.pagesCom then (h, [], [])
    else
      let ended := old.cur.state == .ended
      let h1 := h.sealPages slot
      let pages := ((h1.seq? slot).map fun q => q.pagesCur).getD []
      let sealedNow := (pages.zip (List.range pages.length)).filterMap fun e =>
        if e.1.isSealed ∧ !((old.pagesCur[e.2]?.map fun r => r.isSealed).getD true) ∧ (h1.pageInfo (e.1.pool, e.1.page)).tokens ≠ [] then
          some (e.1.pool, e.1.page) else none
      let kept := if ended then [] else pages
      let gone := pagesMinus old.pagesCom kept ++ if ended then pagesMinus pages old.pagesCom else []
      let h2 := gone.foldl (fun a r => a.dropRef (r.pool, r.page)) h1
      let keepBlocks := if ended then 0 else 1 + leavesFor kept.length
      let h3 := h2.freeBlocks (old.blocks.drop keepBlocks)
      let v0 := { old.cur with lastStep := n }
      let v1 := if kept = old.pagesCom ∨ ended then v0 else { v0 with affinity := h3.affinityOf f kept }
      let v2 := if ended then { v1 with reservedTok := 0 } else v1
      let h4 := if ended then h3.setAt 0x3101 0xE v1.tenant (h3.getAt 0x3101 0xE v1.tenant - v1.reservedTok) else h3
      let new := { old with com := v2, cur := v2, pagesCom := kept, pagesCur := kept, blocks := old.blocks.take keepBlocks,
                            stale := if ended then [] else staleAfter old.stale old.pagesCom kept, tokensCom := old.tokensCur }
      let h5 := h4.setSeq slot new
      (h5, h5.seqLines slot old new ++ sealedNow.flatMap (h5.tokenLines v2.tenant), pagePairs (pagesMinus kept old.pagesCom))

/-! ## The journal -/

/-- Bytes of a journal entry (R373). -/
def journalBytes (step : Nat) (l : Line) : List Byte := leBytes 8 l.addr ++ leBytes 8 step ++ slice l.data 0 64

/-- Where `n` bytes go in a journal of `size` bytes from offset `off`: at its start where they no longer fit. -/
def journalPlace (size off n : Nat) : Nat := if off + n ≤ size then off else 0

/-- The seal of a committed step (Table 15.2). -/
def Hw.sealBytes (h : Hw) (g : JGroup) : List Byte :=
  let hdr := leBytes 8 g.step ++ leBytes 4 g.lines.length ++ leBytes 4 g.pairs.length ++ leBytes 8 g.first ++ leBytes 4 (h.raw 0xA103 1) ++
    List.replicate 32 0
  let pairs := g.pairs.flatMap fun p => leBytes 4 p.1 ++ leBytes 4 p.2
  hdr ++ leBytes 4 (crc32c (hdr ++ g.lines.flatMap (journalBytes g.step) ++ pairs)).toNat ++ pairs

/-- Changes a facet's journal. -/
def Hw.modJournal (h : Hw) (f : Nat) (g : Journal → Journal) : Hw :=
  { h with journal := Map.insert h.journal f (g (Map.getD h.journal f Journal.reset)) }

/-- Writes bytes at a facet's journal's next place. -/
def Hw.journalWrite (h : Hw) (f : Nat) (l : List Byte) (tenant : Option Nat) (use : MemUse) : Hw :=
  let j := Map.getD h.journal f Journal.reset
  let at_ := journalPlace (h.raw 0xA031 (f + 1)) j.next l.length
  (h.writeBytes (h.raw 0xA030 (f + 1) + at_) l .locus tenant use).modJournal f fun x => { x with next := at_ + l.length }

/-- Whether every delivery entry of a queue below a mark has its OKAY. -/
def Hw.deliveredBelow (h : Hw) (q k : Nat) : Bool :=
  !h.memWaiting fun u => match u with
    | .deliveryEntry q' i => q' == q && decide (0 < sub32 k i) && decide (sub32 k i < 2 ^ 31)
    | _ => false

/-- Takes a facet's oldest unapplied step as far as the OKAYs received allow: the seal after the entries and deliveries, the tables after
the seal, and then the applied pointer (R373). `fuel` bounds the stages passed at once. -/
def Hw.journalAdvance (h : Hw) (f : Nat) : Nat → Hw
  | 0 => h
  | fuel + 1 =>
    let j := Map.getD h.journal f Journal.reset
    match j.groups with
    | [] => h
    | g :: rest =>
      let setStage := fun (a : Hw) (s : Nat) => a.modJournal f fun x => { x with groups := { g with stage := s } :: rest }
      match g.stage with
      | 0 =>
        if (h.memWaiting fun u => u == .journalEntry f g.step) || !(g.pairs.all fun p => h.deliveredBelow p.1 p.2) then h
        else setStage (h.journalWrite f (h.sealBytes g) none (.journalSeal f)) 1
      | 1 =>
        if (h.memWaiting fun u => u == .journalSeal f) then h
        else
          let h1 := g.lines.foldl (fun a l => a.memPost true l.addr 1 l.data .locus l.tenant (.tableLine f)) h
          Hw.journalAdvance (setStage h1 2) f fuel
      | _ =>
        if (h.memWaiting fun u => u == .tableLine f) then h
        else Hw.journalAdvance (h.modJournal f fun x => { x with groups := rest, applied := x.next }) f fuel

/-- Enters a committed step into its facet's journal (R373). -/
def Hw.journalStep (h : Hw) (f n : Nat) (lines : List Line) (before : List (Nat × Option Seq)) : Hw :=
  let pairs := (h.queuesOf f).map fun q => (q, (h.queue q).k)
  let first := journalPlace (h.raw 0xA031 (f + 1)) (Map.getD h.journal f Journal.reset).next 80
  let h1 := lines.foldl (fun a l => a.journalWrite f (journalBytes n l) l.tenant (.journalEntry f n)) h
  let g : JGroup := { step := n, first := first, lines := lines, pairs := pairs, stage := 0, before := before }
  (h1.modJournal f fun j => { j with groups := j.groups ++ [g] }).journalAdvance f 4

/-! ## Positions and plans -/

/-- Whether a plan is over: nothing open, every position released, every descriptor free. -/
def Hw.planOver (h : Hw) (p : Plan) : Bool :=
  (p.places.all fun c => !c.isOpen) && (p.positions.all fun x => x.status == .released) &&
  p.tags.all fun t => match h.desc? t with
    | some d => !(d.owner == .plan && d.step == p.step)
    | none => true

/-- Whether a sequence's reservation for step `n` is still held (R143). -/
def Hw.reservationHeld (h : Hw) (f slot n : Nat) : Bool :=
  (h.livePlans f).any fun p => p.step == n && (p.positions == [] || p.holds slot ||
    p.positions.any fun x => x.slot == slot && x.needs && x.status != .decided && x.status != .released)

/-- Returns the reservations whose results have committed (R143, R340). -/
def Hw.returnReservations (h : Hw) (f : Nat) : Hw :=
  (h.slotsOf f).foldl (fun a s => a.modSeq s fun q =>
    { q with resQueue := q.resQueue.filter fun e => h.reservationHeld f s e.1,
             resRing := q.resRing.filter fun e => h.reservationHeld f s e.1 }) h

/-! ## Experience records -/

/-- Writes one experience record of a committed token, with its phase and lag (R339, R340). -/
def Hw.writeExperience (h : Hw) (e : Nat × Nat) : Hw :=
  if e.1 ≥ 64 then h.inc 0x8202 1
  else
    let r := e.1
    let w := Map.getD h.expRings r (0, 0)
    let n := h.getAt 0x8201 2 r
    let version := e.2 / 2 ^ 160 % 2 ^ 32
    let model := e.2 / 2 ^ 192 % 256
    let lag := min 255 (h.currentVersion model - version)
    let x := e.2 + (w.1 / n + 1) % 2 * 2 ^ 127 + lag * 2 ^ 200
    let a := h.getAt 0x8201 1 r + 64 + w.1 % n * 32
    let h1 := h.memPost true a 1 (leBytes 32 x) .exper (some (h.getAt 0x8201 3 r)) (.experience r w.1)
    { h1 with expRings := Map.insert h1.expRings r ((w.1 + 1) % 2 ^ 32, w.2) }

/-! ## The commit -/

/-- Ends the sequences of a facet that a cancel or a deadline has asked to end (R130, R308); their open positions are vacated. -/
def Hw.endAsked (h : Hw) (f : Nat) : Hw :=
  (h.slotsOf f).foldl (fun a s => match a.seq? s with
    | some q => match q.cancelAsked with
      | some r =>
        if q.cur.state = .ended then a
        else
          let a1 := (a.endSeq s r).vacateAfter f s 0
          if r = .deadline then
            let a2 := a1.inc 0x9018 (f + 1)
            if a2.modeNow f = 2 then a2.inc 0x5013 (f + 1) else a2
          else a1
      | none => a
    | none => a) h

/-- Sequences asked to migrate whose results are all in the committing ledger enter MIGRATING (R147); answers their slots. A result of the same
cc is recorded after the commit and keeps its place held (Machine/Tick.lean), so no sequence with one enters. One whose KV has been reset since
it was asked enters from PREFILL. -/
def Hw.enterMigrating (h : Hw) (f : Nat) : Hw × List Nat :=
  let l := (h.slotsOf f).filter fun s => match h.seq? s with
    | some q => q.migrateAsked && (q.cur.state == .decode || q.cur.state == .prefill) && !((h.livePlans f).any fun p => p.holds s)
    | none => false
  (l.foldl (fun a s => a.modCur s fun v => { v with state := .migrating }) h, l)

/-- Sends a LIVE message and waits for its reply (R147, R148). The sequence's queue keeps a place for the MIGRATED entry. -/
def Hw.sendLive (h : Hw) (slot : Nat) : Hw :=
  match h.seq? slot with
  | none => h
  | some q =>
    let id := h.fed.nextMsg
    let dest := h.raw 0x3050 1
    let msg := migrationMessage 2 (h.raw 0x8300 1) dest id (handleOf slot q.com) q.com.tag.toNat 0 0 (liveBody q.com (q.prompt ++ q.tokensCom))
    let h1 := h.fedSend dest 1 msg
    let m : Migration :=
      { msgId := id, queue := q.com.queue, slot := some slot, handle := handleOf slot q.com, dest := dest, sinceNs := h.now, reply := none }
    ({ h1 with fed := { h1.fed with nextMsg := (id + 1) % 2 ^ 32, migrations := h1.fed.migrations ++ [m] } } : Hw).modQueue
      q.com.queue fun x => { x with migReserved := x.migReserved + 1 }

/-- Deadlines that a commit meets (R42, R308). -/
def Hw.countMet (h : Hw) (f : Nat) : Nat :=
  (h.seqs.filter fun e =>
    e.2.com.facet == f && e.2.com.cls == .dl && e.2.com.state != .ended && e.2.cur.state == .ended && decide (h.now ≤ e.2.cur.deadline) &&
    (e.2.cur.endReason == some .endToken || e.2.cur.endReason == some .stop || e.2.cur.endReason == some .length)).length

/-- The ledger of a facet commits: accounts, budgets, queues, sequences, experience records and the journal (R19, R132, R141, R327). -/
def Hw.commitLedger (h : Hw) (f : Nat) (late : Bool) : Hw :=
  let n := (h.facet f).step
  let h1 := h.endAsked f
  let (h2, migrating) := h1.enterMigrating f
  let l := (h2.facet f).ledger
  let met := h2.countMet f
  let h3 := if met > 0 then h2.bump 0x9014 (f + 1) met else h2
  let h4 := l.charges.foldl (fun a e => a.chargeNow e.1 e.2) h3
  let h5 := l.moves.foldl (fun a e =>
    (a.bumpAt 0x3101 0xD e.1 e.2).setAt 0x3101 0xE e.1 (a.getAt 0x3101 0xE e.1 - e.2)) h4.rollBudget
  let slots := h5.slotsOf f
  let before := slots.map fun s => (s, h5.seq? s)
  let r := slots.foldl (fun (acc : Hw × List Line × List (Nat × Nat)) s =>
    let x := acc.1.commitSeq f n s
    (x.1, acc.2.1 ++ x.2.1, acc.2.2 ++ x.2.2)) (h5, [], [])
  let lines := r.2.1 ++ r.1.infoLines (distinct (r.2.2 ++ Hw.changedPages h5 r.1)) ++ (Hw.changedBuckets h5 r.1).map r.1.bucketLine
  let published := ((h5.queuesOf f).map fun q => sub32 (h5.queue q).w (h5.queue q).k).sum
  let h6 := (h5.queuesOf f).foldl (fun a q => a.modQueue q fun x => { x with k := x.w }) r.1
  let changed := before.filter fun e => e.2 != h6.seq? e.1
  let h7 := if lines = [] ∧ published = 0 then h6 else h6.journalStep f n lines changed
  let h8 := l.emitted.foldl Hw.writeExperience h7
  let h9 := (h8.modFacet f fun x => { x with ledger := Ledger.empty }).commitMigrations f
  let h10 := (h9.livePlans f).foldl (fun a p => a.releasePlan f p) h9
  let h11 := h10.returnReservations f
  let h12 := (h11.slotsOf f).foldl Hw.hostWindow (migrating.foldl Hw.sendLive h11)
  h12.traceRec 5 0x0C (some f) (leBytes 8 n ++ leBytes 4 published ++ [if late then 1 else 0])

/-- The fault count returns to 0 at a commit that holds results, with no recovery running (R370). -/
def Hw.clearFaults (h : Hw) (f : Nat) (results : List (Nat × Nat)) : Hw :=
  if results ≠ [] ∧ !(h.facet f).recovering then
    (h.set 0xA006 (f + 1) 0).modFacet f fun x => { x with episode := [] }
  else h

/-- Energies and positions of the last 16 committed steps (R199, R412). -/
def Hw.noteStep (h : Hw) (f : Nat) : Hw :=
  h.modFacet f fun x => { x with
    energies := (x.stepEnergy :: x.energies).take 16, stepEnergy := 0,
    positionsRun := ((positionsOf ((x.plans.filter fun p => p.step == x.step).flatMap fun p => p.places)) :: x.positionsRun).take 16 }

/-- Drops the plans that are over. -/
def Hw.dropOver (h : Hw) (f : Nat) : Hw :=
  h.modFacet f fun x => { x with plans := x.plans.filter fun p => decide (x.step < p.step) || !h.planOver p }

/-- Stops a facet at a commit: its plans retire and it enters STANDBY (R111). -/
def Hw.stopFacetNow (h : Hw) (f : Nat) : Hw := (h.leavePlans f).enterStandby f false

/-- Whether every position of every step already run has its result in a committed ledger. -/
def Hw.allIn (h : Hw) (f : Nat) : Bool :=
  (h.facet f).plans.all fun p => (p.places.all fun c => !c.isOpen) &&
    p.positions.all fun x => !x.needs || x.status == .decided || x.status == .released

/-- What a commit lets a facet do: leave DRAINING, end its generation slice, or stop (R111, R202, R314). -/
def Hw.leaveAtCommit (h : Hw) (f : Nat) (empty : Bool) : Hw :=
  let x := h.facet f
  let started := h.seqs.any fun e => e.2.com.facet == f && e.2.com.started
  if x.stopAtCommit then h.stopFacetNow f
  else if x.noPlacing then (if empty ∧ h.allIn f then (h.leavePlans f).enterStandby f true else h)
  else if x.state = .draining ∧ empty ∧ !started then (h.leavePlans f).enterStandby f false
  else h

/-- M_COMMIT of a facet (R19, R34, R176, R193, R194, R302). -/
def Hw.commit (h : Hw) (f : Nat) (late : Bool) : Hw :=
  let x := h.facet f
  if x.state = .exclusive then (h.commitLedger f late).reprojectAll f
  else
    let n := x.step
    let ready := x.tes == .planned || x.plans.any fun p => p.step == n + 1
    let h1 := if ready then h else h.withdrawPlan f
    let results := (h1.facet f).ledger.results
    let h2 := ((h1.commitLedger f late).clearFaults f results).noteStep f
    let before := ((x.plans.find? fun p => p.step == n).map fun p => p.places).getD []
    let h3 : Hw :=
      if x.tes = .planned then
        (h2.modFacet f fun y => { y with
          plans := y.plans ++ (match y.composing with | some p => [p] | none => []), composing := none, tes := .idle }).set
            0x5011 (f + 1) 0
      else if ready then h2
      else
        let run := h2.raw 0x5011 (f + 1) + 1
        let a := (h2.inc 0x5010 (f + 1)).set 0x5011 (f + 1) run
        let b := if run % 16 = 0 then a.event 4 (194 * 16) 3 (some f) none else a
        let c := if b.modeNow f = 2 then b.inc 0x5013 (f + 1) else b
        (c.modFacet f fun y => { y with entryPlan := false }).composeCarry f (n + 1) before
    let h4 := (h3.dropOver f).reprojectAll f
    let empty := ((h4.livePlans f).filter fun p => p.step == n + 1).all fun p => p.places == []
    h4.leaveAtCommit f empty

end Sys2Proof.Machine
end

