-- ==== Sys2Proof/Machine/Phase.lean ====
section
/-! DEFINITION. The phase of a step: reports, begins, the five marks and the phase stall (R27 to R35, R169, R176, R180, R412). -/

namespace Sys2Proof.Machine

open Sys2Proof

/-! ## Marks -/

/-- Value of a mark in a set. -/
def Marks.value (m : Marks) : Mark → Nat
  | .compose => m.compose
  | .pfetch => m.pfetch
  | .draft => m.draft
  | .capture => m.capture
  | .commit => m.commit

/-- Codes of the marks in a MARK trace record (Table 16.4). -/
def Mark.code : Mark → Nat
  | .compose => 0 | .pfetch => 1 | .draft => 2 | .capture => 3 | .commit => 4

/-- The marks that fire on a facet: in EXCLUSIVE only `M_CAPTURE` and `M_COMMIT` (R30). -/
def FacetState.marks : FacetState → List Mark
  | .exclusive => [.capture, .commit]
  | _ => [.compose, .pfetch, .draft, .capture, .commit]

/-- The marks of the running step that have not fired, in ascending order of value (R33, R34). -/
def Facet.unfired (x : Facet) : List Mark :=
  if x.state.runs && x.stepRuns then
    sortBy (fun a b => decide (x.marks.value a < x.marks.value b)) (x.state.marks.filter fun m => !x.fired.contains m)
  else []

/-- Whether a mark is the next to fire on a facet, and the reported phase has reached it (R33). -/
def Facet.due (x : Facet) (m : Mark) : Bool :=
  match x.unfired with
  | a :: _ => a == m && decide (x.marks.value m ≤ x.phase)
  | [] => false

/-- The marks staged for a facet: 0x5200 to 0x5204 (R32). -/
def Hw.stagedMarks (h : Hw) (f : Nat) : Marks :=
  { compose := h.get 0x5200 (f + 1), pfetch := h.get 0x5201 (f + 1), draft := h.get 0x5202 (f + 1),
    capture := h.get 0x5203 (f + 1), commit := h.get 0x5204 (f + 1) }

/-! ## What each mark does -/

/-- Whether a composition of step `n` may start: none is in progress or complete (Table 8.2, R366 step 5). -/
def Hw.mayCompose (h : Hw) (f n : Nat) : Bool :=
  let x := h.facet f
  x.composing.isNone && !x.recovering && !x.plans.any fun p => p.step == n

/-- `M_COMPOSE`: SCAN of step N + 1 starts (R176). -/
def Hw.markCompose (h : Hw) (f : Nat) : Hw :=
  let n := (h.facet f).step + 1
  if h.mayCompose f n then h.compose f n else h

/-- `M_PREFETCH`: the KV lists and bias reads of a plan that is PLANNED (R169, R253). -/
def Hw.markPrefetch (h : Hw) (f : Nat) : Hw :=
  let x := h.facet f
  match x.tes, x.composing with
  | .planned, some p =>
    if p.listsSent then h
    else (h.sendLists f p).modFacet f fun y => { y with composing := some { p with listsSent := true } }
  | _, _ => h

/-- One DECODE position in place of a tree (R180). -/
def Place.decoded (c : Place) : Place := if c.kind = .tree then { c with kind := .decode, count := 1, tree := none } else c

/-- A sequence's reservations for step `n` once its tree is a DECODE position (R143). -/
def Seq.reserveOne (q : Seq) (n : Nat) : Seq :=
  { q with resQueue := q.resQueue.map fun e => if e.1 = n then (n, reserveCount q.cur 1) else e,
           resRing := q.resRing.map fun e => if e.1 = n then (n, 1) else e }

/-- `M_DRAFT`: a plan that is complete has its DRAFT commands released; one that is not keeps a DECODE position for each tree, and each
tree so replaced counts in 0x7209 (R180, R282). -/
def Hw.markDraft (h : Hw) (f : Nat) : Hw :=
  let x := h.facet f
  match x.composing with
  | none => h
  | some p =>
    if x.tes = .planned then h.modFacet f fun y => { y with composing := some { p with frozen := true } }
    else
      let trees := p.places.filter fun c => c.kind == .tree
      let places := p.places.map Place.decoded
      let h1 := trees.foldl (fun a c => a.modSeq c.slot fun q => q.reserveOne p.step) h
      let h2 := if trees = [] then h1 else h1.bump 0x7209 1 trees.length
      ({ h2 with secUsed := h2.secUsed - trees.length } : Hw).modFacet f fun y => { y with
        composing := some { p with frozen := true, places := places, charge := (places.map h.placeCharge).sum } }

/-- The measured power of a facet at a capture, in mW: the energy of its last 16 committed steps over their wall time (R412). -/
def Hw.chordPower (h : Hw) (f : Nat) : Option Nat :=
  let x := h.facet f
  let k := x.energies.length
  let first := x.stepBegins[if x.fired.contains .commit then k - 1 else k]?
  match first with
  | some t => if k = 0 ∨ h.now ≤ t then none else some (x.energies.sum * 1000 / (h.now - t))
  | none => none

/-- A Chord facet's level after a capture (R412). -/
def Hw.chordAdjust (h : Hw) (f : Nat) : Hw :=
  let cap := h.paramNow f 0xF
  if h.modeNow f ≠ 3 ∨ cap = 0 then h
  else match h.chordPower f with
    | none => h
    | some p =>
      let level := h.raw 0xD010 (f + 1)
      let h1 := h.set 0xD013 (f + 1) (min p (2 ^ 32 - 1))
      if p > cap * 1000 ∧ level > 1 then
        (h1.set 0xD010 (f + 1) (level - 1)).modFacet f fun x => { x with raiseRun := 0 }
      else if p ≤ cap * 1000 ∧ p * 256 < cap * 1000 * h.get 0xD012 (f + 1) ∧ level < h.get 0xD011 (f + 1) then
        let run := (h.facet f).raiseRun + 1
        if run = 16 then (h1.set 0xD010 (f + 1) (level + 1)).modFacet f fun x => { x with raiseRun := 0 }
        else h1.modFacet f fun x => { x with raiseRun := run }
      else h1.modFacet f fun x => { x with raiseRun := 0 }

/-- The complete plan of step N + 1, whether it waits in TES or is the dispatch graph already. -/
def Facet.nextPlan (x : Facet) : Option Plan :=
  if x.tes = .planned then x.composing else x.plans.find? fun p => p.step == x.step + 1

/-- `M_CAPTURE`: plan totals are latched, the STEP record is written, and a Chord facet's level is adjusted (R30, R389, R412). -/
def Hw.markCapture (h : Hw) (f : Nat) (late : Bool) : Hw :=
  let x := h.facet f
  let h1 := match x.nextPlan with
    | some p => (((h.set 0x5014 (f + 1) p.places.length).set 0x5015 (f + 1) (positionsOf p.places)).set 0x5016 (f + 1) p.charge).set
        0x5017 (f + 1) (x.composeCc % 2 ^ 32)
    | none => h
  let run := x.plans.find? fun p => p.step == x.step
  let places := match run with | some p => p.places | none => []
  let carry := match run with | some p => p.carry | none => false
  let h2 := h1.traceRec 1 0x0C (some f) (leBytes 8 x.step ++ leBytes 2 places.length ++ leBytes 4 (positionsOf places) ++
    [(if carry then 1 else 0) + if late then 2 else 0])
  h2.chordAdjust f

/-- A mark fires on a facet: it is counted, recorded and does what Table 2.2 says (R30, R33, R34). -/
def Hw.fireMark (h : Hw) (f : Nat) (late : Bool) (m : Mark) : Hw :=
  let x := h.facet f
  if !x.state.runs then h
  else
    let h1 := if late then h.inc 0x5209 (f + 1) else h
    let h2 := if late && m == .commit then h1.inc 0x5208 (f + 1) else h1
    let h3 := h2.modFacet f fun y => { y with fired := y.fired ++ [m] }
    let h4 := h3.traceRec 6 0x0C (some f) (leBytes 8 x.step ++ [BitVec.ofNat 8 m.code, if late then 1 else 0] ++ leBytes 2 x.phase)
    match m with
    | .compose => h4.markCompose f
    | .pfetch => h4.markPrefetch f
    | .draft => h4.markDraft f
    | .capture => h4.markCapture f late
    | .commit => h4.commit f late

/-- A mark that is due fires (R33). -/
def Hw.fireDue (h : Hw) (f : Nat) (m : Mark) : Hw := if (h.facet f).due m then h.fireMark f false m else h

/-! ## Reports -/

/-- A phase report without a begin indication (R27, R28, R35). -/
def Hw.phaseReport (h : Hw) (f phase : Nat) : Hw :=
  let x := h.facet f
  if !x.state.runs then h
  else if x.stepRuns && decide (phase < x.phase) then
    ((h.inc 0x520A (f + 1)).event 0 (28 * 16) 4 (some f) none).fault [f] .unnamed false
  else if phase = x.phase then h
  else h.modFacet f fun y => { y with phase := phase, phaseNs := h.now, stallLogged := false, stallFaulted := false }

/-- Fires the triggers that wait for a facet's step number (R392, kind 4). -/
def Hw.stepTriggers (h : Hw) (f : Nat) : Hw :=
  (List.range 8).foldl (fun a n =>
    let w := a.raw 0xB040 (n + 1)
    if w.testBit 3 && w % 8 == 4 && bits w 7 4 == f && a.raw 0xB041 (n + 1) == (a.facet f).step then a.fireTrigger n else a) h

/-- Whether a begin indication may start a step: the first one waits for the plan to be the dispatch graph (R201). -/
def Facet.mayBegin (x : Facet) : Bool := x.state.runs && (x.stepRuns || !x.entryPlan)

/-- The marks that govern the step that begins (R32). -/
def Hw.beginMarks (h : Hw) (f : Nat) : Facet → Facet := fun x =>
  if x.setPending && !x.setReady then x else { x with marks := h.stagedMarks f, setPending := false, setReady := false }

/-- The marks of the ending step that have not fired fire late, one per cc from the cc of the begin on; the step number rises in the cc after
the last (R34, Table 2.3). -/
def Hw.lateMarks (h : Hw) (f : Nat) : List Mark → Hw
  | [] => h
  | m :: r => ((h.fireMark f true m).nextCc).lateMarks f r

/-- Entries of the phase lists bound to a facet that were not due before the begin of step `n` and whose step field is lower: they fall due
at that begin (R44). -/
def Hw.delaysAtBegin (h : Hw) (f last n : Nat) : Hw :=
  (List.range 4).foldl (fun a l =>
    if a.raw 0x6300 (l + 1) = f + 16 then
      a.modDelay l fun x => { x with entries := x.entries.map fun e =>
        if last < e.key ∧ e.key / 65536 < n % 2 ^ 48 then { e with atBegin := true } else e }
    else a) h

/-- A begin indication (R27, R34): the ending step's unfired marks fire late, and the next step begins, in the mode that its composition
began in (R18). -/
def Hw.stepBegin (h : Hw) (f phase : Nat) : Hw :=
  let x := h.facet f
  if !x.state.runs then h
  else
    let h1 := h.modFacet f fun y => { y with phase := phase, phaseNs := h.now, stallLogged := false, stallFaulted := false }
    if !x.mayBegin then h1
    else
      let h2 := h1.lateMarks f x.unfired
      if !(h2.facet f).state.runs then h2
      else
        let n := (x.step + 1) % 2 ^ 64
        let h3 := h2.modFacet f fun y => h2.beginMarks f { y with
          step := n, fired := [], stepRuns := true, stepBegins := (h.now :: y.stepBegins).take 17, modeRun := y.modePlan }
        (h3.delaysAtBegin f (x.step % 2 ^ 48 * 65536 + x.phase) n).stepTriggers f

/-- Wall time since the reported phase last changed or a begin last came (R35). -/
def Hw.phaseAge (h : Hw) (f : Nat) : Nat := h.now - (h.facet f).phaseNs

/-- The stall limit of a facet, in ns (0x5207). -/
def Hw.stallNs (h : Hw) (f : Nat) : Nat := h.get 0x5207 (f + 1) * 1000000

/-- The stall limit is reached (R35). -/
def Hw.phaseStall (h : Hw) (f : Nat) : Hw :=
  let x := h.facet f
  if x.state.runs && !x.stallLogged && decide (h.stallNs f ≤ h.phaseAge f) then
    (h.event 0 (35 * 16) 3 (some f) none).modFacet f fun y => { y with stallLogged := true }
  else h

/-- Twice the stall limit is reached: a transient fabric fault (R35). -/
def Hw.phaseStallFault (h : Hw) (f : Nat) : Hw :=
  let x := h.facet f
  if x.state.runs && !x.stallFaulted && decide (2 * h.stallNs f ≤ h.phaseAge f) then
    (h.modFacet f fun y => { y with stallFaulted := true }).fault [f] .unnamed false
  else h

/-! ## Meanings -/

/-- PHASE_REPORT. -/
def execPhaseReport (facet : Fin 16) (phase : BitVec 16) (s : State) : Host.Outcome State Fault Refusal :=
  .next (s.onCoreFAt (.report facet.val) 0 fun h => h.phaseReport facet.val phase.toNat)

/-- STEP_BEGIN. -/
def execStepBegin (facet : Fin 16) (phase : BitVec 16) (s : State) : Host.Outcome State Fault Refusal :=
  .next (s.onCoreAt (.report facet.val) 0 fun h => h.stepBegin facet.val phase.toNat)

/-- M_COMPOSE. -/
def execMCompose (facet : Fin 16) (s : State) : Host.Outcome State Fault Refusal :=
  .next (s.onCoreAt (.mark facet.val false) 4 fun h => h.fireDue facet.val .compose)

/-- M_PREFETCH. -/
def execMPrefetch (facet : Fin 16) (s : State) : Host.Outcome State Fault Refusal :=
  .next (s.onCoreAt (.mark facet.val false) 3 fun h => h.fireDue facet.val .pfetch)

/-- M_DRAFT. -/
def execMDraft (facet : Fin 16) (s : State) : Host.Outcome State Fault Refusal :=
  .next (s.onCoreAt (.mark facet.val false) 5 fun h => h.fireDue facet.val .draft)

/-- M_CAPTURE. -/
def execMCapture (facet : Fin 16) (s : State) : Host.Outcome State Fault Refusal :=
  .next (s.onCoreAt (.mark facet.val false) 0x0C fun h => h.fireDue facet.val .capture)

/-- M_COMMIT. -/
def execMCommit (facet : Fin 16) (s : State) : Host.Outcome State Fault Refusal :=
  .next (s.onCoreAt (.mark facet.val true) 2 fun h => h.fireDue facet.val .commit)

/-- PHASE_STALL. -/
def execPhaseStall (facet : Fin 16) (s : State) : Host.Outcome State Fault Refusal :=
  .next (s.onCore 0 fun h => h.phaseStall facet.val)

/-- PHASE_STALL_RECOVERY. -/
def execPhaseStallRecovery (facet : Fin 16) (s : State) : Host.Outcome State Fault Refusal :=
  .next (s.onCoreF 0 fun h => h.phaseStallFault facet.val)

end Sys2Proof.Machine
end

