-- ==== Sys2Proof/Machine/Time.lean ====
section
/-! DEFINITION. Wall time, the wall tick, deadline misses and the four delay lists (R36 to R46, R214, R219, R308, R404). -/

namespace Sys2Proof.Machine

open Sys2Proof

/-! ## The Gnomon -/

/-- An entry that the Gnomon island holds. -/
def Gnomon.get (g : Gnomon) (idx sub : Nat) : Nat := Map.getD g.od (odKey idx sub 0) (odDefault idx sub)

/-- Sets an entry that the Gnomon island holds. -/
def Gnomon.set (g : Gnomon) (idx sub v : Nat) : Gnomon := { g with od := Map.insert g.od (odKey idx sub 0) v }

/-- Reported wall time: the count shifted right by 6 (R36). -/
def Gnomon.time (g : Gnomon) : Nat := g.count / 64

/-- The nominal increment (R36). -/
def nominalInc : Nat := 1953125

/-- Largest change of the increment under a slew limit in ppm (R37). -/
def slewMax (ppm : Nat) : Nat := ppm * nominalInc / 1000000

/-- The part of the offset that one tick absorbs, in 1/64 ns: none while the Gnomon runs free (R37, R38). -/
def Gnomon.slew (g : Gnomon) (ppm : Nat) : Int :=
  if g.synced then max (-(slewMax ppm : Int)) (min (slewMax ppm : Int) g.offset) else 0

/-- Ticks of an hour (R404). -/
def hourTicks : Nat := 117964800

/-- Whether no import has arrived for the import timeout: ticks of 10⁹ / 32,768 ns against ms (R38, 0xD100.08). -/
def Gnomon.overdue (g : Gnomon) : Bool := decide (g.get 0xD100 8 * 32768 ≤ g.ageTicks * 1000)

/-- The Gnomon runs free at the nominal increment where the timeout has passed (R38). -/
def Gnomon.freeRun (g : Gnomon) : Gnomon := if g.overdue then { g with synced := false, inc := nominalInc } else g

/-- One tick of `aon_clk32k`: the count, the slew, the import's age, and HOUR_TICKS where the engine is neither OFF nor in RETAIN; the
tick that completes the hour is OPERATING_HOUR's (R36 to R38, R404). Before any import the age counts from `aon_por_n` (DESIGN CHOICE, log
entry 112: R47 states "since the last time import" only). -/
def Gnomon.tick (g : Gnomon) (counts : Bool) : Gnomon :=
  let adj := g.slew (g.get 0xD100 4)
  let inc := (Int.ofNat nominalInc + adj).toNat
  let g1 := ({ g with count := (g.count + inc) % 2 ^ 70, inc := inc, offset := g.offset - adj, ageTicks := g.ageTicks + 1,
                        startTicks := g.startTicks + 1 } : Gnomon).freeRun
  if counts then g1.set 0xD112 1 (min (g.get 0xD112 1 + 1) (hourTicks - 1)) else g1

/-- The core domain sees a Gnomon tick (R39). -/
def Hw.seeTick (h : Hw) (g : Gnomon) : Hw :=
  { h with clk := { h.clk with g := g.time, n := 0, inc := g.inc } }

/-- Whether the engine counts operating hours (R404). -/
def State.hoursRun (s : State) : Bool := !(s.hw.eng.state == .off || s.hw.eng.state == .retain)

/-- Records a wake source; in RETAIN it raises `aon_wake` (R414). -/
def State.wakeBy (s : State) (bit : Nat) : State :=
  { s with gnm := { s.gnm.set 0xD021 1 (setBit (s.gnm.get 0xD021 1) bit) with wake := s.gnm.wake || s.hw.eng.state == .retain } }

/-- An armed wake comparator reaches its time: it disarms and records its source (R414). -/
def State.wakeCompare (s : State) (n : Nat) : State :=
  if s.gnm.powered ∧ (s.gnm.get 0xD031 1).testBit n ∧ s.gnm.get 0xD030 (n + 1) ≤ s.gnm.time then
    ({ s with gnm := s.gnm.set 0xD031 1 (clearBit (s.gnm.get 0xD031 1) n) } : State).wakeBy n
  else s

/-- The Gnomon's part of a tick: the count and the timeout, and the wake comparators that hold at the tick (R36, R38, R414). -/
def State.gnomonTick (s : State) : State :=
  (List.range 8).foldl State.wakeCompare { s with gnm := s.gnm.tick s.hoursRun }

/-- GNOMON_TICK: the Gnomon ticks while its island is powered; the core sees the tick where it runs, before all else of its cc (R39). -/
def execGnomonTick (s : State) : Host.Outcome State Fault Refusal :=
  if s.gnm.powered then
    let s1 := s.gnomonTick
    .next (s1.onCoreAt .gnomon 0x0E fun h => h.seeTick s1.gnm)
  else .next s

/-- How an import is taken (R37). -/
inductive Import where
  | slew | forward | behind | first
deriving DecidableEq, Repr

/-- The case of an import of `ns` under a step threshold; the first import after `aon_por_n` starts the count (R36, R37). -/
def Gnomon.importCase (g : Gnomon) (ns threshold : Nat) : Import :=
  if !g.anyImport && decide (g.time ≤ ns) then .first
  else if ns > g.time + threshold then .forward
  else if ns + threshold < g.time then .behind
  else .slew

/-- Whether an import is a discontinuity: a forward step, or an offset behind by more than the threshold (R37). -/
def Import.jump : Import → Bool
  | .forward | .behind => true
  | .slew | .first => false

/-- An import: the Gnomon takes it, and counts a discontinuity, whatever the core does (R37, R38, R414). -/
def Gnomon.take (g : Gnomon) (ns : Nat) (c : Import) : Gnomon :=
  let g0 := if c.jump then g.set 0xD100 6 ((g.get 0xD100 6 + 1) % 2 ^ 64) else g
  let g1 := { g0 with synced := true, anyImport := true, ageTicks := 0 }
  match c with
  | .first | .forward => { g1 with count := ns * 64 % 2 ^ 70, offset := 0 }
  | .slew | .behind => { g1 with offset := ((ns : Int) - g.time) * 64 }

/-- The core's part of an import: discontinuities are logged (R37). -/
def Hw.noteImport (h : Hw) (c : Import) : Hw :=
  match c with
  | .forward => h.event 0xF (37 * 16) 2 none none
  | .behind => h.event 0xF (37 * 16 + 1) 3 none none
  | _ => h

/-- TIME_IMPORT. -/
def execTimeImport (ns : Nat) (s : State) : Host.Outcome State Fault Refusal :=
  if s.gnm.powered then
    let c := s.gnm.importCase ns (s.gnm.get 0xD100 5)
    .next (({ s with gnm := s.gnm.take ns c } : State).onCore 0x0E fun h => h.noteImport c)
  else .next s

/-- IMPORT_TIMEOUT: where no import has come for 0xD100.08, the Gnomon runs free at the nominal increment (R38). Each tick looks at the
same condition. -/
def execImportTimeout (s : State) : Host.Outcome State Fault Refusal :=
  if s.gnm.powered then .next { s with gnm := s.gnm.freeRun } else .next s

/-- An operating hour ends with the tick that HOUR_TICKS still lacks: OPERATING_HOURS increments, HOUR_TICKS returns to 0, and both are kept
(R404). -/
def Gnomon.hour (g : Gnomon) : Gnomon :=
  let n := (g.get 0xD110 1 + 1) % 2 ^ 32
  let g1 := (g.set 0xD110 1 n).set 0xD112 1 0
  { g1 with rs := { g1.rs with hours := n, hourTicks := 0 } }

/-- OPERATING_HOUR: in an hour that lacks a tick or more besides, nothing. -/
def execOperatingHour (s : State) : Host.Outcome State Fault Refusal :=
  if s.gnm.powered && s.hoursRun && decide (hourTicks ≤ s.gnm.get 0xD112 1 + 1) then .next { s with gnm := s.gnm.hour } else .next s

/-! ## The wall tick -/

/-- The tick is evaluated where the floor of core wall time in µs has risen; its value is the new floor (R40). The frozen window's GAP
record and SCRUB's notice follow it (R376, R393). -/
def Hw.wallTick (h : Hw) : Hw :=
  if h.clk.us < h.nowUs then ({ h with clk := { h.clk with us := h.nowUs } } : Hw).gapRewrite.scrubWatch else h

/-- WALL_TICK. -/
def execWallTick (s : State) : Host.Outcome State Fault Refusal :=
  .next (s.onCoreAt .wallTick 0 Hw.wallTick)

/-- A deadline is missed (R42, R308): detected where the value of the 1 µs tick is above the floor of the deadline, counted once; under policy
1 or 2 the sequence ends at its facet's next commit. -/
def Hw.deadlineMiss (h : Hw) (slot : Nat) : Hw :=
  match h.seq? slot with
  | some q =>
    let v := q.com
    if v.cls = .dl ∧ v.state ≠ .ended ∧ !q.missSeen ∧ v.deadline / 1000 < h.nowUs then
      let h1 := (h.inc 0x9015 (v.facet + 1)).modSeq slot fun x => { x with missSeen := true }
      let policy := h.get 0x9010 (v.facet + 1)
      if policy = 1 ∨ (policy = 2 ∧ h.modeNow v.facet ≠ 2) then h1.refuseDeadline slot else h1
    else h
  | none => h

/-- DEADLINE_MISS. -/
def execDeadlineMiss (slot : Nat) (s : State) : Host.Outcome State Fault Refusal :=
  .next (s.onCoreAt (.miss slot) 9 fun h => h.deadlineMiss slot)

/-! ## Delay lists -/

/-- The present key of a list's timebase: the µs tick value, or the bound facet's step and phase; none for a facet that reports no phase
(R44, Table 2.4). -/
def Hw.timebase (h : Hw) (l : Nat) : Option Nat :=
  let tb := h.raw 0x6300 (l + 1)
  if tb < 16 then some h.nowUs
  else
    let x := h.facet (tb - 16)
    if x.state.runs then some (x.step % 2 ^ 48 * 65536 + x.phase) else none

/-- The entries of a list that are released in this cc: the first four due that were inserted in an earlier one (R44, R45). -/
def Hw.dueEntries (h : Hw) (l : Nat) : List DelayEntry :=
  match h.timebase l with
  | none => []
  | some k => (((h.delay l).entries.filter fun e => decide (e.key ≤ k) && decide (e.sinceCc < h.cc)).take 4)

/-- What a released entry does, counted in 0x6303 where it fell due at a step begin (R44): a delayed descriptor becomes READY, a timer is handed over (Table 2.4, R219). -/
def Hw.releaseEntry (h : Hw) (l : Nat) (e : DelayEntry) : Hw :=
  let h1 := h.modDelay l fun x => { x with entries := x.entries.erase e }
  let h2 := if e.atBegin then h1.inc 0x6303 (l + 1) else h1
  if e.kind = 0 then
    match h2.desc? (e.payload % 2 ^ 18) with
    | some d => if d.state = .delayed then ((h2.makeReady (e.payload % 2 ^ 18)).modDesc (e.payload % 2 ^ 18) fun d => { d with readyCc := h.cc + 1 }).semRequest (e.payload % 2 ^ 18) else h2
    | none => h2
  else h2.emit (.timer e.kind e.payload)

/-- DELAY_RELEASE: at most four of a list in a cc (R44). -/
def execDelayRelease (list : Fin 4) (s : State) : Host.Outcome State Fault Refusal :=
  .next (s.onCoreAt (.release list.val) 5 fun h => (h.dueEntries list.val).foldl (fun a e => a.releaseEntry list.val e) h)

/-- Inserts an entry in key order, after those of an equal key (R43). -/
def Hw.insertEntry (h : Hw) (l : Nat) (e : DelayEntry) : Hw :=
  h.modDelay l fun x => { x with entries := insertBy (fun a b => decide (a.key < b.key)) e x.entries }

/-- An insertion by a requester other than DSP: refused with FULL to the requester where entries held plus reservations equal 4,096 (R45, R220). -/
def Hw.delayInsert (h : Hw) (l key kind payload : Nat) : Hw :=
  let x := h.delay l
  if x.entries.length + x.reserved ≥ 4096 then (h.inc 0x6302 (l + 1)).emit (.delayFull l kind payload)
  else h.insertEntry l { key := key % 2 ^ 64, kind := kind, payload := payload % 2 ^ 32, sinceCc := h.cc, atBegin := false }

/-- DELAY_INSERT. -/
def execDelayInsert (list : Fin 4) (key : Nat) (kind : Fin 3) (payload : Nat) (s : State) : Host.Outcome State Fault Refusal :=
  .next (s.onCore 5 fun h => h.delayInsert list.val key kind.val payload)

/-- Removes the entries that a cancel names; one that is released in this cc stays for its release (R45). -/
def Hw.delayCancel (h : Hw) (l kind payload : Nat) : Hw :=
  let due := h.dueEntries l
  h.modDelay l fun x => { x with entries := x.entries.filter fun e =>
                                   !(e.kind == kind && e.payload == payload % 2 ^ 32) || due.contains e }

/-- DELAY_CANCEL. -/
def execDelayCancel (list : Fin 4) (kind : Fin 3) (payload : Nat) (s : State) : Host.Outcome State Fault Refusal :=
  .next (s.onCore 5 fun h => h.delayCancel list.val kind.val payload)

end Sys2Proof.Machine
end

