-- ==== Sys2Proof/Machine/DictRead.lean ====
section
/-! DEFINITION. What a dictionary read returns: the entries that show the engine's live state, the values of type STR and DOMAIN, and
what a read clears (R95 to R97, R105). -/

namespace Sys2Proof.Machine

open Sys2Proof

/-! ## The table of entries -/

/-- The line of the dictionary that lists an index and sub-index. -/
def findEntry (idx sub : Nat) : Option Entry :=
  dictTable.find? fun e => e.idx == idx && decide (e.sub ≤ sub) && decide (sub < e.sub + e.count)

/-- Whether an index is listed. -/
def indexListed (idx : Nat) : Bool := dictTable.any fun e => e.idx == idx

/-- Highest sub-index of an index (R95). -/
def highestSub (idx : Nat) : Nat := (dictTable.filter fun e => e.idx == idx).foldl (fun m e => max m (e.sub + e.count - 1)) 0

/-- Sub-index 0 of an index: a U8 constant (R95). -/
def countEntry (idx : Nat) : Entry := ⟨idx, 0, 1, .u8, .const, false, 0, 255, .none⟩

/-- Size of a scalar type in bytes (Table 5.2). -/
def EntryType.size : EntryType → Nat
  | .u8 | .bool => 1 | .u16 => 2 | .u32 | .f32 => 4 | .u64 | .i64 => 8 | .str | .domain => 0

/-- Codes of Table 5.2. -/
def EntryType.code : EntryType → Nat
  | .u8 => 1 | .u16 => 2 | .u32 => 3 | .u64 => 4 | .i64 => 5 | .f32 => 6 | .bool => 7 | .str => 8 | .domain => 9

/-- Codes of R104. -/
def Access.code : Access → Nat
  | .ro => 0 | .rw => 1 | .wo => 2 | .rwc => 3 | .const => 4 | .rc => 5

/-- The index of a request path among values kept per path. -/
def pathNum : Path → Nat
  | .window => 0 | .ddp => 1

/-- The object that a path's selector chooses for an entry; 0 for an entry without one. -/
def Hw.objOf (h : Hw) (p : Path) : Selector → Nat
  | .none => 0
  | .path => (pathNum p)
  | .ring => h.getAt 0x3010 1 (pathNum p)
  | .queue => h.getAt 0x3020 1 (pathNum p)
  | .tenant => h.getAt 0x3100 1 (pathNum p)
  | .handle => h.getAt 0x3300 1 (pathNum p)
  | .pool => h.getAt 0x4000 1 (pathNum p)
  | .model => h.getAt 0x4100 1 (pathNum p)
  | .experience => h.getAt 0x8200 1 (pathNum p)
  | .descriptor => h.getAt 0x6004 1 (pathNum p)

/-! ## Live values -/

/-- Codes of Table 9.3. -/
def PartState.code : PartState → Nat
  | .closed => 0 | .opened => 1 | .interrupting => 2 | .preempting => 3 | .held => 4 | .masked => 5

/-- Codes of Table 9.7. -/
def JobState.code : JobState → Nat
  | .idle => 0 | .pending => 1 | .loading => 2 | .running => 3 | .teardown => 4 | .ended => 5

/-- Codes of R206. -/
def DescState.code : DescState → Nat
  | .waiting => 1 | .delayed => 2 | .ready => 3 | .dispatched => 4 | .suspended => 5

/-- RING_STATE of a ring (Table 6.10). -/
def Hw.ringState (h : Hw) (r : Nat) : Nat :=
  let x := h.ring r
  if h.getAt 0x3011 6 r = 0 then 0 else if x.hold ≠ 0 then 3 else if h.ringWaiting r then 2 else 1

/-- Live sequences of a tenant. -/
def Hw.tenantLive (h : Hw) (t : Nat) : Nat := (h.seqs.filter fun e => e.2.com.tenant = t).length

/-- Tenants that hold DL: bit 2 of their class mask. -/
def Hw.dlTenants (h : Hw) : List Nat :=
  ((h.od.filter fun e => decide (odKey 0x3101 2 0 ≤ e.1) && decide (e.1 < odKey 0x3101 3 0) && e.2.testBit 2).map fun e =>
    e.1 % 65536)

/-- POOL_NOTICE: the smallest free count since the last read, and the crossings (R153). -/
def Hw.poolNotice (h : Hw) (k : Nat) : Nat := (h.pool k).minFree.getD (h.poolFree k) + (h.pool k).crossings * 2 ^ 32

/-- FED_ROUND_STATE: 3 while the decision of the model's round is being carried out at its GATE. -/
def Hw.roundState (h : Hw) (m : Nat) : Nat :=
  match (h.learner m).round with
  | none => 0
  | some r =>
    if r.own.isNone then 0
    else if h.jobs.any fun e => e.2.state.live && e.2.model == m && e.2.decision.isSome then 3 else if r.sent then 2 else 1

/-- Live values of chapters 0x1000 to 0x4FFF. -/
def Hw.liveLow (h : Hw) (idx sub obj : Nat) : Option Nat :=
  match idx with
  | 0x1000 => if sub = 6 then some Config.mgtPen.toNat else if sub = 7 then some (16 - popcount (h.raw 0xA010 1)) else none
  | 0x1100 => some h.eng.state.code
  | 0x1102 => some (match h.eng.pendingTarget with | some t => t.code + 128 | none => 0)
  | 0x2104 => some (h.mem.out.filter fun r => r.channel + 1 = sub).length
  | 0x2300 => some (0xFFFF - h.raw 0xA010 1 % 2 ^ 16)
  | 0x2401 => if sub = 1 then some h.side.address else none
  | 0x3001 => some h.seqs.length
  | 0x3003 => some h.hotCapacity
  | 0x3011 =>
    if sub = 7 then some (h.ring obj).consumed else if sub = 8 then some (h.ring obj).latched
    else if sub = 9 then some (h.ringState obj) else if sub = 10 then some (h.ring obj).hold else none
  | 0x3021 =>
    if sub = 7 then some (h.queue obj).w else if sub = 8 then some (h.queue obj).k else if sub = 9 then some (h.queue obj).m
    else if sub = 10 then some (h.queue obj).c else none
  | 0x3101 => if sub = 11 then some (h.tenantLive obj) else if sub = 13 then some (h.budgetUsed obj) else none
  | 0x3121 => some h.dlTenants.length
  | 0x4001 =>
    if sub = 9 then some (h.poolFree obj) else if sub = 12 then some (h.poolNotice obj)
    else if sub = 14 then some (h.pool obj).cached.length else none
  | 0x4012 => some h.tableFree
  | _ => none

/-- Live values of chapters 0x5000 to 0x8FFF. -/
def Hw.liveMid (h : Hw) (idx sub obj : Nat) : Option Nat :=
  match idx with
  | 0x5002 => some (h.facet (sub - 1)).state.code
  | 0x5205 => some (h.facet (sub - 1)).step
  | 0x5206 => some (h.facet (sub - 1)).phase
  | 0x6000 => some h.descs.length
  | 0x6001 => some (h.descHeld (sub - 1))
  | 0x6002 => some (1048576 - (h.descs.map fun e => e.2.succ.length).sum)
  | 0x6010 => some (h.part (sub - 1)).state.code
  | 0x6011 => some (h.residentShown (sub - 1))
  | 0x6012 => some (h.readyDepth (sub - 1))
  | 0x6013 => some (h.part (sub - 1)).credits
  | 0x6301 => some (h.delay (sub - 1)).entries.length
  | 0x6305 => some (h.delay (sub - 1)).reserved
  | 0x6402 => some (h.job (sub - 1) false).state.code
  | 0x6403 => some (h.job (sub - 1) false).result
  | 0x6404 => some (h.job (sub - 1) false).iteration
  | 0x6405 => some (h.job (sub - 1) false).errorNode
  | 0x7027 => some h.smp.store.length
  | 0x702A => some h.smp.hullMax
  | 0x7110 =>
    if sub < 4 then none
    else
      let b := helixBlock (BitVec.ofNat 64 (h.getAt 0x7110 1 obj)) (BitVec.ofNat 64 (h.getAt 0x7110 2 obj))
        (BitVec.ofNat 64 (h.getAt 0x7110 3 obj))
      some (if sub = 4 then b.1.toNat else b.2.toNat)
  | 0x720C => some h.secUsed
  | 0x8011 => some (h.currentVersion obj)
  | 0x8014 => some (h.slotUse obj (sub - 1))
  | 0x8015 => some (h.seqs.filter fun e => h.modelOf e.2.com == obj && h.followsFlip e.2.com).length
  | 0x830A => some (h.roundState obj)
  | _ => none

/-- Live values of chapters 0x9000 to 0xDFFF that the core island holds. -/
def Hw.liveHigh (h : Hw) (idx sub : Nat) : Option Nat :=
  match idx with
  | 0x9012 => some (h.stepTime (sub - 1))
  | 0x9013 => some (h.seqs.filter fun e => e.2.com.facet + 1 == sub && e.2.com.cls == .dl).length
  | 0x9017 => some (h.iterMean (sub - 1))
  | 0x9019 => some (h.seqs.filter fun e => e.2.com.facet + 1 == sub && e.2.urgent).length
  | 0x9203 => some (h.job (sub - 1) true).state.code
  | 0x9204 => some (h.job (sub - 1) true).result
  | 0x9206 => some (if (h.job (sub - 1) false).suspended then 1 else 0)
  | 0x9209 => some (h.job (sub - 1) true).errorNode
  | 0x9220 => some (match (h.sem (sub - 1)).holder with | some (f, _, c) => c + f * 2 ^ 16 + 2 ^ 31 | none => 0)
  | 0x9221 => some (h.sem (sub - 1)).waiters.length
  | 0xA040 => some Config.retainWindow.toNat
  | 0xA051 => some ((h.task (sub - 1)).state + if (h.task (sub - 1)).pending then 128 else 0)
  | 0xA054 => some (h.bgDebt (sub - 1))
  | 0xB001 => some (if countedUnits.contains sub then h.unitCode sub else 0xF)
  | 0xC00B => some (Config.evtMib * 2 ^ 20)
  | 0xD001 => some h.pins.pointCur
  | 0xD002 => some h.pins.pointCap
  | _ => none

/-- Whether a record of the Gnomon area holds an entry: those flagged G, and the hours and cycles of R404. -/
def gnomonEntry (idx : Nat) : Bool := [0xD020, 0xD021, 0xD030, 0xD031, 0xD032, 0xD040, 0xD041, 0xD042, 0xD043, 0xA014, 0xD110, 0xD111, 0xD112].contains idx

/-- Whether the Gnomon island holds an entry's value: those of the Gnomon area, and the limits and the count of the time imports, which it
keeps taking while the core does not run (R37, R38, R414; DESIGN CHOICE, log entry 113). -/
def gnomonHolds (idx sub : Nat) : Bool := gnomonEntry idx || (idx == 0xD100 && [4, 5, 6, 8].contains sub)

/-- Live values that the Gnomon shows (R36 to R39). The offset is kept in 1/64 ns; TIME_OFFSET shows it in whole ns, rounded toward minus
infinity (DESIGN CHOICE, log entry 114: R47 states no rounding). -/
def State.liveGnomon (s : State) (idx sub : Nat) : Option Nat :=
  if gnomonHolds idx sub then some (s.gnm.get idx sub)
  else if idx = 0xD100 then
    match sub with
    | 1 => some s.hw.now
    | 2 => some (if s.gnm.synced then 1 else 0)
    | 3 => some (BitVec.ofInt 64 (s.gnm.offset / 64)).toNat
    | 7 => some (min (s.gnm.ageTicks * 1000 / 32768) (2 ^ 32 - 1))
    | _ => none
  else none

/-- Whether an entry is saved in the P image: flagged P, and in no record of the Gnomon area (R98, R102, R404). -/
def inImage (e : Entry) : Bool := e.isP && !gnomonEntry e.idx && !([0x2201, 0xA010, 0xA011, 0xA012, 0xA013].contains e.idx)

/-- The entry that a key of the value table belongs to. -/
def keyEntry (k : Nat) : Option Entry := findEntry (k / 2 ^ 24) (k / 2 ^ 16 % 256)

/-- The DOMAIN values of the core island, LAYER_EXP of the models among them. -/
def Hw.allDom (h : Hw) : Map (List Byte) :=
  h.learners.foldl (fun m e => if e.2.layerExp = [] then m else Map.insert m (odKey 0x8026 1 e.1) (h.layerExpBytes e.1)) h.dom

/-- The entries of a table that the P image saves. -/
def imagePart {α : Type} (m : Map α) : Map α := m.filter fun e => match keyEntry e.1 with | some x => inImage x | none => false

/-- The values that the P image saves: the core island's, and those of 0xD100 that the Gnomon holds. -/
def State.pValues (s : State) : Map Nat := (imagePart s.gnm.od).foldl (fun m e => Map.insert m e.1 e.2) (imagePart s.hw.od)

/-- Bytes of P changes that the image does not hold yet (R99, 0xD051). An image that this start has neither restored nor written holds
nothing: every entry that differs from its default has changed since. -/
def State.pendingBytes (s : State) : Nat :=
  let img := if s.hw.imageLive then s.gnm.rs.image else none
  let values := match img with | some i => i.values | none => []
  let domains := match img with | some i => i.domains | none => []
  ((s.pValues.filter fun e => Map.getD values e.1 (odDefault (e.1 / 2 ^ 24) (e.1 / 2 ^ 16 % 256)) != e.2).map fun e =>
      match keyEntry e.1 with | some x => x.type.size | none => 0).sum +
  (((imagePart s.hw.allDom).filter fun e => Map.getD domains e.1 [] != e.2).map fun e => e.2.length).sum

/-- Value of a scalar entry for an object. -/
def State.scalar (s : State) (idx sub obj : Nat) : Nat :=
  match s.hw.liveLow idx sub obj with
  | some v => v
  | none => match s.hw.liveMid idx sub obj with
    | some v => v
    | none => match s.hw.liveHigh idx sub with
      | some v => v
      | none => match s.liveGnomon idx sub with
        | some v => v
        | none => if idx = 0xD051 then min s.pendingBytes 24576 else s.hw.getAt idx sub obj

/-! ## Values of type STR and DOMAIN -/

/-- Bytes of an ASCII text. -/
def textBytes (t : String) : List Byte := t.toList.map fun c => BitVec.ofNat 8 c.toNat

/-- Identity strings (Table 5.11). -/
def strValue (sub : Nat) : List Byte :=
  match sub with
  | 1 => textBytes "Wynbrix Systems"
  | 2 => textBytes "KT-4800"
  | _ => textBytes "A1"

/-- A descriptor's 64 bytes (Table 9.1); a FREE one reads 0. The place of its successors in the arena is not stated. -/
def Desc.view (d : Desc) (t : Nat) : List Byte :=
  leBytes 64 (d.state.code + (match d.owner with | .plan => 0 | .copy => 8 | .job => 16) + d.facet * 2 ^ 8 + d.part * 2 ^ 12 +
    d.kind * 2 ^ 18 + d.cls.code * 2 ^ 22 + d.level * 2 ^ 24 + d.counter % 2 ^ 16 * 2 ^ 32 + d.layer % 2 ^ 16 * 2 ^ 48 +
    d.operator % 2 ^ 16 * 2 ^ 64 + d.tenant % 2 ^ 13 * 2 ^ 80 + d.context % 2 ^ 16 * 2 ^ 96 + d.model % 2 ^ 8 * 2 ^ 112 +
    d.vslot % 2 * 2 ^ 120 + d.args % 2 ^ 56 * 2 ^ 128 + d.argsLen % 2 ^ 16 * 2 ^ 184 + d.succ.length % 2 ^ 16 * 2 ^ 200 +
    Config.freeNat 206 t % 2 ^ 20 * 2 ^ 216 + d.step % 2 ^ 64 * 2 ^ 240 +
    (match d.delay with | some (l, k) => k % 2 ^ 64 * 2 ^ 304 + l % 4 * 2 ^ 368 + 2 ^ 370 | none => 0) +
    d.readyCc % 2 ^ 48 * 2 ^ 384 + d.bypass % 2 ^ 16 * 2 ^ 432)

/-- A delay-list entry's 16 bytes (Table 2.4). -/
def DelayEntry.bytes (e : DelayEntry) : List Byte := leBytes 8 e.key ++ leBytes 4 e.payload ++ leBytes 4 (e.kind % 16)

/-- A window entry's 64 bytes (Table 16.2). -/
def windowBytes (w : Option CmdWindow) (closed : Nat) : List Byte :=
  match w with
  | some w =>
    leBytes 4 (w.tag + w.status * 2 ^ 18) ++ leBytes 2 w.layer ++ leBytes 2 w.operator ++ leBytes 6 w.span ++
      [BitVec.ofNat 8 w.unit, BitVec.ofNat 8 w.reason] ++ leBytes 6 w.busy ++ leBytes 6 w.stalled.length ++ leBytes 6 w.idle ++
      leBytes 6 w.fabric ++ leBytes 8 w.endNs ++ leBytes 8 closed ++ List.replicate 8 0
  | none => List.replicate 48 0 ++ leBytes 8 closed ++ List.replicate 8 0

/-- One start's 160 bytes of the start ledger (Table 15.7). The µs of its steps are not modelled. -/
def StartLedger.bytes (l : StartLedger) : List Byte :=
  let head := leBytes 8 l.number ++ leBytes 8 l.stamp ++ [BitVec.ofNat 8 l.cause, BitVec.ofNat 8 l.result, BitVec.ofNat 8 l.failed] ++
    List.replicate 9 0
  let body := (List.range 16).flatMap fun i =>
    let s := l.steps.getD i { outcome := 0, way := 0, detail := 0 }
    [BitVec.ofNat 8 (i + 1), BitVec.ofNat 8 s.outcome, BitVec.ofNat 8 s.way, BitVec.ofNat 8 s.detail] ++
      leBytes 4 (Config.freeNat 223 (16 * l.number + i))
  head ++ leBytes 4 (crc32c (head ++ body)).toNat ++ body

/-- Sixteen counts of a unit (R384). -/
def Hw.unitCountBytes (h : Hw) (u : Nat) : List Byte :=
  (List.range 16).flatMap fun c => leBytes 8 (Map.getD h.trace.unitCounts (16 * u + c) 0)

/-- Value of an entry of type STR or DOMAIN. -/
def State.bytesOf (s : State) (idx sub obj : Nat) : List Byte :=
  let h := s.hw
  match idx with
  | 0x1000 => strValue sub
  | 0x3301 => match h.liveSlot obj with
    | some n => match h.seq? n with | some q => vertexBytes n q.com | none => []
    | none => []
  | 0x6005 => match h.desc? obj with | some d => d.view obj | none => List.replicate 64 0
  | 0x6304 => (h.delay (sub - 1)).entries.flatMap DelayEntry.bytes
  | 0x7010 => (List.range 64).flatMap fun i => leBytes 4 (exptTable i)
  | 0x7011 => (List.range 65).flatMap fun i => leBytes 12 (bandTable i)
  | 0x7012 => (List.range 128).flatMap fun i => leBytes 4 (lntTable i)
  | 0x7013 => (List.range 128).flatMap fun i => leBytes 8 (rcpTable i)
  | 0x7040 => Map.getD h.smp.masks (sub - 1) []
  | 0x8026 => h.layerExpBytes obj
  | 0x9109 => (List.range 2).flatMap fun i => slice (Map.getD h.ctxRecords (2 * (sub - 1) + i) []) 0 64
  | 0x9310 => h.acctView obj
  | 0xA100 => slice (s.gnm.ledgers.flatMap StartLedger.bytes) 0 320
  | 0xB000 => h.unitCountBytes sub
  | 0xB011 => windowBytes (h.part (sub - 1)).latched (h.part (sub - 1)).closedWindows
  | 0xB012 => windowBytes (h.part (sub - 1)).live (h.part (sub - 1)).closedWindows
  | 0xB021 => (List.range 5).flatMap fun i => leBytes 8 (h.getAt 0xB021 sub i)
  | 0xC040 => Config.eventCatalogue
  | 0xC041 => h.eventBufferBytes
  | _ => h.domain idx sub obj

/-- The value of any entry as bytes (R96, R97): a WO entry reads as zeros. -/
def State.valueBytes (s : State) (e : Entry) (sub obj : Nat) : List Byte :=
  if sub = 0 then [BitVec.ofNat 8 (highestSub e.idx)]
  else match e.type with
    | .str | .domain => s.bytesOf e.idx sub obj
    | t => leBytes t.size (if e.access = .wo then 0 else s.scalar e.idx sub obj)

/-! ## What a read changes and refuses -/

/-- Clears an RC value that a read has returned (R6, R97); a notice's maximum restarts from the level (R234). -/
def State.clearRead (s : State) (e : Entry) (sub obj : Nat) : State :=
  if e.access ≠ .rc then s
  else if e.idx = 0xD021 then { s with gnm := s.gnm.set 0xD021 sub 0 }
  else if e.idx = 0x702A then { s with hw := { s.hw with smp := { s.hw.smp with hullMax := 0 } } }
  else if e.idx = 0x4001 then { s with hw := s.hw.modPool obj fun p => { p with minFree := none, crossings := 0 } }
  else if e.idx = 0x601A then { s with hw := s.hw.set e.idx sub (s.hw.readyDepth (sub - 1)) }
  else if e.idx = 0x6021 then { s with hw := s.hw.set e.idx sub (s.hw.descHeld (sub - 1)) }
  else { s with hw := s.hw.set e.idx sub 0 }

/-- The refusal of a read by its owning chapter: a vertex of a handle that is not live (Table 6.10). -/
def Hw.readRefused (h : Hw) (idx obj : Nat) : Bool := idx == 0x3301 && (h.liveSlot obj).isNone

end Sys2Proof.Machine
end

