-- ==== Sys2Proof/Machine/Engine.lean ====
section
/-! DEFINITION. The retention store's P image and records, the engine's states and feature negotiation (R98 to R102, R109 to R115). -/

namespace Sys2Proof.Machine

open Sys2Proof

/-- Status of a dictionary response (Table 5.4). -/
inductive Status where
  | ok | noEntry | noSub | readOnly | state | range | busy | full | length | denied | malformed | snapshotGone | feature
deriving DecidableEq, Repr

/-- Codes of Table 5.4. -/
def Status.code : Status → Nat
  | .ok => 0 | .noEntry => 1 | .noSub => 2 | .readOnly => 3 | .state => 4 | .range => 5 | .busy => 6 | .full => 7 | .length => 8
  | .denied => 9 | .malformed => 10 | .snapshotGone => 11 | .feature => 12

/-! ## The retention store -/

/-- Keys of the counters that R100 reserves: step numbers, EVENT_SEQ, START_COUNT, and, beside the dictionary, the arrival number and
the accounting record number. -/
def highWaterKeys : List Nat :=
  ((List.range 16).map fun f => odKey 0x5205 (f + 1) 0) ++ [odKey 0xC004 1 0, odKey 0xA101 1 0, odKey 0 1 0, odKey 0 2 0]

/-- Live value of a counter that R100 reserves. -/
def Hw.highWater (h : Hw) (k : Nat) : Nat :=
  if k = odKey 0 1 0 then h.arrival
  else if k = odKey 0 2 0 then h.acct.record
  else if k / 2 ^ 24 = 0x5205 then (h.facet (k / 2 ^ 16 % 256 - 1)).step
  else Map.getD h.od k 0

/-- The bytes that the CRC of a record or an image is taken over. How the store lays out keys and values the manual does not say: eight
bytes of key and eight of value here (DESIGN CHOICE, log entry 121). -/
def valueBytes (m : Map Nat) : List Byte := m.flatMap fun e => leBytes 8 e.1 ++ leBytes 8 e.2

/-- The same of DOMAIN values: key, length, bytes. -/
def domainBytes (m : Map (List Byte)) : List Byte := m.flatMap fun e => leBytes 8 e.1 ++ leBytes 4 e.2.length ++ e.2

/-- A record with its CRC (R102). -/
def KeptRecord.make (m : Map Nat) : KeptRecord := { values := m, crc := (crc32c (valueBytes m)).toNat }

/-- Whether a record's CRC checks. -/
def KeptRecord.ok (r : KeptRecord) : Bool := r.crc == (crc32c (valueBytes r.values)).toNat

/-- DICT_LAYOUT, the dictionary layout version (0x1000.05). -/
def dictLayout : Nat := odDefault 0x1000 5

/-- The CRC-32C over an image (R101). -/
def imageCrc (layout : Nat) (values : Map Nat) (domains : Map (List Byte)) : Nat :=
  (crc32c (leBytes 2 layout ++ valueBytes values ++ domainBytes domains)).toNat

/-- Whether an image may be used: its CRC checks and its layout version is the engine's (R101). -/
def PImage.ok (i : PImage) : Bool := i.layout == dictLayout && i.crc == imageCrc i.layout i.values i.domains

/-- The P image: every P entry that the records of R102 do not hold, with the live values of the reserved counters. -/
def State.pImage (s : State) : PImage :=
  let v := highWaterKeys.foldl (fun m k => Map.insert m k (s.hw.highWater k)) s.pValues
  let d := imagePart s.hw.allDom
  { layout := dictLayout, values := v, domains := d, crc := imageCrc dictLayout v d }

/-- Writes bytes of an area of Table 17.5 to the retention store: 0 counts and records, 1 start ledger, 2 events, 3 P image. -/
def Hw.retentionWrite (h : Hw) (area bytes : Nat) : Hw := (h.bump 0xD050 1 bytes).emit (.retention area bytes)

/-- The image becomes what the P entries hold; `n` of its bytes are written (R99, R101). -/
def State.storeImage (s : State) (n : Nat) : State :=
  { s with hw := { (s.hw.retentionWrite 3 n).inc 0x1200 1 with imageLive := true },
           gnm := { s.gnm with rs := { s.gnm.rs with image := some s.pImage } } }

/-- Writes the changed P entries to the image (R99). -/
def State.writeImage (s : State) : State :=
  let n := s.pendingBytes
  if n = 0 then s else s.storeImage n

/-- Unwritten P changes that come to 24 KiB are written at once (R416). -/
def State.capImage (s : State) : State := if 24576 ≤ s.pendingBytes then s.writeImage else s

/-- The mask record's content (R102). -/
def Hw.maskRecord (h : Hw) : KeptRecord :=
  .make [(odKey 0x2201 1 0, h.raw 0x2201 1), (odKey 0xA010 1 0, h.raw 0xA010 1), (odKey 0xA011 1 0, h.raw 0xA011 1),
   (odKey 0xA012 1 0, h.raw 0xA012 1), (odKey 0xA013 1 0, h.raw 0xA013 1)]

/-- The counter record after a save: each counter whose live value has come within half a reservation of the saved one is saved again,
2²⁰ above its live value (R100). -/
def State.reservations (s : State) : Map Nat :=
  let old := match s.gnm.rs.counters with | some r => r.values | none => []
  highWaterKeys.foldl (fun m k =>
    let live := s.hw.highWater k
    let v := Map.getD old k 0
    Map.insert m k (if live + 2 ^ 19 < v then v else live + 2 ^ 20)) []

/-- Writes the counter record (R100, R102). The size of a record is not stated. -/
def State.saveCounters (s : State) : State :=
  { s with hw := s.hw.retentionWrite 0 (Config.freeNat 102 1),
           gnm := { s.gnm with rs := { s.gnm.rs with counters := some (.make s.reservations) } } }

/-- Writes the mask record (R102). -/
def State.saveMasks (s : State) : State :=
  { s with hw := s.hw.retentionWrite 0 (Config.freeNat 102 0),
           gnm := { s.gnm with rs := { s.gnm.rs with masks := some s.hw.maskRecord } } }

/-- Writes both records. -/
def State.writeRecords (s : State) : State := s.saveMasks.saveCounters

/-- The Gnomon area with the counts of R404 and the power-fail record brought up to date. -/
def Gnomon.saveCounts (g : Gnomon) : Gnomon :=
  { g with rs := { g.rs with hourTicks := g.get 0xD112 1, hours := g.get 0xD110 1, cycles := g.get 0xD111 1,
                             warnings := g.get 0xD041 1, lastPf := g.get 0xD042 1 } }

/-- Writes the Gnomon's counts, HOUR_TICKS among them (R404, R416). -/
def State.writeCounts (s : State) : State :=
  { s with hw := s.hw.retentionWrite 0 (Config.freeNat 404 0), gnm := s.gnm.saveCounts }

/-- The frame of a command that reaches beyond the core island, in its part of a cc: the core's part begins and settles as in
`State.onCoreAt`, and faults that the command found are answered at its end. -/
def State.onAllAt (s : State) (c : CcPart) (unit : Nat) (f : State → State) : State :=
  let s' := s.enterCc c
  if s.live then
    let s1 := f { s' with hw := s'.hw.begin unit }
    { s1 with hw := Hw.settle s'.hw s1.hw.runFaults }
  else s

/-- The same in a cc of its own. -/
def State.onAll (s : State) (unit : Nat) (f : State → State) : State := s.onAllAt .alone unit f

/-- A further stage of a command, in the cc in which the stage before it has settled. -/
def State.goOn (s : State) (unit : Nat) (f : State → State) : State :=
  let s1 := f { s with hw := s.hw.begin unit }
  { s1 with hw := Hw.settle s.hw s1.hw.runFaults }

/-- P_IMAGE_WRITE. -/
def execPImageWrite (s : State) : Host.Outcome State Fault Refusal := .next (s.onAll 0 State.writeImage)

/-- RETENTION_RECORD_WRITE. -/
def execRetentionRecordWrite (s : State) : Host.Outcome State Fault Refusal := .next (s.onAll 0 State.writeRecords)

/-- HIGH_WATER_SAVE: the counter record alone is written (R100). -/
def execHighWaterSave (s : State) : Host.Outcome State Fault Refusal := .next (s.onAll 0 State.saveCounters)

/-- A write of true to P_DEFAULTS: every P entry takes its default, save those of the records of R102, and the image is written (R101).
Entries of P flag that count rather than configure are P entries too, the Gnomon's hours, cycles and power-fail entries among them. -/
def State.pDefaults (s : State) : State :=
  let h := s.hw
  let keep := fun (k : Nat) => match keyEntry k with | some x => !inImage x | none => true
  let h1 := { h with od := h.od.filter fun e => keep e.1 || highWaterKeys.contains e.1, dom := h.dom.filter fun e => keep e.1 }
  let h2 : Hw := { h1 with learners := h1.learners.map fun e => (e.1, { e.2 with layerExp := [] }) }
  let g := [0xD110, 0xD111, 0xD041, 0xD042, 0xD043].foldl (fun (a : Gnomon) i => a.set i 1 0)
    { s.gnm with od := s.gnm.od.filter fun e => keep e.1 }
  let s1 : State := { s with hw := h2, gnm := { g with rs := { g.rs with holdup := 0 } } }
  (s1.storeImage (s.pendingBytes + s1.pendingBytes)).writeCounts

/-! ## Features -/

/-- Feature dependencies of Table 5.10: a feature and the one it requires. -/
def featureNeeds : List (Nat × Nat) := [(2, 1), (3, 2), (9, 1)]

/-- A write of FEATURE_ACCEPT (R113). -/
def Hw.writeAccept (h : Hw) (sub v : Nat) : Status × Hw :=
  let h1 := h.set 0x1011 sub v
  let bit := fun (i : Nat) => (h1.get 0x1011 (i / 64 + 1)).testBit (i % 64)
  if v &&& h.get 0x1010 sub ≠ v then (.range, h)
  else if featureNeeds.any fun e => bit e.1 && !bit e.2 then (.range, h)
  else (.ok, h1)

/-! ## Engine states -/

/-- Starts the drain of the engine (R111). -/
def Hw.startDrain (h : Hw) (target : Option EngState) : Hw :=
  let h1 := h.closeAdmission.enter .draining
  let h2 := { h1 with eng := { h1.eng with pendingTarget := target, drainNs := h.now, limitHit := false } }
  (List.range 16).foldl (fun a f =>
    if (a.facet f).state = .active then a.modFacet f fun x => { x with state := .draining } else a) h2

/-- A request for OPERATIONAL (R110, R112, R155). -/
def Hw.askOperational (h : Hw) : Status × Hw :=
  match h.eng.state with
  | .operational => (.ok, h)
  | .config =>
    if (List.range 16).any fun f => (h.facet f).state == .standby then
      if h.tableShort then (.state, h) else (.ok, h.enterOperational)
    else (.state, h)
  | .quiesced => if h.tableShort then (.state, h) else (.ok, h.enterOperational)
  | .draining => if h.tableShort then (.state, h) else (.ok, h.setTarget (some .operational))
  | _ => (.state, h)

/-- A request for CONFIG (R110, R112). -/
def Hw.askConfig (h : Hw) : Status × Hw :=
  match h.eng.state with
  | .config => (.ok, h)
  | .operational => (.ok, h.startDrain (some .config))
  | .draining => (.ok, h.setTarget (some .config))
  | .quiesced => (.ok, h.enter .config)
  | _ => (.state, h)

/-- A request for QUIESCED (R110, R112). -/
def Hw.askQuiesced (h : Hw) : Status × Hw :=
  match h.eng.state with
  | .quiesced => (.ok, h)
  | .operational => (.ok, h.startDrain none)
  | .draining => (.ok, h.setTarget none)
  | _ => (.state, h)

/-- A write of STATE_REQUEST. -/
def Hw.stateRequest (h : Hw) (v : Nat) : Status × Hw :=
  match v with
  | 3 => h.askConfig
  | 4 => h.askOperational
  | 6 => h.askQuiesced
  | _ => (.range, h)

/-- Whether the drain is over: every facet STANDBY or UNASSIGNED, and every ledger committed (Table 5.9). -/
def Hw.drained (h : Hw) : Bool :=
  (List.range 16).all fun f =>
    let x := h.facet f
    (x.state == .standby || x.state == .unassigned) && x.ledger == Ledger.empty

/-- Entry to RETAIN begins in QUIESCED, unless a pending target follows: every pending retention-store write goes out, then the flush (R99, R404,
R413). -/
def State.beginRetain (s : State) : State :=
  if s.hw.pins.retReq ∧ s.hw.eng.state = .quiesced ∧ s.hw.eng.pendingTarget = none then
    let s1 := s.writeImage.writeRecords.writeCounts
    { s1 with hw := { s1.hw with pins := { s1.hw.pins with rsFlush := true } } }
  else s

/-- The drain reaches QUIESCED: pending retention writes go out (R99, R102, R404), and a pending target follows in the next cc, unless it is an
OPERATIONAL that the table region is too short for (R112, R155); where none does, an entry to RETAIN that is asked for begins (R413). -/
def State.drainComplete (s : State) : State :=
  if s.hw.eng.state = .draining ∧ s.hw.drained then
    let s1 := s.writeImage.writeRecords.writeCounts
    let h2 := s1.hw.enter .quiesced
    ({ s1 with hw := if h2.eng.pendingTarget = some .operational ∧ h2.tableShort then h2.setTarget none else h2 } : State).beginRetain
  else s

/-- A PENDING job ends with result TORN_DOWN; the image of one that had yielded goes with it (R323). -/
def Hw.endPending (h : Hw) (f : Nat) : Hw :=
  if (h.job f false).state = .pending then
    (h.dropImages f 1).modJob f false fun j => { j with state := .ended, result := 2, yielded := false }
  else h

/-- DRAIN_LIMIT has passed since the drain began: each draining facet stops at its next commit, and jobs are torn down (R111, R323). -/
def Hw.drainLimit (h : Hw) : Hw :=
  if h.eng.state = .draining ∧ !h.eng.limitHit ∧ h.eng.drainNs + 1000000 * h.get 0x1105 1 ≤ h.now then
    (List.range 16).foldl (fun a0 f =>
      let a := a0.endPending f
      match (a.facet f).state with
      | .draining => a.modFacet f fun x => { x with stopAtCommit := true }
      | .exclusive => (a.teardown f true 2).teardown f false 2
      | _ => a) { h with eng := { h.eng with limitHit := true } }
  else h

/-- DRAIN_LIMIT_EXPIRY. -/
def execDrainLimitExpiry (s : State) : Host.Outcome State Fault Refusal := .next (s.onCore 0 Hw.drainLimit)

end Sys2Proof.Machine
end

