-- ==== Sys2Proof/Machine/Admission.lean ====
section
/-! DEFINITION. Admission: the checks on an entry, its decision and record, rings and their holds, cancels, and migration between engines
(R117 to R134, R146 to R148, R160, R170, R424). -/

namespace Sys2Proof.Machine

open Sys2Proof

/-! ## What the checks read -/

/-- Who asks for an admission: a ring, or a FORWARD message (no ring); the tenant, the queue and the class the ring binds. -/
structure Asker where
  ring   : Option Nat
  tenant : Nat
  queue  : Nat
  cls    : Option Cls

/-- Free Locus slots (R124, R133, R134). -/
def Hw.freeSlots (h : Hw) : Nat := h.slotsFront.length + (1048576 - h.slotsFresh) + h.slotsFreed.length

/-- Takes the slot at the head of the free list. -/
def Hw.takeSlot (h : Hw) : Option (Nat × Hw) :=
  match h.slotsFront with
  | s :: r => some (s, { h with slotsFront := r })
  | [] =>
    if h.slotsFresh < 1048576 then some (h.slotsFresh, { h with slotsFresh := h.slotsFresh + 1 })
    else match h.slotsFreed with
      | s :: r => some (s, { h with slotsFreed := r })
      | [] => none

/-- Check 2 fails (Table 6.2). -/
def Hw.classFails (h : Hw) (a : Asker) (c : Cls) (level : Nat) : Bool :=
  let t := a.tenant
  let q := a.queue
  h.getAt 0x3101 1 t != 1 || (match a.cls with | some k => k != c | none => false) || !(h.getAt 0x3101 2 t).testBit c.code ||
  decide (h.getAt 0x3101 0xA t < level) || (c == .dl && !h.feature 4) || !h.queueOn q || h.getAt 0x3021 3 q != t ||
  !(h.get 0x3110 (h.getAt 0x3101 4 t + 1)).testBit (h.queueFacet q)

/-- The slot that check 3 pins, if it passes (R121, R335). -/
def Hw.pinSlot (h : Hw) (m : Nat) (p : VPolicy) (version : Nat) : Option Nat :=
  if h.getAt 0x8001 1 m ≠ 1 then none
  else match p with
    | .exact => (h.residentSlots m).find? fun s => h.slotVersion m s == version
    | _ => h.currentSlot m

/-- Check 4 fails: the budget would be exceeded (R132). -/
def Hw.budgetFails (h : Hw) (t need : Nat) : Bool :=
  let b := h.getAt 0x3101 6 t
  b != 0 && decide (b < h.budgetUsed t + h.getAt 0x3101 0xE t + need)

/-- Check 5's hold reason, if it fails (R122, R124). -/
def Hw.capacityFails (h : Hw) (a : Asker) (c : Cls) : Option Nat :=
  if h.getAt 0x3101 5 a.tenant ≤ h.tenantLive a.tenant then some 2
  else if (if c = .lc then h.freeSlots = 0 else h.freeSlots ≤ h.get 0x3002 1) then some 1
  else if (h.facet (h.queueFacet a.queue)).state ≠ .active then some 3
  else if !h.queueRoom a.queue 1 then some 4
  else none

/-- Sequences that a tenant starts in a rate window. -/
def Hw.startsIn (h : Hw) (t w : Nat) : Nat :=
  match (Map.getD h.windows t []).find? fun e => e.1 == w with
  | some e => e.2
  | none => 0

/-- Check 6: the first window with room, of the decision's and the 64 after it; the present window under no rate (R128). -/
def Hw.rateWindow (h : Hw) (t : Nat) : Option Nat :=
  let k := h.now / 1000000000
  let r := h.getAt 0x3101 7 t
  if r = 0 then some k else ((List.range 65).map fun i => k + i).find? fun w => decide (h.startsIn t w < r)

/-- Counts a start in a window; windows that have ended are dropped. -/
def Hw.countStart (h : Hw) (t w : Nat) : Hw :=
  let k := h.now / 1000000000
  let l := (Map.getD h.windows t []).filter fun e => decide (k ≤ e.1) && e.1 != w
  { h with windows := Map.insert h.windows t (l ++ [(w, h.startsIn t w + 1)]) }

/-- Page bytes of a model's device pools, which are all equal (R154). -/
def Hw.pageBytes (h : Hw) (m : Nat) : Nat :=
  match setBits (h.getAt 0x4101 3 m) with
  | k :: _ => h.getAt 0x4001 2 k
  | [] => 0

/-- Check 7's footprint rule: the host-pool and share-reduced flags of an admission (R125, R170). -/
def Hw.footprint (h : Hw) (t f m tokens : Nat) : Option (Bool × Bool) :=
  let n := ceilDiv tokens (h.pageTokens m)
  let B := h.pageBytes m
  let W := h.getAt 0x8002 1 m
  let full := n * B
  let win := min n (h.getAt 0x4101 8 m + 1) * B
  let act := fun (S : Nat) => h.getAt 0x4101 5 m * S
  let S := h.getAt 0x4101 6 m
  let R := h.raw 0x4200 (f + 1)
  let policy := h.getAt 0x3101 8 t
  let host := h.feature 7
  if 262144 < n then none
  else if R = 0 ∨ W + full + act S ≤ R then some (false, false)
  else if 1 ≤ policy ∧ host ∧ W + win + act S ≤ R then some (true, false)
  else if policy = 2 ∧ W + (if host then win else full) + act (h.getAt 0x4101 7 m) ≤ R then some (host, true)
  else none

/-- Pages that an admission's walk can map: the prompt's full pages but its last position's, as far as leaves can be taken
(R155, R160). -/
def Hw.walkRoom (h : Hw) (m promptLen : Nat) : Nat :=
  min ((promptLen - 1) / h.pageTokens m) ((h.tableFree - 1) * 512)

/-! ## The decision -/

/-- What checks 1 to 6 come to: a hold with its reason, an outcome of Table 6.4, a migration, or the version slot and the rate window with which
check 7 goes on to read the prompt. -/
inductive Verdict where
  | hold (reason : Nat)
  | refuse (outcome : Nat)
  | migrate
  | reads (slot window : Nat)

/-- What checks 7 to 9 come to: a refusal, with the projection of R126, or the vertex but for its slot, generation and arrival, with the pages to
map. -/
inductive Ruling where
  | refuse (outcome : Nat) (projection : Option Nat)
  | take (v : Vertex) (pages : List PageRef)

/-- The vertex of an entry as check 8 projects it. -/
def Hw.entryVertex (h : Hw) (a : Asker) (e : Submission) (c : Cls) (slot start stamp : Nat) (kv : Nat) (flags : Bool × Bool)
    (deferred : Bool) : Vertex :=
  { tenant := a.tenant, generation := 0, origin := if a.ring.isSome then 0 else 1,
    state := if deferred then .deferred else .prefill, endReason := none, vslot := slot, fallback := false, hostPool := flags.1,
    shareReduced := flags.2, facet := h.queueFacet a.queue, generated := 0, kvTokens := kv, lastToken := 0,
    reservedTok := e.promptLen + e.maxNew, version := h.slotVersion e.model slot, lastStep := 0, projection := 0, btRoot := 0, affinity := 0,
    tag := e.tag, seed := e.seed, stream := e.stream, deadline := e.deadline, start := start, admitted := stamp, model := e.model,
    cls := c, level := e.classByte / 16, flags := e.flags, vpolicy := [VPolicy.follow, .fixed, .exact].getD (e.vpolicy % 4) .follow,
    topn := e.topn, queue := a.queue, promptLen := e.promptLen, maxNew := e.maxNew, stop := e.stop, sampling := e.sampling,
    penalty := [], spec := SpecStats.initial, prefixLen := kv, arrival := 0 }

/-- A vertex admitted on its fallback model `b` (R126). -/
def Hw.fallbackVertex (h : Hw) (v : Vertex) (b : Nat) : Vertex :=
  let s := (h.currentSlot b).getD 0
  { v with fallback := true, kvTokens := 0, prefixLen := 0, vslot := s, version := h.slotVersion b s }

/-- Checks 7 to 9 (Table 6.2), on the pages that the walk of check 7 has referenced. Pages for which no leaf can be had any more are given back
(log entry 145, DESIGN CHOICE). -/
def Hw.lastChecks (h : Hw) (a : Asker) (e : Submission) (c : Cls) (slot window : Nat) (walk : List PageRef) : Ruling × Hw :=
  let m := e.model
  let room := h.walkRoom m e.promptLen
  let pages := walk.take room
  let h0 := h.giveBack (walk.drop room)
  let deferred := decide (h.now / 1000000000 < window)
  let start := if deferred then window * 1000000000 else h.now
  match h.footprint a.tenant (h.queueFacet a.queue) m (e.promptLen + e.maxNew) with
  | none => (.refuse 3 none, h0.giveBack pages)
  | some flags =>
    let v := h.entryVertex a e c slot start h.now (h.pageTokens m * pages.length) flags deferred
    if c ≠ .dl then (.take v pages, h0)
    else
      let p := h.project v.facet v h.now
      if p ≤ v.deadline ∧ p ≠ never then (.take { v with projection := p } pages, h0)
      else
        match if v.flags.testBit 1 then h.fallbackModel m else none with
        | some b =>
          let v' := h.fallbackVertex v b
          let p' := h.project v.facet v' h.now
          if p' ≤ v.deadline ∧ p' ≠ never then (.take { v' with projection := p' } [], h0.giveBack pages)
          else (.refuse 4 (some p'), h0.giveBack pages)
        | none => (.refuse 4 (some p), h0.giveBack pages)

/-- Checks 1 to 6 on a NEW entry, in their order (R121, R122). -/
def Hw.judge (h : Hw) (a : Asker) (entry : List Byte) : Verdict :=
  let e := submissionOf entry
  let migrates := a.ring.isSome && h.feature 3 && h.getAt 0x3101 9 a.tenant == 1
  match h.formBad entry, clsOf (e.classByte % 4) with
  | true, _ => .refuse 0xB
  | _, none => .refuse 0xB
  | false, some c =>
    if h.classFails a c (e.classByte / 16) then .refuse 6
    else match h.pinSlot e.model ([VPolicy.follow, .fixed, .exact].getD (e.vpolicy % 4) .follow) e.version with
      | none => .refuse 5
      | some slot =>
        if h.budgetFails a.tenant (e.promptLen + e.maxNew) then .refuse 2
        else match h.capacityFails a c with
          | some reason =>
            if a.ring.isNone then .refuse 7
            else if reason = 2 then .hold 2
            else if migrates then (if h.queueRoom a.queue 1 then .migrate else .hold 5)
            else if h.feature 62 then .refuse 7
            else .hold reason
          | none => match h.rateWindow a.tenant with
            | none => .refuse 2
            | some w => .reads slot w

/-! ## Making a sequence -/

/-- Takes the directory block and as many leaves as `n` pages need; fewer where the region is empty (R156). -/
def Hw.takeBlocks (h : Hw) : Nat → List Nat → List Nat × Hw
  | 0, l => (l, h)
  | n + 1, l => match h.takeBlock with
    | some (b, h1) => h1.takeBlocks n (l ++ [b])
    | none => (l, h)

/-- The lines of a new block table that map pages, and its directory lines. -/
def Hw.tableLines (h : Hw) (q : Seq) : List Line :=
  (changedLines [] (q.blocks.drop 1)).map (h.directoryLine q.com.tenant q.blocks) ++
  (mappedLines [] q.pagesCom).map (h.leafLine q q.pagesCom)

/-- A sequence that starts from a vertex and mapped pages: the slot, the tenant's reservation, the table and the hot set change at once
(R127, R133, R136, R156). Answers its slot. -/
def Hw.makeSeq (h : Hw) (v : Vertex) (prompt tokens : List Nat) (pages : List PageRef) : Option (Nat × Hw) :=
  match h.takeSlot with
  | none => none
  | some (slot, h1) =>
    let t := h1.takeBlocks (1 + leavesFor pages.length) []
    let gen := Map.getD h.gens slot 0 + 1
    let h2 := t.2
    let v' := { v with generation := gen, arrival := h.arrival, affinity := h2.affinityOf v.facet pages,
                       btRoot := h2.raw 0x4010 1 + t.1.headD 0 * 4096 }
    let hot := decide ((h2.seqs.filter fun e => e.2.hot).length < h2.hotCapacity)
    let q : Seq :=
      { com := v', cur := v', pagesCom := pages, pagesCur := pages, blocks := t.1, stale := [], tokensCom := tokens, tokensCur := tokens,
        prompt := prompt, given := [], bias := [], hot := hot, lastPlaced := (h2.facet v.facet).step, moving := false,
        migrateAsked := false, cancelAsked := none, urgent := false, missSeen := false, resQueue := [], resRing := [],
        recordReady := false, lastEntry := none }
    let h3 := ({ h2 with gens := Map.insert h2.gens slot gen, arrival := h2.arrival + 1 } : Hw).setSeq slot q
    let h4 := h3.bumpAt 0x3101 0xE v.tenant v.reservedTok
    some (slot, h4.postLines .page (h4.tableLines q ++ h4.infoLines (pages.map fun r => (r.pool, r.page))))

/-! ## Records -/

/-- Record fields of a refusal: those that no sequence gives a value to are free, and flags 3:0 are 0, since what they tell of (a prefix hit,
a host pool, a reduced share, the fallback) has not happened (Table 6.3; log entry 14, DESIGN CHOICE). -/
def refusedFields (outcome msgId stamp i : Nat) (projection : Option Nat) : AdmitFields :=
  { handle := 0, outcome := outcome, flags := if projection.isSome then 16 else 0, facet := Config.freeNat 127 (4 * i) % 16,
    model := Config.freeNat 127 (4 * i + 1) % 256, version := Config.freeNat 127 (4 * i + 2) % 2 ^ 32,
    prefixLen := Config.freeNat 127 (4 * i + 3) % 2 ^ 32, msgId := msgId, start := stamp, projection := projection.getD 0 }

/-- Record fields of an admission. -/
def Hw.admittedFields (h : Hw) (slot : Nat) (v : Vertex) (stamp : Nat) : AdmitFields :=
  { handle := handleOf slot v, outcome := if v.state = .deferred then 1 else 0,
    flags := (if 0 < v.prefixLen then 1 else 0) + (if v.hostPool then 2 else 0) + (if v.shareReduced then 4 else 0) +
      (if v.fallback then 8 else 0) + (if v.cls = .dl then 16 else 0),
    facet := v.facet, model := h.modelOf v, version := v.version, prefixLen := v.prefixLen, msgId := 0,
    start := if v.state = .deferred then v.start else stamp, projection := v.projection }

/-- Address of an entry's record (R118). -/
def Hw.recordAddr (h : Hw) (r i : Nat) : Nat := h.getAt 0x3011 2 r + i % h.getAt 0x3011 3 r * 64

/-- Counts and traces a decision, and logs one that is malformed or of a wrong class (R129, Table 16.4). -/
def Hw.noteDecision (h : Hw) (ring : Nat) (a : AdmitFields) : Hw :=
  let h1 := h.inc 0x3007 (a.outcome + 1)
  let h2 := if a.outcome = 0xB ∨ a.outcome = 6 then h1.event 1 (129 * 16) 2 none none else h1
  h2.traceRec 4 1 none (leBytes 8 a.handle ++ [BitVec.ofNat 8 a.outcome, 0, 0, 0] ++ leBytes 2 ring)

/-- Writes the record of a ring's entry c; its OKAY advances c (R118). -/
def Hw.postRecord (h : Hw) (r : Nat) (tag : Word64) (a : AdmitFields) : Hw :=
  let c := (h.ring r).consumed
  let bytes := admitRecord tag a h.now c (h.getAt 0x3011 3 r)
  ((h.noteDecision r a).modRing r fun x => { x with deciding := true, hold := 0 }).memPost true (h.recordAddr r c) 1 bytes .ring
    (some (h.getAt 0x3011 4 r)) (.admissionRecord r)

/-! ## Rings -/

/-- Whether ADM may decide an entry of a ring now: one at a time, with its entry read (R55, R118). -/
def Hw.ringOpen (h : Hw) (r : Nat) : Bool :=
  let x := h.ring r
  h.eng.state == .operational && h.getAt 0x3011 6 r == 1 && !x.deciding && h.ringWaiting r && h.adm.trial.isNone

/-! ## The order of service -/

/-- Whether a ring has entries that ADM has not decided and may decide: it is enabled, not held, and no failed write of its last decision
stops it (R119, R423). Entry c counts as decided while its record is on its way. -/
def Hw.wantsTurn (h : Hw) (r : Nat) : Bool :=
  let x := h.ring r
  h.getAt 0x3011 6 r == 1 && x.hold == 0 && h.ringWaiting r &&
  decide ((if x.deciding then 1 else 0) < sub32 x.latched x.consumed) &&
  !(h.mem.failed.any fun q => match q.use with
    | .admissionRecord k | .admissionVertex (some k) _ _ _ => k == r
    | _ => false)

/-- Rank of a ring's class: LC, then DL, then BE (R119). -/
def Hw.ringRank (h : Hw) (r : Nat) : Nat :=
  match clsOf (h.getAt 0x3011 5 r) with | some c => c.rank | none => 3

/-- Distance of a ring behind the one last served of its class, in ring order (R119). -/
def Hw.ringAfter (h : Hw) (r : Nat) : Nat :=
  match Map.find? h.turn.last (h.ringRank r) with
  | some k => (r + 4095 - k) % 4096
  | none => r

/-- The ring that ADM serves next, where ring `r` is taken to have an entry to decide: the ring whose turn it is, up to 16 entries, or else
the first in round-robin order of the best class (R119). -/
def Hw.nextRing (h : Hw) (r : Nat) : Nat :=
  let mine := match h.turn.ring with
    | some k => if h.turn.count < 16 ∧ h.wantsTurn k then some k else none
    | none => none
  match mine with
  | some k => k
  | none =>
    let cands := (h.rings.map Prod.fst).filter fun k => k != r && h.wantsTurn k
    cands.foldl (fun best k =>
      if h.ringRank k < h.ringRank best ∨ (h.ringRank k = h.ringRank best ∧ h.ringAfter k < h.ringAfter best) then k else best) r

/-- ADM takes up ring `r`: its turn goes on, or a turn of its own begins (R119). -/
def Hw.takeTurn (h : Hw) (r : Nat) : Hw :=
  let t := h.turn
  { h with turn := { ring := some r, count := if t.ring = some r ∧ t.count < 16 then t.count + 1 else 1,
                     last := Map.insert t.last (h.ringRank r) r } }

/-- An entry has been read (R118). -/
def Hw.entryRead (h : Hw) (r : Nat) (data : List Byte) : Hw := h.modRing r fun x => { x with entry := some (slice data 0 128) }

/-- ADM acts on what it has latched from the cc in which the engine enters OPERATIONAL (R55). -/
def Hw.openRings (before h : Hw) : Hw :=
  if h.eng.state = .operational ∧ before.eng.state ≠ .operational then h.readEntries else h

/-- ENGINE_DRAIN_COMPLETE. -/
def execEngineDrainComplete (s : State) : Host.Outcome State Fault Refusal :=
  .next (s.onAll 0 State.drainComplete)

/-- Sends a FORWARD message and takes the entry's place in its queue (R146). -/
def Hw.sendForward (h : Hw) (entry : List Byte) (queue : Nat) : Nat × Hw :=
  let id := h.fed.nextMsg
  let dest := h.raw 0x3050 1
  let msg := migrationMessage 1 (h.raw 0x8300 1) dest id 0 (fieldAt entry 0 8) 0 0 (slice entry 0 128)
  let h1 := h.fedSend dest 1 msg
  let m : Migration := { msgId := id, queue := queue, slot := none, handle := 0, dest := dest, sinceNs := h.now, reply := none }
  (id, ({ h1 with fed := { h1.fed with nextMsg := (id + 1) % 2 ^ 32, migrations := h1.fed.migrations ++ [m] } } : Hw).modQueue
    queue fun x => { x with migReserved := x.migReserved + 1 })

/-- Who asks through a ring. -/
def Hw.ringAsker (h : Hw) (r : Nat) (entry : List Byte) : Asker :=
  { ring := some r, tenant := h.getAt 0x3011 4 r, queue := (submissionOf entry).queue, cls := clsOf (h.getAt 0x3011 5 r) }

/-- Goes on to check 7: the prompt is read with purpose RING, for the ring's or the message's tenant (R121). -/
def Hw.readPrompt (h : Hw) (ring : Option Nat) (message entry : List Byte) (tenant slot window : Nat) : Hw :=
  let e := submissionOf entry
  let t : Trial := { ring := ring, message := message, entry := entry, slot := slot, window := window,
                     prompt := List.replicate e.promptLen 0, walk := none }
  let h1 : Hw := { h with adm := { h.adm with trial := some t } }
  h1.readBytes e.promptAddr (4 * e.promptLen) .ring (some tenant) .promptRead

/-- Evaluates entry c of a ring from check 1: it is held, or decided, or check 7 goes on to read (R121 to R128). -/
def Hw.decideNew (h : Hw) (r : Nat) (entry : List Byte) : Hw :=
  let e := submissionOf entry
  let i := (h.ring r).consumed
  let a := h.ringAsker r entry
  match h.judge a entry with
  | .hold reason => h.modRing r fun x => { x with hold := reason }
  | .refuse o => h.postRecord r e.tag (refusedFields o 0 h.now i none)
  | .migrate =>
    let m := h.sendForward entry e.queue
    m.2.postRecord r e.tag (refusedFields 8 m.1 h.now i none)
  | .reads slot w => (h.modRing r fun x => { x with deciding := true, hold := 0 }).readPrompt (some r) [] entry a.tenant slot w

/-- Entry c of a ring as it was read, if `cancel` says its operation rightly: bits [1:0] of its byte 8, of which the rest is reserved (R3, R120). -/
def Hw.entryOf (h : Hw) (r : Nat) (cancel : Bool) : Option (List Byte) :=
  (h.ring r).entry.filter fun l => (fieldAt l 8 1 % 4 == 1) == cancel

/-- NEW_ENTRY: ADM evaluates entry c of a ring that is not held and whose turn it is. -/
def execNewEntry (ring : Fin 4096) (_entry : List Byte) (_prompt : List Nat) (s : State) : Host.Outcome State Fault Refusal :=
  .next (s.onCore 1 fun h =>
    match h.entryOf ring.val false with
    | some entry =>
      if h.ringOpen ring.val ∧ (h.ring ring.val).hold = 0 ∧ h.nextRing ring.val = ring.val then
        (h.takeTurn ring.val).decideNew ring.val entry
      else h
    | none => h)

/-- Whether the condition that holds a ring may have cleared (R123, R424): the check that failed would pass, or a failed read is 1 µs old. -/
def Hw.holdClears (h : Hw) (r : Nat) : Bool :=
  let x := h.ring r
  let entry := x.entry.getD []
  let a := h.ringAsker r entry
  let c := (clsOf (fieldAt entry 10 1 % 4)).getD .be
  match x.hold with
  | 0 => false
  | 1 => if c = .lc then decide (0 < h.freeSlots) else decide (h.get 0x3002 1 < h.freeSlots)
  | 2 => decide (h.tenantLive a.tenant < h.getAt 0x3101 5 a.tenant)
  | 3 => (h.facet (h.queueFacet a.queue)).state == .active
  | 6 => match x.readFailNs with
    | some t => decide (t + 1000 ≤ h.now)
    | none => true
  | _ => h.queueRoom a.queue 1

/-- HELD_RING_REEVALUATE: ADM evaluates a held entry again from check 1, after a failed read by reading it again (R123, R424). -/
def execHeldRingReevaluate (ring : Fin 4096) (_entry : List Byte) (_prompt : List Nat) (s : State) : Host.Outcome State Fault Refusal :=
  .next (s.onCore 1 fun h =>
    if h.ringOpen ring.val ∧ h.holdClears ring.val ∧ h.nextRing ring.val = ring.val then
      let h1 := (h.takeTurn ring.val).modRing ring.val fun y => { y with hold := 0, readFailNs := none }
      match h.entryOf ring.val false with
      | some entry => h1.decideNew ring.val entry
      | none => h1.readEntry ring.val
    else h)

/-- Marks a sequence to end with a reason at its facet's next commit (R130). -/
def Hw.askEnd (h : Hw) (slot : Nat) (r : EndReason) : Hw :=
  h.modSeq slot fun q => { q with cancelAsked := some (q.cancelAsked.getD r) }

/-- Decides a CANCEL entry (R130). -/
def Hw.decideCancel (h : Hw) (r : Nat) (entry : List Byte) : Hw :=
  let tag := BitVec.ofNat 64 (fieldAt entry 0 8)
  let i := (h.ring r).consumed
  match h.liveSlot (fieldAt entry 40 8) with
  | some slot => match h.seq? slot with
    | some q =>
      if q.com.tenant = h.getAt 0x3011 4 r then (h.askEnd slot .cancel).postRecord r tag (refusedFields 9 0 h.now i none)
      else h.postRecord r tag (refusedFields 0xA 0 h.now i none)
    | none => h.postRecord r tag (refusedFields 0xA 0 h.now i none)
  | none => h.postRecord r tag (refusedFields 0xA 0 h.now i none)

/-- CANCEL_ENTRY. -/
def execCancelEntry (ring : Fin 4096) (_entry : List Byte) (s : State) : Host.Outcome State Fault Refusal :=
  .next (s.onCore 1 fun h =>
    match h.entryOf ring.val true with
    | some entry =>
      if h.ringOpen ring.val ∧ (h.ring ring.val).hold = 0 ∧ h.nextRing ring.val = ring.val then
        (h.takeTurn ring.val).decideCancel ring.val entry
      else h
    | none => h)

/-- A vertex written at an admission has its OKAY: the record follows, and with it TES sees the sequence (R127). -/
def Hw.admissionVertexDone (h : Hw) (ring : Option Nat) (slot addr : Nat) (record : List Byte) : Hw :=
  (h.modSeq slot fun x => { x with recordReady := true }).memPost true addr 1 record .ring ((h.seq? slot).map fun q => q.com.tenant)
    (match ring with | some r => .admissionRecord r | none => .other)

/-- An admission record has its OKAY: c advances, and the next entry is read (R118). -/
def Hw.admissionRecordDone (h : Hw) (r : Nat) : Hw :=
  (h.modRing r fun x => { x with consumed := (x.consumed + 1) % 2 ^ 32, deciding := false, entry := none }).readEntry r

/-- A read made at admission has failed: the ring is held with reason 6, and the entry is to be read again (R424). -/
def Hw.admissionReadFailed (h : Hw) (r : Nat) : Hw :=
  (h.modRing r fun x => { x with hold := 6, deciding := false, entry := none, readFailNs := some h.now }).event 1 (424 * 16) 3 none none

/-- Enables or disables a ring (R55, R117, R118, R424). -/
def Hw.ringEnable (h : Hw) (r : Nat) (on : Bool) : Status × Hw :=
  let was := h.getAt 0x3011 6 r == 1
  if on == was then (.ok, h)
  else if on then
    if h.getAt 0x3011 1 r % 4096 ≠ 0 ∨ h.getAt 0x3011 2 r % 4096 ≠ 0 ∨ !isPow2 (h.getAt 0x3011 3 r) then (.range, h)
    else if h.getAt 0x3101 1 (h.getAt 0x3011 4 r) ≠ 1 then (.state, h)
    else (.ok, ((h.setAt 0x3011 6 r 1).closeRing r).modRing r fun x => { x with consumed := 0, latched := 0, offCc := none })
  else (.ok, ((h.setAt 0x3011 6 r 0).closeRing r).modRing r fun x => { x with offCc := some h.cc })

/-! ## Starts, periods and the hot set -/

/-- Writes line 0 of a vertex whose committed state has changed (R135). -/
def Hw.postVertex (h : Hw) (slot : Nat) : Hw :=
  match h.seq? slot with
  | some q => h.postLines .locus [{ addr := h.vertexAddr slot, data := vertexLine0 slot q.com, tenant := some q.com.tenant }]
  | none => h

/-- A DEFERRED sequence enters PREFILL at the first 1 µs tick at or after its start (R128). -/
def Hw.deferredStart (h : Hw) (slot : Nat) : Hw :=
  match h.seq? slot with
  | some q =>
    let go := fun (v : Vertex) => if v.state = .deferred then { v with state := .prefill } else v
    if q.com.state = .deferred ∧ q.com.start ≤ h.nowUs * 1000 then (h.setSeq slot { q with com := go q.com, cur := go q.cur }).postVertex slot
    else h
  | none => h

/-- DEFERRED_START. -/
def execDeferredStart (slot : Nat) (s : State) : Host.Outcome State Fault Refusal :=
  .next (s.onCore 1 fun h => h.deferredStart slot)

/-- BUDGET_PERIOD_BOUNDARY: used tokens return to 0 (R132). -/
def execBudgetPeriodBoundary (s : State) : Host.Outcome State Fault Refusal := .next (s.onCore 1 Hw.rollBudget)

/-- HOT_FILL: LOC fills the next vertex of a facet's eligibility order (R137). -/
def execHotFill (slot : Nat) (s : State) : Host.Outcome State Fault Refusal :=
  .next (s.onCore 2 fun h =>
    match h.seq? slot with
    | some q => if h.nextFill q.com.facet = some slot then h.fillHot slot else h
    | none => h)

/-- A write of CANCEL (0x3302): a live handle's sequence ends as by a CANCEL entry; another handle is out of range (R130). -/
def Hw.cancelWrite (h : Hw) (handle : Nat) : Status × Hw :=
  match h.liveSlot handle with
  | some slot => (.ok, h.askEnd slot .cancel)
  | none => (.range, h)

/-- A write of MIGRATE_HANDLE (R147). A sequence that has migrated in is taken like any other: R146 keeps only a migrated-in submission from
migrating again (log entry 126, DESIGN CHOICE). -/
def Hw.migrateWrite (h : Hw) (handle : Nat) : Status × Hw :=
  match h.liveSlot handle with
  | some slot => match h.seq? slot with
    | some q =>
      if q.com.state = .decode ∧ q.com.promptLen + q.com.generated ≤ 65536 then
        (.ok, h.modSeq slot fun x => { x with migrateAsked := true })
      else (.range, h)
    | none => (.range, h)
  | none => (.range, h)

/-! ## Migration -/

/-- Sends a REPLY to a migration message (R146). -/
def Hw.sendReply (h : Hw) (message : List Byte) (remote outcome : Nat) : Hw :=
  h.fedSend (fieldAt message 2 2) 1
    (migrationMessage 3 (h.raw 0x8300 1) (fieldAt message 2 2) (fieldAt message 8 4) 0 (fieldAt message 24 8) remote outcome [])

/-- Whether a message's kind, lengths or codes are ones that Tables 6.4 and 6.9a do not give (R4). Codes within the entry or the vertex of its
body are refused MALFORMED at check 1. -/
def messageBad (l : List Byte) : Bool :=
  let n := fieldAt l 12 4
  match fieldAt l 0 1 with
  | 1 => n != 128
  | 2 => decide (n < 208) || n != 208 + 4 * (fieldAt l (64 + 56) 4 + fieldAt l (64 + 192) 4)
  | 3 => n != 0 || decide (0xC < fieldAt l 40 1)
  | _ => true

/-- Whether a migration message of a kind is taken: FEAT_FED_MIGRATE is active, its CRC checks and its kind is the one (R148). A message
that fails its CRC is counted and logged; a malformed one is discarded like a malformed frame (R4, R355, log entry 127, DEDUCED). -/
def Hw.takeMessage (h : Hw) (kind : Nat) (message : List Byte) (f : Hw → Hw) : Hw :=
  if !h.feature 3 then h
  else if !migrationOk message then (h.inc 0x3052 1).event 1 (148 * 16) 3 none none
  else if messageBad message then h.badFrame
  else if fieldAt message 0 1 = kind then f h
  else h

/-- The tenant of a FORWARD message: the message carries none, so it is free. -/
def forwardTenant (message : List Byte) : Nat := Config.freeNat 146 (fieldAt message 8 4 + fieldAt message 2 2 * 2 ^ 32) % 8192

/-- Who asks through a FORWARD message. -/
def Hw.forwardAsker (h : Hw) (message : List Byte) : Asker :=
  let t := forwardTenant message
  { ring := none, tenant := t, queue := h.getAt 0x3101 0xC t, cls := none }

/-- Answers a migration message with a decision, which counts and is logged like any other (R129, R146). A decision on no ring shows a free
value for the ring in its trace record. -/
def Hw.answer (h : Hw) (message : List Byte) (a : AdmitFields) : Hw :=
  (h.noteDecision (Config.freeNat 129 (fieldAt message 8 4) % 65536) a).sendReply message a.handle a.outcome

/-- A refusal of a migration message. -/
def Hw.refuseMessage (h : Hw) (message : List Byte) (outcome : Nat) : Hw := h.answer message (refusedFields outcome 0 h.now 0 none)

/-- A FORWARD message at the destination: checks 1 to 6, and the prompt read of check 7 (R146). -/
def Hw.forwardIn (h : Hw) (message : List Byte) : Hw :=
  let entry := slice message 64 128
  let a := h.forwardAsker message
  match h.judge a entry with
  | .refuse o => h.refuseMessage message o
  | .reads slot w => h.readPrompt none (slice message 0 64) entry a.tenant slot w
  | _ => h

/-- The vertex of a LIVE message as the destination holds it: its lines 1 to 3, pinned to the slot that holds its version (R147). -/
def Hw.liveVertex (h : Hw) (message : List Byte) (t queue slot : Nat) (c : Cls) : Vertex :=
  let b := message.drop 64
  let f8 := fun (o n : Nat) => fieldAt b o n
  let gen := f8 192 4
  { tenant := t, generation := 0, origin := 1, state := .prefill, endReason := none, vslot := slot, fallback := false, hostPool := false,
    shareReduced := false, facet := h.queueFacet queue, generated := gen, kvTokens := 0,
    lastToken := fieldAt b (208 + 4 * (f8 56 4 + gen - 1)) 4, reservedTok := f8 200 4, version := f8 196 4, lastStep := 0, projection := 0,
    btRoot := 0, affinity := 0, tag := BitVec.ofNat 64 (f8 0 8), seed := BitVec.ofNat 64 (f8 8 8), stream := BitVec.ofNat 64 (f8 16 8),
    deadline := f8 24 8, start := f8 32 8, admitted := h.now, model := f8 48 1, cls := c, level := f8 49 1 / 16, flags := f8 50 1 % 16,
    vpolicy := [VPolicy.follow, .fixed, .exact].getD (f8 51 1 % 4) .follow, topn := f8 52 1, queue := queue, promptLen := f8 56 4,
    maxNew := f8 60 4, stop := (List.range 4).map fun i => f8 (64 + 4 * i) 4, sampling := samplingOf (slice b 80 48),
    penalty := penaltyOf gen (slice b 128 32), spec := specOf (slice b 160 16), prefixLen := 0, arrival := 0 }

/-- The tenant of a LIVE message, from the handle it names (R147, Table 6.3). -/
def liveTenant (message : List Byte) : Nat := bits (fieldAt message 16 8) 32 20

/-- The checks on a LIVE message at the destination: its enumerated codes, class, version, budget and capacity (R4, R147). The outcome of a
refusal, or the version slot and class. -/
def Hw.liveCheck (h : Hw) (message : List Byte) : Nat ⊕ (Nat × Cls) :=
  let b := message.drop 64
  let t := liveTenant message
  let a : Asker := { ring := none, tenant := t, queue := h.getAt 0x3101 0xC t, cls := none }
  match clsOf (fieldAt b 49 1 % 4) with
  | none => .inl 0xB
  | some c =>
    if fieldAt b 51 1 % 4 = 3 ∨ fieldAt b 80 1 % 4 = 3 then .inl 0xB
    else if h.classFails a c (fieldAt b 49 1 / 16) then .inl 6
    else match h.pinSlot (fieldAt b 48 1) .exact (fieldAt b 196 4) with
      | none => .inl 5
      | some slot =>
        if h.budgetFails t (fieldAt b 200 4) then .inl 2
        else if (h.capacityFails a c).isSome then .inl 7
        else .inr (slot, c)

/-- Writes the vertex of a sequence that a message has brought; no record follows it. -/
def Hw.postArrival (h : Hw) (slot : Nat) (q : Seq) : Hw :=
  (h.modSeq slot fun x => { x with recordReady := true }).memPost true (h.vertexAddr slot) 4 (vertexBytes slot q.com) .locus
    (some q.com.tenant) .other

/-- A LIVE message at the destination: a sequence that prefills its prompt and generated tokens, or a refusal (R147). -/
def Hw.liveIn (h : Hw) (message : List Byte) : Hw :=
  match h.liveCheck message with
  | .inl outcome => h.refuseMessage message outcome
  | .inr (slot, c) =>
    let t := liveTenant message
    let v := h.liveVertex message t (h.getAt 0x3101 0xC t) slot c
    let toks := leWords 4 (slice (message.drop 64) 208 (4 * (v.promptLen + v.generated)))
    match h.makeSeq v (toks.take v.promptLen) (toks.drop v.promptLen) [] with
    | none => h.refuseMessage message 7
    | some (n, h1) => match h1.seq? n with
      | none => h1
      | some q => (h1.postArrival n q).answer message (h1.admittedFields n q.com h.now)

/-- A FORWARD or LIVE message is taken, or waits for the admission under way to end. -/
def Hw.messageIn (h : Hw) (message : List Byte) : Hw :=
  if h.adm.trial.isSome then { h with adm := { h.adm with messages := h.adm.messages ++ [message] } }
  else if fieldAt message 0 1 = 1 then h.forwardIn message
  else h.liveIn message

/-- Takes the messages that wait, in their order, until one of them goes on to read its prompt; `fuel` bounds them. -/
def Hw.serveMessages : Nat → Hw → Hw
  | 0, h => h
  | fuel + 1, h =>
    match h.adm.trial, h.adm.messages with
    | none, m :: rest => Hw.serveMessages fuel (({ h with adm := { h.adm with messages := rest } } : Hw).messageIn m)
    | _, _ => h

/-- The admission under way has ended. -/
def Hw.nextMessage (h : Hw) : Hw := Hw.serveMessages h.adm.messages.length h

/-- FORWARD_MESSAGE. -/
def execForwardMessage (message : List Byte) (_prompt : List Nat) (s : State) : Host.Outcome State Fault Refusal :=
  .next (s.onCore 1 fun h => h.takeMessage 1 message fun g => g.messageIn message)

/-- LIVE_MESSAGE. -/
def execLiveMessage (message : List Byte) (s : State) : Host.Outcome State Fault Refusal :=
  .next (s.onCore 1 fun h => h.takeMessage 2 message fun g => g.messageIn message)

/-! ## The end of an admission -/

/-- An admission on a ring: the vertex is written, and its record follows the write's OKAY (R127). -/
def Hw.takeIn (h : Hw) (r : Nat) (tag : Word64) (slot : Nat) (q : Seq) : Hw :=
  let i := (h.ring r).consumed
  let a := h.admittedFields slot q.com h.now
  let rec_ := admitRecord tag a h.now i (h.getAt 0x3011 3 r)
  (h.noteDecision r a).memPost true (h.vertexAddr slot) 4 (vertexBytes slot q.com) .locus (some q.com.tenant)
    (.admissionVertex (some r) slot (h.recordAddr r i) rec_)

/-- The walk of check 7 is done: checks 7 to 9 decide (R121, R126, R127). -/
def Hw.decideTrial (h : Hw) (t : Trial) (walk : List PageRef) : Hw :=
  let e := submissionOf t.entry
  let a := match t.ring with
    | some r => h.ringAsker r t.entry
    | none => h.forwardAsker t.message
  let c := (clsOf (e.classByte % 4)).getD .be
  let r := ({ h with adm := { h.adm with trial := none } } : Hw).lastChecks a e c t.slot t.window walk
  let h1 := match r.1 with
    | .refuse o p =>
      match t.ring with
      | some n => r.2.postRecord n e.tag (refusedFields o 0 h.now (h.ring n).consumed p)
      | none => r.2.refuseMessage t.message o
    | .take v pages =>
      match (r.2.countStart v.tenant t.window).makeSeq v t.prompt [] pages with
      | none => match t.ring with
        | some n => (r.2.giveBack pages).modRing n fun x => { x with deciding := false, hold := 1 }
        | none => (r.2.giveBack pages).refuseMessage t.message 7
      | some (slot, h2) => match h2.seq? slot with
        | none => h2
        | some q => match t.ring with
          | some n => h2.takeIn n e.tag slot q
          | none => (h2.postArrival slot q).answer t.message (h2.admittedFields slot q.com h.now)
  h1.nextMessage

/-- A read of the walk has its OKAY; with the last of them the entry is decided (R160). -/
def Hw.walkDone (h : Hw) : Hw :=
  match h.adm.trial with
  | some t => match t.walk with
    | some pages => if h.memWaiting fun u => u == .walkRead then h else h.decideTrial t pages
    | none => h
  | none => h

/-- Reads the index bucket of a key, and the token record of the page whose entry it finds (R160). -/
def Hw.readLookup (h : Hw) (tenant : Option Nat) (key : Nat) : Hw :=
  let h1 := h.memPost false (h.raw 0x4020 1 + h.bucket key * 64) 1 [] .page tenant .walkRead
  match h.pages.index.find? fun e => e.key = key with
  | some e => h1.memPost false (h.getAt 0x4001 7 e.pool + e.page * 256) 4 [] .page tenant .walkRead
  | none => h1

/-- The whole prompt has been read: PGM walks its full pages and references the matched ones at once; the bucket and the token record of each
lookup are read with purpose PAGE, and hold what PGM has written there (R126, R160). -/
def Hw.walkPrompt (h : Hw) (t : Trial) : Hw :=
  let e := submissionOf t.entry
  let room := h.walkRoom e.model e.promptLen
  let keys := prefixKeys (h.pageTokens e.model) room (rootKey e.model (h.slotVersion e.model t.slot)) t.prompt
  let w := (h.inc 0x4022 1).prefixWalk room keys
  let tenant := some (match t.ring with
    | some r => h.getAt 0x3011 4 r
    | none => forwardTenant t.message)
  let h1 : Hw := { w.2 with adm := { w.2.adm with trial := some { t with walk := some w.1 } } }
  ((keys.take (w.1.length + 1)).foldl (fun a k => a.readLookup tenant k.1) h1).walkDone

/-- Takes the tokens of the prompt that a read returned; with the last of them the walk begins (R121). -/
def Hw.takePrompt (h : Hw) (addr : Nat) (data : List Byte) (bytes : Nat) : Hw :=
  match h.adm.trial with
  | none => h
  | some t =>
    let base := fieldAt t.entry 32 8
    let got := (List.range t.prompt.length).filter fun i => decide (addr ≤ base + 4 * i) && decide (base + 4 * i + 4 ≤ addr + bytes)
    let t1 := { t with prompt := got.foldl (fun l i => l.set i (fieldAt data (base + 4 * i - addr) 4)) t.prompt }
    let h1 : Hw := { h with adm := { h.adm with trial := some t1 } }
    if h1.memWaiting fun u => u == .promptRead then h1 else h1.walkPrompt t1

/-- A read of check 7 has failed: the references go back and the ring is held; a FORWARD message is given up without a reply (R424, log entry 125,
DESIGN CHOICE). -/
def Hw.trialFailed (h : Hw) : Hw :=
  match h.adm.trial with
  | none => h
  | some t =>
    (match t.ring with
      | some r => h.dropTrial.admissionReadFailed r
      | none => h.dropTrial.event 1 (424 * 16) 3 none none).nextMessage

/-! ## Replies -/

/-- A REPLY ends a migration: ADMIT, or any answer to a FORWARD, writes the MIGRATED entry; any other answer to a LIVE message returns the
sequence to DECODE, or to PREFILL where its KV has been reset meanwhile (R146, R147, R167). A sequence that a cancel has ended meanwhile stays ended, and its MIGRATED entry is still written to the place
kept for it (log entry 126, DESIGN CHOICE). -/
def Hw.replyIn (h : Hw) (message : List Byte) : Hw :=
  match h.fed.migrations.find? fun m => m.msgId == fieldAt message 8 4 && m.reply.isNone with
  | none => h
  | some m =>
    let outcome := fieldAt message 40 1
    match m.slot with
    | none => h.endMigration m (fieldAt message 32 8) (fieldAt message 2 2) outcome
    | some s =>
      if outcome = 0 then h.endMigration m (fieldAt message 32 8) (fieldAt message 2 2) outcome
      else
        let h1 := (h.modQueue m.queue fun x => { x with migReserved := x.migReserved - 1 })
        let h2 : Hw := { h1 with fed := { h1.fed with migrations := h1.fed.migrations.erase m } }
        match h2.seq? s with
        | some q =>
          let back := fun (v : Vertex) => if v.state = .migrating then { v with state := if v.kvTokens < v.prefillEnd v.generated then .prefill else .decode } else v
          if handleOf s q.com = m.handle then (h2.setSeq s { q with com := back q.com, cur := back q.cur, migrateAsked := false }).postVertex s
          else h2
        | none => h2

/-- REPLY_MESSAGE. -/
def execReplyMessage (message : List Byte) (s : State) : Host.Outcome State Fault Refusal :=
  .next (s.onCore 1 fun h => h.takeMessage 3 message fun g => g.replyIn message)

/-- No reply to a message has come within MIGRATE_TIMEOUT: a MIGRATED entry with outcome TIMEOUT, naming the engine the message went to, ends the
migration (R148). -/
def Hw.migrateTimeout (h : Hw) (msgId : Nat) : Hw :=
  match h.fed.migrations.find? fun m => m.msgId == msgId && m.reply.isNone with
  | some m => if m.sinceNs + 1000000 * h.get 0x3051 1 ≤ h.now then h.endMigration m 0 m.dest 0xC else h
  | none => h

/-- MIGRATE_TIMEOUT. -/
def execMigrateTimeout (msgId : Nat) (s : State) : Host.Outcome State Fault Refusal :=
  .next (s.onCore 1 fun h => h.migrateTimeout msgId)

end Sys2Proof.Machine
end

