-- ==== Sys2Proof/Machine/Pools.lean ====
section
/-! DEFINITION. Page pools and delivery queues: enabling and disabling, reclaim, eviction, recall and the end of a page move, and the
publication of a queue (R133, R139 to R141, R150, R162 to R166, R299, R301). -/

namespace Sys2Proof.Machine

open Sys2Proof

/-! ## Delivery queues -/

/-- Whether the classes of a tenant and its isolation group allow its queue on a facet (R299, R301). -/
def Hw.queueFits (h : Hw) (f t : Nat) : Bool :=
  let mask := h.get 0x9000 (f + 1)
  let iso := h.raw 0x9001 (f + 1)
  ((List.range 3).all fun c => !(h.getAt 0x3101 2 t).testBit c || mask.testBit c) && (iso == 0 || h.getAt 0x3101 3 t == iso)

/-- A write of QUEUE_ENABLE (R139, R299, R301). -/
def Hw.queueEnable (h : Hw) (q : Nat) (on : Bool) : Status × Hw :=
  if on == h.queueOn q then (.ok, h)
  else if on then
    if h.getAt 0x3021 1 q % 4096 ≠ 0 ∨ !isPow2 (h.queueSize q) ∨ !h.queueFits (h.queueFacet q) (h.getAt 0x3021 3 q) then (.range, h)
    else (.ok, (h.setAt 0x3021 6 q 1).modQueue q fun x => { x with w := 0, k := 0, m := 0, c := 0 })
  else if h.seqs.any fun e => e.2.com.queue = q then (.busy, h)
  else (.ok, h.setAt 0x3021 6 q 0)

/-- The header of a queue that publishes `k` (R139). -/
def Hw.queueHeader (h : Hw) (q k : Nat) : List Byte :=
  leBytes 4 k ++ leBytes 4 0 ++ leBytes 8 h.now ++ leBytes 8 (h.facet (h.queueFacet q)).step

/-- Whether a facet's journal has taken to memory every step committed so far: the vertex lines of R138 have OKAY. -/
def Hw.linesDone (h : Hw) (f : Nat) : Bool := (Map.getD h.journal f Journal.reset).groups == []

/-- Writes a queue's header once every entry below K and every vertex line of its facet has OKAY (R141). -/
def Hw.publish (h : Hw) (q : Nat) : Hw :=
  let x := h.queue q
  if h.queueOn q ∧ h.eng.state ≠ .faultHold ∧ x.k ≠ x.m ∧ x.publishing.isNone ∧ h.deliveredBelow q x.k ∧ h.linesDone (h.queueFacet q) then
    (h.modQueue q fun y => { y with publishing := some x.k }).memPost true (h.getAt 0x3021 1 q) 1 (h.queueHeader q x.k) .ring
      (some (h.getAt 0x3021 3 q)) (.queueHeader q x.k)
  else h

/-- QUEUE_PUBLICATION. -/
def execQueuePublication (queue : Fin 4096) (s : State) : Host.Outcome State Fault Refusal :=
  .next (s.onCore 2 fun h => h.publish queue.val)

/-- A slot whose sequence is over returns to the free list, unless its generation is spent (R133, R134). -/
def Hw.freeSlot (h : Hw) (slot : Nat) : Hw :=
  let h1 : Hw := { h with seqs := Map.erase h.seqs slot }
  if Map.getD h.gens slot 0 ≥ 0xFFFFFFF then h1.inc 0x3006 1 else { h1 with slotsFreed := h1.slotsFreed ++ [slot] }

/-- A header write has its OKAY: M takes the published count, an armed queue raises its vector, and the slots of sequences whose last
entry is published are freed (R58, R140, R141, R144). -/
def Hw.headerDone (h : Hw) (q k : Nat) : Hw :=
  let x := h.queue q
  let advanced := decide (x.m ≠ k)
  let h1 := h.modQueue q fun y => { y with m := k, publishing := none, armed := y.armed && !advanced }
  let h2 := if x.armed && advanced then h1.pulse (h.getAt 0x3021 5 q) else h1
  (h2.seqs.filter fun e => e.2.com.queue = q && e.2.com.state == .ended && (match e.2.lastEntry with
      | some i => decide (0 < sub32 k i) && decide (sub32 k i < 2 ^ 31)
      | none => false)).foldl (fun a e => a.freeSlot e.1) h2

/-- The header of a queue whose counts are rebuilt has been read: M takes its count, with a publication's effects where that moves it, and of
the two copies of C the one that leaves M − C larger is kept, unless a doorbell has written both since (R145). -/
def Hw.countsRead (h : Hw) (q c0 c1 m : Nat) : Hw :=
  let x := h.queue q
  let h1 := if x.c = c0 then h.modQueue q fun y => { y with c := if sub32 m c0 < sub32 m c1 then c1 else c0 } else h
  if x.m = m then h1 else (h1.headerDone q m).modQueue q fun y => { y with publishing := x.publishing }

/-- A write of a delivery doorbell: C takes a released count that lies between C and M; an armed queue raises its vector at once where M
differs from C (R144). -/
def Hw.deliveryDoorbell (h : Hw) (q released : Nat) (arm : Bool) : Hw :=
  let x := h.queue q
  if sub32 released x.c ≤ sub32 x.m x.c then
    let armed := x.armed || arm
    let fire := armed && x.m != released
    let h1 := h.modQueue q fun y => { y with c := released, armed := armed && !fire }
    if fire then h1.pulse (h.getAt 0x3021 5 q) else h1
  else (h.inc 0x2002 1).event 2 (144 * 16) 3 none none

/-! ## Pools -/

/-- Whether pages of a pool are mapped by a block table or take part in a move (R150). -/
def Hw.poolUsed (h : Hw) (k : Nat) : Bool :=
  (h.seqs.any fun e => (e.2.pagesCom ++ e.2.pagesCur).any fun r => r.pool == k) ||
  h.pages.moves.any fun m => m.source.1 == k || m.dest.1 == k

/-- A pool whose every page is free, in ascending order; the notice stays for its reader (R150, R153). -/
def Pool.renew (p : Pool) : Pool := { Pool.reset with minFree := p.minFree, crossings := p.crossings }

/-- A write of POOL_ENABLE (R150). The entry's FEATURE refusal of a host pool comes before its own conditions. -/
def Hw.poolEnable (h : Hw) (k : Nat) (on : Bool) : Status × Hw :=
  if on == h.poolOn k then (.ok, h)
  else if on then
    if h.hostPool k ∧ !h.featureForWrites 7 then (.feature, h)
    else if h.getAt 0x4001 1 k % 4096 ≠ 0 ∨ h.getAt 0x4001 6 k % 4096 ≠ 0 ∨ h.getAt 0x4001 7 k % 4096 ≠ 0 ∨ h.getAt 0x4001 2 k % 4096 ≠ 0 then
      (.range, h)
    else (.ok, (h.setAt 0x4001 8 k 1).modPool k Pool.renew)
  else if h.poolUsed k then (.busy, h)
  else
    let h1 : Hw := { h with pages := { h.pages with index := h.pages.index.filter fun e => !(e.pool == k) } }
    let h2 := (h1.pool k).cached.foldl (fun a p => a.freePage (k, p)) h1
    (.ok, ((h2.postPages h).setAt 0x4001 8 k 0).modPool k Pool.renew)

/-- PAGE_RECLAIM: a device pool below POOL_LOW reclaims the head of its cached list (R163). -/
def execPageReclaim (pool : Fin 64) (s : State) : Host.Outcome State Fault Refusal :=
  .next (s.onCore 3 fun h =>
    if h.poolOn pool.val ∧ !h.hostPool pool.val ∧ h.poolFree pool.val < h.getAt 0x4001 0xA pool.val then (h.reclaim pool.val).postPages h else h)

/-- The first page of a sequence that may be evicted from a pool. -/
def Hw.evictable (h : Hw) (k slot : Nat) : Option Nat :=
  match h.seq? slot with
  | some q =>
    if q.pinned ∨ (h.hostPools (h.modelOf q.com)).all (fun p => h.poolFree p = 0) then none
    else (h.movablePages slot q fun p => p = k).head?
  | none => none

/-- The sequence that loses a page of a pool: a victim the policy cores name, or else the one that has gone the most steps without
placement, the lowest slot first (R164). -/
def Hw.evictVictim (h : Hw) (k : Nat) : Option Nat :=
  match (h.pages.victims.filterMap fun w => h.liveSlot w.toNat).find? fun s => (h.evictable k s).isSome with
  | some s => some s
  | none =>
    ((h.seqs.filter fun e => (h.evictable k e.1).isSome).foldl (fun (best : Option (Nat × Nat)) e =>
      match best with
      | none => some (e.1, h.unplaced e.2)
      | some b => if b.2 < h.unplaced e.2 then some (e.1, h.unplaced e.2) else best) none).map Prod.fst

/-- The sequence and page that a pool below POOL_LOW without a cached page moves out (R164). -/
def Hw.evictChoice (h : Hw) (k : Nat) : Option (Nat × Nat) :=
  if h.poolOn k ∧ !h.hostPool k ∧ h.poolFree k < h.getAt 0x4001 0xA k ∧ (h.pool k).cached = [] ∧ h.feature 7 then
    (h.evictVictim k).bind fun s => (h.evictable k s).map fun i => (s, i)
  else none

/-- Moves one page out of a device pool that is below POOL_LOW and has no cached page (R164). -/
def Hw.evict (h : Hw) (k : Nat) : Hw :=
  match h.evictChoice k with
  | some (s, i) => h.startMove s i false
  | none => h

/-- PAGE_EVICT. -/
def execPageEvict (pool : Fin 64) (s : State) : Host.Outcome State Fault Refusal := .next (s.onCore 3 fun h => h.evict pool.val)

/-- The displaced sequence admitted first that a pool above POOL_HIGH can take a page of, with its first host page (R165). -/
def Hw.recallChoice (h : Hw) (k : Nat) : Option (Nat × Seq × Nat) :=
  if h.poolOn k ∧ !h.hostPool k ∧ h.getAt 0x4001 0xB k < h.poolFree k then
    let fits := fun (e : Nat × Seq) =>
      !e.2.com.hostPool && !e.2.pinned && (h.getAt 0x4101 3 (h.modelOf e.2.com)).testBit k && (h.movablePages e.1 e.2 h.hostPool) != []
    match (h.seqs.filter fits).foldl (fun (best : Option (Nat × Seq)) e =>
        match best with
        | none => some e
        | some b => if e.2.com.arrival < b.2.com.arrival then some e else best) none with
    | some (slot, q) => (h.movablePages slot q h.hostPool).head?.map fun i => (slot, q, i)
    | none => none
  else none

/-- Moves the first host page of the displaced sequence admitted first back to a device pool, while the pool stands above POOL_HIGH
(R165). -/
def Hw.recall (h : Hw) (k : Nat) : Hw :=
  match h.recallChoice k with
  | some (slot, _, i) => h.startMove slot i true
  | none => h

/-- PAGE_RECALL. -/
def execPageRecall (pool : Fin 64) (s : State) : Host.Outcome State Fault Refusal := .next (s.onCore 3 fun h => h.recall pool.val)

/-- Whether a pair's outputs leave it: its firmware runs, it is not masked, and no resync holds it (R369, R380). -/
def Hw.pairRuns (h : Hw) (p : Nat) : Bool :=
  h.raw 0xA064 1 == 2 && !(h.raw 0xA012 1).testBit p && !(h.pair p).resyncing

/-- Takes a pair's list of victims. A name of a pinned sequence, which may not be evicted (R164), is refused by PGM with an event in family
0xD whose severity the manual does not state (R14); a handle that is not live names nothing (log entry 13). -/
def Hw.nameVictims (h : Hw) (p : Nat) (l : List Word64) : Hw :=
  let seqOf := fun (w : Word64) => (h.liveSlot w.toNat).bind h.seq?
  let bad := fun (w : Word64) => match seqOf w with
    | some q => q.pinned
    | none => false
  let h1 : Hw := { h with pages := { h.pages with victims := l.filter fun w => (seqOf w).isSome && !bad w } }
  if l.any bad then h1.eventUnit 0xD (14 * 16) (Config.freeNat 14 0 % 6) (0x20 + p) none else h1

/-- A policy core names victim sequences (R164). -/
def execVictimProposal (pair : Fin 8) (handles : List Word64) (s : State) : Host.Outcome State Fault Refusal :=
  .next (s.onCore (0x20 + pair.val) fun h =>
    if h.pairRuns pair.val then h.nameVictims pair.val handles else h)

/-! ## The end of a move -/

/-- A page of a block table switched to the destination of a move. -/
def switchPage (m : Move) (l : List PageRef) : List PageRef :=
  match l[m.index]? with
  | some r => if (r.pool, r.page) = m.source then l.set m.index { r with pool := m.dest.1, page := m.dest.2 } else l
  | none => l

/-- The copy of a move has completed OK: the leaf entry is written to the new page (R166). A page that its sequence has given up since is
not switched. -/
def Hw.copyDone (h : Hw) (m : Move) : Hw :=
  match h.seq? m.slot with
  | none => h.moveFailed m
  | some q =>
    if (q.pagesCom[m.index]?.map fun r => (r.pool, r.page)) ≠ some m.source then h.moveFailed m
    else
      let i := h.pageInfo m.source
      let pages := switchPage m q.pagesCom
      let h1 := (h.setSeq m.slot { q with pagesCom := pages, pagesCur := switchPage m q.pagesCur }).setPage m.dest
        { refs := 1, key := i.key, tokens := i.tokens, listed := false }
      let line := h1.leafLine q pages (m.index / 8)
      (h1.postPages h).memPost true line.addr 1 line.data .page line.tenant (.moveLeaf m.slot m.index)

/-- A copy command has ended (R166). -/
def Hw.copyEnded (h : Hw) (tag : Nat) (ok : Bool) : Hw :=
  match h.pages.moves.find? fun m => m.tag == tag with
  | some m => if ok then h.copyDone m else h.moveFailed m
  | none => h

/-- The leaf entry of a move has its OKAY: the old page is freed and the move is over (R166). -/
def Hw.moveLeafDone (h : Hw) (slot index : Nat) : Hw :=
  match h.pages.moves.find? fun m => m.slot == slot && m.index == index with
  | some m => (((h.dropMove m).freePage m.source).postPages h).inc (if m.isRecall then 0x4031 else 0x4030) 1
  | none => h

end Sys2Proof.Machine
end

