-- ==== Sys2Proof/Machine/MemPort.lean ====
section
/-! DEFINITION. Responses on the memory port: what each access's completion lets go on, retries, failures, watchdogs and the re-issue of
committed writes (R60, R61, R67, R68, R118, R253, R325, R340, R355, R373, R423, R424). -/

namespace Sys2Proof.Machine

open Sys2Proof

/-! ## What a completed access lets go on -/

/-- Whether bits of a bias entry make it one that is ignored (R253). -/
def biasBad (V token : Nat) (b : BitVec 32) : Bool :=
  decide (V ≤ token % 2 ^ 20) || decide (2 ^ 20 ≤ token) || f32IsNaN b || (f32IsInf b && !f32Neg b)

/-- Indices below `n` of the `size`-byte items from `base` that a read of `bytes` bytes at `addr` holds whole. -/
def itemsIn (base size n addr bytes : Nat) : List Nat :=
  (List.range n).filter fun i => decide (addr ≤ base + size * i) && decide (base + size * i + size ≤ addr + bytes)

/-- Takes the entries of a bias list that a read returned; an ignored entry is a bias of 0 and counts in 0x7029 (R253). -/
def Hw.takeBias (h : Hw) (slot addr : Nat) (data : List Byte) (bytes : Nat) : Hw :=
  match h.seq? slot with
  | none => h
  | some q =>
    let s := q.cur.sampling
    let V := h.getAt 0x7001 1 (h.modelOf q.cur)
    let base := if q.bias.length = s.biasCount then q.bias else List.replicate s.biasCount (0, 0)
    let got := (itemsIn s.biasAddr 8 s.biasCount addr bytes).map fun i =>
      (i, fieldAt data (s.biasAddr + 8 * i - addr) 4, BitVec.ofNat 32 (fieldAt data (s.biasAddr + 8 * i + 4 - addr) 4))
    let bad := (got.filter fun e => biasBad V e.2.1 e.2.2).length
    let bias := got.foldl (fun l e => l.set e.1 (if biasBad V e.2.1 e.2.2 then (0, 0) else (e.2.1 % 2 ^ 20, e.2.2))) base
    let h1 := h.setSeq slot { q with bias := bias }
    if bad > 0 then h1.bump 0x7029 1 bad else h1

/-- Takes given tokens `first` to `first + count − 1` of a score sequence, as far as a read returned them (R253). -/
def Hw.takeGiven (h : Hw) (slot first count addr : Nat) (data : List Byte) (bytes : Nat) : Hw :=
  match h.seq? slot with
  | none => h
  | some q =>
    let a := q.cur.sampling.scoreAddr
    let n := first + count
    let base := q.given ++ List.replicate (n - q.given.length) 0
    let got := ((itemsIn a 4 n addr bytes).filter fun i => decide (first ≤ i)).map fun i => (i, fieldAt data (a + 4 * i - addr) 4)
    h.setSeq slot { q with given := got.foldl (fun l e => l.set e.1 e.2) base }

/-- The written count an experience ring may show: records up to the first one still without OKAY (R340). -/
def Hw.expWritable (h : Hw) (r : Nat) : Nat :=
  let w := (Map.getD h.expRings r (0, 0)).1
  let waiting := h.mem.all.filterMap fun q => match q.use with
    | .experience r' i => if r' = r ∧ !q.expired then some (sub32 w i) else none
    | _ => none
  sub32 w (waiting.foldl max 0)

/-- Writes an experience ring's written count where it has moved and no such write runs (R340). -/
def Hw.expHeader (h : Hw) (r : Nat) : Hw :=
  let x := Map.getD h.expRings r (0, 0)
  let k := h.expWritable r
  if k = x.2 ∨ h.mem.all.any fun q => q.write && !q.expired && q.use == .experienceCount r then h
  else
    Hw.memPost { h with expRings := Map.insert h.expRings r (x.1, k) } true (h.getAt 0x8201 1 r) 1 (leBytes 4 k) .exper
      (some (h.getAt 0x8201 3 r)) (.experienceCount r)

/-- Frames of the out ring have their OKAY, or an earlier produced count has: the produced count is written where memory does not hold it,
one write at a time (R355, R62). -/
def Hw.fedProduced (h : Hw) : Hw :=
  if (h.memWaiting fun u => u == .fedFrame) || h.mem.all.any fun q => q.write && q.use == .fedCount then h
  else h.memPost true (h.raw 0x8303 1) 1 (leBytes 8 h.fed.produced) .fed none .fedCount

/-- A header line of an attempt block has its OKAY: the block's header stands once no other line of it is on its way (R342, R346). -/
def Hw.headerLine (h : Hw) (f : Nat) (u : Bool) : Hw :=
  if h.memWaiting fun x => x == .learnHeader f u then h
  else h.modJob f u fun j => if j.decision.isSome then { j with nextHeaderOk := true } else { j with headerOk := true }

/-- A resume record has been read (R324). -/
def Hw.takeResume (h : Hw) (f : Nat) (data : List Byte) : Hw :=
  { h with ctxRecords := Map.insert h.ctxRecords (resumeKey f) (slice data 0 64) }

/-- A telemetry record has its OKAY (R346, 0x8042). -/
def Hw.telemetryDone (h : Hw) (f : Nat) (u : Bool) : Hw :=
  let m := (h.job f u).model
  (h.setAt 0x8042 1 m ((h.getAt 0x8042 1 m + 1) % 2 ^ 32)).modJob f u fun j => { j with telemetryOk := true }

/-- A record of the memory event ring has its OKAY (R399). -/
def Hw.eventDone (h : Hw) (seq : Nat) (ok : Bool) : Hw :=
  let h1 : Hw := { h with events := { h.events with buffer := h.events.buffer.map fun e => if e.seq = seq then { e with dueMem := false } else e } }
  (if ok then h1.set 0xC007 1 ((h1.raw 0xC007 1 + 1) % 2 ^ 32) else h1).flushEvents

/-- A trace record leaves the trace buffer: written, or dropped after its write failed (R391). -/
def Hw.traceDone (h : Hw) (index : Nat) (ok : Bool) : Hw :=
  let h1 : Hw := { h with trace := { h.trace with buffer := h.trace.buffer.eraseP fun e => e.1 == index } }
  if ok then h1 else h1.traceDrop 1

/-- Charges an access to its tenant once it is over (R325, R327): in the open ledger of the facet it serves, or at once. -/
def Hw.chargeMem (h : Hw) (r : MemReq) : Hw :=
  match r.tenant with
  | none => h
  | some t =>
    let c := { Charges.zero with memBytes := 64 * r.beats }
    let facet := match r.use with
      | .biasRead f _ _ | .givenRead f _ _ _ _ | .kvList f _ | .stepWrite f _ => some f
      | .deliveryEntry q _ => some (h.queueFacet q)
      | _ => none
    match facet with
    | some f => if (h.facet f).state.runs ∧ (h.facet f).state ≠ .exclusive then h.charge f t c else h.chargeNow t c
    | none => h.chargeNow t c

/-- What an access's OKAY lets go on. `data` is what a read returned. -/
def Hw.memDone (h : Hw) (r : MemReq) (data : List Byte) : Hw :=
  match r.use with
  | .admissionRecord ring => h.admissionRecordDone ring
  | .admissionVertex ring slot addr record => h.admissionVertexDone ring slot addr record
  | .admissionRead ring => h.entryRead ring data
  | .promptRead => h.takePrompt r.addr data (64 * r.beats)
  | .walkRead => h.walkDone
  | .deliveryEntry q _ => h.journalAdvance (h.queueFacet q) 4
  | .queueHeader q k => h.headerDone q k
  | .queueRebuild q c0 c1 => h.countsRead q c0 c1 (fieldAt data 0 4)
  | .journalEntry f _ | .journalSeal f | .tableLine f => h.journalAdvance f 4
  | .stepWrite _ tags | .kvList _ tags => h.decrementAll tags
  | .biasRead _ slot _ => h.takeBias slot r.addr data (64 * r.beats)
  | .givenRead _ slot first count _ => h.takeGiven slot first count r.addr data (64 * r.beats)
  | .moveLeaf slot index => h.moveLeafDone slot index
  | .experience ring _ => h.expHeader ring
  | .experienceCount ring =>
    if r.write then (h.setAt 0x8201 6 ring (fieldAt r.data 0 4)).expHeader ring else h.setAt 0x8201 7 ring (fieldAt data 8 4)
  | .accountRecord _ => h.accountDone
  | .telemetry f u => h.telemetryDone f u
  | .learnHeader f u => h.headerLine f u
  | .updatePart f u => h.modJob f u fun j => { j with updateOk := true }
  | .eventRecord seq => h.eventDone seq true
  | .traceRecord index => h.traceDone index true
  | .fedFrame => h.fedProduced
  | .fedCount =>
    if r.write then (if fieldAt r.data 0 8 = h.fed.produced then h else h.fedProduced)
    else Hw.fedDrain { h with fed := { h.fed with outRead := fieldAt data 8 8 } }
  | .contextRecord f => h.takeResume f data
  | .graphRead f u => h.graphLine f u r.addr (64 * r.beats) data
  | .fedPoll => h.fedHeader data
  | .fedUnits => h.fedUnitsIn (slice data 0 (64 * r.beats))
  | .flipRead _ m slot => h.walkVisit m slot
  | .startRead | .fedIn | .vertexRead _ _ | .other => h

/-! ## Failures -/

/-- Whether a write carries state that is already committed, or belongs to no facet's open step (R423). -/
def Hw.committedWrite (h : Hw) (r : MemReq) : Bool :=
  r.write &&
  match r.use with
  | .admissionRecord _ | .admissionVertex _ _ _ _ | .queueHeader _ _ | .journalEntry _ _ | .journalSeal _ | .tableLine _ | .moveLeaf _ _
  | .experience _ _ | .experienceCount _ | .fedFrame | .fedCount | .fedIn | .other => true
  | .deliveryEntry q i => decide (0 < sub32 (h.queue q).k i) && decide (sub32 (h.queue q).k i < 2 ^ 31)
  | _ => false

/-- The facet whose open step an access belongs to. -/
def Hw.memFacet (h : Hw) (u : MemUse) : List Nat :=
  match u with
  | .stepWrite f _ | .kvList f _ | .biasRead f _ _ | .givenRead f _ _ _ _ | .telemetry f _ | .learnHeader f _ | .updatePart f _ | .vertexRead f _
  | .flipRead f _ _ => [f]
  | .deliveryEntry q _ | .queueRebuild q _ _ => [h.queueFacet q]
  | _ => []

/-- Whether a purpose is dropped after a failed retry (Table 3.11). -/
def Purpose.dropped : Purpose → Bool
  | .event | .account | .trace | .start => true
  | _ => false

/-- An access of purpose EVENT, ACCOUNT, TRACE or START is dropped: S4, and a gap in the trace (Table 3.11). `row` tells a failed retry
from a DECERR. -/
def Hw.memDropped (h : Hw) (r : MemReq) (row : Nat) : Hw :=
  let h1 := h.event 0 (68 * 16 + row) 4 none none
  match r.use with
  | .eventRecord seq => h1.eventDone seq false
  | .accountRecord _ => h1.accountLost
  | .traceRecord index => h1.traceDone index false
  | _ => h1

/-- A failed committed write is kept for its re-issue, without a further retry; S4, and its sixteenth failure in succession is a FAULT_HOLD
(R423). -/
def Hw.memKept (h : Hw) (r : MemReq) : Hw :=
  let h1 := h.event 0 (423 * 16) 4 none none
  let r' := { r with fails := r.fails + 1, retried := true, reissueNs := some (h.now + 1000) }
  let h2 : Hw := { h1 with mem := { h1.mem with failed := h1.mem.failed ++ [r'] } }
  if r'.fails = 16 then h2.faultHold none else h2

/-- Whether a failed access is asked for again beside the recovery, since what waits on it still needs it. -/
def MemUse.asksAgain : MemUse → Bool
  | .stepWrite _ _ | .kvList _ _ | .biasRead _ _ _ | .givenRead _ _ _ _ _ | .vertexRead _ _ | .flipRead _ _ _ | .queueRebuild _ _ _ => true
  | _ => false

/-- The tag of a page copy whose argument block a write carries. -/
def Hw.copyTag (h : Hw) (u : MemUse) : Option Nat :=
  u.writeTags.find? fun t => match h.desc? t with | some d => d.owner == .copy | none => false

/-- An access of a facet's open step, or a read made at admission, has failed for good (Table 3.11, R424). -/
def Hw.memLost (h : Hw) (r : MemReq) : Hw :=
  match r.use with
  | .admissionRead ring => h.admissionReadFailed ring
  | .promptRead | .walkRead => h.trialFailed
  | .fedCount | .experienceCount _ | .other => h
  | .fedPoll | .fedUnits => { h with fed := { h.fed with polling := false, inData := [] } }
  | .graphRead f u => h.teardown f u 5
  | .contextRecord f => h.teardown f false 5
  | u => match h.copyTag u with
    | some t => (h.copyEnded t false).retire t
    | none =>
      let h1 := h.fault (h.memFacet u) .unnamed false
      if u.asksAgain then h1.memAgain { r with retried := false, expired := false, fails := 0 } else h1

/-- A ring is disabled by a DECERR; a doorbell of the same cc comes after it (R55, Table 3.11). -/
def Hw.ringOff (h : Hw) (r : Nat) : Hw := ((h.setAt 0x3011 6 r 0).closeRing r).modRing r fun x => { x with offCc := some h.cc }

/-- A DECERR on an address that the driver has supplied with purpose RING or FED: no retry; the ring is disabled, and a job whose graph,
table or record it was is torn down (Table 3.11, R232). -/
def Hw.ringDown (h : Hw) (r : MemReq) : Hw :=
  let h1 := h.event 1 (68 * 16) 4 none none
  match r.use with
  | .admissionRecord ring | .admissionRead ring => h1.ringOff ring
  | .promptRead => match h1.adm.trial.bind fun t => t.ring with
    | some ring => (h1.ringOff ring).nextMessage
    | none => h1.dropTrial.nextMessage
  | .deliveryEntry q _ | .queueHeader q _ | .queueRebuild q _ _ => (h1.setAt 0x3021 6 q 0).modQueue q fun x => { x with publishing := none }
  | .fedFrame | .fedCount => { h1 with fed := { h1.fed with outOff := true } }
  | .fedIn | .fedPoll | .fedUnits => { h1 with fed := { h1.fed with inOff := true, polling := false, inData := [] } }
  | .graphRead f u => h1.teardown f u 5
  | .contextRecord f => h1.teardown f false 5
  | _ => h1

/-- The answer to a status other than OKAY, or to a timeout; the request has left its channel (R68, Table 3.11). An access is retried once;
a DECERR is not, and logs S4 once. -/
def Hw.memError (h : Hw) (r : MemReq) (decerr : Bool) : Hw :=
  let h1 := h.inc 0x2103 (r.channel + 1)
  if decerr ∧ (r.purpose = .ring ∨ r.purpose = .fed) then h1.ringDown r
  else if !decerr ∧ !r.retried then h1.memAgain { r with retried := true, expired := false }
  else if r.purpose.dropped then h1.memDropped r (if decerr then 1 else 0)
  else if h1.committedWrite r then h1.memKept r
  else if decerr then (h1.event 0 (68 * 16 + 1) 4 none none).memLost r
  else h1.memLost r

/-! ## Responses -/

/-- A request's watchdog expires: the access is a failed one, and its tag stays unused until the late response (R67, R68). -/
def Hw.memExpire (h : Hw) (r : MemReq) : Hw :=
  let old := fun (q : MemReq) => if q == r then { q with expired := true, use := .other } else q
  let h1 : Hw := { h with mem := { h.mem with out := h.mem.out.map old } }
  h1.memError r false

/-- The stamp at which a request's watchdog expires (R67, 0x2101). -/
def Hw.memLimit (h : Hw) (r : MemReq) : Nat := r.sinceNs + 1000 * h.get 0x2101 1

/-- A late response is discarded and counted, and its tag is free again (R67). -/
def Hw.memLate (h : Hw) (r : MemReq) : Hw := (h.memRemove r).inc 0x2102 (r.channel + 1)

/-- A response on the memory port (R60, R61). In the cc in which its request's watchdog expires it is on time; once that cc is past, the
watchdog has expired first, and the response is late (R67). -/
def Hw.memResponse (h : Hw) (ch tag : Nat) (write : Bool) (status : MemStatus) (data : List Byte) : Hw :=
  match h.memFind ch tag write with
  | none => h
  | some r =>
    if r.expired then h.memLate r
    else if h.memLimit r ≤ h.clk.prev then (h.memExpire r).memLate { r with expired := true, use := .other }
    else
      let h1 := h.memRemove r
      match status with
      | .okay => (h1.chargeMem r).memDone { r with fails := 0 } data
      | .decerr => h1.memError r true
      | _ => h1.memError r false

/-- MEM_READ_RESPONSE. -/
def execMemReadResponse (channel : Fin 2) (tag : Fin 1024) (status : MemStatus) (data : List Byte) (s : State) :
    Host.Outcome State Fault Refusal :=
  .next (s.onCoreFAt (.response channel.val false) 0x0B fun h => h.memResponse channel.val tag.val false status data)

/-- MEM_WRITE_RESPONSE. -/
def execMemWriteResponse (channel : Fin 2) (tag : Fin 1024) (status : MemStatus) (s : State) : Host.Outcome State Fault Refusal :=
  .next (s.onCoreFAt (.response channel.val true) 0x0B fun h => h.memResponse channel.val tag.val true status [])

/-- MEM_WATCHDOG_EXPIRY acts once MEM_TIMEOUT µs have passed since the request's transfer (R67). -/
def Hw.memExpired (h : Hw) (ch tag : Nat) (write : Bool) : Hw :=
  match h.memFind ch tag write with
  | none => h
  | some r => if r.expired ∨ h.now < h.memLimit r then h else h.memExpire r

/-- MEM_WATCHDOG_EXPIRY. -/
def execMemWatchdogExpiry (channel : Fin 2) (write : Bool) (tag : Fin 1024) (s : State) : Host.Outcome State Fault Refusal :=
  .next (s.onCoreFAt .expiry 0x0B fun h => h.memExpired channel.val tag.val write)

/-- MEM_LATE_RESPONSE: a response to a request whose watchdog has expired is discarded (R67). -/
def execMemLateResponse (channel : Fin 2) (write : Bool) (tag : Fin 1024) (s : State) : Host.Outcome State Fault Refusal :=
  .next (s.onCoreAt (.response channel.val write) 0x0B fun h =>
    match h.memFind channel.val tag.val write with
    | some r => if r.expired then h.memLate r else h
    | none => h)

/-- Issues a failed committed write again, at most once per µs (R423). -/
def Hw.memReissue (h : Hw) (ch tag : Nat) : Hw :=
  match h.mem.failed.find? fun r => r.channel = ch && r.tag = tag with
  | none => h
  | some r =>
    if (match r.reissueNs with | some t => decide (h.now < t) | none => false) then h
    else Hw.memAgain { h with mem := { h.mem with failed := h.mem.failed.erase r } } { r with reissueNs := none }

/-- COMMITTED_WRITE_REISSUE. -/
def execCommittedWriteReissue (channel : Fin 2) (tag : Fin 1024) (s : State) : Host.Outcome State Fault Refusal :=
  .next (s.onCore 0x0B fun h => h.memReissue channel.val tag.val)

end Sys2Proof.Machine
end

