-- ==== Sys2Proof/Machine/Fabric.lean ====
section
/-! DEFINITION. The fabric dispatch port: descriptors whose counter is 0, dispatch, credits, completions and their reports, the funnel,
drains and context requests, and the Tessellator's plan and bin completion (R72 to R84, R189 to R192, R212 to R225, R310, R425). -/

namespace Sys2Proof.Machine

open Sys2Proof

/-! ## Commands that are over -/

/-- A plan command is complete: its successors are decremented, then its descriptor is free (R208, R212). -/
def Hw.planDone (h : Hw) (t : Nat) (d : Desc) : Hw :=
  let h1 := h.modPlan d.facet d.step fun p => { p with doneIds := p.doneIds ++ [d.cmdId] }
  (h1.decrementAll d.succ).doneDesc t

/-- A descriptor whose counter has reached 0 acts (R192, R214): with an empty active list it completes without dispatch; otherwise it
goes on its delay list or its ready list. A GATE goes on neither. -/
def Hw.zeroCounter (h : Hw) (t : Nat) : Hw :=
  match h.desc? t with
  | none => h
  | some d =>
    if d.state ≠ .waiting ∨ d.counter ≠ 0 ∨ d.kind = 8 ∨ !h.released t d ∨ !h.jobReleased d then h
    else if d.active = some [] then h.planDone t d
    else match d.delay with
      | some (l, key) =>
        ((h.insertEntry l { key := key, kind := 0, payload := t, sinceCc := h.cc, atBegin := false }).modDelay l fun x =>
          { x with reserved := x.reserved - 1 }).modDesc t fun d => { d with state := .delayed }
      | none => (h.makeReady t).semRequest t

/-- DESCRIPTOR_ZERO_COUNTER. -/
def execDescriptorZeroCounter (tag : Fin 262144) (s : State) : Host.Outcome State Fault Refusal :=
  .next (s.onCoreF 0 fun h => h.zeroCounter tag.val)

/-! ## Dispatch -/

/-- The command a descriptor becomes (Table 4.2). -/
def Desc.command (d : Desc) (t : Nat) : PortOut :=
  .command d.part d.facet d.kind t d.layer d.operator d.tenant d.cls d.level d.context d.model d.vslot (d.step % 65536) d.args d.argsLen

/-- Bypass fields after a dispatch to a partition: those of the heads that rank below the descriptor taken rise by 1; that of a promoted
one taken returns to 0, and it is counted (R217). -/
def Hw.countBypass (h : Hw) (p t : Nat) : Hw :=
  let passed := (h.heads p).filter fun x => x != t && decide (h.rankOf t < h.rankOf x)
  let h1 := if h.promoted t then (h.inc 0x6018 (p + 1)).modDesc t fun d => { d with bypass := 0 } else h
  passed.foldl (fun a x => a.modDesc x fun d => { d with bypass := min 65535 (d.bypass + 1) }) h1

/-- The number after every order of transfer in use. -/
def Hw.nextSent (h : Hw) : Nat := 1 + h.descs.foldl (fun n e => max n e.2.sentNo) 0

/-- Sends the chosen descriptor of a partition (R72, R216, R217, R385). -/
def Hw.send (h : Hw) (p t : Nat) : Hw :=
  match h.desc? t with
  | none => h
  | some d =>
    let wait := h.cc - d.readyCc
    let h1 := (h.countBypass p t).modDesc t fun x => { x with state := .dispatched, sentNs := h.now, sentNo := h.nextSent, expired := false }
    let h2 := h1.modPart p fun x => { x with credits := x.credits - 1, ready := x.ready.erase t, sent := x.sent ++ [t] }
    let h3 := (((h2.inc 0x6014 (p + 1)).bump 0x6015 (p + 1) wait).set 0x6016 (p + 1) (min (2 ^ 32 - 1) (max (h.raw 0x6016 (p + 1)) wait)))
    let h4 := if d.owner = .job ∧ d.kind = 3 then
        h3.modJob d.facet d.urgentJob fun j => { j with learnSent := Map.insert j.learnSent p (Map.getD j.learnSent p 0 + 1) }
      else h3
    ((({ h4 with lastPart := p } : Hw).markBusy 5).startWindow p).emit (d.command t)

/-- COMMAND_DISPATCH. -/
def execCommandDispatch (s : State) : Host.Outcome State Fault Refusal :=
  .next (s.onCore 0 fun h => match h.choose with
    | some (p, t) => h.send p t
    | none => h)

/-! ## Credits -/

/-- Ends the jobs of a facet that R22's conditions now let end. -/
def Hw.settleJobs (h : Hw) (f : Nat) : Hw := (h.tryEndJob f false).tryEndJob f true

/-- A credit return (R73, R82). -/
def Hw.creditReturn (h : Hw) (p n : Nat) : Hw :=
  let x := h.part p
  if x.ack then h
  else if h.get 0x2200 (p + 1) < x.credits + n then h.event 5 (73 * 16) 4 (h.facetOf p) (some p)
  else
    let h1 := h.modPart p fun y => { y with credits := y.credits + n }
    match h.facetOf p with
    | some f => h1.settleJobs f
    | none => h1

/-- CREDIT_RETURN. -/
def execCreditReturn (part : Fin 64) (count : Nat) (s : State) : Host.Outcome State Fault Refusal :=
  .next (s.onCore 0 fun h => h.creditReturn part.val count)

/-! ## Report beats -/

/-- Whether the funnel lets a completion channel be ready: at the start of the cc it holds at most 12 records (R75). A record transferred in
this cc or the one before is appended later (R79). -/
def Hw.funnelReady (h : Hw) : Bool := decide ((h.funnel.filter fun e => decide (e.since < h.cc)).length ≤ 12)

/-- Beats that a channel's report buffer holds. -/
def Hw.beats (h : Hw) (k : Nat) : List (List Byte) := Map.getD h.reports k []

/-- REPORT_BEAT: the beat enters its channel's buffer where the channel is ready for one (R75). -/
def execReportBeat (channel : Fin 4) (data : List Byte) (s : State) : Host.Outcome State Fault Refusal :=
  .next (s.onCoreAt (.record channel.val) 0 fun h =>
    if h.funnelReady ∧ (h.beats channel.val).length ≤ 1020 then
      { h with reports := Map.insert h.reports channel.val (h.beats channel.val ++ [slice data 0 64]) }
    else h)

/-- Whether a beat's kind and entry count are defined (Table 4.5). -/
def beatDefined (b : List Byte) : Bool :=
  let n := leNat b
  match bits n 3 0 with
  | 1 => decide (bits n 6 4 ≤ 3)
  | 2 => decide (1 ≤ bits n 7 4)
  | 3 => true
  | _ => false

/-- Norm partials of a beat: layer, Σw², Σg², Σu². -/
def beatNorms (b : List Byte) : List (Nat × BitVec 32 × BitVec 32 × BitVec 32) :=
  if fieldAt b 0 1 % 16 = 1 then
    (List.range (bits (leNat b) 6 4 + 1)).map fun i =>
      let o := 2 + 14 * i
      (fieldAt b o 2, BitVec.ofNat 32 (fieldAt b (o + 2) 4), BitVec.ofNat 32 (fieldAt b (o + 6) 4), BitVec.ofNat 32 (fieldAt b (o + 10) 4))
  else []

/-- Router entries of a beat: position, expert, rank. -/
def beatRouters (b : List Byte) : List (Nat × Nat × Nat) :=
  if fieldAt b 0 1 % 16 = 2 then
    (List.range (bits (leNat b) 7 4)).map fun i =>
      let w := fieldAt b (4 + 4 * i) 4
      (bits w 16 0, bits w 24 17, bits w 27 25)
  else []

/-- Positions that an early-exit beat names. -/
def beatExits (b : List Byte) : List Nat :=
  if fieldAt b 0 1 % 16 = 3 then
    let base := bits (leNat b) 20 4
    ((List.range 256).filter fun j => ((b.getD (32 + j / 8) 0).getLsbD (j % 8))).map (base + ·)
  else []

/-! ## Router reports -/

/-- Key of the router reports of one program entry: facet, step, group (model, version slot, draft or not), ROUTER entry and node. -/
def routerKey (f step group entry node : Nat) : Nat := (((step * 16 + f) * 1024 + group) * 4096 + entry) * 64 + node

/-- Whether a ROUTER command's reports are in error (R191). `held` are the entries of the same program entry received before. -/
def Hw.routerError (h : Hw) (p : Plan) (d : Desc) (held l : List (Nat × Nat × Nat)) : Bool :=
  let word := (h.program (blockModel d.block)).getD d.entry 0
  let mine := (blockPosList p d.block).map fun x => x.index
  let keys := (held ++ l).map fun e => (e.1, e.2.2)
  l.any fun e => decide (bits word 47 40 + 1 ≤ e.2.1) || decide (bits word 38 36 + 1 ≤ e.2.2) || !(mine.contains e.1) ||
    decide (1 < keys.count (e.1, e.2.2))

/-- Takes the router entries of a record (R189, R191). A command whose reports are in error counts as not completed: its own record frees
its descriptor and the replay sends it again. -/
def Hw.takeRouters (h : Hw) (t : Nat) (d : Desc) (status : Nat) (l : List (Nat × Nat × Nat)) : Hw :=
  match (h.livePlans d.facet).find? fun p => p.step == d.step with
  | none => h
  | some p =>
    if d.opClass ≠ 1 ∨ l = [] then h
    else
      let key := routerKey d.facet d.step (d.block / 64) d.entry d.node
      let held := Map.getD h.routers key []
      if h.routerError p d held l then
        (((h.inc 0x501A 1).event 4 (191 * 16) 4 (some d.facet) (some d.part)).modDesc t fun x => { x with retireOnRecord := true }).fault
          [d.facet] (.part d.part) false
      else if status = 0 then { h with routers := Map.insert h.routers key (held ++ l) }
      else h

/-! ## Early exits -/

/-- Writes the compacted active list of a block's node and points the later commands at it (R192). The commands whose argument block is
still to be placed take the address when their bins are built. -/
def Hw.writeActive (h : Hw) (f : Nat) (p : Plan) (key node entry addr : Nat) (active : List Nat) : Hw :=
  let later := h.tagsWhere p fun d => d.block == key && d.node == node && decide (entry < d.entry) && d.opClass != 4
  let h1 := later.foldl (fun a t => a.modDesc t fun d => { d with active := some active }) h
  if active = [] then h1
  else
    let body := active.flatMap (leBytes 4)
    let placed := later.filter fun t => match h.desc? t with
      | some d => !(h.hasBins (d.opClass * 2 ^ 32)) || p.bins.any fun b => b.1 == d.cmdId
      | none => false
    let h2 := later.foldl (fun a t => a.modDesc t fun d => { d with counter := d.counter + chunkCount addr body.length }) h1
    let h3 := h2.writeRun addr body (tenantFor (h.blockTenant (h.blockPlaces key p.places))) (.stepWrite f later)
    placed.foldl (fun a t => match a.desc? t with
      | some d => (a.modDesc t fun x => { x with counter := x.counter + 1 }).writeRun (d.args + 16) (leBytes 8 addr) (tenantFor d.tenant)
          (.stepWrite f [t])
      | none => a) h3

/-- Takes the early exits that an EXIT command's record names (R192). -/
def Hw.takeExits (h : Hw) (d : Desc) (l : List Nat) : Hw :=
  match (h.livePlans d.facet).find? fun p => p.step == d.step with
  | none => h
  | some p =>
    if d.opClass ≠ 3 ∨ l = [] ∨ !h.feature 6 then h
    else
      let gone := (p.exits.filter fun e => e.1 == d.block * 64 + d.node).flatMap fun e => e.2.2.2
      let needing := ((blockPosList p d.block).filter fun x => x.needs).map fun x => x.index
      let removed := distinct (l.filter fun i => needing.contains i && !(gone.contains i))
      let h1 := h.bump 0x5019 2 (l.length - removed.length)
      if removed = [] then h1
      else
        let p1 : Plan := { p with exits := p.exits ++ [(d.block * 64 + d.node, d.entry, p.argsNext, removed)] }
        let active := (blockNodePositions p1 d.block d.node).filter fun i => !((gone ++ removed).contains i)
        let h2 := (h1.bump 0x5019 1 removed.length).modPlan d.facet d.step fun y =>
          { y with exits := p1.exits, argsNext := y.argsNext + align64 (4 * active.length) }
        h2.writeActive d.facet p1 d.block d.node d.entry p.argsNext active

/-! ## Completion records -/

/-- Whether a completion is malformed (R78). -/
def Hw.malformedRecord (h : Hw) (k : Nat) (data : List Byte) : Bool :=
  let r := recordOf data
  let n := fieldAt data 4 2
  let x := h.part r.part
  let beats := h.beats k
  !(x.sent.contains r.tag) || r.part / 16 != k || n != beats.length || decide (1020 < n) || decide (5 < r.status) ||
  beats.any (fun b => !beatDefined b) || (r.status == 2 && !x.preReq)

/-- Delivers the reports of a well-formed completion to VFN and TES (R75, R189, R192, R343). -/
def Hw.takeReports (h : Hw) (t status : Nat) (beats : List (List Byte)) : Hw :=
  match h.desc? t with
  | none => h
  | some d =>
    if d.retireOnRecord then h
    else match d.owner with
      | .job => (beats.flatMap beatNorms).foldl (fun a e => a.normPartial d.facet d.urgentJob e.1 e.2.1 e.2.2.1 e.2.2.2) h
      | .plan => (h.takeRouters t d status (beats.flatMap beatRouters)).takeExits d (beats.flatMap beatExits)
      | .copy => h

/-- The stamp at which a command's watchdog expires (R77, 0x2202). -/
def Hw.cmdLimit (h : Hw) (d : Desc) : Nat := d.sentNs + 1000 * h.get 0x2202 (d.facet + 1)

/-- A command's watchdog expires: a transient fabric fault on its facet (R77). A record already transferred was on time. -/
def Hw.cmdExpire (h : Hw) (t : Nat) : Hw :=
  match h.desc? t with
  | none => h
  | some d =>
    if d.state ≠ .dispatched ∨ d.expired ∨ h.funnel.any fun e => e.record.tag == t && e.record.part == d.part then h
    else
      let h1 := (h.unsend d.part t 0xF 0 0 0).modPart d.part fun x => { x with ghosts := x.ghosts ++ [(t, true)] }
      (h1.lose t).fault [d.facet] (.part d.part) false

/-- Whether the cc in which a command's watchdog expires is past, so that its record would be late (R77). -/
def Hw.cmdOverdue (h : Hw) (t : Nat) : Bool :=
  match h.desc? t with
  | some d => decide (h.cmdLimit d ≤ h.clk.prev)
  | none => false

/-- A completion record on channel `k` (R75 to R79). The record of a command that is outstanding no more is discarded: counted where its
watchdog had expired (R77), without effect where its descriptor was retired (R208). -/
def Hw.completion (h : Hw) (k : Nat) (data : List Byte) : Hw :=
  if !h.funnelReady then h
  else
    let r := recordOf data
    let beats := h.beats k
    let hw := if (h.part r.part).sent.contains r.tag && h.cmdOverdue r.tag then h.cmdExpire r.tag else h
    let h0 : Hw := { hw with reports := Map.insert hw.reports k [] }
    match (h0.part r.part).ghosts.find? fun g => g.1 == r.tag && r.part / 16 == k with
    | some g =>
      let h1 := h0.modPart r.part fun x => { x with ghosts := x.ghosts.erase g }
      if g.2 then h1.inc 0x2203 (r.facet + 1) else h1
    | none =>
      if h.malformedRecord k data then (h0.inc 0x2204 (k + 1)).event 5 (78 * 16) 4 (h.facetOf r.part) (some r.part)
      else
        let h1 := h0.takeReports r.tag r.status beats
        match h1.desc? r.tag with
        | some d => { h1 with funnel := h1.funnel ++ [{ record := r, cls := d.cls, level := d.level, since := h.cc + 1 }] }
        | none => h1

/-- COMPLETION_RECORD. -/
def execCompletionRecord (channel : Fin 4) (data : List Byte) (s : State) : Host.Outcome State Fault Refusal :=
  .next (s.onCoreFAt (.record channel.val) 0 fun h => h.completion channel.val data)

/-! ## What a record brings -/

/-- Positions of a block by tenant, in ascending tenant number (R326). -/
def Hw.blockShares (h : Hw) (p : Plan) (key : Nat) : List (Nat × Nat) :=
  let ts := (blockPosList p key).filterMap fun x => (h.seq? x.slot).map fun q => q.com.tenant
  (sortBy (fun a b => decide (a < b)) (distinct ts)).map fun t => (t, ts.count t)

/-- Charges a plan command's record: to its block's tenant, or split over its tenants (R325, R326, R412). -/
def Hw.chargePlan (h : Hw) (d : Desc) (r : Record) : Hw :=
  let f := d.facet
  let h1 := h.modFacet f fun x => { x with stepEnergy := x.stepEnergy + r.energy }
  if d.tenant ≠ 0x1FFF then h1.charge f d.tenant { Charges.zero with busy := r.busy, bytes := r.bytes, energy := r.energy }
  else match (h.livePlans f).find? fun p => p.step == d.step with
    | none => h1
    | some p =>
      let shares := h.blockShares p d.block
      let part := fun (x t : Nat) => (((splitShare x shares).find? fun e => e.1 == t).map Prod.snd).getD 0
      shares.foldl (fun a e => a.charge f e.1
        { Charges.zero with busy := part r.busy e.1, bytes := part r.bytes e.1, energy := part r.energy e.1 }) h1

/-- The prefill chunks without logits that a PROJECTION command completes (R167, R325). -/
def Hw.recordChunks (h : Hw) (d : Desc) : Hw :=
  match (h.livePlans d.facet).find? fun p => p.step == d.step with
  | none => h
  | some p =>
    if d.opClass ≠ 4 ∨ blockDraft d.block then h
    else ((h.blockPlaces d.block p.places).filter fun c => c.kind == .prefill && !c.endsPrompt && c.isOpen).foldl
      (fun a c => a.recordPrefill d.facet p.step c) h

/-- A plan command has completed OK (R76, R212). -/
def Hw.planOk (h : Hw) (t : Nat) (d : Desc) (r : Record) : Hw := ((h.chargePlan d r).planDone t d).recordChunks d

/-- A job command has completed OK: a RELEASE node gives its semaphore up before its successors are decremented (R76, R212, R320). -/
def Hw.jobOk (h : Hw) (t : Nat) (d : Desc) (r : Record) : Hw :=
  let f := d.facet
  let u := d.urgentJob
  let h1 := h.chargeNow (h.jobTenant f u) { Charges.zero with busy := r.busy, bytes := r.bytes, energy := r.energy }
  let h2 := match (h1.job f u).semOf d.node with
    | some (n, 1) => h1.semReleased n f
    | _ => h1
  let h3 := if d.kind = 3 then h2.modJob f u fun j => { j with learnLeft := j.learnLeft - 1 } else h2
  (h3.decrementAll d.succ).doneDesc t

/-- Whether a token entry is owed for a position of a place (R93). -/
def entryOwed (c : Place) (x : Pos) : Bool :=
  match x.kind with
  | .decode | .draft => true
  | .tree => x.node == 0
  | .prefill => c.endsPrompt && x.needs
  | _ => false

/-- The error of a plan command's own work: the sequences of its step block end with JOB_ERROR (R425). The end is asked for as well, so
that a replay of the step does not undo it. -/
def Hw.planError (h : Hw) (t : Nat) (d : Desc) (r : Record) : Hw :=
  let f := d.facet
  let h1 := (h.chargePlan d r).planDone t d
  match (h1.livePlans f).find? fun p => p.step == d.step with
  | none => h1
  | some p =>
    ((h1.blockPlaces d.block p.places).filter fun c => (h1.seq? c.slot).isSome).foldl (fun a c =>
      let a1 := (a.modSeq c.slot fun q => { q with cancelAsked := some (q.cancelAsked.getD .jobError) }).endSeq c.slot .jobError
      ((a1.vacateIn f p c.slot (entryOwed c)).noteResult f p.step c.slot).vacateAfter f c.slot p.step) h1

/-- Whether a DISCARDED command of a facet is retired (R224). -/
def Hw.retiresDiscarded (h : Hw) (d : Desc) : Bool :=
  let x := h.facet d.facet
  match d.owner with
  | .plan => x.recovering || !x.state.runs
  | _ => x.state == .halted

/-- A page copy's record: only OK switches the page; PART_FAILED masks its partition as well and starts no recovery of its own (R166). Where a
plan or a job of the facet has commands on that partition, they can no longer run, and their loss is the fault (log entry 120, DEDUCED). -/
def Hw.copyRecord (h : Hw) (t : Nat) (d : Desc) (r : Record) : Hw :=
  let h1 := if r.status = 0 then
      h.chargeNow d.tenant { Charges.zero with busy := r.busy, bytes := r.bytes, energy := r.energy } else h
  let h2 := (h1.copyEnded t (r.status == 0)).doneDesc t
  if r.status ≠ 5 then h2
  else if h2.descs.any fun e => e.2.facet == d.facet && e.2.part == d.part && e.2.owner != .copy then h2.fault [d.facet] (.part d.part) true
  else h2.maskPart d.part

/-- What a record's status brings for a plan's or a job's command (Table 4.4). -/
def Hw.actOn (h : Hw) (t : Nat) (d : Desc) (r : Record) : Hw :=
  match r.status with
  | 0 => if d.owner = .plan then h.planOk t d r else h.jobOk t d r
  | 1 => if h.retiresDiscarded d then h.freeDesc t else h.reenter t
  | 2 => if h.retiresDiscarded d then h.freeDesc t else h.modDesc t fun x => { x with state := .suspended }
  | 3 =>
    let h1 := h.event 5 (76 * 16) 3 (some d.facet) (some d.part)
    if d.owner = .plan then h1.planError t d r else (h1.freeDesc t).teardown d.facet d.urgentJob 4
  | 4 => (h.freeDesc t).fault [d.facet] (.part d.part) false
  | _ => (h.freeDesc t).fault [d.facet] (.part d.part) true

/-- DSP reads one record of the funnel (R76, R80, R385). -/
def Hw.readRecord (h : Hw) (r : Record) : Hw :=
  let x := h.part r.part
  match x.ghosts.find? fun g => g.1 == r.tag with
  | some g => h.modPart r.part fun y => { y with ghosts := y.ghosts.erase g }
  | none => match h.desc? r.tag with
    | none => h
    | some d =>
      if !(x.sent.contains r.tag) then h
      else
        let h1 := (if r.status = 0 ∨ r.status = 2 then h.bump 0x6017 (r.part + 1) r.busy else h).unsend r.part r.tag r.status r.busy r.bytes r.energy
        let h2 := match d.owner with
          | .copy => h1.copyRecord r.tag d r
          | _ => if d.retireOnRecord then h1.freeDesc r.tag else h1.actOn r.tag d r
        if d.owner = .job then h2.settleJobs d.facet else h2

/-- Whether a funnel entry can be read in this cc (R79). -/
def FunnelEntry.readable (e : FunnelEntry) (cc : Nat) : Bool := decide (e.since < cc)

/-- Whether a funnel entry is aged (R80). -/
def FunnelEntry.aged (e : FunnelEntry) (cc : Nat) : Bool := decide (e.since + 8 ≤ cc)

/-- The entry that R80 reads next. -/
def Hw.funnelBest (h : Hw) : Option FunnelEntry :=
  let l := h.funnel.filter fun e => e.readable h.cc
  match l.find? fun e => e.aged h.cc with
  | some e => some e
  | none => l.foldl (fun best e => match best with
    | none => some e
    | some b => if dispatchRank e.cls e.level < dispatchRank b.cls b.level then some e else best) none

/-- Reads one record from the funnel, if one can be read. -/
def Hw.funnelRead (h : Hw) : Hw :=
  match h.funnelBest with
  | none => h
  | some e =>
    let h1 : Hw := { h with funnel := h.funnel.erase e }
    (if e.aged h.cc then h1.inc 0x2205 1 else h1).readRecord e.record

/-- FUNNEL_READ: up to two records in a cc. -/
def execFunnelRead (s : State) : Host.Outcome State Fault Refusal := .next (s.onCoreF 0 fun h => h.funnelRead.funnelRead)

/-- CMD_WATCHDOG_EXPIRY acts once CMD_WATCHDOG µs have passed since the command's transfer (R77). -/
def Hw.cmdExpired (h : Hw) (t : Nat) : Hw :=
  match h.desc? t with
  | none => h
  | some d => if h.now < h.cmdLimit d then h else h.cmdExpire t

/-- CMD_WATCHDOG_EXPIRY. -/
def execCmdWatchdogExpiry (tag : Fin 262144) (s : State) : Host.Outcome State Fault Refusal :=
  .next (s.onCoreFAt .expiry 0 fun h => h.cmdExpired tag.val)

/-! ## Drains -/

/-- A rise of `fdp_drain_ack` (R82): a drained partition's credits are reset; one without a request is not a drain. -/
def Hw.drainAck (h : Hw) (p : Nat) : Hw :=
  let x := h.part p
  if x.ack then h
  else if !x.intReq && !x.preReq then (h.event 5 (82 * 16 + 1) 3 (h.facetOf p) (some p)).modPart p fun y => { y with ack := true }
  else
    let full := h.get 0x2200 (p + 1)
    let h1 := if x.credits = full then h else (h.inc 0x2208 1).event 5 (82 * 16) 4 (h.facetOf p) (some p)
    h1.modPart p fun y => { y with credits := full, ack := true, acked := true }

/-- DRAIN_ACK. -/
def execDrainAck (part : Fin 64) (s : State) : Host.Outcome State Fault Refusal := .next (s.onCore 0 fun h => h.drainAck part.val)

/-- DRAIN_ACK_FALL. -/
def execDrainAckFall (part : Fin 64) (s : State) : Host.Outcome State Fault Refusal :=
  .next (s.onCore 0 fun h => h.modPart part.val fun x => { x with ack := false })

/-- The end of a partition's drain: the request falls, an interrupted partition opens or closes, a pre-empted one is HELD for CTX
(R81, R221, R310), and a recovery whose last drain it was goes on (R366). -/
def Hw.drainEnd (h : Hw) (p : Nat) : Hw :=
  if !h.drainOver p then h
  else
    let x := h.part p
    let h1 := (h.inc 0x2207 (p + 1)).modPart p fun y => { y with intReq := false, preReq := false, acked := false }
    match h.facetOf p with
    | none => h1.modPart p fun y => { y with state := if x.preReq then .held else .closed }
    | some f =>
      let h2 := h1.modPart p fun y => { y with state := if x.preReq then .held else h.openOrClosed f }
      let h3 := if x.preReq then h2.ctxHeld p else h2
      (h3.afterRecoveryDrain f).settleJobs f

/-- DRAIN_END. -/
def execDrainEnd (part : Fin 64) (s : State) : Host.Outcome State Fault Refusal := .next (s.onCore 0 fun h => h.drainEnd part.val)

/-- The facets that a failed partition concerns. -/
def Hw.partFacets (h : Hw) (p : Nat) : List Nat := match h.facetOf p with | some f => [f] | none => []

/-- DRAIN_TIMEOUT: a partition that has not acked DRAIN_TIMEOUT µs after the request is failed (R83). -/
def execDrainTimeout (part : Fin 64) (s : State) : Host.Outcome State Fault Refusal :=
  .next (s.onCoreFAt .expiry 0 fun h =>
    let x := h.part part.val
    if (x.intReq || x.preReq) && !x.acked && decide (x.reqNs + 1000 * h.get 0x2206 1 ≤ h.now) then h.fault (h.partFacets part.val) (.part part.val) true else h)

/-! ## Contexts -/

/-- CONTEXT_TIMEOUT: a context request without a done within CTX_TIMEOUT µs fails its partition (R84). -/
def execContextTimeout (part : Fin 64) (s : State) : Host.Outcome State Fault Refusal :=
  .next (s.onCoreFAt .expiry 0x0A fun h =>
    if (h.part part.val).ctxBusy ≠ 0 ∧ (h.part part.val).ctxNs + 1000 * h.get 0x2209 1 ≤ h.now then h.fault (h.partFacets part.val) (.part part.val) true else h)

/-- A context done message (R84, R309, R310). One that answers no request is discarded, and so is one with a reserved status, which is
logged; after a FAILED one the request is sent again, beside the recovery of the facet. -/
def Hw.contextDone (h : Hw) (n : Nat) : Hw :=
  let p := bits n 7 2
  match h.facetOf p with
  | none => h
  | some f => match Map.find? h.switches f with
    | none => h
    | some sw =>
      let x := h.part p
      let save := x.ctxBusy == 1
      if x.ctxBusy = 0 ∨ bits n 23 8 ≠ x.ctxId then h
      else if 1 < bits n 1 0 then h.event 5 (84 * 16) 4 (some f) (some p)
      else if bits n 1 0 = 1 then (h.issueCtx f p x.ctxSlot save x.ctxId).fault [f] .unnamed false
      else
        let h1 := ((h.bump 0x9108 (f + 1) (bits n 71 24)).chargeCtx sw.charge (bits n 71 24)).modPart p fun y => { y with ctxBusy := 0 }
        let h2 := if save then h1.saveDone f p x.ctxSlot else h1.restoreDone f p x.ctxSlot
        (h2.ctxStep f p sw).afterRecoveryDrain f

/-- CONTEXT_DONE. -/
def execContextDone (data : List Byte) (s : State) : Host.Outcome State Fault Refusal :=
  .next (s.onCoreF 0x0A fun h => h.contextDone (leNat (slice data 0 16)))

/-! ## Plans and bins -/

/-- Makes a facet's composition its dispatch graph at once: the first plan after it enters ACTIVE, and a carry plan (R193, R201). An
`M_COMPOSE` that fired while a carry plan was built takes effect now. -/
def Hw.enterGraph (h : Hw) (f : Nat) (p : Plan) : Hw :=
  let h1 := h.modFacet f fun x => { x with plans := x.plans ++ [p], composing := none, tes := .idle, entryPlan := false }
  let x := h1.facet f
  if x.stepRuns ∧ x.fired.contains .compose ∧ x.step = p.step ∧ h1.mayCompose f (x.step + 1) then h1.compose f (x.step + 1) else h1

/-- The end of BUILD (R176, R193, R201). -/
def Hw.planComplete (h : Hw) (f : Nat) : Hw :=
  let x := h.facet f
  match x.tes, x.composing with
  | .scan, some p =>
    let atOnce := x.entryPlan || p.carry
    let r := h.buildPlan f p (atOnce || x.fired.contains .pfetch)
    let h1 := r.1.modFacet f fun y => { y with composing := some r.2, tes := .planned, composeCc := h.cc - x.composeCc }
    if atOnce then h1.enterGraph f r.2 else h1
  | _, _ => h

/-- PLAN_COMPLETE. -/
def execPlanComplete (facet : Fin 16) (s : State) : Host.Outcome State Fault Refusal :=
  .next (s.onCoreAt (.planned facet.val) 4 fun h => h.planComplete facet.val)

/-- Capacity of each expert (R189). -/
def binCap (capacity assigned experts : Nat) : Nat := max 1 (ceilDiv (capacity * assigned) (16 * experts))

/-- The partition an expert's assignments go to (R189). Where that partition holds no position of the group it has no descriptors, and the
manual names no other place: one of the group's partitions takes them. -/
def Hw.expertHome (h : Hw) (f model e : Nat) (parts : List Nat) : Nat :=
  let all := h.facetParts f
  let home := h.domain 0x5403 1 model
  let o := match home[e]? with | some b => b.toNat | none => e
  let p := all.getD (o % all.length) 0
  if parts.contains p then p else parts.getD (Config.freeNat 189 e % parts.length) 0

/-- An expert's assignments in the order of R190. -/
def Hw.binOrder (h : Hw) (p : Plan) (l : List (Nat × Nat × Nat)) : List (Nat × Nat × Nat) :=
  let key := fun (e : Nat × Nat × Nat) => match p.positions.find? fun x => x.index == e.1 with
    | some x => ((match h.seq? x.slot with | some q => q.cur.arrival | none => 0), x.tokenNum)
    | none => (0, 0)
  sortBy (fun a b =>
    if a.2.2 ≠ b.2.2 then decide (a.2.2 < b.2.2)
    else if (key a).1 ≠ (key b).1 then decide ((key a).1 < (key b).1)
    else decide ((key a).2 < (key b).2)) l

/-- One bin entry (Table 8.6). -/
def binBytes (e : Nat × Nat × Nat) : List Byte := leBytes 8 (e.1 + e.2.1 * 2 ^ 17 + e.2.2 * 2 ^ 25)

/-- Gives one wave descriptor its bin entries: its argument block is placed and written, and it is decremented; a wave without entries will
complete without dispatch (R189, R190, R212). -/
def Hw.fillWave (h : Hw) (f step t : Nat) (bins : List (Nat × Nat × Nat)) : Hw :=
  match h.desc? t, (h.livePlans f).find? fun p => p.step == step with
  | some d, some p =>
    if bins = [] then
      (((h.modPlan f step fun y => { y with bins := y.bins ++ [(d.cmdId, 0, 0)] }).modDesc t fun x =>
        { x with active := some [] }).decrement t)
    else
      let len := 1 + ceilDiv (8 * bins.length) 64
      let body := argBlock step (h.blockAddr f p d.block) (p.activeAddr d.block d.node d.entry) bins.length 2 d.wave ++
        bins.flatMap binBytes
      let h1 := h.modPlan f step fun y =>
        { y with bins := y.bins ++ [(d.cmdId, p.argsNext, len)], argsNext := y.argsNext + 64 * len }
      let h2 := h1.modDesc t fun x =>
        { x with args := p.argsNext, argsLen := len, counter := x.counter + chunkCount p.argsNext body.length }
      (h2.writeRun p.argsNext body (tenantFor d.tenant) (.stepWrite f [t])).decrement t
  | _, _ => h

/-- Blocks of a group in a plan: model, version slot and draft or not (R189). -/
def Hw.groupBlocks (h : Hw) (p : Plan) (group : Nat) : List Nat := (h.planBlocks p.places).filter fun k => k / 64 == group

/-- Commands of one program entry of a group and node. -/
def Hw.groupSpecs (h : Hw) (p : Plan) (group entry node : Nat) : List CmdSpec :=
  ((h.groupBlocks p group).flatMap fun k => h.blockSpecs k p.places).filter fun s => s.node == node && s.entry == entry

/-- Wave commands of the EXPERT entry behind ROUTER entry `router`. -/
def Hw.waveSpecs (h : Hw) (p : Plan) (group router node : Nat) : List CmdSpec :=
  (h.groupSpecs p group (router + 1) node).filter fun s => h.hasBins s.word

/-- Whether the bins of a group and node are to be built: every ROUTER command has completed OK, and no wave has bins yet (R189). -/
def Hw.binsDue (h : Hw) (p : Plan) (group router node : Nat) : Bool :=
  let routers := (h.groupSpecs p group router node).filter fun s => progClass s.word == 1
  let waves := h.waveSpecs p group router node
  routers != [] && waves != [] && (routers.all fun s => p.doneIds.contains (cmdIdOf s)) &&
  !waves.any fun s => p.bins.any fun b => b.1 == cmdIdOf s

/-- Builds the bins of one EXPERT entry of a group and node, once every ROUTER command before it has completed OK (R189, R190). `router` is
the ROUTER entry. -/
def Hw.buildBins (h : Hw) (f : Nat) (p : Plan) (group router node : Nat) : Hw :=
  if !h.binsDue p group router node then h
  else
    let blocks := h.groupBlocks p group
    let waves := h.waveSpecs p group router node
    let model := group / 4
    let l := Map.getD h.routers (routerKey f p.step group router node) []
    let E := bits ((h.program model).getD router 0) 47 40 + 1
    let cap := binCap (h.getAt 0x5402 1 model) l.length E
    let parts := blocks.map fun k => k % 64
    let sorted := (List.range E).map fun e => h.binOrder p (l.filter fun x => x.2.1 == e)
    let mine := fun (part wave : Nat) => (List.range E).flatMap fun e =>
      if h.expertHome f model e parts = part then
        (if wave = 0 then (sorted.getD e []).take cap else (sorted.getD e []).drop cap)
      else []
    let extra := (sorted.map fun x => x.length - cap).sum
    let h1 := h.bump 0x5018 1 extra
    let h2 : Hw := { h1 with routers := Map.erase h1.routers (routerKey f p.step group router node) }
    waves.foldl (fun a s => match p.tags.find? fun t => match a.desc? t with
        | some d => d.cmdId == cmdIdOf s && d.owner == .plan && d.step == p.step
        | none => false with
      | some t => a.fillWave f p.step t (mine (s.block % 64) s.wave)
      | none => a) h2

/-- BIN_BUILD_COMPLETE: `group` is 4 × model + 2 × version slot + 1 for a draft group; `entry` names the EXPERT entry or the ROUTER entry
before it. -/
def execBinBuildComplete (facet : Fin 16) (group : Nat) (entry : Nat) (s : State) : Host.Outcome State Fault Refusal :=
  .next (s.onCoreF 4 fun h =>
    let f := facet.val
    let router := if progClass ((h.program (group / 4)).getD entry 0) = 2 then entry - 1 else entry
    (h.livePlans f).foldl (fun a p => (List.range 17).foldl (fun b node =>
      match (b.livePlans f).find? fun y => y.step == p.step with
      | some y => b.buildBins f y group router node
      | none => b) a) h)

end Sys2Proof.Machine
end

