-- ==== Sys2Proof/Machine/Logit.lean ====
section
/-! DEFINITION. The logit stream port: what a tile's command does, replays, the token return, the decision of positions, the verification walk
and the Helix self-check (R85 to R93, R244, R247 to R249, R273, R285 to R293, R325). -/

namespace Sys2Proof.Machine

open Sys2Proof

/-! ## Tiles -/

/-- Drops the replay requests that a tile has answered: those for that tile alone, once its beats are in, and every one of a position that
is complete. -/
def Hw.answerReplays (h : Hw) (t : TileHdr) (step : Nat) (keys : List Nat) (whole : Bool) : Hw :=
  let beats := if t.format = 0 then [2 * t.tile, 2 * t.tile + 1] else [2 * t.tile]
  let mine := fun (r : ReplayReq) => r.facet == t.facet && r.step == step && r.position == t.position
  { h with smp := { h.smp with replays := h.smp.replays.filter fun r =>
      !(mine r && (whole || (r.first == t.tile && r.last == t.tile && beats.all fun k => keys.contains k))) } }

/-- A tile of a vacated position: accepted and discarded without reduction; with its last tile the position is done, and released (R21, R89, R92). -/
def Hw.discardTile (h : Hw) (p : Plan) (x : Pos) (t : TileHdr) (keys : List Nat) : Hw :=
  let f := t.facet
  let all := (tileKeys (h.getAt 0x7001 1 x.model) t.format).all fun k => keys.contains k
  let rest := h.smp.vacant.filter fun v => !(v.1 == f && v.2.1 == p.step && v.2.2.1 == x.index)
  let h1 : Hw := ({ h with smp := { h.smp with vacant := if all then rest else rest ++ [(f, p.step, x.index, keys)] } } : Hw)
  let h2 := h1.answerReplays t p.step keys all
  if all then (h2.modPos f p.step x.index fun y => { y with status := .decided }).releaseStep f p.step else h2

/-- The hull length that HULL_MAX follows; 257 means overflow (0x702A). -/
def PosEntry.hullSize (e : PosEntry) : Nat := if e.overflow then 257 else e.hull.length

/-- Reduces a tile into its position's entry (R247, R256, R259, R265 to R271, R325). -/
def Hw.reduceTile (h : Hw) (lane : Nat) (p : Plan) (x : Pos) (c : Place) (q : Seq) (t : TileHdr) (data : List Byte) (keys : List Nat) : Hw :=
  let f := t.facet
  let s := h.sampCtx q c x
  let known := h.entry? f p.step x.index
  let e0 := known.getD { PosEntry.fresh f p.step x.index x.slot with given := s.given.map fun g => (g, none) }
  let logits := tileLogits t.format t.tile t.beat s.vocab data
  let e1 := match e0.pass with
    | some _ => { logits.foldl (PosEntry.passToken s) e0 with passTiles := keys }
    | none => { logits.foldl (PosEntry.reduce s) e0 with tiles := keys }
  let all := (tileKeys s.vocab t.format).all fun k => keys.contains k
  let e2 : PosEntry := { e1 with complete := all }
  let h1 := if known.isSome then h.setEntry e2 else { h with smp := { h.smp with store := h.smp.store ++ [e2] } }
  let h2 := ((h1.inc 0x7030 (lane + 1)).markBusy 6).charge f q.cur.tenant { Charges.zero with tileCc := 1 }
  let seen := Map.getD h2.smp.laneFacets lane 0
  let h3 : Hw := { h2 with smp := { h2.smp with hullMax := max h2.smp.hullMax e2.hullSize,
                                                laneFacets := Map.insert h2.smp.laneFacets lane (setBit seen f) } }
  (if all ∧ e2.pass.isNone then h3.inc 0x7020 1 else h3).answerReplays t p.step keys all

/-- Whether a position awaits this very tile: it is one of the position's, and has not been accepted in the pass that runs. -/
def Hw.awaitsTile (h : Hw) (p : Plan) (x : Pos) (t : TileHdr) : Bool :=
  (tileKeys (h.getAt 0x7001 1 x.model) (h.getAt 0x7002 1 x.model)).contains t.key && !((h.received p x t).1.contains t.key)

/-- A CRC mismatch (check 1): a tile that its position awaits is requested again; on a replayed tile that a mismatch before has had
requested, the second one is a transient fault (Table 4.10, Table 15.1). -/
def Hw.tileCrc (h : Hw) (t : TileHdr) : Hw :=
  match h.tileTarget t with
  | none => h
  | some (p, x) =>
    if !h.awaitsTile p x t then h
    else match t.isReplay, h.crcAsked p t with
      | true, some r => ({ h with smp := { h.smp with replays := h.smp.replays.erase r } } : Hw).fault [t.facet] .unnamed false
      | _, _ => h.requestReplay t.facet p.step x.index t.tile t.tile true

/-- A lane holds its ready line low: the tile stays offered, and the lane advances nothing (R241, R249). -/
def Hw.holdLane (h : Hw) (lane : Nat) (hdr : Word64) : Hw := (h.withHeld (Map.insert h.smp.held lane hdr)).markIdle (0x10 + lane)

/-- Whether the lanes' Helix shares take their guaranteed check in this cc (R241, R375). -/
def Hw.checkSlot (h : Hw) : Bool := h.bgGuaranteed 2

/-- A tile transfer on a lane (R85 to R89). A masked lane takes none, and a lane takes none in the cc in which its Helix share owes the
guaranteed check (R241). -/
def Hw.tile (hw : Hw) (lane : Nat) (hdr : Word64) (data : List Byte) (crc : BitVec 32) : Hw :=
  let t := tileHdr hdr
  let h := hw.withHeld (Map.erase hw.smp.held lane)
  let d := slice data 0 256
  let discard := fun (a : Hw) => a.inc 0x2302 (lane + 1)
  if (h.raw 0xA010 1).testBit lane then h.markIdle (0x10 + lane)
  else if h.checkSlot then h.holdLane lane hdr
  else if crc32c (leBytes 8 hdr.toNat ++ d) ≠ crc then (h.inc 0x2301 (lane + 1)).tileCrc t
  else match h.tileTarget t with
    | none => (discard h).eventUnit 6 (88 * 16) 3 (0x10 + lane) (some t.facet)
    | some (p, x) =>
      if !h.tileFits x t then
        ((discard h).eventUnit 6 (88 * 16 + 1) 3 (0x10 + lane) (some t.facet)).requestReplay t.facet p.step x.index t.tile t.tile false
      else if !h.tileNew p x t then discard h
      else if h.tileHeld p x t then h.holdLane lane hdr
      else
        let keys := (h.received p x t).1 ++ [t.key]
        if x.status = .vacated then h.discardTile p x t keys
        else match p.placeOf x, h.seq? x.slot with
          | some c, some q => h.reduceTile lane p x c q t d keys
          | _, _ => h

/-- TILE_TRANSFER. -/
def execTileTransfer (lane : Fin 16) (hdr : Word64) (data : List Byte) (crc : BitVec 32) (s : State) :
    Host.Outcome State Fault Refusal :=
  .next (s.onCoreFAt (.tile lane.val) (0x10 + lane.val) fun h => h.tile lane.val hdr data crc)

/-! ## Replays -/

/-- A replay request ends without its tiles: a transient fabric fault on its facet (R91). -/
def Hw.replayLost (h : Hw) (r : ReplayReq) : Hw :=
  ({ h with smp := { h.smp with replays := h.smp.replays.erase r } } : Hw).fault [r.facet] .unnamed false

/-- A refused replay request (R91, Table 4.11). One that names no outstanding request is only counted. -/
def Hw.replayNak (h : Hw) (data : Word64) : Hw :=
  let n := data.toNat
  let h1 := h.inc 0x2304 1
  match h1.smp.replays.find? fun r => r.facet == bits n 3 0 && r.step % 65536 == bits n 19 4 && r.position == bits n 36 20 &&
      r.first == bits n 49 37 && r.last == bits n 62 50 with
  | some r => h1.replayLost r
  | none => h1

/-- REPLAY_NAK. -/
def execReplayNak (data : Word64) (s : State) : Host.Outcome State Fault Refusal := .next (s.onCoreF 0x10 fun h => h.replayNak data)

/-- REPLAY_TIMEOUT: the oldest request outstanding for the position that is unanswered after REPLAY_WATCHDOG µs ends (R91). -/
def execReplayTimeout (facet : Fin 16) (position : Nat) (s : State) : Host.Outcome State Fault Refusal :=
  .next (s.onCoreFAt .expiry 0x10 fun h => match h.smp.replays.find? fun r =>
      r.facet == facet.val && r.position == position && decide (r.sinceNs + 1000 * h.get 0x2305 1 ≤ h.now) with
    | some r => h.replayLost r
    | none => h)

/-! ## Token return -/

/-- One token entry leaves (R93). The commands that wait on it are decremented when the last entry of its key has left (R187, R285). -/
def Hw.sendToken (h : Hw) : Hw :=
  match h.smp.tokens with
  | [] => h
  | e :: rest =>
    let h1 := ({ h with smp := { h.smp with tokens := rest } } : Hw).emit (.token e)
    if rest.any fun t => t.key == e.key then h1 else h1.endWaits e.key

/-- TOKEN_RETURN: up to `count` entries; with none taken the ready line is low for a cc (R93). -/
def execTokenReturn (count : Fin 5) (s : State) : Host.Outcome State Fault Refusal :=
  .next (s.onCoreF 0x10 fun h =>
    if count.val = 0 then (if h.smp.tokens = [] then h else h.inc 0x2306 1)
    else (List.range count.val).foldl (fun a _ => a.sendToken) h)

/-! ## Decisions -/

/-- SAMPLE_RESULT: the decision of a completed position (R273). -/
def execSampleResult (facet : Fin 16) (step : Nat) (position : Nat) (s : State) : Host.Outcome State Fault Refusal :=
  .next (s.onCoreF 0x10 fun h => h.decidePosition facet.val step position)

/-! ## The walk -/

/-- What the TREE position of a node has for the walk. -/
def Hw.nodeSample (h : Hw) (f : Nat) (p : Plan) (c : Place) (t : Tree) (q : Seq) (n : Nat) : NodeSample :=
  let i := t.treePos + n
  match p.positions.find? fun x => x.index == i, h.entry? f p.step i with
  | some x, some e =>
    if x.status ≠ .complete then .missing
    else if e.nonfinite ∨ e.count = 0 then .none e.nonfinite
    else match e.sampled (h.sampCtx q c x) q.cur with
      | some r => .some r
      | none => .missing
  | _, _ => .missing

/-- The statistics after a walk with `a` accepted tokens, and whether a suspension starts (Table 12.3, R293). -/
def SpecStats.walked (s : SpecStats) (a after steps : Nat) : SpecStats × Bool :=
  let misses := if a = 0 then min 255 (s.misses + 1) else 0
  let rate := (Int.ofNat s.rate + (Int.ofNat (256 * a) - Int.ofNat s.rate) / 8).toNat % 65536
  let s1 : SpecStats := { s with trees := min (2 ^ 32 - 1) (s.trees + 1), accepted := min (2 ^ 32 - 1) (s.accepted + a), rate := rate, last := a,
                                 misses := misses }
  if after ≤ misses then ({ s1 with suspend := steps, misses := 0 }, true) else (s1, false)

/-- A place with its true first token number: its positions move with it, and a tree's base is known (R289). -/
def Plan.renumber (p : Plan) (c : Place) (gen : Nat) : Plan :=
  { p with
    places := p.places.map fun y => if y.slot = c.slot then
        { y with tokenNum := gen, tree := y.tree.map fun t => { t with base := some gen } } else y,
    positions := p.positions.map fun x => if x.slot = c.slot then { x with tokenNum := x.tokenNum + gen - c.tokenNum } else x }

/-- Writes the step blocks of a sequence in a plan again, and its list with the tree record where that has gone out. The blocks' commands
that wait are released only after the writes' OKAY (R289, Table 9.2 source 2). -/
def Hw.rewriteBlocks (h : Hw) (f : Nat) (p : Plan) (slot : Nat) : Hw :=
  ((h.blockAddrs f p).1.filter fun b => (h.blockPlaces b.1 p.places).any fun c => c.slot == slot).foldl (fun a b =>
    let tags := a.tagsWhere p fun d => d.block == b.1 && d.state == .waiting
    let cs := a.blockPlaces b.1 p.places
    let lists := (cs.zip (a.listOffsets b.1 cs (blockPosList p b.1).length)).filter fun e => e.1.slot == slot
    let runs := (b.2, a.stepBlock f p b.1, tenantFor (a.blockTenant cs)) ::
      (if p.listsSent then lists.map fun e => (b.2 + e.2, a.listRecord f p.step e.1, tenantFor (a.blockTenant [e.1])) else [])
    let n := (runs.map fun r => chunkCount r.1 r.2.1.length).sum
    let a1 := tags.foldl (fun g t => g.modDesc t fun d => { d with counter := d.counter + n }) a
    runs.foldl (fun g r => g.writeRun r.1 r.2.1 r.2.2 (.stepWrite f tags)) a1) h

/-- Corrects the open decode and tree places of a sequence in the plans after step `n` to the index it has reached (R180, R289). -/
def Hw.fixLater (h : Hw) (f slot n : Nat) : Hw :=
  match h.seq? slot with
  | none => h
  | some q =>
    let r := ((h.livePlans f).filter fun p => decide (n < p.step)).foldl (fun (acc : Hw × Expect) p =>
      match p.places.find? fun c => c.slot == slot && c.isOpen && (c.kind == .decode || c.kind == .tree) with
      | none => acc
      | some c =>
        let known := c.tokenNum == acc.2.gen && (match c.tree with | some t => t.base == some acc.2.gen | none => true)
        let p1 := p.renumber c acc.2.gen
        let h1 := if known then acc.1 else acc.1.modPlan f p.step fun y => y.renumber c acc.2.gen
        (if known || p.positions == [] then h1 else h1.rewriteBlocks f p1 slot, acc.2.after c))
      (h, { kv := q.cur.kvTokens, gen := q.cur.generated })
    r.1

/-- Records a walk that has ended (R287 to R293, R325): its tokens, the position after them, charges and statistics, and the return entries
in token order. -/
def Hw.recordWalk (h : Hw) (f : Nat) (p : Plan) (c : Place) (t : Tree) (v : Vertex) (out : List (Nat × Sampled)) (stop : WalkStop) : Hw :=
  let e := out.length
  let a := (out.filter fun o => (t.match? o.1 o.2.token).isSome).length
  let done := fun (g : Hw) (x : Pos) => if x.slot == c.slot && x.kind == .tree && x.status == .complete then
      (g.modPos f p.step x.index fun y => { y with status := .decided }).freeEntry f p.step x.index else g
  let h1 := h.closePlace f p.step c.slot e c
  let r := out.foldl (fun (acc : Hw × Bool) o => let z := acc.1.emitToken f c.slot o.2 c.model c.version false true; (z.1, acc.2 || z.2)) (h1, false)
  let h2 := r.1.modCur c.slot Vertex.settled
  let h3 := h2.charge f v.tenant { Charges.zero with spec := t.parents.length + 1 - e }
  let st := v.spec.walked a (h.get 0x7201 1) (h.get 0x7202 1)
  let h4 := h3.modCur c.slot fun y => { y with spec := { st.1 with shape := y.spec.shape, shapeValid := y.spec.shapeValid } }
  let h5 := if st.2 then h4.inc 0x720A 1 else h4
  let h6 := (((h5.inc 0x7203 1).bump 0x7204 1 a).bump 0x7205 1 e).inc 0x7206 (a + 1)
  let h7 := out.foldl (fun g o => g.returnToken { facet := f, step := p.step, position := t.treePos + o.1, token := o.2.token, pad := false,
                                                  key := tokenKey p.step c.slot }) h6
  let h8 := p.positions.foldl done h7
  let h9 : Hw := { h8 with secUsed := h8.secUsed - 1 }
  match stop with
  | .bad b => (h9.badPosition f b).jobErrorSeq f p.step c.slot
  | _ => if r.2 then h9.vacateAfter f c.slot p.step else h9.fixLater f c.slot p.step

/-- A walk that is due: the plan, place and tree it is of, the sequence's vertex, the tokens emitted, and what stops it. -/
structure WalkDue where
  plan  : Plan
  place : Place
  tree  : Tree
  seq   : Vertex
  out   : List (Nat × Sampled)
  stop  : WalkStop

/-- The walk of a sequence's oldest open tree; none while a sample it reads is not complete (R287). -/
def Hw.walkDue (h : Hw) (f slot : Nat) : Option WalkDue := do
  let q ← h.seq? slot
  let p ← (h.livePlans f).find? fun p => p.holds slot
  let c ← p.places.find? fun c => c.slot == slot && c.isOpen && c.kind == .tree
  let t ← c.tree
  let ends := fun tok i => (h.endAfter { q.cur with generated := i } tok false).isSome
  let w := walkTree t (h.nodeSample f p c t q) ends (treeDepth t.parents + 1) 0 q.cur.generated []
  if c.tokenNum ≠ q.cur.generated ∨ w.2 = .waits then none
  else some { plan := p, place := c, tree := t, seq := q.cur, out := w.1, stop := w.2 }

/-- Walks the tree where it can be walked. -/
def Hw.walk (h : Hw) (f slot : Nat) : Hw :=
  match h.walkDue f slot with
  | some w => h.recordWalk f w.plan w.place w.tree w.seq w.out w.stop
  | none => h

/-- SECANT_WALK. -/
def execSecantWalk (facet : Fin 16) (slot : Nat) (s : State) : Host.Outcome State Fault Refusal :=
  .next (s.onCoreF 7 fun h => h.walk facet.val slot)

/-! ## The Helix self-check -/

/-- The facets of a 16-bit set. -/
def facetsOf (n : Nat) : List Nat := (List.range 16).filter fun f => n.testBit f

/-- HELIX_SELF_CHECK: a lane's share has computed test vector B (R244, Table 10.6). A masked lane's share is idle (R241). -/
def Hw.selfCheck (h : Hw) (lane : Nat) (w0 w1 : Word64) : Hw :=
  if (h.raw 0xA010 1).testBit lane then h.markIdle 6
  else if (w0, w1) = helixBlock 0 1 0 then
    { h.inc 0x7106 1 with smp := { h.smp with laneFacets := Map.erase h.smp.laneFacets lane } }
  else
    let seen := facetsOf (Map.getD h.smp.laneFacets lane 0)
    ((h.event 7 (244 * 16) 4 none none).inc 0x7105 1).fault seen (.lane lane) true

/-- HELIX_SELF_CHECK. -/
def execHelixSelfCheck (lane : Fin 16) (w0 w1 : Word64) (s : State) : Host.Outcome State Fault Refusal :=
  .next (s.onCoreF 6 fun h => h.selfCheck lane.val w0 w1)

end Sys2Proof.Machine
end

