-- ==== Sys2Proof/Machine/FacetCfg.lean ====
section
/-! DEFINITION. What the dictionary's facet, job and version entries do when they are written: facet partitions, modes, marks, requests,
pinned batches, jobs and urgent jobs, and the end of a generation slice (R16, R18, R31, R32, R200 to R204, R228, R300, R313 to R315, R371). -/

namespace Sys2Proof.Machine

open Sys2Proof

/-! ## Facets -/

/-- Facets that have partitions in FACET_PARTS. -/
def Hw.withParts (h : Hw) : List Nat := (List.range 16).filter fun f => h.raw 0x5000 (f + 1) ≠ 0

/-- Whether twice the sum of FACET_DESCRIPTORS over a set of facets is within the descriptor count (R200, R205). -/
def Hw.descSumOk (h : Hw) (fs : List Nat) : Bool := decide (2 * (fs.map fun f => h.get 0x5005 (f + 1)).sum ≤ 262144)

/-- A write of FACET_PARTS (R16, R200). -/
def Hw.writeParts (h : Hw) (f v : Nat) : Status × Hw :=
  let x := h.facet f
  let old := h.raw 0x5000 (f + 1)
  let others := ((List.range 16).filter fun g => g ≠ f).foldl (fun a g => a ||| h.raw 0x5000 (g + 1)) 0
  let h1 := h.set 0x5000 (f + 1) v
  if v ≠ old ∧ x.state ≠ .unassigned ∧ x.state ≠ .standby then (.busy, h)
  else if v &&& others ≠ 0 ∨ 2 ^ h.get 0x1000 8 ≤ v ∨ v &&& h.raw 0x2201 1 ≠ 0 then (.range, h)
  else if old = 0 ∧ v ≠ 0 ∧ !h1.descSumOk h1.withParts then (.range, h)
  else if v = 0 ∧ x.state = .standby then (.ok, h1.modFacet f fun y => { y with state := .unassigned, waitingUp := none, idleSinceNs := some h.now })
  else (.ok, h1)

/-- Loads the five marks of a mode's set as the pending set; on a facet that runs no step they govern the first step that begins
(R18, R32). -/
def Hw.loadMarks (h : Hw) (f mode : Nat) : Hw :=
  let h1 := (List.range 5).foldl (fun a i => a.set (0x5200 + i) (f + 1) (a.get (0x5100 + mode) (8 + i))) h
  h1.modFacet f fun x => { x with setPending := true, setReady := !x.state.runs }

/-- A write of FACET_MODE (R32, R200); no mode may be set only in UNASSIGNED. -/
def Hw.writeMode (h : Hw) (f v : Nat) : Status × Hw :=
  if v = 0xFF then
    (if (h.facet f).state = .unassigned then (.ok, h.set 0x5001 (f + 1) v) else (.state, h))
  else if 3 < v then (.range, h)
  else (.ok, (h.set 0x5001 (f + 1) v).loadMarks f v)

/-- Whether five mark values satisfy R31: compose, prefetch, draft, capture, commit. -/
def marksOk (m : List Nat) : Bool :=
  let v := fun i => m.getD i 0
  decide (0x0100 ≤ v 0) && decide (v 0 < v 1) && decide (v 1 < v 2) && decide (v 2 < v 4) && decide (v 4 ≤ 0xFF00) &&
  decide (v 0 + 0x1000 ≤ v 4) && decide (0x0100 ≤ v 3) && decide (v 3 ≤ 0xFF00) && [0, 1, 2, 4].all fun i => v i != v 3

/-- A write of one mark entry, checked against the staged values of the other four (R31, R32). -/
def Hw.writeMark (h : Hw) (i f v : Nat) : Status × Hw :=
  let m := (List.range 5).map fun k => if k = i then v else h.get (0x5200 + k) (f + 1)
  if marksOk m then (.ok, h.set (0x5200 + i) (f + 1) v) else (.range, h)

/-- A write of a mode parameter (R195). -/
def Hw.writeModeParam (h : Hw) (mode sub v : Nat) : Status × Hw :=
  let h1 := h.set (0x5100 + mode) sub v
  let p := h1.get (0x5100 + mode)
  if !marksOk ((List.range 5).map fun i => p (8 + i)) ∨ p 6 < p 7 ∨ (mode = 2 ∧ p 0xE = 1) then (.range, h) else (.ok, h1)

/-- A facet leaves for UNASSIGNED (R200, request 0). -/
def Hw.requestUnassigned (h : Hw) (f : Nat) : Status × Hw :=
  match (h.facet f).state with
  | .standby | .halted => (.ok, h.modFacet f fun x => { x with state := .unassigned, waitingUp := none, idleSinceNs := some h.now })
  | _ => (.state, h)

/-- An UNASSIGNED facet with a partition and a mode enters STANDBY (R200, request 1). -/
def Hw.requestStandby (h : Hw) (f : Nat) : Status × Hw :=
  if (h.facet f).state = .unassigned ∧ h.facetParts f ≠ [] ∧ h.mode f < 4 then
    (.ok, h.modFacet f fun x => { x with state := .standby, idleSinceNs := some h.now })
  else (.state, h)

/-- A STANDBY facet enters ACTIVE (R200, R201, R411, request 2). One that already waits for `aon_facet_up` goes on waiting. -/
def Hw.requestActive (h : Hw) (f : Nat) : Status × Hw :=
  let x := h.facet f
  if x.state = .standby ∧ h.eng.state = .operational ∧ 16 * 2 ^ 20 ≤ h.raw 0x5021 (f + 1) then
    (.ok, if x.waitingUp.isSome then h else h.startRun f .active)
  else (.state, h)

/-- An ACTIVE facet drains (R200, R202, request 4). -/
def Hw.requestDraining (h : Hw) (f : Nat) : Status × Hw :=
  if (h.facet f).state = .active then (.ok, h.modFacet f fun x => { x with state := .draining }) else (.state, h)

/-- A write of FACET_REQUEST (R200). -/
def Hw.facetRequest (h : Hw) (f v : Nat) : Status × Hw :=
  match v with
  | 0 => h.requestUnassigned f
  | 1 => h.requestStandby f
  | 2 => h.requestActive f
  | 4 => h.requestDraining f
  | _ => (.range, h)

/-- A write of FACET_RESUME (R371). -/
def Hw.facetResume (h : Hw) (f v : Nat) : Status × Hw :=
  if v ≠ 1 then (.range, h)
  else if (h.facet f).state = .halted ∧ h.facetParts f ≠ [] ∧ h.eng.state ≠ .faultHold then (.ok, h.enterStandby f false)
  else (.state, h)

/-! ## Pinned batches -/

/-- A write of PINNED_ENABLE (R203). -/
def Hw.pinnedEnable (h : Hw) (f v : Nat) : Status × Hw :=
  let l := h.pinnedList f
  let bad := fun (x : Nat) => match (h.liveSlot x).bind h.seq? with
    | some q => q.com.facet != f || q.com.shareReduced
    | none => true
  if v = 0 then (.ok, h.set 0x5031 (f + 1) 0)
  else if l = [] ∨ (distinct l).length ≠ l.length ∨ l.any bad ∨ h.modeParam f 2 < l.length then (.range, h)
  else (.ok, h.set 0x5031 (f + 1) 1)

/-! ## Jobs -/

/-- A facet reserved for LC (R300). -/
def Hw.lcReserved (h : Hw) (f : Nat) : Bool := h.get 0x9000 (f + 1) == 1

/-- A fresh job; it resumes from a context record where RESUME_RECORD names one (R324). -/
def Hw.newJob (h : Hw) (f : Nat) (st : JobState) : Job := { Job.idle with state := st, resume := h.raw 0x910A (f + 1) ≠ 0 }

/-- JOB_REQUEST 1 (R228): the engine's state, R300 and the job's own state are checked before the facet's. -/
def Hw.jobStart (h : Hw) (f : Nat) : Status × Hw :=
  let refuse := h.feature 62
  if h.eng.state ≠ .operational ∨ h.lcReserved f then (.state, h)
  else if (h.job f false).state.held then (.busy, h)
  else match (h.facet f).state with
    | .standby => (.ok, (h.setJob f false (h.newJob f .pending)).startJob f)
    | .active =>
      if refuse then (.busy, h)
      else (.ok, (h.setJob f false (h.newJob f .pending)).modFacet f fun x => { x with state := .draining })
    | .draining => if refuse then (.busy, h) else (.ok, h.setJob f false (h.newJob f .pending))
    | _ => (.state, h)

/-- JOB_REQUEST 2 (R228, R232): a loading or running job is torn down; a PENDING start is cleared, and one that had yielded ends. -/
def Hw.jobStop (h : Hw) (f : Nat) : Status × Hw :=
  let j := h.job f false
  if h.lcReserved f then (.state, h)
  else match j.state with
    | .loading | .running => (.ok, h.teardown f false 2)
    | .pending =>
      if j.yielded then (.ok, (h.endPending f).modFacet f fun x => { x with sliceEndNs := none, alternating := false })
      else (.ok, h.modJob f false fun x => { x with state := .idle })
    | _ => (.ok, h)

/-- A write of JOB_REQUEST. -/
def Hw.jobRequest (h : Hw) (f v : Nat) : Status × Hw :=
  match v with
  | 1 => h.jobStart f
  | 2 => h.jobStop f
  | _ => (.range, h)

/-- URGENT_REQUEST 1 (R315), in the order of its checks. -/
def Hw.urgentStart (h : Hw) (f : Nat) : Status × Hw :=
  let j := h.job f false
  let g := h.raw 0x9200 (f + 1)
  if !(h.featureForWrites 1 && h.featureForWrites 4) then (.feature, h)
  else if h.eng.state ≠ .operational ∨ h.lcReserved f ∨ (h.facet f).state ≠ .exclusive ∨ j.state ≠ .running ∨ j.cls ≠ .be then (.state, h)
  else if (h.job f true).state.held then (.busy, h)
  else if g = 0 ∨ g % 64 ≠ 0 then (.range, h)
  else if h.raw 0x9202 (f + 1) < h.now + h.switchNs f 1 2 then (.range, h.inc 0x9207 (f + 1))
  else (.ok, (h.setJob f true { Job.idle with state := .loading, parts := h.facetParts f }).readGraph f true)

/-- URGENT_REQUEST 2 (R315, R232). -/
def Hw.urgentStop (h : Hw) (f : Nat) : Status × Hw :=
  if h.lcReserved f then (.state, h) else (.ok, h.teardown f true 2)

/-- A write of URGENT_REQUEST. -/
def Hw.urgentRequest (h : Hw) (f v : Nat) : Status × Hw :=
  match v with
  | 1 => h.urgentStart f
  | 2 => h.urgentStop f
  | _ => (.range, h)

/-! ## The end of a generation slice -/

/-- GENERATION_SLICE_END acts once ALT_GEN_MS have passed since the slice's entry: the facet drains without making any sequence eligible
(R313, R314). -/
def Hw.sliceEnd (h : Hw) (f : Nat) : Hw :=
  let x := h.facet f
  if (x.state == .active || x.state == .draining) && (match x.sliceEndNs with | some t => decide (t ≤ h.now) | none => false) then
    h.modFacet f fun y => { y with state := .draining, noPlacing := true, sliceEndNs := none }
  else h

/-- GENERATION_SLICE_END. -/
def execGenerationSliceEnd (facet : Fin 16) (s : State) : Host.Outcome State Fault Refusal :=
  .next (s.onCoreAt .expiry 0x0A fun h => h.sliceEnd facet.val)

/-! ## Job graphs and iterations -/

/-- JOB_GRAPH_LOADED: the reads of a job's graph and tables are complete (R227, R316, R324). -/
def execJobGraphLoaded (facet : Fin 16) (urgent : Bool) (graph semTable offload : List Byte) (s : State) :
    Host.Outcome State Fault Refusal :=
  .next (s.onCore 5 fun h =>
    if h.memWaiting fun u => u == .graphRead facet.val urgent || (!urgent && u == .contextRecord facet.val) then h
    else h.graphLoaded facet.val urgent graph semTable offload)

/-- ITERATION_LOAD (R230). -/
def execIterationLoad (facet : Fin 16) (urgent : Bool) (s : State) : Host.Outcome State Fault Refusal :=
  .next (s.onCore 5 fun h => h.loadIteration facet.val urgent)

/-- GATE_READY (R231). -/
def execGateReady (facet : Fin 16) (urgent : Bool) (s : State) : Host.Outcome State Fault Refusal :=
  .next (s.onCore 5 fun h => h.gateZero facet.val urgent)

/-- TEARDOWN_COMPLETE (R232). -/
def execTeardownComplete (facet : Fin 16) (urgent : Bool) (s : State) : Host.Outcome State Fault Refusal :=
  .next (s.onCore 5 fun h => h.finishTeardown facet.val urgent)

/-- UPDATE_PART_WRITE (R344). -/
def execUpdatePartWrite (facet : Fin 16) (urgent : Bool) (s : State) : Host.Outcome State Fault Refusal :=
  .next (s.onCore 8 fun h => if h.updateReady facet.val urgent then h.writeUpdate facet.val urgent else h)

/-- LEARNER_DECISION (R346). -/
def execLearnerDecision (facet : Fin 16) (urgent : Bool) (s : State) : Host.Outcome State Fault Refusal :=
  .next (s.onCore 8 fun h => h.recordDecision facet.val urgent)

/-! ## Semaphores -/

/-- A semaphore with a waiter, whose holder is suspended while the urgent job owns its facet, starts a donation (R321). An urgent job that
holds a semaphore while a donation runs on its facet gets none: donation never nests. -/
def Hw.donate (h : Hw) (n : Nat) : Hw :=
  let x := h.sem n
  match x.holder, sortBy waiterBefore x.waiters with
  | some (f, false, _), w :: _ =>
    if x.donation.isNone ∧ (h.job f false).suspended ∧ h.ownerSlot f = 2 then
      ((h.modSem n fun y => { y with donation := some h.now }).inc 0x9223 1).startSwitch f (h.ownerSlot f) 1 true
        (h.job w.facet w.urgent).tenant
    else h
  | _, _ => h

/-- SEMAPHORE_DONATION. -/
def execSemaphoreDonation (sem : Fin 64) (s : State) : Host.Outcome State Fault Refusal :=
  .next (s.onCore 0x0A fun h => h.donate sem.val)

/-- A donation that has run for DONATE_LIMIT µs is overrun: the holder's job alone is torn down, its semaphores pass on, and the facet
switches back to its owner (R322). -/
def Hw.donationOverrun (h : Hw) (n : Nat) : Hw :=
  let x := h.sem n
  match x.donation, x.holder with
  | some t, some (f, u, _) => if t + 1000 * h.get 0x9222 1 ≤ h.now then h.teardown f u 2 else h
  | _, _ => h

/-- DONATION_OVERRUN. -/
def execDonationOverrun (sem : Fin 64) (s : State) : Host.Outcome State Fault Refusal :=
  .next (s.onCoreAt .expiry 0x0A fun h => h.donationOverrun sem.val)

end Sys2Proof.Machine
end

