-- ==== Sys2Proof/Machine/Policy.lean ====
section
/-! DEFINITION. What a policy core sends through its mailbox, and the lockstep of the pairs (R181, R242, R294, R369). -/

namespace Sys2Proof.Machine

open Sys2Proof

/-- Runs what a pair's mailbox write asks for, if the pair's outputs leave it. -/
def Hw.fromPair (h : Hw) (p : Nat) (g : Hw → Hw) : Hw := if h.pairRuns p then g h else h

/-- A FIRMWARE Helix block with the key of ENGINE_SEED (R239, R242): w0 and w1, and their UNIT24 values where asked. -/
def Hw.firmwareBlock (h : Hw) (stream : Word64) (counter : BitVec 60) (asks : Bool) : Hw :=
  let w := helixBlock (BitVec.ofNat 64 h.engineSeedUsed) (counter.setWidth 64 ||| (0xE : Word64) <<< 60) stream
  let u := fun (x : Word64) => if asks then some (unit24 x) else none
  (h.inc 0x7104 1).emit (.helix w.1 w.2 (u w.1) (u w.2))

/-- FIRMWARE_BLOCK_REQUEST. -/
def execFirmwareBlockRequest (pair : Fin 8) (stream : Word64) (counter : BitVec 60) (asks : Bool) (s : State) :
    Host.Outcome State Fault Refusal :=
  .next (s.onCore 6 fun h => h.fromPair pair.val fun a => a.firmwareBlock stream counter asks)

/-- Whether a proposal asks a facet whose mode adapts for more than the mode's limits (R14, R181). -/
def Hw.overLimit (h : Hw) (f sequences positions : Nat) : Bool :=
  h.modeParam f 0xE == 1 && h.mode f != 2 && (decide (h.modeParam f 1 < sequences) || decide (h.modeParam f 2 < positions))

/-- Takes a proposal for a facet's next compositions where ADAPT is true (R181). One above the mode's limits is refused by TES, with an event
in family 0xD, as though it had not been made (R14; DEDUCED, log entry 13: R181's min then acts where a limit has fallen since). -/
def Hw.takeProposal (h : Hw) (f sequences positions : Nat) : Hw :=
  if h.overLimit f sequences positions then h.eventUnit 0xD (14 * 16 + 1) (Config.freeNat 14 1 % 6) 4 (some f)
  else h.modFacet f fun x => { x with proposal := (sequences, positions) }

/-- POLICY_PROPOSAL: a target sequence count and position count. -/
def execPolicyProposal (pair : Fin 8) (facet : Fin 16) (sequences positions : Nat) (s : State) : Host.Outcome State Fault Refusal :=
  .next (s.onCore (0x20 + pair.val) fun h => h.fromPair pair.val fun a =>
    a.takeProposal facet.val (sequences % 2 ^ 32) (positions % 2 ^ 32))

/-- SHAPE_PROPOSAL: a shape for a live sequence, in the open ledger of its home facet (R294). -/
def execShapeProposal (pair : Fin 8) (handle : Word64) (slot : Fin 16) (valid : Bool) (s : State) : Host.Outcome State Fault Refusal :=
  .next (s.onCore (0x20 + pair.val) fun h => h.fromPair pair.val fun a =>
    match a.liveSlot handle.toNat with
    | some n => a.modCur n fun v => { v with spec := { v.spec with shape := slot.val, shapeValid := valid } }
    | none => a)

/-- An hour in ns. -/
def hourNs : Nat := 3600000000000

/-- The cores of a pair diverge: its outputs are held and both cores restart; the third resync within an hour masks the pair (R369). -/
def Hw.diverge (h : Hw) (p : Nat) : Hw :=
  if h.pairRuns p then
    let l := ((h.pair p).stamps.filter fun t => decide (h.now < t + hourNs)) ++ [h.now]
    let third := decide (3 ≤ l.length)
    let h1 := { h.inc 0xA020 4 with pairs := Map.insert h.pairs p { resyncing := !third, stamps := l } }
    if third then h1.maskUnit (.pair p) else h1
  else h

/-- LOCKSTEP_DIVERGENCE. -/
def execLockstepDivergence (pair : Fin 8) (s : State) : Host.Outcome State Fault Refusal :=
  .next (s.onCore (0x20 + pair.val) fun h => h.diverge pair.val)

/-- LOCKSTEP_RESYNC_COMPLETE: the pair runs again. -/
def execLockstepResyncComplete (pair : Fin 8) (s : State) : Host.Outcome State Fault Refusal :=
  .next (s.onCore (0x20 + pair.val) fun h =>
    { h with pairs := Map.insert h.pairs pair.val { h.pair pair.val with resyncing := false } })

end Sys2Proof.Machine
end

