-- ==== Sys2Proof/Machine/Faults.lean ====
section
/-! DEFINITION. Faults found by the checks inside the engine: ECC, residues and duplicated copies (R145, R151, R365, R368, R369,
Table 15.1). -/

namespace Sys2Proof.Machine

open Sys2Proof

/-- The facets of a fault, or every ACTIVE facet where the engine cannot tell which (R365). -/
def Hw.orActive (h : Hw) (l : List Nat) : List Nat :=
  if l = [] then (List.range 16).filter fun f => (h.facet f).state == .active else l

/-- Facets whose open ledger has changed a hot vertex of a bank. -/
def Hw.bankFacets (h : Hw) (b : Nat) : List Nat :=
  distinct ((h.seqs.filter fun e => e.2.hot && bankOf e.1 == b && e.2.cur != e.2.com).map fun e => e.2.cur.facet)

/-- Facets whose models use a pool. -/
def Hw.poolFacets (h : Hw) (k : Nat) : List Nat :=
  distinct ((h.seqs.filter fun e => (h.getAt 0x4101 3 (h.modelOf e.2.cur) ||| h.getAt 0x4101 4 (h.modelOf e.2.cur)).testBit k).map
    fun e => e.2.cur.facet)

/-- Rebuilds a pool's lists by scanning the page-info array in ascending order: refs 0 to the free list, refs 1 with a key and an index
entry to the cached list (R151). -/
def Hw.rescanPool (h : Hw) (k : Nat) : Hw :=
  let x := h.pool k
  let cached := (x.info.filter fun e => e.2.refs == 1 && e.2.key != 0 && h.indexed (k, e.1)).map Prod.fst
  h.modPool k fun y => { y with
    front := sortBy (fun a b => decide (a < b)) (y.front ++ y.freed), freed := [], cached := cached,
    info := y.info.map fun e => (e.1, { e.2 with listed := cached.contains e.1 }) }

/-- A queue's counts are rebuilt: M is read from the header; K is M and the entries of the committed ledger above it, so that it stays; W is K.
Which copy of C is kept is settled when M is known (R145). -/
def Hw.rebuildQueue (h : Hw) (q released : Nat) : Hw :=
  let x := h.queue q
  (h.modQueue q fun y => { y with w := y.k }).memPost false (h.getAt 0x3021 1 q) 1 [] .ring (some (h.getAt 0x3021 3 q))
    (.queueRebuild q x.c released)

/-- An uncorrectable word in a structure with one copy, or two copies that pass and differ (R145, R151, R365, Table 15.1). Where one copy of a
pair fails, the other is used and rewritten, and the word is only counted; so is one that ECC corrected (R381). -/
def Hw.eccError (h : Hw) (place : EccPlace) : Hw :=
  match place with
  | .ledger f => (h.inc 0xA020 2).fault [f.val] .unnamed false
  | .positionStore n => (h.inc 0xA020 2).fault (h.orActive (distinct (h.smp.store.map fun e => e.facet))) (.lane n.val) false
  | .delayList => (h.inc 0xA020 2).fault (h.orActive []) .unnamed false
  | .hotBank b =>
    let l := h.bankFacets b.val
    if l = [] then h.inc 0xA020 2 else (h.inc 0xA020 2).fault l (.bank b.val) false
  | .pairMemory p => (h.inc 0xA020 2).fault (h.orActive []) (.pair p.val) false
  | .poolLists k => ((h.inc 0xA020 3).fault (h.poolFacets k.val) .unnamed false).runFaults.rescanPool k.val
  | .queueCounts q c => ((h.inc 0xA020 3).fault [h.queueFacet q.val] .unnamed false).runFaults.rebuildQueue q.val c.toNat
  | .oneCopy => h.inc 0xA020 2
  | .corrected => h.inc 0xA020 1

/-- SRAM_ECC_ERROR. -/
def execSramEccError (place : EccPlace) (s : State) : Host.Outcome State Fault Refusal :=
  .next (s.onCoreF 0 fun h => h.eccError place)

/-- RESIDUE_MISMATCH: an engine fault that names the lane (R368). -/
def execResidueMismatch (lane : Fin 16) (s : State) : Host.Outcome State Fault Refusal :=
  .next (s.onCoreF (0x10 + lane.val) fun h =>
    h.fault (h.orActive (facetsOf (Map.getD h.smp.laneFacets lane.val 0))) (.lane lane.val) false)

/-- The bit of a duplicated unit in SIMPLEX (0xA013). -/
def copyBit : CopyUnit → Nat
  | .tes => 0 | .dsp => 1

/-- The copies of TES or DSP differ (R369): with one copy's parity failing the unit goes simplex; with both good the facet, or every
ACTIVE one, is faulted; a parity error in a simplex unit is a FAULT_HOLD. A simplex unit compares nothing. -/
def Hw.copyMismatch (h : Hw) (u : CopyUnit) (bad : Option (Fin 2)) (f : Option (Fin 16)) : Hw :=
  let v := h.raw 0xA013 1
  match bad with
  | some c =>
    if v.testBit (copyBit u) then h.faultHold none
    else
      ((h.inc 0xA020 3).set 0xA013 1 (setBit v (copyBit u) + if c.val = 1 then 2 ^ (2 + copyBit u) else 0)).event (4 + copyBit u) (369 * 16) 4
        (f.map fun x => x.val) none
  | none =>
    if v.testBit (copyBit u) then h
    else (h.inc 0xA020 3).fault (h.orActive (f.toList.map fun x => x.val)) .unnamed false

/-- CONTROL_COPY_MISMATCH. -/
def execControlCopyMismatch (which : CopyUnit) (parityFails : Option (Fin 2)) (facet : Option (Fin 16)) (s : State) :
    Host.Outcome State Fault Refusal :=
  .next (s.onCoreF (4 + copyBit which) fun h => h.copyMismatch which parityFails facet)

end Sys2Proof.Machine
end

