-- ==== Sys2Proof/Machine/Models.lean ====
section
/-! DEFINITION. Models and their versions as the dictionary's owner sees them: registration, activation, version control, the handover of
a retiring slot and the staleness budget (R330 to R337). -/

namespace Sys2Proof.Machine

open Sys2Proof

/-! ## Registration and activation -/

/-- Whether a program satisfies R185: 1 to 4,096 entries of defined class, one PROJECTION and that last, and ROUTER and EXPERT entries in
pairs with the same experts field. -/
def programOk (l : List Nat) : Bool :=
  let cls := fun i => progClass (l.getD i 0)
  let experts := fun i => bits (l.getD i 0) 47 40
  decide (1 ≤ l.length) && decide (l.length ≤ 4096) &&
  (List.range l.length).all fun i =>
    decide (cls i ≤ 4) && ((cls i == 4) == (i + 1 == l.length)) &&
    (cls i != 2 || (i != 0 && cls (i - 1) == 1 && experts (i - 1) == experts i)) &&
    (cls i != 1 || (decide (i + 1 < l.length) && cls (i + 1) == 2))

/-- Whether a layer table's entries have distinct layer IDs and element counts of at least 1 (R330). -/
def layerTableOk (l : List (Nat × Nat)) : Bool :=
  (distinct (l.map Prod.fst)).length == l.length && l.all fun e => e.2 != 0

/-- What registration needs (R330). -/
def Hw.mayRegister (h : Hw) (m : Nat) : Bool :=
  let base := fun (i s : Nat) => let a := h.getAt i s m; a != 0 && a % 4096 == 0
  let l := h.layers m
  decide (0 < h.getAt 0x8002 1 m) && base 0x8003 1 && base 0x8003 2 && base 0x8004 1 && base 0x8004 2 &&
  decide (1 ≤ l.length) && decide (l.length ≤ 4096) && layerTableOk l

/-- A write of MODEL_REGISTERED (R330). The numbers that later versions must exceed start from what the slots hold (R333). -/
def Hw.registerModel (h : Hw) (m v : Nat) : Status × Hw :=
  if v = h.getAt 0x8000 1 m then (.ok, h)
  else if v = 0 then
    if h.getAt 0x8001 1 m = 1 then (.busy, h) else (.ok, h.setAt 0x8000 1 m 0)
  else if !h.mayRegister m then (.range, h)
  else (.ok, ((h.setAt 0x8000 1 m 1).learnReset m).modLearner m fun l => { l with topVersion := h.currentVersion m })

/-- Jobs that name a model in their header and are neither IDLE nor ENDED; a job whose graph has not been read names none yet. -/
def Hw.jobNames (h : Hw) (m : Nat) : Bool :=
  h.jobs.any fun e => e.2.state.held && e.2.model == m && (e.2.loaded || e.2.nodes != [])

/-- Page bytes of a pool. -/
def Hw.poolBytes (h : Hw) (k : Nat) : Nat := h.getAt 0x4001 2 k

/-- Whether the pools of a model's masks are as R154 asks: device pools and host pools, of equal page bytes that hold P tokens' KV. -/
def Hw.modelPoolsOk (h : Hw) (m : Nat) : Bool :=
  let dev := setBits (h.getAt 0x4101 3 m)
  let host := setBits (h.getAt 0x4101 4 m)
  let all := dev ++ host
  (dev.all fun k => !h.hostPool k) && (host.all h.hostPool) &&
  all.all fun k => h.poolBytes k == h.poolBytes (all.headD 0) && decide (h.getAt 0x4101 1 m * h.getAt 0x4101 2 m ≤ h.poolBytes k)

/-- A write of MODEL_ACTIVE (R331). -/
def Hw.activateModel (h : Hw) (m v : Nat) : Status × Hw :=
  if v = h.getAt 0x8001 1 m then (.ok, h)
  else if v = 1 then
    if 16 ≤ ((List.range 256).filter fun k => h.getAt 0x8001 1 k = 1).length then (.full, h)
    else if h.getAt 0x8000 1 m ≠ 1 ∨ h.getAt 0x4101 3 m = 0 ∨ !h.modelPoolsOk m ∨ !programOk (h.program m) then (.range, h)
    else (.ok, h.setAt 0x8001 1 m 1)
  else if (h.seqs.any fun e => e.2.com.model == m || e.2.cur.model == m || h.modelOf e.2.com == m || h.modelOf e.2.cur == m) ||
      h.jobNames m then (.busy, h)
  else (.ok, h.setAt 0x8001 1 m 0)

/-! ## Version control -/

/-- The slot that waits for a LOAD: RETIRING with a load pending. -/
def Hw.loadPending (h : Hw) (m : Nat) : Option Nat :=
  if (h.learner m).request = some .load then [0, 1].find? fun s => h.slotState m s = 5 else none

/-- LOAD (R334). -/
def Hw.versionLoad (h : Hw) (m : Nat) : Status × Hw :=
  let s := h.writeSlot m
  if h.jobNames m then (.busy, h)
  else match h.slotState m s with
    | 0 => (.ok, h.setSlot m s 1)
    | 4 => (.ok, (h.setSlot m s 5).modLearner m fun l => { l with request := some .load, requestNs := h.now, stale := false })
    | _ => (.busy, h)

/-- Every number the model has had is at most this one. -/
def Hw.topVersion (h : Hw) (m : Nat) : Nat := max (h.learner m).topVersion (h.currentVersion m)

/-- PUBLISH (R334): the LOADING slot becomes CURRENT, the former CURRENT slot PREVIOUS, and the flip walk runs. -/
def Hw.versionPublish (h : Hw) (m v : Nat) : Status × Hw :=
  match [0, 1].find? fun s => h.slotState m s = 1 with
  | none => (.state, h)
  | some s =>
    if v ≤ h.topVersion m then (.range, h)
    else
      let h1 := match h.currentSlot m with | some c => h.setSlot m c 4 | none => h
      let h2 := ((h1.setSlot m s 3).setAt 0x8013 (s + 1) m v).modLearner m fun l => { l with topVersion := v }
      (.ok, (h2.flipWalk m).serveShadow m)

/-- ABORT (R334). -/
def Hw.versionAbort (h : Hw) (m : Nat) : Status × Hw :=
  match [0, 1].find? fun s => h.slotState m s = 1 with
  | some s => (.ok, (h.setSlot m s 0).serveShadow m)
  | none => match h.loadPending m with
    | some s => (.ok, ((h.setSlot m s 4).modLearner m fun l => { l with request := none, stale := false }).serveShadow m)
    | none => (.state, h)

/-- A write of VERSION_CTRL: its op, and for an unregistered model STATE; op 0 is a reserved value (R334). -/
def Hw.versionCtrl (h : Hw) (m v : Nat) : Status × Hw :=
  if v % 4 = 0 then (.range, h)
  else if h.getAt 0x8000 1 m ≠ 1 then (.state, h)
  else match v % 4 with
    | 1 => h.versionLoad m
    | 2 => h.versionPublish m (bits v 63 32)
    | _ => h.versionAbort m

/-! ## Retirement -/

/-- SLOT_HANDOVER: a RETIRING slot whose use count is 0 passes to its requester (R337). -/
def execSlotHandover (model : Fin 256) (s : State) : Host.Outcome State Fault Refusal :=
  .next (s.onCore 9 fun h => h.handover model.val)

/-- The staleness budget of a request passes, STALENESS_BUDGET ms after it (R337): FIXED sequences still pinned to the slot flip, those of a Lattice facet with flip
source 1 at its compositions (R338); EXACT ones end as a cancel ends. -/
def Hw.expire (h : Hw) (m : Nat) : Hw :=
  let l := h.learner m
  if l.request.isNone ∨ l.stale ∨ h.now < l.requestNs + 1000000 * h.getAt 0x8008 1 m then h
  else
    let h1 := h.modLearner m fun x => { x with stale := true }
    h1.seqs.foldl (fun a e =>
      let v := e.2.cur
      if a.modelOf v = m ∧ a.slotState m v.vslot = 5 ∧ v.state ≠ .ended then
        match v.pins with
        | .fixed => if a.modeNow v.facet = 2 ∧ a.raw 0x8103 (v.facet + 1) = 1 then a else a.flip e.1
        | .exact => (a.askEnd e.1 .cancel).bumpAt 0x8017 1 m 1
        | .follow => a
      else a) h1

/-- STALENESS_EXPIRY. -/
def execStalenessExpiry (model : Fin 256) (s : State) : Host.Outcome State Fault Refusal :=
  .next (s.onCore 9 fun h => h.expire model.val)

end Sys2Proof.Machine
end

