-- ==== Sys2Proof/Machine/Fed.lean ====
section
/-! DEFINITION. Federation rings and rounds: polling, votes, decisions, timeouts and the driver's resolution (R354 to R359). -/

namespace Sys2Proof.Machine

open Sys2Proof

/-- A poll of the in ring, every FED_POLL_US µs (R355): its produced count is read, and then the units up to it; the out ring's consumed count is
read again while frames wait for room. -/
def Hw.fedPoll (h : Hw) : Hw :=
  if !h.fedOn ∨ h.now < h.fed.pollNs + 1000 * h.get 0x8307 1 then h
  else
    let h0 : Hw := { h with fed := { h.fed with pollNs := h.now } }
    let h1 := if h.fed.inOff ∨ h.fed.polling then h0
      else Hw.memPost { h0 with fed := { h0.fed with polling := true } } false (h.raw 0x8305 1) 1 [] .fed none .fedPoll
    if h1.fed.waitingOut = [] ∨ h1.fed.outOff ∨ (h1.memWaiting fun u => u == .fedCount) then h1
    else h1.memPost false (h.raw 0x8303 1) 1 [] .fed none .fedCount

/-- FED_POLL. -/
def execFedPoll (_produced : Nat) (_units : List Byte) (s : State) : Host.Outcome State Fault Refusal := .next (s.onCore 9 Hw.fedPoll)

/-- The model whose rounds a key names: registered, and committing through the federation. -/
def Hw.keyModel (h : Hw) (key : Nat) : Option Nat :=
  (List.range 256).find? fun m => h.getAt 0x8000 1 m == 1 && h.federated m && h.getAt 0x8009 1 m == key

/-- Takes a commit message of a kind whose CRC checks, for a model of this engine; another is discarded (R355, R358). -/
def Hw.commitIn (h : Hw) (kind : Nat) (l : List Byte) (f : Hw → Nat → Hw) : Hw :=
  if !h.fedOn then h
  else if l.length < 64 ∨ leBytes 4 (crc32c (slice l 0 60)).toNat ≠ slice l 60 4 ∨ fieldAt l 0 1 ≠ kind ∨ 3 < fieldAt l 1 1 then h.badFrame
  else match h.keyModel (fieldAt l 4 4) with
    | none => h.badFrame
    | some m => f h m

/-- A child's VOTE (R357, R359): it joins the round of the model's attempt, or is answered with the decision of a round that is over. -/
def Hw.voteIn (h : Hw) (source m : Nat) (l : List Byte) : Hw :=
  let a := fieldAt l 8 8
  if !h.fedChildren.contains source then h.badFrame
  else match (h.learner m).decided.find? fun e => e.1 == a with
    | some (_, c) => h.fedSend source 2 (h.commitMessage 2 (c % 4) m a (c / 4 % 2 ^ 32) (c / 2 ^ 34))
    | none =>
      if a ≠ h.getAt 0x802A 1 m then h.badFrame
      else
        let r := (h.learner m).round.getD (h.freshRound m)
        let v := voteCode (fieldAt l 1 1) (fieldAt l 16 4) (fieldAt l 20 4)
        (h.modLearner m fun x => { x with round := some { r with votes := (r.votes.filter fun e => e.1 != source) ++ [(source, v)] } }).fedProgress
          m false

/-- FED_VOTE. -/
def execFedVote (source : Nat) (message : List Byte) (s : State) : Host.Outcome State Fault Refusal :=
  .next (s.onCore 9 fun h => h.commitIn 1 message fun a m => a.voteIn source m message)

/-- A DECIDE (R358, R359): applied to the model's open round and forwarded to the children; for any other attempt, or from another than the
parent, it is discarded. -/
def Hw.decideIn (h : Hw) (source m : Nat) (l : List Byte) : Hw :=
  if h.fedParent ≠ some source ∨ fieldAt l 8 8 ≠ h.getAt 0x802A 1 m ∨ (h.roundState m ≠ 1 ∧ h.roundState m ≠ 2) then h.badFrame
  else (h.fedApply m (fieldAt l 1 1)).fedForward m (fieldAt l 1 1) (fieldAt l 8 8) (fieldAt l 16 4) (fieldAt l 20 4)

/-- FED_DECIDE. -/
def execFedDecide (source : Nat) (message : List Byte) (s : State) : Host.Outcome State Fault Refusal :=
  .next (s.onCore 9 fun h => h.commitIn 2 message fun a m => a.decideIn source m message)

/-- FED_VOTE_TIMEOUT ms have passed since the engine's own verdict, or since its last VOTE: a missing child's vote counts as FAILED (R357), or the engine's own VOTE goes out again (R359). -/
def Hw.voteTimeout (h : Hw) (m : Nat) : Hw :=
  match (h.learner m).round with
  | none => h
  | some r =>
    if !h.fedOn ∨ r.own.isNone ∨ h.now < r.sinceNs + 1000000 * h.get 0x8308 1 then h
    else if !r.sent then h.fedProgress m true
    else match h.fedParent with
      | some p =>
        if h.roundState m = 2 then
          (((h.modLearner m fun x => { x with round := some { r with sinceNs := h.now } }).fedSend p 2
            (h.commitMessage 1 r.verdict m r.attempt r.proposed r.digest)).inc 0x830C 1).event 9 (359 * 16) 3 none none
        else h
      | none => h

/-- FED_VOTE_TIMEOUT. -/
def execFedVoteTimeout (model : Fin 256) (s : State) : Host.Outcome State Fault Refusal :=
  .next (s.onCore 9 fun h => h.voteTimeout model.val)

/-- A write of FED_RESOLVE (R359): 1 COMMIT or 2 FAILED for the voted round, applied and forwarded. -/
def Hw.fedResolve (h : Hw) (m v : Nat) : Status × Hw :=
  if v ≠ 1 ∧ v ≠ 2 then (.range, h)
  else match (h.learner m).round with
    | some r =>
      if h.roundState m ≠ 2 then (.state, h)
      else
        let d := if v = 1 then 0 else 2
        (.ok, (h.fedApply m d).fedForward m d r.attempt r.proposed r.digest)
    | none => (.state, h)

end Sys2Proof.Machine
end

