-- ==== Sys2Proof/Machine/Observe.lean ====
section
/-! DEFINITION. Firmware loads, counts, bins, triggers and events as commands and dictionary writes bring them about (R380, R384, R387,
R392, R395, R398). -/

namespace Sys2Proof.Machine

open Sys2Proof

/-! ## Firmware -/

/-- Requests that read the firmware image: at most 64 beats each (R380, Table 3.10). -/
def Hw.readImage (h : Hw) : Hw :=
  let n := h.raw 0xA061 1
  (List.range (ceilDiv n 4096)).foldl (fun a i =>
    a.memPost false (h.raw 0xA060 1 + 4096 * i) (ceilDiv (min 4096 (n - 4096 * i)) 64) [] .start none .startRead) h

/-- A write of FW_LOAD (R380): the load starts in CONFIG only. -/
def Hw.fwLoad (h : Hw) (v : Nat) : Status × Hw :=
  if h.eng.state ≠ .config then (.state, h)
  else if v = 0 then (.ok, h)
  else (.ok, (h.set 0xA064 1 1).readImage)

/-- The pairs start: no resync runs, and HLX takes ENGINE_SEED as last written (R242, R380). -/
def Hw.startPairs (h : Hw) : Hw :=
  { h.set 0xA064 1 2 with pairs := h.pairs.map fun e => (e.1, { e.2 with resyncing := false }), engineSeedUsed := h.raw 0x7103 1 }

/-- The load is over: the pairs start, or the image is rejected (R380). -/
def Hw.fwLoaded (h : Hw) (ok : Bool) : Hw :=
  if h.raw 0xA064 1 ≠ 1 then h else if ok then h.startPairs else h.set 0xA064 1 3

/-- FW_LOAD_COMPLETE. -/
def execFwLoadComplete (digestOk : Bool) (s : State) : Host.Outcome State Fault Refusal :=
  .next (s.onCore 0 fun h => h.fwLoaded digestOk)

/-! ## Counts and triggers -/

/-- A write of true to COUNTS_CLEAR: every count as it stands at the start of this cc becomes 0 (R384). -/
def Hw.countsClear (h : Hw) (v : Nat) : Hw := if v = 1 then { h with trace := { h.trace with unitCounts := [] } } else h

/-- A write of BIN_FILTER clears the bin's totals (R387). -/
def Hw.binFilter (h : Hw) (sub v : Nat) : Hw :=
  (List.range 5).foldl (fun a i => a.setAt 0xB021 sub i 0) (h.set 0xB020 sub v)

/-- A write of TRIGGER_FIRE: the trigger fires if it is armed and of kind 1 (R392). -/
def Hw.triggerFire (h : Hw) (n : Nat) : Hw :=
  let w := h.raw 0xB040 (n + 1)
  if w.testBit 3 ∧ w % 8 = 1 then h.fireTrigger n else h

/-- A write of TRACE_UNFREEZE (R393). -/
def Hw.traceUnfreeze (h : Hw) (v : Nat) : Hw := if v = 1 ∧ (h.raw 0xB038 1).testBit 63 then h.unfreeze else h

/-! ## Events -/

/-- EVR takes at most one record from its intake per 16 cc (R395). -/
def Hw.acceptNext (h : Hw) : Hw :=
  if (match h.events.takenCc with | some c => decide (h.cc < c + 16) | none => false) || h.events.intake == [] then h.markIdle 0x0D
  else Hw.acceptEvent { h with events := { h.events with takenCc := some h.cc } }

/-- EVENT_RECORD_ACCEPT. -/
def execEventRecordAccept (s : State) : Host.Outcome State Fault Refusal := .next (s.onCore 0x0D Hw.acceptNext)

/-- A rate-limit window has ended: one summary record for every code with occurrences suppressed, stamped with the boundary (R398). -/
def Hw.rateBoundary (h : Hw) : Hw :=
  let h1 := h.rollRates
  (sortBy (fun (a b : RateEntry × Nat) => decide (a.1.first.unit < b.1.first.unit)) h1.events.closed).foldl
    (fun a r => a.logRecord { r.1.first with facet := none, part := none, detail := [] } (r.1.suppressed % 2 ^ 32) true r.2)
    { h1 with events := { h1.events with closed := [] } }

/-- RATE_WINDOW_BOUNDARY. -/
def execRateWindowBoundary (s : State) : Host.Outcome State Fault Refusal := .next (s.onCore 0x0D Hw.rateBoundary)

end Sys2Proof.Machine
end

