-- ==== Sys2Proof/Machine/Power.lean ====
section
/-! DEFINITION. The always-on port while the engine runs: core clock points, facet levels, RETAIN and its wake sources, and the power-fail
sequence (R402, R404, R409 to R416). -/

namespace Sys2Proof.Machine

open Sys2Proof

/-! ## Core clock points -/

/-- Whether a change of clock point is outstanding (R409). -/
def Pins.changing (p : Pins) : Bool := p.pointReq != p.pointCur

/-- Drives `aon_pt_req` with the slower of CORE_POINT_REQ and `aon_pt_cap`; a change begins only while none is outstanding and
`aon_pt_ack` is low (R409). -/
def Hw.drivePoint (h : Hw) : Hw :=
  let t := max (h.raw 0xD000 1) h.pins.pointCap
  if t = h.pins.pointReq ∨ h.pins.changing ∨ h.pins.pointAck then h
  else { h with pins := { h.pins with pointReq := t, pointReqNs := h.now, pointLogged := false } }

/-- `aon_pt_cap` changes. -/
def Hw.capChange (h : Hw) (cap : Nat) : Hw := ({ h with pins := { h.pins with pointCap := cap } } : Hw).drivePoint

/-- POINT_CAP_CHANGE. -/
def execPointCapChange (cap : Fin 4) (s : State) : Host.Outcome State Fault Refusal :=
  .next (s.onCore 0 fun h => h.capChange cap.val)

/-- `aon_pt_ack` rises with `aon_pt_cur`: the change is complete where the point running is the one asked for (R409). -/
def Hw.pointAcked (h : Hw) (cur : Nat) : Hw :=
  let h1 : Hw := { h with pins := { h.pins with pointAck := true, pointCur := cur } }
  if !h.pins.pointAck ∧ h.pins.changing ∧ cur = h.pins.pointReq then h1.inc 0xD003 1 else h1

/-- POINT_ACK. -/
def execPointAck (current : Fin 4) (s : State) : Host.Outcome State Fault Refusal :=
  .next (s.onCore 0 fun h => h.pointAcked current.val)

/-- `aon_pt_ack` falls, and a request that waited goes out (R409). -/
def Hw.pointAckFell (h : Hw) : Hw := ({ h with pins := { h.pins with pointAck := false } } : Hw).drivePoint

/-- POINT_ACK_FALL. -/
def execPointAckFall (s : State) : Host.Outcome State Fault Refusal := .next (s.onCore 0 Hw.pointAckFell)

/-- A change is not acknowledged within 100 µs: logged once, and the request is held (R409). -/
def Hw.pointLate (h : Hw) : Hw :=
  if h.pins.changing ∧ !h.pins.pointLogged ∧ h.pins.pointReqNs + 100000 ≤ h.now then
    ({ h with pins := { h.pins with pointLogged := true } } : Hw).event 0 (409 * 16) 4 none none
  else h

/-- POINT_ACK_TIMEOUT. -/
def execPointAckTimeout (s : State) : Host.Outcome State Fault Refusal := .next (s.onCore 0 Hw.pointLate)

/-! ## Facet levels -/

/-- A facet that has met a condition of R410 for GATE_DELAY without a break is driven to level 0. -/
def Hw.gate (h : Hw) (f : Nat) : Hw :=
  let delay := h.get 0xD014 (f + 1)
  match (h.facet f).idleSinceNs with
  | some t => if h.mayGate f ∧ delay ≠ 0xFFFFFFFF ∧ t + 1000000 * delay ≤ h.now then h.set 0xD010 (f + 1) 0 else h
  | none => h

/-- FACET_GATE. -/
def execFacetGate (facet : Fin 16) (s : State) : Host.Outcome State Fault Refusal := .next (s.onCore 0 fun h => h.gate facet.val)

/-- `aon_facet_up` of a facet rises; a facet that waits for it enters its state in the next cc (R411). -/
def Hw.facetRose (h : Hw) (f : Nat) : Hw := { h with pins := { h.pins with facetUp := setBit h.pins.facetUp f } }

/-- FACET_UP. -/
def execFacetUp (facet : Fin 16) (s : State) : Host.Outcome State Fault Refusal := .next (s.onCore 0 fun h => h.facetRose facet.val)

/-- `aon_facet_up` has not risen within 100 ms: the entry is abandoned (R411). -/
def Hw.facetUpLate (h : Hw) (f : Nat) : Hw :=
  let x := h.facet f
  match x.waitingUp with
  | none => h
  | some st =>
    if h.now < x.upSinceNs + 100000000 then h
    else
      let h1 := (h.modFacet f fun x => { x with waitingUp := none, idleSinceNs := some h.now }).set 0xD010 (f + 1) 0
      let h2 := if st = .exclusive then h1.modJob f false fun _ => Job.idle else h1
      h2.event 0 (411 * 16) 4 (some f) none

/-- FACET_UP_TIMEOUT. -/
def execFacetUpTimeout (facet : Fin 16) (s : State) : Host.Outcome State Fault Refusal :=
  .next (s.onCore 0 fun h => h.facetUpLate facet.val)

/-- The integrator lowers `aon_facet_up`, which it may do only at level 0 (R411). -/
def Hw.facetFell (h : Hw) (f : Nat) : Hw :=
  if h.raw 0xD010 (f + 1) = 0 then { h with pins := { h.pins with facetUp := clearBit h.pins.facetUp f } } else h

/-- FACET_UP_FALL. -/
def execFacetUpFall (facet : Fin 16) (s : State) : Host.Outcome State Fault Refusal :=
  .next (s.onCore 0 fun h => h.facetFell facet.val)

/-- A write of FACET_LEVEL_DEFAULT: a facet that is not gated is driven at its new working level, unless R412 sets it (R410). -/
def Hw.levelDefault (h : Hw) (f v : Nat) : Hw :=
  let h1 := h.set 0xD011 (f + 1) v
  if h.raw 0xD010 (f + 1) = 0 ∨ (h.modeNow f = 3 ∧ 0 < h.paramNow f 0xF) then h1 else h1.set 0xD010 (f + 1) v

/-! ## RETAIN -/

/-- RETAIN_REQUEST: `aon_ret_req` rises; in QUIESCED the entry to RETAIN begins (R413). -/
def execRetainRequest (s : State) : Host.Outcome State Fault Refusal :=
  .next (s.onAll 0 fun s1 => ({ s1 with hw := { s1.hw with pins := { s1.hw.pins with retReq := true } } } : State).beginRetain)

/-- RETAIN_REQUEST_WITHDRAWN: before the ack, a withdrawn request has no effect (R413). -/
def execRetainRequestWithdrawn (s : State) : Host.Outcome State Fault Refusal :=
  .next (s.onAll 0 fun s1 => { s1 with hw := { s1.hw with pins := { s1.hw.pins with retReq := false } } })

/-- The engine is RETAIN: the outputs are clamped and the request is acknowledged (R413). -/
def State.enterRetain (s : State) : State :=
  let h := s.hw.enter .retain
  { s with hw := { h with pins := { h.pins with retAck := true } },
           gnm := { s.gnm.set 0xD020 1 (s.gnm.get 0xD020 1 + 1) with iso := true } }

/-- `aon_rs_flush_ack`: the power-fail sequence ends with its time noted in HOLDUP_USED, in µs rounded up (DESIGN CHOICE, log entry 124), and an entry to RETAIN that still finds the engine QUIESCED
completes (R413, R416). -/
def State.flushAcked (s : State) : State :=
  if !s.hw.pins.rsFlush then s
  else
    let h1 : Hw := { s.hw with pins := { s.hw.pins with rsFlush := false } }
    let s1 : State := { s with hw := h1 }
    let s2 : State :=
      if h1.eng.powerFail then
        { s1 with hw := { h1 with eng := { h1.eng with powerFail := false } },
                  gnm := s.gnm.set 0xD043 1 ((h1.now - h1.eng.pfNs + 999) / 1000 % 2 ^ 32) }
      else s1
    if h1.pins.retReq ∧ h1.eng.state = .quiesced then s2.enterRetain else s2

/-- RS_FLUSH_ACK: a state request of its cc comes first (R413). -/
def execRsFlushAck (s : State) : Host.Outcome State Fault Refusal := .next (s.onAllAt .retain 0 State.flushAcked)

/-- WAKE_COMPARATOR. -/
def execWakeComparator (index : Fin 8) (s : State) : Host.Outcome State Fault Refusal := .next (s.wakeCompare index.val)

/-- SUB_WAKE: a level of submission doorbells seen in RETAIN (R414). -/
def execSubWake (count : Nat) (s : State) : Host.Outcome State Fault Refusal :=
  .next (if s.gnm.powered ∧ s.hw.eng.state = .retain ∧ 0 < s.gnm.get 0xD032 1 ∧ s.gnm.get 0xD032 1 ≤ count then s.wakeBy 8 else s)

/-- WAKE_REQUEST: `aon_wake_req` is high in RETAIN (R414). -/
def execWakeRequest (s : State) : Host.Outcome State Fault Refusal :=
  .next (if s.gnm.powered ∧ s.hw.eng.state = .retain then s.wakeBy 9 else s)

/-! ## Power failure -/

/-- Counts a warning and keeps its stamp (R415). -/
def Gnomon.notePf (g : Gnomon) (ns : Nat) : Gnomon := (g.set 0xD041 1 ((g.get 0xD041 1 + 1) % 2 ^ 64)).set 0xD042 1 ns

/-- The first part of the power-fail sequence: POWER_FAIL is raised, and EVR takes no event below S4 any more (R402 step 1). -/
def State.pfWarn (s : State) : State :=
  let h := s.hw
  let held := ((h.events.buffer ++ h.events.intake).filter h.unsettled).length
  let h1 : Hw := { h with eng := { h.eng with powerFail := true, pfNs := h.now }, events := { h.events with stopBelowS4 := true } }
  { s with hw := h1.raiseEv { fam := 0, code := 0x0001, sev := 4, unit := familyUnit 0, facet := none, part := none,
                              detail := leBytes 8 held },
           gnm := s.gnm.notePf h.now }

/-- Writes to the persistent ring what it waits for, in descending severity and oldest first within one (R402 step 2). -/
def Hw.pfFlush (h : Hw) : Hw :=
  let h1 := (List.range h.events.intake.length).foldl (fun a _ => a.acceptEvent) h
  [5, 4, 3, 2, 1, 0].foldl (fun a sev =>
    (sortBy (fun (x y : EventRec) => decide (x.seq < y.seq)) (a.events.buffer.filter fun e => e.duePersist && e.severity == sev)).foldl
      Hw.persistRecord a) h1

/-- The rest of the sequence: the flush, the pending P writes with the records, the counts with PF_UNWRITTEN, and `aon_rs_flush` (R402,
R416). Nothing is written from a START that has not restored it. -/
def State.pfRest (s : State) : State :=
  let h := s.hw.pfFlush
  let s1 : State := { s with hw := h.set 0xC00C 1 h.persistHeld }
  let s2 := if h.eng.state = .start then s1 else s1.writeImage.writeRecords
  let s3 := s2.writeCounts
  { s3 with hw := { s3.hw with pins := { s3.hw.pins with rsFlush := true } } }

/-- POWER_FAIL_WARNING: in RUN the sequence runs unless one is under way; in RETAIN the Gnomon records the warning (R415). -/
def execPowerFailWarning (s : State) : Host.Outcome State Fault Refusal :=
  .next (
    if s.hw.eng.state = .retain then (if s.gnm.powered then { s with gnm := s.gnm.notePf s.gnm.time } else s)
    else if !s.live || s.hw.eng.powerFail then s
    else (s.onAll 0x0E State.pfWarn).goOn 0x0D State.pfRest)

/-- SUPPLY_HEALTHY: EVR takes events below S4 again (R415). -/
def execSupplyHealthy (s : State) : Host.Outcome State Fault Refusal :=
  .next (s.onCore 0x0D fun h => { h with events := { h.events with stopBelowS4 := false } })

end Sys2Proof.Machine
end

