-- ==== Sys2Proof/Machine/Start.lean ====
section
/-! DEFINITION. Resets, the loss of power, and the start sequence (R24, R25, R98 to R102, R133 to R135, R151, R373 to R380, R404, R414). -/

namespace Sys2Proof.Machine

open Sys2Proof

/-! ## What external memory keeps -/

/-- A sequence as its vertex and block table in memory show it: nothing of the open ledger, and nothing that only the engine held. -/
def Seq.mirror (q : Seq) : Seq :=
  { q with cur := q.com, pagesCur := q.pagesCom, tokensCur := q.tokensCom, hot := false, moving := false, migrateAsked := false,
           cancelAsked := none, urgent := false, missSeen := false, resQueue := [], resRing := [], recordReady := true,
           blocks := if q.blocks = [] then [] else q.blocks.take (1 + leavesFor q.pagesCom.length) }

/-- Slots whose admission has not yet been written to the table. -/
def Hw.unwrittenSlots (h : Hw) : List Nat :=
  h.mem.all.filterMap fun r => match r.use with
    | .admissionVertex _ slot _ _ => some slot
    | _ => none

/-- Steps of a facet's journal whose seal has its OKAY, oldest first. -/
def Journal.sealedGroups (j : Journal) : List JGroup := j.groups.takeWhile fun g => g.stage == 2

/-- Steps of a facet's journal without one, newest first. -/
def Journal.openGroups (j : Journal) : List JGroup := (j.groups.dropWhile fun g => g.stage == 2).reverse

/-- The sequences as a step without a seal found them. -/
def undoGroup (m : Map Seq) (g : JGroup) : Map Seq :=
  g.before.foldl (fun a e => match e.2 with
    | some q => Map.insert a e.1 q
    | none => Map.erase a e.1) m

/-- The committed sequences that memory holds: steps not sealed are undone, and admissions not yet written are gone (R25, R373). -/
def Hw.mirrorSeqs (h : Hw) : Map Seq :=
  let m := h.journal.foldl (fun a e => e.2.openGroups.foldl undoGroup a) h.seqs
  (m.filter fun e => !h.unwrittenSlots.contains e.1).map fun e => (e.1, e.2.mirror)

/-- The count that a queue's header shows after a start: K as the newest sealed step left it, and the header's own where the newest step is
not sealed and none before it waits (R141, R373). -/
def Hw.mirrorCount (h : Hw) (q : Nat) : Nat :=
  let x := h.queue q
  let j := Map.getD h.journal (h.queueFacet q) Journal.reset
  if j.openGroups = [] then x.k
  else match (j.sealedGroups.flatMap fun g => g.pairs).reverse.find? fun e => e.1 == q with
    | some e => e.2
    | none => x.publishing.getD x.m

/-- Pages mapped by sequences. -/
def mappedPages (m : Map Seq) (k : Nat) : List Nat := m.flatMap fun e => (e.2.pagesCom.filter fun r => r.pool == k).map fun r => r.page

/-- Pages that steps undone had sealed. -/
def Hw.unsealed (h : Hw) (m : Map Seq) : List (Nat × Nat) :=
  let l := pagePairs ((m.flatMap fun e => e.2.pagesCom).filter fun r => !r.isSealed)
  l.filter fun r => (h.pageInfo r).key ≠ 0

/-- A pool's page-info array for a set of sequences: every reference counted, and pages without one FREE. -/
def Hw.mirrorInfo (h : Hw) (m : Map Seq) (index : List PrefixEntry) (k : Nat) : Map PageInfo :=
  let mapped := mappedPages m k
  let held := (index.filter fun e => e.pool == k).map fun e => e.page
  let l := sortBy (fun a b => decide (a < b)) ((mapped ++ held).eraseDups)
  l.map fun p =>
    let i := h.pageInfo (k, p)
    let clean := (h.unsealed m).contains (k, p)
    (p, { refs := mapped.count p + held.count p, key := if clean then 0 else i.key, tokens := if clean then [] else i.tokens, listed := false })

/-- What memory keeps of the core island's state, in a core island that is otherwise as after reset: the Locus table, the page-info arrays,
the prefix index, the journals, the headers of rings and queues, and the retention store's event ring; and the levels on its
input pins (R25, R135, R151). -/
def Hw.afterReset (h : Hw) (st : EngState) (low : Bool) : Hw :=
  let m := h.mirrorSeqs
  let index := h.pages.index.filter fun e => !(h.unsealed m).contains (e.pool, e.page)
  { Hw.reset with
    eng := { Hw.reset.eng with state := st },
    pins := { Pins.reset with pointReq := h.pins.pointCap, pointCap := h.pins.pointCap, pointCur := h.pins.pointCur,
                              pointAck := h.pins.pointAck, facetUp := h.pins.facetUp, retReq := h.pins.retReq, rstLow := low },
    events := { Hw.reset.events with persistRing := h.events.persistRing },
    rings := h.rings.map fun e => (e.1, { Ring.reset with consumed := e.2.consumed }),
    queues := h.queues.map fun e => (e.1, { Queue.reset with m := h.mirrorCount e.1 }),
    seqs := m, gens := h.gens,
    pages := { Hw.reset.pages with
      pools := h.pages.pools.map fun e => (e.1, { Pool.reset with info := h.mirrorInfo m index e.1 }),
      index := index, inserts := h.pages.inserts },
    fed := { Hw.reset.fed with produced := h.fed.produced, consumed := h.fed.consumed, outRead := h.fed.outRead },
    expRings := h.expRings,
    journal := h.journal.map fun e => (e.1, { e.2 with groups := e.2.sealedGroups }) }

/-- The core and policy domains are reset (R24, R25). -/
def State.resetCore (s : State) (st : EngState) (low : Bool) : State :=
  { s with win := Window.reset, hw := s.hw.afterReset st low }

/-! ## The reset inputs and power -/

/-- AON_RST_ASSERT: the core and policy domains are reset, and the Gnomon island runs on (R24, R25). -/
def execAonRstAssert (s : State) : Host.Outcome State Fault Refusal :=
  .next (match s.hw.eng.state with
    | .off => { s with hw := { s.hw with pins := { s.hw.pins with rstLow := true } } }
    | .retain => s.resetCore .retain true
    | _ => { s.resetCore .start true with gnm := { s.gnm with cause := 1 } })

/-- AON_POR_ASSERT: the whole block is reset (R24). -/
def execAonPorAssert (s : State) : Host.Outcome State Fault Refusal :=
  .next { s.resetCore .off s.hw.pins.rstLow with gnm := { Gnomon.reset with powered := false, rs := s.gnm.rs } }

/-- POWER_LOSS: the engine is OFF (Table 5.9); the retention store and external memory keep what they hold. -/
def execPowerLoss (s : State) : Host.Outcome State Fault Refusal :=
  .next { s.resetCore .off s.hw.pins.rstLow with gnm := { Gnomon.reset with powered := false, rs := s.gnm.rs } }

/-- The Gnomon island after `aon_por_n`: what the retention store holds of its counts is read back, and POWER_CYCLES counts the release
(R379, R404). -/
def Gnomon.released (rs : Retention) : Gnomon :=
  let g := { Gnomon.reset with rs := rs }
  (((((g.set 0xD110 1 rs.hours).set 0xD111 1 ((rs.cycles + 1) % 2 ^ 32)).set 0xD112 1 rs.hourTicks).set 0xD041 1 rs.warnings).set
    0xD042 1 rs.lastPf).set 0xD043 1 rs.holdup

/-- AON_POR_RELEASE: the engine is in START, or in RETAIN where only the Gnomon island has power (Table 5.9). -/
def execAonPorRelease (corePowered : Bool) (s : State) : Host.Outcome State Fault Refusal :=
  .next (
    if s.hw.eng.state ≠ .off then s
    else
      let h : Hw := { s.hw with eng := { s.hw.eng with state := if corePowered then .start else .retain },
                                pins := { s.hw.pins with rstLow := s.hw.pins.rstLow || !corePowered } }
      { s with gnm := Gnomon.released s.gnm.rs, hw := h })

/-- TST_TRST: the TAP is reset, and nothing else (R24, R419). -/
def execTstTrst (s : State) : Host.Outcome State Fault Refusal := .next { s with gnm := { s.gnm with tapIr := .idcode } }

/-! ## The start sequence -/

/-- One start under way: the machine, its ledger steps so far, the step that ended it, and what later steps need of earlier ones. -/
structure StartRun where
  s        : State
  log      : List StepLog
  failed   : Nat
  noHistory : Bool
  restored : Bool
  cold     : Bool
deriving DecidableEq, Repr

/-- Steps without an alternate (Table 15.6). -/
def noAlternate : List Nat := [1, 9, 15]

/-- The step that the previous start's ledger shows for step `k`: the Gnomon's ledger, or from step 4 on after `aon_por_n` the retention
store's copy unless step 4 ran its alternate (R377). -/
def StartRun.previous (x : StartRun) (k : Nat) : Option StepLog :=
  let l := match x.s.gnm.ledgers, x.s.gnm.rs.ledgers with
    | l :: _, _ => some l
    | [], l :: _ => if 3 < k ∧ !x.noHistory then some l else none
    | [], [] => none
  l.bind fun l => l.steps[k - 1]?

/-- Whether a step begins with its alternate (R377). -/
def StartRun.startsAlternate (x : StartRun) (k : Nat) : Bool :=
  !noAlternate.contains k && ((x.s.gnm.get 0xA014 1).testBit 1 ||
    match x.previous k with
    | some e => e.way == 0 && (e.outcome == 1 || e.outcome == 6)
    | none => false)

/-- Notes a step's end. -/
def StartRun.note (x : StartRun) (outcome way detail : Nat) : StartRun :=
  { x with log := x.log ++ [{ outcome := outcome, way := way, detail := detail }] }

/-- Runs step `k`: its standard way, then its alternate where that fails, or its alternate at once. `std` answers the run after the standard
way, none where it fails, and `alt` after the alternate; `outS` and `outA` are their outcome codes. A start that has ended runs nothing. -/
def StartRun.step (x : StartRun) (r : StartReport) (k outS outA detail : Nat) (std : StartRun → Option StartRun)
    (alt : StartRun → StartRun) : StartRun :=
  if x.failed ≠ 0 then x.note 0 0 0
  else
    let tryAlt := if r.alternateFails.contains k then { x.note 6 1 0 with failed := k } else (alt x).note outA 1 detail
    if x.startsAlternate k then tryAlt
    else match (if r.standardFails.contains k then none else std x) with
      | some y => y.note outS 0 0
      | none => if noAlternate.contains k then { x.note 6 0 0 with failed := k } else tryAlt

/-- Changes the core island of a run. -/
def StartRun.modHw (x : StartRun) (f : Hw → Hw) : StartRun := { x with s := { x.s with hw := f x.s.hw } }

/-- EVENT_RECOVER (R400, R402): the ring goes on behind its last valid record; a power failure that left records unwritten is reported, and
the alternate reports its new segment. -/
def State.eventRecover (s : State) (anew : Bool) : State :=
  let lost := match s.gnm.rs.image with | some i => Map.getD i.values (odKey 0xC00C 1 0) 0 | none => 0
  let h1 := if anew then s.hw.gapEvent 0 2 else s.hw
  { s with hw := if lost ≠ 0 then h1.gapEvent lost 3 else h1 }

/-- Layer exponents from the bytes of LAYER_EXP. -/
def expsOf (l : List Byte) : Map Int := (l.zip (List.range l.length)).map fun e => (e.2, e.1.toInt)

/-- Whether a key is of a P entry that the Gnomon holds (log entry 113). -/
def gnomonKey (k : Nat) : Bool := gnomonHolds (k / 2 ^ 24) (k / 2 ^ 16 % 256)

/-- The core island with the P image's values (R98, R101). -/
def Hw.restoreImage (h : Hw) (img : PImage) : Hw :=
  let exps := img.domains.filter fun e => e.1 / 2 ^ 24 == 0x8026
  { h with od := img.values.foldl (fun m e => if highWaterKeys.contains e.1 || gnomonKey e.1 then m else Map.insert m e.1 e.2) h.od,
           dom := img.domains.filter fun e => e.1 / 2 ^ 24 != 0x8026, imageLive := true,
           learners := exps.map fun e => (e.1 % 2 ^ 16, { Learner.reset with layerExp := expsOf e.2 }) }

/-- What the Gnomon takes of the image: its P entries of 0xD100 that have no value since `aon_por_n` (log entry 113). -/
def Gnomon.restoreImage (g : Gnomon) (img : PImage) : Gnomon :=
  (imagePart (img.values.filter fun e => gnomonKey e.1)).foldl (fun a e => match Map.find? a.od e.1 with
    | some _ => a
    | none => { a with od := Map.insert a.od e.1 e.2 }) g

/-- DICT_RESTORE (R101). -/
def State.restoreImage (s : State) (img : PImage) : State :=
  { s with hw := s.hw.restoreImage img, gnm := s.gnm.restoreImage img }

/-- DICT_RESTORE's alternate: defaults, with the reason in P_RESTORE_RESULT; a rejected image is logged (R101). -/
def State.imageDefaults (s : State) (rejected : Bool) : State :=
  { s with hw := if rejected then (s.hw.set 0x1200 2 2).event 0 (101 * 16) 4 none none else s.hw.set 0x1200 2 1,
           gnm := { s.gnm with od := s.gnm.od.filter fun e => (imagePart [e]) == [] } }

/-- Gives a reserved counter its value at start (R100). -/
def Hw.resume (h : Hw) (k v : Nat) : Hw :=
  if k = odKey 0 1 0 then { h with arrival := v }
  else if k = odKey 0 2 0 then { h with acct := { h.acct with record := v } }
  else if k / 2 ^ 24 = 0x5205 then h.modFacet (k / 2 ^ 16 % 256 - 1) fun x => { x with step := v }
  else { h with od := Map.insert h.od k v }

/-- COUNTER_RESUME from the counter record (R100, R102). -/
def State.resumeRecord (s : State) (m : KeptRecord) : State :=
  { s with hw := highWaterKeys.foldl (fun a k => a.resume k (Map.getD m.values k 0)) s.hw }

/-- COUNTER_RESUME without the record: the image's copy + 2²⁰, or 0; COUNTERS_RESET reads true, and the loss is logged (R102). -/
def State.resumeImage (s : State) (restored : Bool) : State :=
  let v := fun (k : Nat) => match s.gnm.rs.image with
    | some i => if restored then Map.getD i.values k 0 + 2 ^ 20 else 0
    | none => 0
  let h1 := highWaterKeys.foldl (fun a k => a.resume k (v k)) s.hw
  { s with hw := (h1.set 0xA104 1 1).event 0 (102 * 16) 4 none none }

/-- UNIT_MASKS: the mask record with this start's findings; the loss of the record is logged (R102, R374). -/
def State.applyMasks (s : State) (r : StartReport) (useRecord : Bool) : State :=
  let lift := (s.gnm.get 0xA014 1).testBit 0
  let rec? : Map Nat := match s.gnm.rs.masks with
    | some m => if lift || !useRecord then [] else m.values
    | none => []
  let v := fun (idx found : Nat) => Map.getD rec? (odKey idx 1 0) 0 ||| found
  let h1 := ((((s.hw.set 0x2201 1 (v 0x2201 0)).set 0xA010 1 (v 0xA010 (r.lanesBad ||| r.sharesBad))).set 0xA011 1 (v 0xA011 r.banksBad)).set 0xA012 1
    (v 0xA012 r.pairsBad)).set 0xA013 1 (v 0xA013 0)
  let h2 := (setBits (h1.raw 0x2201 1)).foldl (fun a p => a.modPart p fun x => { x with state := .masked }) (h1.set 0x1000 8 r.partitions)
  { s with hw := if useRecord || lift then h2 else h2.event 0 (102 * 16 + 1) 4 none none }

/-- JOURNAL_APPLY: every sealed step is in its tables (R373). -/
def Hw.applyJournals (h : Hw) : Hw :=
  { h with journal := h.journal.map fun e => (e.1, { e.2 with applied := e.2.next, groups := [] }) }

/-- Tenants' reservations by the sequences of the table. -/
def Hw.tenantCounts (h : Hw) : Hw :=
  let h1 : Hw := { h with od := h.od.filter fun e => !(decide (odKey 0x3101 0xE 0 ≤ e.1) && decide (e.1 < odKey 0x3101 0xF 0)) }
  h1.seqs.foldl (fun a e => a.bumpAt 0x3101 0xE e.2.com.tenant e.2.com.reservedTok) h1

/-- LOCUS_RESTORE: the free list in ascending order, the tenants' counts, and an empty hot set. -/
def Hw.restoreLocus (h : Hw) : Hw :=
  let top := h.gens.foldl (fun n e => max n (e.1 + 1)) 0
  let free := (List.range top).filter fun s => (h.seq? s).isNone && decide (Map.getD h.gens s 0 < 0xFFFFFFF)
  ({ h with slotsFront := free, slotsFresh := top, slotsFreed := [] } : Hw).tenantCounts

/-- A cold Locus start (R378). -/
def Hw.coldLocus (h : Hw) : Hw :=
  let h1 : Hw := { h with seqs := [], gens := [], slotsFront := [], slotsFresh := 0, slotsFreed := [],
                          pages := Hw.reset.pages, journal := h.journal.map fun e => (e.1, { e.2 with groups := [] }) }
  (h1.tenantCounts.set 0x3006 1 0).set 0xA103 1 ((h1.raw 0xA103 1 + 1) % 2 ^ 32)

/-- One pool's lists by a scan of its page-info array (R151). -/
def Hw.scanPool (h : Hw) (k : Nat) : Hw :=
  let x := h.pool k
  let cached := (x.info.filter fun e => e.2.refs == 1 && e.2.key != 0 && h.indexed (k, e.1)).map Prod.fst
  let top := x.info.foldl (fun n e => max n (e.1 + 1)) 0
  h.modPool k fun y => { y with
    front := (List.range top).filter fun p => !(x.info.any fun e => e.1 == p), fresh := top, freed := [], cached := cached,
    info := y.info.map fun e => (e.1, { e.2 with listed := cached.contains e.1 }) }

/-- PAGE_RESTORE: lists by scan, and no index entry whose page bears another key; the blocks of the table region that no table holds are
free. -/
def Hw.restorePages (h : Hw) : Hw :=
  let h1 : Hw := { h with pages := { h.pages with index := h.pages.index.filter fun e => (h.pageInfo (e.pool, e.page)).key == e.key } }
  let h2 := (h1.pages.pools.map Prod.fst).foldl Hw.scanPool h1
  let used := h2.seqs.flatMap fun e => e.2.blocks
  let top := used.foldl (fun n b => max n (b + 1)) 0
  { h2 with pages := { h2.pages with blocksFresh := top, blocksFreed := (List.range top).filter fun b => !used.contains b } }

/-- PAGE_RESTORE's alternate: every page is free and the index is empty, so that every sequence's KV is gone. -/
def Hw.dropPages (h : Hw) : Hw :=
  let v := fun (x : Vertex) => { x with kvTokens := 0, state := if x.state = .prefill || x.state = .decode then .prefill else x.state }
  let h1 : Hw := { h with
    pages := { h.pages with pools := [], index := [], inserts := 0 },
    seqs := h.seqs.map fun e => (e.1, { e.2 with com := v e.2.com, cur := v e.2.com, pagesCom := [], pagesCur := [],
                                                 blocks := e.2.blocks.take 2 }) }
  h1.restorePages

/-- QUEUE_RESTORE: c is what the records show and nothing is latched (R55); each queue's counts are its header's, with C one ring behind (R139). A sequence whose
last entry is published is over. -/
def Hw.restoreQueues (h : Hw) : Hw :=
  let h1 : Hw := { h with
    queues := h.queues.map fun e => (e.1, { e.2 with w := e.2.m, k := e.2.m, c := sub32 e.2.m (h.queueSize e.1) }) }
  (h1.seqs.filter fun e => e.2.com.state == .ended).foldl (fun a e => a.freeSlot e.1) h1

/-- QUEUE_RESTORE's alternate: rings and queues are left disabled. -/
def Hw.disableQueues (h : Hw) : Hw :=
  { h with od := h.od.map fun e =>
      if (odKey 0x3011 6 0 ≤ e.1 ∧ e.1 < odKey 0x3011 7 0) ∨ (odKey 0x3021 6 0 ≤ e.1 ∧ e.1 < odKey 0x3021 7 0) then (e.1, 0) else e }

/-- A facet at FACET_RESTORE: STANDBY with partitions and a mode, its staged marks ready. -/
def Hw.restoreFacet (h : Hw) (f : Nat) : Hw :=
  let ok := h.facetParts f ≠ [] ∧ h.mode f < 4
  (h.set 0xD010 (f + 1) (h.workLevel f)).modFacet f fun x =>
    { x with state := if ok then .standby else .unassigned, setPending := true, setReady := true, idleSinceNs := some h.now }

/-- A version slot after a start: an attempt's update that was being written is gone, and a release that no request waits for any more
ends. -/
def slotAfterStart (st : Nat) : Nat := if st = 2 then 0 else if st = 5 then 4 else st

/-- FACET_RESTORE: facets, the default accept set (R113), the version slots, the background tasks, and the periods that run from here. -/
def Hw.restoreFacets (h : Hw) : Hw :=
  let h1 := (List.range 16).foldl Hw.restoreFacet h
  let lo := odKey 0x8012 1 0
  let hi := odKey 0x8012 3 0
  let h2 : Hw := { h1 with od := h1.od.map fun e => if lo ≤ e.1 ∧ e.1 < hi then (e.1, slotAfterStart e.2) else e }
  let h3 := (List.range 256).foldl (fun a m =>
    let v := max (a.slotVersion m 0) (a.slotVersion m 1)
    if v = 0 then a else a.modLearner m fun l => { l with topVersion := v }) h2
  let h4 := (List.range 6).foldl (fun a t =>
    a.modTask t fun _ => { Task.reset with state := if a.get 0xA050 (t + 1) = 1 then 1 else 0, sinceNs := a.now }) h3
  { h4 with budgetNs := h4.now, acct := { h4.acct with startNs := h4.now, due := false, periodMs := h4.get 0x9302 1 }, events := { h4.events with rateMs := h4.get 0xC010 1, rateNs := h4.now } }

/-- Lanes whose share of HLX fails its check at start step 3. -/
def badShares (r : StartReport) : List Nat := (List.range 16).filter fun n => r.sharesBad.testBit n

/-- The Helix self-checks of step 3: a pass counts, a mismatch is logged (R244). -/
def Hw.startChecks (h : Hw) (r : StartReport) : Hw :=
  (badShares r).foldl (fun a _ => a.eventUnit 7 (244 * 16) 4 6 none) (h.inc 0x7106 (16 - (badShares r).length))

/-- Steps 1 to 5 of a start. -/
def StartRun.first (x : StartRun) (r : StartReport) : StartRun :=
  let found := fun (n std : Nat) => if n = 0 then std else 3
  let bad := r.pairsBad + r.lanesBad + r.sharesBad
  let checks := fun (y : StartRun) => y.modHw fun h => h.startChecks r
  let x1 := x.step r 1 2 4 0 some id
  let x2 := x1.step r 2 (found r.banksBad 2) (found r.banksBad 4) 0 some id
  let x3 := x2.step r 3 (found bad 2) (found bad 4) 0 (fun y => some (checks y)) checks
  let x4 := x3.step r 4 2 4 0 some fun y => { y with noHistory := true }
  x4.step r 5 2 4 0 (fun y => some { y with s := y.s.eventRecover false }) fun y => { y with s := y.s.eventRecover true }

/-- Whether the mask record may be used (R102). -/
def StartRun.masksOk (x : StartRun) (r : StartReport) : Bool :=
  !x.noHistory && r.maskRecordOk && match x.s.gnm.rs.masks with | some m => m.ok | none => false

/-- Steps 6 to 9 of a start. A counter that has resumed stands at its reservation, so that the counter record is written again at once
(R100). The check failures of step 3 are counted when 0x7105 has been restored. -/
def StartRun.second (x : StartRun) (r : StartReport) : StartRun :=
  let img := x.s.gnm.rs.image
  let imgOk := r.imageCrcOk && r.imageLayoutOk && match img with | some i => i.ok | none => false
  let asked := !x.startsAlternate 6 && !r.standardFails.contains 6
  let x6 := x.step r 6 2 4 0
    (fun y => match img with
      | some i => if imgOk then some { y with s := y.s.restoreImage i, restored := true } else none
      | none => none)
    fun y => { y with s := y.s.imageDefaults (asked && img.isSome) }
  let x6 := if x6.failed ≠ 0 then x6 else { x6 with s := { x6.s with gnm := { x6.s.gnm with watchdogMs := x6.s.hw.get 0xA102 1 },
                                                                             hw := x6.s.hw.inc 0x7105 (badShares r).length } }
  let x7 := x6.step r 7 2 4 0
    (fun y => match y.s.gnm.rs.counters with
      | some m => if r.counterRecordOk && m.ok && !y.noHistory then some { y with s := y.s.resumeRecord m } else none
      | none => none)
    fun y => { y with s := y.s.resumeImage y.restored }
  let x7 := if x7.failed ≠ 0 then x7
    else
      let y := x7.modHw fun h => h.set 0xA101 1 ((h.raw 0xA101 1 + 1) % 2 ^ 64)
      { y with s := y.s.saveCounters }
  let x8 := x7.step r 8 2 4 0 (fun y => if r.timeImported then some y else none) fun y =>
    { y with s := { y.s with gnm := { y.s.gnm with synced := false, inc := nominalInc } } }
  x8.step r 9 2 4 0 (fun y => some { y with s := y.s.applyMasks r (y.masksOk r) }) id

/-- Steps 10 to 15 of a start. -/
def StartRun.third (x : StartRun) (r : StartReport) : StartRun :=
  let x10 := x.step r 10 2 5 0 (fun y => some (y.modHw Hw.applyJournals)) fun y => { y with cold := true }
  let x11 :=
    let asked := x10.cold || (x10.s.gnm.get 0xA014 1).testBit 2
    x10.step r 11 2 4 (if !asked && !r.sealsOk then 1 else 0)
      (fun y => if asked || !r.sealsOk then none else some (y.modHw Hw.restoreLocus)) fun y => y.modHw Hw.coldLocus
  let x12 := x11.step r 12 2 4 0 (fun y => some (y.modHw Hw.restorePages)) fun y => y.modHw Hw.dropPages
  let x13 := x12.step r 13 2 4 0 (fun y => some (y.modHw Hw.restoreQueues)) fun y => y.modHw Hw.disableQueues
  let x14 := x13.step r 14 2 5 0
    (fun y => if y.s.hw.raw 0xA061 1 = 0 then some y else if r.firmwareOk then some (y.modHw Hw.startPairs) else none) id
  x14.step r 15 2 4 0 (fun y => some (y.modHw fun h => h.restoreFacets.drivePoint)) id

/-- The ledger of the start (Table 15.7). -/
def StartRun.ledger (x : StartRun) (stamp cause : Nat) : StartLedger :=
  { number := x.s.hw.raw 0xA101 1, stamp := stamp, cause := cause, result := if x.failed = 0 then 0 else 1, failed := x.failed,
    steps := x.log }

/-- LEDGER_SEAL: the copy is written and the engine enters CONFIG; the alternate enters it without the copy, S3. -/
def StartRun.last (x : StartRun) (r : StartReport) (stamp cause : Nat) : State :=
  let old := x.s.gnm.ledgers
  let x16 := x.step r 16 2 4 0 some fun y => y.modHw fun h => h.event 0 (377 * 16) 3 none none
  let s := x16.s
  let led := x16.ledger stamp cause :: (if old = [] && !x16.noHistory then s.gnm.rs.ledgers else old).take 1
  let g := { s.gnm with ledgers := led }
  let g1 := { g.set 0xA014 1 0 with watchdogRun := 0 }
  if x16.failed ≠ 0 then { s with gnm := g1, hw := s.hw.faultHold none }
  else
    let copied := (x16.log[15]?.map fun e => e.way) = some 0
    if copied then
      { s with gnm := { g1.saveCounts with rs := { g1.saveCounts.rs with ledgers := led, holdup := g1.get 0xD043 1 } }, hw := (s.hw.retentionWrite 1 320).enter .config }
    else { s with gnm := g1, hw := s.hw.enter .config }

/-- The start sequence (Table 15.6). -/
def State.start (s : State) (r : StartReport) (cause : Nat) : State :=
  let t := s.gnm.time
  let h : Hw := { s.hw with clk := { s.hw.clk with g := t, n := 0, prev := t, us := t / 1000, inc := s.gnm.inc } }
  let x : StartRun := { s := { s with hw := h }, log := [], failed := 0, noHistory := false, restored := false, cold := false }
  (((x.first r).second r).third r).last r t cause

/-- AON_RST_RELEASE: the engine enters START and runs the start sequence; `aon_wake` and `aon_iso` fall (R24, R414). -/
def State.rstRelease (s : State) (r : StartReport) : State :=
  if s.hw.eng.state = .off then { s with hw := { s.hw with pins := { s.hw.pins with rstLow := false } } }
  else if s.hw.pins.rstLow ∨ s.hw.eng.state = .start then
    let cause := if s.hw.eng.state = .retain then 2 else s.gnm.cause
    let h : Hw := { s.hw with eng := { s.hw.eng with state := .start }, pins := { s.hw.pins with rstLow := false } }
    ({ s with gnm := { s.gnm with wake := false, iso := false, startTicks := 0 }, hw := h } : State).onAll 0 fun s1 => s1.start r cause
  else s

/-- AON_RST_RELEASE. -/
def execAonRstRelease (report : StartReport) (s : State) : Host.Outcome State Fault Refusal := .next (s.rstRelease report)

/-- The ledger of a start that its watchdog ended: one step is STARTED, and those before it are complete. Which step, and how the others
ended, the manual leaves to the start. -/
def State.interrupted (s : State) : StartLedger :=
  let n := s.gnm.watchdogRun
  let k := Config.freeNat 379 n % 16
  let entry := fun (i : Nat) =>
    if i < k then { outcome := 2 + Config.freeNat 379 (16 * n + i) % 4, way := Config.freeNat 380 (16 * n + i) % 2, detail := 0 }
    else if i = k then { outcome := 1, way := Config.freeNat 380 (16 * n + i) % 2, detail := 0 }
    else ({ outcome := 0, way := 0, detail := 0 } : StepLog)
  { number := Config.freeNat 381 n, stamp := s.gnm.time, cause := s.gnm.cause, result := 2, failed := k + 1,
    steps := (List.range 16).map entry }

/-- START_WATCHDOG_EXPIRY in START (R379): the core and policy domains are reset and the next start finds the ledger; the fourth expiry in a
row is a FAULT_HOLD. -/
def State.watchdogExpiry (s : State) : State :=
  if s.hw.eng.state ≠ .start ∨ s.hw.pins.rstLow ∨ s.gnm.startTicks * 1000 < s.gnm.watchdogMs * 32768 then s
  else if 3 ≤ s.gnm.watchdogRun then s.onAll 0 fun s1 => { s1 with hw := s1.hw.faultHold none }
  else
    let g := { s.gnm with ledgers := s.interrupted :: s.gnm.ledgers.take 1, cause := 3, watchdogRun := s.gnm.watchdogRun + 1, startTicks := 0 }
    { s.resetCore .start false with gnm := g }

/-- START_WATCHDOG_EXPIRY. -/
def execStartWatchdogExpiry (s : State) : Host.Outcome State Fault Refusal := .next s.watchdogExpiry

end Sys2Proof.Machine
end

