-- ==== Sys2Proof/Machine/Side.lean ====
section
/-! DEFINITION. The management sideband, MCTP on an I3C target, and the test port's TAP (R106, R107, R419). -/

namespace Sys2Proof.Machine

open Sys2Proof

/-! ## The I3C target -/

/-- Changes the sideband's state. -/
def Hw.modSide (h : Hw) (f : Side → Side) : Hw := { h with side := f h.side }

/-- Signals a pending message where in-band interrupts are enabled and the target has a dynamic address (R106). -/
def Hw.signal (h : Hw) : Hw :=
  if h.side.ibiOn && h.side.address != 0 && h.side.responses != [] then h.emit (.ibi Config.pendingReadByte) else h

/-- ENTDAA: a target without a dynamic address takes the one assigned. -/
def execEntdaa (address : BitVec 7) (s : State) : Host.Outcome State Fault Refusal :=
  .next (s.onCore 0 fun h => if h.side.address = 0 then (h.modSide fun x => { x with address := address.toNat }).signal else h)

/-- RSTDAA: the dynamic address is given up. -/
def execRstdaa (s : State) : Host.Outcome State Fault Refusal :=
  .next (s.onCore 0 fun h => h.modSide fun x => { x with address := 0 })

/-- ENEC: bit 0 enables in-band interrupts; a message that waited unsignalled is signalled. -/
def execEnec (events : BitVec 8) (s : State) : Host.Outcome State Fault Refusal :=
  .next (s.onCore 0 fun h => if !h.side.ibiOn && events.getLsbD 0 then (h.modSide fun x => { x with ibiOn := true }).signal else h)

/-- DISEC: bit 0 disables in-band interrupts. -/
def execDisec (events : BitVec 8) (s : State) : Host.Outcome State Fault Refusal :=
  .next (s.onCore 0 fun h => h.modSide fun x => { x with ibiOn := x.ibiOn && !events.getLsbD 0 })

/-- GETPID: the provisioned ID, whose bytes the manual does not state. -/
def execGetpid (s : State) : Host.Outcome State Fault Refusal := .next (s.onCore 0 fun h => h.emit (.i3c (Config.i3cAnswer 0)))

/-- GETBCR. -/
def execGetbcr (s : State) : Host.Outcome State Fault Refusal := .next (s.onCore 0 fun h => h.emit (.i3c (Config.i3cAnswer 1)))

/-- GETDCR. -/
def execGetdcr (s : State) : Host.Outcome State Fault Refusal := .next (s.onCore 0 fun h => h.emit (.i3c (Config.i3cAnswer 2)))

/-- GETSTATUS. -/
def execGetstatus (s : State) : Host.Outcome State Fault Refusal := .next (s.onCore 0 fun h => h.emit (.i3c (Config.i3cAnswer 3)))

/-- A 16-bit length as an I3C answer, most significant byte first. -/
def i3cLength (n : Nat) : List Byte := (leBytes 2 n).reverse

/-- GETMRL: the maximum read length. -/
def execGetmrl (s : State) : Host.Outcome State Fault Refusal := .next (s.onCore 0 fun h => h.emit (.i3c (i3cLength h.side.mrl)))

/-- GETMWL: the maximum write length. -/
def execGetmwl (s : State) : Host.Outcome State Fault Refusal := .next (s.onCore 0 fun h => h.emit (.i3c (i3cLength h.side.mwl)))

/-- SETMRL. -/
def execSetmrl (length : BitVec 16) (s : State) : Host.Outcome State Fault Refusal :=
  .next (s.onCore 0 fun h => h.modSide fun x => { x with mrl := length.toNat })

/-- SETMWL. -/
def execSetmwl (length : BitVec 16) (s : State) : Host.Outcome State Fault Refusal :=
  .next (s.onCore 0 fun h => h.modSide fun x => { x with mwl := length.toNat })

/-- RSTACT: the reset action is kept for a target reset pattern. -/
def execRstact (action : BitVec 8) (s : State) : Host.Outcome State Fault Refusal :=
  .next (s.onCore 0 fun h => h.modSide fun x => { x with rstAct := action.toNat })

/-! ## MCTP -/

/-- Bytes of a message before its DDP content: the type byte and the enterprise number (R106). -/
def ddpPrefix : List Byte := (0x7F : Byte) :: (leBytes 4 Config.mgtPen.toNat).reverse

/-- A complete message (R106, R107): a vendor-defined one with the block's enterprise number is a DDP request, of which four at most wait;
one with another number is dropped and counted, and a message of another type is not for DDP. -/
def Hw.message (h : Hw) (source tag : Nat) (l : List Byte) : Hw :=
  if l.head? ≠ some 0x7F then h
  else if l.take 5 ≠ ddpPrefix then h.inc 0x2401 4
  else if 4 ≤ h.side.requests.length then h.inc 0x2401 3
  else h.modSide fun x => { x with requests := x.requests ++ [(h.cc, tag + 8 * source, l.drop 5)] }

/-- One packet (R106, R107): a target without a dynamic address takes none; a packet whose PEC fails is dropped, and so is one that answers a
request, TO clear, since the engine makes none (DEDUCED, log entry 123). A first packet opens a message, a later one joins it in sequence,
and the last completes it. A message of more than 1,024 bytes of content, and a packet out of sequence, are dropped. One message is under
reassembly at a time: a first packet drops the one before, and a packet out of sequence leaves it (DESIGN CHOICE, log entry 123). -/
def Hw.packetIn (h : Hw) (p : MctpPacket) : Hw :=
  if h.side.address = 0 then h
  else if !p.pecOk then h.inc 0x2401 2
  else if !p.tagOwner then h
  else
    let so := if p.som then some []
      else match h.side.assembling with
        | some (src, tag, seq, l) => if src = p.source ∧ tag = p.tag ∧ seq = p.seq % 4 then some l else none
        | none => none
    match so with
    | none => h
    | some l =>
      let l1 := l ++ p.payload
      let h1 := h.modSide fun x => { x with assembling := none }
      if 5 + 1024 < l1.length then h1
      else if p.eom then h1.message p.source p.tag l1
      else h1.modSide fun x => { x with assembling := some (p.source, p.tag, (p.seq + 1) % 4, l1) }

/-- MCTP_PACKET. -/
def execMctpPacket (packet : MctpPacket) (s : State) : Host.Outcome State Fault Refusal :=
  .next (s.onCore 0 fun h => h.packetIn packet)

/-- The packets of a message, 64 bytes of payload each, from number `n` on; `fuel` packets at most. -/
def packetsOf (source tag : Nat) : Nat → Nat → List Byte → List MctpPacket
  | 0, _, _ => []
  | fuel + 1, n, l =>
    { pecOk := true, som := n == 0, eom := decide (l.length ≤ 64), seq := n % 4, tag := tag, tagOwner := false, source := source, payload := l.take 64 } ::
      if l.length ≤ 64 then [] else packetsOf source tag fuel (n + 1) (l.drop 64)

/-- Sends a DDP response with its request's tag and TO clear: its packets wait to be read, and an in-band interrupt announces them (R106,
R107). -/
def Hw.ddpAnswer (h : Hw) (who : Nat) (l : List Byte) : Hw :=
  ((h.modSide fun x => { x with responses := x.responses ++ packetsOf (who / 8) (who % 8) 17 0 (ddpPrefix ++ l) }).emit (.ddp l)).signal

/-- The controller reads the next packet that waits, of a target with a dynamic address. -/
def Hw.privateRead (h : Hw) : Hw :=
  match h.side.responses with
  | p :: rest => if h.side.address = 0 then h else (h.modSide fun x => { x with responses := rest }).emit (.packet p)
  | [] => h

/-- I3C_PRIVATE_READ. -/
def execI3cPrivateRead (s : State) : Host.Outcome State Fault Refusal := .next (s.onCore 0 Hw.privateRead)

/-! ## The TAP -/

/-- What a data register captures: 0 in BYPASS, the identification code, and otherwise test content that the manual does not hold. -/
def tapCapture : TapOp → BitVec 32
  | .bypass => 0
  | .idcode => Config.idcode
  | .wrapper => Config.tapCapture 0
  | .memoryBist => Config.tapCapture 1

/-- TAP_INSTRUCTION: the instruction is current, and its data register is captured (R419). -/
def execTapInstruction (op : TapOp) (s : State) : Host.Outcome State Fault Refusal :=
  .next { s with gnm := { s.gnm with tapIr := op }, hw := { s.hw with out := [.tap (tapCapture op)] } }

end Sys2Proof.Machine
end

