-- ==== Sys2Proof/Machine/Owners.lean ====
section
/-! DEFINITION. What a dictionary write to each entry checks and does beyond the entry's range: the rules of the owning chapters, in the
order of R422. -/

namespace Sys2Proof.Machine

open Sys2Proof

/-! ## Rules that several entries share -/

/-- Refuses with a status where a condition holds, and otherwise goes on. -/
def Hw.unless (h : Hw) (bad : Bool) (st : Status) (go : Status × Hw) : Status × Hw := if bad then (st, h) else go

/-- Stores a value that a rule allows. -/
def Hw.store (h : Hw) (idx sub obj v : Nat) (ok : Bool) : Status × Hw := h.unless (!ok) .range (.ok, h.setAt idx sub obj v)

/-- Stores a value of an entry that is fixed while something holds it: RANGE first, then BUSY. -/
def Hw.storeFree (h : Hw) (idx sub obj v : Nat) (ok busy : Bool) : Status × Hw :=
  h.unless (!ok) .range (h.unless busy .busy (.ok, h.setAt idx sub obj v))

/-- Models whose DRAFT_MODEL or FALLBACK_MODEL pairing involves a model: the model itself and those that name it. -/
def Hw.pairsOf (h : Hw) (idx m : Nat) : List Nat :=
  (List.range 256).filter fun t => h.getAt idx 1 t ≠ 0xFF ∧ (t = m ∨ h.getAt idx 1 t = m)

/-- Whether a model's pools have room for its KV and its draft's (R280). -/
def Hw.draftFits (h : Hw) (t d : Nat) : Bool :=
  let need := h.getAt 0x4101 1 t * (h.getAt 0x4101 2 t + h.getAt 0x4101 2 d)
  (setBits (h.getAt 0x4101 3 t ||| h.getAt 0x4101 4 t)).all fun k => decide (need ≤ h.poolBytes k)

/-- Whether a target and its draft match (R280). -/
def Hw.draftOk (h : Hw) (t : Nat) : Bool :=
  let d := h.getAt 0x7200 1 t
  h.getAt 0x7001 1 t == h.getAt 0x7001 1 d && h.getAt 0x4101 1 t == h.getAt 0x4101 1 d && h.draftFits t d

/-- Whether a model and its fallback match (R306). -/
def Hw.fallbackOk (h : Hw) (m : Nat) : Bool :=
  let b := h.getAt 0x9020 1 m
  ([0x7001, 0x7002, 0x7003].all fun i => h.getAt i 1 m == h.getAt i 1 b) && h.getAt 0x9020 1 b == 0xFF

/-- Whether every draft pairing that involves a model holds. -/
def Hw.draftsHold (h : Hw) (m : Nat) : Bool := (h.pairsOf 0x7200 m).all h.draftOk

/-- Whether every fallback pairing that involves a model holds. -/
def Hw.fallbacksHold (h : Hw) (m : Nat) : Bool := (h.pairsOf 0x9020 m).all h.fallbackOk

/-- Facets bound to enabled queues, with the queues' tenants. -/
def Hw.boundQueues (h : Hw) : List (Nat × Nat) :=
  (h.od.filter fun e => decide (odKey 0x3021 6 0 ≤ e.1) && decide (e.1 < odKey 0x3021 7 0) && e.2 == 1).map fun e =>
    (h.queueFacet (e.1 % 65536), h.getAt 0x3021 3 (e.1 % 65536))

/-- A free-running consumed count: a write may not move it past the written count, or backwards (R318, R347, R399). -/
def Hw.consumed (h : Hw) (written idx obj v : Nat) : Status × Hw :=
  h.store idx 1 obj v (decide (sub32 v (h.getAt idx 1 obj) ≤ sub32 (h.getAt written 1 obj) (h.getAt idx 1 obj)))

/-! ## Identity, ports, admission -/

/-- TENANT_CLASSES (R131, R299): the reserved bits act as 0. -/
def Hw.writeClasses (h : Hw) (t v : Nat) : Status × Hw :=
  let new := v % 8
  let old := h.getAt 0x3101 2 t
  let lacks := h.boundQueues.any fun e =>
    e.2 == t && (List.range 3).any fun c => new.testBit c && !old.testBit c && !(h.get 0x9000 (e.1 + 1)).testBit c
  h.unless lacks .busy
    (h.unless (new.testBit 2 && !old.testBit 2 && decide (64 ≤ h.dlTenants.length)) .full (.ok, h.setAt 0x3101 2 t new))

/-- FACET_CLASSES (R299). -/
def Hw.writeFacetClasses (h : Hw) (f v : Nat) : Status × Hw :=
  let old := h.get 0x9000 (f + 1)
  let held := h.boundQueues.any fun e =>
    e.1 == f && (List.range 3).any fun c => old.testBit c && !v.testBit c && (h.getAt 0x3101 2 e.2).testBit c
  h.unless held .busy (.ok, h.set 0x9000 (f + 1) v)

/-- Chapters 0x1000 to 0x3FFF. -/
def Hw.ownLow (h : Hw) (idx sub obj v : Nat) : Status × Hw :=
  match idx with
  | 0x1011 => h.writeAccept sub v
  | 0x1101 => h.stateRequest v
  | 0x2100 => h.store idx sub 0 v (v % 4096 == 0 && decide (v < 2 ^ 56))
  | 0x2110 => (.ok, h.set idx sub (v &&& 0xFFFF007F))
  | 0x2111 => h.store idx sub 0 v (sub != 9 || (decide (1 ≤ v) && decide (v ≤ 32)))
  | 0x2120 => (.ok, h.set idx sub (v &&& 0xFFFF0070))
  | 0x3000 => h.store idx sub 0 v (v % 4096 == 0)
  | 0x3011 => if sub = 6 then h.ringEnable obj (v == 1) else h.storeFree idx sub obj v true (h.getAt 0x3011 6 obj == 1)
  | 0x3021 => if sub = 6 then h.queueEnable obj (v == 1) else h.storeFree idx sub obj v true (sub != 5 && h.queueOn obj)
  | 0x3101 => if sub = 2 then h.writeClasses obj v else (.ok, h.setAt idx sub obj v)
  | 0x3302 => h.cancelWrite v
  | 0x3303 => h.migrateWrite v
  | _ => (.ok, h.setAt idx sub obj v)

/-! ## Pages and facets -/

/-- Models whose masks name a pool. -/
def Hw.poolModels (h : Hw) (k : Nat) : List Nat :=
  (List.range 256).filter fun m => (h.getAt 0x4101 3 m ||| h.getAt 0x4101 4 m).testBit k

/-- A write of a pool field (R150, R153, R154). -/
def Hw.writePool (h : Hw) (sub k v : Nat) : Status × Hw :=
  let h1 := h.setAt 0x4001 sub k v
  match sub with
  | 8 => h.poolEnable k (v == 1)
  | 0xA => h.store 0x4001 sub k v (decide (v < h.getAt 0x4001 0xB k))
  | 0xB => h.store 0x4001 sub k v (decide (h.getAt 0x4001 0xA k < v))
  | 0xF => (.ok, h1)
  | _ =>
    h.unless (sub == 2 && v % 4096 != 0) .range
      (h.unless (h.poolOn k) .busy
        (h.unless ((sub == 2 || sub == 4) && !(h.poolModels k).all h1.modelPoolsOk) .range (.ok, h1)))

/-- A write of a model's paging field (R154, R280). -/
def Hw.writePaging (h : Hw) (sub m v : Nat) : Status × Hw :=
  let h1 := h.setAt 0x4101 sub m v
  match sub with
  | 1 =>
    h.unless (h.getAt 0x8000 1 m == 1) .busy
      (h.unless (!([16, 32, 64].contains v) || !h1.modelPoolsOk m || !h1.draftsHold m) .range (.ok, h1))
  | 2 => h.unless (!h1.modelPoolsOk m || !h1.draftsHold m) .range (.ok, h1)
  | 3 => h.unless (!h1.modelPoolsOk m) .range (.ok, h1)
  | 4 => h.unless (!h1.modelPoolsOk m) .range (.ok, h1)
  | 6 => h.unless (decide (v < h.getAt 0x4101 7 m)) .range (.ok, h1)
  | 7 => h.unless (decide (h.getAt 0x4101 6 m < v)) .range (.ok, h1)
  | _ => (.ok, h1)

/-- FACET_DESCRIPTORS (R205). -/
def Hw.writeFacetDescs (h : Hw) (f v : Nat) : Status × Hw :=
  let h1 := h.set 0x5005 (f + 1) v
  h.unless (!h1.descSumOk h1.withParts) .range (.ok, h1)

/-- Chapters 0x4000 to 0x6FFF. A delay list whose timebase is written in CONFIG keeps its entries, with their keys: the manual does not say
what becomes of them (R43; log entry 131, DESIGN CHOICE). -/
def Hw.ownPages (h : Hw) (idx sub obj v : Nat) : Status × Hw :=
  match idx with
  | 0x4001 => h.writePool sub obj v
  | 0x4020 => h.store idx sub 0 v (v % 4096 == 0)
  | 0x4021 => h.store idx sub 0 v (isPow2 v)
  | 0x4101 => h.writePaging sub obj v
  | 0x5000 => h.writeParts (sub - 1) v
  | 0x5001 => h.writeMode (sub - 1) v
  | 0x5003 => h.facetRequest (sub - 1) v
  | 0x5005 => h.writeFacetDescs (sub - 1) v
  | 0x5020 => h.store idx sub 0 v (v % 4096 == 0)
  | 0x5021 => h.store idx sub 0 v (v % 8192 == 0)
  | 0x5031 => h.pinnedEnable (sub - 1) v
  | 0x5100 => h.writeModeParam 0 sub v
  | 0x5101 => h.writeModeParam 1 sub v
  | 0x5102 => h.writeModeParam 2 sub v
  | 0x5103 => h.writeModeParam 3 sub v
  | 0x5200 => h.writeMark 0 (sub - 1) v
  | 0x5201 => h.writeMark 1 (sub - 1) v
  | 0x5202 => h.writeMark 2 (sub - 1) v
  | 0x5203 => h.writeMark 3 (sub - 1) v
  | 0x5204 => h.writeMark 4 (sub - 1) v
  | 0x6300 => h.store idx sub 0 v (v == 0 || decide (16 ≤ v))
  | 0x6400 => h.storeFree idx sub 0 v (v % 64 == 0) (h.job (sub - 1) false).state.held
  | 0x6401 => h.jobRequest (sub - 1) v
  | _ => (.ok, h.setAt idx sub obj v)

/-! ## Models, learner, federation -/

/-- LEARN_RESET (R330): BUSY while a job names the model. -/
def Hw.writeLearnReset (h : Hw) (m v : Nat) : Status × Hw :=
  h.unless (h.jobNames m) .busy (.ok, if v = 1 then h.learnReset m else h)

/-- MODEL_REGISTERED (R330); a model that a registered pairing names as its fallback stays registered (R306). -/
def Hw.writeRegistered (h : Hw) (m v : Nat) : Status × Hw :=
  if v = 0 ∧ h.getAt 0x8000 1 m = 1 ∧ h.getAt 0x8001 1 m = 0 ∧ (h.pairsOf 0x9020 m).any (fun t => h.getAt 0x9020 1 t == m) then (.range, h)
  else h.registerModel m v

/-- SCALE_EXP_INIT, _MIN and _MAX: MIN ≤ INIT ≤ MAX. -/
def Hw.writeScale (h : Hw) (idx m v : Nat) : Status × Hw :=
  let h1 := h.setAt idx 1 m v
  h.unless (!(decide (h1.getAt 0x8022 1 m ≤ h1.getAt 0x8021 1 m) && decide (h1.getAt 0x8021 1 m ≤ h1.getAt 0x8023 1 m))) .range (.ok, h1)

/-- DRAFT_MODEL (R280). -/
def Hw.writeDraft (h : Hw) (m v : Nat) : Status × Hw :=
  let h1 := h.setAt 0x7200 1 m v
  h.unless (v != 0xFF && (v == m || h.getAt 0x8000 1 v != 1 || !h1.draftOk m)) .range (.ok, h1)

/-- FALLBACK_MODEL (R306). -/
def Hw.writeFallback (h : Hw) (m v : Nat) : Status × Hw :=
  let h1 := h.setAt 0x9020 1 m v
  h.unless (v != 0xFF && (v == m || h.getAt 0x8000 1 v != 1 || !h1.fallbacksHold m)) .range (.ok, h1)

/-- END_TOKEN (Table 11.9, R306). -/
def Hw.writeEndToken (h : Hw) (m v : Nat) : Status × Hw :=
  let h1 := h.setAt 0x7003 1 m v
  h.unless (!(v == 0xFFFFFFFF || decide (v < h.getAt 0x7001 1 m)) || !h1.fallbacksHold m) .range (.ok, h1)

/-- VOCAB_SIZE (R276, R280, R306). -/
def Hw.writeVocab (h : Hw) (m v : Nat) : Status × Hw :=
  let h1 := h.setAt 0x7001 1 m v
  let e := h.getAt 0x7003 1 m
  h.unless ((e != 0xFFFFFFFF && decide (v ≤ e)) || !h1.draftsHold m || !h1.fallbacksHold m) .range (.ok, h1)

/-- A write of an experience ring's field (R340). -/
def Hw.writeExpRing (h : Hw) (sub r v : Nat) : Status × Hw :=
  if sub = 5 then (.ok, h.setAt 0x8201 5 r v)
  else
    h.storeFree 0x8201 sub r v (if sub = 1 then v % 4096 == 0 else if sub = 2 then isPow2 v else true) (h.getAt 0x8201 5 r == 1)

/-- An I8 value. -/
def i8 (v : Nat) : Int := if v % 256 < 128 then (v % 256 : Nat) else (v % 256 : Nat) - (256 : Int)

/-- Chapters 0x7000 and 0x8000. -/
def Hw.ownModels (h : Hw) (idx sub obj v : Nat) : Status × Hw :=
  let h1 := h.setAt idx sub obj v
  match idx with
  | 0x7001 => h.writeVocab obj v
  | 0x7002 => h.unless (!h1.fallbacksHold obj) .range (.ok, h1)
  | 0x7003 => h.writeEndToken obj v
  | 0x7200 => h.writeDraft obj v
  | 0x8000 => h.writeRegistered obj v
  | 0x8001 => h.activateModel obj v
  | 0x8006 => h.storeFree idx sub obj v true (h.jobNames obj)
  | 0x8009 => h.storeFree idx sub obj v true (h.jobNames obj)
  | 0x8032 => h.storeFree idx sub obj v true (h.jobNames obj)
  | 0x8010 => h.versionCtrl obj v
  | 0x8021 => h.writeScale idx obj v
  | 0x8022 => h.writeScale idx obj v
  | 0x8023 => h.writeScale idx obj v
  | 0x8027 => h.store idx sub obj v (decide (i8 v < i8 (v / 256)))
  | 0x8028 => h.store idx sub obj v (decide (v < 0x7F800000) || v == 0x80000000)
  | 0x802D => h.writeLearnReset obj v
  | 0x8040 => h.store idx sub obj v (v % 4096 == 0)
  | 0x8041 => h.store idx sub obj v (isPow2 v)
  | 0x8043 => h.consumed 0x8042 0x8043 obj v
  | 0x8100 => h.store idx sub 0 v (v % 4096 == 0)
  | 0x8101 => h.storeFree idx sub 0 v true (h.job (sub - 1) false).state.held
  | 0x8201 => h.writeExpRing sub obj v
  | 0x8300 => h.store idx sub 0 v (!h.fedChildren.contains v)
  | 0x8301 => h.store idx sub 0 v (!h.fedChildren.contains v)
  | 0x8303 => h.store idx sub 0 v (v % 4096 == 0)
  | 0x8304 => h.store idx sub 0 v (isPow2 v)
  | 0x8305 => h.store idx sub 0 v (v % 4096 == 0)
  | 0x8306 => h.store idx sub 0 v (isPow2 v)
  | 0x8309 => h.fedResolve obj v
  | _ => (.ok, h1)

/-! ## Deadlines, resilience, observability, power -/

/-- Whether a facet's context images fit the stride (R309). -/
def Hw.imagesFit (h : Hw) (f : Nat) : Bool :=
  [0x9102, 0x9103, 0x9104].all fun i => decide (h.get i (f + 1) ≤ h.get 0x9101 (f + 1) / 4096)

/-- A write of a context stride or image size (R309). -/
def Hw.writeImages (h : Hw) (idx f v : Nat) : Status × Hw :=
  let h1 := h.set idx (f + 1) v
  h.unless ((idx == 0x9101 && v % 4096 != 0) || !h1.imagesFit f) .range (.ok, h1)

/-- Chapters 0x9000 to 0xDFFF, save what the Gnomon island holds. -/
def Hw.ownHigh (h : Hw) (idx sub obj v : Nat) : Status × Hw :=
  match idx with
  | 0x9000 => h.writeFacetClasses (sub - 1) v
  | 0x9020 => h.writeFallback obj v
  | 0x9100 => h.store idx sub 0 v (v % 4096 == 0)
  | 0x9101 => h.writeImages idx (sub - 1) v
  | 0x9102 => h.writeImages idx (sub - 1) v
  | 0x9103 => h.writeImages idx (sub - 1) v
  | 0x9104 => h.writeImages idx (sub - 1) v
  | 0x9200 => h.storeFree idx sub 0 v true (h.job (sub - 1) true).state.held
  | 0x9201 => h.urgentRequest (sub - 1) v
  | 0x9202 => h.storeFree idx sub 0 v true (h.job (sub - 1) true).state.held
  | 0x9210 => h.storeFree idx sub 0 v true (h.job (sub - 1) false).state.held
  | 0x9211 => h.storeFree idx sub 0 v true (h.job (sub - 1) true).state.held
  | 0x9300 => h.store idx sub 0 v (v % 4096 == 0)
  | 0x9301 => h.store idx sub 0 v (isPow2 v)
  | 0x9304 => h.consumed 0x9303 0x9304 0 v
  | 0xA005 => h.facetResume (sub - 1) v
  | 0xA030 => h.store idx sub 0 v (v % 4096 == 0)
  | 0xA050 => (.ok, h.bgEnable (sub - 1) v)
  | 0xA060 => h.store idx sub 0 v (v % 64 == 0)
  | 0xA063 => h.fwLoad v
  | 0xB002 => (.ok, h.countsClear v)
  | 0xB010 => h.store idx sub 0 v (v != 0xF)
  | 0xB020 => (.ok, h.binFilter sub (v % 2 ^ 49))
  | 0xB030 => h.store idx sub 0 v (v % 4096 == 0)
  | 0xB031 => h.store idx sub 0 v (v % 4096 == 0)
  | 0xB033 => (.ok, (h.set idx sub (v &&& 0xFE)).lastOfCc)
  | 0xB034 | 0xC000 | 0xC001 | 0xC020 => (.ok, (h.set idx sub v).lastOfCc)
  | 0xB039 => (.ok, h.traceUnfreeze v)
  | 0xB040 => h.store idx sub 0 (v % 256) (decide (v % 8 ≤ 4))
  | 0xB042 => (.ok, h.triggerFire v)
  | 0xC005 => h.store idx sub 0 v (v % 4096 == 0)
  | 0xC006 => h.store idx sub 0 v (isPow2 v)
  | 0xC008 => h.consumed 0xC007 0xC008 0 v
  | 0xD000 => (.ok, (h.set idx sub v).drivePoint)
  | 0xD011 => (.ok, h.levelDefault (sub - 1) v)
  | 0xD014 => h.store idx sub 0 v (decide (v ≤ 3600000) || v == 0xFFFFFFFF)
  | _ => (.ok, h.setAt idx sub obj v)

/-! ## Any scalar, and DOMAIN values -/

/-- P_DEFAULTS: CONFIG only (R101). -/
def State.writeDefaults (s : State) (v : Nat) : Status × State :=
  if s.hw.eng.state ≠ .config then (.state, s) else (.ok, if v = 1 then s.pDefaults else s)

/-- Whether the Gnomon island holds a written value, and the bits of it that are not reserved. -/
def gnomonMask (idx : Nat) : Option Nat :=
  match idx with
  | 0xD030 => some (2 ^ 64)
  | 0xD031 => some (2 ^ 8)
  | 0xD032 => some (2 ^ 16)
  | 0xD040 => some (2 ^ 8)
  | 0xA014 => some (2 ^ 3)
  | 0xD100 => some (2 ^ 64)
  | _ => none

/-- A write of a scalar entry within its range, by the rules of the chapter that owns it. -/
def State.ownScalar (s : State) (idx sub obj v : Nat) : Status × State :=
  match gnomonMask idx with
  | some n => (.ok, { s with gnm := s.gnm.set idx sub (v % n) })
  | none =>
    if idx = 0x1200 then s.writeDefaults v
    else
      let r := if idx < 0x4000 then s.hw.ownLow idx sub obj v else if idx < 0x7000 then s.hw.ownPages idx sub obj v
        else if idx < 0x9000 then s.hw.ownModels idx sub obj v else s.hw.ownHigh idx sub obj v
      (r.1, { s with hw := r.2 })

/-- A PINNED_LIST value (R203). -/
def Hw.writePinned (h : Hw) (f : Nat) (l : List Byte) : Status × Hw :=
  h.unless (l.length % 8 != 0 || decide (h.modeParam f 1 < l.length / 8)) .range
    (h.unless (h.raw 0x5031 (f + 1) == 1) .busy (.ok, h.setDomain 0x5030 (f + 1) 0 l))

/-- A MASK_SLOT value (R252). -/
def Hw.writeMask (h : Hw) (m : Nat) (l : List Byte) : Status × Hw :=
  let named := h.seqs.any fun e => e.2.com.sampling.maskOn && e.2.com.sampling.maskSlot == m
  h.unless (l.length != 131072) .length
    (h.unless (named && (h.raw 0x7042 1).testBit m) .busy
      (.ok, ({ h with smp := { h.smp with masks := Map.insert h.smp.masks m l } } : Hw).set 0x7041 1 (setBit (h.raw 0x7041 1) m)
        |>.set 0x7042 1 (setBit (h.raw 0x7042 1) m)))

/-- A SHAPE_TABLE value (R278). -/
def Hw.writeShape (h : Hw) (k : Nat) (l : List Byte) : Status × Hw :=
  h.unless (!validShape l) .range (.ok, (h.setDomain 0x7210 (k + 1) 0 l).set 0x7211 1 (setBit (h.raw 0x7211 1) k))

/-- A LAYER_TABLE value (R330). -/
def Hw.writeLayers (h : Hw) (m : Nat) (l : List Byte) : Status × Hw :=
  h.unless (l.length % 8 != 0 || decide (32768 < l.length)) .length
    (h.unless (!layerTableOk ((leWords 8 l).map fun e => (e % 65536, e / 65536))) .range (.ok, h.setDomain 0x8005 1 m l))

/-- Whether a model's round is open: between its own verdict and its decision. -/
def Hw.anyRoundOpen (h : Hw) : Bool := h.learners.any fun e => match e.2.round with | some r => r.own.isSome | none => false

/-- A FED_CHILDREN value (R354). -/
def Hw.writeChildren (h : Hw) (l : List Byte) : Status × Hw :=
  let ids := leWords 2 l
  let bad := l.length % 2 != 0 || decide (64 < ids.length) || decide ((distinct ids).length ≠ ids.length) ||
    ids.any fun i => i == h.raw 0x8300 1 || i == h.get 0x8301 1
  h.unless bad .range (h.unless h.anyRoundOpen .busy (.ok, h.setDomain 0x8302 1 0 l))

/-- A whole value of a DOMAIN entry, checked and applied as the WRITE that commits it is served (R105). -/
def Hw.ownDomain (h : Hw) (idx sub obj : Nat) (l : List Byte) : Status × Hw :=
  match idx with
  | 0x5030 => h.writePinned (sub - 1) l
  | 0x5401 => h.unless (l.length % 8 != 0 || !programOk (leWords 8 l)) .range (.ok, h.setDomain idx sub obj l)
  | 0x7040 => h.writeMask (sub - 1) l
  | 0x7210 => h.writeShape (sub - 1) l
  | 0x8005 => h.writeLayers obj l
  | 0x8302 => h.writeChildren l
  | 0xA062 => h.unless (l.length != 48) .range (.ok, h.setDomain idx sub obj l)
  | _ => (.ok, h.setDomain idx sub obj l)

end Sys2Proof.Machine
end

