-- ==== Sys2Proof/Machine/Dict.lean ====
section
/-! DEFINITION. The dictionary's server: requests of the window and of DDP, the order of their refusals, READ, WRITE and INFO, segmented
DOMAIN values, and the answers on each path (R95 to R98, R103 to R108, R114, R115, R422). -/

namespace Sys2Proof.Machine

open Sys2Proof

/-! ## The window's registers -/

/-- Bytes from an address on, `n` of them: listed ones in rising order, every other byte 0. -/
def windowRun : List Host.Cell → Nat → Nat → List Byte
  | _, _, 0 => []
  | [], a, n + 1 => 0 :: windowRun [] (a + 1) n
  | c :: r, a, n + 1 => if c.1 = a then c.2 :: windowRun r (a + 1) n else 0 :: windowRun (c :: r) (a + 1) n

/-- The cells of a byte string placed at an address; a zero byte is not listed. -/
def cellsOf : Nat → List Byte → List Host.Cell
  | _, [] => []
  | a, b :: r => if b = 0 then cellsOf (a + 1) r else (a, b) :: cellsOf (a + 1) r

/-- One byte of DATA set, in the canonical form. -/
def putCell (a : Nat) (b : Byte) : List Host.Cell → List Host.Cell
  | [] => if b = 0 then [] else [(a, b)]
  | c :: r =>
    if c.1 = a then (if b = 0 then r else (a, b) :: r)
    else if a < c.1 then (if b = 0 then c :: r else (a, b) :: c :: r)
    else c :: putCell a b r

/-- One byte of DATA. -/
def readCell : List Host.Cell → Nat → Byte
  | [], _ => 0
  | c :: r, a => if c.1 = a then c.2 else readCell r a

/-- Read data placed at DATA offset 0 (R104); the bytes behind it stay. -/
def Window.place (w : Window) (l : List Byte) : Window :=
  { w with data := cellsOf 0 l ++ w.data.filter fun c => decide (l.length ≤ c.1) }

/-- The first `n` bytes of DATA. -/
def Window.bytes (w : Window) (n : Nat) : List Byte := windowRun w.data 0 n

/-! ## Requests -/

/-- A request as either path carries it (Tables 5.6 and 5.7). `bad` marks fields that cannot be valid. -/
structure Req where
  path   : Path
  bad    : Bool
  op     : Nat
  idx    : Nat
  sub    : Nat
  offset : Nat
  length : Nat
  data   : List Byte
deriving DecidableEq, Repr

/-- What a request is answered with: the status, the bytes returned, and the length field of the window's RSP. -/
structure Reply where
  status : Status
  data   : List Byte
  length : Nat
deriving DecidableEq, Repr

/-- An answer without data. -/
def Reply.of (st : Status) : Reply := { status := st, data := [], length := 0 }

/-- An answer with a value's bytes. -/
def Reply.value (l : List Byte) : Reply := { status := .ok, data := l, length := l.length }

/-- Most bytes of a segment on a path (R105). -/
def segmentMax : Path → Nat
  | .window => 32768 | .ddp => 1008

/-- The entry that an index and sub-index name. Sub-index 0 is the constant of R95; a reserved unit ID has no entry of 0xB000 or 0xB001
(R382). -/
def lookup (idx sub : Nat) : Option Entry :=
  if sub = 0 then (if indexListed idx then some (countEntry idx) else none)
  else if (idx = 0xB000 ∨ idx = 0xB001) ∧ !countedUnits.contains sub then none
  else findEntry idx sub

/-- Size of the value an index and sub-index name; 0 for STR, DOMAIN and no entry. -/
def sizeOf (idx sub : Nat) : Nat := match lookup idx sub with | some e => e.type.size | none => 0

/-- The request in the window's registers. A length of 0 stands for a scalar's size (R104). -/
def State.windowReq (s : State) : Req :=
  let w := s.win
  let idx := w.index.toNat
  let sub := w.sub.toNat
  let n := if w.length = 0 then sizeOf idx sub else w.length.toNat
  { path := .window, bad := false, op := w.op.toNat, idx := idx, sub := sub, offset := w.offset.toNat, length := n,
    data := if w.op = 1 then w.bytes (min n (segmentMax .window)) else [] }

/-- A DDP request (Table 5.7). One whose header is short, whose version is not 1, that has the response bit set, or that carries less write
data than its length says, cannot be valid. -/
def ddpReq (l : List Byte) : Req :=
  let op := fieldAt l 1 1
  let n := fieldAt l 12 2
  { path := .ddp, bad := decide (l.length < 16) || fieldAt l 0 1 != 1 || decide (128 ≤ op) || (op == 1 && decide (l.length < 16 + n)),
    op := op, idx := fieldAt l 4 2, sub := fieldAt l 6 1, offset := fieldAt l 8 4, length := n, data := slice (l.drop 16) 0 (min n 1024) }

/-- The value a WRITE of a scalar carries. -/
def Req.value (r : Req) : Nat := leNat r.data

/-! ## Refusals that the dictionary owns -/

/-- Whether the engine's state serves a request (Table 5.8). The table names reads and writes; INFO is served like a READ (DESIGN CHOICE, log
entry 122). -/
def Hw.serves (h : Hw) (op idx : Nat) : Bool :=
  let recovery := decide (0xA000 ≤ idx) && decide (idx ≤ 0xAFFF)
  match h.eng.state with
  | .start => op != 1 && ((decide (0x1000 ≤ idx) && decide (idx ≤ 0x11FF)) || recovery)
  | .faultHold => op != 1 || idx == 0x1101 || recovery
  | .off | .retain => false
  | _ => true

/-- Whether a DDP WRITE is denied (R114). -/
def Hw.denied (h : Hw) (r : Req) : Bool :=
  r.path == .ddp && !h.featureForWrites 11 && r.idx != 0x1101 && !(decide (0xA000 ≤ r.idx) && decide (r.idx ≤ 0xAFFF))

/-- Indices governed whole by a feature, first and last (Table 5.12). -/
def governed : List (Nat × Nat × Nat) := [
  (0x7200, 0x7202, 0), (0x7210, 0x7210, 0), (0x6400, 0x6401, 1), (0x8040, 0x8043, 1), (0x8100, 0x8104, 1), (0x910A, 0x910A, 1),
  (0x9110, 0x9111, 1), (0x9210, 0x9210, 1), (0x8032, 0x8032, 2), (0x8300, 0x8309, 2), (0x3050, 0x3051, 3), (0x3303, 0x3303, 3),
  (0x9010, 0x9011, 4), (0x9020, 0x9021, 4), (0x9200, 0x9202, 4), (0x9211, 0x9211, 4), (0x5402, 0x5403, 5), (0xB030, 0xB034, 10),
  (0xB037, 0xB037, 10), (0xB039, 0xB039, 10), (0xB040, 0xB042, 10), (0x5030, 0x5031, 63)]

/-- Sub-indices governed by a feature (Table 5.12). -/
def governedSubs : List (Nat × Nat × Nat) := [
  (0x3101, 9, 3), (0x3101, 12, 3), (0x4101, 4, 7), (0x4101, 8, 7),
  (0x8201, 1, 9), (0x8201, 2, 9), (0x8201, 3, 9), (0x8201, 4, 9), (0x8201, 5, 9)]

/-- The feature that governs a WRITE; the enable of a host pool is one (R115, R150). -/
def Hw.governor (h : Hw) (r : Req) (obj : Nat) : Option Nat :=
  match governed.find? fun g => decide (g.1 ≤ r.idx) && decide (r.idx ≤ g.2.1) with
  | some g => some g.2.2
  | none => match governedSubs.find? fun g => g.1 == r.idx && g.2.1 == r.sub with
    | some g => some g.2.2
    | none => if r.idx = 0x4001 ∧ r.sub = 8 ∧ h.hostPool obj ∧ r.value = 1 then some 7 else none

/-- The refusals that come before an entry is looked at, of every request (R422, steps 1 to 3): the entry, or the status. -/
def State.find (s : State) (r : Req) : Status × Entry :=
  match lookup r.idx r.sub with
  | some e => (if r.bad || decide (2 < r.op) then .malformed else if s.hw.serves r.op r.idx then .ok else .state, e)
  | none => (if r.bad || decide (2 < r.op) then .malformed else if indexListed r.idx then .noSub else .noEntry, countEntry 0)

/-- The refusals of a WRITE that come before its length is looked at (R422, steps 4 to 7). -/
def State.writeBar (s : State) (r : Req) (e : Entry) (obj : Nat) : Status :=
  if s.hw.denied r then .denied
  else if e.access = .ro ∨ e.access = .rc ∨ e.access = .const then .readOnly
  else if (match s.hw.governor r obj with | some f => !s.hw.featureForWrites f | none => false) then .feature
  else if e.access = .rwc ∧ s.hw.eng.state ≠ .config then .state
  else .ok

/-! ## INFO -/

/-- Smallest and largest value that INFO states for an entry. -/
def Entry.bounds (e : Entry) : Nat × Nat :=
  match e.type with
  | .str | .domain => (0, 0)
  | .i64 => (2 ^ 63, 2 ^ 63 - 1)
  | .f32 => (e.lo, 0x7F7FFFFF)
  | _ => (e.lo, e.hi)

/-- The default that INFO states: of a constant, its value. -/
def State.infoDefault (s : State) (e : Entry) (sub : Nat) : Nat :=
  match e.type with
  | .str | .domain => 0
  | _ => if sub = 0 then highestSub e.idx else if e.access = .const then s.scalar e.idx sub 0 else odDefault e.idx sub

/-- The 32 bytes of INFO (R104). -/
def State.info (s : State) (e : Entry) (sub : Nat) : List Byte :=
  [BitVec.ofNat 8 e.type.code, BitVec.ofNat 8 e.access.code, if e.isP then 1 else 0, BitVec.ofNat 8 (highestSub e.idx), 0, 0, 0, 0] ++
    leBytes 8 e.bounds.1 ++ leBytes 8 e.bounds.2 ++ leBytes 8 (s.infoDefault e sub)

/-! ## READ -/

/-- Key of a snapshot or staged value: the entry and its object, which may be a whole handle. -/
def domKey (idx sub obj : Nat) : Nat := odKey idx sub 0 + obj * 2 ^ 40

/-- Whether a snapshot or staged value is 10 s old (R105). -/
def Hw.aged (h : Hw) (x : Snap) : Bool := decide (x.ns + 10000000000 ≤ h.now)

/-- Ends a path's snapshot. -/
def Hw.dropSnap (h : Hw) (p : Path) : Hw := { h with snaps := Map.erase h.snaps (pathNum p) }

/-- Discards a path's staged value. -/
def Hw.dropStaged (h : Hw) (p : Path) : Hw := { h with staged := Map.erase h.staged (pathNum p) }

/-- A path's snapshot of an entry, if it is live. -/
def Hw.liveSnap (h : Hw) (p : Path) (key : Nat) : Option Snap :=
  match Map.find? h.snaps (pathNum p) with
  | some x => if x.key = key ∧ !h.aged x then some x else none
  | none => none

/-- A segment of a value from an offset; the window's length field gives the value's total size. -/
def segmentOf (r : Req) (l : List Byte) : Reply :=
  let n := if r.length = 0 then segmentMax r.path else r.length
  { status := .ok, data := (l.drop r.offset).take n, length := l.length }

/-- Ends a path's snapshot where a READ at offset 0, or of another entry than its own, comes, however it is answered, or where it is
10 s old (R105). -/
def Hw.endSnap (h : Hw) (p : Path) (key offset : Nat) : Hw := if offset = 0 ∨ (h.liveSnap p key).isNone then h.dropSnap p else h

/-- READ of a DOMAIN entry (R105). -/
def State.readDomain (s : State) (r : Req) (e : Entry) (obj : Nat) : Reply × State :=
  let key := domKey r.idx r.sub obj
  let s1 := { s with hw := s.hw.endSnap r.path key r.offset }
  if segmentMax r.path < r.length then (.of .length, s1)
  else if r.offset = 0 then
    if s.hw.readRefused r.idx obj then (.of .range, s1)
    else
      let l := s.valueBytes e r.sub obj
      (segmentOf r l,
        { s1 with hw := { s1.hw with snaps := Map.insert s1.hw.snaps (pathNum r.path) { key := key, bytes := l, ns := s.hw.now } } })
  else match s.hw.liveSnap r.path key with
    | some x => if x.bytes.length ≤ r.offset then (.of .length, s1) else (segmentOf r x.bytes, s1)
    | none => (.of .snapshotGone, s1)

/-- READ (R96, R97, R104): the value, after which an RC value clears. -/
def State.readEntry (s : State) (r : Req) (e : Entry) (obj : Nat) : Reply × State :=
  if e.type = .domain then s.readDomain r e obj
  else if r.offset ≠ 0 ∨ (e.type ≠ .str ∧ r.length ≠ 0 ∧ r.length ≠ e.type.size) then (.of .length, s)
  else (.value (s.valueBytes e r.sub obj), if r.sub = 0 then s else s.clearRead e r.sub obj)

/-! ## WRITE -/

/-- A write of a scalar whose length is right: its range, then its owner's rules (R422, step 10). PAGE_TOKENS of a registered model is BUSY
before any check of its value (R154). -/
def State.writeScalar (s : State) (r : Req) (e : Entry) (obj : Nat) : Status × State :=
  let v := r.value
  let busyFirst := r.idx = 0x4101 ∧ r.sub = 1 ∧ s.hw.getAt 0x8000 1 obj = 1
  if !decide busyFirst ∧ (v < e.lo ∨ e.hi < v) then (.range, s) else s.ownScalar r.idx r.sub obj v

/-- The value staged for an entry on a path, if there is one and it is not 10 s old. -/
def Hw.liveStaged (h : Hw) (p : Path) (key : Nat) : Option Snap :=
  match Map.find? h.staged (pathNum p) with
  | some x => if x.key = key ∧ !h.aged x then some x else none
  | none => none

/-- Takes a value in whole: committed, or staged for further segments (R105). -/
def State.takeValue (s : State) (r : Req) (obj : Nat) (x : Snap) : Status × State :=
  if r.offset.testBit 31 then
    let o := (s.hw.dropStaged r.path).ownDomain r.idx r.sub obj x.bytes
    (o.1, { s with hw := o.2 })
  else (.ok, { s with hw := { s.hw with staged := Map.insert s.hw.staged (pathNum r.path) x } })

/-- Discards a path's staged value where a WRITE at offset 0, or of another DOMAIN entry than its own, comes, however it is answered, or
where it is 10 s old (R105). -/
def Hw.endStaged (h : Hw) (p : Path) (key at_ : Nat) : Hw := if at_ = 0 ∨ (h.liveStaged p key).isNone then h.dropStaged p else h

/-- WRITE of a DOMAIN entry (R105). -/
def State.writeDomain (s : State) (r : Req) (obj : Nat) : Status × State :=
  let key := domKey r.idx r.sub obj
  let at_ := r.offset % 2 ^ 31
  if segmentMax r.path < r.length then (.length, s)
  else if at_ = 0 then s.takeValue r obj { key := key, bytes := r.data, ns := s.hw.now }
  else match s.hw.liveStaged r.path key with
    | none => (.snapshotGone, s)
    | some x => if at_ = x.bytes.length then s.takeValue r obj { x with bytes := x.bytes ++ r.data } else (.length, s)

/-- WRITE, after the refusals that come before its length (R96, R98). -/
def State.writeEntry (s : State) (r : Req) (e : Entry) (obj : Nat) : Status × State :=
  if e.type = .domain then s.writeDomain r obj
  else if r.offset ≠ 0 ∨ r.length ≠ e.type.size then (.length, s)
  else s.writeScalar r e obj

/-! ## One request -/

/-- Serves a request: its answer, and the machine after its effect (R98, R422). -/
def State.carryOut (s : State) (r : Req) : Reply × State :=
  let f := s.find r
  let e := f.2
  let obj := s.hw.objOf r.path e.sel
  if f.1 ≠ .ok then (.of f.1, s)
  else match r.op with
    | 0 => s.readEntry r e obj
    | 1 =>
      let s1 : State := if e.type = .domain then { s with hw := s.hw.endStaged r.path (domKey r.idx r.sub obj) (r.offset % 2 ^ 31) } else s
      let bar := s1.writeBar r e obj
      if bar ≠ .ok then (.of bar, s1)
      else
        let o := s1.writeEntry r e obj
        (.of o.1, o.2)
    | _ => (.value (s.info e r.sub), s)

/-- A served request is counted (0x2400). -/
def Hw.countServed (h : Hw) (st : Status) : Hw := let h1 := h.inc 0x2400 1; if st = .ok then h1 else h1.inc 0x2400 2

/-- The answer on the window (R104): data, status and length, busy cleared, done set, and the vector of 0x1020. -/
def State.answerWindow (s : State) (a : Reply) : State :=
  let w := s.win.place a.data
  { s with win := { w with busy := false, done := true, status := a.status.code, rspLen := a.length % 2 ^ 32,
                           served := (w.served + 1) % 2 ^ 64 },
           hw := (s.hw.countServed a.status).pulse (s.hw.raw 0x1020 1) }

/-- The DDP response to a request's bytes (Table 5.7). A header that is too short is answered with id 0. -/
def ddpResponse (l : List Byte) (a : Reply) : List Byte :=
  if l.length < 16 then [1, 0x80, 0, 0, 0, 0, 0, BitVec.ofNat 8 a.status.code] ++ List.replicate 8 0
  else
    [1, BitVec.ofNat 8 (fieldAt l 1 1 % 128 + 128)] ++ slice l 2 5 ++ [BitVec.ofNat 8 a.status.code] ++ slice l 8 4 ++
      leBytes 2 a.data.length ++ [0, 0] ++ a.data

/-- The answer on the sideband, to the oldest request. -/
def State.answerDdp (s : State) (who : Nat) (l : List Byte) (rest : List (Nat × Nat × List Byte)) (a : Reply) : State :=
  let h := s.hw.modSide fun x => { x with requests := rest }
  { s with hw := (h.countServed a.status).ddpAnswer who (ddpResponse l a) }

/-- GO: the request in the registers is submitted (R104). -/
def State.submit (s : State) : State := { s with win := { s.win with busy := true, done := false, order := s.hw.cc } }

/-- Whether the window's request is the first that became complete: of two in one cc, the window's (R108). -/
def State.windowFirst (s : State) : Bool :=
  match s.hw.side.requests with
  | [] => true
  | (cc, _) :: _ => decide (s.win.order ≤ cc)

/-- Serves a path's next request if it is one of the command's own and the first in line. A window that is not busy submits the request in
its registers with the command. -/
def State.serveOne (s : State) (p : Path) (mine : Req → Bool) : State :=
  match p with
  | .window =>
    let r := s.windowReq
    if !mine r then s
    else
      let s1 := if s.win.busy then s else s.submit
      if s1.windowFirst then let o := s1.carryOut r; o.2.answerWindow o.1 else s1
  | .ddp => match s.hw.side.requests with
    | [] => s
    | (cc, who, l) :: rest =>
      if mine (ddpReq l) ∧ !(s.win.busy && decide (s.win.order ≤ cc)) then
        let o := s.carryOut (ddpReq l)
        o.2.answerDdp who l rest o.1
      else s

/-- The request that a path's server would take next. -/
def State.nextReq (s : State) (p : Path) : Option Req :=
  match p with
  | .window => some s.windowReq
  | .ddp => match s.hw.side.requests with
    | (_, _, l) :: _ => some (ddpReq l)
    | [] => none

/-- The part of its cc in which a path's next request is served: a WRITE after the marks (R18), a READ of a partition's window after the
windows have moved on (R386), and anything else before every update (R108). -/
def State.servePart (s : State) (p : Path) : CcPart :=
  match s.nextReq p with
  | some r =>
    if r.op = 1 ∧ !r.bad then .dictWrite
    else if r.op = 0 ∧ !r.bad ∧ (r.idx = 0xB011 ∨ r.idx = 0xB012) then .sample else .dictRead
  | none => .dictRead

/-- A command that serves a request of the dictionary. Unwritten P changes of 24 KiB go to the image at once (R416). -/
def State.serve (s : State) (p : Path) (mine : Req → Bool) : State :=
  s.onAllAt (s.servePart p) 0 fun x => let y := x.serveOne p mine; ({ y with hw := x.hw.openRings y.hw } : State).capImage

/-! ## Requests without a row of their own -/

/-- Whether a request has an op, or is malformed, in which case any command of the dictionary answers it. -/
def Req.is (r : Req) (op : Nat) : Bool := r.bad || r.op == op || decide (2 < r.op)

/-- DICT_READ. -/
def execDictRead (path : Path) (s : State) : Host.Outcome State Fault Refusal := .next (s.serve path fun r => r.is 0)

/-- DICT_WRITE. -/
def execDictWrite (path : Path) (s : State) : Host.Outcome State Fault Refusal := .next (s.serve path fun r => r.is 1)

/-- DICT_INFO. -/
def execDictInfo (path : Path) (s : State) : Host.Outcome State Fault Refusal := .next (s.serve path fun r => r.is 2)

/-- A path's snapshot ends where it was taken 10 s ago (R105). -/
def Hw.expireSnap (h : Hw) (p : Path) : Hw :=
  match Map.find? h.snaps (pathNum p) with
  | some x => if h.aged x then h.dropSnap p else h
  | none => h

/-- A path's staged value is discarded where it was opened 10 s ago (R105). -/
def Hw.expireStaged (h : Hw) (p : Path) : Hw :=
  match Map.find? h.staged (pathNum p) with
  | some x => if h.aged x then h.dropStaged p else h
  | none => h

/-- SNAPSHOT_EXPIRY. -/
def execSnapshotExpiry (path : Path) (s : State) : Host.Outcome State Fault Refusal := 
  .next (s.onCoreAt .expiry 0 fun h => h.expireSnap path)

/-- STAGED_WRITE_EXPIRY. -/
def execStagedWriteExpiry (path : Path) (s : State) : Host.Outcome State Fault Refusal := 
  .next (s.onCoreAt .expiry 0 fun h => h.expireStaged path)

end Sys2Proof.Machine
end

