-- ==== Sys2Proof/Machine/DictRows.lean ====
section
/-! DEFINITION. The dictionary's requests that have a row of their own: each command serves a request of its path that is that row's (op,
entry and value), by the server of R108; another request it leaves waiting. -/

namespace Sys2Proof.Machine

open Sys2Proof

/-- A READ of an index. -/
def Req.reads (r : Req) (idx : Nat) : Bool := !r.bad && r.op == 0 && r.idx == idx

/-- A WRITE of an index. -/
def Req.writes (r : Req) (idx : Nat) : Bool := !r.bad && r.op == 1 && r.idx == idx

/-- A WRITE of an index with a value. -/
def Req.writesValue (r : Req) (idx v : Nat) : Bool := r.writes idx && r.value == v

/-- A WRITE of an index and sub-index with a value. -/
def Req.writesAt (r : Req) (idx sub v : Nat) : Bool := r.writes idx && r.sub == sub && r.value == v

/-- The WRITE that commits a DOMAIN value of an index. -/
def Req.commits (r : Req) (idx : Nat) : Bool := r.writes idx && r.offset.testBit 31

/-- A VERSION_CTRL write of an op. -/
def Req.versionOp (r : Req) (op : Nat) : Bool := r.writes 0x8010 && r.value % 4 == op

/-! ## Engine and features -/

/-- P_DEFAULTS (R101). -/
def execPDefaults (path : Path) (s : State) : Host.Outcome State Fault Refusal := .next (s.serve path fun r => r.writesAt 0x1200 3 1)

/-- REQUEST_CONFIG (R112). -/
def execRequestConfig (path : Path) (s : State) : Host.Outcome State Fault Refusal := .next (s.serve path fun r => r.writesValue 0x1101 3)

/-- REQUEST_OPERATIONAL (R110). -/
def execRequestOperational (path : Path) (s : State) : Host.Outcome State Fault Refusal :=
  .next (s.serve path fun r => r.writesValue 0x1101 4)

/-- REQUEST_QUIESCED (R111). -/
def execRequestQuiesced (path : Path) (s : State) : Host.Outcome State Fault Refusal :=
  .next (s.serve path fun r => r.writesValue 0x1101 6)

/-- FEATURE_ACCEPT_WRITE (R113). -/
def execFeatureAcceptWrite (path : Path) (s : State) : Host.Outcome State Fault Refusal := .next (s.serve path fun r => r.writes 0x1011)

/-! ## Rings, queues, handles -/

/-- RING_ENABLE (R117). -/
def execRingEnable (path : Path) (s : State) : Host.Outcome State Fault Refusal := .next (s.serve path fun r => r.writesAt 0x3011 6 1)

/-- RING_DISABLE (R55). -/
def execRingDisable (path : Path) (s : State) : Host.Outcome State Fault Refusal := .next (s.serve path fun r => r.writesAt 0x3011 6 0)

/-- QUEUE_ENABLE (R139). -/
def execQueueEnable (path : Path) (s : State) : Host.Outcome State Fault Refusal := .next (s.serve path fun r => r.writesAt 0x3021 6 1)

/-- QUEUE_DISABLE (R139). -/
def execQueueDisable (path : Path) (s : State) : Host.Outcome State Fault Refusal := .next (s.serve path fun r => r.writesAt 0x3021 6 0)

/-- CANCEL_HANDLE (R130). -/
def execCancelHandle (path : Path) (s : State) : Host.Outcome State Fault Refusal := .next (s.serve path fun r => r.writes 0x3302)

/-- MIGRATE_HANDLE (R147). -/
def execMigrateHandle (path : Path) (s : State) : Host.Outcome State Fault Refusal := .next (s.serve path fun r => r.writes 0x3303)

/-! ## Pools -/

/-- POOL_ENABLE (R150). -/
def execPoolEnable (path : Path) (s : State) : Host.Outcome State Fault Refusal := .next (s.serve path fun r => r.writesAt 0x4001 8 1)

/-- POOL_DISABLE (R150). -/
def execPoolDisable (path : Path) (s : State) : Host.Outcome State Fault Refusal := .next (s.serve path fun r => r.writesAt 0x4001 8 0)

/-- POOL_NOTICE_READ (R153). -/
def execPoolNoticeRead (path : Path) (s : State) : Host.Outcome State Fault Refusal :=
  .next (s.serve path fun r => r.reads 0x4001 && r.sub == 0xC)

/-! ## Facets -/

/-- FACET_REQUEST_UNASSIGNED (R200). -/
def execFacetRequestUnassigned (path : Path) (s : State) : Host.Outcome State Fault Refusal :=
  .next (s.serve path fun r => r.writesValue 0x5003 0)

/-- FACET_REQUEST_STANDBY (R200). -/
def execFacetRequestStandby (path : Path) (s : State) : Host.Outcome State Fault Refusal :=
  .next (s.serve path fun r => r.writesValue 0x5003 1)

/-- FACET_REQUEST_ACTIVE (R201). -/
def execFacetRequestActive (path : Path) (s : State) : Host.Outcome State Fault Refusal :=
  .next (s.serve path fun r => r.writesValue 0x5003 2)

/-- FACET_REQUEST_DRAINING (R202). -/
def execFacetRequestDraining (path : Path) (s : State) : Host.Outcome State Fault Refusal :=
  .next (s.serve path fun r => r.writesValue 0x5003 4)

/-- FACET_PARTS_WRITE (R16). -/
def execFacetPartsWrite (path : Path) (s : State) : Host.Outcome State Fault Refusal := .next (s.serve path fun r => r.writes 0x5000)

/-- FACET_MODE_WRITE (R32). -/
def execFacetModeWrite (path : Path) (s : State) : Host.Outcome State Fault Refusal := .next (s.serve path fun r => r.writes 0x5001)

/-- MARK_WRITE (R32). -/
def execMarkWrite (path : Path) (s : State) : Host.Outcome State Fault Refusal :=
  .next (s.serve path fun r => !r.bad && r.op == 1 && decide (0x5200 ≤ r.idx) && decide (r.idx ≤ 0x5204))

/-- PINNED_ENABLE_WRITE (R203). -/
def execPinnedEnableWrite (path : Path) (s : State) : Host.Outcome State Fault Refusal := .next (s.serve path fun r => r.writes 0x5031)

/-- FACET_RESUME (R371). -/
def execFacetResume (path : Path) (s : State) : Host.Outcome State Fault Refusal := .next (s.serve path fun r => r.writesValue 0xA005 1)

/-! ## Jobs -/

/-- JOB_START (R228). -/
def execJobStart (path : Path) (s : State) : Host.Outcome State Fault Refusal := .next (s.serve path fun r => r.writesValue 0x6401 1)

/-- JOB_TEARDOWN (R232). -/
def execJobTeardown (path : Path) (s : State) : Host.Outcome State Fault Refusal := .next (s.serve path fun r => r.writesValue 0x6401 2)

/-- URGENT_START (R315). -/
def execUrgentStart (path : Path) (s : State) : Host.Outcome State Fault Refusal := .next (s.serve path fun r => r.writesValue 0x9201 1)

/-- URGENT_TEARDOWN (R315). -/
def execUrgentTeardown (path : Path) (s : State) : Host.Outcome State Fault Refusal := .next (s.serve path fun r => r.writesValue 0x9201 2)

/-! ## Notices and probes -/

/-- WATERMARK_NOTICE_READ (R234). -/
def execWatermarkNoticeRead (path : Path) (s : State) : Host.Outcome State Fault Refusal :=
  .next (s.serve path fun r => r.reads 0x601A || r.reads 0x6021)

/-- PART_WAIT_MAX_READ (R233). -/
def execPartWaitMaxRead (path : Path) (s : State) : Host.Outcome State Fault Refusal := .next (s.serve path fun r => r.reads 0x6016)

/-- HELIX_PROBE_READ (R245). -/
def execHelixProbeRead (path : Path) (s : State) : Host.Outcome State Fault Refusal :=
  .next (s.serve path fun r => r.reads 0x7110 && (r.sub == 4 || r.sub == 5))

/-- HULL_MAX_READ (R276). -/
def execHullMaxRead (path : Path) (s : State) : Host.Outcome State Fault Refusal := .next (s.serve path fun r => r.reads 0x702A)

/-- WAKE_CAUSE_READ (R414). -/
def execWakeCauseRead (path : Path) (s : State) : Host.Outcome State Fault Refusal := .next (s.serve path fun r => r.reads 0xD021)

/-! ## Sampler and speculation -/

/-- MASK_SLOT_LOAD (R252). -/
def execMaskSlotLoad (path : Path) (s : State) : Host.Outcome State Fault Refusal := .next (s.serve path fun r => r.commits 0x7040)

/-- SHAPE_TABLE_WRITE (R278). -/
def execShapeTableWrite (path : Path) (s : State) : Host.Outcome State Fault Refusal := .next (s.serve path fun r => r.commits 0x7210)

/-! ## Models and versions -/

/-- MODEL_REGISTER (R330). -/
def execModelRegister (path : Path) (s : State) : Host.Outcome State Fault Refusal := .next (s.serve path fun r => r.writesValue 0x8000 1)

/-- MODEL_ACTIVATE (R331). -/
def execModelActivate (path : Path) (s : State) : Host.Outcome State Fault Refusal := .next (s.serve path fun r => r.writes 0x8001)

/-- VERSION_LOAD (R334). -/
def execVersionLoad (path : Path) (s : State) : Host.Outcome State Fault Refusal := .next (s.serve path fun r => r.versionOp 1)

/-- VERSION_PUBLISH (R334). -/
def execVersionPublish (path : Path) (s : State) : Host.Outcome State Fault Refusal := .next (s.serve path fun r => r.versionOp 2)

/-- VERSION_ABORT (R334). -/
def execVersionAbort (path : Path) (s : State) : Host.Outcome State Fault Refusal := .next (s.serve path fun r => r.versionOp 3)

/-- LEARN_RESET (R330). -/
def execLearnReset (path : Path) (s : State) : Host.Outcome State Fault Refusal := .next (s.serve path fun r => r.writesValue 0x802D 1)

/-- FED_RESOLVE (R359). -/
def execFedResolve (path : Path) (s : State) : Host.Outcome State Fault Refusal := .next (s.serve path fun r => r.writes 0x8309)

/-! ## Background, firmware, observability -/

/-- BG_ENABLE (R376). -/
def execBgEnable (path : Path) (s : State) : Host.Outcome State Fault Refusal := .next (s.serve path fun r => r.writesValue 0xA050 1)

/-- BG_DISABLE (R376). -/
def execBgDisable (path : Path) (s : State) : Host.Outcome State Fault Refusal := .next (s.serve path fun r => r.writesValue 0xA050 0)

/-- FW_LOAD (R380). -/
def execFwLoad (path : Path) (s : State) : Host.Outcome State Fault Refusal := .next (s.serve path fun r => r.writesValue 0xA063 1)

/-- COUNTS_CLEAR (R384). -/
def execCountsClear (path : Path) (s : State) : Host.Outcome State Fault Refusal := .next (s.serve path fun r => r.writesValue 0xB002 1)

/-- BIN_FILTER_WRITE (R387). -/
def execBinFilterWrite (path : Path) (s : State) : Host.Outcome State Fault Refusal := .next (s.serve path fun r => r.writes 0xB020)

/-- TRIGGER_FIRE (R392). -/
def execTriggerFire (path : Path) (s : State) : Host.Outcome State Fault Refusal := .next (s.serve path fun r => r.writes 0xB042)

/-- TRACE_UNFREEZE (R393). -/
def execTraceUnfreeze (path : Path) (s : State) : Host.Outcome State Fault Refusal := .next (s.serve path fun r => r.writesValue 0xB039 1)

end Sys2Proof.Machine
end

