-- ==== Sys2Proof/Machine/HostPort.lean ====
section
/-! DEFINITION. The target port: doorbells, accesses that a region does not allow, fast status, and the dictionary window's registers (R48 to
R58, R104, R144). -/

namespace Sys2Proof.Machine

open Sys2Proof

/-- Strobes that R49 allows. -/
def strobeOk (strb : BitVec 8) : Bool := strb == 0xFF || strb == 0x0F || strb == 0xF0

/-- The bits of a 64-bit word that a strobe enables. -/
def strobeMask (strb : BitVec 8) : Nat :=
  ((List.range 8).map fun i => if strb.getLsbD i then 255 * 256 ^ i else 0).sum

/-- A word with the enabled bytes replaced. -/
def strobed (strb : BitVec 8) (old new : Nat) : Nat := (new &&& strobeMask strb) + (old - (old &&& strobeMask strb))

/-- A malformed access: counted, S3 (Table 3.3). -/
def Hw.badStrobe (h : Hw) : Hw := (h.inc 0x2002 1).event 0 (52 * 16 + 2) 3 none none

/-- Whether `hcp_req_ready` is high: fewer than 16 reads are outstanding (R48). -/
def Hw.hostReady (h : Hw) : Bool := decide (h.hostReads.length < 16)

/-- A request of the target port, in its part of a cc: it transfers only while `hcp_req_ready` is high. -/
def State.onHostAt (s : State) (c : CcPart) (f : State → State) : State :=
  s.onAllAt c 0 fun x => if x.hw.hostReady then f x else x

/-! ## Doorbells -/

/-- A submission doorbell (R54, R55): narrower than 8 bytes it is malformed; in the cc of its ring's disable it is dropped; a producer value
that shows at most n entries beyond c is latched, and ADM reads the next entry from the cc after (R56). -/
def Hw.submit (h : Hw) (r : Nat) (strb : BitVec 8) (producer : Nat) : Hw :=
  let x := h.ring r
  if strb ≠ 0xFF then h.badStrobe
  else if h.getAt 0x3011 6 r = 0 ∧ x.offCc = some h.cc then h
  else if sub32 producer x.consumed ≤ h.getAt 0x3011 3 r then h.modRing r fun y => { y with latched := producer, toRead := true }
  else (h.inc 0x2002 1).event 1 (54 * 16) 3 none none

/-- SUBMISSION_DOORBELL. -/
def execSubmissionDoorbell (ring : Fin 4096) (strb : BitVec 8) (data : Word64) (s : State) : Host.Outcome State Fault Refusal :=
  .next (s.onHostAt .doorbell fun x => { x with hw := x.hw.submit ring.val strb (data.toNat % 2 ^ 32) })

/-- DELIVERY_DOORBELL (Table 6.9, R144). -/
def execDeliveryDoorbell (queue : Fin 4096) (strb : BitVec 8) (data : Word64) (s : State) : Host.Outcome State Fault Refusal :=
  .next (s.onHostAt .doorbell fun x => { x with hw :=
    if strb ≠ 0xFF then x.hw.badStrobe else x.hw.deliveryDoorbell queue.val (data.toNat % 2 ^ 32) (data.getLsbD 32) })

/-! ## Reads -/

/-- A register of fast status (Tables 3.6 and 3.7). -/
def State.fastStatus (s : State) (off : Nat) : Nat :=
  let h := s.hw
  if off = 0 then
    h.eng.state.code + (if (List.range 16).any fun f => (h.facet f).state == .halted then 16 else 0) + (if s.win.done then 32 else 0)
  else if off = 8 then h.now
  else if off = 0x10 then h.events.notice
  else if 0x40 ≤ off ∧ off < 0xC0 then
    let f := (off - 0x40) / 8
    let x := h.facet f
    x.state.code + (if x.state = .unassigned then 0 else h.mode f % 4 * 8) + x.phase * 2 ^ 16 + x.step % 2 ^ 32 * 2 ^ 32
  else 0

/-- A register or DATA word of the dictionary window (Tables 5.5 and 5.6). -/
def Window.word (w : Window) (off : Nat) : Nat :=
  if 0x8000 ≤ off then leNat ((List.range 8).map fun i => readCell w.data (off - 0x8000 + i))
  else match off with
    | 0x00 => w.index.toNat + w.sub.toNat * 2 ^ 16 + w.op.toNat * 2 ^ 24 + w.offset.toNat * 2 ^ 32
    | 0x08 => w.length.toNat
    | 0x18 => (if w.busy then 1 else 0) + (if w.done then 2 else 0) + w.status * 2 ^ 4 + w.rspLen * 2 ^ 32
    | 0x20 => w.served
    | _ => 0

/-- Where an access goes (Table 3.2). -/
inductive Region where
  | submission | delivery | window | fast | reserved
deriving DecidableEq, Repr

/-- The region of an address. -/
def regionOf (a : Nat) : Region :=
  if a < 0x01000000 then .submission else if a < 0x02000000 then .delivery else if a < 0x02010000 then .window
  else if a < 0x02011000 then .fast else .reserved

/-- Whether a region asks for privilege. -/
def Region.priv : Region → Bool
  | .window | .fast => true
  | _ => false

/-- Data of an allowed read: of doorbell pages and reserved ranges 0 (R52). -/
def State.portWord (s : State) (a : Nat) : Nat :=
  match regionOf a with
  | .window => s.win.word (a - 0x02000000)
  | .fast => s.fastStatus (a - 0x02010000)
  | _ => 0

/-- A read of NOTICE clears it, unless it enables the high half only (R6, R57). -/
def Hw.readNotice (h : Hw) (strb : BitVec 8) : Hw :=
  if strb = 0xF0 then h else { h with events := { h.events with notice := 0 } }

/-- Answers a read: its response follows those of the reads before it, and transfers when the integrator accepts it (R48). -/
def Hw.respond (h : Hw) (tag : BitVec 8) (data status : Nat) : Hw :=
  Hw.hostTransfer { h with hostReads := h.hostReads ++ [(tag, BitVec.ofNat 64 data, status)] }

/-- An access that a region does not allow: counted, S2 (Table 3.3). -/
def Hw.disallowed (h : Hw) : Hw := (h.inc 0x2000 1).event 0 (52 * 16 + 1) 2 none none

/-- Whether an address lies in a reserved range or at an offset other than 0 of a doorbell page (Table 3.3). -/
def offMap (a : Nat) : Bool :=
  match regionOf a with
  | .submission | .delivery => a % 4096 ≠ 0
  | .reserved => true
  | _ => false

/-- A read of the port: malformed, denied, disallowed, or answered with the region's data (R49, R52, R57). -/
def State.portRead (s : State) (a : Nat) (strb : BitVec 8) (priv : Bool) (tag : BitVec 8) : State :=
  if !strobeOk strb then { s with hw := s.hw.badStrobe.respond tag 0 2 }
  else if (regionOf a).priv ∧ !priv then
    { s with hw := ((s.hw.inc 0x2001 1).event 0 (52 * 16) 3 none none).respond tag 0 1 }
  else
    let h := if regionOf a = .fast ∧ a - 0x02010000 = 0x10 then s.hw.readNotice strb
      else if offMap a then s.hw.disallowed else s.hw
    { s with hw := h.respond tag (s.portWord a) 0 }

/-- NOTICE_READ (R57). -/
def execNoticeRead (strb : BitVec 8) (priv : Bool) (tag : BitVec 8) (s : State) : Host.Outcome State Fault Refusal :=
  .next (s.onHostAt .portRead fun x => x.portRead 0x02010010 strb priv tag)

/-- A write that its region does not allow is dropped, with its counter and event (Table 3.3). An allowed one has its own command. -/
def Hw.dropWrite (h : Hw) (a : Nat) (strb : BitVec 8) (priv : Bool) : Hw :=
  if !strobeOk strb then h.badStrobe
  else match regionOf a with
    | .submission | .delivery => if a % 4096 ≠ 0 then h.disallowed else if strb ≠ 0xFF then h.badStrobe else h
    | .window => if priv then h else (h.inc 0x2001 1).event 0 (52 * 16) 3 none none
    | .fast => if priv then h.disallowed else (h.inc 0x2001 1).event 0 (52 * 16) 3 none none
    | .reserved => h.disallowed

/-- DISALLOWED_TARGET_ACCESS (R52). The port's address is [25:3]. A read that its region allows is answered with the region's data: no other
command reads the port, NOTICE apart. -/
def execDisallowedTargetAccess (write : Bool) (addr : BitVec 26) (strb : BitVec 8) (priv : Bool) (tag : BitVec 8) (s : State) :
    Host.Outcome State Fault Refusal :=
  let a := addr.toNat / 8 * 8
  if write then .next (s.onHostAt .alone fun x => { x with hw := x.hw.dropWrite a strb priv })
  else .next (s.onHostAt .portRead fun x => x.portRead a strb priv tag)

/-! ## The window's registers -/

/-- A write of REQ_CTRL; [31:28] are reserved (Table 5.6). -/
def Window.writeCtrl (w : Window) (v : Nat) : Window :=
  { w with index := BitVec.ofNat 16 v, sub := BitVec.ofNat 8 (v / 2 ^ 16), op := BitVec.ofNat 4 (v / 2 ^ 24),
           offset := BitVec.ofNat 32 (v / 2 ^ 32) }

/-- A write into DATA, byte by byte as the strobe enables. -/
def Window.writeData (w : Window) (off : Nat) (strb : BitVec 8) (data : Word64) : Window :=
  { w with data := (List.range 8).foldl (fun d i =>
      if strb.getLsbD i then putCell (off - 0x8000 + i) (BitVec.ofNat 8 (data.toNat / 256 ^ i)) d else d) w.data }

/-- Whether an offset of the window is REQ_CTRL, REQ_LEN, GO or DATA, whose writes are dropped while busy. -/
def busyDrops (off : Nat) : Bool := decide (off ≤ 0x10) || decide (0x8000 ≤ off)

/-- A write of one of the window's registers (R104): GO submits a request, a 1 in RSP[1] clears done, and SERVED and reserved offsets take
no write. -/
def State.windowWrite (s : State) (off : Nat) (strb : BitVec 8) (data : Word64) : State :=
  let w := s.win
  let v := fun old => strobed strb old data.toNat
  if !strobeOk strb then { s with hw := s.hw.badStrobe }
  else if w.busy ∧ busyDrops off then { s with hw := s.hw.inc 0x2400 3 }
  else if 0x8000 ≤ off then { s with win := w.writeData off strb data }
  else match off with
    | 0x00 => { s with win := w.writeCtrl (v (w.word 0)) }
    | 0x08 => { s with win := { w with length := BitVec.ofNat 16 (v w.length.toNat) } }
    | 0x10 => if (v 0).testBit 0 then s.submit else s
    | 0x18 => if (v 0).testBit 1 then { s with win := { w with done := false } } else s
    | _ => s

/-- WINDOW_REGISTER_WRITE. -/
def execWindowRegisterWrite (offset : BitVec 16) (strb : BitVec 8) (data : Word64) (s : State) : Host.Outcome State Fault Refusal :=
  .next (s.onHostAt .alone fun x => x.windowWrite (offset.toNat / 8 * 8) strb data)

/-- RSP_DONE_CLEAR: a write of 1 to RSP[1] (R104). -/
def execRspDoneClear (s : State) : Host.Outcome State Fault Refusal :=
  .next (s.onHostAt .alone fun x => x.windowWrite 0x18 0xFF 2)

end Sys2Proof.Machine
end

