-- ==== Sys2Proof/Machine/Dispatch.lean ====
section
/-! DEFINITION. One arm for each command: its meaning, by one direct call. -/

namespace Sys2Proof.Machine

open Sys2Proof

def exec (i : Instr) (s : State) : Host.Outcome State Fault Refusal :=
  match i with
  | .aonPorRelease corePowered => Sys2Proof.Machine.execAonPorRelease corePowered s
  | .aonRstAssert => Sys2Proof.Machine.execAonRstAssert s
  | .aonRstRelease report => Sys2Proof.Machine.execAonRstRelease report s
  | .tstTrst => Sys2Proof.Machine.execTstTrst s
  | .powerLoss => Sys2Proof.Machine.execPowerLoss s
  | .startWatchdogExpiry => Sys2Proof.Machine.execStartWatchdogExpiry s
  | .phaseReport facet phase => Sys2Proof.Machine.execPhaseReport facet phase s
  | .stepBegin facet phase => Sys2Proof.Machine.execStepBegin facet phase s
  | .mCompose facet => Sys2Proof.Machine.execMCompose facet s
  | .mPrefetch facet => Sys2Proof.Machine.execMPrefetch facet s
  | .mDraft facet => Sys2Proof.Machine.execMDraft facet s
  | .mCapture facet => Sys2Proof.Machine.execMCapture facet s
  | .mCommit facet => Sys2Proof.Machine.execMCommit facet s
  | .phaseStall facet => Sys2Proof.Machine.execPhaseStall facet s
  | .phaseStallRecovery facet => Sys2Proof.Machine.execPhaseStallRecovery facet s
  | .gnomonTick => Sys2Proof.Machine.execGnomonTick s
  | .timeImport ns => Sys2Proof.Machine.execTimeImport ns s
  | .importTimeout => Sys2Proof.Machine.execImportTimeout s
  | .wallTick => Sys2Proof.Machine.execWallTick s
  | .deadlineMiss slot => Sys2Proof.Machine.execDeadlineMiss slot s
  | .delayRelease list => Sys2Proof.Machine.execDelayRelease list s
  | .delayInsert list key kind payload => Sys2Proof.Machine.execDelayInsert list key kind payload s
  | .delayCancel list kind payload => Sys2Proof.Machine.execDelayCancel list kind payload s
  | .submissionDoorbell ring strb data => Sys2Proof.Machine.execSubmissionDoorbell ring strb data s
  | .deliveryDoorbell queue strb data => Sys2Proof.Machine.execDeliveryDoorbell queue strb data s
  | .disallowedTargetAccess write addr strb priv tag => Sys2Proof.Machine.execDisallowedTargetAccess write addr strb priv tag s
  | .noticeRead strb priv tag => Sys2Proof.Machine.execNoticeRead strb priv tag s
  | .memReadResponse channel tag status data => Sys2Proof.Machine.execMemReadResponse channel tag status data s
  | .memWriteResponse channel tag status => Sys2Proof.Machine.execMemWriteResponse channel tag status s
  | .memWatchdogExpiry channel write tag => Sys2Proof.Machine.execMemWatchdogExpiry channel write tag s
  | .memLateResponse channel write tag => Sys2Proof.Machine.execMemLateResponse channel write tag s
  | .committedWriteReissue channel tag => Sys2Proof.Machine.execCommittedWriteReissue channel tag s
  | .commandDispatch => Sys2Proof.Machine.execCommandDispatch s
  | .creditReturn part count => Sys2Proof.Machine.execCreditReturn part count s
  | .reportBeat channel data => Sys2Proof.Machine.execReportBeat channel data s
  | .completionRecord channel data => Sys2Proof.Machine.execCompletionRecord channel data s
  | .funnelRead => Sys2Proof.Machine.execFunnelRead s
  | .cmdWatchdogExpiry tag => Sys2Proof.Machine.execCmdWatchdogExpiry tag s
  | .drainAck part => Sys2Proof.Machine.execDrainAck part s
  | .drainEnd part => Sys2Proof.Machine.execDrainEnd part s
  | .drainTimeout part => Sys2Proof.Machine.execDrainTimeout part s
  | .contextDone data => Sys2Proof.Machine.execContextDone data s
  | .contextTimeout part => Sys2Proof.Machine.execContextTimeout part s
  | .tileTransfer lane hdr data crc => Sys2Proof.Machine.execTileTransfer lane hdr data crc s
  | .replayNak data => Sys2Proof.Machine.execReplayNak data s
  | .replayTimeout facet position => Sys2Proof.Machine.execReplayTimeout facet position s
  | .tokenReturn count => Sys2Proof.Machine.execTokenReturn count s
  | .dictRead path => Sys2Proof.Machine.execDictRead path s
  | .dictWrite path => Sys2Proof.Machine.execDictWrite path s
  | .dictInfo path => Sys2Proof.Machine.execDictInfo path s
  | .rspDoneClear => Sys2Proof.Machine.execRspDoneClear s
  | .snapshotExpiry path => Sys2Proof.Machine.execSnapshotExpiry path s
  | .stagedWriteExpiry path => Sys2Proof.Machine.execStagedWriteExpiry path s
  | .mctpPacket packet => Sys2Proof.Machine.execMctpPacket packet s
  | .entdaa address => Sys2Proof.Machine.execEntdaa address s
  | .enec events => Sys2Proof.Machine.execEnec events s
  | .disec events => Sys2Proof.Machine.execDisec events s
  | .rstdaa => Sys2Proof.Machine.execRstdaa s
  | .getpid => Sys2Proof.Machine.execGetpid s
  | .getbcr => Sys2Proof.Machine.execGetbcr s
  | .getdcr => Sys2Proof.Machine.execGetdcr s
  | .getstatus => Sys2Proof.Machine.execGetstatus s
  | .getmrl => Sys2Proof.Machine.execGetmrl s
  | .getmwl => Sys2Proof.Machine.execGetmwl s
  | .setmrl length => Sys2Proof.Machine.execSetmrl length s
  | .setmwl length => Sys2Proof.Machine.execSetmwl length s
  | .rstact action => Sys2Proof.Machine.execRstact action s
  | .pImageWrite => Sys2Proof.Machine.execPImageWrite s
  | .retentionRecordWrite => Sys2Proof.Machine.execRetentionRecordWrite s
  | .highWaterSave => Sys2Proof.Machine.execHighWaterSave s
  | .pDefaults path => Sys2Proof.Machine.execPDefaults path s
  | .requestConfig path => Sys2Proof.Machine.execRequestConfig path s
  | .requestOperational path => Sys2Proof.Machine.execRequestOperational path s
  | .requestQuiesced path => Sys2Proof.Machine.execRequestQuiesced path s
  | .engineDrainComplete => Sys2Proof.Machine.execEngineDrainComplete s
  | .drainLimitExpiry => Sys2Proof.Machine.execDrainLimitExpiry s
  | .featureAcceptWrite path => Sys2Proof.Machine.execFeatureAcceptWrite path s
  | .newEntry ring entry prompt => Sys2Proof.Machine.execNewEntry ring entry prompt s
  | .cancelEntry ring entry => Sys2Proof.Machine.execCancelEntry ring entry s
  | .heldRingReevaluate ring entry prompt => Sys2Proof.Machine.execHeldRingReevaluate ring entry prompt s
  | .ringEnable path => Sys2Proof.Machine.execRingEnable path s
  | .ringDisable path => Sys2Proof.Machine.execRingDisable path s
  | .queueEnable path => Sys2Proof.Machine.execQueueEnable path s
  | .queueDisable path => Sys2Proof.Machine.execQueueDisable path s
  | .deferredStart slot => Sys2Proof.Machine.execDeferredStart slot s
  | .budgetPeriodBoundary => Sys2Proof.Machine.execBudgetPeriodBoundary s
  | .cancelHandle path => Sys2Proof.Machine.execCancelHandle path s
  | .hotFill slot => Sys2Proof.Machine.execHotFill slot s
  | .queuePublication queue => Sys2Proof.Machine.execQueuePublication queue s
  | .forwardMessage message prompt => Sys2Proof.Machine.execForwardMessage message prompt s
  | .liveMessage message => Sys2Proof.Machine.execLiveMessage message s
  | .replyMessage message => Sys2Proof.Machine.execReplyMessage message s
  | .migrateHandle path => Sys2Proof.Machine.execMigrateHandle path s
  | .migrateTimeout msgId => Sys2Proof.Machine.execMigrateTimeout msgId s
  | .poolEnable path => Sys2Proof.Machine.execPoolEnable path s
  | .poolDisable path => Sys2Proof.Machine.execPoolDisable path s
  | .poolNoticeRead path => Sys2Proof.Machine.execPoolNoticeRead path s
  | .pageReclaim pool => Sys2Proof.Machine.execPageReclaim pool s
  | .pageEvict pool => Sys2Proof.Machine.execPageEvict pool s
  | .pageRecall pool => Sys2Proof.Machine.execPageRecall pool s
  | .planComplete facet => Sys2Proof.Machine.execPlanComplete facet s
  | .binBuildComplete facet group entry => Sys2Proof.Machine.execBinBuildComplete facet group entry s
  | .facetRequestUnassigned path => Sys2Proof.Machine.execFacetRequestUnassigned path s
  | .facetRequestStandby path => Sys2Proof.Machine.execFacetRequestStandby path s
  | .facetRequestActive path => Sys2Proof.Machine.execFacetRequestActive path s
  | .facetRequestDraining path => Sys2Proof.Machine.execFacetRequestDraining path s
  | .facetPartsWrite path => Sys2Proof.Machine.execFacetPartsWrite path s
  | .facetModeWrite path => Sys2Proof.Machine.execFacetModeWrite path s
  | .markWrite path => Sys2Proof.Machine.execMarkWrite path s
  | .pinnedEnableWrite path => Sys2Proof.Machine.execPinnedEnableWrite path s
  | .descriptorZeroCounter tag => Sys2Proof.Machine.execDescriptorZeroCounter tag s
  | .jobStart path => Sys2Proof.Machine.execJobStart path s
  | .jobTeardown path => Sys2Proof.Machine.execJobTeardown path s
  | .jobGraphLoaded facet urgent graph semTable offload => Sys2Proof.Machine.execJobGraphLoaded facet urgent graph semTable offload s
  | .iterationLoad facet urgent => Sys2Proof.Machine.execIterationLoad facet urgent s
  | .gateReady facet urgent => Sys2Proof.Machine.execGateReady facet urgent s
  | .teardownComplete facet urgent => Sys2Proof.Machine.execTeardownComplete facet urgent s
  | .watermarkNoticeRead path => Sys2Proof.Machine.execWatermarkNoticeRead path s
  | .partWaitMaxRead path => Sys2Proof.Machine.execPartWaitMaxRead path s
  | .firmwareBlockRequest pair stream counter unit24 => Sys2Proof.Machine.execFirmwareBlockRequest pair stream counter unit24 s
  | .policyProposal pair facet sequences positions => Sys2Proof.Machine.execPolicyProposal pair facet sequences positions s
  | .shapeProposal pair handle slot valid => Sys2Proof.Machine.execShapeProposal pair handle slot valid s
  | .helixSelfCheck lane w0 w1 => Sys2Proof.Machine.execHelixSelfCheck lane w0 w1 s
  | .helixProbeRead path => Sys2Proof.Machine.execHelixProbeRead path s
  | .sampleResult facet step position => Sys2Proof.Machine.execSampleResult facet step position s
  | .maskSlotLoad path => Sys2Proof.Machine.execMaskSlotLoad path s
  | .hullMaxRead path => Sys2Proof.Machine.execHullMaxRead path s
  | .secantWalk facet slot => Sys2Proof.Machine.execSecantWalk facet slot s
  | .shapeTableWrite path => Sys2Proof.Machine.execShapeTableWrite path s
  | .generationSliceEnd facet => Sys2Proof.Machine.execGenerationSliceEnd facet s
  | .urgentStart path => Sys2Proof.Machine.execUrgentStart path s
  | .urgentTeardown path => Sys2Proof.Machine.execUrgentTeardown path s
  | .semaphoreDonation sem => Sys2Proof.Machine.execSemaphoreDonation sem s
  | .donationOverrun sem => Sys2Proof.Machine.execDonationOverrun sem s
  | .accountingPeriodBoundary => Sys2Proof.Machine.execAccountingPeriodBoundary s
  | .modelRegister path => Sys2Proof.Machine.execModelRegister path s
  | .modelActivate path => Sys2Proof.Machine.execModelActivate path s
  | .versionLoad path => Sys2Proof.Machine.execVersionLoad path s
  | .versionPublish path => Sys2Proof.Machine.execVersionPublish path s
  | .versionAbort path => Sys2Proof.Machine.execVersionAbort path s
  | .slotHandover model => Sys2Proof.Machine.execSlotHandover model s
  | .stalenessExpiry model => Sys2Proof.Machine.execStalenessExpiry model s
  | .updatePartWrite facet urgent => Sys2Proof.Machine.execUpdatePartWrite facet urgent s
  | .learnerDecision facet urgent => Sys2Proof.Machine.execLearnerDecision facet urgent s
  | .learnReset path => Sys2Proof.Machine.execLearnReset path s
  | .fedPoll produced units => Sys2Proof.Machine.execFedPoll produced units s
  | .fedVote source message => Sys2Proof.Machine.execFedVote source message s
  | .fedDecide source message => Sys2Proof.Machine.execFedDecide source message s
  | .fedVoteTimeout model => Sys2Proof.Machine.execFedVoteTimeout model s
  | .fedResolve path => Sys2Proof.Machine.execFedResolve path s
  | .sramEccError place => Sys2Proof.Machine.execSramEccError place s
  | .residueMismatch lane => Sys2Proof.Machine.execResidueMismatch lane s
  | .controlCopyMismatch which parityFails facet => Sys2Proof.Machine.execControlCopyMismatch which parityFails facet s
  | .lockstepDivergence pair => Sys2Proof.Machine.execLockstepDivergence pair s
  | .lockstepResyncComplete pair => Sys2Proof.Machine.execLockstepResyncComplete pair s
  | .facetResume path => Sys2Proof.Machine.execFacetResume path s
  | .backgroundSlot task => Sys2Proof.Machine.execBackgroundSlot task s
  | .bgEnable path => Sys2Proof.Machine.execBgEnable path s
  | .bgDisable path => Sys2Proof.Machine.execBgDisable path s
  | .bgShutdownComplete task => Sys2Proof.Machine.execBgShutdownComplete task s
  | .fwLoad path => Sys2Proof.Machine.execFwLoad path s
  | .fwLoadComplete digestOk => Sys2Proof.Machine.execFwLoadComplete digestOk s
  | .countsClear path => Sys2Proof.Machine.execCountsClear path s
  | .binFilterWrite path => Sys2Proof.Machine.execBinFilterWrite path s
  | .triggerFire path => Sys2Proof.Machine.execTriggerFire path s
  | .traceUnfreeze path => Sys2Proof.Machine.execTraceUnfreeze path s
  | .eventRecordAccept => Sys2Proof.Machine.execEventRecordAccept s
  | .rateWindowBoundary => Sys2Proof.Machine.execRateWindowBoundary s
  | .powerFailWarning => Sys2Proof.Machine.execPowerFailWarning s
  | .supplyHealthy => Sys2Proof.Machine.execSupplyHealthy s
  | .operatingHour => Sys2Proof.Machine.execOperatingHour s
  | .pointCapChange cap => Sys2Proof.Machine.execPointCapChange cap s
  | .pointAck current => Sys2Proof.Machine.execPointAck current s
  | .pointAckTimeout => Sys2Proof.Machine.execPointAckTimeout s
  | .facetGate facet => Sys2Proof.Machine.execFacetGate facet s
  | .facetUp facet => Sys2Proof.Machine.execFacetUp facet s
  | .facetUpTimeout facet => Sys2Proof.Machine.execFacetUpTimeout facet s
  | .retainRequest => Sys2Proof.Machine.execRetainRequest s
  | .rsFlushAck => Sys2Proof.Machine.execRsFlushAck s
  | .wakeComparator index => Sys2Proof.Machine.execWakeComparator index s
  | .subWake count => Sys2Proof.Machine.execSubWake count s
  | .wakeRequest => Sys2Proof.Machine.execWakeRequest s
  | .wakeCauseRead path => Sys2Proof.Machine.execWakeCauseRead path s
  | .aonPorAssert => Sys2Proof.Machine.execAonPorAssert s
  | .drainAckFall part => Sys2Proof.Machine.execDrainAckFall part s
  | .pointAckFall => Sys2Proof.Machine.execPointAckFall s
  | .retainRequestWithdrawn => Sys2Proof.Machine.execRetainRequestWithdrawn s
  | .facetUpFall facet => Sys2Proof.Machine.execFacetUpFall facet s
  | .windowRegisterWrite offset strb data => Sys2Proof.Machine.execWindowRegisterWrite offset strb data s
  | .i3cPrivateRead => Sys2Proof.Machine.execI3cPrivateRead s
  | .victimProposal pair handles => Sys2Proof.Machine.execVictimProposal pair handles s
  | .tapInstruction op => Sys2Proof.Machine.execTapInstruction op s

end Sys2Proof.Machine
end

