-- ==== Sys2Proof/Safety.lean ====
section
/-! DEFINITION. Runs of the machine, what counts as a safe one, and the terms in which statements say what a command leaves. -/

namespace Sys2Proof

open Sys2Proof.Machine

/-- One step leads from `s` to `t`. -/
def StepsTo (s t : State) : Prop := step s = .next t

/-- A run: any number of steps. -/
inductive Reaches : State → State → Prop where
  | refl (s : State) : Reaches s s
  | tail (s t u : State) : Reaches s t → StepsTo t u → Reaches s u

/-- A state from which the next step neither faults nor is refused. -/
def Safe (s : State) : Prop := ∃ t, StepsTo s t

end Sys2Proof

namespace Sys2Proof.Machine

open Sys2Proof

/-! ## The core island apart from observation -/

/-- A core island without what the end of a command may write, and without the place of its commands in the cc. -/
def Hw.body (h : Hw) : Hw :=
  { h with od := [], ccNext := 0, ccOnce := [], events := Hw.reset.events, trace := Hw.reset.trace, irq := Hw.reset.irq, faults := [] }

/-- Keys of the dictionary values that observation writes at the end of a command. -/
def obsKey (k : Nat) : Bool := decide (odKey 0xB000 0 0 ≤ k) && decide (k < odKey 0xC020 0 0)

/-- What is read outside those keys. -/
def Hw.odOut (h : Hw) : Nat → Option Nat := fun k => if obsKey k then none else Map.find? h.od k

/-- What a small change of observation keeps: all but the trace, events, vectors and the keys of observation. -/
structure Hw.SameOut (a b : Hw) : Prop where
  body : a.body = b.body
  od   : a.odOut = b.odOut

/-- A command leaves the core island `h` apart from observation, and the queue, the window and the Gnomon island as they were. -/
structure State.Leaves (s t : State) (h : Hw) : Prop where
  pending : t.pending = s.pending
  win     : t.win = s.win
  gnm     : t.gnm = s.gnm
  hw      : Hw.SameOut t.hw h

/-- A core island with just these transfers on its output ports. -/
def Hw.sends (h : Hw) (l : List PortOut) : Hw := { h with out := l }

/-- Occurrences counted in an event family (0xC030). -/
def Hw.occurred (h : Hw) (fam : Nat) : Nat := h.get 0xC030 (fam + 1)

/-- Nothing is left over from an earlier command: no event raised, record made, trigger fired or fault found. -/
def Hw.Quiet (h : Hw) : Prop := h.events.raised = [] ∧ h.trace.made = [] ∧ h.trace.fired = [] ∧ h.faults = []

/-- The core island runs, no command has yet been carried out in the present core cycle, and nothing is left over from an earlier one. In any
other live state a command is carried out in this cycle after those that it comes behind, or else in the next (`State.enterCc`). -/
structure State.Ready (s : State) : Prop where
  live  : s.live = true
  first : s.hw.ccNext = 0
  once  : s.hw.ccOnce = []
  quiet : s.hw.Quiet

/-- A core island in which a command takes its part of the core cycle. -/
def Hw.started (h : Hw) (c : CcPart) : Hw := { h with out := [], ccNext := c.rank + 1 }

/-! ## Requests of the dictionary -/

/-- The machine on which a path's dictionary command serves its request. -/
def State.begun (s : State) (p : Path) : State := { s with hw := (s.hw.started (s.servePart p)).begin 0 }

/-- The request leaves less than 24 KiB of P changes unwritten, so that no write of the P image comes with it (R416). -/
def State.ImageRoom (s : State) (p : Path) : Prop := ((s.begun p).serveOne p fun _ => true).pendingBytes < 24576

/-- The request that a path's dictionary command serves: the window's while it is busy, or the oldest of the sideband, where it is the first
in line of both paths (R108). -/
def State.request? (s : State) : Path → Option Req
  | .window => if s.win.busy && s.windowFirst then some s.windowReq else none
  | .ddp => match s.hw.side.requests with
    | [] => none
    | (cc, _, l) :: _ => if s.win.busy && decide (s.win.order ≤ cc) then none else some (ddpReq l)

/-- The path's next request is a READ of a scalar entry. -/
def State.AsksRead (s : State) (p : Path) (idx sub : Nat) : Prop :=
  s.ImageRoom p ∧ ∃ r, s.request? p = some r ∧ r.path = p ∧ r.bad = false ∧ r.op = 0 ∧ r.idx = idx ∧ r.sub = sub ∧ r.offset = 0 ∧
    r.length = sizeOf idx sub

/-- The path's next request is a WRITE of the value `v` to a scalar entry, in the entry's size; the sideband's is allowed (R114). -/
def State.AsksWrite (s : State) (p : Path) (idx sub v : Nat) : Prop :=
  (p = .ddp → s.hw.featureForWrites 11 = true) ∧
  s.ImageRoom p ∧ ∃ r, s.request? p = some r ∧ r.path = p ∧ r.bad = false ∧ r.op = 1 ∧ r.idx = idx ∧ r.sub = sub ∧ r.offset = 0 ∧
    r.length = sizeOf idx sub ∧ r.value = v

/-- The path's next request is a WRITE that carries a DOMAIN entry's whole value `l` and commits it. -/
def State.AsksCommit (s : State) (p : Path) (idx sub : Nat) (l : List Byte) : Prop :=
  (p = .ddp → s.hw.featureForWrites 11 = true) ∧
  s.ImageRoom p ∧ ∃ r, s.request? p = some r ∧ r.path = p ∧ r.bad = false ∧ r.op = 1 ∧ r.idx = idx ∧ r.sub = sub ∧ r.offset = 2 ^ 31 ∧
    r.length ≤ segmentMax p ∧ r.data = l

/-- The path's request was answered with a status: the window shows it done with that status, or the sideband's request has left its
queue and the packets of a response with that status wait for its sender (R104, R106). -/
def State.Answered (s t : State) (st : Status) : Path → Prop
  | .window => t.win.busy = false ∧ t.win.done = true ∧ t.win.status = st.code ∧ t.win.served = (s.win.served + 1) % 2 ^ 64
  | .ddp => t.hw.side.requests = s.hw.side.requests.drop 1 ∧
    ∃ cc who q l, s.hw.side.requests.head? = some (cc, who, q) ∧ l[7]? = some (BitVec.ofNat 8 st.code) ∧
      t.hw.side.responses = s.hw.side.responses ++ packetsOf (who / 8) (who % 8) 17 0 (ddpPrefix ++ l)

/-! ## Messages -/

/-- A commit message of a kind that the federation takes for a model: long enough, with its CRC, a kind, a verdict and a key of its own
(R355, Table 14.7). -/
def Hw.takesCommit (h : Hw) (kind : Nat) (l : List Byte) (m : Nat) : Prop :=
  h.fedOn = true ∧ 64 ≤ l.length ∧ leBytes 4 (crc32c (slice l 0 60)).toNat = slice l 60 4 ∧ fieldAt l 0 1 = kind ∧ fieldAt l 1 1 ≤ 3 ∧
    h.keyModel (fieldAt l 4 4) = some m

/-! ## The window's buffer -/

/-- The canonical form of DATA: addresses strictly rising, and no byte listed that an unlisted address reads as. -/
def Memory.wf : List Host.Cell → Bool
  | [] => true
  | [c] => c.2 != 0
  | c :: d :: r => c.2 != 0 && decide (c.1 < d.1) && Memory.wf (d :: r)

end Sys2Proof.Machine
end

