-- ==== Sys2Proof/Certificates/Slice0/Obligations.lean ====
section
/-! DEFINITION. The statements for the provers. `Ready`, `Leaves`, `SameOut`, `AsksWrite` and the like are in Sys2Proof/Safety.lean: a `Ready`
machine runs and has not yet carried out a command in its present core cycle. -/

open Sys2Proof Sys2Proof.Machine

/-! ## The dictionary -/

/-- R110 to R112: STATE_REQUEST. From OPERATIONAL, QUIESCED and CONFIG start the drain, in which every ACTIVE facet drains and only CONFIG is
recorded as the target; from QUIESCED, CONFIG and OPERATIONAL are entered at once, OPERATIONAL also from CONFIG while a facet is in STANDBY, with
the accepted features active; in DRAINING each request replaces or clears the target. OPERATIONAL asks that the table region hold the blocks
that it needs, and otherwise answers STATE. A change of state keeps the state left in 0x1103. The check of the table region at each request is the
model's reading of log entry 82. -/
def Obligations.EngineStateRequests : Prop :=
  ∀ (s : State) (p : Path), s.Ready →
    (s.AsksWrite p 0x1101 1 6 → s.hw.eng.state = .operational →
      ∃ t, exec (.requestQuiesced p) s = .next t ∧ s.Answered t .ok p ∧ t.hw.eng.state = .draining ∧ t.hw.eng.pendingTarget = none ∧
        t.hw.get 0x1103 1 = 4 ∧
        ∀ f : Fin 16, (t.hw.facet f).state = if (s.hw.facet f).state = .active then .draining else (s.hw.facet f).state) ∧
    (s.AsksWrite p 0x1101 1 3 → s.hw.eng.state = .operational →
      ∃ t, exec (.requestConfig p) s = .next t ∧ s.Answered t .ok p ∧ t.hw.eng.state = .draining ∧
        t.hw.eng.pendingTarget = some .config ∧ t.hw.get 0x1103 1 = 4 ∧
        ∀ f : Fin 16, (t.hw.facet f).state = if (s.hw.facet f).state = .active then .draining else (s.hw.facet f).state) ∧
    (s.AsksWrite p 0x1101 1 3 → s.hw.eng.state = .quiesced →
      ∃ t, exec (.requestConfig p) s = .next t ∧ s.Answered t .ok p ∧ t.hw.eng.state = .config ∧ t.hw.get 0x1103 1 = 6 ∧
        t.hw.facets = s.hw.facets) ∧
    (s.AsksWrite p 0x1101 1 4 → s.hw.eng.state = .quiesced → s.hw.tableShort = false →
      ∃ t, exec (.requestOperational p) s = .next t ∧ s.Answered t .ok p ∧ t.hw.eng.state = .operational ∧ t.hw.get 0x1103 1 = 6 ∧
        t.hw.facets = s.hw.facets) ∧
    (s.AsksWrite p 0x1101 1 4 → s.hw.eng.state = .config → (∃ f : Fin 16, (s.hw.facet f).state = .standby) → s.hw.tableShort = false →
      ∃ t, exec (.requestOperational p) s = .next t ∧ s.Answered t .ok p ∧ t.hw.eng.state = .operational ∧ t.hw.get 0x1103 1 = 3 ∧
        t.hw.facets = s.hw.facets ∧ ∀ i : Fin 4, t.hw.get 0x1012 (i + 1) = s.hw.get 0x1011 (i + 1)) ∧
    (s.AsksWrite p 0x1101 1 4 → s.hw.eng.state = .quiesced ∨ s.hw.eng.state = .draining → s.hw.tableShort = true →
      ∃ t, exec (.requestOperational p) s = .next t ∧ s.Answered t .state p ∧ t.hw.eng = s.hw.eng) ∧
    (s.AsksWrite p 0x1101 1 4 → s.hw.eng.state = .draining → s.hw.tableShort = false →
      ∃ t, exec (.requestOperational p) s = .next t ∧ s.Answered t .ok p ∧ t.hw.eng = { s.hw.eng with pendingTarget := some .operational }) ∧
    (s.AsksWrite p 0x1101 1 3 → s.hw.eng.state = .draining →
      ∃ t, exec (.requestConfig p) s = .next t ∧ s.Answered t .ok p ∧ t.hw.eng = { s.hw.eng with pendingTarget := some .config }) ∧
    (s.AsksWrite p 0x1101 1 6 → s.hw.eng.state = .draining →
      ∃ t, exec (.requestQuiesced p) s = .next t ∧ s.Answered t .ok p ∧ t.hw.eng = { s.hw.eng with pendingTarget := none })

/-- R101, R113: in CONFIG, an accept set within the features that the engine offers, with every feature that an accepted one needs, is stored,
and one with a feature that the engine does not offer is refused with RANGE; and P_DEFAULTS leaves every entry of the P image at its default,
except the counters that R100 reserves, and an image that holds no value but those counters'. -/
def Obligations.FeaturesAndDefaults : Prop :=
  ∀ (s : State) (p : Path), s.Ready → s.hw.eng.state = .config →
    (∀ (k : Fin 4) (v : Nat), s.AsksWrite p 0x1011 (k + 1) v → v &&& s.hw.get 0x1010 (k + 1) = v →
      (∀ e ∈ featureNeeds, ((s.hw.set 0x1011 (k + 1) v).get 0x1011 (e.1 / 64 + 1)).testBit (e.1 % 64) = true →
        ((s.hw.set 0x1011 (k + 1) v).get 0x1011 (e.2 / 64 + 1)).testBit (e.2 % 64) = true) →
      ∃ t, exec (.featureAcceptWrite p) s = .next t ∧ s.Answered t .ok p ∧ t.hw.get 0x1011 (k + 1) = v ∧
        ∀ j : Fin 4, j ≠ k → t.hw.get 0x1011 (j + 1) = s.hw.get 0x1011 (j + 1)) ∧
    (∀ (k : Fin 4) (v : Nat), s.AsksWrite p 0x1011 (k + 1) v → v &&& s.hw.get 0x1010 (k + 1) ≠ v →
      ∃ t, exec (.featureAcceptWrite p) s = .next t ∧ s.Answered t .range p ∧ ∀ j : Fin 4, t.hw.get 0x1011 (j + 1) = s.hw.get 0x1011 (j + 1)) ∧
    (s.AsksWrite p 0x1200 3 1 →
      ∃ t i, exec (.pDefaults p) s = .next t ∧ s.Answered t .ok p ∧ t.gnm.rs.image = some i ∧ i.ok = true ∧ i.domains = [] ∧
        (∀ e ∈ i.values, highWaterKeys.contains e.1 = true) ∧ (∀ j ∈ [4, 5, 8], t.gnm.get 0xD100 j = odDefault 0xD100 j) ∧
        ∀ idx sub obj x, keyEntry (odKey idx sub obj) = some x → inImage x = true → highWaterKeys.contains (odKey idx sub obj) = false →
          sub < 256 → obj < 65536 → t.hw.getAt idx sub obj = odDefault idx sub)

/-- R55, R117, R139: enabling a ring whose bases are 4 KiB-aligned, whose size is a power of two and whose tenant is enabled starts it with a
consumed and a latched count of 0 and no hold, and disabling one keeps its consumed and latched counts; enabling a queue whose base is
4 KiB-aligned, whose size is a power of two and whose tenant its facet takes starts it with four counts of 0; a queue of no live sequence
is disabled with its counts kept, and one of a live sequence is BUSY. Every other ring, or every ring, stays as it was. -/
def Obligations.RingAndQueueSwitches : Prop :=
  ∀ (s : State) (p : Path), s.Ready → s.hw.eng.state = .operational →
    (∀ r, r = s.hw.objOf p .ring → s.AsksWrite p 0x3011 6 1 → s.hw.getAt 0x3011 6 r = 0 → s.hw.getAt 0x3011 1 r % 4096 = 0 →
      s.hw.getAt 0x3011 2 r % 4096 = 0 → isPow2 (s.hw.getAt 0x3011 3 r) = true → s.hw.getAt 0x3101 1 (s.hw.getAt 0x3011 4 r) = 1 →
      ∃ t, exec (.ringEnable p) s = .next t ∧ s.Answered t .ok p ∧ t.hw.getAt 0x3011 6 r = 1 ∧ (t.hw.ring r).consumed = 0 ∧
        (t.hw.ring r).latched = 0 ∧ (t.hw.ring r).hold = 0 ∧ t.hw.queues = s.hw.queues ∧ t.hw.seqs = s.hw.seqs ∧
        ∀ k, k ≠ r → t.hw.ring k = s.hw.ring k) ∧
    (∀ r, r = s.hw.objOf p .ring → s.AsksWrite p 0x3011 6 0 → s.hw.getAt 0x3011 6 r = 1 →
      ∃ t, exec (.ringDisable p) s = .next t ∧ s.Answered t .ok p ∧ t.hw.getAt 0x3011 6 r = 0 ∧
        (t.hw.ring r).consumed = (s.hw.ring r).consumed ∧ (t.hw.ring r).latched = (s.hw.ring r).latched ∧ t.hw.queues = s.hw.queues ∧
        t.hw.seqs = s.hw.seqs ∧ ∀ k, k ≠ r → t.hw.ring k = s.hw.ring k) ∧
    (∀ q, q = s.hw.objOf p .queue → s.AsksWrite p 0x3021 6 1 → s.hw.queueOn q = false → s.hw.getAt 0x3021 1 q % 4096 = 0 →
      isPow2 (s.hw.queueSize q) = true → s.hw.queueFits (s.hw.queueFacet q) (s.hw.getAt 0x3021 3 q) = true →
      ∃ t, exec (.queueEnable p) s = .next t ∧ s.Answered t .ok p ∧ t.hw.getAt 0x3021 6 q = 1 ∧ (t.hw.queue q).w = 0 ∧
        (t.hw.queue q).k = 0 ∧ (t.hw.queue q).m = 0 ∧ (t.hw.queue q).c = 0 ∧ t.hw.rings = s.hw.rings ∧ t.hw.seqs = s.hw.seqs ∧
        ∀ k, k ≠ q → t.hw.queue k = s.hw.queue k) ∧
    (∀ q, q = s.hw.objOf p .queue → s.AsksWrite p 0x3021 6 0 → s.hw.queueOn q = true → (s.hw.seqs.any fun e => e.2.com.queue = q) = false →
      ∃ t, exec (.queueDisable p) s = .next t ∧ s.Answered t .ok p ∧ t.hw.getAt 0x3021 6 q = 0 ∧ t.hw.queues = s.hw.queues ∧
        t.hw.rings = s.hw.rings) ∧
    (∀ q, q = s.hw.objOf p .queue → s.AsksWrite p 0x3021 6 0 → s.hw.queueOn q = true → (s.hw.seqs.any fun e => e.2.com.queue = q) = true →
      ∃ t, exec (.queueDisable p) s = .next t ∧ s.Answered t .busy p ∧ t.hw.getAt 0x3021 6 q = s.hw.getAt 0x3021 6 q ∧
        t.hw.queues = s.hw.queues ∧ t.hw.rings = s.hw.rings)

/-- R130, R147, R150, R153: a cancel and a migration of a live handle are asked of its sequence and change no other one; a migration is taken only
of a DECODE sequence of at most 65,536 tokens (whether it has migrated in does not matter: the model's choice, log entry 126). Enabling a pool
whose sizes and bases are multiples of 4,096 makes all of its pages free, a host pool only where FEAT_HOST_POOL is accepted; disabling one that
is in no use drops its prefix entries and no others, and one in use is BUSY; and a read of a pool's notice starts it again. -/
def Obligations.HandleAndPoolRequests : Prop :=
  (∀ (s : State) (p : Path) (v slot : Nat) (q : Seq), s.Ready → s.hw.eng.state = .operational →
    s.hw.liveSlot v = some slot → s.hw.seq? slot = some q →
    (s.AsksWrite p 0x3302 1 v →
      ∃ t, exec (.cancelHandle p) s = .next t ∧ s.Answered t .ok p ∧
        t.hw.seq? slot = some { q with cancelAsked := some (q.cancelAsked.getD .cancel) } ∧ ∀ k, k ≠ slot → t.hw.seq? k = s.hw.seq? k) ∧
    (s.AsksWrite p 0x3303 1 v → s.hw.feature 3 = true → q.com.state = .decode → q.com.promptLen + q.com.generated ≤ 65536 →
      ∃ t, exec (.migrateHandle p) s = .next t ∧ s.Answered t .ok p ∧
        t.hw.seq? slot = some { q with migrateAsked := true } ∧ ∀ k, k ≠ slot → t.hw.seq? k = s.hw.seq? k) ∧
    (s.AsksWrite p 0x3303 1 v → s.hw.feature 3 = true → q.com.state ≠ .decode ∨ 65536 < q.com.promptLen + q.com.generated →
      ∃ t, exec (.migrateHandle p) s = .next t ∧ s.Answered t .range p ∧ t.hw.seqs = s.hw.seqs)) ∧
  ∀ (s : State) (p : Path) (k : Nat), s.Ready → s.hw.eng.state = .config → k = s.hw.objOf p .pool →
    (s.AsksWrite p 0x4001 8 1 → s.hw.poolOn k = false → (s.hw.hostPool k = true → s.hw.featureForWrites 7 = true) →
      s.hw.getAt 0x4001 1 k % 4096 = 0 → s.hw.getAt 0x4001 6 k % 4096 = 0 → s.hw.getAt 0x4001 7 k % 4096 = 0 →
      s.hw.getAt 0x4001 2 k % 4096 = 0 →
      ∃ t, exec (.poolEnable p) s = .next t ∧ s.Answered t .ok p ∧ t.hw.getAt 0x4001 8 k = 1 ∧
        t.hw.pool k = { Pool.reset with minFree := (s.hw.pool k).minFree, crossings := (s.hw.pool k).crossings } ∧
        t.hw.pages.index = s.hw.pages.index ∧ ∀ j, j ≠ k → t.hw.pool j = s.hw.pool j) ∧
    (s.AsksWrite p 0x4001 8 0 → s.hw.poolOn k = true → s.hw.poolUsed k = false →
      ∃ t, exec (.poolDisable p) s = .next t ∧ s.Answered t .ok p ∧ t.hw.getAt 0x4001 8 k = 0 ∧
        t.hw.pages.index = s.hw.pages.index.filter fun e => !(e.pool == k)) ∧
    (s.AsksWrite p 0x4001 8 0 → s.hw.poolOn k = true → s.hw.poolUsed k = true →
      ∃ t, exec (.poolDisable p) s = .next t ∧ s.Answered t .busy p ∧ t.hw.pages = s.hw.pages) ∧
    (s.AsksRead p 0x4001 0xC →
      ∃ t, exec (.poolNoticeRead p) s = .next t ∧ s.Answered t .ok p ∧
        t.hw.pool k = { s.hw.pool k with minFree := none, crossings := 0 } ∧ (∀ j, j ≠ k → t.hw.pool j = s.hw.pool j) ∧ t.hw.seqs = s.hw.seqs)
/-- R200 to R202, R371, R410, R411: FACET_REQUEST. UNASSIGNED from STANDBY or HALTED keeps the partitions; STANDBY from UNASSIGNED asks for a
partition and a mode; ACTIVE from STANDBY asks for 16 MiB of argument space, and a facet whose clock is gated or whose `aon_facet_up` is low
goes on in STANDBY, driven at a level other than 0, until the pin is high (the model reads R411 so for both: log entry 133); DRAINING follows
ACTIVE. FACET_RESUME takes a HALTED facet with a partition to STANDBY, unless a job is PENDING. What the state does not allow is answered
STATE, and in every case no other facet changes. -/
def Obligations.FacetRequests : Prop :=
  ∀ (s : State) (p : Path) (f : Fin 16), s.Ready → s.hw.eng.state = .operational →
    (s.AsksWrite p 0x5003 (f + 1) 0 → (s.hw.facet f).state = .standby ∨ (s.hw.facet f).state = .halted →
      ∃ t, exec (.facetRequestUnassigned p) s = .next t ∧ s.Answered t .ok p ∧ (t.hw.facet f).state = .unassigned ∧
        t.hw.raw 0x5000 (f + 1) = s.hw.raw 0x5000 (f + 1) ∧ ∀ k : Fin 16, k ≠ f → t.hw.facet k = s.hw.facet k) ∧
    (s.AsksWrite p 0x5003 (f + 1) 0 → (s.hw.facet f).state = .active →
      ∃ t, exec (.facetRequestUnassigned p) s = .next t ∧ s.Answered t .state p ∧ t.hw.facets = s.hw.facets) ∧
    (s.AsksWrite p 0x5003 (f + 1) 1 → (s.hw.facet f).state = .unassigned → s.hw.facetParts f ≠ [] → s.hw.mode f < 4 →
      ∃ t, exec (.facetRequestStandby p) s = .next t ∧ s.Answered t .ok p ∧ (t.hw.facet f).state = .standby ∧
        ∀ k : Fin 16, k ≠ f → t.hw.facet k = s.hw.facet k) ∧
    (s.AsksWrite p 0x5003 (f + 1) 1 → (s.hw.facet f).state ≠ .unassigned ∨ s.hw.facetParts f = [] →
      ∃ t, exec (.facetRequestStandby p) s = .next t ∧ s.Answered t .state p ∧ t.hw.facets = s.hw.facets) ∧
    (s.AsksWrite p 0x5003 (f + 1) 2 → (s.hw.facet f).state = .standby → (s.hw.facet f).waitingUp = none →
      16 * 2 ^ 20 ≤ s.hw.raw 0x5021 (f + 1) → s.hw.raw 0xD010 (f + 1) ≠ 0 → s.hw.pins.facetUp.testBit f = true →
      ∃ t, exec (.facetRequestActive p) s = .next t ∧ s.Answered t .ok p ∧ (t.hw.facet f).state = .active ∧
        ∀ k : Fin 16, k ≠ f → t.hw.facet k = s.hw.facet k) ∧
    (s.AsksWrite p 0x5003 (f + 1) 2 → (s.hw.facet f).state = .standby → (s.hw.facet f).waitingUp = none →
      16 * 2 ^ 20 ≤ s.hw.raw 0x5021 (f + 1) → s.hw.raw 0xD010 (f + 1) = 0 ∨ s.hw.pins.facetUp.testBit f = false →
      ∃ t, exec (.facetRequestActive p) s = .next t ∧ s.Answered t .ok p ∧ (t.hw.facet f).state = .standby ∧
        (t.hw.facet f).waitingUp = some .active ∧
        t.hw.raw 0xD010 (f + 1) = (if s.hw.raw 0xD010 (f + 1) = 0 then s.hw.workLevel f else s.hw.raw 0xD010 (f + 1)) ∧
        ∀ k : Fin 16, k ≠ f → t.hw.facet k = s.hw.facet k) ∧
    (s.AsksWrite p 0x5003 (f + 1) 2 → (s.hw.facet f).state ≠ .standby ∨ s.hw.raw 0x5021 (f + 1) < 16 * 2 ^ 20 →
      ∃ t, exec (.facetRequestActive p) s = .next t ∧ s.Answered t .state p ∧ t.hw.facets = s.hw.facets) ∧
    (s.AsksWrite p 0x5003 (f + 1) 4 → (s.hw.facet f).state = .active →
      ∃ t, exec (.facetRequestDraining p) s = .next t ∧ s.Answered t .ok p ∧
        t.hw.facet f = { s.hw.facet f with state := .draining } ∧ ∀ k : Fin 16, k ≠ f → t.hw.facet k = s.hw.facet k) ∧
    (s.AsksWrite p 0x5003 (f + 1) 4 → (s.hw.facet f).state ≠ .active →
      ∃ t, exec (.facetRequestDraining p) s = .next t ∧ s.Answered t .state p ∧ t.hw.facets = s.hw.facets) ∧
    (s.AsksWrite p 0xA005 (f + 1) 1 → (s.hw.facet f).state = .halted → s.hw.facetParts f ≠ [] → (s.hw.job f false).state ≠ .pending →
      ∃ t, exec (.facetResume p) s = .next t ∧ s.Answered t .ok p ∧ (t.hw.facet f).state = .standby ∧
        ∀ k : Fin 16, k ≠ f → t.hw.facet k = s.hw.facet k) ∧
    (s.AsksWrite p 0xA005 (f + 1) 1 → (s.hw.facet f).state ≠ .halted ∨ s.hw.facetParts f = [] →
      ∃ t, exec (.facetResume p) s = .next t ∧ s.Answered t .state p ∧ t.hw.facets = s.hw.facets)

/-- R16, R31, R32, R200, R203: on an UNASSIGNED facet or one in STANDBY, partitions are taken where no other facet has them, none is masked,
and the descriptors of the facets that then have partitions are at most half of all (R205), and on an ACTIVE one a change is BUSY; a mode
loads the five marks of its set as the staged ones and makes them a pending set (on a facet that runs a step it is not ready before that step
ends); a mark is staged where the five satisfy R31, and is else refused with RANGE; and a pinned batch of live, distinct handles of the facet
that its mode admits is enabled. None of these changes another facet. That masking leaves FACET_PARTS as written and
that writing the value it holds is no change is the model's reading (log entries 80 and 81). -/
def Obligations.FacetConfiguration : Prop :=
  ∀ (s : State) (p : Path) (f : Fin 16) (v : Nat), s.Ready → s.hw.eng.state = .operational →
    (s.AsksWrite p 0x5000 (f + 1) v → (s.hw.facet f).state = .unassigned ∨ (s.hw.facet f).state = .standby ∧ v ≠ 0 →
      v < 2 ^ s.hw.get 0x1000 8 → v &&& s.hw.raw 0x2201 1 = 0 →
      v &&& ((List.range 16).filter fun g => g ≠ f.val).foldl (fun a g => a ||| s.hw.raw 0x5000 (g + 1)) 0 = 0 →
      (s.hw.set 0x5000 (f + 1) v).descSumOk (s.hw.set 0x5000 (f + 1) v).withParts = true →
      ∃ t, exec (.facetPartsWrite p) s = .next t ∧ s.Answered t .ok p ∧ t.hw.raw 0x5000 (f + 1) = v ∧ t.hw.facets = s.hw.facets ∧
        ∀ k : Fin 16, k ≠ f → t.hw.raw 0x5000 (k + 1) = s.hw.raw 0x5000 (k + 1)) ∧
    (s.AsksWrite p 0x5000 (f + 1) v → (s.hw.facet f).state = .active → v ≠ s.hw.raw 0x5000 (f + 1) →
      ∃ t, exec (.facetPartsWrite p) s = .next t ∧ s.Answered t .busy p ∧ t.hw.raw 0x5000 (f + 1) = s.hw.raw 0x5000 (f + 1) ∧
        t.hw.facets = s.hw.facets) ∧
    (s.AsksWrite p 0x5001 (f + 1) v → v < 4 →
      ∃ t, exec (.facetModeWrite p) s = .next t ∧ s.Answered t .ok p ∧ t.hw.mode f = v ∧
        (∀ i : Fin 5, t.hw.get (0x5200 + i) (f + 1) = s.hw.get (0x5100 + v) (8 + i)) ∧
        t.hw.facet f = { s.hw.facet f with setPending := true, setReady := !(s.hw.facet f).state.runs } ∧
        ∀ k : Fin 16, k ≠ f → t.hw.facet k = s.hw.facet k) ∧
    (∀ i : Fin 5, s.AsksWrite p (0x5200 + i) (f + 1) v →
      marksOk ((List.range 5).map fun k => if k = i.val then v else s.hw.get (0x5200 + k) (f + 1)) = true →
      ∃ t, exec (.markWrite p) s = .next t ∧ s.Answered t .ok p ∧ t.hw.get (0x5200 + i) (f + 1) = v ∧ t.hw.facets = s.hw.facets ∧
        ∀ j : Fin 5, j ≠ i → t.hw.get (0x5200 + j) (f + 1) = s.hw.get (0x5200 + j) (f + 1)) ∧
    (∀ i : Fin 5, s.AsksWrite p (0x5200 + i) (f + 1) v →
      marksOk ((List.range 5).map fun k => if k = i.val then v else s.hw.get (0x5200 + k) (f + 1)) = false →
      ∃ t, exec (.markWrite p) s = .next t ∧ s.Answered t .range p ∧ t.hw.facets = s.hw.facets ∧
        ∀ j : Fin 5, t.hw.get (0x5200 + j) (f + 1) = s.hw.get (0x5200 + j) (f + 1)) ∧
    (s.AsksWrite p 0x5031 (f + 1) 1 → s.hw.feature 63 = true → s.hw.pinnedList f ≠ [] →
      (distinct (s.hw.pinnedList f)).length = (s.hw.pinnedList f).length → (s.hw.pinnedList f).length ≤ s.hw.modeParam f 2 →
      (∀ x ∈ s.hw.pinnedList f, ∃ slot q, s.hw.liveSlot x = some slot ∧ s.hw.seq? slot = some q ∧ q.com.facet = f ∧
        q.com.shareReduced = false) →
      ∃ t, exec (.pinnedEnableWrite p) s = .next t ∧ s.Answered t .ok p ∧ t.hw.raw 0x5031 (f + 1) = 1 ∧ t.hw.facets = s.hw.facets)

/-- R228, R232, R315, R323: JOB_REQUEST and URGENT_REQUEST on a facet not reserved for LC, with FEAT_HELIX_GEN as these ask. A start on a STANDBY
facet that is up is LOADING at once, with the facet EXCLUSIVE; on an ACTIVE one it waits PENDING while the facet drains; a held job is BUSY. A
teardown clears a PENDING start, ends one that had yielded with result TORN_DOWN, and takes a LOADING or RUNNING one to TEARDOWN with that
cause, the other job of the facet left as it is (where no donation runs for the job: log entry 77 has that case). An urgent job on an EXCLUSIVE
facet of a RUNNING BE job whose deadline leaves room for the switch is LOADING. -/
def Obligations.JobRequests : Prop :=
  ∀ (s : State) (p : Path) (f : Fin 16), s.Ready → s.hw.eng.state = .operational → s.hw.lcReserved f = false →
    s.hw.feature 1 = true → s.hw.feature 4 = true → s.hw.feature 62 = false →
    (s.AsksWrite p 0x6401 (f + 1) 1 → (s.hw.job f false).state.held = false → (s.hw.facet f).state = .standby →
      s.hw.raw 0xD010 (f + 1) ≠ 0 → s.hw.pins.facetUp.testBit f = true →
      ∃ t, exec (.jobStart p) s = .next t ∧ s.Answered t .ok p ∧ (t.hw.job f false).state = .loading ∧
        (t.hw.job f false).parts = s.hw.facetParts f ∧ (t.hw.facet f).state = .exclusive ∧ t.hw.job f true = s.hw.job f true ∧
        ∀ k : Fin 16, k ≠ f → t.hw.facet k = s.hw.facet k) ∧
    (s.AsksWrite p 0x6401 (f + 1) 1 → (s.hw.job f false).state.held = false → (s.hw.facet f).state = .active →
      ∃ t, exec (.jobStart p) s = .next t ∧ s.Answered t .ok p ∧ (t.hw.job f false).state = .pending ∧
        (t.hw.facet f).state = .draining ∧ t.hw.job f true = s.hw.job f true ∧ ∀ k : Fin 16, k ≠ f → t.hw.facet k = s.hw.facet k) ∧
    (s.AsksWrite p 0x6401 (f + 1) 1 → (s.hw.job f false).state.held = true →
      ∃ t, exec (.jobStart p) s = .next t ∧ s.Answered t .busy p ∧ t.hw.jobs = s.hw.jobs ∧ t.hw.facets = s.hw.facets) ∧
    (s.AsksWrite p 0x6401 (f + 1) 2 → (s.hw.job f false).state = .pending → (s.hw.job f false).yielded = false →
      ∃ t, exec (.jobTeardown p) s = .next t ∧ s.Answered t .ok p ∧ (t.hw.job f false).state = .idle ∧ t.hw.facets = s.hw.facets) ∧
    (s.AsksWrite p 0x6401 (f + 1) 2 → (s.hw.job f false).state = .pending → (s.hw.job f false).yielded = true →
      ∃ t, exec (.jobTeardown p) s = .next t ∧ s.Answered t .ok p ∧ (t.hw.job f false).state = .ended ∧ (t.hw.job f false).result = 2) ∧
    (s.AsksWrite p 0x6401 (f + 1) 2 → (s.hw.job f false).state = .running ∨ (s.hw.job f false).state = .loading →
      s.hw.donated f false = false →
      ∃ t, exec (.jobTeardown p) s = .next t ∧ s.Answered t .ok p ∧ (t.hw.job f false).state = .teardown ∧ (t.hw.job f false).cause = 2 ∧
        (t.hw.job f true).state = (s.hw.job f true).state) ∧
    (s.AsksWrite p 0x9201 (f + 1) 1 → (s.hw.facet f).state = .exclusive → (s.hw.job f false).state = .running →
      (s.hw.job f false).cls = .be → (s.hw.job f true).state.held = false → s.hw.raw 0x9200 (f + 1) ≠ 0 →
      s.hw.raw 0x9200 (f + 1) % 64 = 0 → s.hw.now + s.hw.switchNs f 1 2 ≤ s.hw.raw 0x9202 (f + 1) →
      ∃ t, exec (.urgentStart p) s = .next t ∧ s.Answered t .ok p ∧ (t.hw.job f true).state = .loading ∧
        (t.hw.job f true).parts = s.hw.facetParts f ∧ t.hw.job f false = s.hw.job f false ∧ t.hw.facets = s.hw.facets) ∧
    (s.AsksWrite p 0x9201 (f + 1) 2 → (s.hw.job f true).state = .running ∨ (s.hw.job f true).state = .loading →
      s.hw.donated f true = false →
      ∃ t, exec (.urgentTeardown p) s = .next t ∧ s.Answered t .ok p ∧ (t.hw.job f true).state = .teardown ∧
        (t.hw.job f true).cause = 2 ∧ (t.hw.job f false).state = (s.hw.job f false).state)

/-- R6, R97, R234, R245, R276, R414: reads that clear. The notice of a ready list and that of a facet's descriptors restart from the present
level with no crossing, the longest wait and the largest hull from 0, and the wake causes from none. A probe read gives the eight bytes of the
block's word of the probe's key and counter, from the lowest (R237), and changes no stored value. -/
def Obligations.ReadsThatClear : Prop :=
  ∀ (s : State) (p : Path), s.Ready → s.hw.eng.state = .operational →
    (∀ k : Fin 64, s.AsksRead p 0x601A (k + 1) →
      ∃ t, exec (.watermarkNoticeRead p) s = .next t ∧ s.Answered t .ok p ∧ t.hw.raw 0x601A (k + 1) = s.hw.readyDepth k ∧
        t.hw.parts = s.hw.parts) ∧
    (∀ f : Fin 16, s.AsksRead p 0x6021 (f + 1) →
      ∃ t, exec (.watermarkNoticeRead p) s = .next t ∧ s.Answered t .ok p ∧ t.hw.raw 0x6021 (f + 1) = s.hw.descHeld f ∧
        t.hw.parts = s.hw.parts) ∧
    (∀ k : Fin 64, s.AsksRead p 0x6016 (k + 1) →
      ∃ t, exec (.partWaitMaxRead p) s = .next t ∧ s.Answered t .ok p ∧ t.hw.raw 0x6016 (k + 1) = 0 ∧ t.hw.parts = s.hw.parts) ∧
    (s.AsksRead p 0x702A 1 →
      ∃ t, exec (.hullMaxRead p) s = .next t ∧ s.Answered t .ok p ∧ t.hw.smp = { s.hw.smp with hullMax := 0 }) ∧
    (s.AsksRead p 0xD021 1 →
      ∃ t, exec (.wakeCauseRead p) s = .next t ∧ s.Answered t .ok p ∧ t.gnm = s.gnm.set 0xD021 1 0) ∧
    (∀ w : Fin 2, s.AsksRead p 0x7110 (w + 4) →
      ∃ t, exec (.helixProbeRead p) s = .next t ∧ s.Answered t .ok p ∧ t.hw.seqs = s.hw.seqs ∧ t.hw.facets = s.hw.facets ∧
        t.hw.raw 0x7110 (w + 4) = s.hw.raw 0x7110 (w + 4) ∧
        (p = .window → ∀ j : Fin 8, readCell t.win.data j =
          (let b := helixBlock (.ofNat 64 (s.hw.getAt 0x7110 1 (pathNum p))) (.ofNat 64 (s.hw.getAt 0x7110 2 (pathNum p)))
            (.ofNat 64 (s.hw.getAt 0x7110 3 (pathNum p)))
          ((if w = 0 then b.1 else b.2) >>> (8 * j.val)).setWidth 8)))

/-- R252, R278: a whole mask of 131,072 bytes, its last segment committed, is loaded into its slot, which is marked loaded and current where no
live sequence that samples with the slot makes it BUSY; a value of another length is refused with LENGTH. A shape table is stored and marked
loaded where it is valid, and refused with RANGE where it is not. The status of a wrong length, and that a sequence keeps its slot BUSY until it
is freed, are the model's readings (log entries 40 and 41). -/
def Obligations.TableLoads : Prop :=
  ∀ (s : State) (p : Path) (m : Fin 16) (l : List Byte), s.Ready → s.hw.eng.state = .operational →
    (s.AsksCommit p 0x7210 (m + 1) l → s.hw.feature 0 = true → validShape l = true →
      ∃ t, exec (.shapeTableWrite p) s = .next t ∧ s.Answered t .ok p ∧ t.hw.domain 0x7210 (m + 1) 0 = l ∧
        (t.hw.raw 0x7211 1).testBit m = true ∧ t.hw.smp = s.hw.smp) ∧
    (s.AsksCommit p 0x7210 (m + 1) l → s.hw.feature 0 = true → validShape l = false →
      ∃ t, exec (.shapeTableWrite p) s = .next t ∧ s.Answered t .range p ∧ t.hw.dom = s.hw.dom ∧ t.hw.raw 0x7211 1 = s.hw.raw 0x7211 1) ∧
    (s.AsksCommit p 0x7040 (m + 1) l → l.length ≠ 131072 →
      ∃ t, exec (.maskSlotLoad p) s = .next t ∧ s.Answered t .length p ∧ t.hw.smp = s.hw.smp) ∧
    (∀ (r : Req) (x : Snap), (p = .ddp → s.hw.featureForWrites 11 = true) → s.ImageRoom p → s.request? p = some r → r.path = p →
      r.bad = false → r.op = 1 → r.idx = 0x7040 → r.sub = m + 1 → r.offset.testBit 31 = true → r.offset % 2 ^ 31 ≠ 0 →
      r.offset % 2 ^ 31 = x.bytes.length → r.length ≤ segmentMax p →
      s.hw.liveStaged p (odKey 0x7040 (m + 1) 0) = some x → x.bytes.length + r.data.length = 131072 →
      ((s.hw.seqs.any fun e => e.2.com.sampling.maskOn && e.2.com.sampling.maskSlot == m.val) && (s.hw.raw 0x7042 1).testBit m) = false →
      ∃ t, exec (.maskSlotLoad p) s = .next t ∧ s.Answered t .ok p ∧ Map.find? t.hw.smp.masks m = some (x.bytes ++ r.data) ∧
        (t.hw.raw 0x7041 1).testBit m = true ∧ (t.hw.raw 0x7042 1).testBit m = true ∧
        ∀ k, k ≠ m.val → Map.find? t.hw.smp.masks k = Map.find? s.hw.smp.masks k)

/-- R330 to R334, R359: a model that may be registered starts with the learner state of a fresh registration; it is active, while fewer than 16
are, with pools and a program as R154 and R185 ask, and inactive again where no sequence and no job names it. LOAD makes an EMPTY write slot
LOADING and a PREVIOUS one RETIRING for the load; PUBLISH of a newer version makes the LOADING slot CURRENT and the former CURRENT one PREVIOUS
(no attempt waiting for the slot), and of one that is not newer is refused with RANGE; ABORT empties the LOADING slot. LEARN_RESET restores the
initial scale. FED_RESOLVE answers STATE without a voted round; else it decides the job that waits at its GATE, or, where none does, closes the
round with its verdict among the decisions kept. That registration takes the CURRENT version as the highest one yet is the model's reading (log
entry 106). -/
def Obligations.ModelRequests : Prop :=
  (∀ (s : State) (p : Path) (m : Nat), s.Ready → s.hw.eng.state = .config → m = s.hw.objOf p .model →
    s.AsksWrite p 0x8000 1 1 → s.hw.getAt 0x8000 1 m = 0 → s.hw.mayRegister m = true →
      ∃ t, exec (.modelRegister p) s = .next t ∧ s.Answered t .ok p ∧ t.hw.getAt 0x8000 1 m = 1 ∧ t.hw.getAt 0x8025 1 m = 0 ∧
        t.hw.getAt 0x8020 1 m = s.hw.getAt 0x8021 1 m ∧ (t.hw.learner m).layerExp = [] ∧
        (t.hw.learner m).topVersion = s.hw.currentVersion m ∧ t.hw.seqs = s.hw.seqs) ∧
  ∀ (s : State) (p : Path) (m : Nat), s.Ready → s.hw.eng.state = .operational → m = s.hw.objOf p .model →
    (s.AsksWrite p 0x8001 1 1 → s.hw.getAt 0x8001 1 m = 0 →
      ((List.range 256).filter fun k => s.hw.getAt 0x8001 1 k = 1).length < 16 → s.hw.getAt 0x8000 1 m = 1 → s.hw.getAt 0x4101 3 m ≠ 0 →
      s.hw.modelPoolsOk m = true → programOk (s.hw.program m) = true →
      ∃ t, exec (.modelActivate p) s = .next t ∧ s.Answered t .ok p ∧ t.hw.getAt 0x8001 1 m = 1 ∧ t.hw.learners = s.hw.learners) ∧
    (s.AsksWrite p 0x8001 1 1 → s.hw.getAt 0x8001 1 m = 0 →
      16 ≤ ((List.range 256).filter fun k => s.hw.getAt 0x8001 1 k = 1).length →
      ∃ t, exec (.modelActivate p) s = .next t ∧ s.Answered t .full p ∧ t.hw.getAt 0x8001 1 m = 0) ∧
    (s.AsksWrite p 0x8001 1 0 → s.hw.getAt 0x8001 1 m = 1 → s.hw.jobNames m = false →
      (∀ e ∈ s.hw.seqs, e.2.com.model ≠ m ∧ e.2.cur.model ≠ m ∧ s.hw.modelOf e.2.com ≠ m ∧ s.hw.modelOf e.2.cur ≠ m) →
      ∃ t, exec (.modelActivate p) s = .next t ∧ s.Answered t .ok p ∧ t.hw.getAt 0x8001 1 m = 0 ∧ t.hw.seqs = s.hw.seqs) ∧
    (s.AsksWrite p 0x8010 1 1 → s.hw.getAt 0x8000 1 m = 1 → s.hw.jobNames m = false → s.hw.slotState m (s.hw.writeSlot m) = 0 →
      ∃ t, exec (.versionLoad p) s = .next t ∧ s.Answered t .ok p ∧ t.hw.slotState m (s.hw.writeSlot m) = 1 ∧ t.hw.seqs = s.hw.seqs ∧
        t.hw.learners = s.hw.learners) ∧
    (s.AsksWrite p 0x8010 1 1 → s.hw.getAt 0x8000 1 m = 1 → s.hw.jobNames m = false → s.hw.slotState m (s.hw.writeSlot m) = 4 →
      ∃ t, exec (.versionLoad p) s = .next t ∧ s.Answered t .ok p ∧ t.hw.slotState m (s.hw.writeSlot m) = 5 ∧
        (t.hw.learner m).request = some .load ∧ t.hw.seqs = s.hw.seqs) ∧
    (∀ (v : Nat) (k : Fin 2), s.AsksWrite p 0x8010 1 (2 + v * 2 ^ 32) → v < 2 ^ 32 → s.hw.getAt 0x8000 1 m = 1 → s.hw.topVersion m < v →
      s.hw.slotState m k = 1 → s.hw.slotState m (1 - k.val) = 3 → (s.hw.learner m).shadowQueue = [] →
      ∃ t, exec (.versionPublish p) s = .next t ∧ s.Answered t .ok p ∧ t.hw.slotState m k = 3 ∧ t.hw.slotState m (1 - k.val) = 4 ∧
        t.hw.slotVersion m k = v ∧ t.hw.slotVersion m (1 - k.val) = s.hw.slotVersion m (1 - k.val) ∧ (t.hw.learner m).topVersion = v ∧
        t.hw.seqs = s.hw.seqs) ∧
    (∀ (v : Nat) (k : Fin 2), s.AsksWrite p 0x8010 1 (2 + v * 2 ^ 32) → v < 2 ^ 32 → s.hw.getAt 0x8000 1 m = 1 → v ≤ s.hw.topVersion m →
      s.hw.slotState m k = 1 → s.hw.slotState m (1 - k.val) = 3 →
      ∃ t, exec (.versionPublish p) s = .next t ∧ s.Answered t .range p ∧ t.hw.slotState m k = 1 ∧ t.hw.slotState m (1 - k.val) = 3) ∧
    (∀ k : Fin 2, s.AsksWrite p 0x8010 1 3 → s.hw.getAt 0x8000 1 m = 1 → s.hw.slotState m k = 1 → s.hw.slotState m (1 - k.val) = 3 →
      (s.hw.learner m).shadowQueue = [] →
      ∃ t, exec (.versionAbort p) s = .next t ∧ s.Answered t .ok p ∧ t.hw.slotState m k = 0 ∧ t.hw.slotState m (1 - k.val) = 3 ∧
        t.hw.seqs = s.hw.seqs) ∧
    (s.AsksWrite p 0x802D 1 1 → s.hw.jobNames m = false →
      ∃ t, exec (.learnReset p) s = .next t ∧ s.Answered t .ok p ∧ t.hw.getAt 0x8020 1 m = s.hw.getAt 0x8021 1 m ∧
        t.hw.getAt 0x8025 1 m = 0 ∧ t.hw.learner m = { s.hw.learner m with layerExp := [] }) ∧
    (s.AsksWrite p 0x802D 1 1 → s.hw.jobNames m = true →
      ∃ t, exec (.learnReset p) s = .next t ∧ s.Answered t .busy p ∧ t.hw.learners = s.hw.learners) ∧
    (∀ d : Fin 2, s.AsksWrite p 0x8309 1 (d + 1) → s.hw.feature 2 = true → (s.hw.learner m).round = none →
      ∃ t, exec (.fedResolve p) s = .next t ∧ s.Answered t .state p ∧ t.hw.learners = s.hw.learners) ∧
    (∀ (d : Fin 2) (r : Round), s.AsksWrite p 0x8309 1 (d + 1) → s.hw.feature 2 = true → (s.hw.learner m).round = some r →
      s.hw.roundState m = 2 → s.hw.roundJob m = none →
      ∃ t, exec (.fedResolve p) s = .next t ∧ s.Answered t .ok p ∧ (t.hw.learner m).round = none ∧
        (t.hw.learner m).decided.head? = some (r.attempt, voteCode (2 * d) r.proposed r.digest)) ∧
    (∀ (d : Fin 2) (r : Round) (f : Nat) (u : Bool), s.AsksWrite p 0x8309 1 (d + 1) → s.hw.feature 2 = true →
      (s.hw.learner m).round = some r → s.hw.roundState m = 2 → s.hw.roundJob m = some (f, u) → (s.hw.job f u).decision = none →
      ∃ t, exec (.fedResolve p) s = .next t ∧ s.Answered t .ok p ∧ (t.hw.learner m).round = some r ∧
        (t.hw.job f u).decision = some (2 * d + if s.hw.telemetryRoom (s.hw.job f u).model then 0 else 16))

/-- R376, R380, R384, R387, R392, R393: a background task that is OFF starts at its enable with a debt that begins now, and a running one shuts
down; a firmware load starts in CONFIG only; COUNTS_CLEAR clears the unit counts; a bin's filter keeps its defined bits and starts the bin's
totals at 0; an armed software trigger fires and disarms; and TRACE_UNFREEZE gives the frozen window up. None of these changes a sequence or a
facet. -/
def Obligations.BackgroundAndObservation : Prop :=
  ∀ (s : State) (p : Path), s.Ready →
    (∀ k : Fin 6, s.AsksWrite p 0xA050 (k + 1) 1 → (s.hw.task k).state = 0 → s.hw.eng.state = .operational →
      ∃ t, exec (.bgEnable p) s = .next t ∧ s.Answered t .ok p ∧ (t.hw.task k).state = 1 ∧ (t.hw.task k).done = 0 ∧
        (t.hw.task k).sinceNs = s.hw.now ∧ t.hw.get 0xA050 (k + 1) = 1 ∧ t.hw.seqs = s.hw.seqs ∧ t.hw.facets = s.hw.facets) ∧
    (∀ k : Fin 6, s.AsksWrite p 0xA050 (k + 1) 0 → (s.hw.task k).state = 1 → s.hw.eng.state = .operational →
      ∃ t, exec (.bgDisable p) s = .next t ∧ s.Answered t .ok p ∧ t.hw.task k = { s.hw.task k with state := 2, pending := false } ∧
        t.hw.get 0xA050 (k + 1) = 0 ∧ t.hw.seqs = s.hw.seqs ∧ t.hw.facets = s.hw.facets) ∧
    (s.AsksWrite p 0xA063 1 1 → s.hw.eng.state = .config →
      ∃ t, exec (.fwLoad p) s = .next t ∧ s.Answered t .ok p ∧ t.hw.raw 0xA064 1 = 1 ∧ t.hw.seqs = s.hw.seqs ∧ t.hw.facets = s.hw.facets) ∧
    (s.AsksWrite p 0xA063 1 1 → s.hw.eng.state = .operational →
      ∃ t, exec (.fwLoad p) s = .next t ∧ s.Answered t .state p ∧ t.hw.raw 0xA064 1 = s.hw.raw 0xA064 1) ∧
    (s.AsksWrite p 0xB002 1 1 → s.hw.eng.state = .operational →
      ∃ t, exec (.countsClear p) s = .next t ∧ s.Answered t .ok p ∧ t.hw.trace.unitCounts = [] ∧ t.hw.seqs = s.hw.seqs ∧
        t.hw.facets = s.hw.facets) ∧
    (∀ (b : Fin 64) (v : Nat), s.AsksWrite p 0xB020 (b + 1) v → s.hw.eng.state = .operational →
      ∃ t, exec (.binFilterWrite p) s = .next t ∧ s.Answered t .ok p ∧ t.hw.raw 0xB020 (b + 1) = v % 2 ^ 49 ∧
        (∀ i : Fin 5, t.hw.getAt 0xB021 (b + 1) i = 0) ∧ t.hw.seqs = s.hw.seqs ∧ t.hw.facets = s.hw.facets) ∧
    (∀ n : Fin 8, s.AsksWrite p 0xB042 1 n → s.hw.eng.state = .operational → s.hw.feature 10 = true →
      (s.hw.raw 0xB040 (n + 1)).testBit 3 = true → s.hw.raw 0xB040 (n + 1) % 8 = 1 →
      ∃ t, exec (.triggerFire p) s = .next t ∧ s.Answered t .ok p ∧ (t.hw.raw 0xB040 (n + 1)).testBit 3 = false ∧ t.hw.seqs = s.hw.seqs ∧
        t.hw.facets = s.hw.facets) ∧
    (s.AsksWrite p 0xB039 1 1 → s.hw.eng.state = .operational → s.hw.feature 10 = true → (s.hw.raw 0xB038 1).testBit 63 = true →
      ∃ t, exec (.traceUnfreeze p) s = .next t ∧ s.Answered t .ok p ∧ t.hw.trace.gapIndex = none ∧ t.hw.trace.gapCount = 0 ∧
        t.hw.raw 0xB038 1 = 0 ∧ t.hw.seqs = s.hw.seqs ∧ t.hw.facets = s.hw.facets)

/-! ## The sideband and the test port -/

/-- R24, R106, R419: the I3C common commands and the TAP. ENTDAA gives a target without an address one, and one that holds an address keeps it
(the model's choice, log entry 30); RSTDAA takes it away; ENEC and DISEC switch in-band interrupts by bit 0; a message that waits is signalled
by an in-band interrupt with its mandatory byte where one becomes possible; the GET commands answer what the target holds, and the SET commands
and RSTACT store. Nothing else of the block changes. The TAP's instruction and its reset change the TAP alone, in every state of the engine. -/
def Obligations.SidebandAndTestPort : Prop :=
  (∀ s : State, s.Ready →
    (∀ a : BitVec 7, s.hw.side.address = 0 →
      ∃ t, exec (.entdaa a) s = .next t ∧ s.Leaves t (({ s.hw with side := { s.hw.side with address := a.toNat } } : Hw).sends
        (if s.hw.side.ibiOn = true ∧ a ≠ 0 ∧ s.hw.side.responses ≠ [] then [.ibi Config.pendingReadByte] else []))) ∧
    (∀ a : BitVec 7, s.hw.side.address ≠ 0 → ∃ t, exec (.entdaa a) s = .next t ∧ s.Leaves t (s.hw.sends [])) ∧
    (∃ t, exec .rstdaa s = .next t ∧ s.Leaves t (({ s.hw with side := { s.hw.side with address := 0 } } : Hw).sends [])) ∧
    (∀ e : BitVec 8, ∃ t, exec (.enec e) s = .next t ∧
      s.Leaves t (({ s.hw with side := { s.hw.side with ibiOn := s.hw.side.ibiOn || e.getLsbD 0 } } : Hw).sends
        (if s.hw.side.ibiOn = false ∧ e.getLsbD 0 = true ∧ s.hw.side.address ≠ 0 ∧ s.hw.side.responses ≠ [] then
          [.ibi Config.pendingReadByte] else []))) ∧
    (∀ e : BitVec 8, ∃ t, exec (.disec e) s = .next t ∧
      s.Leaves t (({ s.hw with side := { s.hw.side with ibiOn := s.hw.side.ibiOn && !e.getLsbD 0 } } : Hw).sends [])) ∧
    (∃ t, exec .getpid s = .next t ∧ s.Leaves t (s.hw.sends [.i3c (Config.i3cAnswer 0)])) ∧
    (∃ t, exec .getbcr s = .next t ∧ s.Leaves t (s.hw.sends [.i3c (Config.i3cAnswer 1)])) ∧
    (∃ t, exec .getdcr s = .next t ∧ s.Leaves t (s.hw.sends [.i3c (Config.i3cAnswer 2)])) ∧
    (∃ t, exec .getstatus s = .next t ∧ s.Leaves t (s.hw.sends [.i3c (Config.i3cAnswer 3)])) ∧
    (∃ t, exec .getmrl s = .next t ∧ s.Leaves t (s.hw.sends [.i3c (i3cLength s.hw.side.mrl)])) ∧
    (∃ t, exec .getmwl s = .next t ∧ s.Leaves t (s.hw.sends [.i3c (i3cLength s.hw.side.mwl)])) ∧
    (∀ n : BitVec 16, ∃ t, exec (.setmrl n) s = .next t ∧
      s.Leaves t (({ s.hw with side := { s.hw.side with mrl := n.toNat } } : Hw).sends [])) ∧
    (∀ n : BitVec 16, ∃ t, exec (.setmwl n) s = .next t ∧
      s.Leaves t (({ s.hw with side := { s.hw.side with mwl := n.toNat } } : Hw).sends [])) ∧
    (∀ n : BitVec 8, ∃ t, exec (.rstact n) s = .next t ∧
      s.Leaves t (({ s.hw with side := { s.hw.side with rstAct := n.toNat } } : Hw).sends []))) ∧
  ∀ s : State,
    (∀ op, ∃ t, exec (.tapInstruction op) s = .next t ∧ t.gnm = { s.gnm with tapIr := op } ∧ t.hw = s.hw.sends [.tap (tapCapture op)] ∧
      t.win = s.win ∧ t.pending = s.pending) ∧
    (∃ t, exec .tstTrst s = .next t ∧ t.gnm = { s.gnm with tapIr := .idcode } ∧ t.hw = s.hw ∧ t.win = s.win ∧ t.pending = s.pending)

/-- R106, R107: a target with a dynamic address takes packets. One whose PEC fails is dropped and counted in 0x2401.02; a message of one packet
with the block's enterprise number waits as a DDP request while fewer than four wait, and is dropped and counted in 0x2401.03 when four do; a
first packet that is not the last opens a message, and a later one of its sender, tag and sequence joins it; and a private read sends the oldest
packet that waits. A packet with TO clear, and any packet without an address, changes nothing (the model's reading, log entry 123). That a
first packet drops the message under way is the model's choice there, and log entry 31 has what R106 leaves open of the bytes. -/
def Obligations.SidebandMessages : Prop :=
  ∀ s : State, s.Ready →
    (∀ p : MctpPacket, s.hw.side.address = 0 ∨ (p.pecOk = true ∧ p.tagOwner = false) →
      ∃ t, exec (.mctpPacket p) s = .next t ∧ s.Leaves t (s.hw.sends [])) ∧
    (s.hw.side.address = 0 ∨ s.hw.side.responses = [] → ∃ t, exec .i3cPrivateRead s = .next t ∧ s.Leaves t (s.hw.sends [])) ∧
    (s.hw.side.address ≠ 0 →
      (∀ p : MctpPacket, p.pecOk = false →
        ∃ t, exec (.mctpPacket p) s = .next t ∧ s.Leaves t ((s.hw.inc 0x2401 2).sends [])) ∧
      (∀ p : MctpPacket, p.pecOk = true → p.tagOwner = true → p.som = true → p.eom = true → p.payload.length ≤ 1029 →
        p.payload.take 5 = ddpPrefix → s.hw.side.requests.length < 4 →
        ∃ t, exec (.mctpPacket p) s = .next t ∧ s.Leaves t (({ s.hw with side := { s.hw.side with
          assembling := none, requests := s.hw.side.requests ++ [(s.hw.cc, p.tag + 8 * p.source, p.payload.drop 5)] } } : Hw).sends [])) ∧
      (∀ p : MctpPacket, p.pecOk = true → p.tagOwner = true → p.som = true → p.eom = true → p.payload.length ≤ 1029 →
        p.payload.take 5 = ddpPrefix → 4 ≤ s.hw.side.requests.length →
        ∃ t, exec (.mctpPacket p) s = .next t ∧
          s.Leaves t ((({ s.hw with side := { s.hw.side with assembling := none } } : Hw).inc 0x2401 3).sends [])) ∧
      (∀ p : MctpPacket, p.pecOk = true → p.tagOwner = true → p.som = true → p.eom = false → p.payload.length ≤ 1029 →
        ∃ t, exec (.mctpPacket p) s = .next t ∧ s.Leaves t (({ s.hw with side := { s.hw.side with
          assembling := some (p.source, p.tag, (p.seq + 1) % 4, p.payload) } } : Hw).sends [])) ∧
      (∀ (p : MctpPacket) (l : List Byte), p.pecOk = true → p.tagOwner = true → p.som = false → p.eom = false →
        s.hw.side.assembling = some (p.source, p.tag, p.seq % 4, l) → (l ++ p.payload).length ≤ 1029 →
        ∃ t, exec (.mctpPacket p) s = .next t ∧ s.Leaves t (({ s.hw with side := { s.hw.side with
          assembling := some (p.source, p.tag, (p.seq + 1) % 4, l ++ p.payload) } } : Hw).sends [])) ∧
      (∀ p rest, s.hw.side.responses = p :: rest →
        ∃ t, exec .i3cPrivateRead s = .next t ∧
          s.Leaves t (({ s.hw with side := { s.hw.side with responses := rest } } : Hw).sends [.packet p])))

/-! ## Power -/

/-- R409: `aon_pt_req` takes the slower of the driver's point and the cap while no change is outstanding and `aon_pt_ack` is low, and otherwise
waits; the ack with the point asked for ends a change and counts it, and with another (log entry 99) ends none; the fall of the ack lets a change
that waits out; and an ack that has not come 100 µs after the request is logged, once. -/
def Obligations.ClockPoints : Prop :=
  ∀ s : State, s.Ready →
    (∀ c : Fin 4, s.hw.pins.changing = false → s.hw.pins.pointAck = false → max (s.hw.raw 0xD000 1) c ≠ s.hw.pins.pointReq →
      ∃ t, exec (.pointCapChange c) s = .next t ∧ s.Leaves t (({ s.hw with pins := { s.hw.pins with
        pointCap := c, pointReq := max (s.hw.raw 0xD000 1) c, pointReqNs := s.hw.now, pointLogged := false } } : Hw).sends [])) ∧
    (∀ c : Fin 4, s.hw.pins.changing = true ∨ s.hw.pins.pointAck = true →
      ∃ t, exec (.pointCapChange c) s = .next t ∧
        s.Leaves t (({ s.hw with pins := { s.hw.pins with pointCap := c } } : Hw).sends [])) ∧
    (∀ c : Fin 4, s.hw.pins.changing = true → s.hw.pins.pointAck = false → s.hw.pins.pointReq = c →
      ∃ t, exec (.pointAck c) s = .next t ∧ t.hw.pins.changing = false ∧
        s.Leaves t ((({ s.hw with pins := { s.hw.pins with pointAck := true, pointCur := c } } : Hw).inc 0xD003 1).sends [])) ∧
    (∀ c : Fin 4, s.hw.pins.pointReq ≠ c →
      ∃ t, exec (.pointAck c) s = .next t ∧
        s.Leaves t (({ s.hw with pins := { s.hw.pins with pointAck := true, pointCur := c } } : Hw).sends [])) ∧
    (s.hw.pins.pointReq = max (s.hw.raw 0xD000 1) s.hw.pins.pointCap →
      ∃ t, exec .pointAckFall s = .next t ∧
        s.Leaves t (({ s.hw with pins := { s.hw.pins with pointAck := false } } : Hw).sends [])) ∧
    (s.hw.pins.changing = false → s.hw.pins.pointReq ≠ max (s.hw.raw 0xD000 1) s.hw.pins.pointCap →
      ∃ t, exec .pointAckFall s = .next t ∧ s.Leaves t (({ s.hw with pins := { s.hw.pins with
        pointAck := false, pointReq := max (s.hw.raw 0xD000 1) s.hw.pins.pointCap, pointReqNs := s.hw.now,
        pointLogged := false } } : Hw).sends [])) ∧
    (s.hw.pins.changing = true → s.hw.pins.pointLogged = false → s.hw.pins.pointReqNs + 100000 ≤ s.hw.now →
      ∃ t, exec .pointAckTimeout s = .next t ∧ t.hw.pins = { s.hw.pins with pointLogged := true } ∧
        t.hw.occurred 0 = (s.hw.occurred 0 + 1) % 2 ^ 64 ∧ t.hw.seqs = s.hw.seqs ∧ t.hw.facets = s.hw.facets) ∧
    (s.hw.pins.changing = false ∨ s.hw.pins.pointLogged = true ∨ s.hw.now < s.hw.pins.pointReqNs + 100000 →
      ∃ t, exec .pointAckTimeout s = .next t ∧ s.Leaves t (s.hw.sends []))

/-- R410, R411: a facet that has been in a gating condition for GATE_DELAY is driven at level 0, and no other is; `aon_facet_up` is kept as it
rises, and lets a facet that waits for it enter its state in the cc that follows (`Hw.enterUp`, its part of that cc); a rise that has not come
within 100 ms abandons the entry, drives level 0 and is logged (a job that the entry was for is IDLE then: log entry 99); and the integrator may
lower the signal at level 0 only. -/
def Obligations.FacetLevels : Prop :=
  (∀ (s : State) (f : Fin 16), s.Ready →
    (∀ since, s.hw.mayGate f = true → s.hw.get 0xD014 (f + 1) ≠ 0xFFFFFFFF → (s.hw.facet f).idleSinceNs = some since →
      since + 1000000 * s.hw.get 0xD014 (f + 1) ≤ s.hw.now →
      ∃ t, exec (.facetGate f) s = .next t ∧ s.Leaves t ((s.hw.set 0xD010 (f + 1) 0).sends [])) ∧
    (s.hw.mayGate f = false ∨ s.hw.get 0xD014 (f + 1) = 0xFFFFFFFF ∨
        (∀ since, (s.hw.facet f).idleSinceNs = some since → s.hw.now < since + 1000000 * s.hw.get 0xD014 (f + 1)) →
      ∃ t, exec (.facetGate f) s = .next t ∧ s.Leaves t (s.hw.sends [])) ∧
    (∃ t, exec (.facetUp f) s = .next t ∧
      s.Leaves t (({ s.hw with pins := { s.hw.pins with facetUp := setBit s.hw.pins.facetUp f } } : Hw).sends [])) ∧
    (∀ st, (s.hw.facet f).waitingUp = some st → (s.hw.facet f).upSinceNs + 100000000 ≤ s.hw.now →
      ∃ t, exec (.facetUpTimeout f) s = .next t ∧ (t.hw.facet f).waitingUp = none ∧ (t.hw.facet f).state = (s.hw.facet f).state ∧
        t.hw.raw 0xD010 (f + 1) = 0 ∧ t.hw.occurred 0 = (s.hw.occurred 0 + 1) % 2 ^ 64 ∧
        (if st = .exclusive then (t.hw.job f false).state = .idle else t.hw.jobs = s.hw.jobs) ∧
        ∀ k : Fin 16, k ≠ f → t.hw.facet k = s.hw.facet k) ∧
    ((s.hw.facet f).waitingUp = none ∨ s.hw.now < (s.hw.facet f).upSinceNs + 100000000 →
      ∃ t, exec (.facetUpTimeout f) s = .next t ∧ s.Leaves t (s.hw.sends [])) ∧
    (s.hw.raw 0xD010 (f + 1) = 0 →
      ∃ t, exec (.facetUpFall f) s = .next t ∧
        s.Leaves t (({ s.hw with pins := { s.hw.pins with facetUp := clearBit s.hw.pins.facetUp f } } : Hw).sends [])) ∧
    (s.hw.raw 0xD010 (f + 1) ≠ 0 → ∃ t, exec (.facetUpFall f) s = .next t ∧ s.Leaves t (s.hw.sends []))) ∧
  ∀ (h : Hw) (f : Fin 16) (st : FacetState), (h.facet f).waitingUp = some st → (st = .active ∨ st = .exclusive) →
    (h.eng.state = .operational → h.pins.facetUp.testBit f = true →
      ((h.enterUp f).facet f).state = st ∧ ((h.enterUp f).facet f).waitingUp = none) ∧
    (h.pins.facetUp.testBit f = false → h.enterUp f = h)

/-- R413, R414: a request for RETAIN is remembered, and in QUIESCED without a target starts the flush with both retention records written; a
withdrawn one is forgotten; the flush's ack brings a QUIESCED engine that is still asked into RETAIN, with its outputs clamped and 0xD020 counted.
In RETAIN each wake source raises `aon_wake` and its bit of WAKE_CAUSE, and a comparator that has come to its time disarms; outside RETAIN a wake
request does nothing. -/
def Obligations.RetainAndWake : Prop :=
  ∀ s : State,
    (s.Ready → s.hw.eng.state = .operational →
      ∃ t, exec .retainRequest s = .next t ∧
        s.Leaves t (({ s.hw with pins := { s.hw.pins with retReq := true } } : Hw).sends [])) ∧
    (s.Ready → s.hw.eng.state = .quiesced → s.hw.eng.pendingTarget = none →
      ∃ t, exec .retainRequest s = .next t ∧ t.hw.pins = { s.hw.pins with retReq := true, rsFlush := true } ∧
        t.gnm.rs.masks = some s.hw.maskRecord ∧ t.gnm.rs.counters = some (.make s.reservations) ∧ t.hw.eng = s.hw.eng ∧
        t.hw.seqs = s.hw.seqs) ∧
    (s.Ready →
      ∃ t, exec .retainRequestWithdrawn s = .next t ∧
        s.Leaves t (({ s.hw with pins := { s.hw.pins with retReq := false } } : Hw).sends [])) ∧
    (s.Ready → s.hw.pins.rsFlush = true → s.hw.pins.retReq = true → s.hw.eng.state = .quiesced → s.hw.eng.powerFail = false →
      ∃ t, exec .rsFlushAck s = .next t ∧ t.hw.eng.state = .retain ∧ t.hw.pins.retAck = true ∧ t.hw.pins.rsFlush = false ∧
        t.gnm.iso = true ∧ t.gnm.get 0xD020 1 = s.gnm.get 0xD020 1 + 1 ∧ t.hw.seqs = s.hw.seqs) ∧
    (∀ n : Fin 8, s.gnm.powered = true → s.hw.eng.state = .retain → (s.gnm.get 0xD031 1).testBit n = true →
      s.gnm.get 0xD030 (n + 1) ≤ s.gnm.time →
      ∃ t, exec (.wakeComparator n) s = .next t ∧ t.gnm.wake = true ∧ t.gnm.get 0xD021 1 = setBit (s.gnm.get 0xD021 1) n ∧
        t.gnm.get 0xD031 1 = clearBit (s.gnm.get 0xD031 1) n ∧ t.hw = s.hw ∧ t.gnm.count = s.gnm.count ∧ t.gnm.rs = s.gnm.rs) ∧
    (∀ n, s.gnm.powered = true → s.hw.eng.state = .retain → 0 < s.gnm.get 0xD032 1 → s.gnm.get 0xD032 1 ≤ n →
      ∃ t, exec (.subWake n) s = .next t ∧ t.gnm = { s.gnm.set 0xD021 1 (setBit (s.gnm.get 0xD021 1) 8) with wake := true } ∧
        t.hw = s.hw) ∧
    (s.gnm.powered = true → s.hw.eng.state = .retain →
      ∃ t, exec .wakeRequest s = .next t ∧ t.gnm = { s.gnm.set 0xD021 1 (setBit (s.gnm.get 0xD021 1) 9) with wake := true } ∧
        t.hw = s.hw) ∧
    (s.hw.eng.state = .operational → exec .wakeRequest s = .next s)

/-- R402, R415, R416: a power-fail warning in OPERATIONAL stops events below S4, counts the warning and keeps its stamp, logs POWER_FAIL, writes
the records and raises `aon_rs_flush`, and changes no sequence and no facet; a warning while the sequence runs has no effect; in RETAIN the
Gnomon records it; and a healthy supply lets events in again (at once: log entry 99). -/
def Obligations.PowerFailure : Prop :=
  ∀ s : State,
    (s.Ready → s.hw.eng.state = .operational → s.hw.eng.powerFail = false →
      ∃ t, exec .powerFailWarning s = .next t ∧ t.hw.eng.powerFail = true ∧ t.hw.pins.rsFlush = true ∧ t.hw.events.stopBelowS4 = true ∧
        t.gnm.get 0xD041 1 = (s.gnm.get 0xD041 1 + 1) % 2 ^ 64 ∧ t.gnm.get 0xD042 1 = s.hw.now ∧ t.gnm.rs.lastPf = s.hw.now ∧
        t.hw.occurred 0 = (s.hw.occurred 0 + 1) % 2 ^ 64 ∧ t.gnm.rs.masks = some s.hw.maskRecord ∧ t.hw.seqs = s.hw.seqs ∧
        t.hw.facets = s.hw.facets) ∧
    (s.hw.eng.state = .operational → s.hw.eng.powerFail = true → exec .powerFailWarning s = .next s) ∧
    (s.hw.eng.state = .retain → s.gnm.powered = true →
      ∃ t, exec .powerFailWarning s = .next t ∧ t.gnm.get 0xD041 1 = (s.gnm.get 0xD041 1 + 1) % 2 ^ 64 ∧
        t.gnm.get 0xD042 1 = s.gnm.time ∧ t.hw = s.hw) ∧
    (s.Ready →
      ∃ t, exec .supplyHealthy s = .next t ∧ t.hw.events.stopBelowS4 = false ∧ s.Leaves t (s.hw.sends []))

/-! ## Resets and starts -/

/-- R24, R25, R404, Table 5.9: the release of `aon_por_n` leads to START, or to RETAIN where the core has no power, and reads the counts back, the
release counted; its assertion and a loss of power leave the engine OFF with the retention store and the sequences that memory holds kept; the
core reset leaves the Gnomon running and the engine in START (in RETAIN it stays there, and while OFF only the pin is noted). Every reset of the
core leaves its window, facets, partitions, descriptors, jobs, memory requests and sideband as `Hw.reset` and `Window.reset` have them, so that
what waited there is given up. That the engine is OFF from the assertion on, and that the count read back is the retention store's, is the
model's choice (log entries 97 and 98). -/
def Obligations.Resets : Prop :=
  ∀ s : State,
    (∀ b, s.hw.eng.state = .off →
      ∃ t, exec (.aonPorRelease b) s = .next t ∧ t.hw.eng.state = (if b then .start else .retain) ∧ t.gnm.get 0xD110 1 = s.gnm.rs.hours ∧
        t.gnm.get 0xD111 1 = (s.gnm.rs.cycles + 1) % 2 ^ 32 ∧ t.gnm.count = 0 ∧ t.gnm.rs = s.gnm.rs ∧ t.hw.seqs = s.hw.seqs ∧
        t.pending = s.pending) ∧
    (∃ t, exec .aonPorAssert s = .next t ∧ t.hw.eng.state = .off ∧ t.gnm.powered = false ∧ t.gnm.rs = s.gnm.rs ∧
      t.hw.seqs = s.hw.mirrorSeqs ∧ t.hw.facets = Hw.reset.facets ∧ t.hw.parts = Hw.reset.parts ∧ t.hw.descs = Hw.reset.descs ∧
      t.hw.jobs = Hw.reset.jobs ∧ t.hw.mem = Hw.reset.mem ∧ t.hw.side = Hw.reset.side ∧ t.win = Window.reset ∧ t.pending = s.pending) ∧
    (∃ t, exec .powerLoss s = .next t ∧ t.hw.eng.state = .off ∧ t.gnm.powered = false ∧ t.gnm.rs = s.gnm.rs ∧
      t.hw.seqs = s.hw.mirrorSeqs ∧ t.hw.facets = Hw.reset.facets ∧ t.hw.parts = Hw.reset.parts ∧ t.hw.descs = Hw.reset.descs ∧
      t.hw.jobs = Hw.reset.jobs ∧ t.hw.mem = Hw.reset.mem ∧ t.hw.side = Hw.reset.side ∧ t.win = Window.reset ∧ t.pending = s.pending) ∧
    (s.hw.eng.state ≠ .off →
      ∃ t, exec .aonRstAssert s = .next t ∧ t.hw.pins.rstLow = true ∧
        (if s.hw.eng.state = .retain then t.hw.eng.state = .retain ∧ t.gnm = s.gnm
          else t.hw.eng.state = .start ∧ t.gnm = { s.gnm with cause := 1 }) ∧
        t.hw.seqs = s.hw.mirrorSeqs ∧ t.hw.facets = Hw.reset.facets ∧ t.hw.parts = Hw.reset.parts ∧ t.hw.descs = Hw.reset.descs ∧
        t.hw.jobs = Hw.reset.jobs ∧ t.hw.od = Hw.reset.od ∧ t.hw.mem = Hw.reset.mem ∧ t.hw.side = Hw.reset.side ∧ t.win = Window.reset ∧
        t.pending = s.pending) ∧
    (s.hw.eng.state = .off →
      exec .aonRstAssert s = .next { s with hw := { s.hw with pins := { s.hw.pins with rstLow := true } } })

/-- R373, R377, R379, Table 15.6: a start in which no alternate fails, and none of the three steps without one fails, ends in CONFIG with a
ledger of sixteen steps that reads result 0, `aon_wake` and `aon_iso` low and NEXT_START taken. Its watchdog, once 0xA102 has passed since the
start began, resets the core for a start with cause 3, and at the fourth expiry in a row holds the engine in FAULT_HOLD; before that it does
nothing. That a whole start is one command, and the fourth expiry's hold, are the model's readings (log entries 93 and 96). -/
def Obligations.Starts : Prop :=
  ∀ s : State,
    (∀ r : StartReport, s.hw.Quiet → s.hw.ccNext = 0 → s.hw.eng.state ≠ .off → (s.hw.pins.rstLow = true ∨ s.hw.eng.state = .start) →
      r.alternateFails = [] → 1 ∉ r.standardFails → 9 ∉ r.standardFails → 15 ∉ r.standardFails →
      ∃ t, exec (.aonRstRelease r) s = .next t ∧ t.hw.eng.state = .config ∧ t.hw.pins.rstLow = false ∧ t.gnm.wake = false ∧
        t.gnm.iso = false ∧ t.gnm.get 0xA014 1 = 0 ∧ t.gnm.watchdogRun = 0 ∧ t.pending = s.pending ∧
        ∃ l, t.gnm.ledgers.head? = some l ∧ l.result = 0 ∧ l.failed = 0 ∧ l.steps.length = 16) ∧
    (s.hw.eng.state = .start → s.hw.pins.rstLow = false → s.gnm.watchdogMs * 32768 ≤ s.gnm.startTicks * 1000 → s.gnm.watchdogRun < 3 →
      ∃ t, exec .startWatchdogExpiry s = .next t ∧ t.hw.eng.state = .start ∧ t.gnm.cause = 3 ∧
        t.gnm.watchdogRun = s.gnm.watchdogRun + 1 ∧ t.gnm.startTicks = 0 ∧ t.hw.facets = Hw.reset.facets ∧
        (t.gnm.ledgers.head?.map fun l => l.result) = some 2) ∧
    (s.Ready → s.hw.eng.state = .start → s.gnm.watchdogMs * 32768 ≤ s.gnm.startTicks * 1000 → 3 ≤ s.gnm.watchdogRun →
      ∃ t, exec .startWatchdogExpiry s = .next t ∧ t.hw.eng.state = .faultHold ∧ t.gnm = s.gnm) ∧
    (s.gnm.startTicks * 1000 < s.gnm.watchdogMs * 32768 → exec .startWatchdogExpiry s = .next s)

/-! ## Time -/

/-- R36 to R39, R404: a tick adds the increment to the count, which is nominal while the Gnomon runs free or has nothing to absorb, and the
core's interpolation restarts from it; an offset beyond what one tick may absorb is taken up at the slew limit, either way; an import beyond the
step threshold ahead is taken at once and one beyond it behind becomes an offset, both counted and logged; one within it becomes the offset; the
first import ahead starts the count; imports that stay away for the timeout leave the Gnomon free at the nominal increment; and the tick that
completes an operating hour counts it and keeps it. -/
def Obligations.WallTime : Prop :=
  ∀ s : State, s.gnm.powered = true →
    (s.Ready → (s.gnm.synced = false ∨ s.gnm.offset = 0) →
      ∃ t, exec .gnomonTick s = .next t ∧ t.gnm.count = (s.gnm.count + 1953125) % 2 ^ 70 ∧ t.gnm.inc = 1953125 ∧
        t.gnm.offset = s.gnm.offset ∧ t.hw.clk = { s.hw.clk with g := t.gnm.time, n := 0, inc := 1953125 } ∧
        t.gnm.get 0xD112 1 = min (s.gnm.get 0xD112 1 + 1) 117964799 ∧ t.hw.seqs = s.hw.seqs ∧ t.hw.facets = s.hw.facets) ∧
    (s.gnm.synced = true → (s.gnm.ageTicks + 1) * 1000 < s.gnm.get 0xD100 8 * 32768 →
      (slewMax (s.gnm.get 0xD100 4) : Int) < s.gnm.offset →
      ∃ t, exec .gnomonTick s = .next t ∧ t.gnm.inc = 1953125 + slewMax (s.gnm.get 0xD100 4) ∧ t.gnm.synced = true ∧
        t.gnm.offset = s.gnm.offset - slewMax (s.gnm.get 0xD100 4) ∧ t.gnm.count = (s.gnm.count + t.gnm.inc) % 2 ^ 70) ∧
    (s.gnm.synced = true → (s.gnm.ageTicks + 1) * 1000 < s.gnm.get 0xD100 8 * 32768 →
      s.gnm.offset < -(slewMax (s.gnm.get 0xD100 4) : Int) →
      ∃ t, exec .gnomonTick s = .next t ∧ t.gnm.inc = 1953125 - slewMax (s.gnm.get 0xD100 4) ∧ t.gnm.synced = true ∧
        t.gnm.offset = s.gnm.offset + slewMax (s.gnm.get 0xD100 4) ∧ t.gnm.count = (s.gnm.count + t.gnm.inc) % 2 ^ 70) ∧
    (∀ ns, s.Ready → s.gnm.anyImport = true → s.gnm.time + s.gnm.get 0xD100 5 < ns →
      ∃ t, exec (.timeImport ns) s = .next t ∧ t.gnm.count = ns * 64 % 2 ^ 70 ∧ t.gnm.offset = 0 ∧ t.gnm.synced = true ∧
        t.gnm.ageTicks = 0 ∧ t.gnm.get 0xD100 6 = (s.gnm.get 0xD100 6 + 1) % 2 ^ 64 ∧
        t.hw.occurred 0xF = (s.hw.occurred 0xF + 1) % 2 ^ 64) ∧
    (∀ ns, s.Ready → s.gnm.anyImport = true → ns + s.gnm.get 0xD100 5 < s.gnm.time →
      ∃ t, exec (.timeImport ns) s = .next t ∧ t.gnm.count = s.gnm.count ∧ t.gnm.offset = ((ns : Int) - s.gnm.time) * 64 ∧
        t.gnm.synced = true ∧ t.gnm.ageTicks = 0 ∧ t.gnm.get 0xD100 6 = (s.gnm.get 0xD100 6 + 1) % 2 ^ 64 ∧
        t.hw.occurred 0xF = (s.hw.occurred 0xF + 1) % 2 ^ 64) ∧
    (∀ ns, s.Ready → s.gnm.anyImport = true → ns ≤ s.gnm.time + s.gnm.get 0xD100 5 → s.gnm.time ≤ ns + s.gnm.get 0xD100 5 →
      ∃ t, exec (.timeImport ns) s = .next t ∧
        t.gnm = { s.gnm with synced := true, anyImport := true, ageTicks := 0, offset := ((ns : Int) - s.gnm.time) * 64 } ∧
        Hw.SameOut t.hw (s.hw.sends [])) ∧
    (∀ ns, s.Ready → s.gnm.anyImport = false → s.gnm.time ≤ ns →
      ∃ t, exec (.timeImport ns) s = .next t ∧
        t.gnm = { s.gnm with synced := true, anyImport := true, ageTicks := 0, offset := 0, count := ns * 64 % 2 ^ 70 } ∧
        Hw.SameOut t.hw (s.hw.sends [])) ∧
    (s.gnm.get 0xD100 8 * 32768 ≤ s.gnm.ageTicks * 1000 →
      ∃ t, exec .importTimeout s = .next t ∧ t.gnm = { s.gnm with synced := false, inc := 1953125 } ∧ t.hw = s.hw ∧ t.win = s.win) ∧
    (s.gnm.ageTicks * 1000 < s.gnm.get 0xD100 8 * 32768 → exec .importTimeout s = .next s) ∧
    (s.hw.eng.state ≠ .off → s.hw.eng.state ≠ .retain → s.gnm.get 0xD112 1 = 117964799 →
      ∃ t, exec .operatingHour s = .next t ∧ t.gnm.get 0xD110 1 = (s.gnm.get 0xD110 1 + 1) % 2 ^ 32 ∧ t.gnm.get 0xD112 1 = 0 ∧
        t.gnm.rs.hours = t.gnm.get 0xD110 1 ∧ t.gnm.rs.hourTicks = 0 ∧ t.hw = s.hw ∧ t.win = s.win) ∧
    (s.gnm.get 0xD112 1 < 117964799 → exec .operatingHour s = .next s)

/-- R40, R42 to R45, R219: the wall tick takes the new floor of wall time in µs; a deadline whose µs lies below the tick's is missed, counted
once, and under policy 1 asks for the sequence's end; an entry is inserted in key order while its list holds fewer than 4,096 with the
reservations, and otherwise counted and answered FULL; a cancel removes the entries that it names; and a release hands the first due timer over
and takes it off its list. -/
def Obligations.DelaysAndDeadlines : Prop :=
  ∀ (s : State) (l : Fin 4), s.Ready →
    (s.hw.clk.us < s.hw.nowUs →
      ∃ t, exec .wallTick s = .next t ∧ t.hw.clk = { s.hw.clk with us := s.hw.nowUs } ∧ t.hw.seqs = s.hw.seqs ∧ t.hw.delays = s.hw.delays) ∧
    (s.hw.nowUs ≤ s.hw.clk.us → ∃ t, exec .wallTick s = .next t ∧ s.Leaves t (s.hw.sends [])) ∧
    (∀ slot q, s.hw.seq? slot = some q → q.com.cls = .dl → q.com.state ≠ .ended → q.missSeen = false →
      q.com.deadline / 1000 < s.hw.nowUs → s.hw.get 0x9010 (q.com.facet + 1) ≤ 1 →
      ∃ t, exec (.deadlineMiss slot) s = .next t ∧
        t.hw.seq? slot = some { q with
          missSeen := true
          cancelAsked := if s.hw.get 0x9010 (q.com.facet + 1) = 1 then some (q.cancelAsked.getD .deadline) else q.cancelAsked } ∧
        t.hw.get 0x9015 (q.com.facet + 1) = (s.hw.get 0x9015 (q.com.facet + 1) + 1) % 2 ^ 64 ∧
        ∀ k, k ≠ slot → t.hw.seq? k = s.hw.seq? k) ∧
    (∀ slot q, s.hw.seq? slot = some q →
      q.com.cls ≠ .dl ∨ q.com.state = .ended ∨ q.missSeen = true ∨ s.hw.nowUs ≤ q.com.deadline / 1000 →
      ∃ t, exec (.deadlineMiss slot) s = .next t ∧ s.Leaves t (s.hw.sends [])) ∧
    (∀ (key : Nat) (kind : Fin 3) (payload : Nat), (s.hw.delay l).entries.length + (s.hw.delay l).reserved < 4096 →
      ∃ t, exec (.delayInsert l key kind payload) s = .next t ∧
        (t.hw.delay l).entries = insertBy (fun a b => decide (a.key < b.key))
          { key := key % 2 ^ 64, kind := kind, payload := payload % 2 ^ 32, sinceCc := s.hw.cc, atBegin := false } (s.hw.delay l).entries ∧
        (t.hw.delay l).reserved = (s.hw.delay l).reserved ∧
        (∀ k, k ≠ l.val → t.hw.delay k = s.hw.delay k) ∧ t.hw.descs = s.hw.descs ∧ t.hw.seqs = s.hw.seqs) ∧
    (∀ (key : Nat) (kind : Fin 3) (payload : Nat), 4096 ≤ (s.hw.delay l).entries.length + (s.hw.delay l).reserved →
      ∃ t, exec (.delayInsert l key kind payload) s = .next t ∧
        s.Leaves t ((s.hw.inc 0x6302 (l + 1)).sends [.delayFull l kind payload])) ∧
    (∀ (kind : Fin 3) (payload : Nat), s.hw.dueEntries l = [] →
      ∃ t, exec (.delayCancel l kind payload) s = .next t ∧
        (t.hw.delay l).entries = ((s.hw.delay l).entries.filter fun e => !(e.kind == kind.val && e.payload == payload % 2 ^ 32)) ∧
        (∀ k, k ≠ l.val → t.hw.delay k = s.hw.delay k) ∧ t.hw.descs = s.hw.descs ∧ t.hw.seqs = s.hw.seqs) ∧
    (∀ e, s.hw.dueEntries l = [e] → e.kind ≠ 0 →
      ∃ t, exec (.delayRelease l) s = .next t ∧ (t.hw.delay l).entries = (s.hw.delay l).entries.erase e ∧
        t.hw.out = [.timer e.kind e.payload] ∧ t.hw.descs = s.hw.descs ∧ t.hw.seqs = s.hw.seqs ∧
        ∀ k, k ≠ l.val → t.hw.delay k = s.hw.delay k) ∧
    (s.hw.dueEntries l = [] → ∃ t, exec (.delayRelease l) s = .next t ∧ s.Leaves t (s.hw.sends []))

/-! ## The host's ports -/

/-- R48, R49, R54, R55, R144, Table 3.3: with fewer than 16 reads outstanding, a doorbell narrower than 8 bytes is malformed, dropped and counted
in 0x2002; a submission doorbell that shows at most n entries beyond c is latched, one beyond is counted and logged, and one in the cc of its
ring's disable is dropped; a delivery doorbell moves C within C to M, and raises the queue's vector only where it is armed and M differs, and one
beyond is counted. With 16 outstanding none is taken. -/
def Obligations.Doorbells : Prop :=
  ∀ (s : State) (k : Fin 4096) (data : Word64), s.Ready →
    (s.hw.hostReads.length < 16 →
      (∀ strb : BitVec 8, strb ≠ 0xFF →
        (∃ t, exec (.submissionDoorbell k strb data) s = .next t ∧ s.Leaves t (s.hw.badStrobe.sends [])) ∧
        ∃ t, exec (.deliveryDoorbell k strb data) s = .next t ∧ s.Leaves t (s.hw.badStrobe.sends [])) ∧
      (s.hw.getAt 0x3011 6 k = 1 → sub32 (data.toNat % 2 ^ 32) (s.hw.ring k).consumed ≤ s.hw.getAt 0x3011 3 k →
        ∃ t, exec (.submissionDoorbell k 0xFF data) s = .next t ∧
          t.hw.ring k = { s.hw.ring k with latched := data.toNat % 2 ^ 32, toRead := true } ∧
          (∀ j, j ≠ k.val → t.hw.ring j = s.hw.ring j) ∧ t.hw.seqs = s.hw.seqs ∧ t.hw.queues = s.hw.queues) ∧
      (s.hw.getAt 0x3011 6 k = 1 → s.hw.getAt 0x3011 3 k < sub32 (data.toNat % 2 ^ 32) (s.hw.ring k).consumed →
        ∃ t, exec (.submissionDoorbell k 0xFF data) s = .next t ∧ t.hw.rings = s.hw.rings ∧
          t.hw.get 0x2002 1 = (s.hw.get 0x2002 1 + 1) % 2 ^ 64 ∧ t.hw.occurred 1 = (s.hw.occurred 1 + 1) % 2 ^ 64) ∧
      (s.hw.getAt 0x3011 6 k = 0 → (s.hw.ring k).offCc = some s.hw.cc →
        ∃ t, exec (.submissionDoorbell k 0xFF data) s = .next t ∧ s.Leaves t (s.hw.sends [])) ∧
      (sub32 (data.toNat % 2 ^ 32) (s.hw.queue k).c ≤ sub32 (s.hw.queue k).m (s.hw.queue k).c →
        ∃ t, exec (.deliveryDoorbell k 0xFF data) s = .next t ∧ t.hw.rings = s.hw.rings ∧
          t.hw.queue k = { s.hw.queue k with
            c := data.toNat % 2 ^ 32
            armed := ((s.hw.queue k).armed || data.getLsbD 32) && decide ((s.hw.queue k).m = data.toNat % 2 ^ 32) } ∧
          ∀ j, j ≠ k.val → t.hw.queue j = s.hw.queue j) ∧
      (sub32 (s.hw.queue k).m (s.hw.queue k).c < sub32 (data.toNat % 2 ^ 32) (s.hw.queue k).c →
        ∃ t, exec (.deliveryDoorbell k 0xFF data) s = .next t ∧ t.hw.queues = s.hw.queues ∧
          t.hw.get 0x2002 1 = (s.hw.get 0x2002 1 + 1) % 2 ^ 64 ∧ t.hw.occurred 2 = (s.hw.occurred 2 + 1) % 2 ^ 64)) ∧
    (16 ≤ s.hw.hostReads.length → ∀ strb : BitVec 8,
      (∃ t, exec (.submissionDoorbell k strb data) s = .next t ∧ s.Leaves t (s.hw.sends [])) ∧
      ∃ t, exec (.deliveryDoorbell k strb data) s = .next t ∧ s.Leaves t (s.hw.sends []))

/-- R48, R49, R52, R57, Table 3.3: a privileged read of NOTICE takes its value, which it clears unless only the high half is enabled; an access
without privilege to the window or fast status is denied and counted in 0x2001, a write to fast status is dropped and counted in 0x2000, a read
of a reserved range is answered 0 and counted there too (the reading of log entry 44), and a strobe that R49 does not allow makes a read answer status 2. Where
no read is outstanding the integrator takes the response at once if it is ready, and it waits in order if not. -/
def Obligations.TargetAccesses : Prop :=
  ∀ (s : State) (tag : BitVec 8), s.Ready → s.hw.hostReads.length < 16 →
    (∀ strb : BitVec 8, strb = 0xFF ∨ strb = 0x0F →
      ∃ t, exec (.noticeRead strb true tag) s = .next t ∧ t.hw.events.notice = 0 ∧
        (s.hw.hostReads = [] → s.hw.pins.rspReady = true → t.hw.out = [.response tag (BitVec.ofNat 64 s.hw.events.notice) 0]) ∧
        (s.hw.pins.rspReady = false → t.hw.hostReads = s.hw.hostReads ++ [(tag, BitVec.ofNat 64 s.hw.events.notice, 0)] ∧ t.hw.out = []) ∧
        t.win = s.win ∧ t.gnm = s.gnm) ∧
    (s.hw.pins.rspReady = false →
      ∃ t, exec (.noticeRead 0xF0 true tag) s = .next t ∧ t.hw.events.notice = s.hw.events.notice ∧
        s.Leaves t (({ s.hw with hostReads := s.hw.hostReads ++ [(tag, BitVec.ofNat 64 s.hw.events.notice, 0)] } : Hw).sends [])) ∧
    (s.hw.hostReads = [] → s.hw.pins.rspReady = true →
      (∃ t, exec (.noticeRead 0xF0 true tag) s = .next t ∧ t.hw.events.notice = s.hw.events.notice ∧
        s.Leaves t (s.hw.sends [.response tag (BitVec.ofNat 64 s.hw.events.notice) 0])) ∧
      (∃ t, exec (.noticeRead 0xFF false tag) s = .next t ∧ t.hw.out = [.response tag 0 1] ∧
        t.hw.get 0x2001 1 = (s.hw.get 0x2001 1 + 1) % 2 ^ 64 ∧ t.hw.occurred 0 = (s.hw.occurred 0 + 1) % 2 ^ 64) ∧
      (∀ (addr : BitVec 26) (strb : BitVec 8), strobeOk strb = false →
        ∃ t, exec (.disallowedTargetAccess false addr strb true tag) s = .next t ∧ t.hw.out = [.response tag 0 2] ∧
          t.hw.get 0x2002 1 = (s.hw.get 0x2002 1 + 1) % 2 ^ 64 ∧ t.win = s.win) ∧
      (∀ addr : BitVec 26, regionOf (addr.toNat / 8 * 8) = .reserved →
        ∃ t, exec (.disallowedTargetAccess false addr 0xFF false tag) s = .next t ∧ t.hw.out = [.response tag 0 0] ∧
          t.hw.get 0x2000 1 = (s.hw.get 0x2000 1 + 1) % 2 ^ 64 ∧ t.hw.occurred 0 = (s.hw.occurred 0 + 1) % 2 ^ 64 ∧ t.win = s.win ∧
          t.gnm = s.gnm)) ∧
    (∀ addr : BitVec 26, regionOf (addr.toNat / 8 * 8) = .fast →
      ∃ t, exec (.disallowedTargetAccess true addr 0xFF true tag) s = .next t ∧ t.hw.get 0x2000 1 = (s.hw.get 0x2000 1 + 1) % 2 ^ 64 ∧
        t.hw.out = [] ∧ t.win = s.win ∧ t.gnm = s.gnm ∧ t.hw.facets = s.hw.facets ∧ t.hw.seqs = s.hw.seqs) ∧
    (∀ addr : BitVec 26, regionOf (addr.toNat / 8 * 8) = .window →
      ∃ t, exec (.disallowedTargetAccess true addr 0xFF false tag) s = .next t ∧ t.hw.get 0x2001 1 = (s.hw.get 0x2001 1 + 1) % 2 ^ 64 ∧
        t.hw.out = [] ∧ t.win = s.win)

/-- R104: writes of the window's registers while it is idle and the port takes requests: REQ_CTRL and REQ_LEN take their fields, GO makes it busy
and clears done, a 1 in RSP[1] clears done; while it is busy a write of REQ_CTRL, REQ_LEN, GO or DATA is dropped and counted in 0x2400.03; and
the bytes of DATA written read back, no other byte of it changed. That the command is taken as privileged is the model's choice (log entry
45). -/
def Obligations.WindowRegisters : Prop :=
  ∀ (s : State) (v : Word64), s.Ready → s.hw.hostReads.length < 16 →
    (s.win.busy = false →
      (∃ t, exec (.windowRegisterWrite 0x00 0xFF v) s = .next t ∧ t.win = { s.win with
        index := BitVec.ofNat 16 v.toNat
        sub := BitVec.ofNat 8 (v.toNat / 2 ^ 16)
        op := BitVec.ofNat 4 (v.toNat / 2 ^ 24)
        offset := BitVec.ofNat 32 (v.toNat / 2 ^ 32) } ∧ Hw.SameOut t.hw (s.hw.sends [])) ∧
      (∃ t, exec (.windowRegisterWrite 0x08 0xFF v) s = .next t ∧ t.win = { s.win with length := BitVec.ofNat 16 v.toNat } ∧
        Hw.SameOut t.hw (s.hw.sends [])) ∧
      (v.getLsbD 0 = true →
        ∃ t, exec (.windowRegisterWrite 0x10 0xFF v) s = .next t ∧ t.win = { s.win with busy := true, done := false, order := s.hw.cc } ∧
          Hw.SameOut t.hw (s.hw.sends [])) ∧
      (Memory.wf s.win.data = true →
        ∀ i : Fin 4096, ∃ t, exec (.windowRegisterWrite (BitVec.ofNat 16 (0x8000 + 8 * i)) 0xFF v) s = .next t ∧
          (∀ j : Fin 8, readCell t.win.data (8 * i + j) = BitVec.ofNat 8 (v.toNat / 256 ^ j.val)) ∧
          (∀ a, a < 8 * i.val ∨ 8 * i.val + 8 ≤ a → readCell t.win.data a = readCell s.win.data a) ∧
          t.win = { s.win with data := t.win.data } ∧ Hw.SameOut t.hw (s.hw.sends []))) ∧
    (s.win.busy = true → ∀ off : BitVec 16, off.toNat ≤ 0x10 ∨ 0x8000 ≤ off.toNat →
      ∃ t, exec (.windowRegisterWrite off 0xFF v) s = .next t ∧ t.win = s.win ∧
        t.hw.get 0x2400 3 = (s.hw.get 0x2400 3 + 1) % 2 ^ 64) ∧
    (∃ t, exec .rspDoneClear s = .next t ∧ t.win = { s.win with done := false } ∧ Hw.SameOut t.hw (s.hw.sends []))

/-! ## The dictionary's common commands -/

/-- R97, R103, R104, R105: a READ of an entry that is neither DOMAIN nor clearing answers OK with the entry's bytes, which the window shows from
DATA offset 0, and changes no entry but the counts of requests; an INFO answers its 32 bytes so; an index that no chapter defines answers
NO_ENTRY; and an expiry ends the path's snapshot or staged value where it is 10 s old, and nothing else. That a length of 0 asks for the whole
value is the model's reading (log entry 35). -/
def Obligations.DictionaryReads : Prop :=
  ∀ (s : State) (p : Path), s.Ready →
    (∀ (r : Req) (e : Entry), s.ImageRoom p → s.request? p = some r → r.path = p → r.bad = false → r.op = 0 → r.offset = 0 →
      (r.length = 0 ∨ r.length = e.type.size) → s.find r = (.ok, e) → e.type ≠ .domain → e.access ≠ .rc → r.sub ≠ 0 →
      ∃ t, exec (.dictRead p) s = .next t ∧ s.Answered t .ok p ∧ t.gnm = s.gnm ∧ t.hw.seqs = s.hw.seqs ∧ t.hw.facets = s.hw.facets ∧
        (p = .window →
          (let l := (s.begun p).valueBytes e r.sub (s.hw.objOf p e.sel)
          t.win.rspLen = l.length % 2 ^ 32 ∧ t.win.bytes l.length = l)) ∧
        t.hw.get 0x2400 1 = (s.hw.get 0x2400 1 + 1) % 2 ^ 64) ∧
    (∀ (r : Req) (e : Entry), s.ImageRoom p → s.request? p = some r → r.path = p → r.bad = false → r.op = 2 → s.find r = (.ok, e) →
      ∃ t, exec (.dictInfo p) s = .next t ∧ s.Answered t .ok p ∧ t.gnm = s.gnm ∧ t.hw.seqs = s.hw.seqs ∧ t.hw.facets = s.hw.facets ∧
        (p = .window → t.win.rspLen = 32 ∧ t.win.bytes 32 = (s.begun p).info e r.sub)) ∧
    (∀ r : Req, s.ImageRoom p → s.request? p = some r → r.path = p → r.bad = false → r.op = 0 → lookup r.idx r.sub = none →
      indexListed r.idx = false → ∃ t, exec (.dictRead p) s = .next t ∧ s.Answered t .noEntry p ∧ t.gnm = s.gnm ∧ t.hw.seqs = s.hw.seqs) ∧
    (∀ x, Map.find? s.hw.snaps (pathNum p) = some x →
      ∃ t, exec (.snapshotExpiry p) s = .next t ∧
        s.Leaves t (({ s.hw with snaps :=
          if x.ns + 10000000000 ≤ s.hw.now then Map.erase s.hw.snaps (pathNum p) else s.hw.snaps } : Hw).sends [])) ∧
    (∀ x, Map.find? s.hw.staged (pathNum p) = some x →
      ∃ t, exec (.stagedWriteExpiry p) s = .next t ∧
        s.Leaves t (({ s.hw with staged :=
          if x.ns + 10000000000 ≤ s.hw.now then Map.erase s.hw.staged (pathNum p) else s.hw.staged } : Hw).sends []))

/-- R97, R116, R422: a WRITE of a plain RW entry in its range is stored, and one outside it answers RANGE and leaves the entry; a WRITE of an
RO, RC or CONST entry answers READ_ONLY and changes none. -/
def Obligations.DictionaryWrites : Prop :=
  ∀ (s : State) (p : Path) (v : Nat), s.Ready → s.hw.eng.state = .operational →
    (∀ x ∈ [(0x2101, 1), (0x3120, 1), (0x6006, 1), (0xA001, 1), (0xC000, 1), (0xC003, 1)], ∀ e, lookup x.1 x.2 = some e →
      s.AsksWrite p x.1 x.2 v →
      (e.lo ≤ v → v ≤ e.hi →
        ∃ t, exec (.dictWrite p) s = .next t ∧ s.Answered t .ok p ∧ t.hw.get x.1 x.2 = v ∧ t.hw.seqs = s.hw.seqs ∧
          t.hw.facets = s.hw.facets ∧ t.gnm = s.gnm) ∧
      (v < e.lo ∨ e.hi < v →
        ∃ t, exec (.dictWrite p) s = .next t ∧ s.Answered t .range p ∧ t.hw.get x.1 x.2 = s.hw.get x.1 x.2 ∧ t.hw.seqs = s.hw.seqs ∧
          t.hw.facets = s.hw.facets ∧ t.gnm = s.gnm)) ∧
    (∀ (idx sub : Nat) (e : Entry), lookup idx sub = some e → e.access = .ro ∨ e.access = .rc ∨ e.access = .const →
      s.AsksWrite p idx sub v →
      ∃ t, exec (.dictWrite p) s = .next t ∧ s.Answered t .readOnly p ∧ t.hw.seqs = s.hw.seqs ∧ t.hw.facets = s.hw.facets ∧
        t.gnm = s.gnm)

/-! ## The retention store and the engine's drain -/

/-- R99, R100, R102, R111, R112, Table 5.9: a P image with changes not yet written is written whole, and the write counted; the two records hold
the masks as they stand and the reservations; and a saved value of each reserved counter lies above its live one. Once every facet rests and
every ledger is committed, a drain ends in QUIESCED with both records written, from which a pending CONFIG follows in the next cc
(`Hw.followTarget`, its part of that cc); before, nothing happens; and DRAIN_LIMIT, once it has passed, stops each draining facet at its next
commit. That a counter is saved again within half a reservation is the model's reading (log entry 83). -/
def Obligations.RetentionAndDrains : Prop :=
  (∀ s : State, s.Ready →
    (s.pendingBytes ≠ 0 →
      ∃ t, exec .pImageWrite s = .next t ∧ t.gnm.rs.image = some s.pImage ∧
        t.hw.get 0x1200 1 = (s.hw.get 0x1200 1 + 1) % 2 ^ 64 ∧ t.hw.out = [.retention 3 s.pendingBytes] ∧ t.hw.seqs = s.hw.seqs ∧
        t.gnm.rs.masks = s.gnm.rs.masks ∧ t.gnm.rs.counters = s.gnm.rs.counters) ∧
    (∃ t, exec .retentionRecordWrite s = .next t ∧ t.gnm.rs.masks = some s.hw.maskRecord ∧ t.gnm.rs.counters = some (.make s.reservations) ∧
      t.gnm.rs.image = s.gnm.rs.image ∧ t.hw.seqs = s.hw.seqs) ∧
    (∃ t m, exec .highWaterSave s = .next t ∧ t.gnm.rs.counters = some m ∧ t.gnm.rs.masks = s.gnm.rs.masks ∧
      t.gnm.rs.image = s.gnm.rs.image ∧ ∀ k ∈ highWaterKeys, ∃ v, Map.find? m.values k = some v ∧ s.hw.highWater k < v)) ∧
  (∀ s : State, s.Ready → s.hw.eng.state = .draining →
    (s.hw.drained = true → s.hw.eng.pendingTarget = none → s.hw.pins.retReq = false →
      ∃ t, exec .engineDrainComplete s = .next t ∧ t.hw.eng.state = .quiesced ∧ t.hw.get 0x1103 1 = 5 ∧ t.hw.facets = s.hw.facets ∧
        t.gnm.rs.masks = some s.hw.maskRecord ∧ t.gnm.rs.counters = some (.make s.reservations)) ∧
    (s.hw.drained = true → s.hw.eng.pendingTarget = some .config →
      ∃ t, exec .engineDrainComplete s = .next t ∧ t.hw.eng.state = .quiesced ∧ t.hw.eng.pendingTarget = some .config ∧
        t.hw.facets = s.hw.facets) ∧
    (s.hw.drained = false → ∃ t, exec .engineDrainComplete s = .next t ∧ s.Leaves t (s.hw.sends [])) ∧
    (s.hw.eng.limitHit = false → s.hw.eng.drainNs + 1000000 * s.hw.get 0x1105 1 ≤ s.hw.now →
      (∀ f : Fin 16, (s.hw.facet f).state = .draining ∨ (s.hw.facet f).state = .standby) →
      (∀ f : Fin 16, (s.hw.job f false).state ≠ .pending) →
      ∃ t, exec .drainLimitExpiry s = .next t ∧ t.hw.eng.limitHit = true ∧
        ∀ f : Fin 16, t.hw.facet f = if (s.hw.facet f).state = .draining then { s.hw.facet f with stopAtCommit := true } else s.hw.facet f) ∧
    (s.hw.now < s.hw.eng.drainNs + 1000000 * s.hw.get 0x1105 1 →
      ∃ t, exec .drainLimitExpiry s = .next t ∧ s.Leaves t (s.hw.sends []))) ∧
  ∀ h : Hw, h.eng.state = .quiesced → h.eng.pendingTarget = some .config →
    h.followTarget.eng.state = .config ∧ h.followTarget.eng.pendingTarget = none ∧ h.followTarget.facets = h.facets

/-! ## Phases and marks -/

/-- R27, R28, R29, R32, R34, R35: a report of a later phase is taken; one of an earlier phase is a fault of the facet and counted; a begin on a
step whose marks have all fired adds 1 to the step, clears them and takes the staged marks that are ready; a stall of 0x5207 is logged once, and
one of twice that is a fault; before that the stall commands do nothing; and a facet that runs no step reads no report. -/
def Obligations.PhaseReports : Prop :=
  ∀ (s : State) (f : Fin 16) (ph : BitVec 16), s.Ready →
    ((s.hw.facet f).state.runs = true → (s.hw.facet f).phase < ph.toNat →
      ∃ t, exec (.phaseReport f ph) s = .next t ∧ t.hw.facet f = { s.hw.facet f with
        phase := ph.toNat, phaseNs := s.hw.now, stallLogged := false, stallFaulted := false } ∧
        t.hw.seqs = s.hw.seqs ∧ ∀ k : Fin 16, k ≠ f → t.hw.facet k = s.hw.facet k) ∧
    ((s.hw.facet f).state = .active → (s.hw.facet f).stepRuns = true → ph.toNat < (s.hw.facet f).phase →
      s.hw.raw 0xA006 (f + 1) < s.hw.get 0xA001 1 →
      ∃ t, exec (.phaseReport f ph) s = .next t ∧ (t.hw.facet f).recovering = true ∧
        t.hw.get 0x520A (f + 1) = (s.hw.get 0x520A (f + 1) + 1) % 2 ^ 64) ∧
    ((s.hw.facet f).state.runs = false → ∃ t, exec (.phaseReport f ph) s = .next t ∧ s.Leaves t (s.hw.sends [])) ∧
    ((s.hw.facet f).state.runs = true → (s.hw.facet f).mayBegin = true → (s.hw.facet f).unfired = [] →
      ∃ t, exec (.stepBegin f ph) s = .next t ∧ (t.hw.facet f).step = ((s.hw.facet f).step + 1) % 2 ^ 64 ∧ (t.hw.facet f).fired = [] ∧
        (t.hw.facet f).stepRuns = true ∧ (t.hw.facet f).phase = ph.toNat ∧ (t.hw.facet f).phaseNs = s.hw.now ∧
        (t.hw.facet f).marks = (if (s.hw.facet f).setPending && !(s.hw.facet f).setReady then (s.hw.facet f).marks
          else s.hw.stagedMarks f) ∧ t.hw.seqs = s.hw.seqs ∧ ∀ k : Fin 16, k ≠ f → t.hw.facet k = s.hw.facet k) ∧
    ((s.hw.facet f).state.runs = false → ∃ t, exec (.stepBegin f ph) s = .next t ∧ s.Leaves t (s.hw.sends [])) ∧
    ((s.hw.facet f).state.runs = true → (s.hw.facet f).stallLogged = false → s.hw.stallNs f ≤ s.hw.phaseAge f →
      ∃ t, exec (.phaseStall f) s = .next t ∧ t.hw.facet f = { s.hw.facet f with stallLogged := true } ∧
        t.hw.occurred 0 = (s.hw.occurred 0 + 1) % 2 ^ 64 ∧ t.hw.seqs = s.hw.seqs ∧ ∀ k : Fin 16, k ≠ f → t.hw.facet k = s.hw.facet k) ∧
    (s.hw.phaseAge f < s.hw.stallNs f → ∃ t, exec (.phaseStall f) s = .next t ∧ s.Leaves t (s.hw.sends [])) ∧
    ((s.hw.facet f).state = .active → (s.hw.facet f).stallFaulted = false → 2 * s.hw.stallNs f ≤ s.hw.phaseAge f →
      s.hw.raw 0xA006 (f + 1) < s.hw.get 0xA001 1 →
      ∃ t, exec (.phaseStallRecovery f) s = .next t ∧ (t.hw.facet f).recovering = true ∧ (t.hw.facet f).stallFaulted = true) ∧
    (s.hw.phaseAge f < 2 * s.hw.stallNs f → ∃ t, exec (.phaseStallRecovery f) s = .next t ∧ s.Leaves t (s.hw.sends []))

/-- R30, R33, R176, R180, Table 2.2: a mark that is due fires. `M_COMPOSE` starts SCAN of the next step; `M_PREFETCH` marks the lists of a PLANNED
plan as sent; `M_DRAFT` releases its DRAFT commands; `M_CAPTURE` latches its totals and, on a facet whose mode is not Chord, does no more; and
`M_COMMIT` takes it out of TES, which is idle again. A mark that is not due has no effect. -/
def Obligations.Marks : Prop :=
  ∀ (s : State) (f : Fin 16), s.Ready → (s.hw.facet f).state = .active →
    ((s.hw.facet f).due .compose = true → s.hw.mayCompose f ((s.hw.facet f).step + 1) = true →
      ∃ t, exec (.mCompose f) s = .next t ∧ (t.hw.facet f).tes = .scan ∧
        ∃ p, (t.hw.facet f).composing = some p ∧ p.step = (s.hw.facet f).step + 1) ∧
    (∀ p, (s.hw.facet f).due .pfetch = true → (s.hw.facet f).tes = .planned → (s.hw.facet f).composing = some p → p.listsSent = false →
      ∃ t, exec (.mPrefetch f) s = .next t ∧ (t.hw.facet f).composing = some { p with listsSent := true }) ∧
    (∀ p, (s.hw.facet f).due .draft = true → (s.hw.facet f).tes = .planned → (s.hw.facet f).composing = some p →
      ∃ t, exec (.mDraft f) s = .next t ∧ t.hw.facet f = { s.hw.facet f with
        fired := (s.hw.facet f).fired ++ [.draft], composing := some { p with frozen := true } } ∧ t.hw.seqs = s.hw.seqs ∧
        ∀ k : Fin 16, k ≠ f → t.hw.facet k = s.hw.facet k) ∧
    (∀ p, (s.hw.facet f).due .capture = true → (s.hw.facet f).tes = .planned → (s.hw.facet f).composing = some p → s.hw.modeNow f ≠ 3 →
      ∃ t, exec (.mCapture f) s = .next t ∧ t.hw.facet f = { s.hw.facet f with fired := (s.hw.facet f).fired ++ [.capture] } ∧
        t.hw.get 0x5014 (f + 1) = p.places.length ∧ t.hw.get 0x5015 (f + 1) = positionsOf p.places ∧
        t.hw.get 0x5016 (f + 1) = p.charge ∧ t.hw.seqs = s.hw.seqs ∧ ∀ k : Fin 16, k ≠ f → t.hw.facet k = s.hw.facet k) ∧
    ((s.hw.facet f).due .commit = true → (s.hw.facet f).tes = .planned →
      ∃ t, exec (.mCommit f) s = .next t ∧ (t.hw.facet f).tes = .idle ∧ (t.hw.facet f).composing = none) ∧
    ((s.hw.facet f).due .compose = false → ∃ t, exec (.mCompose f) s = .next t ∧ s.Leaves t (s.hw.sends [])) ∧
    ((s.hw.facet f).due .pfetch = false → ∃ t, exec (.mPrefetch f) s = .next t ∧ s.Leaves t (s.hw.sends [])) ∧
    ((s.hw.facet f).due .draft = false → ∃ t, exec (.mDraft f) s = .next t ∧ s.Leaves t (s.hw.sends [])) ∧
    ((s.hw.facet f).due .capture = false → ∃ t, exec (.mCapture f) s = .next t ∧ s.Leaves t (s.hw.sends [])) ∧
    ((s.hw.facet f).due .commit = false → ∃ t, exec (.mCommit f) s = .next t ∧ s.Leaves t (s.hw.sends []))

/-! ## The memory port -/

/-- R60, R61, R67, R68, Table 3.11, R423: an OKAY that is in time takes its access off its channel; a first failure sends the access once more
with its fields unchanged and counts in 0x2103; a second one of a committed write keeps it for a re-issue a microsecond later, with an event;
the watchdog, MEM_TIMEOUT after the transfer, makes the access a failed one whose tag stays unused; a late response frees that tag and is
counted in 0x2102; a watchdog or response of no request has no effect; and a kept write goes out again when its time has come, not before. That
an access whose watchdog expires is sent again at once, under a tag of its own, is the model's reading (log entry 68). -/
def Obligations.MemoryResponses : Prop :=
  ∀ (s : State) (ch : Fin 2) (tag : Fin 1024), s.Ready →
    (∀ r data, s.hw.memFind ch tag false = some r → r.use = .startRead → r.expired = false → s.hw.clk.prev < s.hw.memLimit r →
      r.tenant = none → s.hw.mem.queue = [] →
      ∃ t, exec (.memReadResponse ch tag .okay data) s = .next t ∧ t.hw.mem = { s.hw.mem with out := s.hw.mem.out.erase r } ∧
        t.hw.seqs = s.hw.seqs ∧ t.hw.facets = s.hw.facets) ∧
    (∀ r, s.hw.memFind ch tag true = some r → r.use = .other → r.expired = false → s.hw.clk.prev < s.hw.memLimit r →
      r.tenant = none → s.hw.mem.queue = [] →
      ∃ t, exec (.memWriteResponse ch tag .okay) s = .next t ∧ t.hw.mem = { s.hw.mem with out := s.hw.mem.out.erase r } ∧
        t.hw.seqs = s.hw.seqs ∧ t.hw.facets = s.hw.facets) ∧
    (∀ r, s.hw.memFind ch tag true = some r → r.expired = false → s.hw.clk.prev < s.hw.memLimit r → r.retried = false →
      s.hw.mem.queue = [] →
      ∃ t, exec (.memWriteResponse ch tag .slverr) s = .next t ∧
        t.hw.get 0x2103 (r.channel + 1) = (s.hw.get 0x2103 (r.channel + 1) + 1) % 2 ^ 64 ∧
        (∃ q ∈ t.hw.mem.out ++ t.hw.mem.queue, q.retried = true ∧ q.channel = r.channel ∧ q.addr = r.addr ∧ q.data = r.data ∧
          q.use = r.use ∧ q.purpose = r.purpose ∧ q.cls = r.cls ∧ q.ways = r.ways ∧ q.qos = r.qos) ∧ t.hw.facets = s.hw.facets) ∧
    (∀ r, s.hw.memFind ch tag true = some r → r.use = .other → r.expired = false → s.hw.clk.prev < s.hw.memLimit r → r.retried = true →
      r.purpose.dropped = false → r.fails < 15 → s.hw.mem.queue = [] →
      ∃ t, exec (.memWriteResponse ch tag .slverr) s = .next t ∧
        t.hw.mem.failed = s.hw.mem.failed ++ [{ r with fails := r.fails + 1, reissueNs := some (s.hw.now + 1000) }] ∧
        t.hw.mem.out = s.hw.mem.out.erase r ∧ t.hw.occurred 0 = (s.hw.occurred 0 + 1) % 2 ^ 64 ∧ t.hw.facets = s.hw.facets) ∧
    (∀ w : Bool, s.hw.memFind ch tag w = none →
      (∃ t, exec (.memWatchdogExpiry ch w tag) s = .next t ∧ s.Leaves t (s.hw.sends [])) ∧
      ∃ t, exec (.memLateResponse ch w tag) s = .next t ∧ s.Leaves t (s.hw.sends [])) ∧
    (∀ w r, s.hw.memFind ch tag w = some r → r.expired = false → s.hw.memLimit r ≤ s.hw.now → r.retried = false → s.hw.mem.queue = [] →
      ∃ t, exec (.memWatchdogExpiry ch w tag) s = .next t ∧
        (∃ q ∈ t.hw.mem.out, q.channel = r.channel ∧ q.tag = r.tag ∧ q.write = r.write ∧ q.expired = true) ∧
        (∃ q ∈ t.hw.mem.out ++ t.hw.mem.queue, q.retried = true ∧ q.addr = r.addr ∧ q.data = r.data ∧ q.use = r.use) ∧
        t.hw.get 0x2103 (r.channel + 1) = (s.hw.get 0x2103 (r.channel + 1) + 1) % 2 ^ 64 ∧ t.hw.facets = s.hw.facets) ∧
    (∀ w r, s.hw.memFind ch tag w = some r → r.expired = true ∨ s.hw.now < s.hw.memLimit r →
      ∃ t, exec (.memWatchdogExpiry ch w tag) s = .next t ∧ s.Leaves t (s.hw.sends [])) ∧
    (∀ w r, s.hw.memFind ch tag w = some r → r.expired = true → s.hw.mem.queue = [] →
      ∃ t, exec (.memLateResponse ch w tag) s = .next t ∧ t.hw.mem = { s.hw.mem with out := s.hw.mem.out.erase r } ∧
        t.hw.get 0x2102 (ch + 1) = (s.hw.get 0x2102 (ch + 1) + 1) % 2 ^ 64 ∧ t.hw.facets = s.hw.facets) ∧
    (∀ r, (s.hw.mem.failed.find? fun q => q.channel = ch.val && q.tag = tag.val) = some r →
      ((∀ since, r.reissueNs = some since → since ≤ s.hw.now) →
        ∃ t, exec (.committedWriteReissue ch tag) s = .next t ∧ t.hw.mem.failed = s.hw.mem.failed.erase r ∧
          ∃ q ∈ t.hw.mem.out ++ t.hw.mem.queue, q.addr = r.addr ∧ q.data = r.data ∧ q.use = r.use ∧ q.fails = r.fails) ∧
      (∀ since, r.reissueNs = some since → s.hw.now < since →
        ∃ t, exec (.committedWriteReissue ch tag) s = .next t ∧ s.Leaves t (s.hw.sends [])))

/-! ## The fabric port -/

/-- R72, R73, R207, R214, R216, R219: a released descriptor whose counter is 0 goes to the tail of its partition's ready list, or on its delay
list in the order of its key, and one whose active list is empty completes without dispatch; a tag that no descriptor has changes nothing. DSP sends
the descriptor that it chooses, with one credit less and its partition the last served; and with none to choose it sends nothing. -/
def Obligations.Dispatch : Prop :=
  ∀ s : State, s.Ready →
    (∀ (t : Fin 262144) (d : Desc), s.hw.desc? t = some d → d.state = .waiting → d.counter = 0 → d.kind ≠ 8 →
      s.hw.released t d = true → s.hw.jobReleased d = true → d.owner = .job → (s.hw.job d.facet d.urgentJob).semOf d.node = none →
      d.active = none → d.delay = none →
      ∃ u, exec (.descriptorZeroCounter t) s = .next u ∧
        u.hw.desc? t = some { d with state := .ready, readyCc := s.hw.cc, sentNo := 0 } ∧
        (u.hw.part d.part).ready = (s.hw.part d.part).ready ++ [t.val] ∧ (∀ k, k ≠ d.part → u.hw.part k = s.hw.part k) ∧
        u.hw.facets = s.hw.facets ∧ u.hw.seqs = s.hw.seqs) ∧
    (∀ (t : Fin 262144) (d : Desc), s.hw.desc? t = some d → d.state = .waiting → d.counter = 0 → d.kind ≠ 8 → d.owner ≠ .job →
      s.hw.released t d = true → d.active ≠ some [] → d.delay = none →
      ∃ u, exec (.descriptorZeroCounter t) s = .next u ∧
        u.hw.desc? t = some { d with state := .ready, readyCc := s.hw.cc, sentNo := 0 } ∧
        (u.hw.part d.part).ready = (s.hw.part d.part).ready ++ [t.val] ∧ (∀ k, k ≠ d.part → u.hw.part k = s.hw.part k) ∧
        u.hw.facets = s.hw.facets ∧ u.hw.seqs = s.hw.seqs) ∧
    (∀ (t : Fin 262144) (d : Desc) (l key : Nat), s.hw.desc? t = some d → d.state = .waiting → d.counter = 0 → d.kind ≠ 8 →
      s.hw.released t d = true → s.hw.jobReleased d = true → d.active ≠ some [] → d.delay = some (l, key) →
      ∃ u, exec (.descriptorZeroCounter t) s = .next u ∧ u.hw.desc? t = some { d with state := .delayed } ∧
        u.hw.delay l = { s.hw.delay l with
          entries := insertBy (fun a b => decide (a.key < b.key))
            { key := key, kind := 0, payload := t.val, sinceCc := s.hw.cc, atBegin := false } (s.hw.delay l).entries,
          reserved := (s.hw.delay l).reserved - 1 } ∧
        u.hw.parts = s.hw.parts ∧ u.hw.facets = s.hw.facets) ∧
    (∀ (t : Fin 262144) (d : Desc), s.hw.desc? t = some d → d.state = .waiting → d.counter = 0 → d.kind ≠ 8 → d.owner = .plan →
      s.hw.released t d = true → d.active = some [] → d.succ = [] →
      ∃ u, exec (.descriptorZeroCounter t) s = .next u ∧ u.hw.desc? t = none) ∧
    (∀ (t : Fin 262144), s.hw.desc? t = none →
      ∃ u, exec (.descriptorZeroCounter t) s = .next u ∧ s.Leaves u (s.hw.sends [])) ∧
    (∀ p t d, s.hw.choose = some (p, t) → s.hw.desc? t = some d →
      ∃ u, exec .commandDispatch s = .next u ∧ u.hw.out = [d.command t] ∧ (u.hw.part p).credits = (s.hw.part p).credits - 1 ∧
        (u.hw.part p).sent = (s.hw.part p).sent ++ [t] ∧ (u.hw.part p).ready = (s.hw.part p).ready.erase t ∧ u.hw.lastPart = p ∧
        (∃ d', u.hw.desc? t = some d' ∧ d'.state = .dispatched ∧ d'.counter = d.counter ∧ d'.succ = d.succ) ∧
        u.hw.facets = s.hw.facets ∧ u.hw.seqs = s.hw.seqs) ∧
    (s.hw.choose = none → ∃ u, exec .commandDispatch s = .next u ∧ s.Leaves u (s.hw.sends []))

/-- R73, R75, R78, R79, R82: credits return up to the partition's number, beyond it the return is dropped and logged, and while the drain is
acked it is not taken; a beat enters its channel's buffer while the channel is ready; a malformed record is dropped and counted in 0x2204; and a
well-formed one without reports enters the funnel, from which it can be read two cc later at the earliest. Neither is taken while the funnel is
full. -/
def Obligations.Completions : Prop :=
  ∀ s : State, s.Ready →
    (∀ (p : Fin 64) (n : Nat), (s.hw.part p).ack = false → (s.hw.part p).credits + n ≤ s.hw.get 0x2200 (p + 1) →
      (∀ f u, s.hw.facetOf p = some f → (s.hw.job f u).state ≠ .running) →
      ∃ t, exec (.creditReturn p n) s = .next t ∧
        s.Leaves t ((s.hw.modPart p fun x => { x with credits := x.credits + n }).sends [])) ∧
    (∀ (p : Fin 64) (n : Nat), (s.hw.part p).ack = false → s.hw.get 0x2200 (p + 1) < (s.hw.part p).credits + n →
      ∃ t, exec (.creditReturn p n) s = .next t ∧ t.hw.parts = s.hw.parts ∧ t.hw.descs = s.hw.descs ∧ t.hw.facets = s.hw.facets ∧
        t.hw.occurred 5 = (s.hw.occurred 5 + 1) % 2 ^ 64) ∧
    (∀ (p : Fin 64) (n : Nat), (s.hw.part p).ack = true →
      ∃ t, exec (.creditReturn p n) s = .next t ∧ s.Leaves t (s.hw.sends [])) ∧
    (∀ (k : Fin 4) (l : List Byte), s.hw.funnelReady = true → (s.hw.beats k).length ≤ 1020 →
      ∃ t, exec (.reportBeat k l) s = .next t ∧
        s.Leaves t (({ s.hw with reports := Map.insert s.hw.reports k (s.hw.beats k ++ [slice l 0 64]) } : Hw).sends [])) ∧
    (∀ (k : Fin 4) (l : List Byte), s.hw.funnelReady = false →
      (∃ t, exec (.reportBeat k l) s = .next t ∧ s.Leaves t (s.hw.sends [])) ∧
      ∃ t, exec (.completionRecord k l) s = .next t ∧ s.Leaves t (s.hw.sends [])) ∧
    (∀ (k : Fin 4) (l : List Byte), s.hw.funnelReady = true →
      ((s.hw.part (recordOf l).part).sent.contains (recordOf l).tag && s.hw.cmdOverdue (recordOf l).tag) = false →
      ((s.hw.part (recordOf l).part).ghosts.find? fun g => g.1 == (recordOf l).tag && (recordOf l).part / 16 == k.val) = none →
      s.hw.malformedRecord k l = true →
      ∃ t, exec (.completionRecord k l) s = .next t ∧ t.hw.funnel = s.hw.funnel ∧ t.hw.beats k = [] ∧
        t.hw.get 0x2204 (k + 1) = (s.hw.get 0x2204 (k + 1) + 1) % 2 ^ 64 ∧ t.hw.occurred 5 = (s.hw.occurred 5 + 1) % 2 ^ 64 ∧
        t.hw.descs = s.hw.descs ∧ t.hw.parts = s.hw.parts ∧ t.hw.facets = s.hw.facets) ∧
    (∀ (k : Fin 4) (l : List Byte) (d : Desc), s.hw.funnelReady = true → s.hw.cmdOverdue (recordOf l).tag = false →
      ((s.hw.part (recordOf l).part).ghosts.find? fun g => g.1 == (recordOf l).tag && (recordOf l).part / 16 == k.val) = none →
      s.hw.malformedRecord k l = false → s.hw.beats k = [] → s.hw.desc? (recordOf l).tag = some d →
      ∃ t, exec (.completionRecord k l) s = .next t ∧
        t.hw.funnel = s.hw.funnel ++ [{ record := recordOf l, cls := d.cls, level := d.level, since := s.hw.cc + 1 }] ∧
        t.hw.descs = s.hw.descs ∧ t.hw.parts = s.hw.parts ∧ t.hw.facets = s.hw.facets)

/-- R76, R77, R79, R208, R212, R224: a record is read from the second cc after its transfer on; that of a retired command is discarded; an OK
record of a plan's command frees its descriptor and its place in the order of transfer and takes 1 from the counter of its successor; a DISCARDED
one makes a running facet's command READY again; and a watchdog that expires makes its facet recover, while before its time, or for a tag that no
descriptor has, it does nothing. -/
def Obligations.FunnelReads : Prop :=
  ∀ s : State, s.Ready →
    (s.hw.funnel = [] → ∃ t, exec .funnelRead s = .next t ∧ s.Leaves t (s.hw.sends [])) ∧
    (∀ e, s.hw.funnel = [e] → s.hw.cc ≤ e.since → ∃ t, exec .funnelRead s = .next t ∧ s.Leaves t (s.hw.sends [])) ∧
    (∀ e g, s.hw.funnel = [e] → e.since < s.hw.cc → s.hw.cc < e.since + 8 →
      ((s.hw.part e.record.part).ghosts.find? fun x => x.1 == e.record.tag) = some g →
      ∃ t, exec .funnelRead s = .next t ∧
        s.Leaves t ((({ s.hw with funnel := [] } : Hw).modPart e.record.part fun x => { x with ghosts := x.ghosts.erase g }).sends [])) ∧
    (∀ e d, s.hw.funnel = [e] → e.since < s.hw.cc → (s.hw.part e.record.part).ghosts = [] → s.hw.desc? e.record.tag = some d →
      (s.hw.part e.record.part).sent.contains e.record.tag = true → d.owner = .plan → d.retireOnRecord = false →
      d.opClass ≠ 4 → e.record.status = 0 →
      (d.succ = [] → ∃ t, exec .funnelRead s = .next t ∧ t.hw.funnel = [] ∧ t.hw.desc? e.record.tag = none ∧
        (t.hw.part e.record.part).sent = (s.hw.part e.record.part).sent.erase e.record.tag) ∧
      (∀ k c, d.succ = [k] → k ≠ e.record.tag → s.hw.desc? k = some c → c.state = .waiting → 0 < c.counter →
        ∃ t, exec .funnelRead s = .next t ∧ t.hw.funnel = [] ∧ t.hw.desc? e.record.tag = none ∧
          (t.hw.desc? k).map (fun x => x.counter) = some (c.counter - 1))) ∧
    (∀ e d, s.hw.funnel = [e] → e.since < s.hw.cc → (s.hw.part e.record.part).ghosts = [] → s.hw.desc? e.record.tag = some d →
      (s.hw.part e.record.part).sent.contains e.record.tag = true → d.owner = .plan → d.retireOnRecord = false →
      (s.hw.facet d.facet).state = .active → (s.hw.facet d.facet).recovering = false → e.record.status = 1 →
      ∃ t, exec .funnelRead s = .next t ∧ t.hw.funnel = [] ∧
        (t.hw.desc? e.record.tag).map (fun x => x.state) = some .ready ∧ t.hw.facets = s.hw.facets) ∧
    (∀ (tag : Fin 262144) (d : Desc), s.hw.desc? tag = some d → d.state = .dispatched → d.expired = false → d.owner = .plan →
      d.retireOnRecord = false → d.facet < 16 → (s.hw.funnel.any fun e => e.record.tag == tag.val && e.record.part == d.part) = false →
      s.hw.cmdLimit d ≤ s.hw.now → (s.hw.facet d.facet).state = .active → s.hw.raw 0xA006 (d.facet + 1) < s.hw.get 0xA001 1 →
      ∃ t, exec (.cmdWatchdogExpiry tag) s = .next t ∧ (t.hw.facet d.facet).recovering = true) ∧
    (∀ (tag : Fin 262144) (d : Desc), s.hw.desc? tag = some d → s.hw.now < s.hw.cmdLimit d →
      ∃ t, exec (.cmdWatchdogExpiry tag) s = .next t ∧ s.Leaves t (s.hw.sends [])) ∧
    (∀ tag : Fin 262144, s.hw.desc? tag = none →
      ∃ t, exec (.cmdWatchdogExpiry tag) s = .next t ∧ s.Leaves t (s.hw.sends []))

/-- R81 to R84, R221, R309, R310: the ack of a drain resets its partition's credits, and one without a request is logged; the end of an interrupt
opens the partition of a running facet and closes another; a drain or context request without its answer in time masks the partition, and makes a
running facet recover; a RESTORE that is done leaves the incoming context resident, and a SAVE that is done a valid image. That a failed partition's
facet recovers by a replay where one is left to it is R365's. -/
def Obligations.Drains : Prop :=
  ∀ (s : State) (p : Fin 64), s.Ready →
    ((s.hw.part p).ack = false → (s.hw.part p).intReq = true ∨ (s.hw.part p).preReq = true → (s.hw.part p).credits = s.hw.get 0x2200 (p + 1) →
      ∃ t, exec (.drainAck p) s = .next t ∧ s.Leaves t ((s.hw.modPart p fun x => { x with ack := true, acked := true }).sends [])) ∧
    ((s.hw.part p).ack = false → (s.hw.part p).intReq = true ∨ (s.hw.part p).preReq = true → (s.hw.part p).credits ≠ s.hw.get 0x2200 (p + 1) →
      ∃ t, exec (.drainAck p) s = .next t ∧
        t.hw.part p = { s.hw.part p with credits := s.hw.get 0x2200 (p + 1), ack := true, acked := true } ∧
        t.hw.get 0x2208 1 = (s.hw.get 0x2208 1 + 1) % 2 ^ 64 ∧ t.hw.occurred 5 = (s.hw.occurred 5 + 1) % 2 ^ 64) ∧
    ((s.hw.part p).ack = false → (s.hw.part p).intReq = false → (s.hw.part p).preReq = false →
      ∃ t, exec (.drainAck p) s = .next t ∧ t.hw.part p = { s.hw.part p with ack := true } ∧
        t.hw.occurred 5 = (s.hw.occurred 5 + 1) % 2 ^ 64) ∧
    (∃ t, exec (.drainAckFall p) s = .next t ∧ s.Leaves t ((s.hw.modPart p fun x => { x with ack := false }).sends [])) ∧
    (∀ f, s.hw.drainOver p = true → s.hw.facetOf p = some f → (s.hw.part p).preReq = false → (s.hw.facet f).recovering = false →
      (∀ u, (s.hw.job f u).state ≠ .running) →
      ∃ t, exec (.drainEnd p) s = .next t ∧
        t.hw.part p = { s.hw.part p with state := s.hw.openOrClosed f, intReq := false, preReq := false, acked := false } ∧
        t.hw.get 0x2207 (p + 1) = (s.hw.get 0x2207 (p + 1) + 1) % 2 ^ 64 ∧ t.hw.facets = s.hw.facets ∧
        ∀ k, k ≠ p.val → t.hw.part k = s.hw.part k) ∧
    (s.hw.drainOver p = false → ∃ t, exec (.drainEnd p) s = .next t ∧ s.Leaves t (s.hw.sends [])) ∧
    (s.hw.raw 0x2201 1 = 0 → (s.hw.part p).sent = [] →
      (∀ f, s.hw.facetOf p = some f → (s.hw.facet f).state = .halted ∧ (∀ u, (s.hw.job f u).state.live = false) ∧
        Map.find? s.hw.switches f = none) →
      ((s.hw.part p).intReq = true ∨ (s.hw.part p).preReq = true → (s.hw.part p).acked = false →
        (s.hw.part p).reqNs + 1000 * s.hw.get 0x2206 1 ≤ s.hw.now →
        ∃ t, exec (.drainTimeout p) s = .next t ∧ (t.hw.part p).state = .masked ∧ t.hw.raw 0x2201 1 = 2 ^ p.val) ∧
      ((s.hw.part p).ctxBusy ≠ 0 → (s.hw.part p).ctxNs + 1000 * s.hw.get 0x2209 1 ≤ s.hw.now →
        ∃ t, exec (.contextTimeout p) s = .next t ∧ (t.hw.part p).state = .masked ∧ t.hw.raw 0x2201 1 = 2 ^ p.val)) ∧
    (∀ f : Fin 16, s.hw.raw 0x2201 1 = 0 → (s.hw.part p).sent = [] → s.hw.facetOf p = some f.val → (s.hw.facet f).state = .active →
      (∀ u, (s.hw.job f u).state.live = false) → Map.find? s.hw.switches f = none → (∃ k ∈ s.hw.facetParts f, k ≠ p.val) →
      s.hw.raw 0xA006 (f + 1) < s.hw.get 0xA001 1 →
      ((s.hw.part p).intReq = true ∨ (s.hw.part p).preReq = true → (s.hw.part p).acked = false →
        (s.hw.part p).reqNs + 1000 * s.hw.get 0x2206 1 ≤ s.hw.now →
        ∃ t, exec (.drainTimeout p) s = .next t ∧ (t.hw.part p).state = .masked ∧ (t.hw.facet f).recovering = true) ∧
      ((s.hw.part p).ctxBusy ≠ 0 → (s.hw.part p).ctxNs + 1000 * s.hw.get 0x2209 1 ≤ s.hw.now →
        ∃ t, exec (.contextTimeout p) s = .next t ∧ (t.hw.part p).state = .masked ∧ (t.hw.facet f).recovering = true)) ∧
    (s.hw.now < (s.hw.part p).reqNs + 1000 * s.hw.get 0x2206 1 →
      ∃ t, exec (.drainTimeout p) s = .next t ∧ s.Leaves t (s.hw.sends [])) ∧
    ((s.hw.part p).ctxBusy = 0 ∨ s.hw.now < (s.hw.part p).ctxNs + 1000 * s.hw.get 0x2209 1 →
      ∃ t, exec (.contextTimeout p) s = .next t ∧ s.Leaves t (s.hw.sends [])) ∧
    (∀ (l : List Byte) (f : Nat) (sw : Switch), bits (leNat (slice l 0 16)) 7 2 = p.val → bits (leNat (slice l 0 16)) 1 0 = 0 →
      bits (leNat (slice l 0 16)) 23 8 = (s.hw.part p).ctxId → s.hw.facetOf p = some f → Map.find? s.hw.switches f = some sw →
      (s.hw.facet f).recovering = false → sw.waiting.erase p.val ≠ [] →
      ((s.hw.part p).ctxBusy = 2 → (s.hw.part p).ctxSlot = sw.inSlot → s.hw.ctxGoesOn f sw.inSlot = true →
        ∃ t, exec (.contextDone l) s = .next t ∧ (t.hw.part p).resident = sw.inCtx ∧ (t.hw.part p).ctxBusy = 0 ∧
          (t.hw.part p).holds = sw.inSlot ∧ (t.hw.part p).state = s.hw.openOrClosed f ∧
          Map.find? t.hw.switches f = some { sw with waiting := sw.waiting.erase p.val } ∧ t.hw.facets = s.hw.facets) ∧
      ((s.hw.part p).ctxBusy = 1 → s.hw.ctxGoesOn f (s.hw.part p).ctxSlot = true →
        ∃ t, exec (.contextDone l) s = .next t ∧ (3 * f + (s.hw.part p).ctxSlot, p.val) ∈ t.hw.images ∧ t.hw.facets = s.hw.facets))

/-- R176, R183, R187 to R193: the end of BUILD leaves a plan PLANNED, its positions numbered and a descriptor taken for each command of its blocks;
and the bins of a group are built once, when its ROUTER commands are all done, after which their reports are given up. The command may name the
ROUTER entry or the EXPERT entry after it. -/
def Obligations.Plans : Prop :=
  ∀ (s : State) (f : Fin 16), s.Ready →
    (∀ p places, (s.hw.facet f).tes = .scan → (s.hw.facet f).composing = some p → (s.hw.facet f).entryPlan = false → p.carry = false →
      numberPlaces (s.hw.facetParts f) p.places = places →
      ∃ t, exec (.planComplete f) s = .next t ∧ (t.hw.facet f).tes = .planned ∧
        ∃ q, (t.hw.facet f).composing = some q ∧ q.step = p.step ∧ q.places.length = places.length ∧ q.positions = s.hw.positionsFor places ∧
          q.tags.length = ((s.hw.planBlocks places).flatMap fun k => s.hw.blockSpecs k places).length) ∧
    ((s.hw.facet f).tes ≠ .scan → ∃ t, exec (.planComplete f) s = .next t ∧ s.Leaves t (s.hw.sends [])) ∧
    (∀ p group entry router, s.hw.livePlans f = [p] →
      router = (if progClass ((s.hw.program (group / 4)).getD entry 0) = 2 then entry - 1 else entry) →
      s.hw.binsDue p group router 0 = true →
      ∃ t, exec (.binBuildComplete f group entry) s = .next t ∧
        Map.find? t.hw.routers (routerKey f p.step group router 0) = none) ∧
    (∀ group entry, s.hw.livePlans f = [] →
      ∃ t, exec (.binBuildComplete f group entry) s = .next t ∧ s.Leaves t (s.hw.sends []))

/-! ## The sampler -/

/-- R85 to R89, R241, R249, Table 4.10: a masked lane takes no tile, and one whose Helix share owes its check, or that would need an entry where the
store has none, holds it; a tile whose CRC fails, or that no position awaits, is discarded and counted; and one that its position awaits is reduced
into the position's entry and counted in 0x7030. That a held tile stays offered is the model's reading (log entry 134), and in which cc a check is
owed its choice (log entry 136). -/
def Obligations.Tiles : Prop :=
  ∀ (s : State) (lane : Fin 16) (hdr : Word64) (data : List Byte) (crc : BitVec 32) (h : Hw), s.Ready →
    s.hw.withHeld (Map.erase s.hw.smp.held lane) = h →
    ((s.hw.raw 0xA010 1).testBit lane = true →
      ∃ t, exec (.tileTransfer lane hdr data crc) s = .next t ∧ s.Leaves t (h.sends [])) ∧
    ((s.hw.raw 0xA010 1).testBit lane = false →
      (s.hw.checkSlot = true →
        ∃ t, exec (.tileTransfer lane hdr data crc) s = .next t ∧
          s.Leaves t ((h.withHeld (Map.insert h.smp.held lane hdr)).sends [])) ∧
      (s.hw.checkSlot = false →
        (crc32c (leBytes 8 hdr.toNat ++ slice data 0 256) ≠ crc → s.hw.tileTarget (tileHdr hdr) = none →
          ∃ t, exec (.tileTransfer lane hdr data crc) s = .next t ∧ s.Leaves t ((h.inc 0x2301 (lane + 1)).sends [])) ∧
        (crc32c (leBytes 8 hdr.toNat ++ slice data 0 256) = crc → s.hw.tileTarget (tileHdr hdr) = none →
          ∃ t, exec (.tileTransfer lane hdr data crc) s = .next t ∧ t.hw.smp = h.smp ∧
            t.hw.get 0x2302 (lane + 1) = (s.hw.get 0x2302 (lane + 1) + 1) % 2 ^ 64 ∧ t.hw.occurred 6 = (s.hw.occurred 6 + 1) % 2 ^ 64) ∧
        (∀ p x, crc32c (leBytes 8 hdr.toNat ++ slice data 0 256) = crc → s.hw.tileTarget (tileHdr hdr) = some (p, x) →
          s.hw.tileFits x (tileHdr hdr) = true → s.hw.tileNew p x (tileHdr hdr) = true →
          (s.hw.tileHeld p x (tileHdr hdr) = true →
            ∃ t, exec (.tileTransfer lane hdr data crc) s = .next t ∧
              s.Leaves t ((h.withHeld (Map.insert h.smp.held lane hdr)).sends [])) ∧
          (∀ c q, s.hw.tileHeld p x (tileHdr hdr) = false → x.status ≠ .vacated → p.placeOf x = some c → s.hw.seq? x.slot = some q →
            ∃ t, exec (.tileTransfer lane hdr data crc) s = .next t ∧
              t.hw.get 0x7030 (lane + 1) = (s.hw.get 0x7030 (lane + 1) + 1) % 2 ^ 64 ∧
              (t.hw.entry? (tileHdr hdr).facet p.step x.index).isSome = true ∧ t.hw.seqs = s.hw.seqs))))

/-- R91, R93, R187, R273, R284, R287: a refused replay request, or one without answer in time, makes its facet recover, and before its time, or where
none is outstanding, nothing does; token entries leave in order, the last of a key ends the waits on it, and a ready line held low is counted; a
complete position of a DECODE is decided, its token goes to the return queue and its entry is freed; so is that of a draft; a complete TREE
position waits for the walk; and a walk that is due is counted in 0x7203, its tokens in 0x7205. -/
def Obligations.Decisions : Prop :=
  ∀ s : State, s.Ready →
    (∀ data : Word64, (s.hw.smp.replays.find? fun r => r.facet == bits data.toNat 3 0 && r.step % 65536 == bits data.toNat 19 4 &&
        r.position == bits data.toNat 36 20 && r.first == bits data.toNat 49 37 && r.last == bits data.toNat 62 50) = none →
      ∃ t, exec (.replayNak data) s = .next t ∧ s.Leaves t ((s.hw.inc 0x2304 1).sends [])) ∧
    (∀ (data : Word64) (r : ReplayReq), (s.hw.smp.replays.find? fun r => r.facet == bits data.toNat 3 0 && r.step % 65536 == bits data.toNat 19 4 &&
        r.position == bits data.toNat 36 20 && r.first == bits data.toNat 49 37 && r.last == bits data.toNat 62 50) = some r →
      (s.hw.facet r.facet).state = .active → s.hw.raw 0xA006 (r.facet + 1) < s.hw.get 0xA001 1 →
      ∃ t, exec (.replayNak data) s = .next t ∧ (t.hw.facet r.facet).recovering = true ∧
        t.hw.get 0x2304 1 = (s.hw.get 0x2304 1 + 1) % 2 ^ 64) ∧
    (∀ (f : Fin 16) (i : Nat) (r : ReplayReq), r ∈ s.hw.smp.replays → r.facet = f.val → r.position = i →
      r.sinceNs + 1000 * s.hw.get 0x2305 1 ≤ s.hw.now →
      (s.hw.facet f).state = .active → s.hw.raw 0xA006 (f + 1) < s.hw.get 0xA001 1 →
      ∃ t, exec (.replayTimeout f i) s = .next t ∧ (t.hw.facet f).recovering = true) ∧
    (∀ (f : Fin 16) (i : Nat), (∀ r ∈ s.hw.smp.replays, r.facet = f.val → r.position = i → s.hw.now < r.sinceNs + 1000 * s.hw.get 0x2305 1) →
      ∃ t, exec (.replayTimeout f i) s = .next t ∧ s.Leaves t (s.hw.sends [])) ∧
    (s.hw.smp.tokens ≠ [] → ∃ t, exec (.tokenReturn 0) s = .next t ∧ s.Leaves t ((s.hw.inc 0x2306 1).sends [])) ∧
    (∀ n : Fin 5, s.hw.smp.tokens = [] → ∃ t, exec (.tokenReturn n) s = .next t ∧ s.Leaves t (s.hw.sends [])) ∧
    (∀ e rest, s.hw.smp.tokens = e :: rest →
      ((rest.any fun x => x.key == e.key) = true ∨ s.hw.descTags (fun d => d.owner == .plan && d.waitTok.contains e.key) = [] →
        ∃ t, exec (.tokenReturn 1) s = .next t ∧
          s.Leaves t (({ s.hw with smp := { s.hw.smp with tokens := rest } } : Hw).sends [.token e])) ∧
      (∀ k d, (rest.any fun x => x.key == e.key) = false → s.hw.descTags (fun d => d.owner == .plan && d.waitTok.contains e.key) = [k] →
        s.hw.desc? k = some d → d.state = .waiting → 0 < d.counter →
        ∃ t, exec (.tokenReturn 1) s = .next t ∧ t.hw.smp.tokens = rest ∧ t.hw.out = [.token e] ∧
          (t.hw.desc? k).map (fun x => x.counter) = some (d.counter - 1))) ∧
    (∀ (f : Fin 16) (step i : Nat) p x e c q, s.hw.posAt f step i = some (p, x) → s.hw.entry? f step i = some e → p.placeOf x = some c →
      s.hw.seq? x.slot = some q → e.complete = true → p.step = step → x.status ≠ .decided → e.passDue (s.hw.sampCtx q c x) = none →
      (∀ r, x.kind = .decode → e.nonfinite = false → e.count ≠ 0 →
        (e.settleNucleus (s.hw.sampCtx q c x)).sampled (s.hw.sampCtx q c x) q.cur = some r →
        ∃ t, exec (.sampleResult f step i) s = .next t ∧ t.hw.entry? f step i = none ∧
          (∃ y, t.hw.posAt f step i = some y ∧ y.2.status = .decided) ∧
          ∃ y ∈ t.hw.smp.tokens, y.facet = f.val ∧ y.step = step ∧ y.position = x.index ∧ y.token = r.token ∧ y.pad = false) ∧
      (x.kind = .draft →
        ∃ t, exec (.sampleResult f step i) s = .next t ∧ t.hw.entry? f step i = none ∧
          ∃ y, t.hw.posAt f step i = some y ∧ y.2.status = .decided) ∧
      (x.kind = .tree → c.isOpen = true →
        ∃ t, exec (.sampleResult f step i) s = .next t ∧ (∃ y, t.hw.posAt f step i = some y ∧ y.2.status = .complete) ∧
          (t.hw.entry? f step i).isSome = true)) ∧
    (∀ (f : Fin 16) (step i : Nat), s.hw.posAt f step i = none →
      ∃ t, exec (.sampleResult f step i) s = .next t ∧ s.Leaves t (s.hw.sends [])) ∧
    (∀ (f : Fin 16) (slot : Nat) w, s.hw.walkDue f slot = some w → (∀ b, w.stop ≠ .bad b) →
      ∃ t, exec (.secantWalk f slot) s = .next t ∧ t.hw.get 0x7203 1 = (s.hw.get 0x7203 1 + 1) % 2 ^ 64 ∧
        t.hw.get 0x7205 1 = (s.hw.get 0x7205 1 + w.out.length) % 2 ^ 64) ∧
    (∀ (f : Fin 16) (slot : Nat), s.hw.walkDue f slot = none →
      ∃ t, exec (.secantWalk f slot) s = .next t ∧ s.Leaves t (s.hw.sends []))

/-- R241, R244, Table 10.6: a lane whose self-check gives the words of test vector B is counted in 0x7106; any other words are counted in 0x7105, mask
the lane, and make a facet whose tiles the lane has taken since its last check recover; the share of a masked lane is idle. -/
def Obligations.HelixSelfChecks : Prop :=
  ∀ (s : State) (lane : Fin 16), s.Ready →
    (∀ w0 w1 : Word64, (s.hw.raw 0xA010 1).testBit lane = true →
      ∃ t, exec (.helixSelfCheck lane w0 w1) s = .next t ∧ s.Leaves t (s.hw.sends [])) ∧
    ((s.hw.raw 0xA010 1).testBit lane = false →
      (∃ t, exec (.helixSelfCheck lane (helixBlock 0 1 0).1 (helixBlock 0 1 0).2) s = .next t ∧
        s.Leaves t (({ s.hw.inc 0x7106 1 with
          smp := { s.hw.smp with laneFacets := Map.erase s.hw.smp.laneFacets lane } } : Hw).sends [])) ∧
      (∀ w0 w1 : Word64, (w0, w1) ≠ helixBlock 0 1 0 →
        (Map.find? s.hw.smp.laneFacets lane = none →
          ∃ t, exec (.helixSelfCheck lane w0 w1) s = .next t ∧ t.hw.get 0x7105 1 = (s.hw.get 0x7105 1 + 1) % 2 ^ 64 ∧
            t.hw.raw 0xA010 1 = setBit (s.hw.raw 0xA010 1) lane ∧ t.hw.occurred 7 = (s.hw.occurred 7 + 1) % 2 ^ 64 ∧
            t.hw.facets = s.hw.facets) ∧
        (∀ f : Fin 16, Map.find? s.hw.smp.laneFacets lane = some (2 ^ f.val) → (s.hw.facet f).state = .active →
          s.hw.raw 0xA006 (f + 1) < s.hw.get 0xA001 1 →
          ∃ t, exec (.helixSelfCheck lane w0 w1) s = .next t ∧ (t.hw.facet f).recovering = true)))

/-! ## Admission -/

/-- R3, R118, R121, R122, R123, R129, R130, R424: ADM takes up the entry that it has read of a ring, where the ring is open and its turn has come. A hold
keeps the ring; a refusal sends the record and counts its outcome; so does a migration, which keeps a place in the entry's queue; an entry that
passes checks 1 to 6 has its prompt read. A held ring whose condition has cleared is evaluated again from check 1, after a failed read by reading
the entry again; before that nothing happens. A CANCEL of a live handle of the ring's tenant marks its sequence to end, and one of a dead handle
is STALE. -/
def Obligations.Submissions : Prop :=
  ∀ (s : State) (r : Fin 4096) (named : List Byte) (tokens : List Nat), s.Ready →
    (∀ entry, s.hw.entryOf r false = some entry → s.hw.ringOpen r = true → s.hw.nextRing r = r →
      ((s.hw.ring r).hold = 0 →
        (∀ reason, s.hw.judge (s.hw.ringAsker r entry) entry = .hold reason →
          ∃ t, exec (.newEntry r named tokens) s = .next t ∧
            s.Leaves t (((s.hw.takeTurn r).modRing r fun x => { x with hold := reason }).sends [])) ∧
        (∀ o, s.hw.judge (s.hw.ringAsker r entry) entry = .refuse o →
          ∃ t, exec (.newEntry r named tokens) s = .next t ∧ (t.hw.ring r).hold = 0 ∧ (t.hw.ring r).deciding = true ∧
            t.hw.get 0x3007 (o + 1) = (s.hw.get 0x3007 (o + 1) + 1) % 2 ^ 64 ∧
            (∃ x ∈ t.hw.mem.out ++ t.hw.mem.queue, x.use = .admissionRecord r ∧ x.write = true) ∧ t.hw.seqs = s.hw.seqs) ∧
        (s.hw.judge (s.hw.ringAsker r entry) entry = .migrate →
          ∃ t, exec (.newEntry r named tokens) s = .next t ∧ (t.hw.ring r).hold = 0 ∧ (t.hw.ring r).deciding = true ∧
            t.hw.get 0x3007 9 = (s.hw.get 0x3007 9 + 1) % 2 ^ 64 ∧
            (t.hw.queue (submissionOf entry).queue).migReserved = (s.hw.queue (submissionOf entry).queue).migReserved + 1 ∧
            t.hw.seqs = s.hw.seqs) ∧
        (∀ slot w, s.hw.judge (s.hw.ringAsker r entry) entry = .reads slot w →
          ∃ t, exec (.newEntry r named tokens) s = .next t ∧ (t.hw.ring r).hold = 0 ∧ (t.hw.ring r).deciding = true ∧
            t.hw.adm.trial = some { ring := some r, message := [], entry := entry, slot := slot, window := w,
                                    prompt := List.replicate (submissionOf entry).promptLen 0, walk := none } ∧
            t.hw.seqs = s.hw.seqs)) ∧
      (s.hw.holdClears r = true → s.hw.formBad entry = true →
        ∃ t, exec (.heldRingReevaluate r named tokens) s = .next t ∧ (t.hw.ring r).hold = 0 ∧ (t.hw.ring r).deciding = true ∧
          t.hw.get 0x3007 0xC = (s.hw.get 0x3007 0xC + 1) % 2 ^ 64 ∧ t.hw.occurred 1 = (s.hw.occurred 1 + 1) % 2 ^ 64 ∧
          t.hw.seqs = s.hw.seqs)) ∧
    ((s.hw.ring r).entry = none → s.hw.holdClears r = true → s.hw.ringOpen r = true → s.hw.nextRing r = r →
      s.hw.memWaiting (fun u => u == .admissionRead r) = false →
      ∃ t, exec (.heldRingReevaluate r named tokens) s = .next t ∧ (t.hw.ring r).hold = 0 ∧
        (∃ x ∈ t.hw.mem.out ++ t.hw.mem.queue, x.use = .admissionRead r ∧ x.write = false) ∧ t.hw.seqs = s.hw.seqs) ∧
    (s.hw.entryOf r false = none ∨ s.hw.ringOpen r = false ∨ (s.hw.ring r).hold ≠ 0 ∨ s.hw.nextRing r ≠ r →
      ∃ t, exec (.newEntry r named tokens) s = .next t ∧ s.Leaves t (s.hw.sends [])) ∧
    (s.hw.ringOpen r = false ∨ s.hw.holdClears r = false ∨ s.hw.nextRing r ≠ r →
      ∃ t, exec (.heldRingReevaluate r named tokens) s = .next t ∧ s.Leaves t (s.hw.sends [])) ∧
    (∀ entry, s.hw.entryOf r true = some entry → s.hw.ringOpen r = true → s.hw.nextRing r = r → (s.hw.ring r).hold = 0 →
      (∀ slot q, s.hw.liveSlot (fieldAt entry 40 8) = some slot → s.hw.seq? slot = some q → q.com.tenant = s.hw.getAt 0x3011 4 r →
        ∃ t, exec (.cancelEntry r named) s = .next t ∧ (t.hw.ring r).deciding = true ∧
          t.hw.seq? slot = some { q with cancelAsked := some (q.cancelAsked.getD .cancel) } ∧
          t.hw.get 0x3007 0xA = (s.hw.get 0x3007 0xA + 1) % 2 ^ 64 ∧ ∀ k, k ≠ slot → t.hw.seq? k = s.hw.seq? k) ∧
      (s.hw.liveSlot (fieldAt entry 40 8) = none →
        ∃ t, exec (.cancelEntry r named) s = .next t ∧ (t.hw.ring r).deciding = true ∧
          t.hw.get 0x3007 0xB = (s.hw.get 0x3007 0xB + 1) % 2 ^ 64 ∧ t.hw.seqs = s.hw.seqs)) ∧
    (s.hw.entryOf r true = none ∨ s.hw.ringOpen r = false ∨ (s.hw.ring r).hold ≠ 0 ∨ s.hw.nextRing r ≠ r →
      ∃ t, exec (.cancelEntry r named) s = .next t ∧ s.Leaves t (s.hw.sends []))

/-- R121, R126, R127, R128, R132, R133, R136, R137, R139, R141: what the walk of check 7 ends in is the decision of checks 7 to 9 (`Hw.decideTrial`): a
refusal counts its outcome, and an admission takes the slot at the head of the free list for a sequence of the entry, which waits for its record.
A DEFERRED sequence enters PREFILL at its start and not before; a budget period's end returns every tenant's used tokens to 0 and keeps the
reserved ones; the vertex next in eligibility order is filled into a hot set with room; and a queue whose entries and lines are all in memory has
its header written, once. -/
def Obligations.StartsAndPeriods : Prop :=
  (∀ (h : Hw) (x : Trial) (walk : List PageRef) (r : Nat) (a : Asker) (c : Cls), x.ring = some r → h.adm.messages = [] →
    h.ringAsker r x.entry = a → (clsOf ((submissionOf x.entry).classByte % 4)).getD .be = c →
    (∀ o p, (({ h with adm := { h.adm with trial := none } } : Hw).lastChecks a (submissionOf x.entry) c x.slot x.window walk).1 = .refuse o p →
      ((h.decideTrial x walk).ring r).deciding = true ∧ (h.decideTrial x walk).seqs = h.seqs ∧
      (h.decideTrial x walk).get 0x3007 (o + 1) = (h.get 0x3007 (o + 1) + 1) % 2 ^ 64) ∧
    (∀ v pages slot g, (({ h with adm := { h.adm with trial := none } } : Hw).lastChecks a (submissionOf x.entry) c x.slot x.window walk).1 =
        .take v pages → h.takeSlot = some (slot, g) →
      ∃ q, (h.decideTrial x walk).seq? slot = some q ∧ q.com.tenant = v.tenant ∧ q.com.model = v.model ∧ q.com.state = v.state ∧
        q.com.generation = Map.getD h.gens slot 0 + 1 ∧ q.cur = q.com ∧ q.prompt = x.prompt ∧ q.pagesCom = pages ∧ q.recordReady = false ∧
        ∀ k, k ≠ slot → (h.decideTrial x walk).seq? k = h.seq? k)) ∧
  ∀ s : State, s.Ready →
    (∀ slot q, s.hw.seq? slot = some q → q.com.state = .deferred → q.cur.state = .deferred → q.com.start ≤ s.hw.nowUs * 1000 →
      ∃ t, exec (.deferredStart slot) s = .next t ∧
        t.hw.seq? slot = some { q with com := { q.com with state := .prefill }, cur := { q.cur with state := .prefill } } ∧
        ∀ k, k ≠ slot → t.hw.seq? k = s.hw.seq? k) ∧
    (∀ slot q, s.hw.seq? slot = some q → s.hw.nowUs * 1000 < q.com.start →
      ∃ t, exec (.deferredStart slot) s = .next t ∧ s.Leaves t (s.hw.sends [])) ∧
    (s.hw.budgetOver = true →
      ∃ t, exec .budgetPeriodBoundary s = .next t ∧
        (∀ n : Fin 8192, t.hw.getAt 0x3101 0xD n = 0 ∧ t.hw.getAt 0x3101 0xE n = s.hw.getAt 0x3101 0xE n) ∧
        t.hw.budgetNs = s.hw.now ∧ t.hw.seqs = s.hw.seqs) ∧
    (s.hw.budgetOver = false → ∃ t, exec .budgetPeriodBoundary s = .next t ∧ s.Leaves t (s.hw.sends [])) ∧
    (∀ slot q, s.hw.seq? slot = some q → s.hw.nextFill q.com.facet = some slot → q.hot = false →
      (s.hw.seqs.filter fun e => e.2.hot).length < s.hw.hotCapacity →
      ∃ t, exec (.hotFill slot) s = .next t ∧ t.hw.seq? slot = some { q with hot := true } ∧
        t.hw.get 0x3004 1 = (s.hw.get 0x3004 1 + 1) % 2 ^ 64 ∧ ∀ k, k ≠ slot → t.hw.seq? k = s.hw.seq? k) ∧
    (∀ slot q, s.hw.seq? slot = some q → s.hw.nextFill q.com.facet ≠ some slot →
      ∃ t, exec (.hotFill slot) s = .next t ∧ s.Leaves t (s.hw.sends [])) ∧
    (∀ q : Fin 4096, s.hw.queueOn q = true → s.hw.eng.state ≠ .faultHold → (s.hw.queue q).k ≠ (s.hw.queue q).m →
      (s.hw.queue q).publishing = none → s.hw.deliveredBelow q (s.hw.queue q).k = true → s.hw.linesDone (s.hw.queueFacet q) = true →
      ∃ t, exec (.queuePublication q) s = .next t ∧ t.hw.queue q = { s.hw.queue q with publishing := some (s.hw.queue q).k } ∧
        (∃ x ∈ t.hw.mem.out ++ t.hw.mem.queue, x.use = .queueHeader q (s.hw.queue q).k ∧ x.write = true ∧
          x.addr = s.hw.getAt 0x3021 1 q / 64 * 64) ∧
        (∀ k, k ≠ q.val → t.hw.queue k = s.hw.queue k) ∧ t.hw.seqs = s.hw.seqs) ∧
    (∀ q : Fin 4096, (s.hw.queue q).k = (s.hw.queue q).m →
      ∃ t, exec (.queuePublication q) s = .next t ∧ s.Leaves t (s.hw.sends []))

/-- R4, R121, R146 to R148: without the feature a migration message has no effect, one whose CRC fails is counted and logged, and a malformed one is
counted as a bad frame; a malformed submission in a FORWARD is refused, and one that passes checks 1 to 6 has its prompt read; a message that comes
while an admission is under way waits; a LIVE message is refused with a counted outcome, or begins a sequence in PREFILL of the tenant that it names;
a reply ends a FORWARD, or an admitted LIVE sequence, with a MIGRATED entry, and returns a refused LIVE sequence to DECODE; and a migration without
reply in time ends with outcome TIMEOUT. That a malformed message counts as a bad frame is the model's reading (log entry 127), that one waits its
choice (log entry 125). -/
def Obligations.Migrations : Prop :=
  ∀ (s : State) (message : List Byte) (tokens : List Nat), s.Ready →
    (s.hw.feature 3 = false →
      ∀ c ∈ [Instr.forwardMessage message tokens, .liveMessage message, .replyMessage message],
        ∃ t, exec c s = .next t ∧ s.Leaves t (s.hw.sends [])) ∧
    (s.hw.feature 3 = true → migrationOk message = false →
      ∀ c ∈ [Instr.forwardMessage message tokens, .liveMessage message, .replyMessage message],
        ∃ t, exec c s = .next t ∧ t.hw.get 0x3052 1 = (s.hw.get 0x3052 1 + 1) % 2 ^ 64 ∧
          t.hw.occurred 1 = (s.hw.occurred 1 + 1) % 2 ^ 64 ∧ t.hw.seqs = s.hw.seqs ∧ t.hw.fed = s.hw.fed) ∧
    (s.hw.feature 3 = true → migrationOk message = true → messageBad message = true →
      ∀ c ∈ [Instr.forwardMessage message tokens, .liveMessage message, .replyMessage message],
        ∃ t, exec c s = .next t ∧ t.hw.get 0x830B 1 = (s.hw.get 0x830B 1 + 1) % 2 ^ 64 ∧
          t.hw.occurred 9 = (s.hw.occurred 9 + 1) % 2 ^ 64 ∧ t.hw.seqs = s.hw.seqs ∧ t.hw.fed = s.hw.fed) ∧
    (s.hw.feature 3 = true → migrationOk message = true → messageBad message = false →
      (s.hw.adm.trial ≠ none →
        (fieldAt message 0 1 = 1 → ∃ t, exec (.forwardMessage message tokens) s = .next t ∧
          s.Leaves t (({ s.hw with adm := { s.hw.adm with messages := s.hw.adm.messages ++ [message] } } : Hw).sends [])) ∧
        (fieldAt message 0 1 = 2 → ∃ t, exec (.liveMessage message) s = .next t ∧
          s.Leaves t (({ s.hw with adm := { s.hw.adm with messages := s.hw.adm.messages ++ [message] } } : Hw).sends []))) ∧
      (s.hw.adm.trial = none → fieldAt message 0 1 = 1 →
        (s.hw.formBad (slice message 64 128) = true →
          ∃ t, exec (.forwardMessage message tokens) s = .next t ∧ t.hw.get 0x3007 0xC = (s.hw.get 0x3007 0xC + 1) % 2 ^ 64 ∧
            t.hw.occurred 1 = (s.hw.occurred 1 + 1) % 2 ^ 64 ∧ t.hw.seqs = s.hw.seqs ∧ t.hw.rings = s.hw.rings) ∧
        (∀ slot w, s.hw.judge (s.hw.forwardAsker message) (slice message 64 128) = .reads slot w →
          ∃ t, exec (.forwardMessage message tokens) s = .next t ∧
            t.hw.adm.trial = some { ring := none, message := slice message 0 64, entry := slice message 64 128, slot := slot, window := w,
                                    prompt := List.replicate (submissionOf (slice message 64 128)).promptLen 0, walk := none } ∧
            t.hw.seqs = s.hw.seqs ∧ t.hw.rings = s.hw.rings)) ∧
      (s.hw.adm.trial = none → fieldAt message 0 1 = 2 →
        (∀ o, s.hw.liveCheck message = .inl o →
          ∃ t, exec (.liveMessage message) s = .next t ∧ t.hw.get 0x3007 (o + 1) = (s.hw.get 0x3007 (o + 1) + 1) % 2 ^ 64 ∧
            t.hw.seqs = s.hw.seqs ∧ t.hw.rings = s.hw.rings) ∧
        (∀ vslot c slot g, s.hw.liveCheck message = .inr (vslot, c) → s.hw.takeSlot = some (slot, g) →
          ∃ t q, exec (.liveMessage message) s = .next t ∧ t.hw.seq? slot = some q ∧ q.com.tenant = liveTenant message ∧
            q.com.state = .prefill ∧ q.com.vslot = vslot ∧ q.com.cls = c ∧ q.recordReady = true ∧
            ∀ k, k ≠ slot → t.hw.seq? k = s.hw.seq? k)) ∧
      (∀ m, fieldAt message 0 1 = 3 → (s.hw.fed.migrations.find? fun m => m.msgId == fieldAt message 8 4 && m.reply.isNone) = some m →
        (m.slot = none →
          ∃ t, exec (.replyMessage message) s = .next t ∧
            t.hw.fed.migrations = s.hw.fed.migrations.map (fun x => if x = m then
              { m with reply := some (fieldAt message 32 8, fieldAt message 2 2, fieldAt message 40 1) } else x) ∧
            (t.hw.queue m.queue).migReserved = (s.hw.queue m.queue).migReserved - 1 ∧
            (t.hw.queue m.queue).w = ((s.hw.queue m.queue).w + 1) % 2 ^ 32 ∧ t.hw.seqs = s.hw.seqs) ∧
        (∀ slot q, m.slot = some slot → s.hw.seq? slot = some q → handleOf slot q.com = m.handle → q.cur.state = .migrating →
          (fieldAt message 40 1 = 0 →
            ∃ t, exec (.replyMessage message) s = .next t ∧
              t.hw.seq? slot = some { q with cur := { q.cur with state := .ended, endReason := some .migrated },
                                             lastEntry := some (s.hw.queue m.queue).w } ∧
              (t.hw.queue m.queue).w = ((s.hw.queue m.queue).w + 1) % 2 ^ 32) ∧
          (fieldAt message 40 1 ≠ 0 → q.com.state = .migrating →
            ∃ t, exec (.replyMessage message) s = .next t ∧ t.hw.fed.migrations = s.hw.fed.migrations.erase m ∧
              t.hw.seq? slot = some { q with com := { q.com with state := .decode }, cur := { q.cur with state := .decode }, migrateAsked := false } ∧
              (t.hw.queue m.queue).w = (s.hw.queue m.queue).w)))) ∧
    (∀ id m, (s.hw.fed.migrations.find? fun m => m.msgId == id && m.reply.isNone) = some m →
      (m.sinceNs + 1000000 * s.hw.get 0x3051 1 ≤ s.hw.now →
        ∃ t, exec (.migrateTimeout id) s = .next t ∧
          t.hw.fed.migrations = s.hw.fed.migrations.map (fun x => if x = m then { m with reply := some (0, m.dest, 0xC) } else x) ∧
          (t.hw.queue m.queue).w = ((s.hw.queue m.queue).w + 1) % 2 ^ 32) ∧
      (s.hw.now < m.sinceNs + 1000000 * s.hw.get 0x3051 1 →
        ∃ t, exec (.migrateTimeout id) s = .next t ∧ s.Leaves t (s.hw.sends []))) ∧
    (∀ id, (s.hw.fed.migrations.find? fun m => m.msgId == id && m.reply.isNone) = none →
      ∃ t, exec (.migrateTimeout id) s = .next t ∧ s.Leaves t (s.hw.sends []))

/-! ## Pools -/

/-- R14, R163 to R166, R209: a device pool below POOL_LOW reclaims the head of its cached list: the page is freed and its index entry goes, or a page
that is mapped again or no longer indexed is only unlinked; with no cached page it moves the page that R164 chooses to a host pool, and a pool above
POOL_HIGH takes a displaced page back, each by a COPY command of PGM's. Where PGM may not take a descriptor the copy waits, and each cc of such a wait
counts once for its facet. A running pair's victims are kept but for names of no live sequence, and a name of a pinned one makes an event. Which host
pool takes a page is the model's choice (log entry 117), and so is that a dead handle names nothing (log entry 13). -/
def Obligations.PageMoves : Prop :=
  (∀ (h : Hw) (f : Fin 16), h.countWaits.get 0x6009 (f + 1) =
    if h.descWaits f then (h.get 0x6009 (f + 1) + 1) % 2 ^ 64 else h.get 0x6009 (f + 1)) ∧
  ∀ (s : State) (k : Fin 64), s.Ready →
    (∀ pg rest, s.hw.poolOn k = true → s.hw.hostPool k = false → s.hw.poolFree k < s.hw.getAt 0x4001 0xA k →
      (s.hw.pool k).cached = pg :: rest →
      ((s.hw.pageInfo (k, pg)).refs = 1 → s.hw.indexed (k, pg) = true →
        ∃ t, exec (.pageReclaim k) s = .next t ∧ (t.hw.pool k).cached = rest.erase pg ∧ (t.hw.pool k).freed = (s.hw.pool k).freed ++ [pg] ∧
          t.hw.pages.index = s.hw.pages.index.filter (fun e => !(e.pool == k.val && e.page == pg)) ∧
          t.hw.get 0x4035 1 = (s.hw.get 0x4035 1 + 1) % 2 ^ 64 ∧ t.hw.seqs = s.hw.seqs) ∧
      ((s.hw.pageInfo (k, pg)).refs ≠ 1 ∨ s.hw.indexed (k, pg) = false →
        ∃ t, exec (.pageReclaim k) s = .next t ∧ (t.hw.pool k).cached = rest ∧ (t.hw.pool k).freed = (s.hw.pool k).freed ∧
          t.hw.pages.index = s.hw.pages.index ∧ t.hw.get 0x4035 1 = s.hw.get 0x4035 1 ∧ t.hw.seqs = s.hw.seqs)) ∧
    (s.hw.poolOn k = false ∨ s.hw.hostPool k = true ∨ s.hw.getAt 0x4001 0xA k ≤ s.hw.poolFree k →
      ∃ t, exec (.pageReclaim k) s = .next t ∧ s.Leaves t (s.hw.sends [])) ∧
    (∀ slot i q d, s.hw.evictChoice k = some (slot, i) → s.hw.seq? slot = some q → s.hw.movePool q false = some d →
      (s.hw.mayCopy q.com.facet = true →
        ∃ t m c, exec (.pageEvict k) s = .next t ∧ t.hw.pages.moves = s.hw.pages.moves ++ [m] ∧ m.slot = slot ∧ m.index = i ∧
          m.source.1 = k.val ∧ m.isRecall = false ∧ m.dest.1 = d ∧ t.hw.desc? m.tag = some c ∧ c.owner = .copy ∧ c.facet = q.com.facet ∧
          t.hw.seq? slot = some { q with moving := true } ∧ ∀ n, n ≠ slot → t.hw.seq? n = s.hw.seq? n) ∧
      (s.hw.mayCopy q.com.facet = false →
        ∃ t, exec (.pageEvict k) s = .next t ∧ s.Leaves t (({ s.hw with pages := { s.hw.pages with
          waits := s.hw.pages.waits ++ [{ facet := q.com.facet, slot := slot, index := i, isRecall := false }] } } : Hw).sends []))) ∧
    (s.hw.evictChoice k = none → ∃ t, exec (.pageEvict k) s = .next t ∧ s.Leaves t (s.hw.sends [])) ∧
    (∀ slot i q d, s.hw.recallChoice k = some (slot, q, i) → s.hw.seq? slot = some q → s.hw.movePool q true = some d →
      (s.hw.mayCopy q.com.facet = true →
        ∃ t m c, exec (.pageRecall k) s = .next t ∧ t.hw.pages.moves = s.hw.pages.moves ++ [m] ∧ m.slot = slot ∧ m.index = i ∧
          m.isRecall = true ∧ m.dest.1 = d ∧ t.hw.desc? m.tag = some c ∧ c.owner = .copy ∧ c.facet = q.com.facet ∧
          t.hw.seq? slot = some { q with moving := true } ∧ ∀ n, n ≠ slot → t.hw.seq? n = s.hw.seq? n) ∧
      (s.hw.mayCopy q.com.facet = false →
        ∃ t, exec (.pageRecall k) s = .next t ∧ s.Leaves t (({ s.hw with pages := { s.hw.pages with
          waits := s.hw.pages.waits ++ [{ facet := q.com.facet, slot := slot, index := i, isRecall := true }] } } : Hw).sends []))) ∧
    (s.hw.recallChoice k = none → ∃ t, exec (.pageRecall k) s = .next t ∧ s.Leaves t (s.hw.sends [])) ∧
    (∀ (p : Fin 8) (l : List Word64),
      (s.hw.pairRuns p = true → (∀ w ∈ l, ∀ n q, s.hw.liveSlot w.toNat = some n → s.hw.seq? n = some q → q.pinned = false) →
        ∃ t, exec (.victimProposal p l) s = .next t ∧ s.Leaves t (({ s.hw with pages := { s.hw.pages with
          victims := l.filter fun w => (s.hw.liveSlot w.toNat).isSome } } : Hw).sends [])) ∧
      (∀ w n q, s.hw.pairRuns p = true → w ∈ l → s.hw.liveSlot w.toNat = some n → s.hw.seq? n = some q → q.pinned = true →
        ∃ t, exec (.victimProposal p l) s = .next t ∧ t.hw.occurred 0xD = (s.hw.occurred 0xD + 1) % 2 ^ 64 ∧ w ∉ t.hw.pages.victims ∧
          t.hw.seqs = s.hw.seqs) ∧
      (s.hw.pairRuns p = false → ∃ t, exec (.victimProposal p l) s = .next t ∧ s.Leaves t (s.hw.sends [])))

/-! ## Jobs -/

/-- R22, R227, R228, R230, R231, R232, R316: a graph that is not well formed ends its job as malformed with the node in error, or tears it down while
credits of it are out; a well-formed one without tables is loaded, and an urgent one suspends the facet's job and counts its pre-emption; while reads
of it are awaited nothing happens. An iteration takes one descriptor per node; a GATE whose counter reaches 0 is decided unless its job is suspended;
and a teardown ends with its cause once every command is complete. Of an urgent job this is said while no GATE of the job that it suspends waits and no partition is held.
Which nodes a graph without a GATE is blamed on is the model's choice (log entry 78). -/
def Obligations.JobLives : Prop :=
  ∀ (s : State) (f : Fin 16) (u : Bool), s.Ready →
    (∀ (graph sem off : List Byte) (ns : List JobNode) (n : Nat), (s.hw.job f u).state = .loading → (s.hw.job f u).graphOk = false →
      (u = true → (s.hw.job f false).gateReady = false ∧ ∀ p ∈ s.hw.facetParts f, (s.hw.part p).state ≠ .held) →
      (s.hw.memWaiting fun x => x == .graphRead f u || (!u && x == .contextRecord f)) = false →
      ns = (if s.hw.headerOk f graph (graphHeader graph) then
        (List.range (graphHeader graph).nodes).map (graphNode (graphHeader graph) graph) else []) →
      s.hw.graphError f (graphHeader graph) graph ns = some n →
      (s.hw.jobClear f u = true →
        ∃ t, exec (.jobGraphLoaded f u graph sem off) s = .next t ∧ (t.hw.job f u).state = .ended ∧ (t.hw.job f u).result = 3 ∧
          (t.hw.job f u).errorNode = n) ∧
      (s.hw.jobClear f u = false →
        ∃ t, exec (.jobGraphLoaded f u graph sem off) s = .next t ∧
          t.hw.job f u = { s.hw.job f u with state := .teardown, cause := 3, errorNode := n })) ∧
    (∀ (graph sem off : List Byte), (s.hw.job f u).state = .loading → (s.hw.job f u).graphOk = false →
      (s.hw.memWaiting fun x => x == .graphRead f u || (!u && x == .contextRecord f)) = false →
      s.hw.headerOk f graph (graphHeader graph) = true → s.hw.jobAllowed f (graphHeader graph) = true →
      s.hw.graphError f (graphHeader graph) graph ((List.range (graphHeader graph).nodes).map (graphNode (graphHeader graph) graph)) = none →
      (u = false → (s.hw.job f false).resume = false → s.hw.raw 0x9210 (f + 1) = 0 → s.hw.raw 0x8101 (f + 1) = 0 →
        ∃ t, exec (.jobGraphLoaded f false graph sem off) s = .next t ∧ (t.hw.job f false).state = .loading ∧
          (t.hw.job f false).graphOk = true ∧ (t.hw.job f false).iterations = (graphHeader graph).iters ∧
          (t.hw.job f false).model = (graphHeader graph).model ∧ (t.hw.job f false).tenant = (graphHeader graph).tenant ∧
          (t.hw.job f false).nodes.length = (graphHeader graph).nodes ∧ t.hw.seqs = s.hw.seqs ∧ t.hw.facets = s.hw.facets) ∧
      (u = true → s.hw.urgentAllowed f (graphHeader graph) = true → s.hw.raw 0x9211 (f + 1) = 0 →
        (∀ p ∈ s.hw.facetParts f, (s.hw.part p).state ≠ .held) →
        ∃ t, exec (.jobGraphLoaded f true graph sem off) s = .next t ∧ (t.hw.job f true).state = .loading ∧
          (t.hw.job f true).graphOk = true ∧ (t.hw.job f true).nodes.length = (graphHeader graph).nodes ∧
          (t.hw.job f false).suspended = true ∧ t.hw.get 0x9205 (f + 1) = (s.hw.get 0x9205 (f + 1) + 1) % 2 ^ 64)) ∧
    (∀ (graph sem off : List Byte), (s.hw.memWaiting fun x => x == .graphRead f u || (!u && x == .contextRecord f)) = true ∨
        (s.hw.job f u).state ≠ .loading ∨ (s.hw.job f u).graphOk = true →
      ∃ t, exec (.jobGraphLoaded f u graph sem off) s = .next t ∧ s.Leaves t (s.hw.sends [])) ∧
    (s.hw.mayLoad f u = true →
      ∃ t, exec (.iterationLoad f u) s = .next t ∧ (t.hw.job f u).state = .running ∧
        (t.hw.job f u).tags.length = (s.hw.job f u).nodes.length ∧
        (∀ n ∈ (t.hw.job f u).tags, ∃ d, t.hw.desc? n = some d ∧ d.owner = .job ∧ d.facet = f.val ∧ d.urgentJob = u) ∧
        (t.hw.job f u).gateReady = false ∧ (t.hw.job f u).decision = none ∧ (t.hw.job f u).iteration = (s.hw.job f u).iteration ∧
        t.hw.seqs = s.hw.seqs) ∧
    (s.hw.mayLoad f u = false → ∃ t, exec (.iterationLoad f u) s = .next t ∧ s.Leaves t (s.hw.sends [])) ∧
    (∀ n d, (s.hw.job f u).gateTag = some n → s.hw.desc? n = some d → (s.hw.job f u).state = .running → d.counter = 0 → d.state = .waiting →
      ((s.hw.job f u).suspended = true →
        ∃ t, exec (.gateReady f u) s = .next t ∧ t.hw.job f u = { s.hw.job f u with gateReady := true } ∧
          t.hw.desc? n = some { d with state := .ready, readyCc := s.hw.cc }) ∧
      ((s.hw.job f u).suspended = false → (s.hw.job f u).decision = none → s.hw.federated (s.hw.job f u).model = false →
        ∃ t, exec (.gateReady f u) s = .next t ∧ (t.hw.job f u).gateReady = true ∧
          t.hw.desc? n = some { d with state := .ready, readyCc := s.hw.cc } ∧
          (t.hw.job f u).decision = some ((if (s.hw.job f u).bad.isSome then 1
            else if s.hw.currentVersion (s.hw.job f u).model = 2 ^ 32 - 1 then 4 else 0) +
            if s.hw.telemetryRoom (s.hw.job f u).model then 0 else 16))) ∧
    (∀ n d, (s.hw.job f u).gateTag = some n → s.hw.desc? n = some d → d.counter ≠ 0 →
      ∃ t, exec (.gateReady f u) s = .next t ∧ s.Leaves t (s.hw.sends [])) ∧
    ((s.hw.job f u).gateTag = none → ∃ t, exec (.gateReady f u) s = .next t ∧ s.Leaves t (s.hw.sends [])) ∧
    ((s.hw.job f u).state = .teardown → s.hw.jobClear f u = true → (u = true → (s.hw.job f false).gateReady = false ∧ ∀ p ∈ s.hw.facetParts f, (s.hw.part p).state ≠ .held) →
      ∃ t, exec (.teardownComplete f u) s = .next t ∧ (t.hw.job f u).state = .ended ∧
        (t.hw.job f u).result = (s.hw.job f u).cause) ∧
    ((s.hw.job f u).state ≠ .teardown ∨ s.hw.jobClear f u = false →
      ∃ t, exec (.teardownComplete f u) s = .next t ∧ s.Leaves t (s.hw.sends []))

/-- R310, R313, R320 to R322: a generation slice ends, once its time has passed, by draining its facet without new placements; a waiter on a semaphore
that a suspended job holds while the urgent job has its facet starts a donation and the switch to the holder, of which every running partition of the
facet is pre-empted; and a donation that has reached its limit ends, with the holder's job torn down and a switch back to the facet's owner. Before
its time, and with no waiter or no donation, none of these does anything. -/
def Obligations.SlicesAndDonations : Prop :=
  ∀ s : State, s.Ready →
    (∀ (f : Fin 16) (x : Nat), (s.hw.facet f).sliceEndNs = some x →
      (x ≤ s.hw.now → (s.hw.facet f).state = .active ∨ (s.hw.facet f).state = .draining →
        ∃ t, exec (.generationSliceEnd f) s = .next t ∧
          s.Leaves t ((s.hw.modFacet f fun y => { y with state := .draining, noPlacing := true, sliceEndNs := none }).sends [])) ∧
      (s.hw.now < x → ∃ t, exec (.generationSliceEnd f) s = .next t ∧ s.Leaves t (s.hw.sends []))) ∧
    (∀ f : Fin 16, (s.hw.facet f).sliceEndNs = none → ∃ t, exec (.generationSliceEnd f) s = .next t ∧ s.Leaves t (s.hw.sends [])) ∧
    (∀ (n : Fin 64) (f : Nat) (c : Nat) (w : Waiter) (rest : List Waiter), (s.hw.sem n).holder = some (f, false, c) →
      sortBy waiterBefore (s.hw.sem n).waiters = w :: rest → (s.hw.sem n).donation = none → (s.hw.job f false).suspended = true →
      s.hw.ownerSlot f = 2 → s.hw.facetParts f ≠ [] → (∀ p ∈ s.hw.facetParts f, (s.hw.part p).state ≠ .held) →
      ∃ t, exec (.semaphoreDonation n) s = .next t ∧ t.hw.sem n = { s.hw.sem n with donation := some s.hw.now } ∧
        t.hw.get 0x9223 1 = (s.hw.get 0x9223 1 + 1) % 2 ^ 64 ∧
        Map.find? t.hw.switches f = some { outSlot := 2, inSlot := 1, outCtx := s.hw.slotCtx f 2, inCtx := s.hw.slotCtx f 1, restore := true,
                                           waiting := s.hw.facetParts f, charge := (s.hw.job w.facet w.urgent).tenant } ∧
        (∀ p ∈ s.hw.facetParts f, (s.hw.part p).state = .opened → (t.hw.part p).state = .preempting ∧ (t.hw.part p).preReq = true) ∧
        t.hw.jobs = s.hw.jobs ∧ t.hw.facets = s.hw.facets) ∧
    (∀ n : Fin 64, (s.hw.sem n).waiters = [] ∨ (s.hw.sem n).holder = none ∨ (s.hw.sem n).donation.isSome = true →
      ∃ t, exec (.semaphoreDonation n) s = .next t ∧ s.Leaves t (s.hw.sends [])) ∧
    (∀ (n : Fin 64) (f : Nat) (c x : Nat), (s.hw.sem n).donation = some x → (s.hw.sem n).holder = some (f, false, c) →
      (x + 1000 * s.hw.get 0x9222 1 ≤ s.hw.now → (s.hw.job f false).state = .running ∨ (s.hw.job f false).state = .loading →
        s.hw.federated (s.hw.job f false).model = false → s.hw.facetParts f ≠ [] → (∀ p ∈ s.hw.facetParts f, (s.hw.part p).state ≠ .held) →
        ∃ t sw, exec (.donationOverrun n) s = .next t ∧ (t.hw.job f false).state = .teardown ∧ (t.hw.job f false).cause = 2 ∧
          (t.hw.sem n).donation = none ∧ Map.find? t.hw.switches f = some sw ∧ sw.outSlot = 1 ∧ sw.inSlot = s.hw.ownerSlot f ∧
          sw.waiting = s.hw.facetParts f) ∧
      (s.hw.now < x + 1000 * s.hw.get 0x9222 1 → ∃ t, exec (.donationOverrun n) s = .next t ∧ s.Leaves t (s.hw.sends []))) ∧
    (∀ n : Fin 64, (s.hw.sem n).donation = none → ∃ t, exec (.donationOverrun n) s = .next t ∧ s.Leaves t (s.hw.sends []))

/-! ## Learner, accounts, federation -/

/-- R41, R230, R231, R328, R337, R344, R346: the end of an accounting period starts every account afresh and, where records wait on a full ring,
counts an overrun; before it nothing changes. A RETIRING slot of no more use passes to the LOAD, or to the running attempt, that waits for it; once
the staleness budget of a request has passed, a FIXED sequence on the slot flips to the CURRENT version and an EXACT one is asked to end; the update
part is written when it is ready; and a recorded decision takes the job to its next iteration, or to its end after the last. -/
def Obligations.LearnerAndAccounts : Prop :=
  ∀ (s : State), s.Ready →
    (s.hw.acct.startNs / (s.hw.acct.periodMs * 1000000) < s.hw.now / (s.hw.acct.periodMs * 1000000) →
      ∃ t, exec .accountingPeriodBoundary s = .next t ∧ t.hw.acct.accounts = [] ∧ t.hw.acct.periodMs = s.hw.get 0x9302 1 ∧
        t.hw.acct.startNs = s.hw.now / (s.hw.acct.periodMs * 1000000) * (s.hw.acct.periodMs * 1000000) ∧ t.hw.acct.due = false ∧
        (s.hw.acctFull = true → s.hw.acct.flushing ≠ [] → t.hw.get 0x9306 1 = (s.hw.get 0x9306 1 + 1) % 2 ^ 64) ∧
        t.hw.seqs = s.hw.seqs) ∧
    (s.hw.now / (s.hw.acct.periodMs * 1000000) ≤ s.hw.acct.startNs / (s.hw.acct.periodMs * 1000000) → s.hw.acct.due = false →
      ∃ t, exec .accountingPeriodBoundary s = .next t ∧ s.Leaves t (s.hw.sends [])) ∧
    (∀ (m : Fin 256) (k : Nat), ([0, 1].find? fun x => s.hw.slotState m x = 5) = some k → s.hw.slotUse m k = 0 →
      ((s.hw.learner m).request = some .load →
        ∃ t, exec (.slotHandover m) s = .next t ∧ t.hw.slotState m k = 1 ∧ (t.hw.learner m).request = none ∧ t.hw.seqs = s.hw.seqs ∧
          t.hw.jobs = s.hw.jobs) ∧
      (∀ f u, (s.hw.learner m).request = some (.attempt f u) → (s.hw.job f u).state = .running → (s.hw.job f u).model = m →
        ∃ t, exec (.slotHandover m) s = .next t ∧ t.hw.slotState m k = 2 ∧ (t.hw.learner m).request = none ∧
          (t.hw.learner m).shadowOf = some (f, u) ∧ t.hw.job f u = { s.hw.job f u with holdsShadow := true, acquired := some k } ∧
          t.hw.seqs = s.hw.seqs)) ∧
    (∀ m : Fin 256, (s.hw.learner m).request = none ∨ (∃ k, ([0, 1].find? fun x => s.hw.slotState m x = 5) = some k ∧ s.hw.slotUse m k ≠ 0) →
      ∃ t, exec (.slotHandover m) s = .next t ∧ s.Leaves t (s.hw.sends [])) ∧
    (∀ m : Fin 256, (s.hw.learner m).request.isSome = true → (s.hw.learner m).stale = false →
      s.hw.now < (s.hw.learner m).requestNs + 1000000 * s.hw.getAt 0x8008 1 m →
      ∃ t, exec (.stalenessExpiry m) s = .next t ∧ s.Leaves t (s.hw.sends [])) ∧
    (∀ m : Fin 256, (s.hw.learner m).request.isSome = true → (s.hw.learner m).stale = false →
      (s.hw.learner m).requestNs + 1000000 * s.hw.getAt 0x8008 1 m ≤ s.hw.now →
      (s.hw.seqs = [] →
        ∃ t, exec (.stalenessExpiry m) s = .next t ∧ s.Leaves t ((s.hw.modLearner m fun x => { x with stale := true }).sends [])) ∧
      (∀ slot q, s.hw.seqs = [(slot, q)] → s.hw.modelOf q.cur = m.val → s.hw.slotState m q.cur.vslot = 5 → q.cur.state ≠ .ended →
        (∀ c, q.cur.pins = .fixed → s.hw.modeNow q.cur.facet ≠ 2 → s.hw.currentSlot m = some c → s.hw.getAt 0x8007 1 m ≠ 1 →
          (s.hw.facet q.cur.facet).state = .active →
          ∃ t, exec (.stalenessExpiry m) s = .next t ∧ (t.hw.learner m).stale = true ∧
            t.hw.seqs = [(slot, { q with cur := { q.cur with vslot := c, version := s.hw.slotVersion m c } })] ∧
            t.hw.getAt 0x8016 1 m = (s.hw.getAt 0x8016 1 m + 1) % 2 ^ 64) ∧
        (q.cur.pins = .exact →
          ∃ t, exec (.stalenessExpiry m) s = .next t ∧ (t.hw.learner m).stale = true ∧
            t.hw.seqs = [(slot, { q with cancelAsked := some (q.cancelAsked.getD .cancel) })] ∧
            t.hw.getAt 0x8017 1 m = (s.hw.getAt 0x8017 1 m + 1) % 2 ^ 64))) ∧
    (∀ m : Fin 256, (s.hw.learner m).request = none ∨ (s.hw.learner m).stale = true →
      ∃ t, exec (.stalenessExpiry m) s = .next t ∧ s.Leaves t (s.hw.sends [])) ∧
    (∀ (f : Fin 16) (u : Bool), s.hw.updateReady f u = true →
      ∃ t, exec (.updatePartWrite f u) s = .next t ∧ (∃ x ∈ t.hw.mem.out ++ t.hw.mem.queue, x.use = .updatePart f u ∧ x.write = true ∧
        x.addr = (s.hw.attemptBlock f u (s.hw.job f u).iteration + 64) / 64 * 64) ∧ t.hw.jobs = s.hw.jobs ∧ t.hw.learners = s.hw.learners) ∧
    (∀ (f : Fin 16) (u : Bool), s.hw.updateReady f u = false →
      ∃ t, exec (.updatePartWrite f u) s = .next t ∧ s.Leaves t (s.hw.sends [])) ∧
    (∀ (f : Fin 16) (u : Bool) (d : Nat), (s.hw.job f u).state = .running → (s.hw.job f u).gateReady = true →
      (s.hw.job f u).suspended = false → (s.hw.job f u).decision = some d → d < 5 → (s.hw.job f u).telemetryOk = true →
      (s.hw.job f u).nextHeaderOk = true → (s.hw.job f u).model < 256 → (∀ w, (s.hw.job f u).acquired = some w → w < 2) →
      ((s.hw.job f u).iterations = 0 ∨ (s.hw.job f u).iteration + 1 < (s.hw.job f u).iterations →
        u = true ∨ s.hw.raw 0x9110 (f + 1) = 0 ∨ (s.hw.job f u).sliceIters + 1 < s.hw.raw 0x9110 (f + 1) →
        ∃ t, exec (.learnerDecision f u) s = .next t ∧ (t.hw.job f u).state = .running ∧
          (t.hw.job f u).iteration = (s.hw.job f u).iteration + 1 ∧ (t.hw.job f u).decision = none ∧ (t.hw.job f u).gateTag = none ∧
          ∃ x ∈ t.hw.mem.out ++ t.hw.mem.queue, x.use = .graphRead f u ∧ x.write = false) ∧
      (∀ n, u = false → (s.hw.job f false).iterations ≠ 0 → (s.hw.job f false).iterations ≤ (s.hw.job f false).iteration + 1 →
        (s.hw.job f false).gateTag = some n → (s.hw.desc? n).isSome = true → s.hw.descTags (jobDesc f false) = [n] →
        (∀ p ∈ s.hw.facetParts f, (s.hw.part p).credits = s.hw.get 0x2200 (p + 1) ∧ (s.hw.part p).intReq = false ∧
          (s.hw.part p).preReq = false) →
        ∃ t, exec (.learnerDecision f false) s = .next t ∧ (t.hw.job f false).state = .ended ∧ (t.hw.job f false).result = 1 ∧
          (t.hw.job f false).iteration = (s.hw.job f false).iteration + 1)) ∧
    (∀ (f : Fin 16) (u : Bool), (s.hw.job f u).state ≠ .running ∨ (s.hw.job f u).gateReady = false ∨ (s.hw.job f u).suspended = true →
      ∃ t, exec (.learnerDecision f u) s = .next t ∧ s.Leaves t (s.hw.sends []))

/-- R355, R357 to R359: with the federation off, or before its poll time, nothing is polled; a poll reads the in ring's produced count, and a frame
that has been read whole moves the consumed count past it, counted where it cannot be taken. A child's vote for the open attempt joins the round
while the engine's own is out, and one from another, or for no round of the model, is discarded; a DECIDE of the parent closes a round that no job
waits for, or is the decision of the job that waits, and one from another is discarded; a missing vote is sent on as failed once its time has
passed, and an own one again. -/
def Obligations.Federation : Prop :=
  (∀ (h : Hw) (data : List Byte), h.fed.inData = [] → 64 ≤ fieldAt data 0 4 → fieldAt data 0 4 ≤ 16777200 →
    data.length = 64 * ceilDiv (16 + fieldAt data 0 4) 64 → h.fed.inProduced = h.fed.consumed + ceilDiv (16 + fieldAt data 0 4) 64 →
    (h.fedUnitsIn data).fed.consumed = h.fed.inProduced ∧ (h.fedUnitsIn data).fed.polling = false ∧
    (h.fedUnitsIn data).get 0x830B 1 = if h.frameOk data then h.get 0x830B 1 else (h.get 0x830B 1 + 1) % 2 ^ 64) ∧
  ∀ (s : State) (told : Nat) (units : List Byte), s.Ready →
    (s.hw.fedOn = false ∨ s.hw.now < s.hw.fed.pollNs + 1000 * s.hw.get 0x8307 1 →
      ∃ t, exec (.fedPoll told units) s = .next t ∧ s.Leaves t (s.hw.sends [])) ∧
    (s.hw.fedOn = true → s.hw.fed.pollNs + 1000 * s.hw.get 0x8307 1 ≤ s.hw.now → s.hw.fed.inOff = false → s.hw.fed.polling = false →
      ∃ t, exec (.fedPoll told units) s = .next t ∧ t.hw.fed = { s.hw.fed with pollNs := s.hw.now, polling := true } ∧
        (∃ x ∈ t.hw.mem.out ++ t.hw.mem.queue, x.use = .fedPoll ∧ x.write = false ∧ x.addr = s.hw.raw 0x8305 1 / 64 * 64) ∧
        t.hw.learners = s.hw.learners ∧ t.hw.seqs = s.hw.seqs) ∧
    (∀ source l m, s.hw.takesCommit 1 l m → s.hw.fedChildren.contains source = false →
      ∃ t, exec (.fedVote source l) s = .next t ∧ s.Leaves t (s.hw.badFrame.sends [])) ∧
    (∀ source l m, s.hw.takesCommit 1 l m → s.hw.fedChildren.contains source = true →
      ((s.hw.learner m).decided.find? fun e => e.1 == fieldAt l 8 8) = none →
      (fieldAt l 8 8 = s.hw.getAt 0x802A 1 m → (s.hw.learner m).round = none →
        ∃ t, exec (.fedVote source l) s = .next t ∧
          (t.hw.learner m).round = some { s.hw.freshRound m with
            votes := [(source, voteCode (fieldAt l 1 1) (fieldAt l 16 4) (fieldAt l 20 4))] } ∧ t.hw.fed = s.hw.fed) ∧
      (fieldAt l 8 8 ≠ s.hw.getAt 0x802A 1 m → ∃ t, exec (.fedVote source l) s = .next t ∧ s.Leaves t (s.hw.badFrame.sends []))) ∧
    (∀ source l m, s.hw.takesCommit 2 l m → s.hw.fedParent ≠ some source →
      ∃ t, exec (.fedDecide source l) s = .next t ∧ s.Leaves t (s.hw.badFrame.sends [])) ∧
    (∀ source l m r, s.hw.takesCommit 2 l m → s.hw.fedParent = some source → fieldAt l 8 8 = s.hw.getAt 0x802A 1 m →
      (s.hw.learner m).round = some r → (s.hw.roundState m = 1 ∨ s.hw.roundState m = 2) →
      (s.hw.roundJob m = none →
        ∃ t, exec (.fedDecide source l) s = .next t ∧ (t.hw.learner m).round = none ∧
          ((t.hw.learner m).decided.head?).map Prod.fst = some r.attempt) ∧
      (∀ f u, s.hw.roundJob m = some (f, u) → (s.hw.job f u).decision = none →
        ∃ t, exec (.fedDecide source l) s = .next t ∧ (t.hw.learner m).round = some r ∧
          (t.hw.job f u).decision = some (fieldAt l 1 1 + if s.hw.telemetryRoom (s.hw.job f u).model then 0 else 16))) ∧
    (∀ m : Fin 256, (s.hw.learner m).round = none → ∃ t, exec (.fedVoteTimeout m) s = .next t ∧ s.Leaves t (s.hw.sends [])) ∧
    (∀ (m : Fin 256) r p, (s.hw.learner m).round = some r → s.hw.fedOn = true → r.own.isSome = true → s.hw.fedParent = some p →
      (s.hw.now < r.sinceNs + 1000000 * s.hw.get 0x8308 1 →
        ∃ t, exec (.fedVoteTimeout m) s = .next t ∧ s.Leaves t (s.hw.sends [])) ∧
      (r.sinceNs + 1000000 * s.hw.get 0x8308 1 ≤ s.hw.now → r.sent = false →
        ∃ t, exec (.fedVoteTimeout m) s = .next t ∧
          (t.hw.learner m).round = some { r with sent := true, verdict := (s.hw.aggregate r true).1, sinceNs := s.hw.now } ∧
          t.hw.fed ≠ s.hw.fed) ∧
      (r.sinceNs + 1000000 * s.hw.get 0x8308 1 ≤ s.hw.now → r.sent = true → s.hw.roundState m = 2 →
        ∃ t, exec (.fedVoteTimeout m) s = .next t ∧ (t.hw.learner m).round = some { r with sinceNs := s.hw.now } ∧
          t.hw.get 0x830C 1 = (s.hw.get 0x830C 1 + 1) % 2 ^ 64 ∧ t.hw.occurred 9 = (s.hw.occurred 9 + 1) % 2 ^ 64))

/-! ## Policy cores -/

/-- R14, R181, R239, R242, R294, R369, R380: a running pair's request for a firmware block is answered and counted, and its proposals are taken; one
above the limits of a mode that adapts is refused with an event; nothing leaves a pair that does not run. A divergence holds the pair, and the third
within an hour masks it; the resync's end lets it go; and a firmware load's end starts the pairs with ENGINE_SEED, or rejects the image. That a
proposal above the limits is refused as a whole is the model's reading (log entry 13). -/
def Obligations.PolicyCores : Prop :=
  ∀ (s : State) (p : Fin 8), s.Ready →
    (∀ (stream : Word64) (counter : BitVec 60) (asks : Bool), s.hw.pairRuns p = true →
      ∃ t, exec (.firmwareBlockRequest p stream counter asks) s = .next t ∧
        s.Leaves t ((s.hw.sends []).firmwareBlock stream counter asks) ∧ t.hw.get 0x7104 1 = (s.hw.get 0x7104 1 + 1) % 2 ^ 64 ∧
        t.hw.out.length = 1) ∧
    (∀ (f : Fin 16) (n k : Nat), s.hw.pairRuns p = true →
      (s.hw.overLimit f (n % 2 ^ 32) (k % 2 ^ 32) = false →
        ∃ t, exec (.policyProposal p f n k) s = .next t ∧
          s.Leaves t ((s.hw.modFacet f fun x => { x with proposal := (n % 2 ^ 32, k % 2 ^ 32) }).sends [])) ∧
      (s.hw.overLimit f (n % 2 ^ 32) (k % 2 ^ 32) = true →
        ∃ t, exec (.policyProposal p f n k) s = .next t ∧ t.hw.facets = s.hw.facets ∧
          t.hw.occurred 0xD = (s.hw.occurred 0xD + 1) % 2 ^ 64)) ∧
    (∀ (handle : Word64) (slot : Fin 16) (valid : Bool), s.hw.pairRuns p = true →
      (∀ n q, s.hw.liveSlot handle.toNat = some n → s.hw.seq? n = some q →
        ∃ t, exec (.shapeProposal p handle slot valid) s = .next t ∧ t.hw.seq? n = some { q with
          cur := { q.cur with spec := { q.cur.spec with shape := slot.val, shapeValid := valid } } } ∧
          ∀ k, k ≠ n → t.hw.seq? k = s.hw.seq? k) ∧
      (s.hw.liveSlot handle.toNat = none →
        ∃ t, exec (.shapeProposal p handle slot valid) s = .next t ∧ s.Leaves t (s.hw.sends []))) ∧
    (s.hw.pairRuns p = false → ∀ stream counter asks f n k handle slot valid,
      ∀ c ∈ [Instr.firmwareBlockRequest p stream counter asks, .policyProposal p f n k, .shapeProposal p handle slot valid,
        .lockstepDivergence p], ∃ t, exec c s = .next t ∧ s.Leaves t (s.hw.sends [])) ∧
    (s.hw.pairRuns p = true → ((s.hw.pair p).stamps.filter fun x => decide (s.hw.now < x + hourNs)).length < 2 →
      ∃ t, exec (.lockstepDivergence p) s = .next t ∧ (t.hw.pair p).resyncing = true ∧ t.hw.raw 0xA012 1 = s.hw.raw 0xA012 1 ∧
        t.hw.get 0xA020 4 = (s.hw.get 0xA020 4 + 1) % 2 ^ 64) ∧
    (s.hw.pairRuns p = true → 2 ≤ ((s.hw.pair p).stamps.filter fun x => decide (s.hw.now < x + hourNs)).length →
      ∃ t, exec (.lockstepDivergence p) s = .next t ∧ (t.hw.raw 0xA012 1).testBit p = true ∧ t.hw.facets = s.hw.facets) ∧
    (∃ t, exec (.lockstepResyncComplete p) s = .next t ∧ t.hw.pair p = { s.hw.pair p with resyncing := false } ∧
      ∀ k, k ≠ p.val → t.hw.pair k = s.hw.pair k) ∧
    (s.hw.raw 0xA064 1 = 1 →
      ∃ t, exec (.fwLoadComplete true) s = .next t ∧ t.hw.raw 0xA064 1 = 2 ∧ t.hw.engineSeedUsed = s.hw.raw 0x7103 1 ∧
        ∀ e ∈ t.hw.pairs, e.2.resyncing = false) ∧
    (s.hw.raw 0xA064 1 = 1 →
      ∃ t, exec (.fwLoadComplete false) s = .next t ∧ s.Leaves t ((s.hw.set 0xA064 1 3).sends [])) ∧
    (∀ b, s.hw.raw 0xA064 1 ≠ 1 → ∃ t, exec (.fwLoadComplete b) s = .next t ∧ s.Leaves t (s.hw.sends []))

/-! ## Faults -/

/-- R145, R151, R365, R368, R369, R381, Table 15.1: an uncorrectable word of an ACTIVE facet's ledger, of another structure whose only ACTIVE facet it
is, a residue mismatch on a lane that reduces for it alone, and two good copies of a control unit that differ each make it recover; an error in a bank
without changed vertices, in one copy of a pair, or one that was corrected is counted only. A pool's lists are rebuilt by a scan, and a queue's counts
from its header. A failing copy makes its unit simplex, and in a simplex unit holds the engine. That a single copy and a corrected word are places of
the command is the model's reading (log entry 130). -/
def Obligations.DetectedFaults : Prop :=
  ∀ (s : State) (f : Fin 16), s.Ready →
    ((s.hw.facet f).state = .active → s.hw.raw 0xA006 (f + 1) < s.hw.get 0xA001 1 →
      (∃ t, exec (.sramEccError (.ledger f)) s = .next t ∧ (t.hw.facet f).recovering = true) ∧
      (∀ b : Fin 16, s.hw.bankFacets b = [f.val] →
        ∃ t, exec (.sramEccError (.hotBank b)) s = .next t ∧ (t.hw.facet f).recovering = true) ∧
      ((∀ g : Fin 16, g ≠ f → (s.hw.facet g).state ≠ .active) →
        ∀ c ∈ [EccPlace.delayList, .pairMemory 0, .pairMemory 7],
          ∃ t, exec (.sramEccError c) s = .next t ∧ (t.hw.facet f).recovering = true) ∧
      (∀ lane : Fin 16, distinct (s.hw.smp.store.map fun e => e.facet) = [f.val] →
        ∃ t, exec (.sramEccError (.positionStore lane)) s = .next t ∧ (t.hw.facet f).recovering = true) ∧
      (∀ lane : Fin 16, facetsOf (Map.getD s.hw.smp.laneFacets lane 0) = [f.val] →
        ∃ t, exec (.residueMismatch lane) s = .next t ∧ (t.hw.facet f).recovering = true) ∧
      (∀ w : CopyUnit, (s.hw.raw 0xA013 1).testBit (copyBit w) = false →
        ∃ t, exec (.controlCopyMismatch w none (some f)) s = .next t ∧ (t.hw.facet f).recovering = true)) ∧
    (∀ b : Fin 16, s.hw.bankFacets b = [] →
      ∃ t, exec (.sramEccError (.hotBank b)) s = .next t ∧ s.Leaves t ((s.hw.inc 0xA020 2).sends [])) ∧
    (∃ t, exec (.sramEccError .oneCopy) s = .next t ∧ s.Leaves t ((s.hw.inc 0xA020 2).sends [])) ∧
    (∃ t, exec (.sramEccError .corrected) s = .next t ∧ s.Leaves t ((s.hw.inc 0xA020 1).sends [])) ∧
    (∀ k : Fin 64, s.hw.poolFacets k = [] →
      ∃ t, exec (.sramEccError (.poolLists k)) s = .next t ∧ s.Leaves t (((s.hw.inc 0xA020 3).rescanPool k).sends [])) ∧
    (∀ (q : Fin 4096) (c : BitVec 32), (s.hw.facet (s.hw.queueFacet q)).state = .standby →
      ∃ t, exec (.sramEccError (.queueCounts q c)) s = .next t ∧ t.hw.queue q = { s.hw.queue q with w := (s.hw.queue q).k } ∧
        (∃ x ∈ t.hw.mem.out ++ t.hw.mem.queue, x.use = .queueRebuild q (s.hw.queue q).c c.toNat ∧ x.write = false) ∧
        t.hw.get 0xA020 3 = (s.hw.get 0xA020 3 + 1) % 2 ^ 64) ∧
    (∀ (w : CopyUnit) (c : Fin 2) (g : Option (Fin 16)),
      ((s.hw.raw 0xA013 1).testBit (copyBit w) = false →
        ∃ t, exec (.controlCopyMismatch w (some c) g) s = .next t ∧ (t.hw.raw 0xA013 1).testBit (copyBit w) = true ∧
          t.hw.get 0xA020 3 = (s.hw.get 0xA020 3 + 1) % 2 ^ 64 ∧
          t.hw.occurred (4 + copyBit w) = (s.hw.occurred (4 + copyBit w) + 1) % 2 ^ 64 ∧ t.hw.facets = s.hw.facets) ∧
      ((s.hw.raw 0xA013 1).testBit (copyBit w) = true →
        ∃ t, exec (.controlCopyMismatch w (some c) g) s = .next t ∧ t.hw.eng.state = .faultHold)) ∧
    (∀ (w : CopyUnit) (g : Option (Fin 16)), (s.hw.raw 0xA013 1).testBit (copyBit w) = true →
      ∃ t, exec (.controlCopyMismatch w none g) s = .next t ∧ s.Leaves t (s.hw.sends []))

/-! ## Background work and events -/

/-- R41, R375, R376, R395, R397, R398: a slot of a task that is OFF does nothing; of a pass task that is not too far ahead it completes a unit, and a
guaranteed one counts; TRACE_FLUSH and ACCOUNT_FLUSH write their next record in it, unless a foreground request waits. A shut-down ends OFF, and the
task starts again in the next cc where an enable is pending; EVR takes the first record of its intake into a free slot, and no second within 16 cc;
and a rate window's end empties its table and sums up what it suppressed. -/
def Obligations.BackgroundAndEvents : Prop :=
  (∀ (h : Hw) (t : Nat), (h.task t).state = 0 → (h.task t).pending = true →
    h.bgPending.task t = { Task.reset with sinceNs := h.now }) ∧
  ∀ s : State, s.Ready →
    (∀ k : Fin 6, (s.hw.task k).state = 0 ∨ s.hw.eng.state = .start →
      ∃ t, exec (.backgroundSlot k) s = .next t ∧ s.Leaves t (s.hw.sends [])) ∧
    (∀ k : Fin 6, k.val < 3 → (s.hw.task k).state ≠ 0 → s.hw.eng.state ≠ .start →
      (s.hw.task k).done < taskWork k * (s.hw.now - (s.hw.task k).sinceNs) / s.hw.bgPeriod k + taskWork k →
      (s.hw.bgGuaranteed k = true → ∃ t, exec (.backgroundSlot k) s = .next t ∧
        s.Leaves t (((s.hw.inc 0xA055 (k + 1)).modTask k fun y => { y with done := y.done + 1 }).sends [])) ∧
      (s.hw.bgGuaranteed k = false → ∃ t, exec (.backgroundSlot k) s = .next t ∧
        s.Leaves t ((s.hw.modTask k fun y => { y with done := y.done + 1 }).sends []))) ∧
    (∀ k : Fin 6, k.val < 3 → s.hw.bgGuaranteed k = false →
      taskWork k * (s.hw.now - (s.hw.task k).sinceNs) / s.hw.bgPeriod k + taskWork k ≤ (s.hw.task k).done →
      ∃ t, exec (.backgroundSlot k) s = .next t ∧ s.Leaves t (s.hw.sends [])) ∧
    (∀ k : Fin 6, 3 ≤ k.val → s.hw.bgGuaranteed k = false → s.hw.foregroundWaits = true →
      ∃ t, exec (.backgroundSlot k) s = .next t ∧ s.Leaves t (s.hw.sends [])) ∧
    (s.hw.eng.state ≠ .start → s.hw.foregroundWaits = false →
      (∀ i l, (s.hw.task 3).state ≠ 0 → (s.hw.trace.buffer.find? fun e => !(s.hw.memWaiting fun u => u == .traceRecord e.1)) = some (i, l) →
        ∃ t, exec (.backgroundSlot 3) s = .next t ∧ (∃ x ∈ t.hw.mem.out ++ t.hw.mem.queue, x.use = .traceRecord i ∧ x.data = l) ∧
          t.hw.seqs = s.hw.seqs) ∧
      (∀ n r rest, (s.hw.task 4).state ≠ 0 → s.hw.acct.posted = none → s.hw.acctFull = false → s.hw.acct.flushing = (n, r) :: rest →
        ∃ t, exec (.backgroundSlot 4) s = .next t ∧ t.hw.acct.flushing = rest ∧ t.hw.acct.posted = some (n, r) ∧
          (∃ x ∈ t.hw.mem.out ++ t.hw.mem.queue, x.use = .accountRecord n ∧ x.write = true) ∧ t.hw.seqs = s.hw.seqs)) ∧
    (∀ k : Fin 6, (s.hw.task k).state = 2 → (k.val < 3 ∨ s.hw.flushHeld k = 0) →
      ∃ t, exec (.bgShutdownComplete k) s = .next t ∧ s.Leaves t ((s.hw.modTask k fun y => { y with state := 0 }).sends [])) ∧
    (∀ k : Fin 6, (s.hw.task k).state ≠ 2 ∨ (3 ≤ k.val ∧ s.hw.flushHeld k ≠ 0) →
      ∃ t, exec (.bgShutdownComplete k) s = .next t ∧ s.Leaves t (s.hw.sends [])) ∧
    (s.hw.events.intake = [] ∨ (∃ c, s.hw.events.takenCc = some c ∧ s.hw.cc < c + 16) →
      ∃ t, exec .eventRecordAccept s = .next t ∧ s.Leaves t (s.hw.sends [])) ∧
    (∀ e rest, s.hw.events.intake = e :: rest → (∀ c, s.hw.events.takenCc = some c → c + 16 ≤ s.hw.cc) →
      (∀ x ∈ rest, x.seq < s.hw.raw 0xC004 1) → e.snap = [] → e.duePersist = false → e.severity ≠ 5 →
      s.hw.events.buffer.length < eventSlots → s.hw.events.lostIntake = 0 → s.hw.events.lostOver = 0 → s.hw.flushing = false →
      ∃ t, exec .eventRecordAccept s = .next t ∧ t.hw.events.intake = rest ∧ t.hw.events.buffer = s.hw.events.buffer ++ [e] ∧
        t.hw.events.takenCc = some s.hw.cc ∧ t.hw.facets = s.hw.facets ∧ t.hw.seqs = s.hw.seqs) ∧
    (s.hw.events.rateNs / (s.hw.events.rateMs * 1000000) < s.hw.now / (s.hw.events.rateMs * 1000000) →
      ∃ t, exec .rateWindowBoundary s = .next t ∧ t.hw.events.rates = [] ∧ t.hw.events.rateMs = s.hw.get 0xC010 1 ∧
        t.hw.events.rateNs = s.hw.now ∧ t.hw.events.closed = [] ∧ t.hw.seqs = s.hw.seqs ∧ t.hw.facets = s.hw.facets ∧
        ∀ r, s.hw.events.rates = [r] → r.suppressed ≠ 0 → s.hw.events.closed = [] → s.hw.events.stopBelowS4 = false →
          s.hw.events.intake.length < 64 → ∃ e, t.hw.events.intake.getLast? = some e ∧ e.summary = true ∧ e.code = r.first.code ∧
            e.count = r.suppressed % 2 ^ 32 ∧
            e.stamp = (s.hw.events.rateNs / (s.hw.events.rateMs * 1000000) + 1) * (s.hw.events.rateMs * 1000000)) ∧
    (s.hw.now / (s.hw.events.rateMs * 1000000) ≤ s.hw.events.rateNs / (s.hw.events.rateMs * 1000000) → s.hw.events.closed = [] →
      ∃ t, exec .rateWindowBoundary s = .next t ∧ s.Leaves t (s.hw.sends []))

/-! ## Rules of the spec as they stand -/

/-- R31. -/
def Obligations.MarkConditions : Prop :=
  (∀ c p d m k : Nat, marksOk [c, p, d, k, m] = true ↔
    (0x0100 ≤ c ∧ c < p ∧ p < d ∧ d < m ∧ m ≤ 0xFF00) ∧ c + 0x1000 ≤ m ∧
      0x0100 ≤ k ∧ k ≤ 0xFF00 ∧ k ≠ c ∧ k ≠ p ∧ k ≠ d ∧ k ≠ m) ∧
  ∀ (s : State) (p : Path) (f : Fin 16) (i : Fin 5) (v : Nat), s.Ready →
    s.hw.eng.state = .config ∨ s.hw.eng.state = .operational ∨ s.hw.eng.state = .draining ∨ s.hw.eng.state = .quiesced →
    s.AsksWrite p (0x5200 + i) (f + 1) v →
    (marksOk ((List.range 5).map fun k => if k = i.val then v else s.hw.get (0x5200 + k) (f + 1)) = true →
      ∃ t, exec (.markWrite p) s = .next t ∧ s.Answered t .ok p ∧ t.hw.get (0x5200 + i) (f + 1) = v) ∧
    (marksOk ((List.range 5).map fun k => if k = i.val then v else s.hw.get (0x5200 + k) (f + 1)) = false →
      ∃ t, exec (.markWrite p) s = .next t ∧ s.Answered t .range p ∧ t.hw.get (0x5200 + i) (f + 1) = s.hw.get (0x5200 + i) (f + 1))

/-- R63: the channel of an access that the engine starts is the parity of its address's bits that 0x2100 picks; and 0x2100 takes a value whose
bits lie in [55:12], and refuses one with any other bit. -/
def Obligations.AccessChannels : Prop :=
  (∀ (h : Hw) (write : Bool) (addr beats : Nat) (data : List Byte) (p : Purpose) (tenant : Option Nat) (use : MemUse),
    ∃ r ∈ (h.memPost write addr beats data p tenant use).mem.out ++ (h.memPost write addr beats data p tenant use).mem.queue,
      r.use = use ∧ r.write = write ∧ r.data = data ∧ r.addr = addr / 64 * 64 ∧
      r.channel = ((List.range 64).filter fun i => addr.testBit i && (h.get 0x2100 1).testBit i).length % 2) ∧
  ∀ (s : State) (p : Path) (v : Nat), s.Ready → s.hw.eng.state = .config → s.AsksWrite p 0x2100 1 v → v < 2 ^ 64 →
    ((∀ i, v.testBit i = true → 12 ≤ i ∧ i ≤ 55) →
      ∃ t, exec (.dictWrite p) s = .next t ∧ s.Answered t .ok p ∧ t.hw.get 0x2100 1 = v) ∧
    (∀ i, v.testBit i = true → i < 12 ∨ 55 < i →
      ∃ t, exec (.dictWrite p) s = .next t ∧ s.Answered t .range p ∧ t.hw.get 0x2100 1 = s.hw.get 0x2100 1)

/-- R124. -/
def Obligations.LocusReserve : Prop :=
  ∀ (h : Hw) (a : Asker) (c : Cls), h.tenantLive a.tenant < h.getAt 0x3101 5 a.tenant →
    (h.capacityFails a c = some 1 ↔ if c = .lc then h.freeSlots = 0 else h.freeSlots ≤ h.get 0x3002 1) ∧
    (h.takeSlot = none ↔ h.freeSlots = 0)

/-- R236. -/
def Obligations.HelixKey : Prop :=
  (∀ seed : Word64, helixKey seed 0 = seed ∧ helixKey seed 1 = seed.rotateLeft 32 ∧
    helixKey seed 2 = helixKey seed 0 ^^^ helixKey seed 1 ^^^ 0x3B9E0C71A4F258D3) ∧
  State.reset.hw.get 0x7101 1 = 0x3B9E0C71A4F258D3

/-- R243: as a binary32 value, in units of 2⁻¹⁴⁹, UNIT24 is exactly (m + 1) × 2⁻²⁴ for m = w >> 40, so it lies in (0, 1]. -/
def Obligations.UnitValues : Prop :=
  ∀ w : Word64, f32Neg (unit24 w) = false ∧ f32IsFinite (unit24 w) = true ∧
    f32Mag (unit24 w) = ((w >>> 40).toNat + 1) * 2 ^ 125 ∧ 0 < f32Mag (unit24 w) ∧ f32Mag (unit24 w) ≤ 2 ^ 149

/-- R326: each tenant of a block receives the floor of its share, the first of them one unit more until the remainder is used up; nothing of the
value is lost. -/
def Obligations.SharedRecords : Prop :=
  ∀ (x : Nat) (shares : List (Nat × Nat)), (shares.map Prod.snd).sum ≠ 0 →
    ((splitShare x shares).map Prod.snd).sum = x ∧ (splitShare x shares).map Prod.fst = shares.map Prod.fst ∧
    ∃ n, n < shares.length ∧ ∀ (i : Nat) (e : Nat × Nat), shares[i]? = some e →
      (splitShare x shares)[i]? = some (e.1, x * e.2 / (shares.map Prod.snd).sum + if i < n then 1 else 0)

/-! ## The machine -/

/-- The command at the front of the queue is carried out with the queue's rest. On an empty queue one core cycle passes (the model's choice,
log entry 1). -/
def Obligations.StepRunsCommand : Prop :=
  ∀ s : State,
    (∀ c rest, s.pending = c :: rest → step s = exec c { s with pending := rest }) ∧
    (s.pending = [] → step s = .next s.tick)

/-- No command stops the machine or touches its queue, and a step takes one command off the queue and leaves the others in their order. -/
def Obligations.QueueOrder : Prop :=
  (∀ (c : Instr) (s : State), ∃ t, exec c s = .next t ∧ t.pending = s.pending) ∧
  ∀ s : State, ∃ t, step s = .next t ∧ t.pending = s.pending.drop 1

/-- Table 5.11, R24, R404: the machine after reset is in START with both islands powered and both resets released, has no facet, sequence,
descriptor, request or fault, its window idle, POWER_CYCLES at 1, and the wall-time increment nominal; and it is ready for a first command, with
the invariants of the steps. -/
def Obligations.ResetState : Prop :=
  State.reset.pending = [] ∧ State.reset.hw.eng.state = .start ∧ State.reset.live = true ∧ State.reset.gnm.powered = true ∧
  (∀ f, (State.reset.hw.facet f).state = .unassigned) ∧ State.reset.hw.seqs = [] ∧ State.reset.hw.descs = [] ∧
  State.reset.hw.mem.out = [] ∧ State.reset.hw.mem.queue = [] ∧ State.reset.hw.faults = [] ∧ State.reset.win.busy = false ∧
  State.reset.win.data = [] ∧ State.reset.gnm.get 0xD111 1 = 1 ∧ State.reset.gnm.inc = 1953125 ∧ State.reset.hw.get 0x2100 1 = 0x1000 ∧
  Memory.wf State.reset.win.data = true ∧ State.reset.Ready ∧ State.reset.gnm.count < 2 ^ 70

/-- R37, R104: under every step the window's buffer keeps its canonical form, and the Gnomon's count stays a 70-bit number. -/
def Obligations.StepInvariant : Prop :=
  ∀ s t : State, Memory.wf s.win.data = true → s.gnm.count < 2 ^ 70 → step s = .next t →
    Memory.wf t.win.data = true ∧ t.gnm.count < 2 ^ 70

/-- Every step leaves nothing to be settled: no event raised, no record made, no trigger fired and no fault found remains from it. -/
def Obligations.StepsSettle : Prop :=
  ∀ s t : State, s.hw.Quiet → step s = .next t → t.hw.Quiet
end

