-- ==== Sys2Proof/Laws/Map.lean ====
section
/-! SUPPORT. The laws of sparse tables: a read after a write, and the order of keys that every operation keeps. -/

namespace Sys2Proof.Machine

variable {α : Type}

/-- A key just set reads as it was set. -/
@[simp] theorem Map.find?_insert_self (m : Map α) (k : Nat) (v : α) : Map.find? (Map.insert m k v) k = some v := by
  induction m with
  | nil => simp [Map.insert, Map.find?]
  | cons e r ih =>
    obtain ⟨k', v'⟩ := e
    by_cases h1 : k = k'
    · simp [Map.insert, Map.find?, h1]
    · by_cases h2 : k < k'
      · simp [Map.insert, Map.find?, h1, h2]
      · simp [Map.insert, Map.find?, h1, h2, ih]

/-- Every other key reads as before. -/
theorem Map.find?_insert_ne (m : Map α) (k j : Nat) (v : α) (hne : j ≠ k) : Map.find? (Map.insert m k v) j = Map.find? m j := by
  induction m with
  | nil => simp [Map.insert, Map.find?, hne]
  | cons e r ih =>
    obtain ⟨k', v'⟩ := e
    by_cases h1 : k = k'
    · subst h1; simp [Map.insert, Map.find?, hne]
    · by_cases h2 : k < k'
      · simp only [Map.insert, h1, h2, if_true, if_false, Map.find?, hne]
        by_cases h3 : j < k
        · have h4 : j ≠ k' := by omega
          have h5 : j < k' := by omega
          simp [h3, h4, h5]
        · simp [h3]
      · simp [Map.insert, h1, h2, Map.find?, ih]

/-- A key just set reads as it was set. -/
@[simp] theorem Map.getD_insert_self (m : Map α) (k : Nat) (v d : α) : Map.getD (Map.insert m k v) k d = v := by
  simp [Map.getD]

/-- Every other key reads as before. -/
theorem Map.getD_insert_ne (m : Map α) (k j : Nat) (v d : α) (hne : j ≠ k) :
    Map.getD (Map.insert m k v) j d = Map.getD m j d := by simp [Map.getD, Map.find?_insert_ne m k j v hne]

/-- Keys strictly rise. -/
def Map.Sorted (m : Map α) : Prop := (m.map Prod.fst).Pairwise (· < ·)

/-- Keys of a table after a key is set: that key, and those before. -/
theorem Map.mem_keys_insert (m : Map α) (k : Nat) (v : α) (j : Nat) (h : j ∈ (Map.insert m k v).map Prod.fst) :
    j = k ∨ j ∈ m.map Prod.fst := by
  induction m with
  | nil => simp_all [Map.insert]
  | cons e r ih =>
    obtain ⟨k', v'⟩ := e
    by_cases h1 : k = k'
    · subst h1; simp [Map.insert] at h ⊢; tauto
    · by_cases h2 : k < k'
      · simp [Map.insert, h1, h2] at h ⊢; tauto
      · simp only [Map.insert, h1, h2, if_false, List.map_cons, List.mem_cons] at h ⊢
        rcases h with h | h
        · exact Or.inr (Or.inl h)
        · rcases ih h with h | h
          · exact Or.inl h
          · exact Or.inr (Or.inr h)

/-- Setting a key keeps the keys rising. -/
theorem Map.insert_sorted (m : Map α) (k : Nat) (v : α) (h : Map.Sorted m) : Map.Sorted (Map.insert m k v) := by
  induction m with
  | nil => simp [Map.Sorted, Map.insert]
  | cons e r ih =>
    obtain ⟨k', v'⟩ := e
    simp only [Map.Sorted, List.map_cons, List.pairwise_cons] at h
    by_cases h1 : k = k'
    · subst h1; simpa [Map.Sorted, Map.insert] using h
    · by_cases h2 : k < k'
      · simp only [Map.Sorted, Map.insert, h1, h2, if_true, if_false, List.map_cons, List.pairwise_cons, List.mem_cons]
        refine ⟨?_, h⟩
        rintro a (rfl | ha)
        · exact h2
        · exact Nat.lt_trans h2 (h.1 a ha)
      · simp only [Map.Sorted, Map.insert, h1, h2, if_false, List.map_cons, List.pairwise_cons]
        refine ⟨fun a ha => ?_, ih h.2⟩
        rcases Map.mem_keys_insert r k v a ha with rfl | ha
        · omega
        · exact h.1 a ha

/-- Removing a key keeps the keys rising. -/
theorem Map.erase_sorted (m : Map α) (k : Nat) (h : Map.Sorted m) : Map.Sorted (Map.erase m k) := by
  unfold Map.Sorted Map.erase at *
  exact List.Pairwise.sublist (List.filter_sublist.map _) h

end Sys2Proof.Machine
end

