-- ==== Sys2Proof/Laws/State.lean ====
section
/-! SUPPORT. One lemma for each field and each update of the core island: what an update leaves alone, and what it writes. -/

namespace Sys2Proof.Machine

variable (h : Hw)

/-! `Hw.setAt` -/

@[simp] theorem Hw.setAt_cc (idx sub obj v : Nat) : (h.setAt idx sub obj v).cc = h.cc := rfl
@[simp] theorem Hw.setAt_clk (idx sub obj v : Nat) : (h.setAt idx sub obj v).clk = h.clk := rfl
@[simp] theorem Hw.setAt_eng (idx sub obj v : Nat) : (h.setAt idx sub obj v).eng = h.eng := rfl
@[simp] theorem Hw.setAt_pins (idx sub obj v : Nat) : (h.setAt idx sub obj v).pins = h.pins := rfl
@[simp] theorem Hw.setAt_dom (idx sub obj v : Nat) : (h.setAt idx sub obj v).dom = h.dom := rfl
@[simp] theorem Hw.setAt_ccNext (idx sub obj v : Nat) : (h.setAt idx sub obj v).ccNext = h.ccNext := rfl
@[simp] theorem Hw.setAt_ccOnce (idx sub obj v : Nat) : (h.setAt idx sub obj v).ccOnce = h.ccOnce := rfl
@[simp] theorem Hw.setAt_ccSnap (idx sub obj v : Nat) : (h.setAt idx sub obj v).ccSnap = h.ccSnap := rfl
@[simp] theorem Hw.setAt_imageLive (idx sub obj v : Nat) : (h.setAt idx sub obj v).imageLive = h.imageLive := rfl
@[simp] theorem Hw.setAt_adm (idx sub obj v : Nat) : (h.setAt idx sub obj v).adm = h.adm := rfl
@[simp] theorem Hw.setAt_budgetNs (idx sub obj v : Nat) : (h.setAt idx sub obj v).budgetNs = h.budgetNs := rfl
@[simp] theorem Hw.setAt_descDone (idx sub obj v : Nat) : (h.setAt idx sub obj v).descDone = h.descDone := rfl
@[simp] theorem Hw.setAt_expReadNs (idx sub obj v : Nat) : (h.setAt idx sub obj v).expReadNs = h.expReadNs := rfl
@[simp] theorem Hw.setAt_hostReads (idx sub obj v : Nat) : (h.setAt idx sub obj v).hostReads = h.hostReads := rfl
@[simp] theorem Hw.setAt_snaps (idx sub obj v : Nat) : (h.setAt idx sub obj v).snaps = h.snaps := rfl
@[simp] theorem Hw.setAt_staged (idx sub obj v : Nat) : (h.setAt idx sub obj v).staged = h.staged := rfl
@[simp] theorem Hw.setAt_side (idx sub obj v : Nat) : (h.setAt idx sub obj v).side = h.side := rfl
@[simp] theorem Hw.setAt_irq (idx sub obj v : Nat) : (h.setAt idx sub obj v).irq = h.irq := rfl
@[simp] theorem Hw.setAt_events (idx sub obj v : Nat) : (h.setAt idx sub obj v).events = h.events := rfl
@[simp] theorem Hw.setAt_trace (idx sub obj v : Nat) : (h.setAt idx sub obj v).trace = h.trace := rfl
@[simp] theorem Hw.setAt_rings (idx sub obj v : Nat) : (h.setAt idx sub obj v).rings = h.rings := rfl
@[simp] theorem Hw.setAt_turn (idx sub obj v : Nat) : (h.setAt idx sub obj v).turn = h.turn := rfl
@[simp] theorem Hw.setAt_queues (idx sub obj v : Nat) : (h.setAt idx sub obj v).queues = h.queues := rfl
@[simp] theorem Hw.setAt_seqs (idx sub obj v : Nat) : (h.setAt idx sub obj v).seqs = h.seqs := rfl
@[simp] theorem Hw.setAt_gens (idx sub obj v : Nat) : (h.setAt idx sub obj v).gens = h.gens := rfl
@[simp] theorem Hw.setAt_arrival (idx sub obj v : Nat) : (h.setAt idx sub obj v).arrival = h.arrival := rfl
@[simp] theorem Hw.setAt_slotsFront (idx sub obj v : Nat) : (h.setAt idx sub obj v).slotsFront = h.slotsFront := rfl
@[simp] theorem Hw.setAt_slotsFresh (idx sub obj v : Nat) : (h.setAt idx sub obj v).slotsFresh = h.slotsFresh := rfl
@[simp] theorem Hw.setAt_slotsFreed (idx sub obj v : Nat) : (h.setAt idx sub obj v).slotsFreed = h.slotsFreed := rfl
@[simp] theorem Hw.setAt_windows (idx sub obj v : Nat) : (h.setAt idx sub obj v).windows = h.windows := rfl
@[simp] theorem Hw.setAt_facets (idx sub obj v : Nat) : (h.setAt idx sub obj v).facets = h.facets := rfl
@[simp] theorem Hw.setAt_parts (idx sub obj v : Nat) : (h.setAt idx sub obj v).parts = h.parts := rfl
@[simp] theorem Hw.setAt_descs (idx sub obj v : Nat) : (h.setAt idx sub obj v).descs = h.descs := rfl
@[simp] theorem Hw.setAt_descFresh (idx sub obj v : Nat) : (h.setAt idx sub obj v).descFresh = h.descFresh := rfl
@[simp] theorem Hw.setAt_descFreed (idx sub obj v : Nat) : (h.setAt idx sub obj v).descFreed = h.descFreed := rfl
@[simp] theorem Hw.setAt_lastPart (idx sub obj v : Nat) : (h.setAt idx sub obj v).lastPart = h.lastPart := rfl
@[simp] theorem Hw.setAt_funnel (idx sub obj v : Nat) : (h.setAt idx sub obj v).funnel = h.funnel := rfl
@[simp] theorem Hw.setAt_reports (idx sub obj v : Nat) : (h.setAt idx sub obj v).reports = h.reports := rfl
@[simp] theorem Hw.setAt_delays (idx sub obj v : Nat) : (h.setAt idx sub obj v).delays = h.delays := rfl
@[simp] theorem Hw.setAt_mem (idx sub obj v : Nat) : (h.setAt idx sub obj v).mem = h.mem := rfl
@[simp] theorem Hw.setAt_smp (idx sub obj v : Nat) : (h.setAt idx sub obj v).smp = h.smp := rfl
@[simp] theorem Hw.setAt_pages (idx sub obj v : Nat) : (h.setAt idx sub obj v).pages = h.pages := rfl
@[simp] theorem Hw.setAt_jobs (idx sub obj v : Nat) : (h.setAt idx sub obj v).jobs = h.jobs := rfl
@[simp] theorem Hw.setAt_switches (idx sub obj v : Nat) : (h.setAt idx sub obj v).switches = h.switches := rfl
@[simp] theorem Hw.setAt_images (idx sub obj v : Nat) : (h.setAt idx sub obj v).images = h.images := rfl
@[simp] theorem Hw.setAt_ctxRecords (idx sub obj v : Nat) : (h.setAt idx sub obj v).ctxRecords = h.ctxRecords := rfl
@[simp] theorem Hw.setAt_sems (idx sub obj v : Nat) : (h.setAt idx sub obj v).sems = h.sems := rfl
@[simp] theorem Hw.setAt_learners (idx sub obj v : Nat) : (h.setAt idx sub obj v).learners = h.learners := rfl
@[simp] theorem Hw.setAt_routers (idx sub obj v : Nat) : (h.setAt idx sub obj v).routers = h.routers := rfl
@[simp] theorem Hw.setAt_secUsed (idx sub obj v : Nat) : (h.setAt idx sub obj v).secUsed = h.secUsed := rfl
@[simp] theorem Hw.setAt_acct (idx sub obj v : Nat) : (h.setAt idx sub obj v).acct = h.acct := rfl
@[simp] theorem Hw.setAt_tasks (idx sub obj v : Nat) : (h.setAt idx sub obj v).tasks = h.tasks := rfl
@[simp] theorem Hw.setAt_pairs (idx sub obj v : Nat) : (h.setAt idx sub obj v).pairs = h.pairs := rfl
@[simp] theorem Hw.setAt_fed (idx sub obj v : Nat) : (h.setAt idx sub obj v).fed = h.fed := rfl
@[simp] theorem Hw.setAt_journal (idx sub obj v : Nat) : (h.setAt idx sub obj v).journal = h.journal := rfl
@[simp] theorem Hw.setAt_engineSeedUsed (idx sub obj v : Nat) : (h.setAt idx sub obj v).engineSeedUsed = h.engineSeedUsed := rfl
@[simp] theorem Hw.setAt_expRings (idx sub obj v : Nat) : (h.setAt idx sub obj v).expRings = h.expRings := rfl
@[simp] theorem Hw.setAt_faults (idx sub obj v : Nat) : (h.setAt idx sub obj v).faults = h.faults := rfl
@[simp] theorem Hw.setAt_out (idx sub obj v : Nat) : (h.setAt idx sub obj v).out = h.out := rfl

/-! `Hw.set` -/

@[simp] theorem Hw.set_cc (idx sub v : Nat) : (h.set idx sub v).cc = h.cc := rfl
@[simp] theorem Hw.set_clk (idx sub v : Nat) : (h.set idx sub v).clk = h.clk := rfl
@[simp] theorem Hw.set_eng (idx sub v : Nat) : (h.set idx sub v).eng = h.eng := rfl
@[simp] theorem Hw.set_pins (idx sub v : Nat) : (h.set idx sub v).pins = h.pins := rfl
@[simp] theorem Hw.set_dom (idx sub v : Nat) : (h.set idx sub v).dom = h.dom := rfl
@[simp] theorem Hw.set_ccNext (idx sub v : Nat) : (h.set idx sub v).ccNext = h.ccNext := rfl
@[simp] theorem Hw.set_ccOnce (idx sub v : Nat) : (h.set idx sub v).ccOnce = h.ccOnce := rfl
@[simp] theorem Hw.set_ccSnap (idx sub v : Nat) : (h.set idx sub v).ccSnap = h.ccSnap := rfl
@[simp] theorem Hw.set_imageLive (idx sub v : Nat) : (h.set idx sub v).imageLive = h.imageLive := rfl
@[simp] theorem Hw.set_adm (idx sub v : Nat) : (h.set idx sub v).adm = h.adm := rfl
@[simp] theorem Hw.set_budgetNs (idx sub v : Nat) : (h.set idx sub v).budgetNs = h.budgetNs := rfl
@[simp] theorem Hw.set_descDone (idx sub v : Nat) : (h.set idx sub v).descDone = h.descDone := rfl
@[simp] theorem Hw.set_expReadNs (idx sub v : Nat) : (h.set idx sub v).expReadNs = h.expReadNs := rfl
@[simp] theorem Hw.set_hostReads (idx sub v : Nat) : (h.set idx sub v).hostReads = h.hostReads := rfl
@[simp] theorem Hw.set_snaps (idx sub v : Nat) : (h.set idx sub v).snaps = h.snaps := rfl
@[simp] theorem Hw.set_staged (idx sub v : Nat) : (h.set idx sub v).staged = h.staged := rfl
@[simp] theorem Hw.set_side (idx sub v : Nat) : (h.set idx sub v).side = h.side := rfl
@[simp] theorem Hw.set_irq (idx sub v : Nat) : (h.set idx sub v).irq = h.irq := rfl
@[simp] theorem Hw.set_events (idx sub v : Nat) : (h.set idx sub v).events = h.events := rfl
@[simp] theorem Hw.set_trace (idx sub v : Nat) : (h.set idx sub v).trace = h.trace := rfl
@[simp] theorem Hw.set_rings (idx sub v : Nat) : (h.set idx sub v).rings = h.rings := rfl
@[simp] theorem Hw.set_turn (idx sub v : Nat) : (h.set idx sub v).turn = h.turn := rfl
@[simp] theorem Hw.set_queues (idx sub v : Nat) : (h.set idx sub v).queues = h.queues := rfl
@[simp] theorem Hw.set_seqs (idx sub v : Nat) : (h.set idx sub v).seqs = h.seqs := rfl
@[simp] theorem Hw.set_gens (idx sub v : Nat) : (h.set idx sub v).gens = h.gens := rfl
@[simp] theorem Hw.set_arrival (idx sub v : Nat) : (h.set idx sub v).arrival = h.arrival := rfl
@[simp] theorem Hw.set_slotsFront (idx sub v : Nat) : (h.set idx sub v).slotsFront = h.slotsFront := rfl
@[simp] theorem Hw.set_slotsFresh (idx sub v : Nat) : (h.set idx sub v).slotsFresh = h.slotsFresh := rfl
@[simp] theorem Hw.set_slotsFreed (idx sub v : Nat) : (h.set idx sub v).slotsFreed = h.slotsFreed := rfl
@[simp] theorem Hw.set_windows (idx sub v : Nat) : (h.set idx sub v).windows = h.windows := rfl
@[simp] theorem Hw.set_facets (idx sub v : Nat) : (h.set idx sub v).facets = h.facets := rfl
@[simp] theorem Hw.set_parts (idx sub v : Nat) : (h.set idx sub v).parts = h.parts := rfl
@[simp] theorem Hw.set_descs (idx sub v : Nat) : (h.set idx sub v).descs = h.descs := rfl
@[simp] theorem Hw.set_descFresh (idx sub v : Nat) : (h.set idx sub v).descFresh = h.descFresh := rfl
@[simp] theorem Hw.set_descFreed (idx sub v : Nat) : (h.set idx sub v).descFreed = h.descFreed := rfl
@[simp] theorem Hw.set_lastPart (idx sub v : Nat) : (h.set idx sub v).lastPart = h.lastPart := rfl
@[simp] theorem Hw.set_funnel (idx sub v : Nat) : (h.set idx sub v).funnel = h.funnel := rfl
@[simp] theorem Hw.set_reports (idx sub v : Nat) : (h.set idx sub v).reports = h.reports := rfl
@[simp] theorem Hw.set_delays (idx sub v : Nat) : (h.set idx sub v).delays = h.delays := rfl
@[simp] theorem Hw.set_mem (idx sub v : Nat) : (h.set idx sub v).mem = h.mem := rfl
@[simp] theorem Hw.set_smp (idx sub v : Nat) : (h.set idx sub v).smp = h.smp := rfl
@[simp] theorem Hw.set_pages (idx sub v : Nat) : (h.set idx sub v).pages = h.pages := rfl
@[simp] theorem Hw.set_jobs (idx sub v : Nat) : (h.set idx sub v).jobs = h.jobs := rfl
@[simp] theorem Hw.set_switches (idx sub v : Nat) : (h.set idx sub v).switches = h.switches := rfl
@[simp] theorem Hw.set_images (idx sub v : Nat) : (h.set idx sub v).images = h.images := rfl
@[simp] theorem Hw.set_ctxRecords (idx sub v : Nat) : (h.set idx sub v).ctxRecords = h.ctxRecords := rfl
@[simp] theorem Hw.set_sems (idx sub v : Nat) : (h.set idx sub v).sems = h.sems := rfl
@[simp] theorem Hw.set_learners (idx sub v : Nat) : (h.set idx sub v).learners = h.learners := rfl
@[simp] theorem Hw.set_routers (idx sub v : Nat) : (h.set idx sub v).routers = h.routers := rfl
@[simp] theorem Hw.set_secUsed (idx sub v : Nat) : (h.set idx sub v).secUsed = h.secUsed := rfl
@[simp] theorem Hw.set_acct (idx sub v : Nat) : (h.set idx sub v).acct = h.acct := rfl
@[simp] theorem Hw.set_tasks (idx sub v : Nat) : (h.set idx sub v).tasks = h.tasks := rfl
@[simp] theorem Hw.set_pairs (idx sub v : Nat) : (h.set idx sub v).pairs = h.pairs := rfl
@[simp] theorem Hw.set_fed (idx sub v : Nat) : (h.set idx sub v).fed = h.fed := rfl
@[simp] theorem Hw.set_journal (idx sub v : Nat) : (h.set idx sub v).journal = h.journal := rfl
@[simp] theorem Hw.set_engineSeedUsed (idx sub v : Nat) : (h.set idx sub v).engineSeedUsed = h.engineSeedUsed := rfl
@[simp] theorem Hw.set_expRings (idx sub v : Nat) : (h.set idx sub v).expRings = h.expRings := rfl
@[simp] theorem Hw.set_faults (idx sub v : Nat) : (h.set idx sub v).faults = h.faults := rfl
@[simp] theorem Hw.set_out (idx sub v : Nat) : (h.set idx sub v).out = h.out := rfl

/-! `Hw.bumpAt` -/

@[simp] theorem Hw.bumpAt_cc (idx sub obj n : Nat) : (h.bumpAt idx sub obj n).cc = h.cc := rfl
@[simp] theorem Hw.bumpAt_clk (idx sub obj n : Nat) : (h.bumpAt idx sub obj n).clk = h.clk := rfl
@[simp] theorem Hw.bumpAt_eng (idx sub obj n : Nat) : (h.bumpAt idx sub obj n).eng = h.eng := rfl
@[simp] theorem Hw.bumpAt_pins (idx sub obj n : Nat) : (h.bumpAt idx sub obj n).pins = h.pins := rfl
@[simp] theorem Hw.bumpAt_dom (idx sub obj n : Nat) : (h.bumpAt idx sub obj n).dom = h.dom := rfl
@[simp] theorem Hw.bumpAt_ccNext (idx sub obj n : Nat) : (h.bumpAt idx sub obj n).ccNext = h.ccNext := rfl
@[simp] theorem Hw.bumpAt_ccOnce (idx sub obj n : Nat) : (h.bumpAt idx sub obj n).ccOnce = h.ccOnce := rfl
@[simp] theorem Hw.bumpAt_ccSnap (idx sub obj n : Nat) : (h.bumpAt idx sub obj n).ccSnap = h.ccSnap := rfl
@[simp] theorem Hw.bumpAt_imageLive (idx sub obj n : Nat) : (h.bumpAt idx sub obj n).imageLive = h.imageLive := rfl
@[simp] theorem Hw.bumpAt_adm (idx sub obj n : Nat) : (h.bumpAt idx sub obj n).adm = h.adm := rfl
@[simp] theorem Hw.bumpAt_budgetNs (idx sub obj n : Nat) : (h.bumpAt idx sub obj n).budgetNs = h.budgetNs := rfl
@[simp] theorem Hw.bumpAt_descDone (idx sub obj n : Nat) : (h.bumpAt idx sub obj n).descDone = h.descDone := rfl
@[simp] theorem Hw.bumpAt_expReadNs (idx sub obj n : Nat) : (h.bumpAt idx sub obj n).expReadNs = h.expReadNs := rfl
@[simp] theorem Hw.bumpAt_hostReads (idx sub obj n : Nat) : (h.bumpAt idx sub obj n).hostReads = h.hostReads := rfl
@[simp] theorem Hw.bumpAt_snaps (idx sub obj n : Nat) : (h.bumpAt idx sub obj n).snaps = h.snaps := rfl
@[simp] theorem Hw.bumpAt_staged (idx sub obj n : Nat) : (h.bumpAt idx sub obj n).staged = h.staged := rfl
@[simp] theorem Hw.bumpAt_side (idx sub obj n : Nat) : (h.bumpAt idx sub obj n).side = h.side := rfl
@[simp] theorem Hw.bumpAt_irq (idx sub obj n : Nat) : (h.bumpAt idx sub obj n).irq = h.irq := rfl
@[simp] theorem Hw.bumpAt_events (idx sub obj n : Nat) : (h.bumpAt idx sub obj n).events = h.events := rfl
@[simp] theorem Hw.bumpAt_trace (idx sub obj n : Nat) : (h.bumpAt idx sub obj n).trace = h.trace := rfl
@[simp] theorem Hw.bumpAt_rings (idx sub obj n : Nat) : (h.bumpAt idx sub obj n).rings = h.rings := rfl
@[simp] theorem Hw.bumpAt_turn (idx sub obj n : Nat) : (h.bumpAt idx sub obj n).turn = h.turn := rfl
@[simp] theorem Hw.bumpAt_queues (idx sub obj n : Nat) : (h.bumpAt idx sub obj n).queues = h.queues := rfl
@[simp] theorem Hw.bumpAt_seqs (idx sub obj n : Nat) : (h.bumpAt idx sub obj n).seqs = h.seqs := rfl
@[simp] theorem Hw.bumpAt_gens (idx sub obj n : Nat) : (h.bumpAt idx sub obj n).gens = h.gens := rfl
@[simp] theorem Hw.bumpAt_arrival (idx sub obj n : Nat) : (h.bumpAt idx sub obj n).arrival = h.arrival := rfl
@[simp] theorem Hw.bumpAt_slotsFront (idx sub obj n : Nat) : (h.bumpAt idx sub obj n).slotsFront = h.slotsFront := rfl
@[simp] theorem Hw.bumpAt_slotsFresh (idx sub obj n : Nat) : (h.bumpAt idx sub obj n).slotsFresh = h.slotsFresh := rfl
@[simp] theorem Hw.bumpAt_slotsFreed (idx sub obj n : Nat) : (h.bumpAt idx sub obj n).slotsFreed = h.slotsFreed := rfl
@[simp] theorem Hw.bumpAt_windows (idx sub obj n : Nat) : (h.bumpAt idx sub obj n).windows = h.windows := rfl
@[simp] theorem Hw.bumpAt_facets (idx sub obj n : Nat) : (h.bumpAt idx sub obj n).facets = h.facets := rfl
@[simp] theorem Hw.bumpAt_parts (idx sub obj n : Nat) : (h.bumpAt idx sub obj n).parts = h.parts := rfl
@[simp] theorem Hw.bumpAt_descs (idx sub obj n : Nat) : (h.bumpAt idx sub obj n).descs = h.descs := rfl
@[simp] theorem Hw.bumpAt_descFresh (idx sub obj n : Nat) : (h.bumpAt idx sub obj n).descFresh = h.descFresh := rfl
@[simp] theorem Hw.bumpAt_descFreed (idx sub obj n : Nat) : (h.bumpAt idx sub obj n).descFreed = h.descFreed := rfl
@[simp] theorem Hw.bumpAt_lastPart (idx sub obj n : Nat) : (h.bumpAt idx sub obj n).lastPart = h.lastPart := rfl
@[simp] theorem Hw.bumpAt_funnel (idx sub obj n : Nat) : (h.bumpAt idx sub obj n).funnel = h.funnel := rfl
@[simp] theorem Hw.bumpAt_reports (idx sub obj n : Nat) : (h.bumpAt idx sub obj n).reports = h.reports := rfl
@[simp] theorem Hw.bumpAt_delays (idx sub obj n : Nat) : (h.bumpAt idx sub obj n).delays = h.delays := rfl
@[simp] theorem Hw.bumpAt_mem (idx sub obj n : Nat) : (h.bumpAt idx sub obj n).mem = h.mem := rfl
@[simp] theorem Hw.bumpAt_smp (idx sub obj n : Nat) : (h.bumpAt idx sub obj n).smp = h.smp := rfl
@[simp] theorem Hw.bumpAt_pages (idx sub obj n : Nat) : (h.bumpAt idx sub obj n).pages = h.pages := rfl
@[simp] theorem Hw.bumpAt_jobs (idx sub obj n : Nat) : (h.bumpAt idx sub obj n).jobs = h.jobs := rfl
@[simp] theorem Hw.bumpAt_switches (idx sub obj n : Nat) : (h.bumpAt idx sub obj n).switches = h.switches := rfl
@[simp] theorem Hw.bumpAt_images (idx sub obj n : Nat) : (h.bumpAt idx sub obj n).images = h.images := rfl
@[simp] theorem Hw.bumpAt_ctxRecords (idx sub obj n : Nat) : (h.bumpAt idx sub obj n).ctxRecords = h.ctxRecords := rfl
@[simp] theorem Hw.bumpAt_sems (idx sub obj n : Nat) : (h.bumpAt idx sub obj n).sems = h.sems := rfl
@[simp] theorem Hw.bumpAt_learners (idx sub obj n : Nat) : (h.bumpAt idx sub obj n).learners = h.learners := rfl
@[simp] theorem Hw.bumpAt_routers (idx sub obj n : Nat) : (h.bumpAt idx sub obj n).routers = h.routers := rfl
@[simp] theorem Hw.bumpAt_secUsed (idx sub obj n : Nat) : (h.bumpAt idx sub obj n).secUsed = h.secUsed := rfl
@[simp] theorem Hw.bumpAt_acct (idx sub obj n : Nat) : (h.bumpAt idx sub obj n).acct = h.acct := rfl
@[simp] theorem Hw.bumpAt_tasks (idx sub obj n : Nat) : (h.bumpAt idx sub obj n).tasks = h.tasks := rfl
@[simp] theorem Hw.bumpAt_pairs (idx sub obj n : Nat) : (h.bumpAt idx sub obj n).pairs = h.pairs := rfl
@[simp] theorem Hw.bumpAt_fed (idx sub obj n : Nat) : (h.bumpAt idx sub obj n).fed = h.fed := rfl
@[simp] theorem Hw.bumpAt_journal (idx sub obj n : Nat) : (h.bumpAt idx sub obj n).journal = h.journal := rfl
@[simp] theorem Hw.bumpAt_engineSeedUsed (idx sub obj n : Nat) : (h.bumpAt idx sub obj n).engineSeedUsed = h.engineSeedUsed := rfl
@[simp] theorem Hw.bumpAt_expRings (idx sub obj n : Nat) : (h.bumpAt idx sub obj n).expRings = h.expRings := rfl
@[simp] theorem Hw.bumpAt_faults (idx sub obj n : Nat) : (h.bumpAt idx sub obj n).faults = h.faults := rfl
@[simp] theorem Hw.bumpAt_out (idx sub obj n : Nat) : (h.bumpAt idx sub obj n).out = h.out := rfl

/-! `Hw.bump` -/

@[simp] theorem Hw.bump_cc (idx sub n : Nat) : (h.bump idx sub n).cc = h.cc := rfl
@[simp] theorem Hw.bump_clk (idx sub n : Nat) : (h.bump idx sub n).clk = h.clk := rfl
@[simp] theorem Hw.bump_eng (idx sub n : Nat) : (h.bump idx sub n).eng = h.eng := rfl
@[simp] theorem Hw.bump_pins (idx sub n : Nat) : (h.bump idx sub n).pins = h.pins := rfl
@[simp] theorem Hw.bump_dom (idx sub n : Nat) : (h.bump idx sub n).dom = h.dom := rfl
@[simp] theorem Hw.bump_ccNext (idx sub n : Nat) : (h.bump idx sub n).ccNext = h.ccNext := rfl
@[simp] theorem Hw.bump_ccOnce (idx sub n : Nat) : (h.bump idx sub n).ccOnce = h.ccOnce := rfl
@[simp] theorem Hw.bump_ccSnap (idx sub n : Nat) : (h.bump idx sub n).ccSnap = h.ccSnap := rfl
@[simp] theorem Hw.bump_imageLive (idx sub n : Nat) : (h.bump idx sub n).imageLive = h.imageLive := rfl
@[simp] theorem Hw.bump_adm (idx sub n : Nat) : (h.bump idx sub n).adm = h.adm := rfl
@[simp] theorem Hw.bump_budgetNs (idx sub n : Nat) : (h.bump idx sub n).budgetNs = h.budgetNs := rfl
@[simp] theorem Hw.bump_descDone (idx sub n : Nat) : (h.bump idx sub n).descDone = h.descDone := rfl
@[simp] theorem Hw.bump_expReadNs (idx sub n : Nat) : (h.bump idx sub n).expReadNs = h.expReadNs := rfl
@[simp] theorem Hw.bump_hostReads (idx sub n : Nat) : (h.bump idx sub n).hostReads = h.hostReads := rfl
@[simp] theorem Hw.bump_snaps (idx sub n : Nat) : (h.bump idx sub n).snaps = h.snaps := rfl
@[simp] theorem Hw.bump_staged (idx sub n : Nat) : (h.bump idx sub n).staged = h.staged := rfl
@[simp] theorem Hw.bump_side (idx sub n : Nat) : (h.bump idx sub n).side = h.side := rfl
@[simp] theorem Hw.bump_irq (idx sub n : Nat) : (h.bump idx sub n).irq = h.irq := rfl
@[simp] theorem Hw.bump_events (idx sub n : Nat) : (h.bump idx sub n).events = h.events := rfl
@[simp] theorem Hw.bump_trace (idx sub n : Nat) : (h.bump idx sub n).trace = h.trace := rfl
@[simp] theorem Hw.bump_rings (idx sub n : Nat) : (h.bump idx sub n).rings = h.rings := rfl
@[simp] theorem Hw.bump_turn (idx sub n : Nat) : (h.bump idx sub n).turn = h.turn := rfl
@[simp] theorem Hw.bump_queues (idx sub n : Nat) : (h.bump idx sub n).queues = h.queues := rfl
@[simp] theorem Hw.bump_seqs (idx sub n : Nat) : (h.bump idx sub n).seqs = h.seqs := rfl
@[simp] theorem Hw.bump_gens (idx sub n : Nat) : (h.bump idx sub n).gens = h.gens := rfl
@[simp] theorem Hw.bump_arrival (idx sub n : Nat) : (h.bump idx sub n).arrival = h.arrival := rfl
@[simp] theorem Hw.bump_slotsFront (idx sub n : Nat) : (h.bump idx sub n).slotsFront = h.slotsFront := rfl
@[simp] theorem Hw.bump_slotsFresh (idx sub n : Nat) : (h.bump idx sub n).slotsFresh = h.slotsFresh := rfl
@[simp] theorem Hw.bump_slotsFreed (idx sub n : Nat) : (h.bump idx sub n).slotsFreed = h.slotsFreed := rfl
@[simp] theorem Hw.bump_windows (idx sub n : Nat) : (h.bump idx sub n).windows = h.windows := rfl
@[simp] theorem Hw.bump_facets (idx sub n : Nat) : (h.bump idx sub n).facets = h.facets := rfl
@[simp] theorem Hw.bump_parts (idx sub n : Nat) : (h.bump idx sub n).parts = h.parts := rfl
@[simp] theorem Hw.bump_descs (idx sub n : Nat) : (h.bump idx sub n).descs = h.descs := rfl
@[simp] theorem Hw.bump_descFresh (idx sub n : Nat) : (h.bump idx sub n).descFresh = h.descFresh := rfl
@[simp] theorem Hw.bump_descFreed (idx sub n : Nat) : (h.bump idx sub n).descFreed = h.descFreed := rfl
@[simp] theorem Hw.bump_lastPart (idx sub n : Nat) : (h.bump idx sub n).lastPart = h.lastPart := rfl
@[simp] theorem Hw.bump_funnel (idx sub n : Nat) : (h.bump idx sub n).funnel = h.funnel := rfl
@[simp] theorem Hw.bump_reports (idx sub n : Nat) : (h.bump idx sub n).reports = h.reports := rfl
@[simp] theorem Hw.bump_delays (idx sub n : Nat) : (h.bump idx sub n).delays = h.delays := rfl
@[simp] theorem Hw.bump_mem (idx sub n : Nat) : (h.bump idx sub n).mem = h.mem := rfl
@[simp] theorem Hw.bump_smp (idx sub n : Nat) : (h.bump idx sub n).smp = h.smp := rfl
@[simp] theorem Hw.bump_pages (idx sub n : Nat) : (h.bump idx sub n).pages = h.pages := rfl
@[simp] theorem Hw.bump_jobs (idx sub n : Nat) : (h.bump idx sub n).jobs = h.jobs := rfl
@[simp] theorem Hw.bump_switches (idx sub n : Nat) : (h.bump idx sub n).switches = h.switches := rfl
@[simp] theorem Hw.bump_images (idx sub n : Nat) : (h.bump idx sub n).images = h.images := rfl
@[simp] theorem Hw.bump_ctxRecords (idx sub n : Nat) : (h.bump idx sub n).ctxRecords = h.ctxRecords := rfl
@[simp] theorem Hw.bump_sems (idx sub n : Nat) : (h.bump idx sub n).sems = h.sems := rfl
@[simp] theorem Hw.bump_learners (idx sub n : Nat) : (h.bump idx sub n).learners = h.learners := rfl
@[simp] theorem Hw.bump_routers (idx sub n : Nat) : (h.bump idx sub n).routers = h.routers := rfl
@[simp] theorem Hw.bump_secUsed (idx sub n : Nat) : (h.bump idx sub n).secUsed = h.secUsed := rfl
@[simp] theorem Hw.bump_acct (idx sub n : Nat) : (h.bump idx sub n).acct = h.acct := rfl
@[simp] theorem Hw.bump_tasks (idx sub n : Nat) : (h.bump idx sub n).tasks = h.tasks := rfl
@[simp] theorem Hw.bump_pairs (idx sub n : Nat) : (h.bump idx sub n).pairs = h.pairs := rfl
@[simp] theorem Hw.bump_fed (idx sub n : Nat) : (h.bump idx sub n).fed = h.fed := rfl
@[simp] theorem Hw.bump_journal (idx sub n : Nat) : (h.bump idx sub n).journal = h.journal := rfl
@[simp] theorem Hw.bump_engineSeedUsed (idx sub n : Nat) : (h.bump idx sub n).engineSeedUsed = h.engineSeedUsed := rfl
@[simp] theorem Hw.bump_expRings (idx sub n : Nat) : (h.bump idx sub n).expRings = h.expRings := rfl
@[simp] theorem Hw.bump_faults (idx sub n : Nat) : (h.bump idx sub n).faults = h.faults := rfl
@[simp] theorem Hw.bump_out (idx sub n : Nat) : (h.bump idx sub n).out = h.out := rfl

/-! `Hw.inc` -/

@[simp] theorem Hw.inc_cc (idx sub : Nat) : (h.inc idx sub).cc = h.cc := rfl
@[simp] theorem Hw.inc_clk (idx sub : Nat) : (h.inc idx sub).clk = h.clk := rfl
@[simp] theorem Hw.inc_eng (idx sub : Nat) : (h.inc idx sub).eng = h.eng := rfl
@[simp] theorem Hw.inc_pins (idx sub : Nat) : (h.inc idx sub).pins = h.pins := rfl
@[simp] theorem Hw.inc_dom (idx sub : Nat) : (h.inc idx sub).dom = h.dom := rfl
@[simp] theorem Hw.inc_ccNext (idx sub : Nat) : (h.inc idx sub).ccNext = h.ccNext := rfl
@[simp] theorem Hw.inc_ccOnce (idx sub : Nat) : (h.inc idx sub).ccOnce = h.ccOnce := rfl
@[simp] theorem Hw.inc_ccSnap (idx sub : Nat) : (h.inc idx sub).ccSnap = h.ccSnap := rfl
@[simp] theorem Hw.inc_imageLive (idx sub : Nat) : (h.inc idx sub).imageLive = h.imageLive := rfl
@[simp] theorem Hw.inc_adm (idx sub : Nat) : (h.inc idx sub).adm = h.adm := rfl
@[simp] theorem Hw.inc_budgetNs (idx sub : Nat) : (h.inc idx sub).budgetNs = h.budgetNs := rfl
@[simp] theorem Hw.inc_descDone (idx sub : Nat) : (h.inc idx sub).descDone = h.descDone := rfl
@[simp] theorem Hw.inc_expReadNs (idx sub : Nat) : (h.inc idx sub).expReadNs = h.expReadNs := rfl
@[simp] theorem Hw.inc_hostReads (idx sub : Nat) : (h.inc idx sub).hostReads = h.hostReads := rfl
@[simp] theorem Hw.inc_snaps (idx sub : Nat) : (h.inc idx sub).snaps = h.snaps := rfl
@[simp] theorem Hw.inc_staged (idx sub : Nat) : (h.inc idx sub).staged = h.staged := rfl
@[simp] theorem Hw.inc_side (idx sub : Nat) : (h.inc idx sub).side = h.side := rfl
@[simp] theorem Hw.inc_irq (idx sub : Nat) : (h.inc idx sub).irq = h.irq := rfl
@[simp] theorem Hw.inc_events (idx sub : Nat) : (h.inc idx sub).events = h.events := rfl
@[simp] theorem Hw.inc_trace (idx sub : Nat) : (h.inc idx sub).trace = h.trace := rfl
@[simp] theorem Hw.inc_rings (idx sub : Nat) : (h.inc idx sub).rings = h.rings := rfl
@[simp] theorem Hw.inc_turn (idx sub : Nat) : (h.inc idx sub).turn = h.turn := rfl
@[simp] theorem Hw.inc_queues (idx sub : Nat) : (h.inc idx sub).queues = h.queues := rfl
@[simp] theorem Hw.inc_seqs (idx sub : Nat) : (h.inc idx sub).seqs = h.seqs := rfl
@[simp] theorem Hw.inc_gens (idx sub : Nat) : (h.inc idx sub).gens = h.gens := rfl
@[simp] theorem Hw.inc_arrival (idx sub : Nat) : (h.inc idx sub).arrival = h.arrival := rfl
@[simp] theorem Hw.inc_slotsFront (idx sub : Nat) : (h.inc idx sub).slotsFront = h.slotsFront := rfl
@[simp] theorem Hw.inc_slotsFresh (idx sub : Nat) : (h.inc idx sub).slotsFresh = h.slotsFresh := rfl
@[simp] theorem Hw.inc_slotsFreed (idx sub : Nat) : (h.inc idx sub).slotsFreed = h.slotsFreed := rfl
@[simp] theorem Hw.inc_windows (idx sub : Nat) : (h.inc idx sub).windows = h.windows := rfl
@[simp] theorem Hw.inc_facets (idx sub : Nat) : (h.inc idx sub).facets = h.facets := rfl
@[simp] theorem Hw.inc_parts (idx sub : Nat) : (h.inc idx sub).parts = h.parts := rfl
@[simp] theorem Hw.inc_descs (idx sub : Nat) : (h.inc idx sub).descs = h.descs := rfl
@[simp] theorem Hw.inc_descFresh (idx sub : Nat) : (h.inc idx sub).descFresh = h.descFresh := rfl
@[simp] theorem Hw.inc_descFreed (idx sub : Nat) : (h.inc idx sub).descFreed = h.descFreed := rfl
@[simp] theorem Hw.inc_lastPart (idx sub : Nat) : (h.inc idx sub).lastPart = h.lastPart := rfl
@[simp] theorem Hw.inc_funnel (idx sub : Nat) : (h.inc idx sub).funnel = h.funnel := rfl
@[simp] theorem Hw.inc_reports (idx sub : Nat) : (h.inc idx sub).reports = h.reports := rfl
@[simp] theorem Hw.inc_delays (idx sub : Nat) : (h.inc idx sub).delays = h.delays := rfl
@[simp] theorem Hw.inc_mem (idx sub : Nat) : (h.inc idx sub).mem = h.mem := rfl
@[simp] theorem Hw.inc_smp (idx sub : Nat) : (h.inc idx sub).smp = h.smp := rfl
@[simp] theorem Hw.inc_pages (idx sub : Nat) : (h.inc idx sub).pages = h.pages := rfl
@[simp] theorem Hw.inc_jobs (idx sub : Nat) : (h.inc idx sub).jobs = h.jobs := rfl
@[simp] theorem Hw.inc_switches (idx sub : Nat) : (h.inc idx sub).switches = h.switches := rfl
@[simp] theorem Hw.inc_images (idx sub : Nat) : (h.inc idx sub).images = h.images := rfl
@[simp] theorem Hw.inc_ctxRecords (idx sub : Nat) : (h.inc idx sub).ctxRecords = h.ctxRecords := rfl
@[simp] theorem Hw.inc_sems (idx sub : Nat) : (h.inc idx sub).sems = h.sems := rfl
@[simp] theorem Hw.inc_learners (idx sub : Nat) : (h.inc idx sub).learners = h.learners := rfl
@[simp] theorem Hw.inc_routers (idx sub : Nat) : (h.inc idx sub).routers = h.routers := rfl
@[simp] theorem Hw.inc_secUsed (idx sub : Nat) : (h.inc idx sub).secUsed = h.secUsed := rfl
@[simp] theorem Hw.inc_acct (idx sub : Nat) : (h.inc idx sub).acct = h.acct := rfl
@[simp] theorem Hw.inc_tasks (idx sub : Nat) : (h.inc idx sub).tasks = h.tasks := rfl
@[simp] theorem Hw.inc_pairs (idx sub : Nat) : (h.inc idx sub).pairs = h.pairs := rfl
@[simp] theorem Hw.inc_fed (idx sub : Nat) : (h.inc idx sub).fed = h.fed := rfl
@[simp] theorem Hw.inc_journal (idx sub : Nat) : (h.inc idx sub).journal = h.journal := rfl
@[simp] theorem Hw.inc_engineSeedUsed (idx sub : Nat) : (h.inc idx sub).engineSeedUsed = h.engineSeedUsed := rfl
@[simp] theorem Hw.inc_expRings (idx sub : Nat) : (h.inc idx sub).expRings = h.expRings := rfl
@[simp] theorem Hw.inc_faults (idx sub : Nat) : (h.inc idx sub).faults = h.faults := rfl
@[simp] theorem Hw.inc_out (idx sub : Nat) : (h.inc idx sub).out = h.out := rfl

/-! `Hw.setFacet` -/

@[simp] theorem Hw.setFacet_cc (f : Nat) (x : Facet) : (h.setFacet f x).cc = h.cc := rfl
@[simp] theorem Hw.setFacet_clk (f : Nat) (x : Facet) : (h.setFacet f x).clk = h.clk := rfl
@[simp] theorem Hw.setFacet_eng (f : Nat) (x : Facet) : (h.setFacet f x).eng = h.eng := rfl
@[simp] theorem Hw.setFacet_pins (f : Nat) (x : Facet) : (h.setFacet f x).pins = h.pins := rfl
@[simp] theorem Hw.setFacet_od (f : Nat) (x : Facet) : (h.setFacet f x).od = h.od := rfl
@[simp] theorem Hw.setFacet_dom (f : Nat) (x : Facet) : (h.setFacet f x).dom = h.dom := rfl
@[simp] theorem Hw.setFacet_ccNext (f : Nat) (x : Facet) : (h.setFacet f x).ccNext = h.ccNext := rfl
@[simp] theorem Hw.setFacet_ccOnce (f : Nat) (x : Facet) : (h.setFacet f x).ccOnce = h.ccOnce := rfl
@[simp] theorem Hw.setFacet_ccSnap (f : Nat) (x : Facet) : (h.setFacet f x).ccSnap = h.ccSnap := rfl
@[simp] theorem Hw.setFacet_imageLive (f : Nat) (x : Facet) : (h.setFacet f x).imageLive = h.imageLive := rfl
@[simp] theorem Hw.setFacet_adm (f : Nat) (x : Facet) : (h.setFacet f x).adm = h.adm := rfl
@[simp] theorem Hw.setFacet_budgetNs (f : Nat) (x : Facet) : (h.setFacet f x).budgetNs = h.budgetNs := rfl
@[simp] theorem Hw.setFacet_descDone (f : Nat) (x : Facet) : (h.setFacet f x).descDone = h.descDone := rfl
@[simp] theorem Hw.setFacet_expReadNs (f : Nat) (x : Facet) : (h.setFacet f x).expReadNs = h.expReadNs := rfl
@[simp] theorem Hw.setFacet_hostReads (f : Nat) (x : Facet) : (h.setFacet f x).hostReads = h.hostReads := rfl
@[simp] theorem Hw.setFacet_snaps (f : Nat) (x : Facet) : (h.setFacet f x).snaps = h.snaps := rfl
@[simp] theorem Hw.setFacet_staged (f : Nat) (x : Facet) : (h.setFacet f x).staged = h.staged := rfl
@[simp] theorem Hw.setFacet_side (f : Nat) (x : Facet) : (h.setFacet f x).side = h.side := rfl
@[simp] theorem Hw.setFacet_irq (f : Nat) (x : Facet) : (h.setFacet f x).irq = h.irq := rfl
@[simp] theorem Hw.setFacet_events (f : Nat) (x : Facet) : (h.setFacet f x).events = h.events := rfl
@[simp] theorem Hw.setFacet_trace (f : Nat) (x : Facet) : (h.setFacet f x).trace = h.trace := rfl
@[simp] theorem Hw.setFacet_rings (f : Nat) (x : Facet) : (h.setFacet f x).rings = h.rings := rfl
@[simp] theorem Hw.setFacet_turn (f : Nat) (x : Facet) : (h.setFacet f x).turn = h.turn := rfl
@[simp] theorem Hw.setFacet_queues (f : Nat) (x : Facet) : (h.setFacet f x).queues = h.queues := rfl
@[simp] theorem Hw.setFacet_seqs (f : Nat) (x : Facet) : (h.setFacet f x).seqs = h.seqs := rfl
@[simp] theorem Hw.setFacet_gens (f : Nat) (x : Facet) : (h.setFacet f x).gens = h.gens := rfl
@[simp] theorem Hw.setFacet_arrival (f : Nat) (x : Facet) : (h.setFacet f x).arrival = h.arrival := rfl
@[simp] theorem Hw.setFacet_slotsFront (f : Nat) (x : Facet) : (h.setFacet f x).slotsFront = h.slotsFront := rfl
@[simp] theorem Hw.setFacet_slotsFresh (f : Nat) (x : Facet) : (h.setFacet f x).slotsFresh = h.slotsFresh := rfl
@[simp] theorem Hw.setFacet_slotsFreed (f : Nat) (x : Facet) : (h.setFacet f x).slotsFreed = h.slotsFreed := rfl
@[simp] theorem Hw.setFacet_windows (f : Nat) (x : Facet) : (h.setFacet f x).windows = h.windows := rfl
@[simp] theorem Hw.setFacet_parts (f : Nat) (x : Facet) : (h.setFacet f x).parts = h.parts := rfl
@[simp] theorem Hw.setFacet_descs (f : Nat) (x : Facet) : (h.setFacet f x).descs = h.descs := rfl
@[simp] theorem Hw.setFacet_descFresh (f : Nat) (x : Facet) : (h.setFacet f x).descFresh = h.descFresh := rfl
@[simp] theorem Hw.setFacet_descFreed (f : Nat) (x : Facet) : (h.setFacet f x).descFreed = h.descFreed := rfl
@[simp] theorem Hw.setFacet_lastPart (f : Nat) (x : Facet) : (h.setFacet f x).lastPart = h.lastPart := rfl
@[simp] theorem Hw.setFacet_funnel (f : Nat) (x : Facet) : (h.setFacet f x).funnel = h.funnel := rfl
@[simp] theorem Hw.setFacet_reports (f : Nat) (x : Facet) : (h.setFacet f x).reports = h.reports := rfl
@[simp] theorem Hw.setFacet_delays (f : Nat) (x : Facet) : (h.setFacet f x).delays = h.delays := rfl
@[simp] theorem Hw.setFacet_mem (f : Nat) (x : Facet) : (h.setFacet f x).mem = h.mem := rfl
@[simp] theorem Hw.setFacet_smp (f : Nat) (x : Facet) : (h.setFacet f x).smp = h.smp := rfl
@[simp] theorem Hw.setFacet_pages (f : Nat) (x : Facet) : (h.setFacet f x).pages = h.pages := rfl
@[simp] theorem Hw.setFacet_jobs (f : Nat) (x : Facet) : (h.setFacet f x).jobs = h.jobs := rfl
@[simp] theorem Hw.setFacet_switches (f : Nat) (x : Facet) : (h.setFacet f x).switches = h.switches := rfl
@[simp] theorem Hw.setFacet_images (f : Nat) (x : Facet) : (h.setFacet f x).images = h.images := rfl
@[simp] theorem Hw.setFacet_ctxRecords (f : Nat) (x : Facet) : (h.setFacet f x).ctxRecords = h.ctxRecords := rfl
@[simp] theorem Hw.setFacet_sems (f : Nat) (x : Facet) : (h.setFacet f x).sems = h.sems := rfl
@[simp] theorem Hw.setFacet_learners (f : Nat) (x : Facet) : (h.setFacet f x).learners = h.learners := rfl
@[simp] theorem Hw.setFacet_routers (f : Nat) (x : Facet) : (h.setFacet f x).routers = h.routers := rfl
@[simp] theorem Hw.setFacet_secUsed (f : Nat) (x : Facet) : (h.setFacet f x).secUsed = h.secUsed := rfl
@[simp] theorem Hw.setFacet_acct (f : Nat) (x : Facet) : (h.setFacet f x).acct = h.acct := rfl
@[simp] theorem Hw.setFacet_tasks (f : Nat) (x : Facet) : (h.setFacet f x).tasks = h.tasks := rfl
@[simp] theorem Hw.setFacet_pairs (f : Nat) (x : Facet) : (h.setFacet f x).pairs = h.pairs := rfl
@[simp] theorem Hw.setFacet_fed (f : Nat) (x : Facet) : (h.setFacet f x).fed = h.fed := rfl
@[simp] theorem Hw.setFacet_journal (f : Nat) (x : Facet) : (h.setFacet f x).journal = h.journal := rfl
@[simp] theorem Hw.setFacet_engineSeedUsed (f : Nat) (x : Facet) : (h.setFacet f x).engineSeedUsed = h.engineSeedUsed := rfl
@[simp] theorem Hw.setFacet_expRings (f : Nat) (x : Facet) : (h.setFacet f x).expRings = h.expRings := rfl
@[simp] theorem Hw.setFacet_faults (f : Nat) (x : Facet) : (h.setFacet f x).faults = h.faults := rfl
@[simp] theorem Hw.setFacet_out (f : Nat) (x : Facet) : (h.setFacet f x).out = h.out := rfl

/-! `Hw.modFacet` -/

@[simp] theorem Hw.modFacet_cc (f : Nat) (g : Facet → Facet) : (h.modFacet f g).cc = h.cc := rfl
@[simp] theorem Hw.modFacet_clk (f : Nat) (g : Facet → Facet) : (h.modFacet f g).clk = h.clk := rfl
@[simp] theorem Hw.modFacet_eng (f : Nat) (g : Facet → Facet) : (h.modFacet f g).eng = h.eng := rfl
@[simp] theorem Hw.modFacet_pins (f : Nat) (g : Facet → Facet) : (h.modFacet f g).pins = h.pins := rfl
@[simp] theorem Hw.modFacet_od (f : Nat) (g : Facet → Facet) : (h.modFacet f g).od = h.od := rfl
@[simp] theorem Hw.modFacet_dom (f : Nat) (g : Facet → Facet) : (h.modFacet f g).dom = h.dom := rfl
@[simp] theorem Hw.modFacet_ccNext (f : Nat) (g : Facet → Facet) : (h.modFacet f g).ccNext = h.ccNext := rfl
@[simp] theorem Hw.modFacet_ccOnce (f : Nat) (g : Facet → Facet) : (h.modFacet f g).ccOnce = h.ccOnce := rfl
@[simp] theorem Hw.modFacet_ccSnap (f : Nat) (g : Facet → Facet) : (h.modFacet f g).ccSnap = h.ccSnap := rfl
@[simp] theorem Hw.modFacet_imageLive (f : Nat) (g : Facet → Facet) : (h.modFacet f g).imageLive = h.imageLive := rfl
@[simp] theorem Hw.modFacet_adm (f : Nat) (g : Facet → Facet) : (h.modFacet f g).adm = h.adm := rfl
@[simp] theorem Hw.modFacet_budgetNs (f : Nat) (g : Facet → Facet) : (h.modFacet f g).budgetNs = h.budgetNs := rfl
@[simp] theorem Hw.modFacet_descDone (f : Nat) (g : Facet → Facet) : (h.modFacet f g).descDone = h.descDone := rfl
@[simp] theorem Hw.modFacet_expReadNs (f : Nat) (g : Facet → Facet) : (h.modFacet f g).expReadNs = h.expReadNs := rfl
@[simp] theorem Hw.modFacet_hostReads (f : Nat) (g : Facet → Facet) : (h.modFacet f g).hostReads = h.hostReads := rfl
@[simp] theorem Hw.modFacet_snaps (f : Nat) (g : Facet → Facet) : (h.modFacet f g).snaps = h.snaps := rfl
@[simp] theorem Hw.modFacet_staged (f : Nat) (g : Facet → Facet) : (h.modFacet f g).staged = h.staged := rfl
@[simp] theorem Hw.modFacet_side (f : Nat) (g : Facet → Facet) : (h.modFacet f g).side = h.side := rfl
@[simp] theorem Hw.modFacet_irq (f : Nat) (g : Facet → Facet) : (h.modFacet f g).irq = h.irq := rfl
@[simp] theorem Hw.modFacet_events (f : Nat) (g : Facet → Facet) : (h.modFacet f g).events = h.events := rfl
@[simp] theorem Hw.modFacet_trace (f : Nat) (g : Facet → Facet) : (h.modFacet f g).trace = h.trace := rfl
@[simp] theorem Hw.modFacet_rings (f : Nat) (g : Facet → Facet) : (h.modFacet f g).rings = h.rings := rfl
@[simp] theorem Hw.modFacet_turn (f : Nat) (g : Facet → Facet) : (h.modFacet f g).turn = h.turn := rfl
@[simp] theorem Hw.modFacet_queues (f : Nat) (g : Facet → Facet) : (h.modFacet f g).queues = h.queues := rfl
@[simp] theorem Hw.modFacet_seqs (f : Nat) (g : Facet → Facet) : (h.modFacet f g).seqs = h.seqs := rfl
@[simp] theorem Hw.modFacet_gens (f : Nat) (g : Facet → Facet) : (h.modFacet f g).gens = h.gens := rfl
@[simp] theorem Hw.modFacet_arrival (f : Nat) (g : Facet → Facet) : (h.modFacet f g).arrival = h.arrival := rfl
@[simp] theorem Hw.modFacet_slotsFront (f : Nat) (g : Facet → Facet) : (h.modFacet f g).slotsFront = h.slotsFront := rfl
@[simp] theorem Hw.modFacet_slotsFresh (f : Nat) (g : Facet → Facet) : (h.modFacet f g).slotsFresh = h.slotsFresh := rfl
@[simp] theorem Hw.modFacet_slotsFreed (f : Nat) (g : Facet → Facet) : (h.modFacet f g).slotsFreed = h.slotsFreed := rfl
@[simp] theorem Hw.modFacet_windows (f : Nat) (g : Facet → Facet) : (h.modFacet f g).windows = h.windows := rfl
@[simp] theorem Hw.modFacet_parts (f : Nat) (g : Facet → Facet) : (h.modFacet f g).parts = h.parts := rfl
@[simp] theorem Hw.modFacet_descs (f : Nat) (g : Facet → Facet) : (h.modFacet f g).descs = h.descs := rfl
@[simp] theorem Hw.modFacet_descFresh (f : Nat) (g : Facet → Facet) : (h.modFacet f g).descFresh = h.descFresh := rfl
@[simp] theorem Hw.modFacet_descFreed (f : Nat) (g : Facet → Facet) : (h.modFacet f g).descFreed = h.descFreed := rfl
@[simp] theorem Hw.modFacet_lastPart (f : Nat) (g : Facet → Facet) : (h.modFacet f g).lastPart = h.lastPart := rfl
@[simp] theorem Hw.modFacet_funnel (f : Nat) (g : Facet → Facet) : (h.modFacet f g).funnel = h.funnel := rfl
@[simp] theorem Hw.modFacet_reports (f : Nat) (g : Facet → Facet) : (h.modFacet f g).reports = h.reports := rfl
@[simp] theorem Hw.modFacet_delays (f : Nat) (g : Facet → Facet) : (h.modFacet f g).delays = h.delays := rfl
@[simp] theorem Hw.modFacet_mem (f : Nat) (g : Facet → Facet) : (h.modFacet f g).mem = h.mem := rfl
@[simp] theorem Hw.modFacet_smp (f : Nat) (g : Facet → Facet) : (h.modFacet f g).smp = h.smp := rfl
@[simp] theorem Hw.modFacet_pages (f : Nat) (g : Facet → Facet) : (h.modFacet f g).pages = h.pages := rfl
@[simp] theorem Hw.modFacet_jobs (f : Nat) (g : Facet → Facet) : (h.modFacet f g).jobs = h.jobs := rfl
@[simp] theorem Hw.modFacet_switches (f : Nat) (g : Facet → Facet) : (h.modFacet f g).switches = h.switches := rfl
@[simp] theorem Hw.modFacet_images (f : Nat) (g : Facet → Facet) : (h.modFacet f g).images = h.images := rfl
@[simp] theorem Hw.modFacet_ctxRecords (f : Nat) (g : Facet → Facet) : (h.modFacet f g).ctxRecords = h.ctxRecords := rfl
@[simp] theorem Hw.modFacet_sems (f : Nat) (g : Facet → Facet) : (h.modFacet f g).sems = h.sems := rfl
@[simp] theorem Hw.modFacet_learners (f : Nat) (g : Facet → Facet) : (h.modFacet f g).learners = h.learners := rfl
@[simp] theorem Hw.modFacet_routers (f : Nat) (g : Facet → Facet) : (h.modFacet f g).routers = h.routers := rfl
@[simp] theorem Hw.modFacet_secUsed (f : Nat) (g : Facet → Facet) : (h.modFacet f g).secUsed = h.secUsed := rfl
@[simp] theorem Hw.modFacet_acct (f : Nat) (g : Facet → Facet) : (h.modFacet f g).acct = h.acct := rfl
@[simp] theorem Hw.modFacet_tasks (f : Nat) (g : Facet → Facet) : (h.modFacet f g).tasks = h.tasks := rfl
@[simp] theorem Hw.modFacet_pairs (f : Nat) (g : Facet → Facet) : (h.modFacet f g).pairs = h.pairs := rfl
@[simp] theorem Hw.modFacet_fed (f : Nat) (g : Facet → Facet) : (h.modFacet f g).fed = h.fed := rfl
@[simp] theorem Hw.modFacet_journal (f : Nat) (g : Facet → Facet) : (h.modFacet f g).journal = h.journal := rfl
@[simp] theorem Hw.modFacet_engineSeedUsed (f : Nat) (g : Facet → Facet) : (h.modFacet f g).engineSeedUsed = h.engineSeedUsed := rfl
@[simp] theorem Hw.modFacet_expRings (f : Nat) (g : Facet → Facet) : (h.modFacet f g).expRings = h.expRings := rfl
@[simp] theorem Hw.modFacet_faults (f : Nat) (g : Facet → Facet) : (h.modFacet f g).faults = h.faults := rfl
@[simp] theorem Hw.modFacet_out (f : Nat) (g : Facet → Facet) : (h.modFacet f g).out = h.out := rfl

/-! `Hw.setPart` -/

@[simp] theorem Hw.setPart_cc (p : Nat) (x : Part) : (h.setPart p x).cc = h.cc := rfl
@[simp] theorem Hw.setPart_clk (p : Nat) (x : Part) : (h.setPart p x).clk = h.clk := rfl
@[simp] theorem Hw.setPart_eng (p : Nat) (x : Part) : (h.setPart p x).eng = h.eng := rfl
@[simp] theorem Hw.setPart_pins (p : Nat) (x : Part) : (h.setPart p x).pins = h.pins := rfl
@[simp] theorem Hw.setPart_od (p : Nat) (x : Part) : (h.setPart p x).od = h.od := rfl
@[simp] theorem Hw.setPart_dom (p : Nat) (x : Part) : (h.setPart p x).dom = h.dom := rfl
@[simp] theorem Hw.setPart_ccNext (p : Nat) (x : Part) : (h.setPart p x).ccNext = h.ccNext := rfl
@[simp] theorem Hw.setPart_ccOnce (p : Nat) (x : Part) : (h.setPart p x).ccOnce = h.ccOnce := rfl
@[simp] theorem Hw.setPart_ccSnap (p : Nat) (x : Part) : (h.setPart p x).ccSnap = h.ccSnap := rfl
@[simp] theorem Hw.setPart_imageLive (p : Nat) (x : Part) : (h.setPart p x).imageLive = h.imageLive := rfl
@[simp] theorem Hw.setPart_adm (p : Nat) (x : Part) : (h.setPart p x).adm = h.adm := rfl
@[simp] theorem Hw.setPart_budgetNs (p : Nat) (x : Part) : (h.setPart p x).budgetNs = h.budgetNs := rfl
@[simp] theorem Hw.setPart_descDone (p : Nat) (x : Part) : (h.setPart p x).descDone = h.descDone := rfl
@[simp] theorem Hw.setPart_expReadNs (p : Nat) (x : Part) : (h.setPart p x).expReadNs = h.expReadNs := rfl
@[simp] theorem Hw.setPart_hostReads (p : Nat) (x : Part) : (h.setPart p x).hostReads = h.hostReads := rfl
@[simp] theorem Hw.setPart_snaps (p : Nat) (x : Part) : (h.setPart p x).snaps = h.snaps := rfl
@[simp] theorem Hw.setPart_staged (p : Nat) (x : Part) : (h.setPart p x).staged = h.staged := rfl
@[simp] theorem Hw.setPart_side (p : Nat) (x : Part) : (h.setPart p x).side = h.side := rfl
@[simp] theorem Hw.setPart_irq (p : Nat) (x : Part) : (h.setPart p x).irq = h.irq := rfl
@[simp] theorem Hw.setPart_events (p : Nat) (x : Part) : (h.setPart p x).events = h.events := rfl
@[simp] theorem Hw.setPart_trace (p : Nat) (x : Part) : (h.setPart p x).trace = h.trace := rfl
@[simp] theorem Hw.setPart_rings (p : Nat) (x : Part) : (h.setPart p x).rings = h.rings := rfl
@[simp] theorem Hw.setPart_turn (p : Nat) (x : Part) : (h.setPart p x).turn = h.turn := rfl
@[simp] theorem Hw.setPart_queues (p : Nat) (x : Part) : (h.setPart p x).queues = h.queues := rfl
@[simp] theorem Hw.setPart_seqs (p : Nat) (x : Part) : (h.setPart p x).seqs = h.seqs := rfl
@[simp] theorem Hw.setPart_gens (p : Nat) (x : Part) : (h.setPart p x).gens = h.gens := rfl
@[simp] theorem Hw.setPart_arrival (p : Nat) (x : Part) : (h.setPart p x).arrival = h.arrival := rfl
@[simp] theorem Hw.setPart_slotsFront (p : Nat) (x : Part) : (h.setPart p x).slotsFront = h.slotsFront := rfl
@[simp] theorem Hw.setPart_slotsFresh (p : Nat) (x : Part) : (h.setPart p x).slotsFresh = h.slotsFresh := rfl
@[simp] theorem Hw.setPart_slotsFreed (p : Nat) (x : Part) : (h.setPart p x).slotsFreed = h.slotsFreed := rfl
@[simp] theorem Hw.setPart_windows (p : Nat) (x : Part) : (h.setPart p x).windows = h.windows := rfl
@[simp] theorem Hw.setPart_facets (p : Nat) (x : Part) : (h.setPart p x).facets = h.facets := rfl
@[simp] theorem Hw.setPart_descs (p : Nat) (x : Part) : (h.setPart p x).descs = h.descs := rfl
@[simp] theorem Hw.setPart_descFresh (p : Nat) (x : Part) : (h.setPart p x).descFresh = h.descFresh := rfl
@[simp] theorem Hw.setPart_descFreed (p : Nat) (x : Part) : (h.setPart p x).descFreed = h.descFreed := rfl
@[simp] theorem Hw.setPart_lastPart (p : Nat) (x : Part) : (h.setPart p x).lastPart = h.lastPart := rfl
@[simp] theorem Hw.setPart_funnel (p : Nat) (x : Part) : (h.setPart p x).funnel = h.funnel := rfl
@[simp] theorem Hw.setPart_reports (p : Nat) (x : Part) : (h.setPart p x).reports = h.reports := rfl
@[simp] theorem Hw.setPart_delays (p : Nat) (x : Part) : (h.setPart p x).delays = h.delays := rfl
@[simp] theorem Hw.setPart_mem (p : Nat) (x : Part) : (h.setPart p x).mem = h.mem := rfl
@[simp] theorem Hw.setPart_smp (p : Nat) (x : Part) : (h.setPart p x).smp = h.smp := rfl
@[simp] theorem Hw.setPart_pages (p : Nat) (x : Part) : (h.setPart p x).pages = h.pages := rfl
@[simp] theorem Hw.setPart_jobs (p : Nat) (x : Part) : (h.setPart p x).jobs = h.jobs := rfl
@[simp] theorem Hw.setPart_switches (p : Nat) (x : Part) : (h.setPart p x).switches = h.switches := rfl
@[simp] theorem Hw.setPart_images (p : Nat) (x : Part) : (h.setPart p x).images = h.images := rfl
@[simp] theorem Hw.setPart_ctxRecords (p : Nat) (x : Part) : (h.setPart p x).ctxRecords = h.ctxRecords := rfl
@[simp] theorem Hw.setPart_sems (p : Nat) (x : Part) : (h.setPart p x).sems = h.sems := rfl
@[simp] theorem Hw.setPart_learners (p : Nat) (x : Part) : (h.setPart p x).learners = h.learners := rfl
@[simp] theorem Hw.setPart_routers (p : Nat) (x : Part) : (h.setPart p x).routers = h.routers := rfl
@[simp] theorem Hw.setPart_secUsed (p : Nat) (x : Part) : (h.setPart p x).secUsed = h.secUsed := rfl
@[simp] theorem Hw.setPart_acct (p : Nat) (x : Part) : (h.setPart p x).acct = h.acct := rfl
@[simp] theorem Hw.setPart_tasks (p : Nat) (x : Part) : (h.setPart p x).tasks = h.tasks := rfl
@[simp] theorem Hw.setPart_pairs (p : Nat) (x : Part) : (h.setPart p x).pairs = h.pairs := rfl
@[simp] theorem Hw.setPart_fed (p : Nat) (x : Part) : (h.setPart p x).fed = h.fed := rfl
@[simp] theorem Hw.setPart_journal (p : Nat) (x : Part) : (h.setPart p x).journal = h.journal := rfl
@[simp] theorem Hw.setPart_engineSeedUsed (p : Nat) (x : Part) : (h.setPart p x).engineSeedUsed = h.engineSeedUsed := rfl
@[simp] theorem Hw.setPart_expRings (p : Nat) (x : Part) : (h.setPart p x).expRings = h.expRings := rfl
@[simp] theorem Hw.setPart_faults (p : Nat) (x : Part) : (h.setPart p x).faults = h.faults := rfl
@[simp] theorem Hw.setPart_out (p : Nat) (x : Part) : (h.setPart p x).out = h.out := rfl

/-! `Hw.modPart` -/

@[simp] theorem Hw.modPart_cc (p : Nat) (g : Part → Part) : (h.modPart p g).cc = h.cc := rfl
@[simp] theorem Hw.modPart_clk (p : Nat) (g : Part → Part) : (h.modPart p g).clk = h.clk := rfl
@[simp] theorem Hw.modPart_eng (p : Nat) (g : Part → Part) : (h.modPart p g).eng = h.eng := rfl
@[simp] theorem Hw.modPart_pins (p : Nat) (g : Part → Part) : (h.modPart p g).pins = h.pins := rfl
@[simp] theorem Hw.modPart_od (p : Nat) (g : Part → Part) : (h.modPart p g).od = h.od := rfl
@[simp] theorem Hw.modPart_dom (p : Nat) (g : Part → Part) : (h.modPart p g).dom = h.dom := rfl
@[simp] theorem Hw.modPart_ccNext (p : Nat) (g : Part → Part) : (h.modPart p g).ccNext = h.ccNext := rfl
@[simp] theorem Hw.modPart_ccOnce (p : Nat) (g : Part → Part) : (h.modPart p g).ccOnce = h.ccOnce := rfl
@[simp] theorem Hw.modPart_ccSnap (p : Nat) (g : Part → Part) : (h.modPart p g).ccSnap = h.ccSnap := rfl
@[simp] theorem Hw.modPart_imageLive (p : Nat) (g : Part → Part) : (h.modPart p g).imageLive = h.imageLive := rfl
@[simp] theorem Hw.modPart_adm (p : Nat) (g : Part → Part) : (h.modPart p g).adm = h.adm := rfl
@[simp] theorem Hw.modPart_budgetNs (p : Nat) (g : Part → Part) : (h.modPart p g).budgetNs = h.budgetNs := rfl
@[simp] theorem Hw.modPart_descDone (p : Nat) (g : Part → Part) : (h.modPart p g).descDone = h.descDone := rfl
@[simp] theorem Hw.modPart_expReadNs (p : Nat) (g : Part → Part) : (h.modPart p g).expReadNs = h.expReadNs := rfl
@[simp] theorem Hw.modPart_hostReads (p : Nat) (g : Part → Part) : (h.modPart p g).hostReads = h.hostReads := rfl
@[simp] theorem Hw.modPart_snaps (p : Nat) (g : Part → Part) : (h.modPart p g).snaps = h.snaps := rfl
@[simp] theorem Hw.modPart_staged (p : Nat) (g : Part → Part) : (h.modPart p g).staged = h.staged := rfl
@[simp] theorem Hw.modPart_side (p : Nat) (g : Part → Part) : (h.modPart p g).side = h.side := rfl
@[simp] theorem Hw.modPart_irq (p : Nat) (g : Part → Part) : (h.modPart p g).irq = h.irq := rfl
@[simp] theorem Hw.modPart_events (p : Nat) (g : Part → Part) : (h.modPart p g).events = h.events := rfl
@[simp] theorem Hw.modPart_trace (p : Nat) (g : Part → Part) : (h.modPart p g).trace = h.trace := rfl
@[simp] theorem Hw.modPart_rings (p : Nat) (g : Part → Part) : (h.modPart p g).rings = h.rings := rfl
@[simp] theorem Hw.modPart_turn (p : Nat) (g : Part → Part) : (h.modPart p g).turn = h.turn := rfl
@[simp] theorem Hw.modPart_queues (p : Nat) (g : Part → Part) : (h.modPart p g).queues = h.queues := rfl
@[simp] theorem Hw.modPart_seqs (p : Nat) (g : Part → Part) : (h.modPart p g).seqs = h.seqs := rfl
@[simp] theorem Hw.modPart_gens (p : Nat) (g : Part → Part) : (h.modPart p g).gens = h.gens := rfl
@[simp] theorem Hw.modPart_arrival (p : Nat) (g : Part → Part) : (h.modPart p g).arrival = h.arrival := rfl
@[simp] theorem Hw.modPart_slotsFront (p : Nat) (g : Part → Part) : (h.modPart p g).slotsFront = h.slotsFront := rfl
@[simp] theorem Hw.modPart_slotsFresh (p : Nat) (g : Part → Part) : (h.modPart p g).slotsFresh = h.slotsFresh := rfl
@[simp] theorem Hw.modPart_slotsFreed (p : Nat) (g : Part → Part) : (h.modPart p g).slotsFreed = h.slotsFreed := rfl
@[simp] theorem Hw.modPart_windows (p : Nat) (g : Part → Part) : (h.modPart p g).windows = h.windows := rfl
@[simp] theorem Hw.modPart_facets (p : Nat) (g : Part → Part) : (h.modPart p g).facets = h.facets := rfl
@[simp] theorem Hw.modPart_descs (p : Nat) (g : Part → Part) : (h.modPart p g).descs = h.descs := rfl
@[simp] theorem Hw.modPart_descFresh (p : Nat) (g : Part → Part) : (h.modPart p g).descFresh = h.descFresh := rfl
@[simp] theorem Hw.modPart_descFreed (p : Nat) (g : Part → Part) : (h.modPart p g).descFreed = h.descFreed := rfl
@[simp] theorem Hw.modPart_lastPart (p : Nat) (g : Part → Part) : (h.modPart p g).lastPart = h.lastPart := rfl
@[simp] theorem Hw.modPart_funnel (p : Nat) (g : Part → Part) : (h.modPart p g).funnel = h.funnel := rfl
@[simp] theorem Hw.modPart_reports (p : Nat) (g : Part → Part) : (h.modPart p g).reports = h.reports := rfl
@[simp] theorem Hw.modPart_delays (p : Nat) (g : Part → Part) : (h.modPart p g).delays = h.delays := rfl
@[simp] theorem Hw.modPart_mem (p : Nat) (g : Part → Part) : (h.modPart p g).mem = h.mem := rfl
@[simp] theorem Hw.modPart_smp (p : Nat) (g : Part → Part) : (h.modPart p g).smp = h.smp := rfl
@[simp] theorem Hw.modPart_pages (p : Nat) (g : Part → Part) : (h.modPart p g).pages = h.pages := rfl
@[simp] theorem Hw.modPart_jobs (p : Nat) (g : Part → Part) : (h.modPart p g).jobs = h.jobs := rfl
@[simp] theorem Hw.modPart_switches (p : Nat) (g : Part → Part) : (h.modPart p g).switches = h.switches := rfl
@[simp] theorem Hw.modPart_images (p : Nat) (g : Part → Part) : (h.modPart p g).images = h.images := rfl
@[simp] theorem Hw.modPart_ctxRecords (p : Nat) (g : Part → Part) : (h.modPart p g).ctxRecords = h.ctxRecords := rfl
@[simp] theorem Hw.modPart_sems (p : Nat) (g : Part → Part) : (h.modPart p g).sems = h.sems := rfl
@[simp] theorem Hw.modPart_learners (p : Nat) (g : Part → Part) : (h.modPart p g).learners = h.learners := rfl
@[simp] theorem Hw.modPart_routers (p : Nat) (g : Part → Part) : (h.modPart p g).routers = h.routers := rfl
@[simp] theorem Hw.modPart_secUsed (p : Nat) (g : Part → Part) : (h.modPart p g).secUsed = h.secUsed := rfl
@[simp] theorem Hw.modPart_acct (p : Nat) (g : Part → Part) : (h.modPart p g).acct = h.acct := rfl
@[simp] theorem Hw.modPart_tasks (p : Nat) (g : Part → Part) : (h.modPart p g).tasks = h.tasks := rfl
@[simp] theorem Hw.modPart_pairs (p : Nat) (g : Part → Part) : (h.modPart p g).pairs = h.pairs := rfl
@[simp] theorem Hw.modPart_fed (p : Nat) (g : Part → Part) : (h.modPart p g).fed = h.fed := rfl
@[simp] theorem Hw.modPart_journal (p : Nat) (g : Part → Part) : (h.modPart p g).journal = h.journal := rfl
@[simp] theorem Hw.modPart_engineSeedUsed (p : Nat) (g : Part → Part) : (h.modPart p g).engineSeedUsed = h.engineSeedUsed := rfl
@[simp] theorem Hw.modPart_expRings (p : Nat) (g : Part → Part) : (h.modPart p g).expRings = h.expRings := rfl
@[simp] theorem Hw.modPart_faults (p : Nat) (g : Part → Part) : (h.modPart p g).faults = h.faults := rfl
@[simp] theorem Hw.modPart_out (p : Nat) (g : Part → Part) : (h.modPart p g).out = h.out := rfl

/-! `Hw.modRing` -/

@[simp] theorem Hw.modRing_cc (r : Nat) (g : Ring → Ring) : (h.modRing r g).cc = h.cc := rfl
@[simp] theorem Hw.modRing_clk (r : Nat) (g : Ring → Ring) : (h.modRing r g).clk = h.clk := rfl
@[simp] theorem Hw.modRing_eng (r : Nat) (g : Ring → Ring) : (h.modRing r g).eng = h.eng := rfl
@[simp] theorem Hw.modRing_pins (r : Nat) (g : Ring → Ring) : (h.modRing r g).pins = h.pins := rfl
@[simp] theorem Hw.modRing_od (r : Nat) (g : Ring → Ring) : (h.modRing r g).od = h.od := rfl
@[simp] theorem Hw.modRing_dom (r : Nat) (g : Ring → Ring) : (h.modRing r g).dom = h.dom := rfl
@[simp] theorem Hw.modRing_ccNext (r : Nat) (g : Ring → Ring) : (h.modRing r g).ccNext = h.ccNext := rfl
@[simp] theorem Hw.modRing_ccOnce (r : Nat) (g : Ring → Ring) : (h.modRing r g).ccOnce = h.ccOnce := rfl
@[simp] theorem Hw.modRing_ccSnap (r : Nat) (g : Ring → Ring) : (h.modRing r g).ccSnap = h.ccSnap := rfl
@[simp] theorem Hw.modRing_imageLive (r : Nat) (g : Ring → Ring) : (h.modRing r g).imageLive = h.imageLive := rfl
@[simp] theorem Hw.modRing_adm (r : Nat) (g : Ring → Ring) : (h.modRing r g).adm = h.adm := rfl
@[simp] theorem Hw.modRing_budgetNs (r : Nat) (g : Ring → Ring) : (h.modRing r g).budgetNs = h.budgetNs := rfl
@[simp] theorem Hw.modRing_descDone (r : Nat) (g : Ring → Ring) : (h.modRing r g).descDone = h.descDone := rfl
@[simp] theorem Hw.modRing_expReadNs (r : Nat) (g : Ring → Ring) : (h.modRing r g).expReadNs = h.expReadNs := rfl
@[simp] theorem Hw.modRing_hostReads (r : Nat) (g : Ring → Ring) : (h.modRing r g).hostReads = h.hostReads := rfl
@[simp] theorem Hw.modRing_snaps (r : Nat) (g : Ring → Ring) : (h.modRing r g).snaps = h.snaps := rfl
@[simp] theorem Hw.modRing_staged (r : Nat) (g : Ring → Ring) : (h.modRing r g).staged = h.staged := rfl
@[simp] theorem Hw.modRing_side (r : Nat) (g : Ring → Ring) : (h.modRing r g).side = h.side := rfl
@[simp] theorem Hw.modRing_irq (r : Nat) (g : Ring → Ring) : (h.modRing r g).irq = h.irq := rfl
@[simp] theorem Hw.modRing_events (r : Nat) (g : Ring → Ring) : (h.modRing r g).events = h.events := rfl
@[simp] theorem Hw.modRing_trace (r : Nat) (g : Ring → Ring) : (h.modRing r g).trace = h.trace := rfl
@[simp] theorem Hw.modRing_turn (r : Nat) (g : Ring → Ring) : (h.modRing r g).turn = h.turn := rfl
@[simp] theorem Hw.modRing_queues (r : Nat) (g : Ring → Ring) : (h.modRing r g).queues = h.queues := rfl
@[simp] theorem Hw.modRing_seqs (r : Nat) (g : Ring → Ring) : (h.modRing r g).seqs = h.seqs := rfl
@[simp] theorem Hw.modRing_gens (r : Nat) (g : Ring → Ring) : (h.modRing r g).gens = h.gens := rfl
@[simp] theorem Hw.modRing_arrival (r : Nat) (g : Ring → Ring) : (h.modRing r g).arrival = h.arrival := rfl
@[simp] theorem Hw.modRing_slotsFront (r : Nat) (g : Ring → Ring) : (h.modRing r g).slotsFront = h.slotsFront := rfl
@[simp] theorem Hw.modRing_slotsFresh (r : Nat) (g : Ring → Ring) : (h.modRing r g).slotsFresh = h.slotsFresh := rfl
@[simp] theorem Hw.modRing_slotsFreed (r : Nat) (g : Ring → Ring) : (h.modRing r g).slotsFreed = h.slotsFreed := rfl
@[simp] theorem Hw.modRing_windows (r : Nat) (g : Ring → Ring) : (h.modRing r g).windows = h.windows := rfl
@[simp] theorem Hw.modRing_facets (r : Nat) (g : Ring → Ring) : (h.modRing r g).facets = h.facets := rfl
@[simp] theorem Hw.modRing_parts (r : Nat) (g : Ring → Ring) : (h.modRing r g).parts = h.parts := rfl
@[simp] theorem Hw.modRing_descs (r : Nat) (g : Ring → Ring) : (h.modRing r g).descs = h.descs := rfl
@[simp] theorem Hw.modRing_descFresh (r : Nat) (g : Ring → Ring) : (h.modRing r g).descFresh = h.descFresh := rfl
@[simp] theorem Hw.modRing_descFreed (r : Nat) (g : Ring → Ring) : (h.modRing r g).descFreed = h.descFreed := rfl
@[simp] theorem Hw.modRing_lastPart (r : Nat) (g : Ring → Ring) : (h.modRing r g).lastPart = h.lastPart := rfl
@[simp] theorem Hw.modRing_funnel (r : Nat) (g : Ring → Ring) : (h.modRing r g).funnel = h.funnel := rfl
@[simp] theorem Hw.modRing_reports (r : Nat) (g : Ring → Ring) : (h.modRing r g).reports = h.reports := rfl
@[simp] theorem Hw.modRing_delays (r : Nat) (g : Ring → Ring) : (h.modRing r g).delays = h.delays := rfl
@[simp] theorem Hw.modRing_mem (r : Nat) (g : Ring → Ring) : (h.modRing r g).mem = h.mem := rfl
@[simp] theorem Hw.modRing_smp (r : Nat) (g : Ring → Ring) : (h.modRing r g).smp = h.smp := rfl
@[simp] theorem Hw.modRing_pages (r : Nat) (g : Ring → Ring) : (h.modRing r g).pages = h.pages := rfl
@[simp] theorem Hw.modRing_jobs (r : Nat) (g : Ring → Ring) : (h.modRing r g).jobs = h.jobs := rfl
@[simp] theorem Hw.modRing_switches (r : Nat) (g : Ring → Ring) : (h.modRing r g).switches = h.switches := rfl
@[simp] theorem Hw.modRing_images (r : Nat) (g : Ring → Ring) : (h.modRing r g).images = h.images := rfl
@[simp] theorem Hw.modRing_ctxRecords (r : Nat) (g : Ring → Ring) : (h.modRing r g).ctxRecords = h.ctxRecords := rfl
@[simp] theorem Hw.modRing_sems (r : Nat) (g : Ring → Ring) : (h.modRing r g).sems = h.sems := rfl
@[simp] theorem Hw.modRing_learners (r : Nat) (g : Ring → Ring) : (h.modRing r g).learners = h.learners := rfl
@[simp] theorem Hw.modRing_routers (r : Nat) (g : Ring → Ring) : (h.modRing r g).routers = h.routers := rfl
@[simp] theorem Hw.modRing_secUsed (r : Nat) (g : Ring → Ring) : (h.modRing r g).secUsed = h.secUsed := rfl
@[simp] theorem Hw.modRing_acct (r : Nat) (g : Ring → Ring) : (h.modRing r g).acct = h.acct := rfl
@[simp] theorem Hw.modRing_tasks (r : Nat) (g : Ring → Ring) : (h.modRing r g).tasks = h.tasks := rfl
@[simp] theorem Hw.modRing_pairs (r : Nat) (g : Ring → Ring) : (h.modRing r g).pairs = h.pairs := rfl
@[simp] theorem Hw.modRing_fed (r : Nat) (g : Ring → Ring) : (h.modRing r g).fed = h.fed := rfl
@[simp] theorem Hw.modRing_journal (r : Nat) (g : Ring → Ring) : (h.modRing r g).journal = h.journal := rfl
@[simp] theorem Hw.modRing_engineSeedUsed (r : Nat) (g : Ring → Ring) : (h.modRing r g).engineSeedUsed = h.engineSeedUsed := rfl
@[simp] theorem Hw.modRing_expRings (r : Nat) (g : Ring → Ring) : (h.modRing r g).expRings = h.expRings := rfl
@[simp] theorem Hw.modRing_faults (r : Nat) (g : Ring → Ring) : (h.modRing r g).faults = h.faults := rfl
@[simp] theorem Hw.modRing_out (r : Nat) (g : Ring → Ring) : (h.modRing r g).out = h.out := rfl

/-! `Hw.modQueue` -/

@[simp] theorem Hw.modQueue_cc (q : Nat) (g : Queue → Queue) : (h.modQueue q g).cc = h.cc := rfl
@[simp] theorem Hw.modQueue_clk (q : Nat) (g : Queue → Queue) : (h.modQueue q g).clk = h.clk := rfl
@[simp] theorem Hw.modQueue_eng (q : Nat) (g : Queue → Queue) : (h.modQueue q g).eng = h.eng := rfl
@[simp] theorem Hw.modQueue_pins (q : Nat) (g : Queue → Queue) : (h.modQueue q g).pins = h.pins := rfl
@[simp] theorem Hw.modQueue_od (q : Nat) (g : Queue → Queue) : (h.modQueue q g).od = h.od := rfl
@[simp] theorem Hw.modQueue_dom (q : Nat) (g : Queue → Queue) : (h.modQueue q g).dom = h.dom := rfl
@[simp] theorem Hw.modQueue_ccNext (q : Nat) (g : Queue → Queue) : (h.modQueue q g).ccNext = h.ccNext := rfl
@[simp] theorem Hw.modQueue_ccOnce (q : Nat) (g : Queue → Queue) : (h.modQueue q g).ccOnce = h.ccOnce := rfl
@[simp] theorem Hw.modQueue_ccSnap (q : Nat) (g : Queue → Queue) : (h.modQueue q g).ccSnap = h.ccSnap := rfl
@[simp] theorem Hw.modQueue_imageLive (q : Nat) (g : Queue → Queue) : (h.modQueue q g).imageLive = h.imageLive := rfl
@[simp] theorem Hw.modQueue_adm (q : Nat) (g : Queue → Queue) : (h.modQueue q g).adm = h.adm := rfl
@[simp] theorem Hw.modQueue_budgetNs (q : Nat) (g : Queue → Queue) : (h.modQueue q g).budgetNs = h.budgetNs := rfl
@[simp] theorem Hw.modQueue_descDone (q : Nat) (g : Queue → Queue) : (h.modQueue q g).descDone = h.descDone := rfl
@[simp] theorem Hw.modQueue_expReadNs (q : Nat) (g : Queue → Queue) : (h.modQueue q g).expReadNs = h.expReadNs := rfl
@[simp] theorem Hw.modQueue_hostReads (q : Nat) (g : Queue → Queue) : (h.modQueue q g).hostReads = h.hostReads := rfl
@[simp] theorem Hw.modQueue_snaps (q : Nat) (g : Queue → Queue) : (h.modQueue q g).snaps = h.snaps := rfl
@[simp] theorem Hw.modQueue_staged (q : Nat) (g : Queue → Queue) : (h.modQueue q g).staged = h.staged := rfl
@[simp] theorem Hw.modQueue_side (q : Nat) (g : Queue → Queue) : (h.modQueue q g).side = h.side := rfl
@[simp] theorem Hw.modQueue_irq (q : Nat) (g : Queue → Queue) : (h.modQueue q g).irq = h.irq := rfl
@[simp] theorem Hw.modQueue_events (q : Nat) (g : Queue → Queue) : (h.modQueue q g).events = h.events := rfl
@[simp] theorem Hw.modQueue_trace (q : Nat) (g : Queue → Queue) : (h.modQueue q g).trace = h.trace := rfl
@[simp] theorem Hw.modQueue_rings (q : Nat) (g : Queue → Queue) : (h.modQueue q g).rings = h.rings := rfl
@[simp] theorem Hw.modQueue_turn (q : Nat) (g : Queue → Queue) : (h.modQueue q g).turn = h.turn := rfl
@[simp] theorem Hw.modQueue_seqs (q : Nat) (g : Queue → Queue) : (h.modQueue q g).seqs = h.seqs := rfl
@[simp] theorem Hw.modQueue_gens (q : Nat) (g : Queue → Queue) : (h.modQueue q g).gens = h.gens := rfl
@[simp] theorem Hw.modQueue_arrival (q : Nat) (g : Queue → Queue) : (h.modQueue q g).arrival = h.arrival := rfl
@[simp] theorem Hw.modQueue_slotsFront (q : Nat) (g : Queue → Queue) : (h.modQueue q g).slotsFront = h.slotsFront := rfl
@[simp] theorem Hw.modQueue_slotsFresh (q : Nat) (g : Queue → Queue) : (h.modQueue q g).slotsFresh = h.slotsFresh := rfl
@[simp] theorem Hw.modQueue_slotsFreed (q : Nat) (g : Queue → Queue) : (h.modQueue q g).slotsFreed = h.slotsFreed := rfl
@[simp] theorem Hw.modQueue_windows (q : Nat) (g : Queue → Queue) : (h.modQueue q g).windows = h.windows := rfl
@[simp] theorem Hw.modQueue_facets (q : Nat) (g : Queue → Queue) : (h.modQueue q g).facets = h.facets := rfl
@[simp] theorem Hw.modQueue_parts (q : Nat) (g : Queue → Queue) : (h.modQueue q g).parts = h.parts := rfl
@[simp] theorem Hw.modQueue_descs (q : Nat) (g : Queue → Queue) : (h.modQueue q g).descs = h.descs := rfl
@[simp] theorem Hw.modQueue_descFresh (q : Nat) (g : Queue → Queue) : (h.modQueue q g).descFresh = h.descFresh := rfl
@[simp] theorem Hw.modQueue_descFreed (q : Nat) (g : Queue → Queue) : (h.modQueue q g).descFreed = h.descFreed := rfl
@[simp] theorem Hw.modQueue_lastPart (q : Nat) (g : Queue → Queue) : (h.modQueue q g).lastPart = h.lastPart := rfl
@[simp] theorem Hw.modQueue_funnel (q : Nat) (g : Queue → Queue) : (h.modQueue q g).funnel = h.funnel := rfl
@[simp] theorem Hw.modQueue_reports (q : Nat) (g : Queue → Queue) : (h.modQueue q g).reports = h.reports := rfl
@[simp] theorem Hw.modQueue_delays (q : Nat) (g : Queue → Queue) : (h.modQueue q g).delays = h.delays := rfl
@[simp] theorem Hw.modQueue_mem (q : Nat) (g : Queue → Queue) : (h.modQueue q g).mem = h.mem := rfl
@[simp] theorem Hw.modQueue_smp (q : Nat) (g : Queue → Queue) : (h.modQueue q g).smp = h.smp := rfl
@[simp] theorem Hw.modQueue_pages (q : Nat) (g : Queue → Queue) : (h.modQueue q g).pages = h.pages := rfl
@[simp] theorem Hw.modQueue_jobs (q : Nat) (g : Queue → Queue) : (h.modQueue q g).jobs = h.jobs := rfl
@[simp] theorem Hw.modQueue_switches (q : Nat) (g : Queue → Queue) : (h.modQueue q g).switches = h.switches := rfl
@[simp] theorem Hw.modQueue_images (q : Nat) (g : Queue → Queue) : (h.modQueue q g).images = h.images := rfl
@[simp] theorem Hw.modQueue_ctxRecords (q : Nat) (g : Queue → Queue) : (h.modQueue q g).ctxRecords = h.ctxRecords := rfl
@[simp] theorem Hw.modQueue_sems (q : Nat) (g : Queue → Queue) : (h.modQueue q g).sems = h.sems := rfl
@[simp] theorem Hw.modQueue_learners (q : Nat) (g : Queue → Queue) : (h.modQueue q g).learners = h.learners := rfl
@[simp] theorem Hw.modQueue_routers (q : Nat) (g : Queue → Queue) : (h.modQueue q g).routers = h.routers := rfl
@[simp] theorem Hw.modQueue_secUsed (q : Nat) (g : Queue → Queue) : (h.modQueue q g).secUsed = h.secUsed := rfl
@[simp] theorem Hw.modQueue_acct (q : Nat) (g : Queue → Queue) : (h.modQueue q g).acct = h.acct := rfl
@[simp] theorem Hw.modQueue_tasks (q : Nat) (g : Queue → Queue) : (h.modQueue q g).tasks = h.tasks := rfl
@[simp] theorem Hw.modQueue_pairs (q : Nat) (g : Queue → Queue) : (h.modQueue q g).pairs = h.pairs := rfl
@[simp] theorem Hw.modQueue_fed (q : Nat) (g : Queue → Queue) : (h.modQueue q g).fed = h.fed := rfl
@[simp] theorem Hw.modQueue_journal (q : Nat) (g : Queue → Queue) : (h.modQueue q g).journal = h.journal := rfl
@[simp] theorem Hw.modQueue_engineSeedUsed (q : Nat) (g : Queue → Queue) : (h.modQueue q g).engineSeedUsed = h.engineSeedUsed := rfl
@[simp] theorem Hw.modQueue_expRings (q : Nat) (g : Queue → Queue) : (h.modQueue q g).expRings = h.expRings := rfl
@[simp] theorem Hw.modQueue_faults (q : Nat) (g : Queue → Queue) : (h.modQueue q g).faults = h.faults := rfl
@[simp] theorem Hw.modQueue_out (q : Nat) (g : Queue → Queue) : (h.modQueue q g).out = h.out := rfl

/-! `Hw.setSeq` -/

@[simp] theorem Hw.setSeq_cc (n : Nat) (q : Seq) : (h.setSeq n q).cc = h.cc := rfl
@[simp] theorem Hw.setSeq_clk (n : Nat) (q : Seq) : (h.setSeq n q).clk = h.clk := rfl
@[simp] theorem Hw.setSeq_eng (n : Nat) (q : Seq) : (h.setSeq n q).eng = h.eng := rfl
@[simp] theorem Hw.setSeq_pins (n : Nat) (q : Seq) : (h.setSeq n q).pins = h.pins := rfl
@[simp] theorem Hw.setSeq_od (n : Nat) (q : Seq) : (h.setSeq n q).od = h.od := rfl
@[simp] theorem Hw.setSeq_dom (n : Nat) (q : Seq) : (h.setSeq n q).dom = h.dom := rfl
@[simp] theorem Hw.setSeq_ccNext (n : Nat) (q : Seq) : (h.setSeq n q).ccNext = h.ccNext := rfl
@[simp] theorem Hw.setSeq_ccOnce (n : Nat) (q : Seq) : (h.setSeq n q).ccOnce = h.ccOnce := rfl
@[simp] theorem Hw.setSeq_ccSnap (n : Nat) (q : Seq) : (h.setSeq n q).ccSnap = h.ccSnap := rfl
@[simp] theorem Hw.setSeq_imageLive (n : Nat) (q : Seq) : (h.setSeq n q).imageLive = h.imageLive := rfl
@[simp] theorem Hw.setSeq_adm (n : Nat) (q : Seq) : (h.setSeq n q).adm = h.adm := rfl
@[simp] theorem Hw.setSeq_budgetNs (n : Nat) (q : Seq) : (h.setSeq n q).budgetNs = h.budgetNs := rfl
@[simp] theorem Hw.setSeq_descDone (n : Nat) (q : Seq) : (h.setSeq n q).descDone = h.descDone := rfl
@[simp] theorem Hw.setSeq_expReadNs (n : Nat) (q : Seq) : (h.setSeq n q).expReadNs = h.expReadNs := rfl
@[simp] theorem Hw.setSeq_hostReads (n : Nat) (q : Seq) : (h.setSeq n q).hostReads = h.hostReads := rfl
@[simp] theorem Hw.setSeq_snaps (n : Nat) (q : Seq) : (h.setSeq n q).snaps = h.snaps := rfl
@[simp] theorem Hw.setSeq_staged (n : Nat) (q : Seq) : (h.setSeq n q).staged = h.staged := rfl
@[simp] theorem Hw.setSeq_side (n : Nat) (q : Seq) : (h.setSeq n q).side = h.side := rfl
@[simp] theorem Hw.setSeq_irq (n : Nat) (q : Seq) : (h.setSeq n q).irq = h.irq := rfl
@[simp] theorem Hw.setSeq_events (n : Nat) (q : Seq) : (h.setSeq n q).events = h.events := rfl
@[simp] theorem Hw.setSeq_trace (n : Nat) (q : Seq) : (h.setSeq n q).trace = h.trace := rfl
@[simp] theorem Hw.setSeq_rings (n : Nat) (q : Seq) : (h.setSeq n q).rings = h.rings := rfl
@[simp] theorem Hw.setSeq_turn (n : Nat) (q : Seq) : (h.setSeq n q).turn = h.turn := rfl
@[simp] theorem Hw.setSeq_queues (n : Nat) (q : Seq) : (h.setSeq n q).queues = h.queues := rfl
@[simp] theorem Hw.setSeq_gens (n : Nat) (q : Seq) : (h.setSeq n q).gens = h.gens := rfl
@[simp] theorem Hw.setSeq_arrival (n : Nat) (q : Seq) : (h.setSeq n q).arrival = h.arrival := rfl
@[simp] theorem Hw.setSeq_slotsFront (n : Nat) (q : Seq) : (h.setSeq n q).slotsFront = h.slotsFront := rfl
@[simp] theorem Hw.setSeq_slotsFresh (n : Nat) (q : Seq) : (h.setSeq n q).slotsFresh = h.slotsFresh := rfl
@[simp] theorem Hw.setSeq_slotsFreed (n : Nat) (q : Seq) : (h.setSeq n q).slotsFreed = h.slotsFreed := rfl
@[simp] theorem Hw.setSeq_windows (n : Nat) (q : Seq) : (h.setSeq n q).windows = h.windows := rfl
@[simp] theorem Hw.setSeq_facets (n : Nat) (q : Seq) : (h.setSeq n q).facets = h.facets := rfl
@[simp] theorem Hw.setSeq_parts (n : Nat) (q : Seq) : (h.setSeq n q).parts = h.parts := rfl
@[simp] theorem Hw.setSeq_descs (n : Nat) (q : Seq) : (h.setSeq n q).descs = h.descs := rfl
@[simp] theorem Hw.setSeq_descFresh (n : Nat) (q : Seq) : (h.setSeq n q).descFresh = h.descFresh := rfl
@[simp] theorem Hw.setSeq_descFreed (n : Nat) (q : Seq) : (h.setSeq n q).descFreed = h.descFreed := rfl
@[simp] theorem Hw.setSeq_lastPart (n : Nat) (q : Seq) : (h.setSeq n q).lastPart = h.lastPart := rfl
@[simp] theorem Hw.setSeq_funnel (n : Nat) (q : Seq) : (h.setSeq n q).funnel = h.funnel := rfl
@[simp] theorem Hw.setSeq_reports (n : Nat) (q : Seq) : (h.setSeq n q).reports = h.reports := rfl
@[simp] theorem Hw.setSeq_delays (n : Nat) (q : Seq) : (h.setSeq n q).delays = h.delays := rfl
@[simp] theorem Hw.setSeq_mem (n : Nat) (q : Seq) : (h.setSeq n q).mem = h.mem := rfl
@[simp] theorem Hw.setSeq_smp (n : Nat) (q : Seq) : (h.setSeq n q).smp = h.smp := rfl
@[simp] theorem Hw.setSeq_pages (n : Nat) (q : Seq) : (h.setSeq n q).pages = h.pages := rfl
@[simp] theorem Hw.setSeq_jobs (n : Nat) (q : Seq) : (h.setSeq n q).jobs = h.jobs := rfl
@[simp] theorem Hw.setSeq_switches (n : Nat) (q : Seq) : (h.setSeq n q).switches = h.switches := rfl
@[simp] theorem Hw.setSeq_images (n : Nat) (q : Seq) : (h.setSeq n q).images = h.images := rfl
@[simp] theorem Hw.setSeq_ctxRecords (n : Nat) (q : Seq) : (h.setSeq n q).ctxRecords = h.ctxRecords := rfl
@[simp] theorem Hw.setSeq_sems (n : Nat) (q : Seq) : (h.setSeq n q).sems = h.sems := rfl
@[simp] theorem Hw.setSeq_learners (n : Nat) (q : Seq) : (h.setSeq n q).learners = h.learners := rfl
@[simp] theorem Hw.setSeq_routers (n : Nat) (q : Seq) : (h.setSeq n q).routers = h.routers := rfl
@[simp] theorem Hw.setSeq_secUsed (n : Nat) (q : Seq) : (h.setSeq n q).secUsed = h.secUsed := rfl
@[simp] theorem Hw.setSeq_acct (n : Nat) (q : Seq) : (h.setSeq n q).acct = h.acct := rfl
@[simp] theorem Hw.setSeq_tasks (n : Nat) (q : Seq) : (h.setSeq n q).tasks = h.tasks := rfl
@[simp] theorem Hw.setSeq_pairs (n : Nat) (q : Seq) : (h.setSeq n q).pairs = h.pairs := rfl
@[simp] theorem Hw.setSeq_fed (n : Nat) (q : Seq) : (h.setSeq n q).fed = h.fed := rfl
@[simp] theorem Hw.setSeq_journal (n : Nat) (q : Seq) : (h.setSeq n q).journal = h.journal := rfl
@[simp] theorem Hw.setSeq_engineSeedUsed (n : Nat) (q : Seq) : (h.setSeq n q).engineSeedUsed = h.engineSeedUsed := rfl
@[simp] theorem Hw.setSeq_expRings (n : Nat) (q : Seq) : (h.setSeq n q).expRings = h.expRings := rfl
@[simp] theorem Hw.setSeq_faults (n : Nat) (q : Seq) : (h.setSeq n q).faults = h.faults := rfl
@[simp] theorem Hw.setSeq_out (n : Nat) (q : Seq) : (h.setSeq n q).out = h.out := rfl

/-! `Hw.modPool` -/

@[simp] theorem Hw.modPool_cc (p : Nat) (g : Pool → Pool) : (h.modPool p g).cc = h.cc := rfl
@[simp] theorem Hw.modPool_clk (p : Nat) (g : Pool → Pool) : (h.modPool p g).clk = h.clk := rfl
@[simp] theorem Hw.modPool_eng (p : Nat) (g : Pool → Pool) : (h.modPool p g).eng = h.eng := rfl
@[simp] theorem Hw.modPool_pins (p : Nat) (g : Pool → Pool) : (h.modPool p g).pins = h.pins := rfl
@[simp] theorem Hw.modPool_od (p : Nat) (g : Pool → Pool) : (h.modPool p g).od = h.od := rfl
@[simp] theorem Hw.modPool_dom (p : Nat) (g : Pool → Pool) : (h.modPool p g).dom = h.dom := rfl
@[simp] theorem Hw.modPool_ccNext (p : Nat) (g : Pool → Pool) : (h.modPool p g).ccNext = h.ccNext := rfl
@[simp] theorem Hw.modPool_ccOnce (p : Nat) (g : Pool → Pool) : (h.modPool p g).ccOnce = h.ccOnce := rfl
@[simp] theorem Hw.modPool_ccSnap (p : Nat) (g : Pool → Pool) : (h.modPool p g).ccSnap = h.ccSnap := rfl
@[simp] theorem Hw.modPool_imageLive (p : Nat) (g : Pool → Pool) : (h.modPool p g).imageLive = h.imageLive := rfl
@[simp] theorem Hw.modPool_adm (p : Nat) (g : Pool → Pool) : (h.modPool p g).adm = h.adm := rfl
@[simp] theorem Hw.modPool_budgetNs (p : Nat) (g : Pool → Pool) : (h.modPool p g).budgetNs = h.budgetNs := rfl
@[simp] theorem Hw.modPool_descDone (p : Nat) (g : Pool → Pool) : (h.modPool p g).descDone = h.descDone := rfl
@[simp] theorem Hw.modPool_expReadNs (p : Nat) (g : Pool → Pool) : (h.modPool p g).expReadNs = h.expReadNs := rfl
@[simp] theorem Hw.modPool_hostReads (p : Nat) (g : Pool → Pool) : (h.modPool p g).hostReads = h.hostReads := rfl
@[simp] theorem Hw.modPool_snaps (p : Nat) (g : Pool → Pool) : (h.modPool p g).snaps = h.snaps := rfl
@[simp] theorem Hw.modPool_staged (p : Nat) (g : Pool → Pool) : (h.modPool p g).staged = h.staged := rfl
@[simp] theorem Hw.modPool_side (p : Nat) (g : Pool → Pool) : (h.modPool p g).side = h.side := rfl
@[simp] theorem Hw.modPool_irq (p : Nat) (g : Pool → Pool) : (h.modPool p g).irq = h.irq := rfl
@[simp] theorem Hw.modPool_events (p : Nat) (g : Pool → Pool) : (h.modPool p g).events = h.events := rfl
@[simp] theorem Hw.modPool_trace (p : Nat) (g : Pool → Pool) : (h.modPool p g).trace = h.trace := rfl
@[simp] theorem Hw.modPool_rings (p : Nat) (g : Pool → Pool) : (h.modPool p g).rings = h.rings := rfl
@[simp] theorem Hw.modPool_turn (p : Nat) (g : Pool → Pool) : (h.modPool p g).turn = h.turn := rfl
@[simp] theorem Hw.modPool_queues (p : Nat) (g : Pool → Pool) : (h.modPool p g).queues = h.queues := rfl
@[simp] theorem Hw.modPool_seqs (p : Nat) (g : Pool → Pool) : (h.modPool p g).seqs = h.seqs := rfl
@[simp] theorem Hw.modPool_gens (p : Nat) (g : Pool → Pool) : (h.modPool p g).gens = h.gens := rfl
@[simp] theorem Hw.modPool_arrival (p : Nat) (g : Pool → Pool) : (h.modPool p g).arrival = h.arrival := rfl
@[simp] theorem Hw.modPool_slotsFront (p : Nat) (g : Pool → Pool) : (h.modPool p g).slotsFront = h.slotsFront := rfl
@[simp] theorem Hw.modPool_slotsFresh (p : Nat) (g : Pool → Pool) : (h.modPool p g).slotsFresh = h.slotsFresh := rfl
@[simp] theorem Hw.modPool_slotsFreed (p : Nat) (g : Pool → Pool) : (h.modPool p g).slotsFreed = h.slotsFreed := rfl
@[simp] theorem Hw.modPool_windows (p : Nat) (g : Pool → Pool) : (h.modPool p g).windows = h.windows := rfl
@[simp] theorem Hw.modPool_facets (p : Nat) (g : Pool → Pool) : (h.modPool p g).facets = h.facets := rfl
@[simp] theorem Hw.modPool_parts (p : Nat) (g : Pool → Pool) : (h.modPool p g).parts = h.parts := rfl
@[simp] theorem Hw.modPool_descs (p : Nat) (g : Pool → Pool) : (h.modPool p g).descs = h.descs := rfl
@[simp] theorem Hw.modPool_descFresh (p : Nat) (g : Pool → Pool) : (h.modPool p g).descFresh = h.descFresh := rfl
@[simp] theorem Hw.modPool_descFreed (p : Nat) (g : Pool → Pool) : (h.modPool p g).descFreed = h.descFreed := rfl
@[simp] theorem Hw.modPool_lastPart (p : Nat) (g : Pool → Pool) : (h.modPool p g).lastPart = h.lastPart := rfl
@[simp] theorem Hw.modPool_funnel (p : Nat) (g : Pool → Pool) : (h.modPool p g).funnel = h.funnel := rfl
@[simp] theorem Hw.modPool_reports (p : Nat) (g : Pool → Pool) : (h.modPool p g).reports = h.reports := rfl
@[simp] theorem Hw.modPool_delays (p : Nat) (g : Pool → Pool) : (h.modPool p g).delays = h.delays := rfl
@[simp] theorem Hw.modPool_mem (p : Nat) (g : Pool → Pool) : (h.modPool p g).mem = h.mem := rfl
@[simp] theorem Hw.modPool_smp (p : Nat) (g : Pool → Pool) : (h.modPool p g).smp = h.smp := rfl
@[simp] theorem Hw.modPool_jobs (p : Nat) (g : Pool → Pool) : (h.modPool p g).jobs = h.jobs := rfl
@[simp] theorem Hw.modPool_switches (p : Nat) (g : Pool → Pool) : (h.modPool p g).switches = h.switches := rfl
@[simp] theorem Hw.modPool_images (p : Nat) (g : Pool → Pool) : (h.modPool p g).images = h.images := rfl
@[simp] theorem Hw.modPool_ctxRecords (p : Nat) (g : Pool → Pool) : (h.modPool p g).ctxRecords = h.ctxRecords := rfl
@[simp] theorem Hw.modPool_sems (p : Nat) (g : Pool → Pool) : (h.modPool p g).sems = h.sems := rfl
@[simp] theorem Hw.modPool_learners (p : Nat) (g : Pool → Pool) : (h.modPool p g).learners = h.learners := rfl
@[simp] theorem Hw.modPool_routers (p : Nat) (g : Pool → Pool) : (h.modPool p g).routers = h.routers := rfl
@[simp] theorem Hw.modPool_secUsed (p : Nat) (g : Pool → Pool) : (h.modPool p g).secUsed = h.secUsed := rfl
@[simp] theorem Hw.modPool_acct (p : Nat) (g : Pool → Pool) : (h.modPool p g).acct = h.acct := rfl
@[simp] theorem Hw.modPool_tasks (p : Nat) (g : Pool → Pool) : (h.modPool p g).tasks = h.tasks := rfl
@[simp] theorem Hw.modPool_pairs (p : Nat) (g : Pool → Pool) : (h.modPool p g).pairs = h.pairs := rfl
@[simp] theorem Hw.modPool_fed (p : Nat) (g : Pool → Pool) : (h.modPool p g).fed = h.fed := rfl
@[simp] theorem Hw.modPool_journal (p : Nat) (g : Pool → Pool) : (h.modPool p g).journal = h.journal := rfl
@[simp] theorem Hw.modPool_engineSeedUsed (p : Nat) (g : Pool → Pool) : (h.modPool p g).engineSeedUsed = h.engineSeedUsed := rfl
@[simp] theorem Hw.modPool_expRings (p : Nat) (g : Pool → Pool) : (h.modPool p g).expRings = h.expRings := rfl
@[simp] theorem Hw.modPool_faults (p : Nat) (g : Pool → Pool) : (h.modPool p g).faults = h.faults := rfl
@[simp] theorem Hw.modPool_out (p : Nat) (g : Pool → Pool) : (h.modPool p g).out = h.out := rfl

/-! `Hw.setJob` -/

@[simp] theorem Hw.setJob_cc (f : Nat) (u : Bool) (j : Job) : (h.setJob f u j).cc = h.cc := rfl
@[simp] theorem Hw.setJob_clk (f : Nat) (u : Bool) (j : Job) : (h.setJob f u j).clk = h.clk := rfl
@[simp] theorem Hw.setJob_eng (f : Nat) (u : Bool) (j : Job) : (h.setJob f u j).eng = h.eng := rfl
@[simp] theorem Hw.setJob_pins (f : Nat) (u : Bool) (j : Job) : (h.setJob f u j).pins = h.pins := rfl
@[simp] theorem Hw.setJob_od (f : Nat) (u : Bool) (j : Job) : (h.setJob f u j).od = h.od := rfl
@[simp] theorem Hw.setJob_dom (f : Nat) (u : Bool) (j : Job) : (h.setJob f u j).dom = h.dom := rfl
@[simp] theorem Hw.setJob_ccNext (f : Nat) (u : Bool) (j : Job) : (h.setJob f u j).ccNext = h.ccNext := rfl
@[simp] theorem Hw.setJob_ccOnce (f : Nat) (u : Bool) (j : Job) : (h.setJob f u j).ccOnce = h.ccOnce := rfl
@[simp] theorem Hw.setJob_ccSnap (f : Nat) (u : Bool) (j : Job) : (h.setJob f u j).ccSnap = h.ccSnap := rfl
@[simp] theorem Hw.setJob_imageLive (f : Nat) (u : Bool) (j : Job) : (h.setJob f u j).imageLive = h.imageLive := rfl
@[simp] theorem Hw.setJob_adm (f : Nat) (u : Bool) (j : Job) : (h.setJob f u j).adm = h.adm := rfl
@[simp] theorem Hw.setJob_budgetNs (f : Nat) (u : Bool) (j : Job) : (h.setJob f u j).budgetNs = h.budgetNs := rfl
@[simp] theorem Hw.setJob_descDone (f : Nat) (u : Bool) (j : Job) : (h.setJob f u j).descDone = h.descDone := rfl
@[simp] theorem Hw.setJob_expReadNs (f : Nat) (u : Bool) (j : Job) : (h.setJob f u j).expReadNs = h.expReadNs := rfl
@[simp] theorem Hw.setJob_hostReads (f : Nat) (u : Bool) (j : Job) : (h.setJob f u j).hostReads = h.hostReads := rfl
@[simp] theorem Hw.setJob_snaps (f : Nat) (u : Bool) (j : Job) : (h.setJob f u j).snaps = h.snaps := rfl
@[simp] theorem Hw.setJob_staged (f : Nat) (u : Bool) (j : Job) : (h.setJob f u j).staged = h.staged := rfl
@[simp] theorem Hw.setJob_side (f : Nat) (u : Bool) (j : Job) : (h.setJob f u j).side = h.side := rfl
@[simp] theorem Hw.setJob_irq (f : Nat) (u : Bool) (j : Job) : (h.setJob f u j).irq = h.irq := rfl
@[simp] theorem Hw.setJob_events (f : Nat) (u : Bool) (j : Job) : (h.setJob f u j).events = h.events := rfl
@[simp] theorem Hw.setJob_trace (f : Nat) (u : Bool) (j : Job) : (h.setJob f u j).trace = h.trace := rfl
@[simp] theorem Hw.setJob_rings (f : Nat) (u : Bool) (j : Job) : (h.setJob f u j).rings = h.rings := rfl
@[simp] theorem Hw.setJob_turn (f : Nat) (u : Bool) (j : Job) : (h.setJob f u j).turn = h.turn := rfl
@[simp] theorem Hw.setJob_queues (f : Nat) (u : Bool) (j : Job) : (h.setJob f u j).queues = h.queues := rfl
@[simp] theorem Hw.setJob_seqs (f : Nat) (u : Bool) (j : Job) : (h.setJob f u j).seqs = h.seqs := rfl
@[simp] theorem Hw.setJob_gens (f : Nat) (u : Bool) (j : Job) : (h.setJob f u j).gens = h.gens := rfl
@[simp] theorem Hw.setJob_arrival (f : Nat) (u : Bool) (j : Job) : (h.setJob f u j).arrival = h.arrival := rfl
@[simp] theorem Hw.setJob_slotsFront (f : Nat) (u : Bool) (j : Job) : (h.setJob f u j).slotsFront = h.slotsFront := rfl
@[simp] theorem Hw.setJob_slotsFresh (f : Nat) (u : Bool) (j : Job) : (h.setJob f u j).slotsFresh = h.slotsFresh := rfl
@[simp] theorem Hw.setJob_slotsFreed (f : Nat) (u : Bool) (j : Job) : (h.setJob f u j).slotsFreed = h.slotsFreed := rfl
@[simp] theorem Hw.setJob_windows (f : Nat) (u : Bool) (j : Job) : (h.setJob f u j).windows = h.windows := rfl
@[simp] theorem Hw.setJob_facets (f : Nat) (u : Bool) (j : Job) : (h.setJob f u j).facets = h.facets := rfl
@[simp] theorem Hw.setJob_parts (f : Nat) (u : Bool) (j : Job) : (h.setJob f u j).parts = h.parts := rfl
@[simp] theorem Hw.setJob_descs (f : Nat) (u : Bool) (j : Job) : (h.setJob f u j).descs = h.descs := rfl
@[simp] theorem Hw.setJob_descFresh (f : Nat) (u : Bool) (j : Job) : (h.setJob f u j).descFresh = h.descFresh := rfl
@[simp] theorem Hw.setJob_descFreed (f : Nat) (u : Bool) (j : Job) : (h.setJob f u j).descFreed = h.descFreed := rfl
@[simp] theorem Hw.setJob_lastPart (f : Nat) (u : Bool) (j : Job) : (h.setJob f u j).lastPart = h.lastPart := rfl
@[simp] theorem Hw.setJob_funnel (f : Nat) (u : Bool) (j : Job) : (h.setJob f u j).funnel = h.funnel := rfl
@[simp] theorem Hw.setJob_reports (f : Nat) (u : Bool) (j : Job) : (h.setJob f u j).reports = h.reports := rfl
@[simp] theorem Hw.setJob_delays (f : Nat) (u : Bool) (j : Job) : (h.setJob f u j).delays = h.delays := rfl
@[simp] theorem Hw.setJob_mem (f : Nat) (u : Bool) (j : Job) : (h.setJob f u j).mem = h.mem := rfl
@[simp] theorem Hw.setJob_smp (f : Nat) (u : Bool) (j : Job) : (h.setJob f u j).smp = h.smp := rfl
@[simp] theorem Hw.setJob_pages (f : Nat) (u : Bool) (j : Job) : (h.setJob f u j).pages = h.pages := rfl
@[simp] theorem Hw.setJob_switches (f : Nat) (u : Bool) (j : Job) : (h.setJob f u j).switches = h.switches := rfl
@[simp] theorem Hw.setJob_images (f : Nat) (u : Bool) (j : Job) : (h.setJob f u j).images = h.images := rfl
@[simp] theorem Hw.setJob_ctxRecords (f : Nat) (u : Bool) (j : Job) : (h.setJob f u j).ctxRecords = h.ctxRecords := rfl
@[simp] theorem Hw.setJob_sems (f : Nat) (u : Bool) (j : Job) : (h.setJob f u j).sems = h.sems := rfl
@[simp] theorem Hw.setJob_learners (f : Nat) (u : Bool) (j : Job) : (h.setJob f u j).learners = h.learners := rfl
@[simp] theorem Hw.setJob_routers (f : Nat) (u : Bool) (j : Job) : (h.setJob f u j).routers = h.routers := rfl
@[simp] theorem Hw.setJob_secUsed (f : Nat) (u : Bool) (j : Job) : (h.setJob f u j).secUsed = h.secUsed := rfl
@[simp] theorem Hw.setJob_acct (f : Nat) (u : Bool) (j : Job) : (h.setJob f u j).acct = h.acct := rfl
@[simp] theorem Hw.setJob_tasks (f : Nat) (u : Bool) (j : Job) : (h.setJob f u j).tasks = h.tasks := rfl
@[simp] theorem Hw.setJob_pairs (f : Nat) (u : Bool) (j : Job) : (h.setJob f u j).pairs = h.pairs := rfl
@[simp] theorem Hw.setJob_fed (f : Nat) (u : Bool) (j : Job) : (h.setJob f u j).fed = h.fed := rfl
@[simp] theorem Hw.setJob_journal (f : Nat) (u : Bool) (j : Job) : (h.setJob f u j).journal = h.journal := rfl
@[simp] theorem Hw.setJob_engineSeedUsed (f : Nat) (u : Bool) (j : Job) : (h.setJob f u j).engineSeedUsed = h.engineSeedUsed := rfl
@[simp] theorem Hw.setJob_expRings (f : Nat) (u : Bool) (j : Job) : (h.setJob f u j).expRings = h.expRings := rfl
@[simp] theorem Hw.setJob_faults (f : Nat) (u : Bool) (j : Job) : (h.setJob f u j).faults = h.faults := rfl
@[simp] theorem Hw.setJob_out (f : Nat) (u : Bool) (j : Job) : (h.setJob f u j).out = h.out := rfl

/-! `Hw.modJob` -/

@[simp] theorem Hw.modJob_cc (f : Nat) (u : Bool) (g : Job → Job) : (h.modJob f u g).cc = h.cc := rfl
@[simp] theorem Hw.modJob_clk (f : Nat) (u : Bool) (g : Job → Job) : (h.modJob f u g).clk = h.clk := rfl
@[simp] theorem Hw.modJob_eng (f : Nat) (u : Bool) (g : Job → Job) : (h.modJob f u g).eng = h.eng := rfl
@[simp] theorem Hw.modJob_pins (f : Nat) (u : Bool) (g : Job → Job) : (h.modJob f u g).pins = h.pins := rfl
@[simp] theorem Hw.modJob_od (f : Nat) (u : Bool) (g : Job → Job) : (h.modJob f u g).od = h.od := rfl
@[simp] theorem Hw.modJob_dom (f : Nat) (u : Bool) (g : Job → Job) : (h.modJob f u g).dom = h.dom := rfl
@[simp] theorem Hw.modJob_ccNext (f : Nat) (u : Bool) (g : Job → Job) : (h.modJob f u g).ccNext = h.ccNext := rfl
@[simp] theorem Hw.modJob_ccOnce (f : Nat) (u : Bool) (g : Job → Job) : (h.modJob f u g).ccOnce = h.ccOnce := rfl
@[simp] theorem Hw.modJob_ccSnap (f : Nat) (u : Bool) (g : Job → Job) : (h.modJob f u g).ccSnap = h.ccSnap := rfl
@[simp] theorem Hw.modJob_imageLive (f : Nat) (u : Bool) (g : Job → Job) : (h.modJob f u g).imageLive = h.imageLive := rfl
@[simp] theorem Hw.modJob_adm (f : Nat) (u : Bool) (g : Job → Job) : (h.modJob f u g).adm = h.adm := rfl
@[simp] theorem Hw.modJob_budgetNs (f : Nat) (u : Bool) (g : Job → Job) : (h.modJob f u g).budgetNs = h.budgetNs := rfl
@[simp] theorem Hw.modJob_descDone (f : Nat) (u : Bool) (g : Job → Job) : (h.modJob f u g).descDone = h.descDone := rfl
@[simp] theorem Hw.modJob_expReadNs (f : Nat) (u : Bool) (g : Job → Job) : (h.modJob f u g).expReadNs = h.expReadNs := rfl
@[simp] theorem Hw.modJob_hostReads (f : Nat) (u : Bool) (g : Job → Job) : (h.modJob f u g).hostReads = h.hostReads := rfl
@[simp] theorem Hw.modJob_snaps (f : Nat) (u : Bool) (g : Job → Job) : (h.modJob f u g).snaps = h.snaps := rfl
@[simp] theorem Hw.modJob_staged (f : Nat) (u : Bool) (g : Job → Job) : (h.modJob f u g).staged = h.staged := rfl
@[simp] theorem Hw.modJob_side (f : Nat) (u : Bool) (g : Job → Job) : (h.modJob f u g).side = h.side := rfl
@[simp] theorem Hw.modJob_irq (f : Nat) (u : Bool) (g : Job → Job) : (h.modJob f u g).irq = h.irq := rfl
@[simp] theorem Hw.modJob_events (f : Nat) (u : Bool) (g : Job → Job) : (h.modJob f u g).events = h.events := rfl
@[simp] theorem Hw.modJob_trace (f : Nat) (u : Bool) (g : Job → Job) : (h.modJob f u g).trace = h.trace := rfl
@[simp] theorem Hw.modJob_rings (f : Nat) (u : Bool) (g : Job → Job) : (h.modJob f u g).rings = h.rings := rfl
@[simp] theorem Hw.modJob_turn (f : Nat) (u : Bool) (g : Job → Job) : (h.modJob f u g).turn = h.turn := rfl
@[simp] theorem Hw.modJob_queues (f : Nat) (u : Bool) (g : Job → Job) : (h.modJob f u g).queues = h.queues := rfl
@[simp] theorem Hw.modJob_seqs (f : Nat) (u : Bool) (g : Job → Job) : (h.modJob f u g).seqs = h.seqs := rfl
@[simp] theorem Hw.modJob_gens (f : Nat) (u : Bool) (g : Job → Job) : (h.modJob f u g).gens = h.gens := rfl
@[simp] theorem Hw.modJob_arrival (f : Nat) (u : Bool) (g : Job → Job) : (h.modJob f u g).arrival = h.arrival := rfl
@[simp] theorem Hw.modJob_slotsFront (f : Nat) (u : Bool) (g : Job → Job) : (h.modJob f u g).slotsFront = h.slotsFront := rfl
@[simp] theorem Hw.modJob_slotsFresh (f : Nat) (u : Bool) (g : Job → Job) : (h.modJob f u g).slotsFresh = h.slotsFresh := rfl
@[simp] theorem Hw.modJob_slotsFreed (f : Nat) (u : Bool) (g : Job → Job) : (h.modJob f u g).slotsFreed = h.slotsFreed := rfl
@[simp] theorem Hw.modJob_windows (f : Nat) (u : Bool) (g : Job → Job) : (h.modJob f u g).windows = h.windows := rfl
@[simp] theorem Hw.modJob_facets (f : Nat) (u : Bool) (g : Job → Job) : (h.modJob f u g).facets = h.facets := rfl
@[simp] theorem Hw.modJob_parts (f : Nat) (u : Bool) (g : Job → Job) : (h.modJob f u g).parts = h.parts := rfl
@[simp] theorem Hw.modJob_descs (f : Nat) (u : Bool) (g : Job → Job) : (h.modJob f u g).descs = h.descs := rfl
@[simp] theorem Hw.modJob_descFresh (f : Nat) (u : Bool) (g : Job → Job) : (h.modJob f u g).descFresh = h.descFresh := rfl
@[simp] theorem Hw.modJob_descFreed (f : Nat) (u : Bool) (g : Job → Job) : (h.modJob f u g).descFreed = h.descFreed := rfl
@[simp] theorem Hw.modJob_lastPart (f : Nat) (u : Bool) (g : Job → Job) : (h.modJob f u g).lastPart = h.lastPart := rfl
@[simp] theorem Hw.modJob_funnel (f : Nat) (u : Bool) (g : Job → Job) : (h.modJob f u g).funnel = h.funnel := rfl
@[simp] theorem Hw.modJob_reports (f : Nat) (u : Bool) (g : Job → Job) : (h.modJob f u g).reports = h.reports := rfl
@[simp] theorem Hw.modJob_delays (f : Nat) (u : Bool) (g : Job → Job) : (h.modJob f u g).delays = h.delays := rfl
@[simp] theorem Hw.modJob_mem (f : Nat) (u : Bool) (g : Job → Job) : (h.modJob f u g).mem = h.mem := rfl
@[simp] theorem Hw.modJob_smp (f : Nat) (u : Bool) (g : Job → Job) : (h.modJob f u g).smp = h.smp := rfl
@[simp] theorem Hw.modJob_pages (f : Nat) (u : Bool) (g : Job → Job) : (h.modJob f u g).pages = h.pages := rfl
@[simp] theorem Hw.modJob_switches (f : Nat) (u : Bool) (g : Job → Job) : (h.modJob f u g).switches = h.switches := rfl
@[simp] theorem Hw.modJob_images (f : Nat) (u : Bool) (g : Job → Job) : (h.modJob f u g).images = h.images := rfl
@[simp] theorem Hw.modJob_ctxRecords (f : Nat) (u : Bool) (g : Job → Job) : (h.modJob f u g).ctxRecords = h.ctxRecords := rfl
@[simp] theorem Hw.modJob_sems (f : Nat) (u : Bool) (g : Job → Job) : (h.modJob f u g).sems = h.sems := rfl
@[simp] theorem Hw.modJob_learners (f : Nat) (u : Bool) (g : Job → Job) : (h.modJob f u g).learners = h.learners := rfl
@[simp] theorem Hw.modJob_routers (f : Nat) (u : Bool) (g : Job → Job) : (h.modJob f u g).routers = h.routers := rfl
@[simp] theorem Hw.modJob_secUsed (f : Nat) (u : Bool) (g : Job → Job) : (h.modJob f u g).secUsed = h.secUsed := rfl
@[simp] theorem Hw.modJob_acct (f : Nat) (u : Bool) (g : Job → Job) : (h.modJob f u g).acct = h.acct := rfl
@[simp] theorem Hw.modJob_tasks (f : Nat) (u : Bool) (g : Job → Job) : (h.modJob f u g).tasks = h.tasks := rfl
@[simp] theorem Hw.modJob_pairs (f : Nat) (u : Bool) (g : Job → Job) : (h.modJob f u g).pairs = h.pairs := rfl
@[simp] theorem Hw.modJob_fed (f : Nat) (u : Bool) (g : Job → Job) : (h.modJob f u g).fed = h.fed := rfl
@[simp] theorem Hw.modJob_journal (f : Nat) (u : Bool) (g : Job → Job) : (h.modJob f u g).journal = h.journal := rfl
@[simp] theorem Hw.modJob_engineSeedUsed (f : Nat) (u : Bool) (g : Job → Job) : (h.modJob f u g).engineSeedUsed = h.engineSeedUsed := rfl
@[simp] theorem Hw.modJob_expRings (f : Nat) (u : Bool) (g : Job → Job) : (h.modJob f u g).expRings = h.expRings := rfl
@[simp] theorem Hw.modJob_faults (f : Nat) (u : Bool) (g : Job → Job) : (h.modJob f u g).faults = h.faults := rfl
@[simp] theorem Hw.modJob_out (f : Nat) (u : Bool) (g : Job → Job) : (h.modJob f u g).out = h.out := rfl

/-! `Hw.modSem` -/

@[simp] theorem Hw.modSem_cc (n : Nat) (g : Sem → Sem) : (h.modSem n g).cc = h.cc := rfl
@[simp] theorem Hw.modSem_clk (n : Nat) (g : Sem → Sem) : (h.modSem n g).clk = h.clk := rfl
@[simp] theorem Hw.modSem_eng (n : Nat) (g : Sem → Sem) : (h.modSem n g).eng = h.eng := rfl
@[simp] theorem Hw.modSem_pins (n : Nat) (g : Sem → Sem) : (h.modSem n g).pins = h.pins := rfl
@[simp] theorem Hw.modSem_od (n : Nat) (g : Sem → Sem) : (h.modSem n g).od = h.od := rfl
@[simp] theorem Hw.modSem_dom (n : Nat) (g : Sem → Sem) : (h.modSem n g).dom = h.dom := rfl
@[simp] theorem Hw.modSem_ccNext (n : Nat) (g : Sem → Sem) : (h.modSem n g).ccNext = h.ccNext := rfl
@[simp] theorem Hw.modSem_ccOnce (n : Nat) (g : Sem → Sem) : (h.modSem n g).ccOnce = h.ccOnce := rfl
@[simp] theorem Hw.modSem_ccSnap (n : Nat) (g : Sem → Sem) : (h.modSem n g).ccSnap = h.ccSnap := rfl
@[simp] theorem Hw.modSem_imageLive (n : Nat) (g : Sem → Sem) : (h.modSem n g).imageLive = h.imageLive := rfl
@[simp] theorem Hw.modSem_adm (n : Nat) (g : Sem → Sem) : (h.modSem n g).adm = h.adm := rfl
@[simp] theorem Hw.modSem_budgetNs (n : Nat) (g : Sem → Sem) : (h.modSem n g).budgetNs = h.budgetNs := rfl
@[simp] theorem Hw.modSem_descDone (n : Nat) (g : Sem → Sem) : (h.modSem n g).descDone = h.descDone := rfl
@[simp] theorem Hw.modSem_expReadNs (n : Nat) (g : Sem → Sem) : (h.modSem n g).expReadNs = h.expReadNs := rfl
@[simp] theorem Hw.modSem_hostReads (n : Nat) (g : Sem → Sem) : (h.modSem n g).hostReads = h.hostReads := rfl
@[simp] theorem Hw.modSem_snaps (n : Nat) (g : Sem → Sem) : (h.modSem n g).snaps = h.snaps := rfl
@[simp] theorem Hw.modSem_staged (n : Nat) (g : Sem → Sem) : (h.modSem n g).staged = h.staged := rfl
@[simp] theorem Hw.modSem_side (n : Nat) (g : Sem → Sem) : (h.modSem n g).side = h.side := rfl
@[simp] theorem Hw.modSem_irq (n : Nat) (g : Sem → Sem) : (h.modSem n g).irq = h.irq := rfl
@[simp] theorem Hw.modSem_events (n : Nat) (g : Sem → Sem) : (h.modSem n g).events = h.events := rfl
@[simp] theorem Hw.modSem_trace (n : Nat) (g : Sem → Sem) : (h.modSem n g).trace = h.trace := rfl
@[simp] theorem Hw.modSem_rings (n : Nat) (g : Sem → Sem) : (h.modSem n g).rings = h.rings := rfl
@[simp] theorem Hw.modSem_turn (n : Nat) (g : Sem → Sem) : (h.modSem n g).turn = h.turn := rfl
@[simp] theorem Hw.modSem_queues (n : Nat) (g : Sem → Sem) : (h.modSem n g).queues = h.queues := rfl
@[simp] theorem Hw.modSem_seqs (n : Nat) (g : Sem → Sem) : (h.modSem n g).seqs = h.seqs := rfl
@[simp] theorem Hw.modSem_gens (n : Nat) (g : Sem → Sem) : (h.modSem n g).gens = h.gens := rfl
@[simp] theorem Hw.modSem_arrival (n : Nat) (g : Sem → Sem) : (h.modSem n g).arrival = h.arrival := rfl
@[simp] theorem Hw.modSem_slotsFront (n : Nat) (g : Sem → Sem) : (h.modSem n g).slotsFront = h.slotsFront := rfl
@[simp] theorem Hw.modSem_slotsFresh (n : Nat) (g : Sem → Sem) : (h.modSem n g).slotsFresh = h.slotsFresh := rfl
@[simp] theorem Hw.modSem_slotsFreed (n : Nat) (g : Sem → Sem) : (h.modSem n g).slotsFreed = h.slotsFreed := rfl
@[simp] theorem Hw.modSem_windows (n : Nat) (g : Sem → Sem) : (h.modSem n g).windows = h.windows := rfl
@[simp] theorem Hw.modSem_facets (n : Nat) (g : Sem → Sem) : (h.modSem n g).facets = h.facets := rfl
@[simp] theorem Hw.modSem_parts (n : Nat) (g : Sem → Sem) : (h.modSem n g).parts = h.parts := rfl
@[simp] theorem Hw.modSem_descs (n : Nat) (g : Sem → Sem) : (h.modSem n g).descs = h.descs := rfl
@[simp] theorem Hw.modSem_descFresh (n : Nat) (g : Sem → Sem) : (h.modSem n g).descFresh = h.descFresh := rfl
@[simp] theorem Hw.modSem_descFreed (n : Nat) (g : Sem → Sem) : (h.modSem n g).descFreed = h.descFreed := rfl
@[simp] theorem Hw.modSem_lastPart (n : Nat) (g : Sem → Sem) : (h.modSem n g).lastPart = h.lastPart := rfl
@[simp] theorem Hw.modSem_funnel (n : Nat) (g : Sem → Sem) : (h.modSem n g).funnel = h.funnel := rfl
@[simp] theorem Hw.modSem_reports (n : Nat) (g : Sem → Sem) : (h.modSem n g).reports = h.reports := rfl
@[simp] theorem Hw.modSem_delays (n : Nat) (g : Sem → Sem) : (h.modSem n g).delays = h.delays := rfl
@[simp] theorem Hw.modSem_mem (n : Nat) (g : Sem → Sem) : (h.modSem n g).mem = h.mem := rfl
@[simp] theorem Hw.modSem_smp (n : Nat) (g : Sem → Sem) : (h.modSem n g).smp = h.smp := rfl
@[simp] theorem Hw.modSem_pages (n : Nat) (g : Sem → Sem) : (h.modSem n g).pages = h.pages := rfl
@[simp] theorem Hw.modSem_jobs (n : Nat) (g : Sem → Sem) : (h.modSem n g).jobs = h.jobs := rfl
@[simp] theorem Hw.modSem_switches (n : Nat) (g : Sem → Sem) : (h.modSem n g).switches = h.switches := rfl
@[simp] theorem Hw.modSem_images (n : Nat) (g : Sem → Sem) : (h.modSem n g).images = h.images := rfl
@[simp] theorem Hw.modSem_ctxRecords (n : Nat) (g : Sem → Sem) : (h.modSem n g).ctxRecords = h.ctxRecords := rfl
@[simp] theorem Hw.modSem_learners (n : Nat) (g : Sem → Sem) : (h.modSem n g).learners = h.learners := rfl
@[simp] theorem Hw.modSem_routers (n : Nat) (g : Sem → Sem) : (h.modSem n g).routers = h.routers := rfl
@[simp] theorem Hw.modSem_secUsed (n : Nat) (g : Sem → Sem) : (h.modSem n g).secUsed = h.secUsed := rfl
@[simp] theorem Hw.modSem_acct (n : Nat) (g : Sem → Sem) : (h.modSem n g).acct = h.acct := rfl
@[simp] theorem Hw.modSem_tasks (n : Nat) (g : Sem → Sem) : (h.modSem n g).tasks = h.tasks := rfl
@[simp] theorem Hw.modSem_pairs (n : Nat) (g : Sem → Sem) : (h.modSem n g).pairs = h.pairs := rfl
@[simp] theorem Hw.modSem_fed (n : Nat) (g : Sem → Sem) : (h.modSem n g).fed = h.fed := rfl
@[simp] theorem Hw.modSem_journal (n : Nat) (g : Sem → Sem) : (h.modSem n g).journal = h.journal := rfl
@[simp] theorem Hw.modSem_engineSeedUsed (n : Nat) (g : Sem → Sem) : (h.modSem n g).engineSeedUsed = h.engineSeedUsed := rfl
@[simp] theorem Hw.modSem_expRings (n : Nat) (g : Sem → Sem) : (h.modSem n g).expRings = h.expRings := rfl
@[simp] theorem Hw.modSem_faults (n : Nat) (g : Sem → Sem) : (h.modSem n g).faults = h.faults := rfl
@[simp] theorem Hw.modSem_out (n : Nat) (g : Sem → Sem) : (h.modSem n g).out = h.out := rfl

/-! `Hw.modLearner` -/

@[simp] theorem Hw.modLearner_cc (n : Nat) (g : Learner → Learner) : (h.modLearner n g).cc = h.cc := rfl
@[simp] theorem Hw.modLearner_clk (n : Nat) (g : Learner → Learner) : (h.modLearner n g).clk = h.clk := rfl
@[simp] theorem Hw.modLearner_eng (n : Nat) (g : Learner → Learner) : (h.modLearner n g).eng = h.eng := rfl
@[simp] theorem Hw.modLearner_pins (n : Nat) (g : Learner → Learner) : (h.modLearner n g).pins = h.pins := rfl
@[simp] theorem Hw.modLearner_od (n : Nat) (g : Learner → Learner) : (h.modLearner n g).od = h.od := rfl
@[simp] theorem Hw.modLearner_dom (n : Nat) (g : Learner → Learner) : (h.modLearner n g).dom = h.dom := rfl
@[simp] theorem Hw.modLearner_ccNext (n : Nat) (g : Learner → Learner) : (h.modLearner n g).ccNext = h.ccNext := rfl
@[simp] theorem Hw.modLearner_ccOnce (n : Nat) (g : Learner → Learner) : (h.modLearner n g).ccOnce = h.ccOnce := rfl
@[simp] theorem Hw.modLearner_ccSnap (n : Nat) (g : Learner → Learner) : (h.modLearner n g).ccSnap = h.ccSnap := rfl
@[simp] theorem Hw.modLearner_imageLive (n : Nat) (g : Learner → Learner) : (h.modLearner n g).imageLive = h.imageLive := rfl
@[simp] theorem Hw.modLearner_adm (n : Nat) (g : Learner → Learner) : (h.modLearner n g).adm = h.adm := rfl
@[simp] theorem Hw.modLearner_budgetNs (n : Nat) (g : Learner → Learner) : (h.modLearner n g).budgetNs = h.budgetNs := rfl
@[simp] theorem Hw.modLearner_descDone (n : Nat) (g : Learner → Learner) : (h.modLearner n g).descDone = h.descDone := rfl
@[simp] theorem Hw.modLearner_expReadNs (n : Nat) (g : Learner → Learner) : (h.modLearner n g).expReadNs = h.expReadNs := rfl
@[simp] theorem Hw.modLearner_hostReads (n : Nat) (g : Learner → Learner) : (h.modLearner n g).hostReads = h.hostReads := rfl
@[simp] theorem Hw.modLearner_snaps (n : Nat) (g : Learner → Learner) : (h.modLearner n g).snaps = h.snaps := rfl
@[simp] theorem Hw.modLearner_staged (n : Nat) (g : Learner → Learner) : (h.modLearner n g).staged = h.staged := rfl
@[simp] theorem Hw.modLearner_side (n : Nat) (g : Learner → Learner) : (h.modLearner n g).side = h.side := rfl
@[simp] theorem Hw.modLearner_irq (n : Nat) (g : Learner → Learner) : (h.modLearner n g).irq = h.irq := rfl
@[simp] theorem Hw.modLearner_events (n : Nat) (g : Learner → Learner) : (h.modLearner n g).events = h.events := rfl
@[simp] theorem Hw.modLearner_trace (n : Nat) (g : Learner → Learner) : (h.modLearner n g).trace = h.trace := rfl
@[simp] theorem Hw.modLearner_rings (n : Nat) (g : Learner → Learner) : (h.modLearner n g).rings = h.rings := rfl
@[simp] theorem Hw.modLearner_turn (n : Nat) (g : Learner → Learner) : (h.modLearner n g).turn = h.turn := rfl
@[simp] theorem Hw.modLearner_queues (n : Nat) (g : Learner → Learner) : (h.modLearner n g).queues = h.queues := rfl
@[simp] theorem Hw.modLearner_seqs (n : Nat) (g : Learner → Learner) : (h.modLearner n g).seqs = h.seqs := rfl
@[simp] theorem Hw.modLearner_gens (n : Nat) (g : Learner → Learner) : (h.modLearner n g).gens = h.gens := rfl
@[simp] theorem Hw.modLearner_arrival (n : Nat) (g : Learner → Learner) : (h.modLearner n g).arrival = h.arrival := rfl
@[simp] theorem Hw.modLearner_slotsFront (n : Nat) (g : Learner → Learner) : (h.modLearner n g).slotsFront = h.slotsFront := rfl
@[simp] theorem Hw.modLearner_slotsFresh (n : Nat) (g : Learner → Learner) : (h.modLearner n g).slotsFresh = h.slotsFresh := rfl
@[simp] theorem Hw.modLearner_slotsFreed (n : Nat) (g : Learner → Learner) : (h.modLearner n g).slotsFreed = h.slotsFreed := rfl
@[simp] theorem Hw.modLearner_windows (n : Nat) (g : Learner → Learner) : (h.modLearner n g).windows = h.windows := rfl
@[simp] theorem Hw.modLearner_facets (n : Nat) (g : Learner → Learner) : (h.modLearner n g).facets = h.facets := rfl
@[simp] theorem Hw.modLearner_parts (n : Nat) (g : Learner → Learner) : (h.modLearner n g).parts = h.parts := rfl
@[simp] theorem Hw.modLearner_descs (n : Nat) (g : Learner → Learner) : (h.modLearner n g).descs = h.descs := rfl
@[simp] theorem Hw.modLearner_descFresh (n : Nat) (g : Learner → Learner) : (h.modLearner n g).descFresh = h.descFresh := rfl
@[simp] theorem Hw.modLearner_descFreed (n : Nat) (g : Learner → Learner) : (h.modLearner n g).descFreed = h.descFreed := rfl
@[simp] theorem Hw.modLearner_lastPart (n : Nat) (g : Learner → Learner) : (h.modLearner n g).lastPart = h.lastPart := rfl
@[simp] theorem Hw.modLearner_funnel (n : Nat) (g : Learner → Learner) : (h.modLearner n g).funnel = h.funnel := rfl
@[simp] theorem Hw.modLearner_reports (n : Nat) (g : Learner → Learner) : (h.modLearner n g).reports = h.reports := rfl
@[simp] theorem Hw.modLearner_delays (n : Nat) (g : Learner → Learner) : (h.modLearner n g).delays = h.delays := rfl
@[simp] theorem Hw.modLearner_mem (n : Nat) (g : Learner → Learner) : (h.modLearner n g).mem = h.mem := rfl
@[simp] theorem Hw.modLearner_smp (n : Nat) (g : Learner → Learner) : (h.modLearner n g).smp = h.smp := rfl
@[simp] theorem Hw.modLearner_pages (n : Nat) (g : Learner → Learner) : (h.modLearner n g).pages = h.pages := rfl
@[simp] theorem Hw.modLearner_jobs (n : Nat) (g : Learner → Learner) : (h.modLearner n g).jobs = h.jobs := rfl
@[simp] theorem Hw.modLearner_switches (n : Nat) (g : Learner → Learner) : (h.modLearner n g).switches = h.switches := rfl
@[simp] theorem Hw.modLearner_images (n : Nat) (g : Learner → Learner) : (h.modLearner n g).images = h.images := rfl
@[simp] theorem Hw.modLearner_ctxRecords (n : Nat) (g : Learner → Learner) : (h.modLearner n g).ctxRecords = h.ctxRecords := rfl
@[simp] theorem Hw.modLearner_sems (n : Nat) (g : Learner → Learner) : (h.modLearner n g).sems = h.sems := rfl
@[simp] theorem Hw.modLearner_routers (n : Nat) (g : Learner → Learner) : (h.modLearner n g).routers = h.routers := rfl
@[simp] theorem Hw.modLearner_secUsed (n : Nat) (g : Learner → Learner) : (h.modLearner n g).secUsed = h.secUsed := rfl
@[simp] theorem Hw.modLearner_acct (n : Nat) (g : Learner → Learner) : (h.modLearner n g).acct = h.acct := rfl
@[simp] theorem Hw.modLearner_tasks (n : Nat) (g : Learner → Learner) : (h.modLearner n g).tasks = h.tasks := rfl
@[simp] theorem Hw.modLearner_pairs (n : Nat) (g : Learner → Learner) : (h.modLearner n g).pairs = h.pairs := rfl
@[simp] theorem Hw.modLearner_fed (n : Nat) (g : Learner → Learner) : (h.modLearner n g).fed = h.fed := rfl
@[simp] theorem Hw.modLearner_journal (n : Nat) (g : Learner → Learner) : (h.modLearner n g).journal = h.journal := rfl
@[simp] theorem Hw.modLearner_engineSeedUsed (n : Nat) (g : Learner → Learner) : (h.modLearner n g).engineSeedUsed = h.engineSeedUsed := rfl
@[simp] theorem Hw.modLearner_expRings (n : Nat) (g : Learner → Learner) : (h.modLearner n g).expRings = h.expRings := rfl
@[simp] theorem Hw.modLearner_faults (n : Nat) (g : Learner → Learner) : (h.modLearner n g).faults = h.faults := rfl
@[simp] theorem Hw.modLearner_out (n : Nat) (g : Learner → Learner) : (h.modLearner n g).out = h.out := rfl

/-! `Hw.modTask` -/

@[simp] theorem Hw.modTask_cc (n : Nat) (g : Task → Task) : (h.modTask n g).cc = h.cc := rfl
@[simp] theorem Hw.modTask_clk (n : Nat) (g : Task → Task) : (h.modTask n g).clk = h.clk := rfl
@[simp] theorem Hw.modTask_eng (n : Nat) (g : Task → Task) : (h.modTask n g).eng = h.eng := rfl
@[simp] theorem Hw.modTask_pins (n : Nat) (g : Task → Task) : (h.modTask n g).pins = h.pins := rfl
@[simp] theorem Hw.modTask_od (n : Nat) (g : Task → Task) : (h.modTask n g).od = h.od := rfl
@[simp] theorem Hw.modTask_dom (n : Nat) (g : Task → Task) : (h.modTask n g).dom = h.dom := rfl
@[simp] theorem Hw.modTask_ccNext (n : Nat) (g : Task → Task) : (h.modTask n g).ccNext = h.ccNext := rfl
@[simp] theorem Hw.modTask_ccOnce (n : Nat) (g : Task → Task) : (h.modTask n g).ccOnce = h.ccOnce := rfl
@[simp] theorem Hw.modTask_ccSnap (n : Nat) (g : Task → Task) : (h.modTask n g).ccSnap = h.ccSnap := rfl
@[simp] theorem Hw.modTask_imageLive (n : Nat) (g : Task → Task) : (h.modTask n g).imageLive = h.imageLive := rfl
@[simp] theorem Hw.modTask_adm (n : Nat) (g : Task → Task) : (h.modTask n g).adm = h.adm := rfl
@[simp] theorem Hw.modTask_budgetNs (n : Nat) (g : Task → Task) : (h.modTask n g).budgetNs = h.budgetNs := rfl
@[simp] theorem Hw.modTask_descDone (n : Nat) (g : Task → Task) : (h.modTask n g).descDone = h.descDone := rfl
@[simp] theorem Hw.modTask_expReadNs (n : Nat) (g : Task → Task) : (h.modTask n g).expReadNs = h.expReadNs := rfl
@[simp] theorem Hw.modTask_hostReads (n : Nat) (g : Task → Task) : (h.modTask n g).hostReads = h.hostReads := rfl
@[simp] theorem Hw.modTask_snaps (n : Nat) (g : Task → Task) : (h.modTask n g).snaps = h.snaps := rfl
@[simp] theorem Hw.modTask_staged (n : Nat) (g : Task → Task) : (h.modTask n g).staged = h.staged := rfl
@[simp] theorem Hw.modTask_side (n : Nat) (g : Task → Task) : (h.modTask n g).side = h.side := rfl
@[simp] theorem Hw.modTask_irq (n : Nat) (g : Task → Task) : (h.modTask n g).irq = h.irq := rfl
@[simp] theorem Hw.modTask_events (n : Nat) (g : Task → Task) : (h.modTask n g).events = h.events := rfl
@[simp] theorem Hw.modTask_trace (n : Nat) (g : Task → Task) : (h.modTask n g).trace = h.trace := rfl
@[simp] theorem Hw.modTask_rings (n : Nat) (g : Task → Task) : (h.modTask n g).rings = h.rings := rfl
@[simp] theorem Hw.modTask_turn (n : Nat) (g : Task → Task) : (h.modTask n g).turn = h.turn := rfl
@[simp] theorem Hw.modTask_queues (n : Nat) (g : Task → Task) : (h.modTask n g).queues = h.queues := rfl
@[simp] theorem Hw.modTask_seqs (n : Nat) (g : Task → Task) : (h.modTask n g).seqs = h.seqs := rfl
@[simp] theorem Hw.modTask_gens (n : Nat) (g : Task → Task) : (h.modTask n g).gens = h.gens := rfl
@[simp] theorem Hw.modTask_arrival (n : Nat) (g : Task → Task) : (h.modTask n g).arrival = h.arrival := rfl
@[simp] theorem Hw.modTask_slotsFront (n : Nat) (g : Task → Task) : (h.modTask n g).slotsFront = h.slotsFront := rfl
@[simp] theorem Hw.modTask_slotsFresh (n : Nat) (g : Task → Task) : (h.modTask n g).slotsFresh = h.slotsFresh := rfl
@[simp] theorem Hw.modTask_slotsFreed (n : Nat) (g : Task → Task) : (h.modTask n g).slotsFreed = h.slotsFreed := rfl
@[simp] theorem Hw.modTask_windows (n : Nat) (g : Task → Task) : (h.modTask n g).windows = h.windows := rfl
@[simp] theorem Hw.modTask_facets (n : Nat) (g : Task → Task) : (h.modTask n g).facets = h.facets := rfl
@[simp] theorem Hw.modTask_parts (n : Nat) (g : Task → Task) : (h.modTask n g).parts = h.parts := rfl
@[simp] theorem Hw.modTask_descs (n : Nat) (g : Task → Task) : (h.modTask n g).descs = h.descs := rfl
@[simp] theorem Hw.modTask_descFresh (n : Nat) (g : Task → Task) : (h.modTask n g).descFresh = h.descFresh := rfl
@[simp] theorem Hw.modTask_descFreed (n : Nat) (g : Task → Task) : (h.modTask n g).descFreed = h.descFreed := rfl
@[simp] theorem Hw.modTask_lastPart (n : Nat) (g : Task → Task) : (h.modTask n g).lastPart = h.lastPart := rfl
@[simp] theorem Hw.modTask_funnel (n : Nat) (g : Task → Task) : (h.modTask n g).funnel = h.funnel := rfl
@[simp] theorem Hw.modTask_reports (n : Nat) (g : Task → Task) : (h.modTask n g).reports = h.reports := rfl
@[simp] theorem Hw.modTask_delays (n : Nat) (g : Task → Task) : (h.modTask n g).delays = h.delays := rfl
@[simp] theorem Hw.modTask_mem (n : Nat) (g : Task → Task) : (h.modTask n g).mem = h.mem := rfl
@[simp] theorem Hw.modTask_smp (n : Nat) (g : Task → Task) : (h.modTask n g).smp = h.smp := rfl
@[simp] theorem Hw.modTask_pages (n : Nat) (g : Task → Task) : (h.modTask n g).pages = h.pages := rfl
@[simp] theorem Hw.modTask_jobs (n : Nat) (g : Task → Task) : (h.modTask n g).jobs = h.jobs := rfl
@[simp] theorem Hw.modTask_switches (n : Nat) (g : Task → Task) : (h.modTask n g).switches = h.switches := rfl
@[simp] theorem Hw.modTask_images (n : Nat) (g : Task → Task) : (h.modTask n g).images = h.images := rfl
@[simp] theorem Hw.modTask_ctxRecords (n : Nat) (g : Task → Task) : (h.modTask n g).ctxRecords = h.ctxRecords := rfl
@[simp] theorem Hw.modTask_sems (n : Nat) (g : Task → Task) : (h.modTask n g).sems = h.sems := rfl
@[simp] theorem Hw.modTask_learners (n : Nat) (g : Task → Task) : (h.modTask n g).learners = h.learners := rfl
@[simp] theorem Hw.modTask_routers (n : Nat) (g : Task → Task) : (h.modTask n g).routers = h.routers := rfl
@[simp] theorem Hw.modTask_secUsed (n : Nat) (g : Task → Task) : (h.modTask n g).secUsed = h.secUsed := rfl
@[simp] theorem Hw.modTask_acct (n : Nat) (g : Task → Task) : (h.modTask n g).acct = h.acct := rfl
@[simp] theorem Hw.modTask_pairs (n : Nat) (g : Task → Task) : (h.modTask n g).pairs = h.pairs := rfl
@[simp] theorem Hw.modTask_fed (n : Nat) (g : Task → Task) : (h.modTask n g).fed = h.fed := rfl
@[simp] theorem Hw.modTask_journal (n : Nat) (g : Task → Task) : (h.modTask n g).journal = h.journal := rfl
@[simp] theorem Hw.modTask_engineSeedUsed (n : Nat) (g : Task → Task) : (h.modTask n g).engineSeedUsed = h.engineSeedUsed := rfl
@[simp] theorem Hw.modTask_expRings (n : Nat) (g : Task → Task) : (h.modTask n g).expRings = h.expRings := rfl
@[simp] theorem Hw.modTask_faults (n : Nat) (g : Task → Task) : (h.modTask n g).faults = h.faults := rfl
@[simp] theorem Hw.modTask_out (n : Nat) (g : Task → Task) : (h.modTask n g).out = h.out := rfl

/-! `Hw.modDelay` -/

@[simp] theorem Hw.modDelay_cc (n : Nat) (g : DelayList → DelayList) : (h.modDelay n g).cc = h.cc := rfl
@[simp] theorem Hw.modDelay_clk (n : Nat) (g : DelayList → DelayList) : (h.modDelay n g).clk = h.clk := rfl
@[simp] theorem Hw.modDelay_eng (n : Nat) (g : DelayList → DelayList) : (h.modDelay n g).eng = h.eng := rfl
@[simp] theorem Hw.modDelay_pins (n : Nat) (g : DelayList → DelayList) : (h.modDelay n g).pins = h.pins := rfl
@[simp] theorem Hw.modDelay_od (n : Nat) (g : DelayList → DelayList) : (h.modDelay n g).od = h.od := rfl
@[simp] theorem Hw.modDelay_dom (n : Nat) (g : DelayList → DelayList) : (h.modDelay n g).dom = h.dom := rfl
@[simp] theorem Hw.modDelay_ccNext (n : Nat) (g : DelayList → DelayList) : (h.modDelay n g).ccNext = h.ccNext := rfl
@[simp] theorem Hw.modDelay_ccOnce (n : Nat) (g : DelayList → DelayList) : (h.modDelay n g).ccOnce = h.ccOnce := rfl
@[simp] theorem Hw.modDelay_ccSnap (n : Nat) (g : DelayList → DelayList) : (h.modDelay n g).ccSnap = h.ccSnap := rfl
@[simp] theorem Hw.modDelay_imageLive (n : Nat) (g : DelayList → DelayList) : (h.modDelay n g).imageLive = h.imageLive := rfl
@[simp] theorem Hw.modDelay_adm (n : Nat) (g : DelayList → DelayList) : (h.modDelay n g).adm = h.adm := rfl
@[simp] theorem Hw.modDelay_budgetNs (n : Nat) (g : DelayList → DelayList) : (h.modDelay n g).budgetNs = h.budgetNs := rfl
@[simp] theorem Hw.modDelay_descDone (n : Nat) (g : DelayList → DelayList) : (h.modDelay n g).descDone = h.descDone := rfl
@[simp] theorem Hw.modDelay_expReadNs (n : Nat) (g : DelayList → DelayList) : (h.modDelay n g).expReadNs = h.expReadNs := rfl
@[simp] theorem Hw.modDelay_hostReads (n : Nat) (g : DelayList → DelayList) : (h.modDelay n g).hostReads = h.hostReads := rfl
@[simp] theorem Hw.modDelay_snaps (n : Nat) (g : DelayList → DelayList) : (h.modDelay n g).snaps = h.snaps := rfl
@[simp] theorem Hw.modDelay_staged (n : Nat) (g : DelayList → DelayList) : (h.modDelay n g).staged = h.staged := rfl
@[simp] theorem Hw.modDelay_side (n : Nat) (g : DelayList → DelayList) : (h.modDelay n g).side = h.side := rfl
@[simp] theorem Hw.modDelay_irq (n : Nat) (g : DelayList → DelayList) : (h.modDelay n g).irq = h.irq := rfl
@[simp] theorem Hw.modDelay_events (n : Nat) (g : DelayList → DelayList) : (h.modDelay n g).events = h.events := rfl
@[simp] theorem Hw.modDelay_trace (n : Nat) (g : DelayList → DelayList) : (h.modDelay n g).trace = h.trace := rfl
@[simp] theorem Hw.modDelay_rings (n : Nat) (g : DelayList → DelayList) : (h.modDelay n g).rings = h.rings := rfl
@[simp] theorem Hw.modDelay_turn (n : Nat) (g : DelayList → DelayList) : (h.modDelay n g).turn = h.turn := rfl
@[simp] theorem Hw.modDelay_queues (n : Nat) (g : DelayList → DelayList) : (h.modDelay n g).queues = h.queues := rfl
@[simp] theorem Hw.modDelay_seqs (n : Nat) (g : DelayList → DelayList) : (h.modDelay n g).seqs = h.seqs := rfl
@[simp] theorem Hw.modDelay_gens (n : Nat) (g : DelayList → DelayList) : (h.modDelay n g).gens = h.gens := rfl
@[simp] theorem Hw.modDelay_arrival (n : Nat) (g : DelayList → DelayList) : (h.modDelay n g).arrival = h.arrival := rfl
@[simp] theorem Hw.modDelay_slotsFront (n : Nat) (g : DelayList → DelayList) : (h.modDelay n g).slotsFront = h.slotsFront := rfl
@[simp] theorem Hw.modDelay_slotsFresh (n : Nat) (g : DelayList → DelayList) : (h.modDelay n g).slotsFresh = h.slotsFresh := rfl
@[simp] theorem Hw.modDelay_slotsFreed (n : Nat) (g : DelayList → DelayList) : (h.modDelay n g).slotsFreed = h.slotsFreed := rfl
@[simp] theorem Hw.modDelay_windows (n : Nat) (g : DelayList → DelayList) : (h.modDelay n g).windows = h.windows := rfl
@[simp] theorem Hw.modDelay_facets (n : Nat) (g : DelayList → DelayList) : (h.modDelay n g).facets = h.facets := rfl
@[simp] theorem Hw.modDelay_parts (n : Nat) (g : DelayList → DelayList) : (h.modDelay n g).parts = h.parts := rfl
@[simp] theorem Hw.modDelay_descs (n : Nat) (g : DelayList → DelayList) : (h.modDelay n g).descs = h.descs := rfl
@[simp] theorem Hw.modDelay_descFresh (n : Nat) (g : DelayList → DelayList) : (h.modDelay n g).descFresh = h.descFresh := rfl
@[simp] theorem Hw.modDelay_descFreed (n : Nat) (g : DelayList → DelayList) : (h.modDelay n g).descFreed = h.descFreed := rfl
@[simp] theorem Hw.modDelay_lastPart (n : Nat) (g : DelayList → DelayList) : (h.modDelay n g).lastPart = h.lastPart := rfl
@[simp] theorem Hw.modDelay_funnel (n : Nat) (g : DelayList → DelayList) : (h.modDelay n g).funnel = h.funnel := rfl
@[simp] theorem Hw.modDelay_reports (n : Nat) (g : DelayList → DelayList) : (h.modDelay n g).reports = h.reports := rfl
@[simp] theorem Hw.modDelay_mem (n : Nat) (g : DelayList → DelayList) : (h.modDelay n g).mem = h.mem := rfl
@[simp] theorem Hw.modDelay_smp (n : Nat) (g : DelayList → DelayList) : (h.modDelay n g).smp = h.smp := rfl
@[simp] theorem Hw.modDelay_pages (n : Nat) (g : DelayList → DelayList) : (h.modDelay n g).pages = h.pages := rfl
@[simp] theorem Hw.modDelay_jobs (n : Nat) (g : DelayList → DelayList) : (h.modDelay n g).jobs = h.jobs := rfl
@[simp] theorem Hw.modDelay_switches (n : Nat) (g : DelayList → DelayList) : (h.modDelay n g).switches = h.switches := rfl
@[simp] theorem Hw.modDelay_images (n : Nat) (g : DelayList → DelayList) : (h.modDelay n g).images = h.images := rfl
@[simp] theorem Hw.modDelay_ctxRecords (n : Nat) (g : DelayList → DelayList) : (h.modDelay n g).ctxRecords = h.ctxRecords := rfl
@[simp] theorem Hw.modDelay_sems (n : Nat) (g : DelayList → DelayList) : (h.modDelay n g).sems = h.sems := rfl
@[simp] theorem Hw.modDelay_learners (n : Nat) (g : DelayList → DelayList) : (h.modDelay n g).learners = h.learners := rfl
@[simp] theorem Hw.modDelay_routers (n : Nat) (g : DelayList → DelayList) : (h.modDelay n g).routers = h.routers := rfl
@[simp] theorem Hw.modDelay_secUsed (n : Nat) (g : DelayList → DelayList) : (h.modDelay n g).secUsed = h.secUsed := rfl
@[simp] theorem Hw.modDelay_acct (n : Nat) (g : DelayList → DelayList) : (h.modDelay n g).acct = h.acct := rfl
@[simp] theorem Hw.modDelay_tasks (n : Nat) (g : DelayList → DelayList) : (h.modDelay n g).tasks = h.tasks := rfl
@[simp] theorem Hw.modDelay_pairs (n : Nat) (g : DelayList → DelayList) : (h.modDelay n g).pairs = h.pairs := rfl
@[simp] theorem Hw.modDelay_fed (n : Nat) (g : DelayList → DelayList) : (h.modDelay n g).fed = h.fed := rfl
@[simp] theorem Hw.modDelay_journal (n : Nat) (g : DelayList → DelayList) : (h.modDelay n g).journal = h.journal := rfl
@[simp] theorem Hw.modDelay_engineSeedUsed (n : Nat) (g : DelayList → DelayList) : (h.modDelay n g).engineSeedUsed = h.engineSeedUsed := rfl
@[simp] theorem Hw.modDelay_expRings (n : Nat) (g : DelayList → DelayList) : (h.modDelay n g).expRings = h.expRings := rfl
@[simp] theorem Hw.modDelay_faults (n : Nat) (g : DelayList → DelayList) : (h.modDelay n g).faults = h.faults := rfl
@[simp] theorem Hw.modDelay_out (n : Nat) (g : DelayList → DelayList) : (h.modDelay n g).out = h.out := rfl

/-! `Hw.emit` -/

@[simp] theorem Hw.emit_cc (o : PortOut) : (h.emit o).cc = h.cc := rfl
@[simp] theorem Hw.emit_clk (o : PortOut) : (h.emit o).clk = h.clk := rfl
@[simp] theorem Hw.emit_eng (o : PortOut) : (h.emit o).eng = h.eng := rfl
@[simp] theorem Hw.emit_pins (o : PortOut) : (h.emit o).pins = h.pins := rfl
@[simp] theorem Hw.emit_od (o : PortOut) : (h.emit o).od = h.od := rfl
@[simp] theorem Hw.emit_dom (o : PortOut) : (h.emit o).dom = h.dom := rfl
@[simp] theorem Hw.emit_ccNext (o : PortOut) : (h.emit o).ccNext = h.ccNext := rfl
@[simp] theorem Hw.emit_ccOnce (o : PortOut) : (h.emit o).ccOnce = h.ccOnce := rfl
@[simp] theorem Hw.emit_ccSnap (o : PortOut) : (h.emit o).ccSnap = h.ccSnap := rfl
@[simp] theorem Hw.emit_imageLive (o : PortOut) : (h.emit o).imageLive = h.imageLive := rfl
@[simp] theorem Hw.emit_adm (o : PortOut) : (h.emit o).adm = h.adm := rfl
@[simp] theorem Hw.emit_budgetNs (o : PortOut) : (h.emit o).budgetNs = h.budgetNs := rfl
@[simp] theorem Hw.emit_descDone (o : PortOut) : (h.emit o).descDone = h.descDone := rfl
@[simp] theorem Hw.emit_expReadNs (o : PortOut) : (h.emit o).expReadNs = h.expReadNs := rfl
@[simp] theorem Hw.emit_hostReads (o : PortOut) : (h.emit o).hostReads = h.hostReads := rfl
@[simp] theorem Hw.emit_snaps (o : PortOut) : (h.emit o).snaps = h.snaps := rfl
@[simp] theorem Hw.emit_staged (o : PortOut) : (h.emit o).staged = h.staged := rfl
@[simp] theorem Hw.emit_side (o : PortOut) : (h.emit o).side = h.side := rfl
@[simp] theorem Hw.emit_irq (o : PortOut) : (h.emit o).irq = h.irq := rfl
@[simp] theorem Hw.emit_events (o : PortOut) : (h.emit o).events = h.events := rfl
@[simp] theorem Hw.emit_trace (o : PortOut) : (h.emit o).trace = h.trace := rfl
@[simp] theorem Hw.emit_rings (o : PortOut) : (h.emit o).rings = h.rings := rfl
@[simp] theorem Hw.emit_turn (o : PortOut) : (h.emit o).turn = h.turn := rfl
@[simp] theorem Hw.emit_queues (o : PortOut) : (h.emit o).queues = h.queues := rfl
@[simp] theorem Hw.emit_seqs (o : PortOut) : (h.emit o).seqs = h.seqs := rfl
@[simp] theorem Hw.emit_gens (o : PortOut) : (h.emit o).gens = h.gens := rfl
@[simp] theorem Hw.emit_arrival (o : PortOut) : (h.emit o).arrival = h.arrival := rfl
@[simp] theorem Hw.emit_slotsFront (o : PortOut) : (h.emit o).slotsFront = h.slotsFront := rfl
@[simp] theorem Hw.emit_slotsFresh (o : PortOut) : (h.emit o).slotsFresh = h.slotsFresh := rfl
@[simp] theorem Hw.emit_slotsFreed (o : PortOut) : (h.emit o).slotsFreed = h.slotsFreed := rfl
@[simp] theorem Hw.emit_windows (o : PortOut) : (h.emit o).windows = h.windows := rfl
@[simp] theorem Hw.emit_facets (o : PortOut) : (h.emit o).facets = h.facets := rfl
@[simp] theorem Hw.emit_parts (o : PortOut) : (h.emit o).parts = h.parts := rfl
@[simp] theorem Hw.emit_descs (o : PortOut) : (h.emit o).descs = h.descs := rfl
@[simp] theorem Hw.emit_descFresh (o : PortOut) : (h.emit o).descFresh = h.descFresh := rfl
@[simp] theorem Hw.emit_descFreed (o : PortOut) : (h.emit o).descFreed = h.descFreed := rfl
@[simp] theorem Hw.emit_lastPart (o : PortOut) : (h.emit o).lastPart = h.lastPart := rfl
@[simp] theorem Hw.emit_funnel (o : PortOut) : (h.emit o).funnel = h.funnel := rfl
@[simp] theorem Hw.emit_reports (o : PortOut) : (h.emit o).reports = h.reports := rfl
@[simp] theorem Hw.emit_delays (o : PortOut) : (h.emit o).delays = h.delays := rfl
@[simp] theorem Hw.emit_mem (o : PortOut) : (h.emit o).mem = h.mem := rfl
@[simp] theorem Hw.emit_smp (o : PortOut) : (h.emit o).smp = h.smp := rfl
@[simp] theorem Hw.emit_pages (o : PortOut) : (h.emit o).pages = h.pages := rfl
@[simp] theorem Hw.emit_jobs (o : PortOut) : (h.emit o).jobs = h.jobs := rfl
@[simp] theorem Hw.emit_switches (o : PortOut) : (h.emit o).switches = h.switches := rfl
@[simp] theorem Hw.emit_images (o : PortOut) : (h.emit o).images = h.images := rfl
@[simp] theorem Hw.emit_ctxRecords (o : PortOut) : (h.emit o).ctxRecords = h.ctxRecords := rfl
@[simp] theorem Hw.emit_sems (o : PortOut) : (h.emit o).sems = h.sems := rfl
@[simp] theorem Hw.emit_learners (o : PortOut) : (h.emit o).learners = h.learners := rfl
@[simp] theorem Hw.emit_routers (o : PortOut) : (h.emit o).routers = h.routers := rfl
@[simp] theorem Hw.emit_secUsed (o : PortOut) : (h.emit o).secUsed = h.secUsed := rfl
@[simp] theorem Hw.emit_acct (o : PortOut) : (h.emit o).acct = h.acct := rfl
@[simp] theorem Hw.emit_tasks (o : PortOut) : (h.emit o).tasks = h.tasks := rfl
@[simp] theorem Hw.emit_pairs (o : PortOut) : (h.emit o).pairs = h.pairs := rfl
@[simp] theorem Hw.emit_fed (o : PortOut) : (h.emit o).fed = h.fed := rfl
@[simp] theorem Hw.emit_journal (o : PortOut) : (h.emit o).journal = h.journal := rfl
@[simp] theorem Hw.emit_engineSeedUsed (o : PortOut) : (h.emit o).engineSeedUsed = h.engineSeedUsed := rfl
@[simp] theorem Hw.emit_expRings (o : PortOut) : (h.emit o).expRings = h.expRings := rfl
@[simp] theorem Hw.emit_faults (o : PortOut) : (h.emit o).faults = h.faults := rfl

/-! What the updates write. -/

@[simp] theorem Hw.facet_setFacet (f : Nat) (x : Facet) : (h.setFacet f x).facet f = x := by simp [Hw.facet, Hw.setFacet]
@[simp] theorem Hw.facet_modFacet (f : Nat) (g : Facet → Facet) : (h.modFacet f g).facet f = g (h.facet f) := by simp [Hw.modFacet]
theorem Hw.facet_setFacet_ne (f k : Nat) (x : Facet) (hne : k ≠ f) : (h.setFacet f x).facet k = h.facet k := by
  simp [Hw.facet, Hw.setFacet, Map.getD_insert_ne _ _ _ _ _ hne]
theorem Hw.facet_modFacet_ne (f k : Nat) (g : Facet → Facet) (hne : k ≠ f) : (h.modFacet f g).facet k = h.facet k :=
  h.facet_setFacet_ne f k _ hne
@[simp] theorem Hw.part_setPart (p : Nat) (x : Part) : (h.setPart p x).part p = x := by simp [Hw.part, Hw.setPart]
@[simp] theorem Hw.part_modPart (p : Nat) (g : Part → Part) : (h.modPart p g).part p = g (h.part p) := by simp [Hw.modPart]
theorem Hw.part_setPart_ne (p k : Nat) (x : Part) (hne : k ≠ p) : (h.setPart p x).part k = h.part k := by
  simp [Hw.part, Hw.setPart, Map.getD_insert_ne _ _ _ _ _ hne]
theorem Hw.part_modPart_ne (p k : Nat) (g : Part → Part) (hne : k ≠ p) : (h.modPart p g).part k = h.part k :=
  h.part_setPart_ne p k _ hne
@[simp] theorem Hw.ring_modRing (r : Nat) (g : Ring → Ring) : (h.modRing r g).ring r = g (h.ring r) := by simp [Hw.ring, Hw.modRing]
@[simp] theorem Hw.queue_modQueue (q : Nat) (g : Queue → Queue) : (h.modQueue q g).queue q = g (h.queue q) := by
  simp [Hw.queue, Hw.modQueue]
@[simp] theorem Hw.seq?_setSeq (n : Nat) (q : Seq) : (h.setSeq n q).seq? n = some q := by simp [Hw.seq?, Hw.setSeq]
@[simp] theorem Hw.pool_modPool (p : Nat) (g : Pool → Pool) : (h.modPool p g).pool p = g (h.pool p) := by simp [Hw.pool, Hw.modPool]
@[simp] theorem Hw.job_setJob (f : Nat) (u : Bool) (j : Job) : (h.setJob f u j).job f u = j := by simp [Hw.job, Hw.setJob]
@[simp] theorem Hw.job_modJob (f : Nat) (u : Bool) (g : Job → Job) : (h.modJob f u g).job f u = g (h.job f u) := by simp [Hw.modJob]
@[simp] theorem Hw.learner_modLearner (n : Nat) (g : Learner → Learner) : (h.modLearner n g).learner n = g (h.learner n) := by
  simp [Hw.learner, Hw.modLearner]
@[simp] theorem Hw.task_modTask (n : Nat) (g : Task → Task) : (h.modTask n g).task n = g (h.task n) := by simp [Hw.task, Hw.modTask]
@[simp] theorem Hw.delay_modDelay (n : Nat) (g : DelayList → DelayList) : (h.modDelay n g).delay n = g (h.delay n) := by
  simp [Hw.delay, Hw.modDelay]

/-! Dictionary values. -/

@[simp] theorem Hw.getAt_setAt (idx sub obj v : Nat) : (h.setAt idx sub obj v).getAt idx sub obj = v := by simp [Hw.getAt, Hw.setAt]
theorem Hw.getAt_setAt_ne (i s o idx sub obj v : Nat) (hne : odKey i s o ≠ odKey idx sub obj) :
    (h.setAt idx sub obj v).getAt i s o = h.getAt i s o := by simp [Hw.getAt, Hw.setAt, Map.find?_insert_ne _ _ _ _ hne]
@[simp] theorem Hw.get_set (idx sub v : Nat) : (h.set idx sub v).get idx sub = v := by simp [Hw.get, Hw.set]
@[simp] theorem Hw.raw_set (idx sub v : Nat) : (h.set idx sub v).raw idx sub = v := by simp [Hw.raw, Hw.set, Hw.setAt]
theorem Hw.raw_set_ne (i s idx sub v : Nat) (hne : odKey i s 0 ≠ odKey idx sub 0) : (h.set idx sub v).raw i s = h.raw i s := by
  simp [Hw.raw, Hw.set, Hw.setAt, Map.getD_insert_ne _ _ _ _ _ hne]
theorem Hw.get_set_ne (i s idx sub v : Nat) (hne : odKey i s 0 ≠ odKey idx sub 0) : (h.set idx sub v).get i s = h.get i s :=
  h.getAt_setAt_ne i s 0 idx sub 0 v hne
@[simp] theorem Hw.getAt_bumpAt (idx sub obj n : Nat) :
    (h.bumpAt idx sub obj n).getAt idx sub obj = (h.getAt idx sub obj + n) % 2 ^ 64 := by simp [Hw.bumpAt]
@[simp] theorem Hw.get_inc (idx sub : Nat) : (h.inc idx sub).get idx sub = (h.get idx sub + 1) % 2 ^ 64 := by
  simp [Hw.get, Hw.inc, Hw.bump]
theorem Hw.get_inc_ne (i s idx sub : Nat) (hne : odKey i s 0 ≠ odKey idx sub 0) : (h.inc idx sub).get i s = h.get i s :=
  h.getAt_setAt_ne i s 0 idx sub 0 _ hne

end Sys2Proof.Machine
end

