-- ==== Sys2Proof/Laws/Frame.lean ====
section
/-! SUPPORT. What the end of a command can change: trace, events, vectors and the dictionary values of chapters 0xB000 and 0xC000. -/

namespace Sys2Proof.Machine

/-- What a fold over small changes keeps. -/
theorem foldl_keeps {α β γ : Type} (P : β → γ) (f : β → α → β) (hf : ∀ b a, P (f b a) = P b) (l : List α) (b : β) :
    P (l.foldl f b) = P b := by
  induction l generalizing b with
  | nil => rfl
  | cons a r ih => simp only [List.foldl_cons]; rw [ih, hf]

theorem Hw.odOut_setAt (h : Hw) (i s o v : Nat) (hk : obsKey (odKey i s o) = true) : (h.setAt i s o v).odOut = h.odOut := by
  funext k
  simp only [Hw.odOut, Hw.setAt]
  split
  · rfl
  · rename_i hn
    apply Map.find?_insert_ne
    rintro rfl
    exact hn hk

theorem Hw.SameOut.refl (a : Hw) : Hw.SameOut a a := ⟨rfl, rfl⟩
theorem Hw.SameOut.trans {a b c : Hw} (h1 : Hw.SameOut a b) (h2 : Hw.SameOut b c) : Hw.SameOut a c :=
  ⟨h1.body.trans h2.body, h1.od.trans h2.od⟩

theorem Hw.sameOut_setAt (h : Hw) (i s o v : Nat) (hk : obsKey (odKey i s o) = true) : Hw.SameOut (h.setAt i s o v) h :=
  ⟨rfl, h.odOut_setAt i s o v hk⟩

theorem Hw.sameOut_set (h : Hw) (i s v : Nat) (hk : obsKey (odKey i s 0) = true) : Hw.SameOut (h.set i s v) h := h.sameOut_setAt i s 0 v hk

theorem Hw.sameOut_inc (h : Hw) (i s : Nat) (hk : obsKey (odKey i s 0) = true) : Hw.SameOut (h.inc i s) h := h.sameOut_setAt i s 0 _ hk

theorem Hw.sameOut_events (h : Hw) (e : Events) : Hw.SameOut { h with events := e } h := ⟨rfl, rfl⟩
theorem Hw.sameOut_obs (h : Hw) (e : Events) (t : Trace) : Hw.SameOut { h with events := e, trace := t } h := ⟨rfl, rfl⟩
theorem Hw.sameOut_close (h : Hw) (e : Events) (t : Trace) : Hw.SameOut { h with events := e, trace := t, faults := [] } h := ⟨rfl, rfl⟩
theorem Hw.sameOut_trace (h : Hw) (t : Trace) : Hw.SameOut { h with trace := t } h := ⟨rfl, rfl⟩

theorem Hw.sameOut_pulse (h : Hw) (v : Nat) : Hw.SameOut (h.pulse v) h := by
  unfold Hw.pulse; split <;> exact ⟨rfl, rfl⟩

theorem Hw.sameOut_traceAppend (h : Hw) (b : Nat → List Byte) : Hw.SameOut (h.traceAppend b) h :=
  ⟨rfl, h.odOut_setAt _ _ _ _ (by decide)⟩

theorem Hw.sameOut_traceDrop (h : Hw) (c : Nat) : Hw.SameOut (h.traceDrop c) h := ⟨rfl, h.odOut_setAt _ _ _ _ (by decide)⟩

theorem Hw.sameOut_traceGap (h : Hw) : Hw.SameOut h.traceGap h := by
  unfold Hw.traceGap; dsimp only; split
  · exact .refl h
  · exact ⟨rfl, h.odOut_setAt _ _ _ _ (by decide)⟩

theorem Hw.sameOut_frozenGap (h : Hw) : Hw.SameOut h.frozenGap h := by
  unfold Hw.frozenGap
  exact (Hw.sameOut_trace _ _).trans ((Hw.sameOut_traceAppend _ _).trans (h.sameOut_inc 0xB036 1 (by decide)))

theorem Hw.sameOut_traceTake (h : Hw) (ty u : Nat) (f : Option Nat) (p : List Byte) : Hw.SameOut (h.traceTake ty u f p) h := by
  unfold Hw.traceTake
  dsimp only
  split
  · exact ⟨rfl, h.odOut_setAt _ _ _ _ (by decide)⟩
  · split
    · exact h.sameOut_frozenGap
    · split
      · exact h.sameOut_traceDrop 0
      · split
        · exact (Hw.sameOut_frozenGap _).trans h.sameOut_traceGap
        · exact (Hw.sameOut_traceAppend _ _).trans h.sameOut_traceGap

theorem Hw.sameOut_traceRec (h : Hw) (ty u : Nat) (f : Option Nat) (p : List Byte) : Hw.SameOut (h.traceRec ty u f p) h := by
  unfold Hw.traceRec; split
  · exact ⟨rfl, rfl⟩
  · exact .refl h

theorem Hw.sameOut_logRecord (h : Hw) (e : Ev) (c : Nat) (y : Bool) (s : Nat) : Hw.SameOut (h.logRecord e c y s) h := by
  unfold Hw.logRecord
  dsimp only
  split
  · exact .refl h
  · refine (Hw.sameOut_traceRec _ _ _ _ _).trans ?_
    have h1 : Hw.SameOut (h.takeSeq 1) h := h.sameOut_set _ _ _ (by decide)
    have h2 : Hw.SameOut (if e.sev ≥ 3 then { h.takeSeq 1 with events := { (h.takeSeq 1).events with
        notice := setBit (h.takeSeq 1).events.notice e.fam } } else h.takeSeq 1) h := by
      split
      · exact (Hw.sameOut_events _ _).trans h1
      · exact h1
    have h3 : ∀ a : Hw, Hw.SameOut (if e.sev ≥ h.get 0xC003 1 then a.pulse (h.raw 0xC002 1) else a) a := by
      intro a; split
      · exact a.sameOut_pulse _
      · exact .refl a
    refine Hw.SameOut.trans ?_ ((h3 _).trans h2)
    split
    · exact Hw.sameOut_events _ _
    · exact (Hw.sameOut_events _ _).trans (Hw.sameOut_inc _ 0xC00A 1 (by decide))

theorem Hw.sameOut_rollRates (h : Hw) : Hw.SameOut h.rollRates h := by
  unfold Hw.rollRates; dsimp only; split
  · exact h.sameOut_events _
  · exact .refl h

/-- What an occurrence's rate limit answers leads to. -/
theorem Hw.sameOut_rated (g h : Hw) (e : Ev) (a : RateAnswer) (hg : Hw.SameOut g h) :
    Hw.SameOut (match a with
      | .log => g.logRecord e 1 false h.now
      | .untracked => (g.inc 0xC014 1).logRecord e 1 false h.now
      | .suppress => g.inc 0xC013 1) h := by
  cases a
  · exact (Hw.sameOut_logRecord ..).trans hg
  · exact (g.sameOut_inc 0xC013 1 (by decide)).trans hg
  · exact (Hw.sameOut_logRecord ..).trans ((g.sameOut_inc 0xC014 1 (by decide)).trans hg)

theorem Hw.sameOut_logEvent (h : Hw) (e : Ev) : Hw.SameOut (h.logEvent e) h := by
  unfold Hw.logEvent
  split
  · exact h.sameOut_logRecord ..
  · split
    · exact .refl h
    · exact Hw.sameOut_rated _ h e _ ((Hw.sameOut_events _ _).trans h.sameOut_rollRates)

theorem Hw.sameOut_foldl {α : Type} (f : Hw → α → Hw) (hf : ∀ b a, Hw.SameOut (f b a) b) (l : List α) (b : Hw) :
    Hw.SameOut (l.foldl f b) b := by
  induction l generalizing b with
  | nil => exact .refl b
  | cons a r ih => exact (ih (f b a)).trans (hf b a)

theorem Hw.sameOut_foldl_mem {α : Type} (f : Hw → α → Hw) (l : List α) (hf : ∀ b, ∀ a ∈ l, Hw.SameOut (f b a) b) (b : Hw) :
    Hw.SameOut (l.foldl f b) b := by
  induction l generalizing b with
  | nil => exact .refl b
  | cons a r ih =>
    exact (ih (fun b x hx => hf b x (List.mem_cons_of_mem _ hx)) (f b a)).trans (hf b a (by simp))

theorem Hw.sameOut_attachSnap (before h : Hw) (n : Nat) : Hw.SameOut (before.attachSnap h n) h := by
  unfold Hw.attachSnap; split
  · exact .refl h
  · split
    · exact ⟨rfl, h.odOut_setAt _ _ _ _ (by decide)⟩
    · exact .refl h

theorem Hw.sameOut_fireTrigger (h : Hw) (n : Nat) (hn : n < 8) : Hw.SameOut (h.fireTrigger n) h := by
  unfold Hw.fireTrigger
  dsimp only
  refine (Hw.sameOut_trace _ _).trans ((Hw.sameOut_inc _ 0xB03A 1 (by decide)).trans (h.sameOut_set _ _ _ ?_))
  simp [obsKey, odKey]; omega

theorem Hw.sameOut_triggerRecord (h : Hw) (n : Nat) : Hw.SameOut (h.triggerRecord n) h := by
  unfold Hw.triggerRecord
  simp only
  split
  · exact h.sameOut_traceTake ..
  · exact (Hw.sameOut_trace _ _).trans ((Hw.sameOut_set _ 0xB038 1 _ (by decide)).trans (h.sameOut_traceTake ..))

/-- The end of a command writes only the trace, the events, the vectors and the keys of observation. -/
theorem Hw.sameOut_settle (before h : Hw) : Hw.SameOut (Hw.settle before h) h := by
  unfold Hw.settle
  dsimp only
  refine Hw.SameOut.trans (Hw.sameOut_close _ _ _) ?_
  refine (Hw.sameOut_foldl _ Hw.sameOut_triggerRecord _ _).trans ?_
  refine (Hw.sameOut_foldl _ (fun b a => b.sameOut_traceTake ..) _ _).trans ?_
  refine (Hw.sameOut_foldl_mem _ _ ?_ _).trans ?_
  · intro b a ha
    split
    · exact b.sameOut_fireTrigger a (List.mem_range.mp ha)
    · exact .refl b
  · exact (Hw.sameOut_attachSnap ..).trans (Hw.sameOut_foldl _ Hw.sameOut_logEvent _ _)

/-- The end of a command leaves nothing to be settled. -/
theorem Hw.settle_quiet (b h : Hw) : (Hw.settle b h).Quiet := ⟨rfl, rfl, rfl, rfl⟩

/-! The end of a command, field by field. -/

@[simp] theorem Hw.settle_cc (b h : Hw) : (Hw.settle b h).cc = h.cc := by
  have e := congrArg Hw.cc (Hw.sameOut_settle b h).body; exact e
@[simp] theorem Hw.settle_clk (b h : Hw) : (Hw.settle b h).clk = h.clk := by
  have e := congrArg Hw.clk (Hw.sameOut_settle b h).body; exact e
@[simp] theorem Hw.settle_eng (b h : Hw) : (Hw.settle b h).eng = h.eng := by
  have e := congrArg Hw.eng (Hw.sameOut_settle b h).body; exact e
@[simp] theorem Hw.settle_pins (b h : Hw) : (Hw.settle b h).pins = h.pins := by
  have e := congrArg Hw.pins (Hw.sameOut_settle b h).body; exact e
@[simp] theorem Hw.settle_dom (b h : Hw) : (Hw.settle b h).dom = h.dom := by
  have e := congrArg Hw.dom (Hw.sameOut_settle b h).body; exact e
@[simp] theorem Hw.settle_ccSnap (b h : Hw) : (Hw.settle b h).ccSnap = h.ccSnap := by
  have e := congrArg Hw.ccSnap (Hw.sameOut_settle b h).body; exact e
@[simp] theorem Hw.settle_imageLive (b h : Hw) : (Hw.settle b h).imageLive = h.imageLive := by
  have e := congrArg Hw.imageLive (Hw.sameOut_settle b h).body; exact e
@[simp] theorem Hw.settle_adm (b h : Hw) : (Hw.settle b h).adm = h.adm := by
  have e := congrArg Hw.adm (Hw.sameOut_settle b h).body; exact e
@[simp] theorem Hw.settle_budgetNs (b h : Hw) : (Hw.settle b h).budgetNs = h.budgetNs := by
  have e := congrArg Hw.budgetNs (Hw.sameOut_settle b h).body; exact e
@[simp] theorem Hw.settle_descDone (b h : Hw) : (Hw.settle b h).descDone = h.descDone := by
  have e := congrArg Hw.descDone (Hw.sameOut_settle b h).body; exact e
@[simp] theorem Hw.settle_expReadNs (b h : Hw) : (Hw.settle b h).expReadNs = h.expReadNs := by
  have e := congrArg Hw.expReadNs (Hw.sameOut_settle b h).body; exact e
@[simp] theorem Hw.settle_hostReads (b h : Hw) : (Hw.settle b h).hostReads = h.hostReads := by
  have e := congrArg Hw.hostReads (Hw.sameOut_settle b h).body; exact e
@[simp] theorem Hw.settle_snaps (b h : Hw) : (Hw.settle b h).snaps = h.snaps := by
  have e := congrArg Hw.snaps (Hw.sameOut_settle b h).body; exact e
@[simp] theorem Hw.settle_staged (b h : Hw) : (Hw.settle b h).staged = h.staged := by
  have e := congrArg Hw.staged (Hw.sameOut_settle b h).body; exact e
@[simp] theorem Hw.settle_side (b h : Hw) : (Hw.settle b h).side = h.side := by
  have e := congrArg Hw.side (Hw.sameOut_settle b h).body; exact e
@[simp] theorem Hw.settle_rings (b h : Hw) : (Hw.settle b h).rings = h.rings := by
  have e := congrArg Hw.rings (Hw.sameOut_settle b h).body; exact e
@[simp] theorem Hw.settle_turn (b h : Hw) : (Hw.settle b h).turn = h.turn := by
  have e := congrArg Hw.turn (Hw.sameOut_settle b h).body; exact e
@[simp] theorem Hw.settle_queues (b h : Hw) : (Hw.settle b h).queues = h.queues := by
  have e := congrArg Hw.queues (Hw.sameOut_settle b h).body; exact e
@[simp] theorem Hw.settle_seqs (b h : Hw) : (Hw.settle b h).seqs = h.seqs := by
  have e := congrArg Hw.seqs (Hw.sameOut_settle b h).body; exact e
@[simp] theorem Hw.settle_gens (b h : Hw) : (Hw.settle b h).gens = h.gens := by
  have e := congrArg Hw.gens (Hw.sameOut_settle b h).body; exact e
@[simp] theorem Hw.settle_arrival (b h : Hw) : (Hw.settle b h).arrival = h.arrival := by
  have e := congrArg Hw.arrival (Hw.sameOut_settle b h).body; exact e
@[simp] theorem Hw.settle_slotsFront (b h : Hw) : (Hw.settle b h).slotsFront = h.slotsFront := by
  have e := congrArg Hw.slotsFront (Hw.sameOut_settle b h).body; exact e
@[simp] theorem Hw.settle_slotsFresh (b h : Hw) : (Hw.settle b h).slotsFresh = h.slotsFresh := by
  have e := congrArg Hw.slotsFresh (Hw.sameOut_settle b h).body; exact e
@[simp] theorem Hw.settle_slotsFreed (b h : Hw) : (Hw.settle b h).slotsFreed = h.slotsFreed := by
  have e := congrArg Hw.slotsFreed (Hw.sameOut_settle b h).body; exact e
@[simp] theorem Hw.settle_windows (b h : Hw) : (Hw.settle b h).windows = h.windows := by
  have e := congrArg Hw.windows (Hw.sameOut_settle b h).body; exact e
@[simp] theorem Hw.settle_facets (b h : Hw) : (Hw.settle b h).facets = h.facets := by
  have e := congrArg Hw.facets (Hw.sameOut_settle b h).body; exact e
@[simp] theorem Hw.settle_parts (b h : Hw) : (Hw.settle b h).parts = h.parts := by
  have e := congrArg Hw.parts (Hw.sameOut_settle b h).body; exact e
@[simp] theorem Hw.settle_descs (b h : Hw) : (Hw.settle b h).descs = h.descs := by
  have e := congrArg Hw.descs (Hw.sameOut_settle b h).body; exact e
@[simp] theorem Hw.settle_descFresh (b h : Hw) : (Hw.settle b h).descFresh = h.descFresh := by
  have e := congrArg Hw.descFresh (Hw.sameOut_settle b h).body; exact e
@[simp] theorem Hw.settle_descFreed (b h : Hw) : (Hw.settle b h).descFreed = h.descFreed := by
  have e := congrArg Hw.descFreed (Hw.sameOut_settle b h).body; exact e
@[simp] theorem Hw.settle_lastPart (b h : Hw) : (Hw.settle b h).lastPart = h.lastPart := by
  have e := congrArg Hw.lastPart (Hw.sameOut_settle b h).body; exact e
@[simp] theorem Hw.settle_funnel (b h : Hw) : (Hw.settle b h).funnel = h.funnel := by
  have e := congrArg Hw.funnel (Hw.sameOut_settle b h).body; exact e
@[simp] theorem Hw.settle_reports (b h : Hw) : (Hw.settle b h).reports = h.reports := by
  have e := congrArg Hw.reports (Hw.sameOut_settle b h).body; exact e
@[simp] theorem Hw.settle_delays (b h : Hw) : (Hw.settle b h).delays = h.delays := by
  have e := congrArg Hw.delays (Hw.sameOut_settle b h).body; exact e
@[simp] theorem Hw.settle_mem (b h : Hw) : (Hw.settle b h).mem = h.mem := by
  have e := congrArg Hw.mem (Hw.sameOut_settle b h).body; exact e
@[simp] theorem Hw.settle_smp (b h : Hw) : (Hw.settle b h).smp = h.smp := by
  have e := congrArg Hw.smp (Hw.sameOut_settle b h).body; exact e
@[simp] theorem Hw.settle_pages (b h : Hw) : (Hw.settle b h).pages = h.pages := by
  have e := congrArg Hw.pages (Hw.sameOut_settle b h).body; exact e
@[simp] theorem Hw.settle_jobs (b h : Hw) : (Hw.settle b h).jobs = h.jobs := by
  have e := congrArg Hw.jobs (Hw.sameOut_settle b h).body; exact e
@[simp] theorem Hw.settle_switches (b h : Hw) : (Hw.settle b h).switches = h.switches := by
  have e := congrArg Hw.switches (Hw.sameOut_settle b h).body; exact e
@[simp] theorem Hw.settle_images (b h : Hw) : (Hw.settle b h).images = h.images := by
  have e := congrArg Hw.images (Hw.sameOut_settle b h).body; exact e
@[simp] theorem Hw.settle_ctxRecords (b h : Hw) : (Hw.settle b h).ctxRecords = h.ctxRecords := by
  have e := congrArg Hw.ctxRecords (Hw.sameOut_settle b h).body; exact e
@[simp] theorem Hw.settle_sems (b h : Hw) : (Hw.settle b h).sems = h.sems := by
  have e := congrArg Hw.sems (Hw.sameOut_settle b h).body; exact e
@[simp] theorem Hw.settle_learners (b h : Hw) : (Hw.settle b h).learners = h.learners := by
  have e := congrArg Hw.learners (Hw.sameOut_settle b h).body; exact e
@[simp] theorem Hw.settle_routers (b h : Hw) : (Hw.settle b h).routers = h.routers := by
  have e := congrArg Hw.routers (Hw.sameOut_settle b h).body; exact e
@[simp] theorem Hw.settle_secUsed (b h : Hw) : (Hw.settle b h).secUsed = h.secUsed := by
  have e := congrArg Hw.secUsed (Hw.sameOut_settle b h).body; exact e
@[simp] theorem Hw.settle_acct (b h : Hw) : (Hw.settle b h).acct = h.acct := by
  have e := congrArg Hw.acct (Hw.sameOut_settle b h).body; exact e
@[simp] theorem Hw.settle_tasks (b h : Hw) : (Hw.settle b h).tasks = h.tasks := by
  have e := congrArg Hw.tasks (Hw.sameOut_settle b h).body; exact e
@[simp] theorem Hw.settle_pairs (b h : Hw) : (Hw.settle b h).pairs = h.pairs := by
  have e := congrArg Hw.pairs (Hw.sameOut_settle b h).body; exact e
@[simp] theorem Hw.settle_fed (b h : Hw) : (Hw.settle b h).fed = h.fed := by
  have e := congrArg Hw.fed (Hw.sameOut_settle b h).body; exact e
@[simp] theorem Hw.settle_journal (b h : Hw) : (Hw.settle b h).journal = h.journal := by
  have e := congrArg Hw.journal (Hw.sameOut_settle b h).body; exact e
@[simp] theorem Hw.settle_engineSeedUsed (b h : Hw) : (Hw.settle b h).engineSeedUsed = h.engineSeedUsed := by
  have e := congrArg Hw.engineSeedUsed (Hw.sameOut_settle b h).body; exact e
@[simp] theorem Hw.settle_expRings (b h : Hw) : (Hw.settle b h).expRings = h.expRings := by
  have e := congrArg Hw.expRings (Hw.sameOut_settle b h).body; exact e
@[simp] theorem Hw.settle_faults (b h : Hw) : (Hw.settle b h).faults = [] := rfl
@[simp] theorem Hw.settle_out (b h : Hw) : (Hw.settle b h).out = h.out := by
  have e := congrArg Hw.out (Hw.sameOut_settle b h).body; exact e

/-- A dictionary value outside the keys of observation is as the command left it. -/
theorem Hw.settle_find? (b h : Hw) (k : Nat) (hk : obsKey k = false) : Map.find? (Hw.settle b h).od k = Map.find? h.od k := by
  have e := congrFun (Hw.sameOut_settle b h).od k
  simpa [Hw.odOut, hk] using e

theorem Hw.settle_getAt (b h : Hw) (i s o : Nat) (hk : obsKey (odKey i s o) = false) : (Hw.settle b h).getAt i s o = h.getAt i s o := by
  simp only [Hw.getAt, Hw.settle_find? b h _ hk]

theorem Hw.settle_get (b h : Hw) (i s : Nat) (hk : obsKey (odKey i s 0) = false) : (Hw.settle b h).get i s = h.get i s :=
  Hw.settle_getAt b h i s 0 hk

theorem Hw.settle_raw (b h : Hw) (i s : Nat) (hk : obsKey (odKey i s 0) = false) : (Hw.settle b h).raw i s = h.raw i s := by
  simp only [Hw.raw, Map.getD, Hw.settle_find? b h _ hk]

@[simp] theorem Hw.settle_facet (b h : Hw) (f : Nat) : (Hw.settle b h).facet f = h.facet f := by simp [Hw.facet]
@[simp] theorem Hw.settle_part (b h : Hw) (p : Nat) : (Hw.settle b h).part p = h.part p := by simp [Hw.part]
@[simp] theorem Hw.settle_ring (b h : Hw) (p : Nat) : (Hw.settle b h).ring p = h.ring p := by simp [Hw.ring]
@[simp] theorem Hw.settle_queue (b h : Hw) (p : Nat) : (Hw.settle b h).queue p = h.queue p := by simp [Hw.queue]
@[simp] theorem Hw.settle_seq? (b h : Hw) (p : Nat) : (Hw.settle b h).seq? p = h.seq? p := by simp [Hw.seq?]
@[simp] theorem Hw.settle_desc? (b h : Hw) (p : Nat) : (Hw.settle b h).desc? p = h.desc? p := by simp [Hw.desc?]
@[simp] theorem Hw.settle_pool (b h : Hw) (p : Nat) : (Hw.settle b h).pool p = h.pool p := by simp [Hw.pool]
@[simp] theorem Hw.settle_job (b h : Hw) (f : Nat) (u : Bool) : (Hw.settle b h).job f u = h.job f u := by simp [Hw.job]
@[simp] theorem Hw.settle_sem (b h : Hw) (p : Nat) : (Hw.settle b h).sem p = h.sem p := by simp [Hw.sem]
@[simp] theorem Hw.settle_learner (b h : Hw) (p : Nat) : (Hw.settle b h).learner p = h.learner p := by simp [Hw.learner]
@[simp] theorem Hw.settle_task (b h : Hw) (p : Nat) : (Hw.settle b h).task p = h.task p := by simp [Hw.task]
@[simp] theorem Hw.settle_delay (b h : Hw) (p : Nat) : (Hw.settle b h).delay p = h.delay p := by simp [Hw.delay]

/-! The frame of a command of the core island. -/

/-- In a ready machine a command takes its part of the present cc. -/
theorem State.enterCc_ready (s : State) (c : CcPart) (hr : s.Ready) : s.enterCc c = { s with hw := s.hw.started c } := by
  have hj : s.hw.joins c = true := by
    unfold Hw.joins
    split <;> simp [hr.first]
  simp [State.enterCc, hr.live, Hw.enterCc, hj, Hw.started]

/-- Entering a cc changes the core island alone. -/
@[simp] theorem State.enterCc_win (s : State) (c : CcPart) : (s.enterCc c).win = s.win := by unfold State.enterCc; split <;> rfl
@[simp] theorem State.enterCc_gnm (s : State) (c : CcPart) : (s.enterCc c).gnm = s.gnm := by unfold State.enterCc; split <;> rfl
@[simp] theorem State.enterCc_pending (s : State) (c : CcPart) : (s.enterCc c).pending = s.pending := by
  unfold State.enterCc; split <;> rfl

/-- A command of the core island in a ready machine. -/
theorem State.onCoreAt_ready (s : State) (c : CcPart) (u : Nat) (f : Hw → Hw) (hr : s.Ready) :
    s.onCoreAt c u f = { s with hw := Hw.settle (s.hw.started c) (f ((s.hw.started c).begin u)) } := by
  simp [State.onCoreAt, hr.live, State.enterCc_ready s c hr]

theorem State.onCore_ready (s : State) (u : Nat) (f : Hw → Hw) (hr : s.Ready) :
    s.onCore u f = { s with hw := Hw.settle (s.hw.started .alone) (f ((s.hw.started .alone).begin u)) } := s.onCoreAt_ready _ u f hr

/-- A command that reaches beyond the core island, in a ready machine. -/
theorem State.onAllAt_ready (s : State) (c : CcPart) (u : Nat) (f : State → State) (hr : s.Ready) :
    s.onAllAt c u f =
      { f { s with hw := (s.hw.started c).begin u } with
        hw := Hw.settle (s.hw.started c) (f { s with hw := (s.hw.started c).begin u }).hw.runFaults } := by
  simp [State.onAllAt, hr.live, State.enterCc_ready s c hr]

theorem State.onAll_ready (s : State) (u : Nat) (f : State → State) (hr : s.Ready) :
    s.onAll u f =
      { f { s with hw := (s.hw.started .alone).begin u } with
        hw := Hw.settle (s.hw.started .alone) (f { s with hw := (s.hw.started .alone).begin u }).hw.runFaults } :=
  s.onAllAt_ready _ u f hr

/-- A command of the core island leaves a quiet machine quiet. -/
theorem State.onCoreAt_quiet (s : State) (c : CcPart) (u : Nat) (f : Hw → Hw) (hq : s.hw.Quiet) : (s.onCoreAt c u f).hw.Quiet := by
  unfold State.onCoreAt
  dsimp only
  split
  · exact Hw.settle_quiet _ _
  · exact hq

theorem State.onCore_quiet (s : State) (u : Nat) (f : Hw → Hw) (hq : s.hw.Quiet) : (s.onCore u f).hw.Quiet := s.onCoreAt_quiet _ u f hq

/-- So does one whose faults are answered in its cc. -/
theorem State.onCoreFAt_quiet (s : State) (c : CcPart) (u : Nat) (f : Hw → Hw) (hq : s.hw.Quiet) : (s.onCoreFAt c u f).hw.Quiet :=
  s.onCoreAt_quiet c u _ hq

theorem State.onCoreF_quiet (s : State) (u : Nat) (f : Hw → Hw) (hq : s.hw.Quiet) : (s.onCoreF u f).hw.Quiet := s.onCoreFAt_quiet _ u f hq

/-- So does one that reaches beyond the core island. -/
theorem State.onAllAt_quiet (s : State) (c : CcPart) (u : Nat) (f : State → State) (hq : s.hw.Quiet) : (s.onAllAt c u f).hw.Quiet := by
  unfold State.onAllAt
  dsimp only
  split
  · exact Hw.settle_quiet _ _
  · exact hq

theorem State.onAll_quiet (s : State) (u : Nat) (f : State → State) (hq : s.hw.Quiet) : (s.onAll u f).hw.Quiet := s.onAllAt_quiet _ u f hq

/-- What such a command's effect keeps of the queue, it keeps. -/
theorem State.onAllAt_pending (s : State) (c : CcPart) (u : Nat) (f : State → State) (hf : ∀ x, (f x).pending = x.pending) :
    (s.onAllAt c u f).pending = s.pending := by
  unfold State.onAllAt
  dsimp only
  split
  · exact (hf _).trans (s.enterCc_pending c)
  · rfl

theorem State.onAll_pending (s : State) (u : Nat) (f : State → State) (hf : ∀ x, (f x).pending = x.pending) :
    (s.onAll u f).pending = s.pending := s.onAllAt_pending _ u f hf

/-- Commands have no effect while the core island is unpowered or held in reset. -/
theorem State.onCoreAt_dead (s : State) (c : CcPart) (u : Nat) (f : Hw → Hw) (hl : s.live = false) : s.onCoreAt c u f = s := by
  simp [State.onCoreAt, hl]
theorem State.onCore_dead (s : State) (u : Nat) (f : Hw → Hw) (hl : s.live = false) : s.onCore u f = s := s.onCoreAt_dead _ u f hl
theorem State.onAllAt_dead (s : State) (c : CcPart) (u : Nat) (f : State → State) (hl : s.live = false) : s.onAllAt c u f = s := by
  simp [State.onAllAt, hl]
theorem State.onAll_dead (s : State) (u : Nat) (f : State → State) (hl : s.live = false) : s.onAll u f = s := s.onAllAt_dead _ u f hl

@[simp] theorem State.onCoreAt_win (s : State) (c : CcPart) (u : Nat) (f : Hw → Hw) : (s.onCoreAt c u f).win = s.win := by
  unfold State.onCoreAt; dsimp only; split <;> simp
@[simp] theorem State.onCoreAt_gnm (s : State) (c : CcPart) (u : Nat) (f : Hw → Hw) : (s.onCoreAt c u f).gnm = s.gnm := by
  unfold State.onCoreAt; dsimp only; split <;> simp
@[simp] theorem State.onCoreAt_pending (s : State) (c : CcPart) (u : Nat) (f : Hw → Hw) : (s.onCoreAt c u f).pending = s.pending := by
  unfold State.onCoreAt; dsimp only; split <;> simp

@[simp] theorem State.onCore_win (s : State) (u : Nat) (f : Hw → Hw) : (s.onCore u f).win = s.win := s.onCoreAt_win _ u f
@[simp] theorem State.onCore_gnm (s : State) (u : Nat) (f : Hw → Hw) : (s.onCore u f).gnm = s.gnm := s.onCoreAt_gnm _ u f
@[simp] theorem State.onCore_pending (s : State) (u : Nat) (f : Hw → Hw) : (s.onCore u f).pending = s.pending := s.onCoreAt_pending _ u f

@[simp] theorem Hw.begin_cc (h : Hw) (u : Nat) : (h.begin u).cc = h.cc := rfl
@[simp] theorem Hw.begin_clk (h : Hw) (u : Nat) : (h.begin u).clk = h.clk := rfl
@[simp] theorem Hw.begin_eng (h : Hw) (u : Nat) : (h.begin u).eng = h.eng := rfl
@[simp] theorem Hw.begin_pins (h : Hw) (u : Nat) : (h.begin u).pins = h.pins := rfl
@[simp] theorem Hw.begin_od (h : Hw) (u : Nat) : (h.begin u).od = h.od := rfl
@[simp] theorem Hw.begin_dom (h : Hw) (u : Nat) : (h.begin u).dom = h.dom := rfl
@[simp] theorem Hw.begin_ccNext (h : Hw) (u : Nat) : (h.begin u).ccNext = h.ccNext := rfl
@[simp] theorem Hw.begin_ccOnce (h : Hw) (u : Nat) : (h.begin u).ccOnce = h.ccOnce := rfl
@[simp] theorem Hw.begin_ccSnap (h : Hw) (u : Nat) : (h.begin u).ccSnap = h.ccSnap := rfl
@[simp] theorem Hw.begin_imageLive (h : Hw) (u : Nat) : (h.begin u).imageLive = h.imageLive := rfl
@[simp] theorem Hw.begin_adm (h : Hw) (u : Nat) : (h.begin u).adm = h.adm := rfl
@[simp] theorem Hw.begin_budgetNs (h : Hw) (u : Nat) : (h.begin u).budgetNs = h.budgetNs := rfl
@[simp] theorem Hw.begin_descDone (h : Hw) (u : Nat) : (h.begin u).descDone = h.descDone := rfl
@[simp] theorem Hw.begin_expReadNs (h : Hw) (u : Nat) : (h.begin u).expReadNs = h.expReadNs := rfl
@[simp] theorem Hw.begin_hostReads (h : Hw) (u : Nat) : (h.begin u).hostReads = h.hostReads := rfl
@[simp] theorem Hw.begin_snaps (h : Hw) (u : Nat) : (h.begin u).snaps = h.snaps := rfl
@[simp] theorem Hw.begin_staged (h : Hw) (u : Nat) : (h.begin u).staged = h.staged := rfl
@[simp] theorem Hw.begin_side (h : Hw) (u : Nat) : (h.begin u).side = h.side := rfl
@[simp] theorem Hw.begin_irq (h : Hw) (u : Nat) : (h.begin u).irq = h.irq := rfl
@[simp] theorem Hw.begin_events (h : Hw) (u : Nat) : (h.begin u).events = h.events := rfl
@[simp] theorem Hw.begin_rings (h : Hw) (u : Nat) : (h.begin u).rings = h.rings := rfl
@[simp] theorem Hw.begin_turn (h : Hw) (u : Nat) : (h.begin u).turn = h.turn := rfl
@[simp] theorem Hw.begin_queues (h : Hw) (u : Nat) : (h.begin u).queues = h.queues := rfl
@[simp] theorem Hw.begin_seqs (h : Hw) (u : Nat) : (h.begin u).seqs = h.seqs := rfl
@[simp] theorem Hw.begin_gens (h : Hw) (u : Nat) : (h.begin u).gens = h.gens := rfl
@[simp] theorem Hw.begin_arrival (h : Hw) (u : Nat) : (h.begin u).arrival = h.arrival := rfl
@[simp] theorem Hw.begin_slotsFront (h : Hw) (u : Nat) : (h.begin u).slotsFront = h.slotsFront := rfl
@[simp] theorem Hw.begin_slotsFresh (h : Hw) (u : Nat) : (h.begin u).slotsFresh = h.slotsFresh := rfl
@[simp] theorem Hw.begin_slotsFreed (h : Hw) (u : Nat) : (h.begin u).slotsFreed = h.slotsFreed := rfl
@[simp] theorem Hw.begin_windows (h : Hw) (u : Nat) : (h.begin u).windows = h.windows := rfl
@[simp] theorem Hw.begin_facets (h : Hw) (u : Nat) : (h.begin u).facets = h.facets := rfl
@[simp] theorem Hw.begin_parts (h : Hw) (u : Nat) : (h.begin u).parts = h.parts := rfl
@[simp] theorem Hw.begin_descs (h : Hw) (u : Nat) : (h.begin u).descs = h.descs := rfl
@[simp] theorem Hw.begin_descFresh (h : Hw) (u : Nat) : (h.begin u).descFresh = h.descFresh := rfl
@[simp] theorem Hw.begin_descFreed (h : Hw) (u : Nat) : (h.begin u).descFreed = h.descFreed := rfl
@[simp] theorem Hw.begin_lastPart (h : Hw) (u : Nat) : (h.begin u).lastPart = h.lastPart := rfl
@[simp] theorem Hw.begin_funnel (h : Hw) (u : Nat) : (h.begin u).funnel = h.funnel := rfl
@[simp] theorem Hw.begin_reports (h : Hw) (u : Nat) : (h.begin u).reports = h.reports := rfl
@[simp] theorem Hw.begin_delays (h : Hw) (u : Nat) : (h.begin u).delays = h.delays := rfl
@[simp] theorem Hw.begin_mem (h : Hw) (u : Nat) : (h.begin u).mem = h.mem := rfl
@[simp] theorem Hw.begin_smp (h : Hw) (u : Nat) : (h.begin u).smp = h.smp := rfl
@[simp] theorem Hw.begin_pages (h : Hw) (u : Nat) : (h.begin u).pages = h.pages := rfl
@[simp] theorem Hw.begin_jobs (h : Hw) (u : Nat) : (h.begin u).jobs = h.jobs := rfl
@[simp] theorem Hw.begin_switches (h : Hw) (u : Nat) : (h.begin u).switches = h.switches := rfl
@[simp] theorem Hw.begin_images (h : Hw) (u : Nat) : (h.begin u).images = h.images := rfl
@[simp] theorem Hw.begin_ctxRecords (h : Hw) (u : Nat) : (h.begin u).ctxRecords = h.ctxRecords := rfl
@[simp] theorem Hw.begin_sems (h : Hw) (u : Nat) : (h.begin u).sems = h.sems := rfl
@[simp] theorem Hw.begin_learners (h : Hw) (u : Nat) : (h.begin u).learners = h.learners := rfl
@[simp] theorem Hw.begin_routers (h : Hw) (u : Nat) : (h.begin u).routers = h.routers := rfl
@[simp] theorem Hw.begin_secUsed (h : Hw) (u : Nat) : (h.begin u).secUsed = h.secUsed := rfl
@[simp] theorem Hw.begin_acct (h : Hw) (u : Nat) : (h.begin u).acct = h.acct := rfl
@[simp] theorem Hw.begin_tasks (h : Hw) (u : Nat) : (h.begin u).tasks = h.tasks := rfl
@[simp] theorem Hw.begin_pairs (h : Hw) (u : Nat) : (h.begin u).pairs = h.pairs := rfl
@[simp] theorem Hw.begin_fed (h : Hw) (u : Nat) : (h.begin u).fed = h.fed := rfl
@[simp] theorem Hw.begin_journal (h : Hw) (u : Nat) : (h.begin u).journal = h.journal := rfl
@[simp] theorem Hw.begin_engineSeedUsed (h : Hw) (u : Nat) : (h.begin u).engineSeedUsed = h.engineSeedUsed := rfl
@[simp] theorem Hw.begin_expRings (h : Hw) (u : Nat) : (h.begin u).expRings = h.expRings := rfl
@[simp] theorem Hw.begin_faults (h : Hw) (u : Nat) : (h.begin u).faults = h.faults := rfl

/-! A command that takes its part of a cc changes only that place and the list of transfers. -/

@[simp] theorem Hw.started_cc (h : Hw) (c : CcPart) : (h.started c).cc = h.cc := rfl
@[simp] theorem Hw.started_clk (h : Hw) (c : CcPart) : (h.started c).clk = h.clk := rfl
@[simp] theorem Hw.started_eng (h : Hw) (c : CcPart) : (h.started c).eng = h.eng := rfl
@[simp] theorem Hw.started_pins (h : Hw) (c : CcPart) : (h.started c).pins = h.pins := rfl
@[simp] theorem Hw.started_od (h : Hw) (c : CcPart) : (h.started c).od = h.od := rfl
@[simp] theorem Hw.started_dom (h : Hw) (c : CcPart) : (h.started c).dom = h.dom := rfl
@[simp] theorem Hw.started_ccOnce (h : Hw) (c : CcPart) : (h.started c).ccOnce = h.ccOnce := rfl
@[simp] theorem Hw.started_ccSnap (h : Hw) (c : CcPart) : (h.started c).ccSnap = h.ccSnap := rfl
@[simp] theorem Hw.started_imageLive (h : Hw) (c : CcPart) : (h.started c).imageLive = h.imageLive := rfl
@[simp] theorem Hw.started_adm (h : Hw) (c : CcPart) : (h.started c).adm = h.adm := rfl
@[simp] theorem Hw.started_budgetNs (h : Hw) (c : CcPart) : (h.started c).budgetNs = h.budgetNs := rfl
@[simp] theorem Hw.started_descDone (h : Hw) (c : CcPart) : (h.started c).descDone = h.descDone := rfl
@[simp] theorem Hw.started_expReadNs (h : Hw) (c : CcPart) : (h.started c).expReadNs = h.expReadNs := rfl
@[simp] theorem Hw.started_hostReads (h : Hw) (c : CcPart) : (h.started c).hostReads = h.hostReads := rfl
@[simp] theorem Hw.started_snaps (h : Hw) (c : CcPart) : (h.started c).snaps = h.snaps := rfl
@[simp] theorem Hw.started_staged (h : Hw) (c : CcPart) : (h.started c).staged = h.staged := rfl
@[simp] theorem Hw.started_side (h : Hw) (c : CcPart) : (h.started c).side = h.side := rfl
@[simp] theorem Hw.started_irq (h : Hw) (c : CcPart) : (h.started c).irq = h.irq := rfl
@[simp] theorem Hw.started_events (h : Hw) (c : CcPart) : (h.started c).events = h.events := rfl
@[simp] theorem Hw.started_rings (h : Hw) (c : CcPart) : (h.started c).rings = h.rings := rfl
@[simp] theorem Hw.started_turn (h : Hw) (c : CcPart) : (h.started c).turn = h.turn := rfl
@[simp] theorem Hw.started_queues (h : Hw) (c : CcPart) : (h.started c).queues = h.queues := rfl
@[simp] theorem Hw.started_seqs (h : Hw) (c : CcPart) : (h.started c).seqs = h.seqs := rfl
@[simp] theorem Hw.started_gens (h : Hw) (c : CcPart) : (h.started c).gens = h.gens := rfl
@[simp] theorem Hw.started_arrival (h : Hw) (c : CcPart) : (h.started c).arrival = h.arrival := rfl
@[simp] theorem Hw.started_slotsFront (h : Hw) (c : CcPart) : (h.started c).slotsFront = h.slotsFront := rfl
@[simp] theorem Hw.started_slotsFresh (h : Hw) (c : CcPart) : (h.started c).slotsFresh = h.slotsFresh := rfl
@[simp] theorem Hw.started_slotsFreed (h : Hw) (c : CcPart) : (h.started c).slotsFreed = h.slotsFreed := rfl
@[simp] theorem Hw.started_windows (h : Hw) (c : CcPart) : (h.started c).windows = h.windows := rfl
@[simp] theorem Hw.started_facets (h : Hw) (c : CcPart) : (h.started c).facets = h.facets := rfl
@[simp] theorem Hw.started_parts (h : Hw) (c : CcPart) : (h.started c).parts = h.parts := rfl
@[simp] theorem Hw.started_descs (h : Hw) (c : CcPart) : (h.started c).descs = h.descs := rfl
@[simp] theorem Hw.started_descFresh (h : Hw) (c : CcPart) : (h.started c).descFresh = h.descFresh := rfl
@[simp] theorem Hw.started_descFreed (h : Hw) (c : CcPart) : (h.started c).descFreed = h.descFreed := rfl
@[simp] theorem Hw.started_lastPart (h : Hw) (c : CcPart) : (h.started c).lastPart = h.lastPart := rfl
@[simp] theorem Hw.started_funnel (h : Hw) (c : CcPart) : (h.started c).funnel = h.funnel := rfl
@[simp] theorem Hw.started_reports (h : Hw) (c : CcPart) : (h.started c).reports = h.reports := rfl
@[simp] theorem Hw.started_delays (h : Hw) (c : CcPart) : (h.started c).delays = h.delays := rfl
@[simp] theorem Hw.started_mem (h : Hw) (c : CcPart) : (h.started c).mem = h.mem := rfl
@[simp] theorem Hw.started_smp (h : Hw) (c : CcPart) : (h.started c).smp = h.smp := rfl
@[simp] theorem Hw.started_pages (h : Hw) (c : CcPart) : (h.started c).pages = h.pages := rfl
@[simp] theorem Hw.started_jobs (h : Hw) (c : CcPart) : (h.started c).jobs = h.jobs := rfl
@[simp] theorem Hw.started_switches (h : Hw) (c : CcPart) : (h.started c).switches = h.switches := rfl
@[simp] theorem Hw.started_images (h : Hw) (c : CcPart) : (h.started c).images = h.images := rfl
@[simp] theorem Hw.started_ctxRecords (h : Hw) (c : CcPart) : (h.started c).ctxRecords = h.ctxRecords := rfl
@[simp] theorem Hw.started_sems (h : Hw) (c : CcPart) : (h.started c).sems = h.sems := rfl
@[simp] theorem Hw.started_learners (h : Hw) (c : CcPart) : (h.started c).learners = h.learners := rfl
@[simp] theorem Hw.started_routers (h : Hw) (c : CcPart) : (h.started c).routers = h.routers := rfl
@[simp] theorem Hw.started_secUsed (h : Hw) (c : CcPart) : (h.started c).secUsed = h.secUsed := rfl
@[simp] theorem Hw.started_acct (h : Hw) (c : CcPart) : (h.started c).acct = h.acct := rfl
@[simp] theorem Hw.started_tasks (h : Hw) (c : CcPart) : (h.started c).tasks = h.tasks := rfl
@[simp] theorem Hw.started_pairs (h : Hw) (c : CcPart) : (h.started c).pairs = h.pairs := rfl
@[simp] theorem Hw.started_fed (h : Hw) (c : CcPart) : (h.started c).fed = h.fed := rfl
@[simp] theorem Hw.started_journal (h : Hw) (c : CcPart) : (h.started c).journal = h.journal := rfl
@[simp] theorem Hw.started_engineSeedUsed (h : Hw) (c : CcPart) : (h.started c).engineSeedUsed = h.engineSeedUsed := rfl
@[simp] theorem Hw.started_expRings (h : Hw) (c : CcPart) : (h.started c).expRings = h.expRings := rfl
@[simp] theorem Hw.started_faults (h : Hw) (c : CcPart) : (h.started c).faults = h.faults := rfl
@[simp] theorem Hw.started_trace (h : Hw) (c : CcPart) : (h.started c).trace = h.trace := rfl
@[simp] theorem Hw.started_out (h : Hw) (c : CcPart) : (h.started c).out = [] := rfl
@[simp] theorem Hw.started_ccNext (h : Hw) (c : CcPart) : (h.started c).ccNext = c.rank + 1 := rfl
@[simp] theorem Hw.begin_out (h : Hw) (u : Nat) : (h.begin u).out = h.out := rfl

end Sys2Proof.Machine
end

