-- ==== Sys2Proof/Laws/Serve.lean ====
section
/-! SUPPORT. What serving a request of the dictionary can do: the answer on the request's path, the counts of requests, and the effect of the
request itself. -/

namespace Sys2Proof.Machine

open Sys2Proof

/-- The machine after a request's answer has been given on its path. -/
def State.replied (s : State) (p : Path) (o : Reply × State) : State :=
  match p with
  | .window => o.2.answerWindow o.1
  | .ddp => match s.hw.side.requests with
    | [] => s
    | (_, who, l) :: rest => o.2.answerDdp who l rest o.1

/-- A core island without observation, the sideband and the ports. -/
def Hw.inner (h : Hw) : Hw := { h.body with side := Hw.reset.side, out := [] }

/-- The key of a dictionary value that no answer changes. -/
def plainKey (k : Nat) : Bool := !obsKey k && k != odKey 0x2400 1 0 && k != odKey 0x2400 2 0

/-- What a served request leaves, where its effect finds no fault and does not enter OPERATIONAL. -/
structure Served (s t : State) (p : Path) (o : Reply × State) : Prop where
  pending  : t.pending = o.2.pending
  gnm      : t.gnm = o.2.gnm
  inner    : t.hw.inner = o.2.hw.inner
  od       : ∀ k, plainKey k = true → Map.find? t.hw.od k = Map.find? o.2.hw.od k

theorem plainKey_obs {k : Nat} (h : plainKey k = true) : obsKey k = false := by
  simp only [plainKey, Bool.and_eq_true, Bool.not_eq_true'] at h
  exact h.1.1

theorem Hw.find_countServed (h : Hw) (st : Status) (k : Nat) (hk : plainKey k = true) :
    Map.find? (h.countServed st).od k = Map.find? h.od k := by
  simp only [plainKey, Bool.and_eq_true, bne_iff_ne] at hk
  unfold Hw.countServed
  dsimp only
  split
  · exact Map.find?_insert_ne _ _ _ _ hk.1.2
  · simp only [Hw.inc, Hw.bump, Hw.bumpAt, Hw.setAt]
    rw [Map.find?_insert_ne _ _ _ _ hk.2, Map.find?_insert_ne _ _ _ _ hk.1.2]

theorem Hw.inner_countServed (h : Hw) (st : Status) : (h.countServed st).inner = h.inner := by
  unfold Hw.countServed
  dsimp only
  split <;> rfl

theorem Hw.inner_pulse (h : Hw) (v : Nat) : (h.pulse v).inner = h.inner := by
  unfold Hw.pulse
  split <;> rfl

theorem Hw.od_pulse (h : Hw) (v : Nat) : (h.pulse v).od = h.od := by
  unfold Hw.pulse
  split <;> rfl

theorem Hw.inner_ddpAnswer (h : Hw) (who : Nat) (l : List Byte) : (h.ddpAnswer who l).inner = h.inner := by
  unfold Hw.ddpAnswer Hw.signal
  split <;> rfl

theorem Hw.od_ddpAnswer (h : Hw) (who : Nat) (l : List Byte) : (h.ddpAnswer who l).od = h.od := by
  unfold Hw.ddpAnswer Hw.signal
  split <;> rfl

theorem Hw.side_ddpAnswer (h : Hw) (who : Nat) (l : List Byte) :
    (h.ddpAnswer who l).side =
      { h.side with responses := h.side.responses ++ packetsOf (who / 8) (who % 8) 17 0 (ddpPrefix ++ l) } := by
  unfold Hw.ddpAnswer Hw.signal
  split <;> rfl

theorem Hw.faults_ddpAnswer (h : Hw) (who : Nat) (l : List Byte) : (h.ddpAnswer who l).faults = h.faults := by
  unfold Hw.ddpAnswer Hw.signal
  split <;> rfl

/-- The status byte of a DDP response. -/
theorem ddpResponse_status (l : List Byte) (a : Reply) : (ddpResponse l a)[7]? = some (BitVec.ofNat 8 a.status.code) := by
  unfold ddpResponse
  split
  · rfl
  · rename_i h
    have h5 : (slice l 2 5).length = 5 := by simp [slice]
    rw [List.append_assoc, List.append_assoc, List.append_assoc, List.append_assoc, List.append_assoc, List.getElem?_append_right (by simp)]
    rw [List.getElem?_append_right (by simp [h5])]
    simp [h5]

theorem Hw.inner_settle (b h : Hw) : (Hw.settle b h).inner = h.inner := by
  unfold Hw.inner
  rw [(Hw.sameOut_settle b h).body]

/-- Answers change neither what lies inside nor a plain dictionary value. -/
theorem State.replied_inner (s : State) (p : Path) (o : Reply × State) (h : p = .ddp → s.hw.side.requests ≠ []) :
    (s.replied p o).hw.inner = o.2.hw.inner := by
  unfold State.replied
  cases p with
  | window => exact (Hw.inner_pulse _ _).trans (Hw.inner_countServed _ _)
  | ddp =>
    dsimp only
    split
    · exact absurd ‹_› (h rfl)
    · exact ((Hw.inner_ddpAnswer _ _ _).trans (Hw.inner_countServed _ _)).trans rfl

theorem State.replied_od (s : State) (p : Path) (o : Reply × State) (h : p = .ddp → s.hw.side.requests ≠ []) (k : Nat)
    (hk : plainKey k = true) : Map.find? (s.replied p o).hw.od k = Map.find? o.2.hw.od k := by
  unfold State.replied
  cases p with
  | window =>
    show Map.find? ((o.2.hw.countServed o.1.status).pulse _).od k = _
    rw [Hw.od_pulse, Hw.find_countServed _ _ _ hk]
  | ddp =>
    dsimp only
    split
    · exact absurd ‹_› (h rfl)
    · show Map.find? (Hw.ddpAnswer _ _ _).od k = _
      rw [Hw.od_ddpAnswer, Hw.find_countServed _ _ _ hk]
      rfl

theorem State.replied_faults (s : State) (p : Path) (o : Reply × State) (h : p = .ddp → s.hw.side.requests ≠ []) :
    (s.replied p o).hw.faults = o.2.hw.faults := by
  have hc : ∀ (x : Hw) (st : Status), (x.countServed st).faults = x.faults := by
    intro x st
    unfold Hw.countServed
    dsimp only
    split <;> rfl
  unfold State.replied
  cases p with
  | window =>
    refine Eq.trans ?_ (hc o.2.hw o.1.status)
    show ((o.2.hw.countServed o.1.status).pulse _).faults = _
    unfold Hw.pulse
    split <;> rfl
  | ddp =>
    dsimp only
    split
    · exact absurd ‹_› (h rfl)
    · rename_i who l rest _
      show (((o.2.hw.modSide fun x => { x with requests := rest }).countServed o.1.status).ddpAnswer who _).faults = _
      rw [Hw.faults_ddpAnswer]
      exact hc (o.2.hw.modSide fun x => { x with requests := rest }) o.1.status

theorem State.replied_gnm (s : State) (p : Path) (o : Reply × State) (h : p = .ddp → s.hw.side.requests ≠ []) :
    (s.replied p o).gnm = o.2.gnm ∧ (s.replied p o).pending = o.2.pending := by
  unfold State.replied
  cases p with
  | window => exact ⟨rfl, rfl⟩
  | ddp =>
    dsimp only
    split
    · exact absurd ‹_› (h rfl)
    · exact ⟨rfl, rfl⟩

/-- No fault is answered where none was found. -/
theorem Hw.runFaults_none (h : Hw) (hf : h.faults = []) : h.runFaults = h := by
  unfold Hw.runFaults
  simp only [hf, List.foldl_nil]
  cases h
  simp_all

/-- The request that a path's command serves is there. -/
theorem request_ddp {s : State} {r : Req} (h : s.request? .ddp = some r) : s.hw.side.requests ≠ [] := by
  intro e
  simp [State.request?, e] at h

/-- A command of the dictionary carries out the path's next request where it is one of its own. -/
theorem State.serveOne_of (s : State) (p : Path) (mine : Req → Bool) (r : Req) (hr : s.request? p = some r) (hm : mine r = true) :
    (s.begun p).serveOne p mine = (s.begun p).replied p ((s.begun p).carryOut r) := by
  cases p with
  | window =>
    simp only [State.request?] at hr
    split at hr
    · rename_i hb
      simp only [Bool.and_eq_true] at hb
      injection hr with hr
      have hw : (s.begun .window).windowReq = r := hr
      have hf : (s.begun .window).windowFirst = true := hb.2
      have hbb : (s.begun .window).win.busy = true := hb.1
      simp only [State.serveOne, hw, hm, Bool.not_true, Bool.false_eq_true, if_false, hbb, if_true, hf]
      rfl
    · cases hr
  | ddp =>
    have hside : (s.begun .ddp).hw.side.requests = s.hw.side.requests := rfl
    have hbusy : (s.begun .ddp).win = s.win := rfl
    unfold State.request? at hr
    unfold State.serveOne State.replied
    dsimp only at hr ⊢
    rw [hside, hbusy]
    cases hq : s.hw.side.requests with
    | nil =>
      rw [hq] at hr
    | cons x rest =>
      obtain ⟨cc, who, l⟩ := x
      rw [hq] at hr
      dsimp only at hr ⊢
      split at hr
      · cases hr
      · rename_i hn
        injection hr with hr
        subst hr
        simp [hm, hn]

/-- The P image is written at once only where 24 KiB of changes are unwritten (R416). -/
theorem State.capImage_room (s : State) (h : s.pendingBytes < 24576) : s.capImage = s := by
  unfold State.capImage
  rw [if_neg (by omega)]

/-- What serving a request comes to. -/
theorem State.serve_eq (s : State) (p : Path) (mine : Req → Bool) (r : Req) (hl : s.Ready) (hi : s.ImageRoom p)
    (hr : s.request? p = some r) (hm : mine r = true) (hf : ((s.begun p).carryOut r).2.hw.faults = [])
    (he : ((s.begun p).carryOut r).2.hw.eng.state = .operational → s.hw.eng.state = .operational) :
    s.serve p mine =
      { (s.begun p).replied p ((s.begun p).carryOut r) with
        hw := Hw.settle (s.hw.started (s.servePart p)) ((s.begun p).replied p ((s.begun p).carryOut r)).hw } := by
  have hd : p = .ddp → (s.begun p).hw.side.requests ≠ [] := by rintro rfl; exact request_ddp hr
  have h1 := State.serveOne_of s p mine r hr hm
  have h2 := State.serveOne_of s p (fun _ => true) r hr rfl
  have hin := State.replied_inner (s.begun p) p ((s.begun p).carryOut r) hd
  have hopen : (s.begun p).hw.openRings ((s.begun p).replied p ((s.begun p).carryOut r)).hw =
      ((s.begun p).replied p ((s.begun p).carryOut r)).hw := by
    unfold Hw.openRings
    rw [if_neg]
    rintro ⟨ha, hb⟩
    have hx : ((s.begun p).replied p ((s.begun p).carryOut r)).hw.eng = ((s.begun p).carryOut r).2.hw.eng := by
      have e := congrArg Hw.eng hin
      exact e
    rw [hx] at ha
    exact hb (he ha)
  have hroom : ((s.begun p).replied p ((s.begun p).carryOut r)).pendingBytes < 24576 := by
    have e := hi
    unfold State.ImageRoom at e
    rwa [h2] at e
  have heff : ({ (s.begun p).serveOne p mine with hw := (s.begun p).hw.openRings ((s.begun p).serveOne p mine).hw } : State).capImage =
      (s.begun p).replied p ((s.begun p).carryOut r) := by
    rw [h1, hopen]
    exact State.capImage_room _ hroom
  unfold State.serve
  rw [State.onAllAt_ready _ _ _ _ hl]
  show ({ ({ (s.begun p).serveOne p mine with hw := (s.begun p).hw.openRings ((s.begun p).serveOne p mine).hw } : State).capImage with
    hw := Hw.settle _ ({ (s.begun p).serveOne p mine with
      hw := (s.begun p).hw.openRings ((s.begun p).serveOne p mine).hw } : State).capImage.hw.runFaults } : State) = _
  rw [heff, Hw.runFaults_none _ ((State.replied_faults _ _ _ hd).trans hf)]

/-- What serving a request leaves. -/
theorem State.serve_served (s : State) (p : Path) (mine : Req → Bool) (r : Req) (hl : s.Ready) (hi : s.ImageRoom p)
    (hr : s.request? p = some r) (hm : mine r = true) (hf : ((s.begun p).carryOut r).2.hw.faults = [])
    (he : ((s.begun p).carryOut r).2.hw.eng.state = .operational → s.hw.eng.state = .operational) :
    Served s (s.serve p mine) p ((s.begun p).carryOut r) := by
  have hd : p = .ddp → (s.begun p).hw.side.requests ≠ [] := by rintro rfl; exact request_ddp hr
  rw [State.serve_eq s p mine r hl hi hr hm hf he]
  obtain ⟨hg, hp⟩ := State.replied_gnm (s.begun p) p ((s.begun p).carryOut r) hd
  exact ⟨hp, hg, (Hw.inner_settle _ _).trans (State.replied_inner _ _ _ hd), fun k hk => (Hw.settle_find? _ _ _ (plainKey_obs hk)).trans
    (State.replied_od _ _ _ hd k hk)⟩

/-- Counting a served request leaves the sideband alone. -/
theorem Hw.side_countServed (h : Hw) (st : Status) : (h.countServed st).side = h.side := by
  unfold Hw.countServed
  dsimp only
  split <;> rfl

/-- The answer to a served request. -/
theorem State.serve_answered (s : State) (p : Path) (mine : Req → Bool) (r : Req) (hl : s.Ready) (hi : s.ImageRoom p)
    (hr : s.request? p = some r) (hm : mine r = true) (hf : ((s.begun p).carryOut r).2.hw.faults = [])
    (he : ((s.begun p).carryOut r).2.hw.eng.state = .operational → s.hw.eng.state = .operational)
    (hw : ((s.begun p).carryOut r).2.win = s.win) (hs : ((s.begun p).carryOut r).2.hw.side = s.hw.side) :
    s.Answered (s.serve p mine) ((s.begun p).carryOut r).1.status p := by
  rw [State.serve_eq s p mine r hl hi hr hm hf he]
  cases p with
  | window => simp only [State.Answered, State.replied, State.answerWindow, Window.place, hw, and_self]
  | ddp =>
    have hd : (s.begun .ddp).hw.side.requests ≠ [] := request_ddp hr
    have hside : (s.begun .ddp).hw.side = s.hw.side := rfl
    simp only [State.Answered, Hw.settle_side]
    unfold State.replied
    simp only [hside]
    split
    · rename_i h
      exact absurd h (by rw [← hside]; exact hd)
    · rename_i cc who l rest heq
      rw [heq]
      have hx : ∀ st : Status, ((((s.begun .ddp).carryOut r).2.hw.modSide fun x => { x with requests := rest }).countServed st).side =
          { s.hw.side with requests := rest } := by
        intro st
        rw [Hw.side_countServed]
        show { ((s.begun .ddp).carryOut r).2.hw.side with requests := rest } = _
        rw [hs]
      refine ⟨?_, cc, who, l, ddpResponse l ((s.begun .ddp).carryOut r).1, rfl, ddpResponse_status _ _, ?_⟩
      · show ((((s.begun .ddp).carryOut r).2.hw.modSide fun x => { x with requests := rest }).countServed _ |>.ddpAnswer who _).side.requests = rest
        rw [Hw.side_ddpAnswer, hx]
      · show ((((s.begun .ddp).carryOut r).2.hw.modSide fun x => { x with requests := rest }).countServed _ |>.ddpAnswer who _).side.responses = _
        rw [Hw.side_ddpAnswer, hx]

/-- A WRITE of a scalar that nothing refuses before its owner's rules is carried out by them. -/
theorem State.carryOut_write (x : State) (r : Req) (e : Entry) (hlook : lookup r.idx r.sub = some e) (hb : r.bad = false) (hop : r.op = 1)
    (hserve : x.hw.serves 1 r.idx = true) (hbar : x.writeBar r e (x.hw.objOf r.path e.sel) = .ok) (hdom : e.type ≠ .domain)
    (hoff : r.offset = 0) (hlen : r.length = e.type.size) (hlo : e.lo ≤ r.value) (hhi : r.value ≤ e.hi) :
    x.carryOut r = (.of (x.ownScalar r.idx r.sub (x.hw.objOf r.path e.sel) r.value).1,
      (x.ownScalar r.idx r.sub (x.hw.objOf r.path e.sel) r.value).2) := by
  have hfind : x.find r = (.ok, e) := by
    unfold State.find
    simp only [hlook, hb, hop, hserve]
    rfl
  unfold State.carryOut
  simp only [hfind, hop, if_neg hdom, hbar, ne_eq, not_true_eq_false, if_false]
  unfold State.writeEntry State.writeScalar
  rw [if_neg hdom, if_neg (by simp [hoff, hlen]), if_neg]
  rintro ⟨-, h | h⟩ <;> omega

/-- What a WRITE request of a scalar carries, path apart. -/
def Req.isWrite (r : Req) (idx sub v : Nat) : Prop :=
  r.bad = false ∧ r.op = 1 ∧ r.idx = idx ∧ r.sub = sub ∧ r.offset = 0 ∧ r.length = sizeOf idx sub ∧ r.value = v

/-- A WRITE of a scalar: its owner's rules, and the answer with their status. -/
theorem State.write_served (s : State) (p : Path) (idx sub v : Nat) (mine : Req → Bool) (e : Entry) (hl : s.Ready)
    (ha : s.AsksWrite p idx sub v) (hm : ∀ r : Req, r.isWrite idx sub v → mine r = true) (hlook : lookup idx sub = some e)
    (hdom : e.type ≠ .domain) (hserve : s.hw.serves 1 idx = true)
    (hbar : ∀ r : Req, r.path = p → r.isWrite idx sub v → s.hw.denied r = false → (s.begun p).writeBar r e (s.hw.objOf p e.sel) = .ok)
    (hlo : e.lo ≤ v) (hhi : v ≤ e.hi)
    (hw : ((s.begun p).ownScalar idx sub (s.hw.objOf p e.sel) v).2.win = s.win)
    (hside : ((s.begun p).ownScalar idx sub (s.hw.objOf p e.sel) v).2.hw.side = s.hw.side)
    (hf : ((s.begun p).ownScalar idx sub (s.hw.objOf p e.sel) v).2.hw.faults = [])
    (he : ((s.begun p).ownScalar idx sub (s.hw.objOf p e.sel) v).2.hw.eng.state = .operational → s.hw.eng.state = .operational) :
    Served s (s.serve p mine) p
        (.of ((s.begun p).ownScalar idx sub (s.hw.objOf p e.sel) v).1, ((s.begun p).ownScalar idx sub (s.hw.objOf p e.sel) v).2) ∧
      s.Answered (s.serve p mine) ((s.begun p).ownScalar idx sub (s.hw.objOf p e.sel) v).1 p := by
  obtain ⟨hden, hroom, r, hr, hp, hb, hop, hi, hs, hoff, hlen, hv⟩ := ha
  have hw' : r.isWrite idx sub v := ⟨hb, hop, hi, hs, hoff, hlen, hv⟩
  have hd : s.hw.denied r = false := by
    unfold Hw.denied
    cases p with
    | window => simp [hp]
    | ddp => simp [hden rfl]
  have hsz : r.length = e.type.size := by rw [hlen, sizeOf, hlook]
  have hc := State.carryOut_write (s.begun p) r e (by rw [hi, hs]; exact hlook) hb hop (by rw [hi]; exact hserve)
    (by rw [hp]; exact hbar r hp hw' hd) hdom hoff hsz (by rw [hv]; exact hlo) (by rw [hv]; exact hhi)
  have hobj : (s.begun p).hw.objOf r.path e.sel = s.hw.objOf p e.sel := by rw [hp]; rfl
  rw [hobj, hi, hs, hv] at hc
  have h1 := State.serve_served s p mine r hl hroom hr (hm r hw') (by rw [hc]; exact hf) (by rw [hc]; exact he)
  have h2 := State.serve_answered s p mine r hl hroom hr (hm r hw') (by rw [hc]; exact hf) (by rw [hc]; exact he) (by rw [hc]; exact hw)
    (by rw [hc]; exact hside)
  rw [hc] at h1 h2
  exact ⟨h1, h2⟩

/-! Field by field. -/

variable {s t : State} {p : Path} {o : Reply × State}

theorem Served.cc (h : Served s t p o) : t.hw.cc = o.2.hw.cc := by
  have e := congrArg Hw.cc h.inner; exact e
theorem Served.clk (h : Served s t p o) : t.hw.clk = o.2.hw.clk := by
  have e := congrArg Hw.clk h.inner; exact e
theorem Served.eng (h : Served s t p o) : t.hw.eng = o.2.hw.eng := by
  have e := congrArg Hw.eng h.inner; exact e
theorem Served.pins (h : Served s t p o) : t.hw.pins = o.2.hw.pins := by
  have e := congrArg Hw.pins h.inner; exact e
theorem Served.dom (h : Served s t p o) : t.hw.dom = o.2.hw.dom := by
  have e := congrArg Hw.dom h.inner; exact e
theorem Served.ccSnap (h : Served s t p o) : t.hw.ccSnap = o.2.hw.ccSnap := by
  have e := congrArg Hw.ccSnap h.inner; exact e
theorem Served.imageLive (h : Served s t p o) : t.hw.imageLive = o.2.hw.imageLive := by
  have e := congrArg Hw.imageLive h.inner; exact e
theorem Served.adm (h : Served s t p o) : t.hw.adm = o.2.hw.adm := by
  have e := congrArg Hw.adm h.inner; exact e
theorem Served.budgetNs (h : Served s t p o) : t.hw.budgetNs = o.2.hw.budgetNs := by
  have e := congrArg Hw.budgetNs h.inner; exact e
theorem Served.descDone (h : Served s t p o) : t.hw.descDone = o.2.hw.descDone := by
  have e := congrArg Hw.descDone h.inner; exact e
theorem Served.expReadNs (h : Served s t p o) : t.hw.expReadNs = o.2.hw.expReadNs := by
  have e := congrArg Hw.expReadNs h.inner; exact e
theorem Served.hostReads (h : Served s t p o) : t.hw.hostReads = o.2.hw.hostReads := by
  have e := congrArg Hw.hostReads h.inner; exact e
theorem Served.snaps (h : Served s t p o) : t.hw.snaps = o.2.hw.snaps := by
  have e := congrArg Hw.snaps h.inner; exact e
theorem Served.staged (h : Served s t p o) : t.hw.staged = o.2.hw.staged := by
  have e := congrArg Hw.staged h.inner; exact e
theorem Served.rings (h : Served s t p o) : t.hw.rings = o.2.hw.rings := by
  have e := congrArg Hw.rings h.inner; exact e
theorem Served.turn (h : Served s t p o) : t.hw.turn = o.2.hw.turn := by
  have e := congrArg Hw.turn h.inner; exact e
theorem Served.queues (h : Served s t p o) : t.hw.queues = o.2.hw.queues := by
  have e := congrArg Hw.queues h.inner; exact e
theorem Served.seqs (h : Served s t p o) : t.hw.seqs = o.2.hw.seqs := by
  have e := congrArg Hw.seqs h.inner; exact e
theorem Served.gens (h : Served s t p o) : t.hw.gens = o.2.hw.gens := by
  have e := congrArg Hw.gens h.inner; exact e
theorem Served.arrival (h : Served s t p o) : t.hw.arrival = o.2.hw.arrival := by
  have e := congrArg Hw.arrival h.inner; exact e
theorem Served.slotsFront (h : Served s t p o) : t.hw.slotsFront = o.2.hw.slotsFront := by
  have e := congrArg Hw.slotsFront h.inner; exact e
theorem Served.slotsFresh (h : Served s t p o) : t.hw.slotsFresh = o.2.hw.slotsFresh := by
  have e := congrArg Hw.slotsFresh h.inner; exact e
theorem Served.slotsFreed (h : Served s t p o) : t.hw.slotsFreed = o.2.hw.slotsFreed := by
  have e := congrArg Hw.slotsFreed h.inner; exact e
theorem Served.windows (h : Served s t p o) : t.hw.windows = o.2.hw.windows := by
  have e := congrArg Hw.windows h.inner; exact e
theorem Served.facets (h : Served s t p o) : t.hw.facets = o.2.hw.facets := by
  have e := congrArg Hw.facets h.inner; exact e
theorem Served.parts (h : Served s t p o) : t.hw.parts = o.2.hw.parts := by
  have e := congrArg Hw.parts h.inner; exact e
theorem Served.descs (h : Served s t p o) : t.hw.descs = o.2.hw.descs := by
  have e := congrArg Hw.descs h.inner; exact e
theorem Served.descFresh (h : Served s t p o) : t.hw.descFresh = o.2.hw.descFresh := by
  have e := congrArg Hw.descFresh h.inner; exact e
theorem Served.descFreed (h : Served s t p o) : t.hw.descFreed = o.2.hw.descFreed := by
  have e := congrArg Hw.descFreed h.inner; exact e
theorem Served.lastPart (h : Served s t p o) : t.hw.lastPart = o.2.hw.lastPart := by
  have e := congrArg Hw.lastPart h.inner; exact e
theorem Served.funnel (h : Served s t p o) : t.hw.funnel = o.2.hw.funnel := by
  have e := congrArg Hw.funnel h.inner; exact e
theorem Served.reports (h : Served s t p o) : t.hw.reports = o.2.hw.reports := by
  have e := congrArg Hw.reports h.inner; exact e
theorem Served.delays (h : Served s t p o) : t.hw.delays = o.2.hw.delays := by
  have e := congrArg Hw.delays h.inner; exact e
theorem Served.mem (h : Served s t p o) : t.hw.mem = o.2.hw.mem := by
  have e := congrArg Hw.mem h.inner; exact e
theorem Served.smp (h : Served s t p o) : t.hw.smp = o.2.hw.smp := by
  have e := congrArg Hw.smp h.inner; exact e
theorem Served.pages (h : Served s t p o) : t.hw.pages = o.2.hw.pages := by
  have e := congrArg Hw.pages h.inner; exact e
theorem Served.jobs (h : Served s t p o) : t.hw.jobs = o.2.hw.jobs := by
  have e := congrArg Hw.jobs h.inner; exact e
theorem Served.switches (h : Served s t p o) : t.hw.switches = o.2.hw.switches := by
  have e := congrArg Hw.switches h.inner; exact e
theorem Served.images (h : Served s t p o) : t.hw.images = o.2.hw.images := by
  have e := congrArg Hw.images h.inner; exact e
theorem Served.ctxRecords (h : Served s t p o) : t.hw.ctxRecords = o.2.hw.ctxRecords := by
  have e := congrArg Hw.ctxRecords h.inner; exact e
theorem Served.sems (h : Served s t p o) : t.hw.sems = o.2.hw.sems := by
  have e := congrArg Hw.sems h.inner; exact e
theorem Served.learners (h : Served s t p o) : t.hw.learners = o.2.hw.learners := by
  have e := congrArg Hw.learners h.inner; exact e
theorem Served.routers (h : Served s t p o) : t.hw.routers = o.2.hw.routers := by
  have e := congrArg Hw.routers h.inner; exact e
theorem Served.secUsed (h : Served s t p o) : t.hw.secUsed = o.2.hw.secUsed := by
  have e := congrArg Hw.secUsed h.inner; exact e
theorem Served.acct (h : Served s t p o) : t.hw.acct = o.2.hw.acct := by
  have e := congrArg Hw.acct h.inner; exact e
theorem Served.tasks (h : Served s t p o) : t.hw.tasks = o.2.hw.tasks := by
  have e := congrArg Hw.tasks h.inner; exact e
theorem Served.pairs (h : Served s t p o) : t.hw.pairs = o.2.hw.pairs := by
  have e := congrArg Hw.pairs h.inner; exact e
theorem Served.fed (h : Served s t p o) : t.hw.fed = o.2.hw.fed := by
  have e := congrArg Hw.fed h.inner; exact e
theorem Served.journal (h : Served s t p o) : t.hw.journal = o.2.hw.journal := by
  have e := congrArg Hw.journal h.inner; exact e
theorem Served.engineSeedUsed (h : Served s t p o) : t.hw.engineSeedUsed = o.2.hw.engineSeedUsed := by
  have e := congrArg Hw.engineSeedUsed h.inner; exact e
theorem Served.expRings (h : Served s t p o) : t.hw.expRings = o.2.hw.expRings := by
  have e := congrArg Hw.expRings h.inner; exact e

theorem Served.getAt (h : Served s t p o) (i j k : Nat) (hk : plainKey (odKey i j k) = true) : t.hw.getAt i j k = o.2.hw.getAt i j k := by
  simp only [Hw.getAt, h.od _ hk]

theorem Served.get (h : Served s t p o) (i j : Nat) (hk : plainKey (odKey i j 0) = true) : t.hw.get i j = o.2.hw.get i j := h.getAt i j 0 hk

theorem Served.raw (h : Served s t p o) (i j : Nat) (hk : plainKey (odKey i j 0) = true) : t.hw.raw i j = o.2.hw.raw i j := by
  simp only [Hw.raw, Map.getD, h.od _ hk]

theorem Served.facet (h : Served s t p o) (f : Nat) : t.hw.facet f = o.2.hw.facet f := by simp only [Hw.facet, h.facets]
theorem Served.ring (h : Served s t p o) (f : Nat) : t.hw.ring f = o.2.hw.ring f := by simp only [Hw.ring, h.rings]
theorem Served.queue (h : Served s t p o) (f : Nat) : t.hw.queue f = o.2.hw.queue f := by simp only [Hw.queue, h.queues]
theorem Served.seq? (h : Served s t p o) (f : Nat) : t.hw.seq? f = o.2.hw.seq? f := by simp only [Hw.seq?, h.seqs]
theorem Served.pool (h : Served s t p o) (f : Nat) : t.hw.pool f = o.2.hw.pool f := by simp only [Hw.pool, h.pages]
theorem Served.job (h : Served s t p o) (f : Nat) (u : Bool) : t.hw.job f u = o.2.hw.job f u := by simp only [Hw.job, h.jobs]
theorem Served.learner (h : Served s t p o) (f : Nat) : t.hw.learner f = o.2.hw.learner f := by simp only [Hw.learner, h.learners]
theorem Served.task (h : Served s t p o) (f : Nat) : t.hw.task f = o.2.hw.task f := by simp only [Hw.task, h.tasks]

/-- The key of a value whose index lies outside chapters 0xB000 and 0xC000 and is not 0x2400 is plain. -/
theorem plainKey_odKey (i j k : Nat) (hj : j < 256) (hi : i < 0xB000 ∨ 0xC020 ≤ i) (h : i ≠ 0x2400) : plainKey (odKey i j k) = true := by
  have hk : k % 65536 < 65536 := Nat.mod_lt _ (by decide)
  have ho : obsKey (odKey i j k) = false := by
    unfold obsKey odKey
    rw [Bool.and_eq_false_iff]
    simp only [decide_eq_false_iff_not]
    omega
  unfold plainKey
  simp only [ho, Bool.not_false, Bool.true_and, Bool.and_eq_true, bne_iff_ne]
  unfold odKey
  omega

/-- Keys of different indices differ. -/
theorem odKey_idx_ne (i j k i' j' k' : Nat) (hj : j < 256) (hj' : j' < 256) (h : i ≠ i') : odKey i j k ≠ odKey i' j' k' := by
  have hk : k % 65536 < 65536 := Nat.mod_lt _ (by decide)
  have hk' : k' % 65536 < 65536 := Nat.mod_lt _ (by decide)
  unfold odKey
  omega

/-- Keys of different sub-indices differ. -/
theorem odKey_sub_ne (i j k j' k' : Nat) (h : j ≠ j') : odKey i j k ≠ odKey i j' k' := by
  have hk : k % 65536 < 65536 := Nat.mod_lt _ (by decide)
  have hk' : k' % 65536 < 65536 := Nat.mod_lt _ (by decide)
  unfold odKey
  omega

end Sys2Proof.Machine
end

