-- ==== Sys2Proof/Laws/Window.lean ====
section
/-! SUPPORT. The window's buffer: every operation keeps its canonical form, and a byte reads back as it was last written. -/

namespace Sys2Proof.Machine

/-- The canonical form, as a statement about all cells. -/
theorem Memory.wf_iff (m : List Host.Cell) :
    Memory.wf m = true ↔ (∀ c ∈ m, c.2 ≠ 0) ∧ m.Pairwise fun a b => a.1 < b.1 := by
  induction m with
  | nil => simp [Memory.wf]
  | cons c r ih =>
    cases r with
    | nil => simp [Memory.wf]
    | cons d q =>
      simp only [Memory.wf, Bool.and_eq_true, bne_iff_ne, decide_eq_true_eq, ih, List.forall_mem_cons, List.pairwise_cons]
      constructor
      · rintro ⟨⟨hc, hd⟩, ⟨hd0, hr⟩, hp, hq⟩
        exact ⟨⟨hc, hd0, hr⟩, ⟨hd, fun x hx => Nat.lt_trans hd (hp x hx)⟩, hp, hq⟩
      · rintro ⟨⟨hc, hd0, hr⟩, ⟨hd, -⟩, hp, hq⟩
        exact ⟨⟨hc, hd⟩, ⟨hd0, hr⟩, hp, hq⟩

/-- A cell of a buffer after one byte was set is that byte's, or an earlier one. -/
theorem mem_putCell (a : Nat) (b : Byte) (m : List Host.Cell) (c : Host.Cell) (h : c ∈ putCell a b m) :
    (c = (a, b) ∧ b ≠ 0) ∨ c ∈ m := by
  induction m with
  | nil => unfold putCell at h; split at h <;> simp_all
  | cons d r ih =>
    unfold putCell at h
    split at h
    · split at h <;> simp_all
      tauto
    · split at h
      · split at h <;> simp_all
      · rcases List.mem_cons.mp h with h | h
        · simp [h]
        · rcases ih h with h | h
          · exact .inl h
          · exact .inr (List.mem_cons_of_mem _ h)

/-- Setting one byte keeps the canonical form. -/
theorem wf_putCell (a : Nat) (b : Byte) (m : List Host.Cell) (h : Memory.wf m = true) : Memory.wf (putCell a b m) = true := by
  rw [Memory.wf_iff] at h ⊢
  refine ⟨fun c hc => ?_, ?_⟩
  · rcases mem_putCell a b m c hc with ⟨rfl, hb⟩ | hc
    · exact hb
    · exact h.1 c hc
  · obtain ⟨-, h⟩ := h
    induction m with
    | nil => unfold putCell; split <;> simp
    | cons d r ih =>
      rw [List.pairwise_cons] at h
      unfold putCell
      split
      · split
        · exact h.2
        · exact List.pairwise_cons.mpr ⟨fun x hx => by have := h.1 x hx; simp_all, h.2⟩
      · split
        · split
          · exact List.pairwise_cons.mpr h
          · refine List.pairwise_cons.mpr ⟨fun x hx => ?_, List.pairwise_cons.mpr h⟩
            rcases List.mem_cons.mp hx with rfl | hx
            · assumption
            · have := h.1 x hx; simp only; omega
        · refine List.pairwise_cons.mpr ⟨fun x hx => ?_, ih h.2⟩
          rcases mem_putCell a b r x hx with ⟨rfl, -⟩ | hx
          · simp only; omega
          · exact h.1 x hx

/-- A cell of a placed string lies in it and is not zero. -/
theorem mem_cellsOf (a : Nat) (l : List Byte) (c : Host.Cell) (h : c ∈ cellsOf a l) : a ≤ c.1 ∧ c.1 < a + l.length ∧ c.2 ≠ 0 := by
  induction l generalizing a with
  | nil => simp [cellsOf] at h
  | cons b r ih =>
    unfold cellsOf at h
    simp only [List.length_cons]
    split at h
    · obtain ⟨h1, h2, h3⟩ := ih _ h
      exact ⟨by omega, by omega, h3⟩
    · rcases List.mem_cons.mp h with rfl | h
      · exact ⟨Nat.le_refl _, by simp only; omega, by assumption⟩
      · obtain ⟨h1, h2, h3⟩ := ih _ h
        exact ⟨by omega, by omega, h3⟩

/-- The cells of a placed string rise. -/
theorem pairwise_cellsOf (a : Nat) (l : List Byte) : (cellsOf a l).Pairwise fun x y => x.1 < y.1 := by
  induction l generalizing a with
  | nil => simp [cellsOf]
  | cons b r ih =>
    unfold cellsOf
    split
    · exact ih _
    · exact List.pairwise_cons.mpr ⟨fun x hx => by have := mem_cellsOf _ _ _ hx; simp only; omega, ih _⟩

/-- Placing read data keeps the canonical form. -/
theorem wf_place (w : Window) (l : List Byte) (h : Memory.wf w.data = true) : Memory.wf (w.place l).data = true := by
  rw [Memory.wf_iff] at h ⊢
  unfold Window.place
  refine ⟨fun c hc => ?_, List.pairwise_append.mpr ⟨pairwise_cellsOf _ _, h.2.filter _, fun x hx y hy => ?_⟩⟩
  · rcases List.mem_append.mp hc with hc | hc
    · exact (mem_cellsOf _ _ _ hc).2.2
    · exact h.1 c (List.mem_filter.mp hc).1
  · have h1 := mem_cellsOf _ _ _ hx
    have h2 := (List.mem_filter.mp hy).2
    simp only [decide_eq_true_eq] at h2
    omega

/-- A write into DATA keeps the canonical form. -/
theorem wf_writeData (w : Window) (off : Nat) (strb : BitVec 8) (data : Word64) (h : Memory.wf w.data = true) :
    Memory.wf (w.writeData off strb data).data = true := by
  unfold Window.writeData
  dsimp only
  generalize List.range 8 = l
  generalize w.data = m at h
  induction l generalizing m with
  | nil => exact h
  | cons i r ih =>
    refine ih _ ?_
    dsimp only
    split
    · exact wf_putCell _ _ _ h
    · exact h

/-- The buffer after reset is canonical: it lists nothing. -/
theorem wf_reset : Memory.wf State.reset.win.data = true := rfl

/-- A listed address of a rising buffer is not below its first. -/
theorem readCell_of_lt (m : List Host.Cell) (a : Nat) (h : ∀ c ∈ m, a < c.1) : readCell m a = 0 := by
  induction m with
  | nil => rfl
  | cons c r ih =>
    have hc := h c (List.mem_cons_self)
    unfold readCell
    rw [if_neg (by omega)]
    exact ih fun d hd => h d (List.mem_cons_of_mem _ hd)

/-- A byte reads back as it was written. -/
theorem readCell_putCell_self (a : Nat) (b : Byte) (m : List Host.Cell) (h : Memory.wf m = true) : readCell (putCell a b m) a = b := by
  replace h := ((Memory.wf_iff m).mp h).2
  induction m with
  | nil => unfold putCell; split <;> simp_all [readCell]
  | cons d r ih =>
    rw [List.pairwise_cons] at h
    unfold putCell
    split
    · rename_i hd
      split
      · rename_i hb
        rw [hb]
        exact readCell_of_lt _ _ fun c hc => hd ▸ h.1 c hc
      · simp [readCell]
    · split
      · rename_i hlt
        split
        · rename_i hb
          rw [hb]
          refine readCell_of_lt _ _ fun c hc => ?_
          rcases List.mem_cons.mp hc with rfl | hc
          · exact hlt
          · exact Nat.lt_trans hlt (h.1 c hc)
        · simp [readCell]
      · rename_i hne _
        unfold readCell
        rw [if_neg hne]
        exact ih h.2

/-- Setting one byte leaves every other one. -/
theorem readCell_putCell_ne (a k : Nat) (b : Byte) (m : List Host.Cell) (hne : k ≠ a) : readCell (putCell a b m) k = readCell m k := by
  induction m with
  | nil => unfold putCell; split <;> simp [readCell, Ne.symm hne]
  | cons d r ih =>
    unfold putCell
    split
    · rename_i hd
      split <;> simp [readCell, hd, Ne.symm hne]
    · split
      · split <;> simp [readCell, Ne.symm hne]
      · simp only [readCell, ih]

end Sys2Proof.Machine
end

