-- ==== Sys2Proof/WellFormed.lean ====
section
/-! DEFINITION. Well-formed commands: operands whose sizes the manual's interfaces fix. -/

namespace Sys2Proof

/-- A packet of the baseline transmission unit (R107): at most 64 bytes, with two-bit sequence, three-bit tag and 8-bit source. -/
def MctpPacket.wf (p : MctpPacket) : Bool :=
  decide (p.payload.length ≤ 64) && decide (p.seq < 4) && decide (p.tag < 8) && decide (p.source < 256)

/-- A start report names steps 1 to 16 and masks of the widths of 0xA010 (lanes, and the Helix shares in them), 0xA011 and 0xA012. -/
def StartReport.wf (r : StartReport) : Bool :=
  (r.standardFails ++ r.alternateFails).all (fun k => decide (1 ≤ k) && decide (k ≤ 16)) &&
  decide (r.lanesBad < 2 ^ 16) && decide (r.sharesBad < 2 ^ 16) && decide (r.banksBad < 2 ^ 16) && decide (r.pairsBad < 2 ^ 8) &&
  decide (1 ≤ r.partitions) && decide (r.partitions ≤ 64)

/-- Operands that an interface can carry: sizes of entries, beats, tiles and messages, and the ranges of numbers (R59, R75, R84,
R86, R93, R119, R146, R355). Every other constructor's operands are bounded by their types. -/
def Instr.wf : Instr → Bool
  | .aonRstRelease report => report.wf
  | .timeImport ns => decide (ns < 2 ^ 64)
  | .deadlineMiss slot => decide (slot < 2 ^ 20)
  | .delayInsert _ key _ payload => decide (key < 2 ^ 64) && decide (payload < 2 ^ 32)
  | .delayCancel _ _ payload => decide (payload < 2 ^ 32)
  | .memReadResponse _ _ _ data => decide (data.length ≤ 4096)
  | .creditReturn _ count => decide (count < 128)
  | .reportBeat _ data => decide (data.length = 64)
  | .completionRecord _ data => decide (data.length = 32)
  | .contextDone data => decide (data.length = 16)
  | .tileTransfer _ _ data _ => decide (data.length = 256)
  | .replayTimeout _ position => decide (position < 131072)
  | .mctpPacket p => p.wf
  | .deferredStart slot => decide (slot < 2 ^ 20)
  | .hotFill slot => decide (slot < 2 ^ 20)
  | .forwardMessage message prompt => decide (message.length ≤ 4096) && prompt.all fun t => decide (t < 2 ^ 32)
  | .newEntry _ entry prompt => decide (entry.length = 128) && prompt.all fun t => decide (t < 2 ^ 32)
  | .heldRingReevaluate _ entry prompt => decide (entry.length = 128) && prompt.all fun t => decide (t < 2 ^ 32)
  | .cancelEntry _ entry => decide (entry.length = 128)
  | .fedPoll produced _ => decide (produced < 2 ^ 32)
  | .liveMessage message => decide (message.length ≤ 4194304)
  | .replyMessage message => decide (message.length ≤ 4096)
  | .sampleResult _ step position => decide (step < 2 ^ 64) && decide (position < 131072)
  | .secantWalk _ slot => decide (slot < 2 ^ 20)
  | .fedVote source message => decide (source < 4096) && decide (message.length ≤ 4096)
  | .fedDecide source message => decide (source < 4096) && decide (message.length ≤ 4096)
  | .migrateTimeout msgId => decide (msgId < 2 ^ 32)
  | .victimProposal _ handles => decide (handles.length ≤ 65536)
  | .aonPorRelease .. | .aonRstAssert | .tstTrst | .powerLoss
  | .startWatchdogExpiry | .phaseReport .. | .stepBegin .. | .mCompose ..
  | .mPrefetch .. | .mDraft .. | .mCapture .. | .mCommit .. | .phaseStall .. | .phaseStallRecovery .. | .gnomonTick | .importTimeout
  | .wallTick | .delayRelease .. | .submissionDoorbell .. | .deliveryDoorbell .. | .disallowedTargetAccess .. | .noticeRead ..
  | .memWriteResponse .. | .memWatchdogExpiry .. | .memLateResponse .. | .committedWriteReissue .. | .commandDispatch | .funnelRead
  | .cmdWatchdogExpiry .. | .drainAck .. | .drainEnd .. | .drainTimeout .. | .contextTimeout .. | .replayNak .. | .tokenReturn ..
  | .dictRead .. | .dictWrite .. | .dictInfo .. | .rspDoneClear | .snapshotExpiry .. | .stagedWriteExpiry .. | .entdaa .. | .enec ..
  | .disec .. | .rstdaa | .getpid | .getbcr | .getdcr | .getstatus | .getmrl | .getmwl | .setmrl .. | .setmwl .. | .rstact ..
  | .pImageWrite | .retentionRecordWrite | .highWaterSave | .pDefaults .. | .requestConfig .. | .requestOperational ..
  | .requestQuiesced .. | .engineDrainComplete | .drainLimitExpiry | .featureAcceptWrite .. | .ringEnable .. | .ringDisable ..
  | .queueEnable .. | .queueDisable .. | .budgetPeriodBoundary | .cancelHandle .. | .queuePublication .. | .migrateHandle ..
  | .poolEnable .. | .poolDisable .. | .poolNoticeRead .. | .pageReclaim .. | .pageEvict .. | .pageRecall .. | .planComplete ..
  | .binBuildComplete .. | .facetRequestUnassigned .. | .facetRequestStandby .. | .facetRequestActive .. | .facetRequestDraining ..
  | .facetPartsWrite .. | .facetModeWrite .. | .markWrite .. | .pinnedEnableWrite .. | .descriptorZeroCounter .. | .jobStart ..
  | .jobTeardown .. | .jobGraphLoaded .. | .iterationLoad .. | .gateReady .. | .teardownComplete .. | .watermarkNoticeRead ..
  | .partWaitMaxRead .. | .firmwareBlockRequest .. | .policyProposal .. | .shapeProposal .. | .helixSelfCheck .. | .helixProbeRead ..
  | .maskSlotLoad .. | .hullMaxRead .. | .shapeTableWrite .. | .generationSliceEnd .. | .urgentStart .. | .urgentTeardown ..
  | .semaphoreDonation .. | .donationOverrun .. | .accountingPeriodBoundary | .modelRegister .. | .modelActivate .. | .versionLoad ..
  | .versionPublish .. | .versionAbort .. | .slotHandover .. | .stalenessExpiry .. | .updatePartWrite .. | .learnerDecision ..
  | .learnReset .. | .fedVoteTimeout .. | .fedResolve .. | .sramEccError .. | .residueMismatch .. | .controlCopyMismatch ..
  | .lockstepDivergence .. | .lockstepResyncComplete .. | .facetResume .. | .backgroundSlot .. | .bgEnable .. | .bgDisable ..
  | .bgShutdownComplete .. | .fwLoad .. | .fwLoadComplete .. | .countsClear .. | .binFilterWrite .. | .triggerFire ..
  | .traceUnfreeze .. | .eventRecordAccept | .rateWindowBoundary | .powerFailWarning | .supplyHealthy | .operatingHour
  | .pointCapChange .. | .pointAck .. | .pointAckTimeout | .facetGate .. | .facetUp .. | .facetUpTimeout .. | .retainRequest
  | .rsFlushAck | .wakeComparator .. | .subWake .. | .wakeRequest | .wakeCauseRead .. | .aonPorAssert | .drainAckFall ..
  | .pointAckFall | .retainRequestWithdrawn | .facetUpFall .. | .windowRegisterWrite .. | .i3cPrivateRead | .tapInstruction .. => true

end Sys2Proof
end

