-- ==== Sys2Proof/Tests/Slice0.lean ====
section
/-! SUPPORT. The author's tests: ill-formed commands that the check refuses, single steps with expected results from the manual, and for
every statement with hypotheses a state and operands that meet them. -/

namespace Sys2Proof.Tests

set_option maxRecDepth 20000
set_option Elab.async false

open Sys2Proof Sys2Proof.Machine

/-! ## States to start from -/

/-- A core island in a state of the engine, all else as after reset. -/
def island (st : EngState) : Hw := { Hw.reset with eng := { Hw.reset.eng with state := st } }

/-- Stores dictionary values: index, sub-index, object, value. -/
def put (h : Hw) (l : List (Nat × Nat × Nat × Nat)) : Hw := l.foldl (fun a e => a.setAt e.1 e.2.1 e.2.2.1 e.2.2.2) h

/-- A machine around a core island. -/
def mk (h : Hw) : State := { State.reset with hw := h }

/-- A machine whose window asks for a WRITE of a scalar. -/
def ask (h : Hw) (idx sub v : Nat) : State :=
  { mk h with win := { Window.reset with
    index := BitVec.ofNat 16 idx, sub := BitVec.ofNat 8 sub, op := 1, busy := true, data := cellsOf 0 (leBytes (sizeOf idx sub) v) } }

/-- A machine whose window asks for a READ of a scalar. -/
def askRead (h : Hw) (idx sub : Nat) : State :=
  { mk h with win := { Window.reset with index := BitVec.ofNat 16 idx, sub := BitVec.ofNat 8 sub, busy := true } }

/-- `ImageRoom` as a computation. -/
def room (s : State) (p : Path) : Bool := decide (((s.begun p).serveOne p fun _ => true).pendingBytes < 24576)

theorem room_of (s : State) (p : Path) (h : room s p = true) : s.ImageRoom p := of_decide_eq_true (p := _ < 24576) h

/-- `AsksWrite` as a computation. -/
def writes (s : State) (p : Path) (idx sub v : Nat) : Bool :=
  (p != .ddp || s.hw.featureForWrites 11) && room s p && match s.request? p with
  | some r => decide (r.path = p ∧ r.bad = false ∧ r.op = 1 ∧ r.idx = idx ∧ r.sub = sub ∧ r.offset = 0 ∧ r.length = sizeOf idx sub ∧
      r.value = v)
  | none => false

theorem asksWrite (s : State) (p : Path) (idx sub v : Nat) (h : writes s p idx sub v = true) : s.AsksWrite p idx sub v := by
  unfold writes at h
  simp only [Bool.and_eq_true, Bool.or_eq_true, bne_iff_ne] at h
  refine ⟨fun e => by cases h.1.1 <;> simp_all, room_of _ _ h.1.2, ?_⟩
  cases hr : s.request? p with
  | none => simp [hr] at h
  | some r => exact ⟨r, rfl, by simpa [hr] using h.2⟩

/-- `AsksRead` as a computation. -/
def reads (s : State) (p : Path) (idx sub : Nat) : Bool :=
  room s p && match s.request? p with
  | some r => decide (r.path = p ∧ r.bad = false ∧ r.op = 0 ∧ r.idx = idx ∧ r.sub = sub ∧ r.offset = 0 ∧ r.length = sizeOf idx sub)
  | none => false

theorem asksRead (s : State) (p : Path) (idx sub : Nat) (h : reads s p idx sub = true) : s.AsksRead p idx sub := by
  unfold reads at h
  simp only [Bool.and_eq_true] at h
  refine ⟨room_of _ _ h.1, ?_⟩
  cases hr : s.request? p with
  | none => simp [hr] at h
  | some r => exact ⟨r, rfl, by simpa [hr] using h.2⟩

/-- `Ready` as a computation. -/
def ready (s : State) : Bool :=
  s.live && decide (s.hw.ccNext = 0) && s.hw.ccOnce == [] && s.hw.events.raised == [] && s.hw.trace.made == [] &&
    s.hw.trace.fired == [] && s.hw.faults == []

theorem ready_of (s : State) (e : ready s = true) : s.Ready := by
  simp only [ready, Bool.and_eq_true, beq_iff_eq, decide_eq_true_eq] at e
  exact ⟨e.1.1.1.1.1.1, e.1.1.1.1.1.2, e.1.1.1.1.2, e.1.1.1.2, e.1.1.2, e.1.2, e.2⟩

/-- The window of a ready machine asks for a WRITE. -/
structure Asks (h : Hw) (idx sub v : Nat) : Prop where
  ready : (ask h idx sub v).Ready
  write : (ask h idx sub v).AsksWrite .window idx sub v

theorem asks (h : Hw) (idx sub v : Nat)
    (e : (ready (ask h idx sub v) && writes (ask h idx sub v) .window idx sub v) = true) : Asks h idx sub v := by
  simp only [Bool.and_eq_true] at e
  exact ⟨ready_of _ e.1, asksWrite _ _ _ _ _ e.2⟩

/-- The window of a ready machine asks for a READ. -/
structure AsksOf (h : Hw) (idx sub : Nat) : Prop where
  ready : (askRead h idx sub).Ready
  read  : (askRead h idx sub).AsksRead .window idx sub

theorem asksOf (h : Hw) (idx sub : Nat)
    (e : (ready (askRead h idx sub) && reads (askRead h idx sub) .window idx sub) = true) : AsksOf h idx sub := by
  simp only [Bool.and_eq_true] at e
  exact ⟨ready_of _ e.1, asksRead _ _ _ _ e.2⟩

/-! ## Witnesses: the dictionary -/

/-- A facet in a state, all else of it as after reset. -/
def facetIn (h : Hw) (f : Nat) (st : FacetState) : Hw := h.setFacet f { Facet.reset with state := st }

/-- A vertex, all else of it 0. -/
def vertex : Vertex :=
  { tenant := 0, generation := 1, origin := 0, state := .decode, endReason := none, vslot := 0, fallback := false, hostPool := false,
    shareReduced := false, facet := 0, generated := 1, kvTokens := 0, lastToken := 0, reservedTok := 0, version := 0, lastStep := 0,
    projection := 0, btRoot := 0, affinity := 0, tag := 0, seed := 0, stream := 0, deadline := 0, start := 0, admitted := 0, model := 0,
    cls := .be, level := 0, flags := 0, vpolicy := .follow, topn := 0, queue := 0, promptLen := 1, maxNew := 1, stop := [],
    sampling := samplingOf [], penalty := [], spec := SpecStats.initial, prefixLen := 0, arrival := 0 }

/-- A sequence of a vertex. -/
def seqOf (v : Vertex) : Seq :=
  { com := v, cur := v, pagesCom := [], pagesCur := [], blocks := [], stale := [], tokensCom := [], tokensCur := [], prompt := [], given := [],
    bias := [], hot := false, lastPlaced := 0, moving := false, migrateAsked := false, cancelAsked := none, urgent := false,
    missSeen := false, resQueue := [], resRing := [], recordReady := false, lastEntry := none }

def opHw : Hw := island .operational
def drainHw : Hw := facetIn opHw 3 .active
def roomy (st : EngState) : Hw := put (island st) [(0x4011, 1, 0, 2 ^ 22)]

/-- The handle of slot 5 with generation 1 and tenant 0. -/
def handle5 : Nat := handleOf 5 vertex
def seqHw : Hw := (put opHw [(0x1012, 1, 0, 8)]).setSeq 5 (seqOf vertex)
def ringHw : Hw := put opHw [(0x3011, 3, 0, 64), (0x3101, 1, 0, 1)]
def queueHw : Hw := put opHw [(0x3021, 2, 0, 64)]

def poolHw : Hw := put (island .config) [(0x4001, 2, 0, 4096), (0x4001, 3, 0, 16)]

def poolOnHw : Hw := put poolHw [(0x4001, 8, 0, 1)]

def mappedHw : Hw := poolOnHw.setSeq 5 { seqOf vertex with pagesCom := [{ pool := 0, page := 0, isSealed := false }] }

def stbyHw : Hw := put (facetIn opHw 2 .standby) [(0x5021, 3, 0, 16 * 2 ^ 20), (0xD010, 3, 0, 200), (0x5000, 3, 0, 1)]

def haltHw (parts : Nat) : Hw := put (facetIn opHw 2 .halted) [(0x5000, 3, 0, parts)]

def partsHw : Hw := put opHw [(0x1000, 8, 0, 64), (0x5000, 3, 0, 1), (0x5000, 1, 0, 0xF0)]

def pinHw : Hw :=
  { (put opHw [(0x1012, 1, 0, 2 ^ 63), (0x5001, 1, 0, 0)]).setSeq 5 (seqOf vertex) with dom := [(odKey 0x5030 1 0, leBytes 8 handle5)] }

def jobHw (st : FacetState) (a b : Job) : Hw :=
  ((put (facetIn opHw 2 st) [(0x1012, 1, 0, 0x12), (0x9200, 3, 0, 64), (0x9202, 3, 0, 2 ^ 60), (0x5000, 3, 0, 1)]).setJob 2 false a).setJob 2
    true b

/-- The window of a machine asks for a WRITE that carries and commits a DOMAIN value. -/
def askCommit (h : Hw) (idx sub : Nat) (l : List Byte) : State :=
  { mk h with win := { Window.reset with
    index := BitVec.ofNat 16 idx, sub := BitVec.ofNat 8 sub, op := 1, offset := 0x80000000, length := BitVec.ofNat 16 l.length, busy := true,
    data := cellsOf 0 l } }

/-- `AsksCommit` as a computation, in a ready machine. -/
def commits (h : Hw) (idx sub : Nat) (l : List Byte) : Bool :=
  ready (askCommit h idx sub l) && room (askCommit h idx sub l) .window && match (askCommit h idx sub l).request? .window with
  | some r => decide (r.path = .window ∧ r.bad = false ∧ r.op = 1 ∧ r.idx = idx ∧ r.sub = sub ∧ r.offset = 2 ^ 31 ∧
      r.length ≤ segmentMax .window ∧ r.data = l)
  | none => false

/-- The window of a ready machine asks for a WRITE that commits a DOMAIN value. -/
structure Commits (h : Hw) (idx sub : Nat) (l : List Byte) : Prop where
  ready : (askCommit h idx sub l).Ready
  write : (askCommit h idx sub l).AsksCommit .window idx sub l

theorem commits_of (h : Hw) (idx sub : Nat) (l : List Byte) (e : commits h idx sub l = true) : Commits h idx sub l := by
  unfold commits at e
  simp only [Bool.and_eq_true] at e
  have q := e.2
  refine ⟨ready_of _ e.1.1, fun c => Path.noConfusion c, room_of _ _ e.1.2, ?_⟩
  cases hr : (askCommit h idx sub l).request? .window with
  | none => simp [hr] at q
  | some r => exact ⟨r, rfl, by simpa [hr] using q⟩

/-- A shape of one node. -/
def oneNode : List Byte := [1, 0] ++ List.replicate 62 0

def treeHw : Hw := put opHw [(0x1012, 1, 0, 1)]

/-- A machine that has staged all of a mask but its last byte. -/
def stagedHw : Hw :=
  { opHw with staged := [(0, { key := odKey 0x7040 1 0, bytes := List.replicate 131071 0, ns := 0 })] }

def askLast : State :=
  { mk stagedHw with win := { Window.reset with
    index := 0x7040, sub := 1, op := 1, offset := BitVec.ofNat 32 (2 ^ 31 + 131071), length := 1, busy := true, data := [(0, 1)] } }

/-- A model 0 that may be registered, with one layer. -/
def modelIn (st : EngState) : Hw :=
  { put (island st) [(0x8002, 1, 0, 4096), (0x8003, 1, 0, 4096), (0x8003, 2, 0, 8192), (0x8004, 1, 0, 12288), (0x8004, 2, 0, 16384),
      (0x4101, 3, 0, 1), (0x4001, 2, 0, 2 ^ 22)] with
    dom := [(odKey 0x5401 1 0, leBytes 8 (4 * 2 ^ 32)), (odKey 0x8005 1 0, leBytes 8 (7 + 65536))] }

def modelHw : Hw := modelIn .operational

def regHw (l : List (Nat × Nat × Nat × Nat)) : Hw := put modelHw ((0x8000, 1, 0, 1) :: l)

def fedRound : Round := { attempt := 0, own := some 0, job := (2, false), sinceNs := 0, votes := [], sent := true, verdict := 0, proposed := 1, digest := 0 }

def roundHw : Hw := (put modelHw [(0x1012, 1, 0, 4)]).modLearner 0 fun l => { l with round := some fedRound }

def offHw : Hw := { opHw with tasks := [(0, { Task.reset with state := 0 })] }

def firedHw : Hw := put opHw [(0x1012, 1, 0, 1024), (0xB040, 8, 0, 9), (0xB038, 1, 0, 2 ^ 63)]

/-- A live machine whose core island holds `h`. -/
def opS : State := mk opHw

def packetOf (pecOk eom : Bool) (l : List Byte) : MctpPacket :=
  { pecOk := pecOk, som := true, eom := eom, seq := 0, tagOwner := true, tag := 1, source := 9, payload := l }

def sideS (f : Side → Side) : State := mk { opHw with side := f opHw.side }

def pinS (f : Pins → Pins) : State := mk { opHw with pins := f opHw.pins }

def lvlS (l : List (Nat × Nat × Nat × Nat)) (g : Facet → Facet) : State := mk ((put opHw l).modFacet 2 g)

def qS (f : Pins → Pins) : State := mk { island .quiesced with pins := f Pins.reset }

/-- A machine in RETAIN with comparator 3 armed at time 0 and a sub-wake threshold of 1. -/
def rtS : State :=
  { State.reset with
    hw := island .retain
    gnm := (((State.reset.gnm.set 0xD031 1 8).set 0xD030 4 0).set 0xD032 1 1) }

def failS : State := mk { opHw with eng := { opHw.eng with powerFail := true } }

def goodStart : StartReport :=
  { standardFails := [], alternateFails := [], lanesBad := 0, sharesBad := 0, banksBad := 0, pairsBad := 0, imageCrcOk := true, imageLayoutOk := true,
    maskRecordOk := true, counterRecordOk := true, timeImported := true, sealsOk := true, firmwareOk := true, partitions := 64 }

def lowS (st : EngState) : State := mk { island st with pins := { Pins.reset with rstLow := true } }


def gnmS (g : Gnomon → Gnomon) : State := { opS with gnm := g State.reset.gnm }

/-- A machine at 8 µs of wall time, with a sequence and a delay list. -/
def timeS (v : Vertex) (l : List DelayEntry) (held : Nat) : State :=
  mk { (((put opHw [(0x9010, 1, 0, 0)]).setSeq 5 (seqOf v)).modDelay 1 fun d => { d with entries := l, reserved := held }) with
    cc := 100, clk := { opHw.clk with g := 8000 } }

def overdue : Vertex := { vertex with cls := .dl, deadline := 1 }

def timer : DelayEntry := { key := 7, kind := 1, payload := 9, sinceCc := 3, atBegin := false }

def bellHw : Hw :=
  (put opHw [(0x3011, 6, 7, 1), (0x3011, 3, 7, 64)]).modQueue 7 fun q => { q with k := 3, m := 3, w := 3 }

def bellS : State := mk bellHw

def busyS : State := { opS with win := { Window.reset with busy := true } }

/-- A machine whose window asks for something, of length 0. -/
def askS (h : Hw) (op : BitVec 4) (idx : BitVec 16) (sub : BitVec 8) : State :=
  { mk h with win := { Window.reset with index := idx, sub := sub, op := op, busy := true } }

def changedHw : Hw := put opHw [(0x3002, 1, 0, 5)]

def drainS (g : Facet → Facet) (t : Option EngState) : State :=
  mk ({ island .draining with eng := { (island .draining).eng with pendingTarget := t } }.modFacet 3 g)

/-- A machine with facet 2 ACTIVE in step 8. -/
def facetS (g : Facet → Facet) : State :=
  mk (opHw.setFacet 2 (g { Facet.reset with state := .active, step := 8, stepRuns := true, phase := 0x100 }))

def planOf (step : Nat) : Plan :=
  { step := step, places := [], positions := [], charge := 0, carry := false, tags := [], doneIds := [], frozen := false, argsNext := 0,
    listsSent := false, bins := [], exits := [] }

/-- Facet 2 with a PLANNED plan and the marks before `m` fired, at the end of the phase. -/
def planS (fired : List Mark) : State :=
  facetS fun x => { x with phase := 0xFFFF, fired := fired, tes := .planned, composing := some (planOf 9) }

def reqOf (write : Bool) (use : MemUse) : MemReq :=
  { channel := 1, tag := 5, write := write, addr := 4096, beats := 1, lead := 0, data := if write then [1, 2] else [], purpose := .locus,
    qos := 0, cls := 0, ways := 3, tenant := none, use := use, retried := false, sinceNs := 0, expired := false, fails := 0,
    reissueNs := none }

def memS (r : MemReq) : State := mk { opHw with mem := { opHw.mem with out := [r] } }

def keptReq : MemReq := { reqOf true .other with reissueNs := some 0, fails := 1 }

def keptS : State := mk { opHw with mem := { opHw.mem with failed := [keptReq] } }

def descOf (st : DescState) : Desc :=
  { state := st, owner := .plan, facet := 2, part := 9, kind := 0, cls := .be, level := 0, counter := 0, layer := 0, operator := 0, tenant := 0,
    context := 0, model := 0, vslot := 0, args := 0, argsLen := 1, succ := [], step := 8, delay := none, readyCc := 0, bypass := 0, entry := 0,
    opClass := 0, wave := 0, waitTok := [], node := 0, urgentJob := false, sentNs := 0, sentNo := 0, expired := false,
    retireOnRecord := false, cmdId := 0, active := none }

/-- Facet 2 ACTIVE in step 8 with partition 9 open, its plan, and a descriptor of it under tag 77. -/
def dspS (d : Desc) (x : Part → Part) (g : Hw → Hw) : State :=
  mk (g { ((put (facetS fun y => { y with plans := [planOf 8] }).hw [(0x5000, 3, 0, 0x200)]).modPart 9 fun y =>
    x { y with state := .opened, credits := 4 }) with descs := [(77, d)], cc := 50 })

def waitS (d : Desc) : State := dspS d id id

def delayed : Desc := { descOf .waiting with delay := some (1, 30) }

def emptied : Desc := { descOf .waiting with active := some [] }

def readyS : State := dspS (descOf .ready) (fun y => { y with ready := [77] }) id

/-- A completion record of tag 77 on partition 9, with a status and a count of beats. -/
def recordBytes (status n : Nat) : List Byte :=
  leBytes 4 (9 + 2 * 2 ^ 6 + status * 2 ^ 10 + 77 * 2 ^ 14) ++ leBytes 4 n ++ leBytes 6 100 ++ leBytes 6 200 ++ leBytes 4 300

def sentS : State := dspS (descOf .dispatched) (fun y => { y with sent := [77], credits := 3 }) id

def funnelOf (status since : Nat) : FunnelEntry := { record := recordOf (recordBytes status 0), cls := .be, level := 0, since := since }

def funnelS (e : FunnelEntry) (x : Part → Part) : State :=
  dspS (descOf .dispatched) (fun y => x { y with sent := [77], credits := 3 }) fun h => { h with funnel := [e] }

/-- Partition 9 in a drain. -/
def ackS (credits : Nat) (req ack acked : Bool) : State :=
  dspS (descOf .waiting) (fun y => { y with intReq := req, ack := ack, acked := acked, credits := credits }) id

/-- Partition 9 in no facet, with an interrupt or a context request under way. -/
def looseS (req : Bool) (busy : Nat) : State := mk (opHw.modPart 9 fun y => { y with intReq := req, ctxBusy := busy })

def switchOf : Switch :=
  { outSlot := 0, inSlot := 1, outCtx := 7, inCtx := 5, restore := true, waiting := [9, 10], charge := 0 }

def doneBytes : List Byte := leBytes 16 (9 * 4 + 5 * 2 ^ 8)


/-- One DECODE place of slot 5, on partition 9. -/
def placeOf1 (kind : PosKind) : Place :=
  { slot := 5, part := 9, kind := kind, first := 0, count := 1, start := 1, tokenNum := 1, endsPrompt := false, model := 0, vslot := 0,
    version := 0, reserved := 0, isOpen := true, noKv := false, tree := none }

def scanS : State :=
  mk ((put (facetS fun x => { x with tes := .scan, composing := some { planOf 9 with places := [placeOf1 .decode] } }).hw
    [(0x5000, 3, 0, 0x200)]).setSeq 5 (seqOf { vertex with facet := 2 }))

/-- Model 0 with a ROUTER entry over two experts and an EXPERT entry behind it, its bins on. -/
def routed : Plan := { planOf 8 with places := [placeOf1 .decode], doneIds := [cmdIdOf { block := 9, entry := 0, word := 0, node := 0, wave := 0 }] }

def routerS : State :=
  mk { (put (facetS fun x => { x with plans := [routed] }).hw [(0x5000, 3, 0, 0x200), (0x1012, 1, 0, 0x20)]) with
    dom := [(odKey 0x5401 1 0, leBytes 8 (2 ^ 32 + 2 ^ 40) ++ leBytes 8 (2 * 2 ^ 32))], routers := [(routerKey 2 8 0 0 0, [])] }

def posOf (kind : PosKind) (status : PosStatus) : Pos :=
  { index := 0, slot := 5, part := 9, kind := kind, needs := true, tokenNum := 1, node := 0, model := 0, vslot := 0, version := 0,
    status := status }

def chain : Tree :=
  { parents := [0], shapeId := 0, base := some 1, treePos := 0, draftPos := 2, draftModel := 0, draftSlot := 0, draftVersion := 0, toks := [some 3], voids := [] }

/-- Facet 2 in step 8 with one position, of slot 5; model 0 has 128 tokens and format 1. -/
def sampS (kind : PosKind) (status : PosStatus) (store : List PosEntry) : State :=
  let c := { placeOf1 kind with tree := if kind = .tree ∨ kind = .draft then some chain else none }
  let p := { planOf 8 with places := [c], positions := [posOf kind status] }
  let h := (put (facetS fun x => { x with plans := [p] }).hw [(0x7001, 1, 0, 128), (0x7002, 1, 0, 1)]).setSeq 5 (seqOf { vertex with facet := 2 })
  mk { h with smp := { h.smp with store := store } }

def tileData : List Byte := (List.range 128).flatMap fun i => leBytes 2 (0x3F80 + i % 8)

def tileWord : Word64 := 2 + 8 * 2 ^ 4 + 2 ^ 50

def tileCrc : BitVec 32 := crc32c (leBytes 8 tileWord.toNat ++ slice tileData 0 256)

def decodeS : State := sampS .decode .awaiting []

def maskedS : State := mk (put opHw [(0xA010, 1, 0, 8)])

def request : ReplayReq := { facet := 2, step := 8, position := 0, first := 0, last := 0, crc := false, sinceNs := 0 }

def replayS : State := mk { (facetS id).hw with smp := { (facetS id).hw.smp with replays := [request] } }

def nakWord : Word64 := 2 + 8 * 2 ^ 4

def tokenOf (key : Nat) : TokenEntry := { facet := 2, step := 8, position := 0, token := 3, pad := false, key := key }

def tokenS : State := mk { (facetS id).hw with smp := { (facetS id).hw.smp with tokens := [tokenOf 1, tokenOf 1] } }

/-- A complete entry of position 0 whose only candidate is token 3. -/
def entryOf : PosEntry :=
  { PosEntry.fresh 2 8 0 5 with complete := true, count := 1, cands := [(0, 3)], acc := 65536 :: List.replicate 64 0, hull := [(0, 3, 0)] }

def nodeEntry : PosEntry := { entryOf with position := 1, cands := [(0, 9)] }



/-- A tree of a root and one node, both sampled. -/
def walkS : State :=
  let c := { placeOf1 .tree with tree := some chain, count := 2 }
  let p := { planOf 8 with places := [c], positions := [posOf .tree .complete, { posOf .tree .complete with index := 1, node := 1, tokenNum := 2 }] }
  let h := (put (facetS fun x => { x with plans := [p] }).hw [(0x7001, 1, 0, 128), (0x7002, 1, 0, 1)]).setSeq 5
    (seqOf { vertex with facet := 2, maxNew := 10, stop := [0xFFFFFFFF, 0xFFFFFFFF, 0xFFFFFFFF, 0xFFFFFFFF] })
  mk { h with smp := { h.smp with store := [entryOf, nodeEntry] } }

/-- A submission of 20 prompt tokens for model 0 through queue 4, of class BE. -/
def submission : List Byte :=
  leBytes 8 77 ++ [0, 0, 1, 0, 0, 0] ++ leBytes 2 4 ++ leBytes 4 0 ++ leBytes 4 20 ++ leBytes 4 5 ++ leBytes 4 0 ++ leBytes 8 4096 ++
    leBytes 8 1 ++ leBytes 8 2 ++ leBytes 8 0 ++ (List.replicate 4 (leBytes 4 0xFFFFFFFF)).flatten ++ samplingBytes (samplingOf
      ([1, 0] ++ leBytes 2 0 ++ leBytes 4 0x3F800000 ++ leBytes 4 0 ++ leBytes 4 0 ++ leBytes 4 0x3F800000 ++ List.replicate 28 0))

/-- Ring 7 of tenant 3 with one entry; queue 4 of tenant 3 on facet 2, which is ACTIVE; model 0 with its version slot 0 CURRENT. -/
def admitHw : Hw :=
  (put (facetIn opHw 2 .active) [(0x3011, 6, 7, 1), (0x3011, 3, 7, 64), (0x3011, 4, 7, 3), (0x3011, 5, 7, 1), (0x3101, 1, 3, 1),
    (0x3021, 6, 4, 1), (0x3021, 3, 4, 3), (0x3021, 4, 4, 2), (0x3021, 2, 4, 64), (0x8001, 1, 0, 1), (0x8012, 1, 0, 3),
    (0x4011, 1, 0, 2 ^ 22)]).modRing 7 fun x => { x with latched := 1 }





def cancelOf (handle : Nat) : List Byte := leBytes 8 77 ++ [1] ++ List.replicate 31 0 ++ leBytes 8 handle ++ List.replicate 80 0


def deferred : Vertex := { vertex with state := .deferred, start := 5000 }

def startS (v : Vertex) : State := timeS v [] 0

def publishHw : Hw :=
  (put opHw [(0x3021, 6, 4, 1), (0x3021, 1, 4, 8192)]).modQueue 4 fun q => { q with w := 2, k := 2, m := 1, c := 1 }

/-- Migration is on; a FORWARD of queue 4 waits with message 1, and a LIVE of slot 5 with message 2. -/
def migratingSeq : Seq := seqOf { vertex with state := .migrating }

def forwarded : Migration := { msgId := 1, queue := 4, slot := none, handle := 0, dest := 2, sinceNs := 0, reply := none }

def movedLive : Migration := { msgId := 2, queue := 4, slot := some 5, handle := handle5, dest := 2, sinceNs := 0, reply := none }

def fedHw : Hw :=
  let h := ((put admitHw [(0x1012, 1, 0, 0x8), (0x3101, 0xC, 3, 4), (0x3101, 1, 0, 0)]).setSeq 5 migratingSeq).modQueue 4 fun q => { q with migReserved := 2 }
  { h with fed := { h.fed with migrations := [forwarded, movedLive] } }

def fedS : State := mk fedHw

def live3 : Vertex := { vertex with tenant := 3, promptLen := 2, generated := 1, stop := List.replicate 4 0xFFFFFFFF }

def liveMsg (v : Vertex) : List Byte := migrationMessage 2 1 2 9 (handleOf 5 v) 77 0 0 (liveBody v [1, 2, 3])

def forwardMsg : List Byte := migrationMessage 1 1 2 9 0 77 0 0 (List.replicate 128 2)

def replyMsg (id outcome : Nat) : List Byte := migrationMessage 3 1 2 id 0 77 0 outcome []

def page0 (k : Nat) : PageRef := { pool := k, page := 0, isSealed := false }

/-- Pools 0 (device) and 1 (host) of 16 pages, of model 0; `free` pages of pool 0 are left; slot 5 has a page in pool `k`. -/
def pagesHw (free k : Nat) (cached : List Nat) : Hw :=
  (((put opHw [(0x1012, 1, 0, 0x80), (0x4001, 2, 0, 4096), (0x4001, 3, 0, 16), (0x4001, 8, 0, 1), (0x4001, 0xA, 0, 8), (0x4001, 0xB, 0, 12),
    (0x4001, 2, 1, 4096), (0x4001, 3, 1, 16), (0x4001, 4, 1, 1), (0x4001, 8, 1, 1), (0x4101, 3, 0, 1), (0x4101, 4, 0, 2), (0x6007, 1, 0, 4)]).modPool 0 fun p =>
      { p with fresh := 16 - free, cached := cached, info := [(0, { PageInfo.free with refs := 1 })] }).modPool 1 fun p =>
      { p with fresh := 1, info := [(0, { PageInfo.free with refs := 1 })] }).setSeq 5
    { seqOf vertex with pagesCom := [page0 k], pagesCur := [page0 k], blocks := [1, 2] }

def reclaimS : State := mk (pagesHw 3 0 [0, 4])

def evictS : State := mk (pagesHw 3 0 [])

def stuckS : State := mk (put (pagesHw 3 0 []) [(0x6007, 1, 0, 0)])

def recallS : State := mk (pagesHw 13 1 [])

def seq0 (k : Nat) : Seq := { seqOf vertex with pagesCom := [page0 k], pagesCur := [page0 k], blocks := [1, 2] }

def runningS : State := mk (put opHw [(0xA064, 1, 0, 2)])

/-- A graph of one GATE node; `ctx` is its context number, which may not be 0. -/
def graphOf (ctx : Nat) : List Byte :=
  leBytes 4 1 ++ leBytes 4 0 ++ leBytes 4 1 ++ leBytes 2 0 ++ [1, 0] ++ leBytes 2 ctx ++ List.replicate 46 0 ++
    ([0, 0, 0, 0, 8, 0, 0, 0] ++ List.replicate 24 0)

def gateNode : JobNode := { operator := 0, layer := 0, kind := 8, part := 0, deps := 0, args := 0, argsLen := 0, succ := [], delay := none }

def gateDesc : Desc := { descOf .waiting with owner := .job, kind := 8 }

/-- Facet 2 EXCLUSIVE with partition 9 and a job in slot 1; tag 77 is a GATE. -/
def exclS (j : Job) (g : Hw → Hw) : State :=
  mk (g ({ put (facetIn opHw 2 .exclusive) [(0x5000, 3, 0, 0x200), (0x8001, 1, 0, 1), (0x8041, 1, 0, 64), (0x9110, 3, 0, 0)] with
    descs := [(77, gateDesc)] }.setJob 2 false j))

def loadingS : State := exclS { Job.idle with state := .loading } id

def loadedS : State := exclS { Job.idle with state := .loading, graphOk := true, nodes := [gateNode], iterations := 1 } id

def gateJob : Job := { Job.idle with state := .running, graphOk := true, nodes := [gateNode], iterations := 2, tags := [77], gateTag := some 77 }

def gateS (suspended : Bool) : State := exclS { gateJob with suspended := suspended } id

def endingS : State := mk (((facetIn opHw 2 .exclusive)).setJob 2 false { Job.idle with state := .teardown, cause := 4 })

def readingS : State :=
  exclS { Job.idle with state := .loading } fun h => { h with mem := { h.mem with out := [reqOf false (.graphRead 2 false)] } }

def waiterOf : Waiter := { facet := 3, urgent := true, context := 5, cls := .dl, level := 0, cc := 0, tag := 7 }

/-- Semaphore 1, held by facet 2's suspended job and awaited. -/
def semS : State :=
  mk { (facetIn opHw 2 .exclusive).setJob 2 false { Job.idle with state := .running, suspended := true } with
    sems := [(1, { holder := some (2, false, 4), waiters := [waiterOf], donation := none })] }

def donatedS : State :=
  mk { (facetIn opHw 2 .exclusive).setJob 2 false { Job.idle with state := .running, suspended := true } with
    sems := [(1, { holder := some (2, false, 4), waiters := [waiterOf], donation := some 0 })] }

def slotS (h : Hw → Hw) : State :=
  mk (h (put modelHw [(0x8001, 1, 0, 1), (0x8012, 1, 0, 3), (0x8012, 2, 0, 5)]))

def doneJob : Job := { gateJob with gateReady := true, decision := some 0, telemetryOk := true, nextHeaderOk := true }

def updateJob : Job :=
  { gateJob with nodes := [{ gateNode with kind := 4 }, gateNode], headerOk := true, holdsShadow := true, learnLeft := 0 }

def updateS : State := exclS updateJob fun h => (put h [(0x8012, 1, 0, 3), (0x8012, 2, 0, 2)]).modLearner 0 fun l => { l with shadowOf := some (2, false) }

/-- A federated model 0 with key 7; engine 1, whose parent is engine 2 and whose child is engine 4. -/
def memberHw : Hw :=
  { put modelHw [(0x1012, 1, 0, 4), (0x8000, 1, 0, 1), (0x8032, 1, 0, 1), (0x8009, 1, 0, 7), (0x8300, 1, 0, 1), (0x8301, 1, 0, 2), (0x802A, 1, 0, 3)] with
    dom := (odKey 0x8302 1 0, leBytes 2 4) :: modelHw.dom }

def memberS : State := mk memberHw

def heldRound : Round := { fedRound with attempt := 3, sent := false }

def openS (sent : Bool) : State := mk (memberHw.modLearner 0 fun l => { l with round := some { heldRound with sent := sent } })

def commitMsg (kind verdict attempt : Nat) : List Byte :=
  let b := [BitVec.ofNat 8 kind, BitVec.ofNat 8 verdict, 0, 0] ++ leBytes 4 7 ++ leBytes 8 attempt ++ leBytes 4 1 ++ leBytes 4 0 ++ List.replicate 36 0
  b ++ leBytes 4 (crc32c b).toNat

def twiceS : State := mk { put opHw [(0xA064, 1, 0, 2)] with pairs := [(2, { resyncing := false, stamps := [0, 0] })] }

def shapeS : State := mk ((put opHw [(0xA064, 1, 0, 2)]).setSeq 5 (seqOf vertex))

def loadS : State := mk (put opHw [(0xA064, 1, 0, 1)])

def tilesS : State := mk { (facetS id).hw with smp := { (facetS id).hw.smp with laneFacets := [(3, 4)] } }

def simplexS : State := mk (put (facetS id).hw [(0xA013, 1, 0, 1)])

def taskS (k : Nat) (t : Task) : State := mk { opHw with tasks := [(k, t)] }

def recordOf1 (seq : Nat) : EventRec :=
  { seq := seq, code := 0x1000, stamp := 0, severity := 3, summary := false, snap := [], partSeq := 0, unit := 1, facet := none, part := none,
    count := 0, step := 0, detail := [], dueMem := false, duePersist := false }

def intakeS : State := mk { put opHw [(0xC004, 1, 0, 9)] with events := { opHw.events with intake := [recordOf1 7, recordOf1 8] } }

/-- CONFIG with facet 3 in STANDBY. -/
def cfgStbyHw : Hw := facetIn (roomy .config) 3 .standby

theorem wit_EngineStateRequests :
    (Asks drainHw 0x1101 1 6 ∧ drainHw.eng.state = .operational) ∧ Asks drainHw 0x1101 1 3 ∧
    (Asks (island .quiesced) 0x1101 1 3 ∧ (island .quiesced).eng.state = .quiesced) ∧
    (Asks (roomy .quiesced) 0x1101 1 4 ∧ (roomy .quiesced).eng.state = .quiesced ∧ (roomy .quiesced).tableShort = false) ∧
    (Asks cfgStbyHw 0x1101 1 4 ∧ cfgStbyHw.eng.state = .config ∧ (∃ f : Fin 16, (cfgStbyHw.facet f).state = .standby) ∧
      cfgStbyHw.tableShort = false) ∧
    (Asks (island .draining) 0x1101 1 4 ∧ (island .draining).eng.state = .draining ∧ (island .draining).tableShort = true) ∧
    (Asks (roomy .draining) 0x1101 1 4 ∧ (roomy .draining).eng.state = .draining ∧ (roomy .draining).tableShort = false) ∧
    Asks (roomy .draining) 0x1101 1 3 ∧ Asks (roomy .draining) 0x1101 1 6 := by
  and_intros <;> first | exact asks _ _ _ _ (by decide +kernel) | decide +kernel

theorem wit_FeaturesAndDefaults :
    (Asks (island .config) 0x1011 1 0x1F ∧ 0x1F &&& (island .config).get 0x1010 1 = 0x1F ∧
      ∀ e ∈ featureNeeds, (((island .config).set 0x1011 1 0x1F).get 0x1011 (e.1 / 64 + 1)).testBit (e.1 % 64) = true →
        (((island .config).set 0x1011 1 0x1F).get 0x1011 (e.2 / 64 + 1)).testBit (e.2 % 64) = true) ∧
    (Asks (island .config) 0x1011 4 (2 ^ 63) ∧ 2 ^ 63 &&& (island .config).get 0x1010 4 ≠ 2 ^ 63) ∧
    (Asks (island .config) 0x1200 3 1 ∧ (island .config).eng.state = .config) ∧
    ((keyEntry (odKey 0x2101 1 0)).map inImage = some true ∧ highWaterKeys.contains (odKey 0x2101 1 0) = false) := by
  and_intros <;> first | exact asks _ _ _ _ (by decide +kernel) | decide +kernel

def ringOnHw : Hw := put ringHw [(0x3011, 6, 0, 1)]
def queueOnHw : Hw := put queueHw [(0x3021, 6, 0, 1)]

theorem wit_RingAndQueueSwitches :
    (Asks ringHw 0x3011 6 1 ∧ ringHw.objOf .window .ring = 0 ∧ ringHw.getAt 0x3011 6 0 = 0 ∧ ringHw.getAt 0x3011 1 0 % 4096 = 0 ∧
      ringHw.getAt 0x3011 2 0 % 4096 = 0 ∧ isPow2 (ringHw.getAt 0x3011 3 0) = true ∧
      ringHw.getAt 0x3101 1 (ringHw.getAt 0x3011 4 0) = 1) ∧
    (Asks ringOnHw 0x3011 6 0 ∧ ringOnHw.getAt 0x3011 6 0 = 1) ∧
    (Asks queueHw 0x3021 6 1 ∧ queueHw.objOf .window .queue = 0 ∧ queueHw.queueOn 0 = false ∧ queueHw.getAt 0x3021 1 0 % 4096 = 0 ∧
      isPow2 (queueHw.queueSize 0) = true ∧ queueHw.queueFits (queueHw.queueFacet 0) (queueHw.getAt 0x3021 3 0) = true) ∧
    (Asks queueOnHw 0x3021 6 0 ∧ queueOnHw.queueOn 0 = true ∧ (queueOnHw.seqs.any fun e => e.2.com.queue = 0) = false) ∧
    (Asks (queueOnHw.setSeq 5 (seqOf vertex)) 0x3021 6 0 ∧ (queueOnHw.setSeq 5 (seqOf vertex)).queueOn 0 = true ∧
      ((queueOnHw.setSeq 5 (seqOf vertex)).seqs.any fun e => e.2.com.queue = 0) = true) := by
  and_intros <;> first | exact asks _ _ _ _ (by decide +kernel) | decide +kernel

theorem wit_HandleAndPoolRequests :
    (Asks seqHw 0x3302 1 handle5 ∧ seqHw.liveSlot handle5 = some 5 ∧ seqHw.seq? 5 = some (seqOf vertex)) ∧
    (Asks seqHw 0x3303 1 handle5 ∧ seqHw.feature 3 = true ∧ vertex.state = .decode ∧ vertex.promptLen + vertex.generated ≤ 65536) ∧
    (Asks (seqHw.setSeq 5 (seqOf { vertex with promptLen := 65535 })) 0x3303 1 handle5 ∧ 65535 + vertex.generated ≤ 65536) ∧
    (Asks (seqHw.setSeq 5 (seqOf { vertex with promptLen := 65536 })) 0x3303 1 handle5 ∧ 65536 < 65536 + vertex.generated) ∧
    Asks (seqHw.setSeq 5 (seqOf { vertex with state := .prefill })) 0x3303 1 handle5 ∧
    (Asks poolHw 0x4001 8 1 ∧ poolHw.eng.state = .config ∧ poolHw.objOf .window .pool = 0 ∧ poolHw.poolOn 0 = false ∧
      poolHw.hostPool 0 = false ∧ poolHw.getAt 0x4001 1 0 % 4096 = 0 ∧ poolHw.getAt 0x4001 6 0 % 4096 = 0 ∧
      poolHw.getAt 0x4001 7 0 % 4096 = 0 ∧ poolHw.getAt 0x4001 2 0 % 4096 = 0) ∧
    (Asks poolOnHw 0x4001 8 0 ∧ poolOnHw.poolOn 0 = true ∧ poolOnHw.poolUsed 0 = false) ∧
    (Asks mappedHw 0x4001 8 0 ∧ mappedHw.poolOn 0 = true ∧ mappedHw.poolUsed 0 = true) ∧
    AsksOf poolOnHw 0x4001 0xC := by
  and_intros <;> first | exact asks _ _ _ _ (by decide +kernel) | exact asksOf _ _ _ (by decide +kernel) | decide +kernel

def sby2 : Hw := facetIn opHw 2 .standby
def act15 : Hw := facetIn opHw 15 .active
def unasHw : Hw := put opHw [(0x5000, 3, 0, 1), (0x5001, 3, 0, 3)]
def upLow (h : Hw) : Hw := { h with pins := { h.pins with facetUp := 0 } }
def upHigh (h : Hw) : Hw := { h with pins := { h.pins with facetUp := 0xFFFF } }
def stbyUp : Hw := upHigh stbyHw
def stbyLow : Hw := upLow stbyHw
def stbyGated : Hw := put stbyUp [(0xD010, 3, 0, 0)]

theorem wit_FacetRequests :
    (Asks sby2 0x5003 3 0 ∧ (sby2.facet 2).state = .standby) ∧ (Asks (haltHw 1) 0x5003 3 0 ∧ ((haltHw 1).facet 2).state = .halted) ∧
    (Asks (facetIn opHw 2 .active) 0x5003 3 0 ∧ ((facetIn opHw 2 .active).facet 2).state = .active) ∧
    (Asks unasHw 0x5003 3 1 ∧ (unasHw.facet 2).state = .unassigned ∧ unasHw.facetParts 2 ≠ [] ∧ unasHw.mode 2 < 4) ∧
    (Asks sby2 0x5003 3 1 ∧ (sby2.facet 2).state ≠ .unassigned) ∧ (Asks opHw 0x5003 3 1 ∧ opHw.facetParts 2 = []) ∧
    (Asks stbyUp 0x5003 3 2 ∧ (stbyUp.facet 2).state = .standby ∧ (stbyUp.facet 2).waitingUp = none ∧
      16 * 2 ^ 20 ≤ stbyUp.raw 0x5021 3 ∧ stbyUp.raw 0xD010 3 ≠ 0 ∧ stbyUp.pins.facetUp.testBit 2 = true) ∧
    (Asks stbyLow 0x5003 3 2 ∧ (stbyLow.facet 2).state = .standby ∧ (stbyLow.facet 2).waitingUp = none ∧
      16 * 2 ^ 20 ≤ stbyLow.raw 0x5021 3 ∧ stbyLow.pins.facetUp.testBit 2 = false) ∧
    (Asks stbyGated 0x5003 3 2 ∧ (stbyGated.facet 2).state = .standby ∧ (stbyGated.facet 2).waitingUp = none ∧
      16 * 2 ^ 20 ≤ stbyGated.raw 0x5021 3 ∧ stbyGated.raw 0xD010 3 = 0) ∧
    (Asks opHw 0x5003 3 2 ∧ (opHw.facet 2).state ≠ .standby) ∧ (Asks sby2 0x5003 3 2 ∧ sby2.raw 0x5021 3 < 16 * 2 ^ 20) ∧
    (Asks act15 0x5003 16 4 ∧ (act15.facet 15).state = .active) ∧ (Asks opHw 0x5003 1 4 ∧ (opHw.facet 0).state ≠ .active) ∧
    (Asks (haltHw 1) 0xA005 3 1 ∧ (haltHw 1).facetParts 2 ≠ [] ∧ ((haltHw 1).job 2 false).state ≠ .pending) ∧
    (Asks (haltHw 0) 0xA005 3 1 ∧ (haltHw 0).facetParts 2 = []) ∧ (Asks sby2 0xA005 3 1 ∧ (sby2.facet 2).state ≠ .halted) := by
  and_intros <;> first | exact asks _ _ _ _ (by decide +kernel) | decide +kernel

def actPart : Hw := put (facetIn opHw 2 .active) [(0x5000, 3, 0, 1)]
def stbyPart : Hw := put (facetIn opHw 2 .standby) [(0x1000, 8, 0, 64), (0x5000, 3, 0, 1)]
def takesParts (h : Hw) (v : Nat) : Bool :=
  decide (v < 2 ^ h.get 0x1000 8) && decide (v &&& h.raw 0x2201 1 = 0) &&
    decide (v &&& ((List.range 16).filter fun g => g ≠ (2 : Fin 16).val).foldl (fun a g => a ||| h.raw 0x5000 (g + 1)) 0 = 0) &&
    (h.set 0x5000 3 v).descSumOk (h.set 0x5000 3 v).withParts

theorem wit_FacetConfiguration :
    (Asks partsHw 0x5000 3 (2 ^ 63 + 0xF) ∧ (partsHw.facet 2).state = .unassigned ∧ takesParts partsHw (2 ^ 63 + 0xF) = true) ∧
    (Asks stbyPart 0x5000 3 2 ∧ (stbyPart.facet 2).state = .standby ∧ takesParts stbyPart 2 = true) ∧
    (Asks actPart 0x5000 3 3 ∧ (actPart.facet 2).state = .active ∧ 3 ≠ actPart.raw 0x5000 3) ∧ Asks opHw 0x5001 16 3 ∧
    (Asks opHw 0x5202 3 0x9000 ∧
      marksOk ((List.range 5).map fun k => if k = (2 : Fin 5).val then 0x9000 else opHw.get (0x5200 + k) 3) = true) ∧
    (Asks opHw 0x5204 3 0xFF01 ∧
      marksOk ((List.range 5).map fun k => if k = (4 : Fin 5).val then 0xFF01 else opHw.get (0x5200 + k) 3) = false) ∧
    (Asks pinHw 0x5031 1 1 ∧ pinHw.feature 63 = true ∧ pinHw.pinnedList 0 = [handle5] ∧
      (distinct (pinHw.pinnedList 0)).length = (pinHw.pinnedList 0).length ∧ (pinHw.pinnedList 0).length ≤ pinHw.modeParam 0 2 ∧
      pinHw.liveSlot handle5 = some 5 ∧ pinHw.seq? 5 = some (seqOf vertex) ∧ vertex.facet = 0 ∧ vertex.shareReduced = false) := by
  and_intros <;> first | exact asks _ _ _ _ (by decide +kernel) | decide +kernel

def jobOf (st : JobState) : Job := { Job.idle with state := st }
def jobUp : Hw := upHigh (put (jobHw .standby .idle .idle) [(0xD010, 3, 0, 200)])
def jobIdle : Hw := jobHw .active .idle .idle
def jobPend (yielded : Bool) : Hw := jobHw .active { jobOf .pending with yielded := yielded } .idle
def jobRuns : Hw := jobHw .exclusive (jobOf .running) .idle
def jobUrgent (st : JobState) : Hw := jobHw .exclusive .idle (jobOf st)

theorem wit_JobRequests :
    (jobIdle.lcReserved 2 = false ∧ jobIdle.feature 1 = true ∧ jobIdle.feature 4 = true ∧ jobIdle.feature 62 = false) ∧
    (Asks jobUp 0x6401 3 1 ∧ jobUp.lcReserved 2 = false ∧ (jobUp.job 2 false).state.held = false ∧ (jobUp.facet 2).state = .standby ∧
      jobUp.raw 0xD010 3 ≠ 0 ∧ jobUp.pins.facetUp.testBit 2 = true) ∧
    (Asks jobIdle 0x6401 3 1 ∧ (jobIdle.job 2 false).state.held = false ∧ (jobIdle.facet 2).state = .active) ∧
    (Asks jobRuns 0x6401 3 1 ∧ jobRuns.lcReserved 2 = false ∧ (jobRuns.job 2 false).state.held = true) ∧
    (Asks (jobPend false) 0x6401 3 2 ∧ ((jobPend false).job 2 false).state = .pending ∧ ((jobPend false).job 2 false).yielded = false) ∧
    (Asks (jobPend true) 0x6401 3 2 ∧ ((jobPend true).job 2 false).state = .pending ∧ ((jobPend true).job 2 false).yielded = true) ∧
    (Asks jobRuns 0x6401 3 2 ∧ (jobRuns.job 2 false).state = .running ∧ jobRuns.donated 2 false = false) ∧
    Asks (jobHw .exclusive (jobOf .loading) .idle) 0x6401 3 2 ∧
    (Asks jobRuns 0x9201 3 1 ∧ (jobRuns.facet 2).state = .exclusive ∧ (jobRuns.job 2 false).cls = .be ∧
      (jobRuns.job 2 true).state.held = false ∧ jobRuns.raw 0x9200 3 ≠ 0 ∧ jobRuns.raw 0x9200 3 % 64 = 0 ∧
      jobRuns.now + jobRuns.switchNs 2 1 2 ≤ jobRuns.raw 0x9202 3) ∧
    (Asks (jobUrgent .running) 0x9201 3 2 ∧ ((jobUrgent .running).job 2 true).state = .running ∧
      (jobUrgent .running).donated 2 true = false) ∧ Asks (jobUrgent .loading) 0x9201 3 2 := by
  and_intros <;> first | exact asks _ _ _ _ (by decide +kernel) | decide +kernel

theorem wit_ReadsThatClear :
    AsksOf opHw 0x601A 64 ∧ AsksOf opHw 0x6021 16 ∧ AsksOf opHw 0x6016 1 ∧ AsksOf opHw 0x702A 1 ∧ AsksOf opHw 0xD021 1 ∧
    AsksOf opHw 0x7110 4 ∧ AsksOf opHw 0x7110 5 := by
  and_intros <;> exact asksOf _ _ _ (by decide +kernel)

theorem askLast_staged : askLast.hw.liveStaged .window (odKey 0x7040 1 0) =
    some { key := odKey 0x7040 1 0, bytes := List.replicate 131071 0, ns := 0 } := rfl

theorem askLast_length : (askLast.hw.liveStaged .window (odKey 0x7040 1 0)).map (fun x => x.bytes.length) = some 131071 := by
  rw [askLast_staged, Option.map_some, List.length_replicate]

theorem wit_TableLoads :
    (Commits treeHw 0x7210 1 oneNode ∧ treeHw.feature 0 = true ∧ validShape oneNode = true) ∧
    (Commits treeHw 0x7210 16 [1, 1] ∧ validShape [1, 1] = false) ∧ Commits opHw 0x7040 1 [1, 1] ∧
    askLast.Ready ∧ askLast.ImageRoom .window ∧ (askLast.request? .window).isSome = true ∧
      (askLast.request? .window).map (fun r => (r.path, r.bad, r.op, r.idx, r.sub)) = some (.window, false, 1, 0x7040, 1) ∧
      (askLast.request? .window).map (fun r => (r.offset, r.length, r.data)) = some (2 ^ 31 + 131071, 1, [1]) ∧
      (askLast.hw.raw 0x7042 1).testBit 0 = false ∧
      (askLast.hw.liveStaged .window (odKey 0x7040 1 0)).map (fun x => x.bytes.length) = some 131071 := by
  refine ⟨⟨?_, ?_, ?_⟩, ⟨?_, ?_⟩, ?_, ready_of _ ?_, room_of _ _ ?_, ?_, ?_, ?_, ?_, askLast_length⟩ <;> first
    | exact commits_of _ _ _ _ (by decide +kernel) | decide +kernel

def loadHw : Hw := regHw [(0x8012, 1, 0, 3), (0x8012, 2, 0, 1)]
def prevHw : Hw := regHw [(0x8012, 1, 0, 3), (0x8012, 2, 0, 4)]
def onHw : Hw := regHw [(0x8001, 1, 0, 1)]
def manyHw : Hw := regHw ((List.range 16).map fun k => (0x8001, 1, k + 1, 1))
def namedHw : Hw := (regHw []).setJob 2 false { Job.idle with state := .running, loaded := true }
def heldRoundHw : Hw := roundHw.setJob 2 false { Job.idle with state := .running, gateReady := true }

theorem wit_ModelRequests :
    (Asks (modelIn .config) 0x8000 1 1 ∧ (modelIn .config).objOf .window .model = 0 ∧ (modelIn .config).getAt 0x8000 1 0 = 0 ∧
      (modelIn .config).mayRegister 0 = true) ∧
    (Asks (regHw []) 0x8001 1 1 ∧ (regHw []).getAt 0x8001 1 0 = 0 ∧
      ((List.range 256).filter fun k => (regHw []).getAt 0x8001 1 k = 1).length < 16 ∧ (regHw []).getAt 0x8000 1 0 = 1 ∧
      (regHw []).getAt 0x4101 3 0 ≠ 0 ∧ (regHw []).modelPoolsOk 0 = true ∧ programOk ((regHw []).program 0) = true) ∧
    (Asks manyHw 0x8001 1 1 ∧ manyHw.getAt 0x8001 1 0 = 0 ∧ 16 ≤ ((List.range 256).filter fun k => manyHw.getAt 0x8001 1 k = 1).length) ∧
    (Asks onHw 0x8001 1 0 ∧ onHw.getAt 0x8001 1 0 = 1 ∧ onHw.jobNames 0 = false ∧ onHw.seqs = []) ∧
    (Asks (regHw []) 0x8010 1 1 ∧ (regHw []).jobNames 0 = false ∧ (regHw []).slotState 0 ((regHw []).writeSlot 0) = 0) ∧
    (Asks prevHw 0x8010 1 1 ∧ prevHw.getAt 0x8000 1 0 = 1 ∧ prevHw.jobNames 0 = false ∧ prevHw.slotState 0 (prevHw.writeSlot 0) = 4) ∧
    (Asks loadHw 0x8010 1 (2 + 1 * 2 ^ 32) ∧ loadHw.getAt 0x8000 1 0 = 1 ∧ loadHw.topVersion 0 < 1 ∧ loadHw.slotState 0 1 = 1 ∧
      loadHw.slotState 0 0 = 3 ∧ (loadHw.learner 0).shadowQueue = []) ∧
    (Asks loadHw 0x8010 1 (2 + 0 * 2 ^ 32) ∧ 0 ≤ loadHw.topVersion 0) ∧ Asks loadHw 0x8010 1 3 ∧
    (Asks (regHw []) 0x802D 1 1 ∧ (regHw []).jobNames 0 = false) ∧ (Asks namedHw 0x802D 1 1 ∧ namedHw.jobNames 0 = true) ∧
    (Asks (put modelHw [(0x1012, 1, 0, 4)]) 0x8309 1 2 ∧ (put modelHw [(0x1012, 1, 0, 4)]).feature 2 = true ∧
      ((put modelHw [(0x1012, 1, 0, 4)]).learner 0).round = none) ∧
    (Asks roundHw 0x8309 1 1 ∧ roundHw.feature 2 = true ∧ (roundHw.learner 0).round = some fedRound ∧ roundHw.roundState 0 = 2 ∧
      roundHw.roundJob 0 = none) ∧
    (Asks heldRoundHw 0x8309 1 2 ∧ heldRoundHw.feature 2 = true ∧ (heldRoundHw.learner 0).round = some fedRound ∧
      heldRoundHw.roundState 0 = 2 ∧ heldRoundHw.roundJob 0 = some (2, false) ∧ (heldRoundHw.job 2 false).decision = none) := by
  and_intros <;> first | exact asks _ _ _ _ (by decide +kernel) | decide +kernel

theorem wit_BackgroundAndObservation :
    (Asks offHw 0xA050 1 1 ∧ (offHw.task 0).state = 0) ∧ (Asks opHw 0xA050 6 0 ∧ (opHw.task 5).state = 1) ∧
    Asks (island .config) 0xA063 1 1 ∧ Asks opHw 0xA063 1 1 ∧ Asks opHw 0xB002 1 1 ∧ Asks opHw 0xB020 64 (2 ^ 49 - 1) ∧
    (Asks firedHw 0xB042 1 7 ∧ firedHw.feature 10 = true ∧ (firedHw.raw 0xB040 8).testBit 3 = true ∧ firedHw.raw 0xB040 8 % 8 = 1) ∧
    (Asks firedHw 0xB039 1 1 ∧ (firedHw.raw 0xB038 1).testBit 63 = true) := by
  and_intros <;> first | exact asks _ _ _ _ (by decide +kernel) | decide +kernel

/-- A packet that waits for its sender. -/
def waiting : MctpPacket := packetOf true true []

theorem wit_SidebandAndTestPort :
    (opS.Ready ∧ opS.hw.side.address = 0 ∧ opS.hw.side.responses = []) ∧
    ((sideS fun d => { d with responses := [waiting], ibiOn := true }).Ready ∧
      (sideS fun d => { d with responses := [waiting], ibiOn := true }).hw.side.address = 0 ∧
      (sideS fun d => { d with responses := [waiting], ibiOn := true }).hw.side.ibiOn = true) ∧
    ((sideS fun d => { d with address := 8, responses := [waiting], ibiOn := false }).Ready ∧
      (sideS fun d => { d with address := 8, responses := [waiting], ibiOn := false }).hw.side.address ≠ 0 ∧
      (sideS fun d => { d with address := 8, responses := [waiting], ibiOn := false }).hw.side.ibiOn = false) := by
  and_intros <;> first | exact ready_of _ (by decide +kernel) | decide +kernel

/-- A machine with dynamic address 8. -/
def addrS (f : Side → Side) : State := sideS fun d => f { d with address := 8 }

def bare (bytes : List Byte) : MctpPacket := packetOf true true (ddpPrefix ++ bytes)

theorem wit_SidebandMessages :
    (opS.Ready ∧ opS.hw.side.address = 0 ∧ opS.hw.side.responses = []) ∧
    ((addrS id).Ready ∧ (addrS id).hw.side.address ≠ 0 ∧ (addrS id).hw.side.responses = []) ∧
    (({ bare [] with tagOwner := false } : MctpPacket).pecOk = true ∧ ({ bare [] with tagOwner := false } : MctpPacket).tagOwner = false) ∧
    (packetOf false true []).pecOk = false ∧
    ((bare [0]).pecOk = true ∧ (bare [0]).tagOwner = true ∧ (bare [0]).som = true ∧ (bare [0]).eom = true ∧
      (bare [0]).payload.length ≤ 1029 ∧ (bare [0]).payload.take 5 = ddpPrefix ∧ (addrS id).hw.side.requests.length < 4 ∧
      (bare (List.replicate 1024 0)).payload.length = 1029 ∧ (bare (List.replicate 1024 0)).payload.take 5 = ddpPrefix) ∧
    ((addrS fun d => { d with requests := List.replicate 4 (0, 0, []) }).Ready ∧
      4 ≤ (addrS fun d => { d with requests := List.replicate 4 (0, 0, []) }).hw.side.requests.length) ∧
    ((packetOf true false [1]).som = true ∧ (packetOf true false [1]).eom = false ∧ (packetOf true false [1]).payload.length ≤ 1029) ∧
    ((addrS fun d => { d with assembling := some (9, 1, 0, [1]) }).Ready ∧
      (addrS fun d => { d with assembling := some (9, 1, 0, [1]) }).hw.side.assembling = some (9, 1, 0, [1]) ∧
      (let p := { packetOf true false [2] with som := false }
      (p.source, p.tag, p.seq % 4) = (9, 1, 0) ∧ p.som = false ∧ p.eom = false ∧ ([1] ++ p.payload).length ≤ 1029)) ∧
    ((addrS fun d => { d with responses := [waiting] }).Ready ∧
      (addrS fun d => { d with responses := [waiting] }).hw.side.responses = waiting :: []) := by
  and_intros <;> first | exact ready_of _ (by decide +kernel) | exact List.take_left' rfl | decide +kernel

def ptS (f : Pins → Pins) : State := pinS fun p => f { p with pointReq := 2 }

/-- A machine whose clock shows a time. -/
def atNs (ns : Nat) (s : State) : State := mk { s.hw with clk := { opHw.clk with prev := ns, g := ns } }

theorem wit_ClockPoints :
    (opS.Ready ∧ opS.hw.pins.changing = false ∧ opS.hw.pins.pointAck = false ∧ max (opS.hw.raw 0xD000 1) (3 : Fin 4) ≠ opS.hw.pins.pointReq) ∧
    ((ptS id).Ready ∧ (ptS id).hw.pins.changing = true ∧ (ptS id).hw.pins.pointAck = false ∧ (ptS id).hw.pins.pointReq = (2 : Fin 4) ∧
      (ptS id).hw.pins.pointReq ≠ (1 : Fin 4)) ∧
    ((pinS fun p => { p with pointAck := true }).Ready ∧ (pinS fun p => { p with pointAck := true }).hw.pins.pointReq =
      max ((pinS fun p => { p with pointAck := true }).hw.raw 0xD000 1) (pinS fun p => { p with pointAck := true }).hw.pins.pointCap) ∧
    ((pinS fun p => { p with pointAck := true, pointCap := 3 }).Ready ∧ (pinS fun p => { p with pointAck := true, pointCap := 3 }).hw.pins.changing = false ∧
      (pinS fun p => { p with pointAck := true, pointCap := 3 }).hw.pins.pointReq ≠
        max ((pinS fun p => { p with pointAck := true, pointCap := 3 }).hw.raw 0xD000 1)
          (pinS fun p => { p with pointAck := true, pointCap := 3 }).hw.pins.pointCap) ∧
    ((atNs 100000 (ptS id)).Ready ∧ (atNs 100000 (ptS id)).hw.pins.changing = true ∧ (atNs 100000 (ptS id)).hw.pins.pointLogged = false ∧
      (atNs 100000 (ptS id)).hw.pins.pointReqNs + 100000 ≤ (atNs 100000 (ptS id)).hw.now) ∧
    (ptS id).hw.now < (ptS id).hw.pins.pointReqNs + 100000 := by
  and_intros <;> first | exact ready_of _ (by decide +kernel) | decide +kernel

def idleS (ns : Nat) : State := atNs ns (lvlS [(0xD014, 3, 0, 5)] fun x => { x with idleSinceNs := some 0 })
def upS (ns : Nat) (st : FacetState) : State := atNs ns (lvlS [] fun x => { x with state := .standby, waitingUp := some st })

theorem wit_FacetLevels :
    ((idleS 5000000).Ready ∧ (idleS 5000000).hw.mayGate 2 = true ∧ (idleS 5000000).hw.get 0xD014 3 ≠ 0xFFFFFFFF ∧
      ((idleS 5000000).hw.facet 2).idleSinceNs = some 0 ∧ 0 + 1000000 * (idleS 5000000).hw.get 0xD014 3 ≤ (idleS 5000000).hw.now) ∧
    ((idleS 4999999).Ready ∧ (idleS 4999999).hw.now < 0 + 1000000 * (idleS 4999999).hw.get 0xD014 3) ∧
    ((lvlS [] fun f => { f with state := .active }).Ready ∧ (lvlS [] fun f => { f with state := .active }).hw.mayGate 2 = false) ∧
    ((upS (10 ^ 8) .active).Ready ∧ ((upS (10 ^ 8) .active).hw.facet 2).waitingUp = some .active ∧
      ((upS (10 ^ 8) .active).hw.facet 2).upSinceNs + 100000000 ≤ (upS (10 ^ 8) .active).hw.now) ∧
    ((upS (10 ^ 8) .exclusive).Ready ∧ ((upS (10 ^ 8) .exclusive).hw.facet 2).waitingUp = some .exclusive) ∧
    ((upS 0 .active).Ready ∧ (upS 0 .active).hw.now < ((upS 0 .active).hw.facet 2).upSinceNs + 100000000) ∧
    ((lvlS [] id).hw.facet 2).waitingUp = none ∧
    ((lvlS [(0xD010, 3, 0, 0)] id).Ready ∧ (lvlS [(0xD010, 3, 0, 0)] id).hw.raw 0xD010 3 = 0) ∧
    ((lvlS [(0xD010, 3, 0, 4)] id).Ready ∧ (lvlS [(0xD010, 3, 0, 4)] id).hw.raw 0xD010 3 ≠ 0) ∧
    ((upHigh (upS 0 .active).hw).eng.state = .operational ∧ (upHigh (upS 0 .active).hw).pins.facetUp.testBit 2 = true ∧
      (upLow (upS 0 .exclusive).hw).pins.facetUp.testBit 2 = false) := by
  and_intros <;> first | exact ready_of _ (by decide +kernel) | decide +kernel

def flushS : State := qS fun p => { p with rsFlush := true, retReq := true }

theorem wit_RetainAndWake :
    (opS.Ready ∧ opS.hw.eng.state = .operational) ∧
    ((qS id).Ready ∧ (qS id).hw.eng.state = .quiesced ∧ (qS id).hw.eng.pendingTarget = none) ∧
    (flushS.Ready ∧ flushS.hw.pins.rsFlush = true ∧ flushS.hw.pins.retReq = true ∧ flushS.hw.eng.state = .quiesced ∧
      flushS.hw.eng.powerFail = false) ∧
    (rtS.gnm.powered = true ∧ rtS.hw.eng.state = .retain ∧ (rtS.gnm.get 0xD031 1).testBit (3 : Fin 8) = true ∧
      rtS.gnm.get 0xD030 ((3 : Fin 8) + 1) ≤ rtS.gnm.time ∧ 0 < rtS.gnm.get 0xD032 1 ∧ rtS.gnm.get 0xD032 1 ≤ 1) := by
  and_intros <;> first | exact ready_of _ (by decide +kernel) | decide +kernel

theorem wit_PowerFailure :
    (opS.Ready ∧ opS.hw.eng.state = .operational ∧ opS.hw.eng.powerFail = false) ∧
    (failS.Ready ∧ failS.hw.eng.state = .operational ∧ failS.hw.eng.powerFail = true) ∧
    (rtS.hw.eng.state = .retain ∧ rtS.gnm.powered = true) := by
  and_intros <;> first | exact ready_of _ (by decide +kernel) | decide +kernel

theorem wit_Resets :
    (mk (island .off)).hw.eng.state = .off ∧ opS.hw.eng.state ≠ .off ∧ opS.hw.eng.state ≠ .retain ∧ rtS.hw.eng.state = .retain := by
  decide +kernel

/-- A machine whose start has run for 60 s, after a number of expiries in a row. -/
def longS (n : Nat) : State := { State.reset with gnm := { State.reset.gnm with watchdogRun := n, startTicks := 60 * 32768 } }

theorem wit_Starts :
    ((lowS .start).hw.Quiet ∧ (lowS .start).hw.ccNext = 0 ∧ (lowS .start).hw.eng.state ≠ .off ∧ (lowS .start).hw.pins.rstLow = true ∧
      goodStart.alternateFails = [] ∧ 1 ∉ goodStart.standardFails ∧ 9 ∉ goodStart.standardFails ∧ 15 ∉ goodStart.standardFails) ∧
    ((longS 2).hw.eng.state = .start ∧ (longS 2).hw.pins.rstLow = false ∧
      (longS 2).gnm.watchdogMs * 32768 ≤ (longS 2).gnm.startTicks * 1000 ∧ (longS 2).gnm.watchdogRun < 3) ∧
    ((longS 3).Ready ∧ (longS 3).hw.eng.state = .start ∧ (longS 3).gnm.watchdogMs * 32768 ≤ (longS 3).gnm.startTicks * 1000 ∧
      3 ≤ (longS 3).gnm.watchdogRun) ∧
    State.reset.gnm.startTicks * 1000 < State.reset.gnm.watchdogMs * 32768 := by
  and_intros <;> first | exact ready_of _ (by decide +kernel) | exact ⟨rfl, rfl, rfl, rfl⟩ | decide +kernel

def syncS (ofs : Int) : State := gnmS fun g => { g with synced := true, offset := ofs }
def importS (n : Nat) : State := gnmS fun g => { g with anyImport := true, count := n * 64 }
def ageS (n : Nat) : State := gnmS fun g => { g with ageTicks := n }
def hourS (n : Nat) : State := gnmS fun g => g.set 0xD112 1 n

theorem wit_WallTime :
    (opS.gnm.powered = true ∧ opS.Ready ∧ opS.gnm.synced = false) ∧
    ((syncS 0).Ready ∧ (syncS 0).gnm.synced = true ∧ (syncS 0).gnm.offset = 0) ∧
    ((syncS 100000).gnm.powered = true ∧ (syncS 100000).gnm.synced = true ∧
      ((syncS 100000).gnm.ageTicks + 1) * 1000 < (syncS 100000).gnm.get 0xD100 8 * 32768 ∧
      (slewMax ((syncS 100000).gnm.get 0xD100 4) : Int) < (syncS 100000).gnm.offset) ∧
    ((syncS (-100000)).gnm.powered = true ∧ (syncS (-100000)).gnm.synced = true ∧
      (syncS (-100000)).gnm.offset < -(slewMax ((syncS (-100000)).gnm.get 0xD100 4) : Int)) ∧
    ((importS 0).gnm.powered = true ∧ (importS 0).Ready ∧ (importS 0).gnm.anyImport = true ∧
      (importS 0).gnm.time + (importS 0).gnm.get 0xD100 5 < 2 ^ 40 ∧
      (importS 0).gnm.get 0xD100 5 ≤ (importS 0).gnm.time + (importS 0).gnm.get 0xD100 5 ∧
      (importS 0).gnm.time ≤ (importS 0).gnm.get 0xD100 5 + (importS 0).gnm.get 0xD100 5) ∧
    ((importS (2 ^ 50)).gnm.powered = true ∧ (importS (2 ^ 50)).Ready ∧ (importS (2 ^ 50)).gnm.anyImport = true ∧
      5 + (importS (2 ^ 50)).gnm.get 0xD100 5 < (importS (2 ^ 50)).gnm.time) ∧
    (opS.gnm.anyImport = false ∧ opS.gnm.time ≤ 5) ∧
    ((ageS (2 ^ 40)).gnm.powered = true ∧ (ageS (2 ^ 40)).gnm.get 0xD100 8 * 32768 ≤ (ageS (2 ^ 40)).gnm.ageTicks * 1000) ∧
    (ageS 0).gnm.ageTicks * 1000 < (ageS 0).gnm.get 0xD100 8 * 32768 ∧
    ((hourS 117964799).gnm.powered = true ∧ (hourS 117964799).hw.eng.state ≠ .off ∧ (hourS 117964799).hw.eng.state ≠ .retain ∧
      (hourS 117964799).gnm.get 0xD112 1 = 117964799) ∧ (hourS 117964798).gnm.get 0xD112 1 < 117964799 := by
  and_intros <;> first | exact ready_of _ (by decide +kernel) | decide +kernel

def missS (policy : Nat) : State := mk (put (timeS overdue [] 0).hw [(0x9010, 1, 0, policy)])

theorem wit_DelaysAndDeadlines :
    ((timeS vertex [] 0).Ready ∧ (timeS vertex [] 0).hw.clk.us < (timeS vertex [] 0).hw.nowUs) ∧
    (opS.Ready ∧ opS.hw.nowUs ≤ opS.hw.clk.us) ∧
    ((missS 0).Ready ∧ (missS 0).hw.seq? 5 = some (seqOf overdue) ∧ overdue.cls = .dl ∧ overdue.state ≠ .ended ∧
      (seqOf overdue).missSeen = false ∧ overdue.deadline / 1000 < (missS 0).hw.nowUs ∧ (missS 0).hw.get 0x9010 (overdue.facet + 1) ≤ 1) ∧
    ((missS 1).Ready ∧ (missS 1).hw.get 0x9010 (overdue.facet + 1) = 1) ∧
    ((timeS { overdue with deadline := 8999 } [] 0).Ready ∧ (timeS { overdue with deadline := 8999 } [] 0).hw.nowUs ≤ 8999 / 1000 ∧
      (timeS { overdue with deadline := 8999 } [] 0).hw.seq? 5 = some (seqOf { overdue with deadline := 8999 })) ∧
    ((timeS vertex [] 0).hw.seq? 5 = some (seqOf vertex) ∧ vertex.cls ≠ .dl) ∧
    ((timeS vertex [] 4095).Ready ∧
      ((timeS vertex [] 4095).hw.delay (1 : Fin 4)).entries.length + ((timeS vertex [] 4095).hw.delay (1 : Fin 4)).reserved < 4096) ∧
    ((timeS vertex [] 4096).Ready ∧
      4096 ≤ ((timeS vertex [] 4096).hw.delay (1 : Fin 4)).entries.length + ((timeS vertex [] 4096).hw.delay (1 : Fin 4)).reserved) ∧
    (timeS vertex [] 0).hw.dueEntries (1 : Fin 4) = [] ∧
    ((timeS vertex [timer] 0).Ready ∧ (timeS vertex [timer] 0).hw.dueEntries (1 : Fin 4) = [timer] ∧ timer.kind ≠ 0) := by
  and_intros <;> first | exact ready_of _ (by decide +kernel) | decide +kernel

/-- A read of the host that has no response yet. -/
def hostRead : BitVec 8 × Word64 × Nat := (1, 0, 0)
def fullPortS (n : Nat) : State := mk { bellHw with hostReads := List.replicate n hostRead }
def offBellS : State := mk ((put bellHw [(0x3011, 6, 7, 0)]).modRing 7 fun x => { x with offCc := some bellHw.cc })

theorem wit_Doorbells :
    ((0x0F : BitVec 8) ≠ 0xFF) ∧ ((fullPortS 15).Ready ∧ (fullPortS 15).hw.hostReads.length < 16) ∧
    (bellS.Ready ∧ bellS.hw.hostReads.length < 16 ∧ bellS.hw.getAt 0x3011 6 (7 : Fin 4096) = 1 ∧
      sub32 ((64 : Word64).toNat % 2 ^ 32) (bellS.hw.ring (7 : Fin 4096)).consumed ≤ bellS.hw.getAt 0x3011 3 (7 : Fin 4096) ∧
      bellS.hw.getAt 0x3011 3 (7 : Fin 4096) < sub32 ((65 : Word64).toNat % 2 ^ 32) (bellS.hw.ring (7 : Fin 4096)).consumed) ∧
    (offBellS.Ready ∧ offBellS.hw.getAt 0x3011 6 (7 : Fin 4096) = 0 ∧ (offBellS.hw.ring (7 : Fin 4096)).offCc = some offBellS.hw.cc) ∧
    (sub32 ((3 : Word64).toNat % 2 ^ 32) (bellS.hw.queue (7 : Fin 4096)).c ≤
        sub32 (bellS.hw.queue (7 : Fin 4096)).m (bellS.hw.queue (7 : Fin 4096)).c ∧
      sub32 (bellS.hw.queue (7 : Fin 4096)).m (bellS.hw.queue (7 : Fin 4096)).c <
        sub32 ((4 : Word64).toNat % 2 ^ 32) (bellS.hw.queue (7 : Fin 4096)).c) ∧
    ((fullPortS 16).Ready ∧ 16 ≤ (fullPortS 16).hw.hostReads.length) := by
  and_intros <;> first | exact ready_of _ (by decide +kernel) | decide +kernel

def portS (ready : Bool) : State := pinS fun p => { p with rspReady := ready }

theorem wit_TargetAccesses :
    ((portS true).Ready ∧ (portS true).hw.hostReads.length < 16 ∧ (portS true).hw.hostReads = [] ∧ (portS true).hw.pins.rspReady = true) ∧
    ((portS false).Ready ∧ (portS false).hw.hostReads.length < 16 ∧ (portS false).hw.pins.rspReady = false) ∧
    regionOf ((0x2010008 : BitVec 26).toNat / 8 * 8) = .fast ∧ regionOf ((0x2000000 : BitVec 26).toNat / 8 * 8) = .window ∧
    strobeOk 0x03 = false ∧ regionOf ((0x3FFFFF8 : BitVec 26).toNat / 8 * 8) = .reserved := by
  and_intros <;> first | exact ready_of _ (by decide +kernel) | decide +kernel

theorem wit_WindowRegisters :
    (opS.Ready ∧ opS.hw.hostReads.length < 16 ∧ opS.win.busy = false ∧ (1 : Word64).getLsbD 0 = true ∧ Memory.wf opS.win.data = true) ∧
    (busyS.Ready ∧ busyS.hw.hostReads.length < 16 ∧ busyS.win.busy = true ∧ (0x10 : BitVec 16).toNat ≤ 0x10 ∧
      0x8000 ≤ (0x8000 : BitVec 16).toNat) := by
  and_intros <;> first | exact ready_of _ (by decide +kernel) | decide +kernel

def readS : State := askS opHw 0 0x1100 1
def infoS : State := askS opHw 2 0x1100 1
def noneS : State := askS opHw 0 0xFFFF 1
def snapOf (n : Nat) : Snap := { key := odKey 0x7040 1 0, bytes := [], ns := n }
def snapS (n : Nat) : State := atNs (10 ^ 10) (mk { opHw with snaps := [(0, snapOf n)], staged := [(0, snapOf n)] })

theorem wit_DictionaryReads :
    (readS.Ready ∧ readS.ImageRoom .window ∧ readS.request? .window = some readS.windowReq ∧ readS.windowReq.path = .window ∧
      readS.windowReq.bad = false ∧ readS.windowReq.op = 0 ∧ readS.windowReq.offset = 0 ∧ readS.windowReq.length = (readS.find readS.windowReq).2.type.size ∧
      (readS.find readS.windowReq).1 = .ok ∧ (readS.find readS.windowReq).2.type ≠ .domain ∧ (readS.find readS.windowReq).2.access ≠ .rc ∧
      readS.windowReq.sub ≠ 0) ∧
    (infoS.Ready ∧ infoS.ImageRoom .window ∧ infoS.request? .window = some infoS.windowReq ∧ infoS.windowReq.op = 2 ∧
      infoS.windowReq.bad = false ∧ (infoS.find infoS.windowReq).1 = .ok) ∧
    (noneS.Ready ∧ noneS.ImageRoom .window ∧ noneS.request? .window = some noneS.windowReq ∧ noneS.windowReq.op = 0 ∧
      noneS.windowReq.bad = false ∧ lookup noneS.windowReq.idx noneS.windowReq.sub = none ∧ indexListed noneS.windowReq.idx = false) ∧
    ((snapS 0).Ready ∧ Map.find? (snapS 0).hw.snaps (pathNum .window) = some (snapOf 0) ∧
      Map.find? (snapS 0).hw.staged (pathNum .window) = some (snapOf 0) ∧ 0 + 10000000000 ≤ (snapS 0).hw.now) ∧
    ((snapS 1).Ready ∧ Map.find? (snapS 1).hw.snaps (pathNum .window) = some (snapOf 1) ∧ (snapS 1).hw.now < 1 + 10000000000) := by
  and_intros <;> first | exact ready_of _ (by decide +kernel) | exact room_of _ _ (by decide +kernel) | decide +kernel

theorem wit_DictionaryWrites :
    (Asks opHw 0x2101 1 10 ∧ Asks opHw 0x2101 1 9 ∧ Asks opHw 0x3120 1 1 ∧ Asks opHw 0x6006 1 1 ∧ Asks opHw 0xA001 1 255 ∧
      Asks opHw 0xC000 1 1 ∧ Asks opHw 0xC003 1 1 ∧ (lookup 0x2101 1).map (fun e => e.lo) = some 10 ∧
      ([(0x2101, 1), (0x3120, 1), (0x6006, 1), (0xA001, 1), (0xC000, 1), (0xC003, 1)].all fun x => match lookup x.1 x.2 with
        | some e => decide (e.lo ≤ 10) && decide (e.lo ≤ e.hi)
        | none => false) = true) ∧
    (Asks opHw 0x1100 1 1 ∧ (lookup 0x1100 1).map (fun e => e.access) = some .ro) ∧
    (Asks opHw 0xD021 1 1 ∧ (lookup 0xD021 1).map (fun e => e.access) = some .rc) ∧
    (Asks opHw 0x1000 3 1 ∧ (lookup 0x1000 3).map (fun e => e.access) = some .const) := by
  and_intros <;> first | exact asks _ _ _ _ (by decide +kernel) | decide +kernel

/-- A draining engine with facet 3 draining and the others in STANDBY. -/
def limS (ns : Nat) : State :=
  atNs ns (mk ((List.range 16).foldl (fun a f => a.setFacet f { Facet.reset with state := if f = 3 then .draining else .standby })
    (drainS id none).hw))

def toConfigHw : Hw := { island .quiesced with eng := { (island .quiesced).eng with pendingTarget := some .config } }

theorem wit_RetentionAndDrains :
    ((mk changedHw).Ready ∧ (mk changedHw).pendingBytes ≠ 0) ∧
    ((drainS id none).Ready ∧ (drainS id none).hw.eng.state = .draining ∧ (drainS id none).hw.drained = true ∧
      (drainS id none).hw.eng.pendingTarget = none ∧ (drainS id none).hw.pins.retReq = false) ∧
    ((drainS id (some .config)).Ready ∧ (drainS id (some .config)).hw.drained = true ∧
      (drainS id (some .config)).hw.eng.pendingTarget = some .config) ∧
    ((drainS (fun x => { x with state := .draining }) none).Ready ∧
      (drainS (fun x => { x with state := .draining }) none).hw.drained = false) ∧
    ((limS (2 ^ 50)).Ready ∧ (limS (2 ^ 50)).hw.eng.state = .draining ∧ (limS (2 ^ 50)).hw.eng.limitHit = false ∧
      (limS (2 ^ 50)).hw.eng.drainNs + 1000000 * (limS (2 ^ 50)).hw.get 0x1105 1 ≤ (limS (2 ^ 50)).hw.now ∧
      (∀ f : Fin 16, ((limS (2 ^ 50)).hw.facet f).state = .draining ∨ ((limS (2 ^ 50)).hw.facet f).state = .standby) ∧
      (∀ f : Fin 16, ((limS (2 ^ 50)).hw.job f false).state ≠ .pending)) ∧
    ((mk (put (limS 0).hw [(0x1105, 1, 0, 1)])).Ready ∧ (mk (put (limS 0).hw [(0x1105, 1, 0, 1)])).hw.eng.state = .draining ∧
      (mk (put (limS 0).hw [(0x1105, 1, 0, 1)])).hw.now < (mk (put (limS 0).hw [(0x1105, 1, 0, 1)])).hw.eng.drainNs +
        1000000 * (mk (put (limS 0).hw [(0x1105, 1, 0, 1)])).hw.get 0x1105 1) ∧
    (toConfigHw.eng.state = .quiesced ∧ toConfigHw.eng.pendingTarget = some .config) := by
  and_intros <;> first | exact ready_of _ (by decide +kernel) | decide +kernel

def firedS : State := facetS fun x => { x with fired := [.compose, .pfetch, .draft, .capture, .commit] }
def stallS (ns : Nat) : State := atNs ns (facetS id)

theorem wit_PhaseReports :
    ((facetS id).Ready ∧ ((facetS id).hw.facet 2).state.runs = true ∧ ((facetS id).hw.facet 2).phase < (0x101 : BitVec 16).toNat) ∧
    (((facetS id).hw.facet 2).state = .active ∧ ((facetS id).hw.facet 2).stepRuns = true ∧
      (0xFF : BitVec 16).toNat < ((facetS id).hw.facet 2).phase ∧ (facetS id).hw.raw 0xA006 3 < (facetS id).hw.get 0xA001 1) ∧
    (opS.Ready ∧ (opS.hw.facet 2).state.runs = false) ∧
    (firedS.Ready ∧ (firedS.hw.facet 2).state.runs = true ∧ (firedS.hw.facet 2).mayBegin = true ∧ (firedS.hw.facet 2).unfired = []) ∧
    ((stallS (2 ^ 50)).Ready ∧ ((stallS (2 ^ 50)).hw.facet 2).stallLogged = false ∧ ((stallS (2 ^ 50)).hw.facet 2).stallFaulted = false ∧
      2 * (stallS (2 ^ 50)).hw.stallNs 2 ≤ (stallS (2 ^ 50)).hw.phaseAge 2 ∧ (stallS (2 ^ 50)).hw.raw 0xA006 3 < (stallS (2 ^ 50)).hw.get 0xA001 1) ∧
    ((facetS id).hw.phaseAge 2 < (facetS id).hw.stallNs 2) := by
  and_intros <;> first | exact ready_of _ (by decide +kernel) | decide +kernel

def cmpS : State := facetS fun x => { x with phase := 0x2000 }

theorem wit_Marks :
    (cmpS.Ready ∧ (cmpS.hw.facet 2).state = .active ∧ (cmpS.hw.facet 2).due .compose = true ∧
      cmpS.hw.mayCompose 2 ((cmpS.hw.facet 2).step + 1) = true) ∧
    ((planS [.compose]).Ready ∧ ((planS [.compose]).hw.facet 2).state = .active ∧ ((planS [.compose]).hw.facet 2).due .pfetch = true ∧
      ((planS [.compose]).hw.facet 2).tes = .planned ∧ ((planS [.compose]).hw.facet 2).composing = some (planOf 9) ∧
      (planOf 9).listsSent = false) ∧
    ((planS [.compose, .pfetch]).Ready ∧ ((planS [.compose, .pfetch]).hw.facet 2).due .draft = true) ∧
    ((planS [.compose, .pfetch, .draft]).Ready ∧ ((planS [.compose, .pfetch, .draft]).hw.facet 2).due .capture = true ∧
      (planS [.compose, .pfetch, .draft]).hw.modeNow 2 ≠ 3) ∧
    ((planS [.compose, .pfetch, .draft, .capture]).Ready ∧ ((planS [.compose, .pfetch, .draft, .capture]).hw.facet 2).due .commit = true) ∧
    ((facetS id).Ready ∧ [Mark.compose, .pfetch, .draft, .capture, .commit].all (fun m => !((facetS id).hw.facet 2).due m) = true) := by
  and_intros <;> first | exact ready_of _ (by decide +kernel) | decide +kernel

def rdReq : MemReq := reqOf false .startRead
def wrReq : MemReq := reqOf true .other
def twice : MemReq := { wrReq with retried := true }
def expd : MemReq := { wrReq with expired := true }
def keptLate : MemReq := { keptReq with reissueNs := some (2 ^ 60) }
def keptLateS : State := mk { opHw with mem := { opHw.mem with failed := [keptLate] } }

theorem wit_MemoryResponses :
    ((memS rdReq).Ready ∧ (memS rdReq).hw.memFind 1 5 false = some rdReq ∧ rdReq.use = .startRead ∧ rdReq.expired = false ∧
      (memS rdReq).hw.clk.prev < (memS rdReq).hw.memLimit rdReq ∧ rdReq.tenant = none ∧ (memS rdReq).hw.mem.queue = []) ∧
    ((memS wrReq).Ready ∧ (memS wrReq).hw.memFind 1 5 true = some wrReq ∧ wrReq.use = .other ∧ wrReq.expired = false ∧
      (memS wrReq).hw.clk.prev < (memS wrReq).hw.memLimit wrReq ∧ wrReq.tenant = none ∧ wrReq.retried = false ∧
      (memS wrReq).hw.mem.queue = []) ∧
    ((memS twice).Ready ∧ (memS twice).hw.memFind 1 5 true = some twice ∧ (memS twice).hw.clk.prev < (memS twice).hw.memLimit twice ∧
      twice.retried = true ∧ twice.purpose.dropped = false ∧ twice.fails < 15) ∧
    (opS.Ready ∧ opS.hw.memFind 1 5 true = none ∧ opS.hw.memFind 1 5 false = none) ∧
    ((atNs (2 ^ 50) (memS wrReq)).Ready ∧ (atNs (2 ^ 50) (memS wrReq)).hw.memFind 1 5 true = some wrReq ∧
      (atNs (2 ^ 50) (memS wrReq)).hw.memLimit wrReq ≤ (atNs (2 ^ 50) (memS wrReq)).hw.now) ∧
    (memS wrReq).hw.now < (memS wrReq).hw.memLimit wrReq ∧
    ((memS expd).Ready ∧ (memS expd).hw.memFind 1 5 true = some expd ∧ expd.expired = true ∧ (memS expd).hw.mem.queue = []) ∧
    (keptS.Ready ∧ (keptS.hw.mem.failed.find? fun q => q.channel = (1 : Fin 2).val && q.tag = (5 : Fin 1024).val) = some keptReq ∧
      keptReq.reissueNs = some 0 ∧ 0 ≤ keptS.hw.now) ∧
    (keptLateS.Ready ∧ (keptLateS.hw.mem.failed.find? fun q => q.channel = (1 : Fin 2).val && q.tag = (5 : Fin 1024).val) = some keptLate ∧
      keptLateS.hw.now < 2 ^ 60) := by
  and_intros <;> first | exact ready_of _ (by decide +kernel) | decide +kernel

/-- Tag 77 as a command of facet 2's job, with and without a delay. -/
def ownedDesc : Desc := { descOf .waiting with owner := .job }
def jobDescS (d : Desc) : State :=
  dspS d id fun h => h.setJob 2 false { Job.idle with state := .running, headerOk := true, tags := [77] }

theorem wit_Dispatch :
    ((jobDescS ownedDesc).Ready ∧ (jobDescS ownedDesc).hw.desc? 77 = some ownedDesc ∧ ownedDesc.state = .waiting ∧ ownedDesc.counter = 0 ∧
      ownedDesc.kind ≠ 8 ∧ (jobDescS ownedDesc).hw.released 77 ownedDesc = true ∧ (jobDescS ownedDesc).hw.jobReleased ownedDesc = true ∧
      ((jobDescS ownedDesc).hw.job 2 false).semOf ownedDesc.node = none ∧ ownedDesc.active = none ∧ ownedDesc.delay = none) ∧
    ((waitS (descOf .waiting)).Ready ∧ (waitS (descOf .waiting)).hw.desc? 77 = some (descOf .waiting) ∧ (descOf .waiting).owner ≠ .job ∧
      (waitS (descOf .waiting)).hw.released 77 (descOf .waiting) = true ∧ (descOf .waiting).active ≠ some [] ∧ (descOf .waiting).delay = none) ∧
    ((waitS delayed).Ready ∧ (waitS delayed).hw.desc? 77 = some delayed ∧ (waitS delayed).hw.released 77 delayed = true ∧
      (waitS delayed).hw.jobReleased delayed = true ∧ delayed.active ≠ some [] ∧ delayed.delay = some (1, 30)) ∧
    ((waitS emptied).Ready ∧ (waitS emptied).hw.desc? 77 = some emptied ∧ (waitS emptied).hw.released 77 emptied = true ∧
      emptied.owner = .plan ∧ emptied.active = some [] ∧ emptied.succ = []) ∧
    (opS.Ready ∧ opS.hw.desc? (77 : Fin 262144) = none) ∧
    (readyS.Ready ∧ readyS.hw.choose = some (9, 77) ∧ readyS.hw.desc? 77 = some (descOf .ready)) ∧ opS.hw.choose = none := by
  and_intros <;> first | exact ready_of _ (by decide +kernel) | decide +kernel

def ackedS : State := dspS (descOf .dispatched) (fun y => { y with ack := true }) id
def fullFunnelS : State := mk { opHw with cc := 50, funnel := List.replicate 13 (funnelOf 0 49) }

theorem wit_Completions :
    (sentS.Ready ∧ (sentS.hw.part 9).ack = false ∧ (sentS.hw.part 9).credits + 1 ≤ sentS.hw.get 0x2200 10 ∧ sentS.hw.facetOf 9 = some 2 ∧
      (sentS.hw.job 2 false).state ≠ .running ∧ (sentS.hw.job 2 true).state ≠ .running) ∧
    sentS.hw.get 0x2200 10 < (sentS.hw.part 9).credits + 1000 ∧ (ackedS.Ready ∧ (ackedS.hw.part 9).ack = true) ∧
    (sentS.hw.funnelReady = true ∧ (sentS.hw.beats 0).length ≤ 1020) ∧ (fullFunnelS.Ready ∧ fullFunnelS.hw.funnelReady = false) ∧
    (((sentS.hw.part (recordOf (recordBytes 0 5)).part).sent.contains (recordOf (recordBytes 0 5)).tag &&
        sentS.hw.cmdOverdue (recordOf (recordBytes 0 5)).tag) = false ∧
      ((sentS.hw.part (recordOf (recordBytes 0 5)).part).ghosts.find? fun g =>
        g.1 == (recordOf (recordBytes 0 5)).tag && (recordOf (recordBytes 0 5)).part / 16 == (0 : Fin 4).val) = none ∧
      sentS.hw.malformedRecord 0 (recordBytes 0 5) = true) ∧
    (sentS.hw.cmdOverdue (recordOf (recordBytes 0 0)).tag = false ∧ sentS.hw.malformedRecord 0 (recordBytes 0 0) = false ∧
      sentS.hw.beats 0 = [] ∧ sentS.hw.desc? (recordOf (recordBytes 0 0)).tag = some (descOf .dispatched)) := by
  and_intros <;> first | exact ready_of _ (by decide +kernel) | decide +kernel

def gone : Part → Part := fun y => { y with ghosts := [(77, false)] }
def succDesc : Desc := { descOf .dispatched with succ := [78] }
def countedDesc : Desc := { descOf .waiting with counter := 3 }
def succS : State := mk { (funnelS (funnelOf 0 48) id).hw with descs := [(77, succDesc), (78, countedDesc)] }
def overS : State := atNs 10000000000 sentS

theorem wit_FunnelReads :
    (opS.Ready ∧ opS.hw.funnel = []) ∧
    ((funnelS (funnelOf 0 50) id).Ready ∧ (funnelS (funnelOf 0 50) id).hw.funnel = [funnelOf 0 50] ∧ (funnelS (funnelOf 0 50) id).hw.cc ≤ 50) ∧
    ((funnelS (funnelOf 0 49) gone).Ready ∧ 49 < (funnelS (funnelOf 0 49) gone).hw.cc ∧ (funnelS (funnelOf 0 49) gone).hw.cc < 49 + 8 ∧
      (((funnelS (funnelOf 0 49) gone).hw.part (funnelOf 0 49).record.part).ghosts.find? fun x =>
        x.1 == (funnelOf 0 49).record.tag) = some (77, false)) ∧
    ((funnelS (funnelOf 0 48) id).Ready ∧ ((funnelS (funnelOf 0 48) id).hw.part 9).ghosts = [] ∧ (funnelOf 0 48).record.part = 9 ∧
      (funnelOf 0 48).record.tag = 77 ∧ (funnelS (funnelOf 0 48) id).hw.desc? 77 = some (descOf .dispatched) ∧
      ((funnelS (funnelOf 0 48) id).hw.part 9).sent.contains 77 = true ∧ (descOf .dispatched).opClass ≠ 4 ∧
      (funnelOf 0 48).record.status = 0 ∧ (descOf .dispatched).succ = []) ∧
    (succS.Ready ∧ succS.hw.funnel = [funnelOf 0 48] ∧ succS.hw.desc? 77 = some succDesc ∧ succDesc.succ = [78] ∧
      succS.hw.desc? 78 = some countedDesc ∧ countedDesc.state = .waiting ∧ 0 < countedDesc.counter) ∧
    ((funnelS (funnelOf 1 48) id).Ready ∧ ((funnelS (funnelOf 1 48) id).hw.facet 2).state = .active ∧
      ((funnelS (funnelOf 1 48) id).hw.facet 2).recovering = false ∧ (funnelOf 1 48).record.status = 1) ∧
    (overS.Ready ∧ overS.hw.desc? 77 = some (descOf .dispatched) ∧ overS.hw.funnel = [] ∧ (descOf .dispatched).expired = false ∧
      overS.hw.cmdLimit (descOf .dispatched) ≤ overS.hw.now ∧ (overS.hw.facet 2).state = .active ∧
      overS.hw.raw 0xA006 3 < overS.hw.get 0xA001 1) ∧
    sentS.hw.now < sentS.hw.cmdLimit (descOf .dispatched) ∧ opS.hw.desc? 77 = none := by
  and_intros <;> first | exact ready_of _ (by decide +kernel) | decide +kernel

def looseLate : State := atNs 10000000000 (looseS true 1)
def haltLate : State := atNs 10000000000 (mk (put ((looseS true 1).hw.setFacet 2 { Facet.reset with state := .halted }) [(0x5000, 3, 0, 0x200)]))
def actLate : State :=
  atNs 10000000000 (mk (put ((ackS 8 true false false).hw.modPart 9 fun x => { x with ctxBusy := 1 }) [(0x5000, 3, 0, 0x600)]))
def switchingS (busy : Nat) : State :=
  mk ((dspS (descOf .waiting)
    (fun y => { y with state := .held, ctxBusy := busy, ctxSlot := if busy = 2 then 1 else 0, ctxId := 5 })
    fun h => { h with switches := [(2, switchOf)] }).hw.setJob 2 false { Job.idle with state := .running, context := 5 })

theorem wit_Drains :
    ((ackS 8 true false false).Ready ∧ ((ackS 8 true false false).hw.part 9).intReq = true ∧
      ((ackS 8 true false false).hw.part 9).ack = false ∧ ((ackS 8 true false false).hw.part 9).credits = (ackS 8 true false false).hw.get 0x2200 10) ∧
    ((ackS 7 true false false).Ready ∧ ((ackS 7 true false false).hw.part 9).credits ≠ (ackS 7 true false false).hw.get 0x2200 10) ∧
    ((ackS 8 false false false).Ready ∧ ((ackS 8 false false false).hw.part 9).intReq = false ∧
      ((ackS 8 false false false).hw.part 9).preReq = false) ∧
    ((ackS 8 true true true).Ready ∧ (ackS 8 true true true).hw.drainOver 9 = true ∧ (ackS 8 true true true).hw.facetOf 9 = some 2 ∧
      ((ackS 8 true true true).hw.part 9).preReq = false ∧ ((ackS 8 true true true).hw.facet 2).recovering = false ∧
      ∀ u : Bool, ((ackS 8 true true true).hw.job 2 u).state ≠ .running) ∧
    (ackS 8 true false false).hw.drainOver 9 = false ∧
    (looseLate.Ready ∧ looseLate.hw.raw 0x2201 1 = 0 ∧ (looseLate.hw.part 9).sent = [] ∧ looseLate.hw.facetOf 9 = none ∧
      (looseLate.hw.part 9).intReq = true ∧ (looseLate.hw.part 9).acked = false ∧
      (looseLate.hw.part 9).reqNs + 1000 * looseLate.hw.get 0x2206 1 ≤ looseLate.hw.now ∧ (looseLate.hw.part 9).ctxBusy ≠ 0 ∧
      (looseLate.hw.part 9).ctxNs + 1000 * looseLate.hw.get 0x2209 1 ≤ looseLate.hw.now) ∧
    (haltLate.Ready ∧ haltLate.hw.facetOf 9 = some 2 ∧ (haltLate.hw.facet 2).state = .halted ∧
      (∀ u : Bool, (haltLate.hw.job 2 u).state.live = false) ∧ Map.find? haltLate.hw.switches 2 = none) ∧
    (actLate.Ready ∧ actLate.hw.raw 0x2201 1 = 0 ∧ (actLate.hw.part 9).sent = [] ∧ actLate.hw.facetOf 9 = some 2 ∧
      (actLate.hw.facet 2).state = .active ∧ (∀ u : Bool, (actLate.hw.job 2 u).state.live = false) ∧
      Map.find? actLate.hw.switches 2 = none ∧ (∃ k ∈ actLate.hw.facetParts 2, k ≠ 9) ∧ actLate.hw.raw 0xA006 3 < actLate.hw.get 0xA001 1 ∧
      (actLate.hw.part 9).intReq = true ∧ (actLate.hw.part 9).acked = false ∧ (actLate.hw.part 9).ctxBusy ≠ 0 ∧
      (actLate.hw.part 9).reqNs + 1000 * actLate.hw.get 0x2206 1 ≤ actLate.hw.now ∧
      (actLate.hw.part 9).ctxNs + 1000 * actLate.hw.get 0x2209 1 ≤ actLate.hw.now) ∧
    ((looseS true 1).Ready ∧ (looseS true 1).hw.now < ((looseS true 1).hw.part 9).reqNs + 1000 * (looseS true 1).hw.get 0x2206 1 ∧
      (looseS true 1).hw.now < ((looseS true 1).hw.part 9).ctxNs + 1000 * (looseS true 1).hw.get 0x2209 1) ∧
    ((looseS false 0).hw.part 9).ctxBusy = 0 ∧
    ((switchingS 2).Ready ∧ bits (leNat (slice doneBytes 0 16)) 7 2 = 9 ∧ bits (leNat (slice doneBytes 0 16)) 1 0 = 0 ∧
      bits (leNat (slice doneBytes 0 16)) 23 8 = ((switchingS 2).hw.part 9).ctxId ∧ (switchingS 2).hw.facetOf 9 = some 2 ∧
      Map.find? (switchingS 2).hw.switches 2 = some switchOf ∧ ((switchingS 2).hw.facet 2).recovering = false ∧
      switchOf.waiting.erase 9 ≠ [] ∧ ((switchingS 2).hw.part 9).ctxBusy = 2 ∧ ((switchingS 2).hw.part 9).ctxSlot = switchOf.inSlot ∧
      (switchingS 2).hw.ctxGoesOn 2 switchOf.inSlot = true) ∧
    ((switchingS 1).Ready ∧ ((switchingS 1).hw.part 9).ctxBusy = 1 ∧ (switchingS 1).hw.ctxGoesOn 2 ((switchingS 1).hw.part 9).ctxSlot = true) := by
  and_intros <;> first | exact ready_of _ (by decide +kernel) | decide +kernel

theorem wit_Plans :
    (scanS.Ready ∧ (scanS.hw.facet 2).tes = .scan ∧
      (scanS.hw.facet 2).composing = some { planOf 9 with places := [placeOf1 .decode] } ∧ (scanS.hw.facet 2).entryPlan = false) ∧
    (opS.Ready ∧ (opS.hw.facet 2).tes ≠ .scan) ∧
    (routerS.Ready ∧ routerS.hw.livePlans 2 = [routed] ∧ progClass ((routerS.hw.program (0 / 4)).getD 0 0) ≠ 2 ∧
      progClass ((routerS.hw.program (0 / 4)).getD 1 0) = 2 ∧ routerS.hw.binsDue routed 0 0 0 = true) ∧
    opS.hw.livePlans 2 = [] := by
  and_intros <;> first | exact ready_of _ (by decide +kernel) | decide +kernel

/-- The background slot of a cc in which the lanes' self-check has its turn. -/
def turnS : State := mk { opHw with cc := 63, tasks := [(2, { Task.reset with turn := true })] }
def fullS : State := sampS .decode .awaiting (List.replicate 512 (PosEntry.fresh 3 0 9 9))
def planAt (s : State) : Plan := (s.hw.facet 2).plans.getD 0 (planOf 0)

theorem wit_Tiles :
    (maskedS.Ready ∧ (maskedS.hw.raw 0xA010 1).testBit (3 : Fin 16) = true) ∧
    (turnS.Ready ∧ (turnS.hw.raw 0xA010 1).testBit (3 : Fin 16) = false ∧ turnS.hw.checkSlot = true) ∧
    (opS.Ready ∧ (opS.hw.raw 0xA010 1).testBit (3 : Fin 16) = false ∧ opS.hw.checkSlot = false ∧
      crc32c (leBytes 8 tileWord.toNat ++ slice tileData 0 256) ≠ ~~~tileCrc ∧ opS.hw.tileTarget (tileHdr tileWord) = none ∧
      crc32c (leBytes 8 tileWord.toNat ++ slice tileData 0 256) = tileCrc) ∧
    (fullS.Ready ∧ (fullS.hw.raw 0xA010 1).testBit (3 : Fin 16) = false ∧ fullS.hw.checkSlot = false ∧
      fullS.hw.tileTarget (tileHdr tileWord) = some (planAt fullS, posOf .decode .awaiting) ∧
      fullS.hw.tileFits (posOf .decode .awaiting) (tileHdr tileWord) = true ∧
      fullS.hw.tileNew (planAt fullS) (posOf .decode .awaiting) (tileHdr tileWord) = true ∧
      fullS.hw.tileHeld (planAt fullS) (posOf .decode .awaiting) (tileHdr tileWord) = true) ∧
    (decodeS.Ready ∧ (decodeS.hw.raw 0xA010 1).testBit (3 : Fin 16) = false ∧ decodeS.hw.checkSlot = false ∧
      decodeS.hw.tileTarget (tileHdr tileWord) = some (planAt decodeS, posOf .decode .awaiting) ∧
      decodeS.hw.tileFits (posOf .decode .awaiting) (tileHdr tileWord) = true ∧
      decodeS.hw.tileNew (planAt decodeS) (posOf .decode .awaiting) (tileHdr tileWord) = true ∧
      decodeS.hw.tileHeld (planAt decodeS) (posOf .decode .awaiting) (tileHdr tileWord) = false ∧
      (posOf .decode .awaiting).status ≠ .vacated ∧ (planAt decodeS).placeOf (posOf .decode .awaiting) = some (placeOf1 .decode) ∧
      decodeS.hw.seq? 5 = some (seqOf { vertex with facet := 2 })) := by
  and_intros <;> first | exact ready_of _ (by decide +kernel) | decide +kernel

def waitTokS : State := mk { (facetS id).hw with
  smp := { (facetS id).hw.smp with tokens := [tokenOf 1, tokenOf 2] }, descs := [(77, { descOf .waiting with waitTok := [1], counter := 2 })] }

/-- Position 0 of a kind with its entry complete, on facet 2 in step 8. -/
def doneS (kind : PosKind) : State := sampS kind .awaiting [entryOf]

/-- What a statement on a complete position assumes of `doneS`. -/
def decides (kind : PosKind) : Bool :=
  let s := doneS kind
  match s.hw.posAt 2 8 0, s.hw.seq? 5 with
  | some (p, x), some q => x == posOf kind .awaiting && q.cur.facet == 2 && s.hw.entry? 2 8 0 == some entryOf && p.step == 8 && match p.placeOf x with
    | some c => c.isOpen && (entryOf.passDue (s.hw.sampCtx q c x)).isNone &&
      ((entryOf.settleNucleus (s.hw.sampCtx q c x)).sampled (s.hw.sampCtx q c x) q.cur).isSome
    | none => false
  | _, _ => false

theorem wit_Decisions :
    (opS.Ready ∧ opS.hw.smp.replays = []) ∧
    (replayS.Ready ∧
      (replayS.hw.smp.replays.find? fun r => r.facet == bits nakWord.toNat 3 0 && r.step % 65536 == bits nakWord.toNat 19 4 &&
        r.position == bits nakWord.toNat 36 20 && r.first == bits nakWord.toNat 49 37 && r.last == bits nakWord.toNat 62 50) = some request ∧
      (replayS.hw.facet request.facet).state = .active ∧ replayS.hw.raw 0xA006 (request.facet + 1) < replayS.hw.get 0xA001 1) ∧
    ((atNs 10000000000 replayS).Ready ∧ (atNs 10000000000 replayS).hw.smp.replays = [request] ∧ request.facet = 2 ∧ request.position = 0 ∧
      request.sinceNs + 1000 * (atNs 10000000000 replayS).hw.get 0x2305 1 ≤ (atNs 10000000000 replayS).hw.now) ∧
    replayS.hw.now < request.sinceNs + 1000 * replayS.hw.get 0x2305 1 ∧
    (tokenS.Ready ∧ tokenS.hw.smp.tokens = tokenOf 1 :: [tokenOf 1] ∧ ([tokenOf 1].any fun x => x.key == (tokenOf 1).key) = true) ∧
    opS.hw.smp.tokens = [] ∧
    (waitTokS.Ready ∧ waitTokS.hw.smp.tokens = tokenOf 1 :: [tokenOf 2] ∧ ([tokenOf 2].any fun x => x.key == (tokenOf 1).key) = false ∧
      waitTokS.hw.descTags (fun d => d.owner == .plan && d.waitTok.contains (tokenOf 1).key) = [77] ∧
      (waitTokS.hw.desc? 77).map (fun d => (d.state, d.counter)) = some (.waiting, 2)) ∧
    ((doneS .decode).Ready ∧ decides .decode = true ∧ entryOf.complete = true ∧ entryOf.nonfinite = false ∧ entryOf.count ≠ 0) ∧
    ((doneS .draft).Ready ∧ decides .draft = true) ∧ ((doneS .tree).Ready ∧ decides .tree = true) ∧
    (opS.hw.posAt 2 8 0).isNone = true ∧
    (walkS.Ready ∧ (walkS.hw.walkDue 2 5).map (fun w => (w.out.length, w.stop)) = some (2, .noChild)) ∧
    (opS.hw.walkDue 2 5).isNone = true := by
  and_intros <;> first | exact ready_of _ (by decide +kernel) | decide +kernel

theorem wit_HelixSelfChecks :
    (maskedS.Ready ∧ (maskedS.hw.raw 0xA010 1).testBit (3 : Fin 16) = true) ∧
    (opS.Ready ∧ (opS.hw.raw 0xA010 1).testBit (3 : Fin 16) = false ∧ ((0 : Word64), (0 : Word64)) ≠ helixBlock 0 1 0 ∧
      Map.find? opS.hw.smp.laneFacets 3 = none) ∧
    (tilesS.Ready ∧ (tilesS.hw.raw 0xA010 1).testBit (3 : Fin 16) = false ∧
      Map.find? tilesS.hw.smp.laneFacets 3 = some (2 ^ (2 : Fin 16).val) ∧ (tilesS.hw.facet 2).state = .active ∧
      tilesS.hw.raw 0xA006 3 < tilesS.hw.get 0xA001 1) := by
  and_intros <;> first | exact ready_of _ (by decide +kernel) | decide +kernel

def withEntry (h : Hw) (l : List Byte) : Hw := h.modRing 7 fun x => { x with entry := some l }

/-- Ring 7 holds an entry that ADM may take up. -/
def entered (h : Hw) (l : List Byte) : Bool :=
  ready (mk (withEntry h l)) && (withEntry h l).entryOf 7 false == some l && (withEntry h l).ringOpen 7 && (withEntry h l).nextRing 7 == 7 &&
    ((withEntry h l).ring 7).hold == 0

structure Entered (h : Hw) (l : List Byte) : Prop where
  ready : (mk (withEntry h l)).Ready
  entry : (withEntry h l).entryOf 7 false = some l
  opened : (withEntry h l).ringOpen 7 = true
  next : (withEntry h l).nextRing 7 = 7
  hold : ((withEntry h l).ring 7).hold = 0

theorem entered_of (h : Hw) (l : List Byte) (e : entered h l = true) : Entered h l := by
  simp only [entered, Bool.and_eq_true, beq_iff_eq] at e
  exact ⟨ready_of _ e.1.1.1.1, e.1.1.1.2, e.1.1.2, e.1.2, e.2⟩

def judgeOf (h : Hw) (l : List Byte) : Nat × Nat :=
  match (withEntry h l).judge ((withEntry h l).ringAsker 7 l) l with
  | .hold n => (0, n) | .refuse n => (1, n) | .migrate => (2, 0) | .reads slot w => (3, slot + w)

def offModelHw : Hw := put admitHw [(0x8001, 1, 0, 0)]
def migrateHw : Hw := put (facetIn admitHw 2 .standby) [(0x1012, 1, 0, 8), (0x3101, 9, 3, 1)]
def badEntry : List Byte := submission.set 8 2
def heldWith (e : Option (List Byte)) (hold : Nat) : State := mk (admitHw.modRing 7 fun x => { x with entry := e, hold := hold })
def live3Hw : Hw := admitHw.setSeq 5 (seqOf { vertex with tenant := 3 })
def cancel5 : List Byte := cancelOf (handleOf 5 { vertex with tenant := 3 })

theorem wit_Submissions :
    (Entered (facetIn admitHw 2 .standby) submission ∧ judgeOf (facetIn admitHw 2 .standby) submission = (0, 3)) ∧
    (Entered offModelHw submission ∧ judgeOf offModelHw submission = (1, 5)) ∧
    (Entered migrateHw submission ∧ judgeOf migrateHw submission = (2, 0)) ∧
    (Entered admitHw submission ∧ judgeOf admitHw submission = (3, 0)) ∧
    ((heldWith (some badEntry) 3).Ready ∧ (heldWith (some badEntry) 3).hw.entryOf 7 false = some badEntry ∧
      (heldWith (some badEntry) 3).hw.ringOpen 7 = true ∧ (heldWith (some badEntry) 3).hw.nextRing 7 = 7 ∧
      (heldWith (some badEntry) 3).hw.holdClears 7 = true ∧ (heldWith (some badEntry) 3).hw.formBad badEntry = true) ∧
    ((heldWith none 6).Ready ∧ ((heldWith none 6).hw.ring 7).entry = none ∧ (heldWith none 6).hw.holdClears 7 = true ∧
      (heldWith none 6).hw.ringOpen 7 = true ∧ (heldWith none 6).hw.nextRing 7 = 7 ∧
      ((heldWith none 6).hw.memWaiting fun u => u == .admissionRead 7) = false) ∧
    (opS.Ready ∧ opS.hw.entryOf 7 false = none ∧ opS.hw.entryOf 7 true = none ∧ opS.hw.ringOpen 7 = false) ∧
    ((heldWith (some submission) 3).Ready ∧ ((heldWith (some submission) 3).hw.ring 7).hold ≠ 0) ∧
    ((heldWith (some submission) 0).Ready ∧ (heldWith (some submission) 0).hw.holdClears 7 = false) ∧
    ((mk (withEntry live3Hw cancel5)).Ready ∧ (withEntry live3Hw cancel5).entryOf 7 true = some cancel5 ∧
      (withEntry live3Hw cancel5).ringOpen 7 = true ∧ (withEntry live3Hw cancel5).nextRing 7 = 7 ∧
      ((withEntry live3Hw cancel5).ring 7).hold = 0 ∧ (withEntry live3Hw cancel5).liveSlot (fieldAt cancel5 40 8) = some 5 ∧
      (withEntry live3Hw cancel5).seq? 5 = some (seqOf { vertex with tenant := 3 }) ∧
      3 = (withEntry live3Hw cancel5).getAt 0x3011 4 7) ∧
    ((mk (withEntry admitHw cancel5)).Ready ∧ (withEntry admitHw cancel5).entryOf 7 true = some cancel5 ∧
      (withEntry admitHw cancel5).liveSlot (fieldAt cancel5 40 8) = none) := by
  and_intros <;> first | exact entered_of _ _ (by decide +kernel) | exact ready_of _ (by decide +kernel) | decide +kernel

def trialOf (ring : Option Nat) : Trial :=
  { ring := ring, message := [], entry := submission, slot := 0, window := 0, prompt := List.replicate 20 9, walk := some [] }

/-- A model whose weights leave no room for a sequence's pages. -/
def narrowHw : Hw := put admitHw [(0x4200, 1, 0, 1), (0x8002, 1, 0, 2), (0x4200, 3, 0, 1)]

/-- What checks 7 to 9 come to on `trialOf (some 7)`: an outcome, or 100 for an admission. -/
def rulingOf (h : Hw) : Nat :=
  match (({ h with adm := { h.adm with trial := none } } : Hw).lastChecks (h.ringAsker 7 submission) (submissionOf submission) .be 0 0 []).1 with
  | .refuse o _ => o
  | .take _ _ => 100

def soon : Vertex := { deferred with start := 8000 }
def later : Vertex := { deferred with start := 8001 }
def budgetS : State := atNs 10000000000 (mk (put opHw [(0x3120, 1, 0, 1), (0x3101, 0xD, 3, 7), (0x3101, 0xE, 3, 8)]))
def fillSeq : Seq := { seqOf { vertex with facet := 2 } with recordReady := true }
def fillS : State := mk ((facetIn opHw 2 .active).setSeq 5 fillSeq)
def fillNot : State := mk (opHw.setSeq 5 (seqOf vertex))

theorem wit_StartsAndPeriods :
    ((trialOf (some 7)).ring = some 7 ∧ admitHw.adm.messages = [] ∧ (clsOf ((submissionOf submission).classByte % 4)).getD .be = .be) ∧
    rulingOf narrowHw = 3 ∧ (rulingOf admitHw = 100 ∧ (admitHw.takeSlot.map Prod.fst) = some 0) ∧
    ((startS soon).Ready ∧ (startS soon).hw.seq? 5 = some (seqOf soon) ∧ (seqOf soon).com.state = .deferred ∧
      (seqOf soon).cur.state = .deferred ∧ (seqOf soon).com.start ≤ (startS soon).hw.nowUs * 1000) ∧
    ((startS later).Ready ∧ (startS later).hw.seq? 5 = some (seqOf later) ∧ (startS later).hw.nowUs * 1000 < (seqOf later).com.start) ∧
    (budgetS.Ready ∧ budgetS.hw.budgetOver = true) ∧ opS.hw.budgetOver = false ∧
    (fillS.Ready ∧ fillS.hw.seq? 5 = some fillSeq ∧ fillS.hw.nextFill 2 = some 5 ∧ fillSeq.hot = false ∧
      (fillS.hw.seqs.filter fun e => e.2.hot).length < fillS.hw.hotCapacity) ∧
    (fillNot.Ready ∧ fillNot.hw.seq? 5 = some (seqOf vertex) ∧ fillNot.hw.nextFill (seqOf vertex).com.facet ≠ some 5) ∧
    ((mk publishHw).Ready ∧ publishHw.queueOn 4 = true ∧ publishHw.eng.state ≠ .faultHold ∧ (publishHw.queue 4).k ≠ (publishHw.queue 4).m ∧
      (publishHw.queue 4).publishing = none ∧ publishHw.deliveredBelow 4 (publishHw.queue 4).k = true ∧
      publishHw.linesDone (publishHw.queueFacet 4) = true) ∧
    (opS.hw.queue 4).k = (opS.hw.queue 4).m := by
  and_intros <;> first | exact ready_of _ (by decide +kernel) | decide +kernel

def badKind : List Byte := migrationMessage 7 1 2 9 0 77 0 0 []
def torn : List Byte := forwardMsg.set 70 9
def busyAdmS : State := mk { fedHw with adm := { fedHw.adm with trial := some (trialOf (some 7)) } }
def tenantS : State := mk (put fedHw [(0x3101, 1, 3, 1)])
def liveRuling (s : State) (l : List Byte) : Option Nat × Option (Nat × Cls) :=
  match s.hw.liveCheck l with
  | .inl o => (some o, none)
  | .inr x => (none, some x)

theorem wit_Migrations :
    (opS.Ready ∧ opS.hw.feature 3 = false) ∧ (fedS.Ready ∧ fedS.hw.feature 3 = true ∧ migrationOk torn = false) ∧
    (migrationOk badKind = true ∧ messageBad badKind = true) ∧
    (busyAdmS.Ready ∧ busyAdmS.hw.feature 3 = true ∧ busyAdmS.hw.adm.trial ≠ none ∧ migrationOk forwardMsg = true ∧
      messageBad forwardMsg = false ∧ fieldAt forwardMsg 0 1 = 1 ∧ migrationOk (liveMsg live3) = true ∧ messageBad (liveMsg live3) = false ∧
      fieldAt (liveMsg live3) 0 1 = 2) ∧
    (fedS.hw.adm.trial = none ∧ fedS.hw.formBad (slice forwardMsg 64 128) = true) ∧
    (messageBad (liveMsg { live3 with tenant := 0 }) = false ∧ liveRuling fedS (liveMsg { live3 with tenant := 0 }) = (some 6, none)) ∧
    (tenantS.Ready ∧ tenantS.hw.feature 3 = true ∧ tenantS.hw.adm.trial = none ∧ liveRuling tenantS (liveMsg live3) = (none, some (0, .be)) ∧
      tenantS.hw.takeSlot.map Prod.fst = some 0) ∧
    (migrationOk (replyMsg 1 0) = true ∧ messageBad (replyMsg 1 0) = false ∧ fieldAt (replyMsg 1 0) 0 1 = 3 ∧
      (fedS.hw.fed.migrations.find? fun m => m.msgId == fieldAt (replyMsg 1 0) 8 4 && m.reply.isNone) = some forwarded ∧
      forwarded.slot = none) ∧
    (migrationOk (replyMsg 2 0) = true ∧ fieldAt (replyMsg 2 0) 40 1 = 0 ∧ migrationOk (replyMsg 2 5) = true ∧
      messageBad (replyMsg 2 5) = false ∧ fieldAt (replyMsg 2 5) 40 1 ≠ 0 ∧
      (fedS.hw.fed.migrations.find? fun m => m.msgId == fieldAt (replyMsg 2 5) 8 4 && m.reply.isNone) = some movedLive ∧
      movedLive.slot = some 5 ∧ fedS.hw.seq? 5 = some migratingSeq ∧ handleOf 5 migratingSeq.com = movedLive.handle ∧
      migratingSeq.com.state = .migrating ∧ migratingSeq.cur.state = .migrating) ∧
    ((fedS.hw.fed.migrations.find? fun m => m.msgId == 1 && m.reply.isNone) = some forwarded ∧ (atNs (10 ^ 11) fedS).Ready ∧
      forwarded.sinceNs + 1000000 * (atNs (10 ^ 11) fedS).hw.get 0x3051 1 ≤ (atNs (10 ^ 11) fedS).hw.now ∧
      fedS.hw.now < forwarded.sinceNs + 1000000 * fedS.hw.get 0x3051 1) ∧
    (fedS.hw.fed.migrations.find? fun m => m.msgId == 9 && m.reply.isNone) = none := by
  and_intros <;> first | exact ready_of _ (by decide +kernel) | decide +kernel

/-! The tenant of a FORWARD message is a free value: in this machine it is enabled, whichever it is. -/

def fwdMsg : List Byte := migrationMessage 1 1 2 9 0 77 0 0 submission
def fwdBase : Hw :=
  put (facetIn opHw 2 .active) [(0x1012, 1, 0, 8), (0x3021, 6, 4, 1), (0x3021, 4, 4, 2), (0x3021, 2, 4, 64), (0x8001, 1, 0, 1), (0x8012, 1, 0, 3),
    (0x4011, 1, 0, 2 ^ 22)]
def fwdHw (t : Nat) : Hw := ((fwdBase.setAt 0x3021 3 4 t).setAt 0x3101 1 t 1).setAt 0x3101 0xC t 4

theorem odKey_ne (i s o j r p : Nat) (hs : s < 256) (hr : r < 256) (h : i ≠ j ∨ s ≠ r) : odKey i s o ≠ odKey j r p := fun e => by
  simp only [odKey] at e
  omega

section Fwd
variable (t : Nat)

theorem fwd_find (i s o : Nat) (h : (i ≠ 0x3101 ∧ (i ≠ 0x3021 ∨ s ≠ 3)) ∧ s < 256) :
    Map.find? (fwdHw t).od (odKey i s o) = Map.find? fwdBase.od (odKey i s o) := by
  simp only [fwdHw, Hw.setAt, Map.find?_insert_ne _ _ _ _ (odKey_ne i s o 0x3101 1 t h.2 (by decide) (.inl h.1.1)),
    Map.find?_insert_ne _ _ _ _ (odKey_ne i s o 0x3101 0xC t h.2 (by decide) (.inl h.1.1)),
    Map.find?_insert_ne _ _ _ _ (odKey_ne i s o 0x3021 3 4 h.2 (by decide) h.1.2)]

theorem fwd_other (i s o : Nat) (h : (i ≠ 0x3101 ∧ (i ≠ 0x3021 ∨ s ≠ 3)) ∧ s < 256) : (fwdHw t).getAt i s o = fwdBase.getAt i s o := by
  simp only [Hw.getAt, fwd_find t i s o h]

theorem fwd_feature (b : Nat) (h : b < 256) : (fwdHw t).feature b = fwdBase.feature b := by
  simp only [Hw.feature, Hw.raw, Map.getD, fwd_find t 0x1012 (b / 64 + 1) 0 (by omega)]

theorem fwd_form (l : List Byte) : (fwdHw t).formBad l = fwdBase.formBad l := by
  simp only [Hw.formBad, fwd_feature t 8 (by decide), Hw.raw, Map.getD, fwd_find t 0x7042 1 0 (by decide)]

theorem fwd_on : (fwdHw t).getAt 0x3101 1 t = 1 := by
  simp only [fwdHw, Hw.getAt_setAt_ne _ _ _ _ _ _ _ _ (odKey_ne 0x3101 1 t 0x3101 0xC t (by decide) (by decide) (.inr (by decide))), Hw.getAt_setAt]

theorem fwd_queue : (fwdHw t).getAt 0x3101 0xC t = 4 := by simp only [fwdHw, Hw.getAt_setAt]

theorem fwd_queueTenant : (fwdHw t).getAt 0x3021 3 4 = t := by
  simp only [fwdHw, Hw.getAt_setAt_ne _ _ _ _ _ _ _ _ (odKey_ne 0x3021 3 4 0x3101 0xC t (by decide) (by decide) (.inl (by decide))),
    Hw.getAt_setAt_ne _ _ _ _ _ _ _ _ (odKey_ne 0x3021 3 4 0x3101 1 t (by decide) (by decide) (.inl (by decide))), Hw.getAt_setAt]

theorem find?_none {α : Type} (m : Map α) (k : Nat) (hk : m.all (fun x => decide (x.1 / 16777216 ≠ k / 16777216)) = true) : Map.find? m k = none := by
  induction m with
  | nil => rfl
  | cons a m ih =>
    simp only [List.all_cons, Bool.and_eq_true, decide_eq_true_eq] at hk
    unfold Map.find?
    split
    · rename_i c; exact absurd (by rw [c]) hk.1
    · split
      · rfl
      · exact ih hk.2

theorem fwd_tenant (s : Nat) (h : s < 256 ∧ s ≠ 1 ∧ s ≠ 0xC) : (fwdHw t).getAt 0x3101 s t = odDefault 0x3101 s := by
  have e : fwdBase.od.all (fun x => decide (x.1 / 16777216 ≠ 0x3101)) = true := by decide +kernel
  have k : odKey 0x3101 s t / 16777216 = 0x3101 := by unfold odKey; omega
  simp only [fwdHw, Hw.getAt_setAt_ne _ _ _ _ _ _ _ _ (odKey_ne 0x3101 s t 0x3101 0xC t h.1 (by decide) (.inr h.2.2)),
    Hw.getAt_setAt_ne _ _ _ _ _ _ _ _ (odKey_ne 0x3101 s t 0x3101 1 t h.1 (by decide) (.inr h.2.1)),
    Hw.getAt_setAt_ne _ _ _ _ _ _ _ _ (odKey_ne 0x3101 s t 0x3021 3 4 h.1 (by decide) (.inl (by decide)))]
  unfold Hw.getAt
  rw [find?_none fwdBase.od _ (by rw [k]; exact e)]

/-- Whoever forwards. -/
def fwdAsker : Asker := { ring := none, tenant := t, queue := 4, cls := none }

theorem fwd_class : (fwdHw t).classFails (fwdAsker t) .be 0 = false := by
  unfold Hw.classFails Hw.queueOn Hw.queueFacet Hw.get fwdAsker
  dsimp only
  rw [fwd_on, fwd_queueTenant, fwd_tenant t 2 (by decide), fwd_tenant t 0xA (by decide), fwd_tenant t 4 (by decide), fwd_other t 0x3021 6 4 (by decide),
    fwd_other t 0x3021 4 4 (by decide), fwd_other t 0x3110 _ 0 (by decide), bne_self_eq_false t, fwd_feature t 4 (by decide)]
  decide +kernel

theorem fwd_pin : (fwdHw t).pinSlot 0 .follow 0 = some 0 := by
  unfold Hw.pinSlot Hw.currentSlot Hw.slotState
  dsimp only
  rw [fwd_other t 0x8001 1 0 (by decide), fwd_other t 0x8012 (0 + 1) 0 (by decide), fwd_other t 0x8012 (1 + 1) 0 (by decide)]
  decide +kernel

theorem fwd_budget (n : Nat) : (fwdHw t).budgetFails t n = false := by
  unfold Hw.budgetFails
  rw [fwd_tenant t 6 (by decide)]
  rfl

theorem fwd_capacity : (fwdHw t).capacityFails (fwdAsker t) .be = none := by
  unfold Hw.capacityFails Hw.tenantLive Hw.queueFacet Hw.queueRoom Hw.queueSize fwdAsker Hw.get
  dsimp only
  rw [fwd_tenant t 5 (by decide), fwd_other t 0x3021 4 4 (by decide), fwd_other t 0x3021 2 4 (by decide), fwd_other t 0x3002 1 0 (by decide),
    show (fwdHw t).seqs = [] from rfl, show (fwdHw t).freeSlots = fwdBase.freeSlots from rfl, show ∀ f, (fwdHw t).facet f = fwdBase.facet f from fun _ => rfl,
    show ∀ q, (fwdHw t).queue q = fwdBase.queue q from fun _ => rfl, show (fwdHw t).queueReserved 4 = fwdBase.queueReserved 4 from rfl, List.filter_nil]
  decide +kernel

theorem fwd_window : (fwdHw t).rateWindow t = some 0 := by
  unfold Hw.rateWindow
  dsimp only
  rw [fwd_tenant t 7 (by decide), show (fwdHw t).now = fwdBase.now from rfl, if_pos (by decide +kernel)]
  decide +kernel

theorem fwd_judge (l : List Byte) (f : fwdBase.formBad l = false) (c : clsOf ((submissionOf l).classByte % 4) = some .be)
    (p : [VPolicy.follow, .fixed, .exact].getD ((submissionOf l).vpolicy % 4) .follow = .follow) (m : (submissionOf l).model = 0)
    (v : (submissionOf l).version = 0) (lv : (submissionOf l).classByte / 16 = 0) :
    (fwdHw t).judge (fwdAsker t) l = .reads 0 0 := by
  unfold Hw.judge
  dsimp only
  rw [fwd_form, f, c, p, m, v, lv]
  dsimp only
  rw [fwd_class, fwd_pin]
  dsimp only
  rw [show (fwdAsker t).tenant = t from rfl, fwd_budget, fwd_capacity]
  dsimp only
  rw [fwd_window]
  rfl
end Fwd

theorem wit_ForwardReads :
    (mk (fwdHw (forwardTenant fwdMsg))).Ready ∧ (fwdHw (forwardTenant fwdMsg)).feature 3 = true ∧
    (fwdHw (forwardTenant fwdMsg)).adm.trial = none ∧ migrationOk fwdMsg = true ∧ messageBad fwdMsg = false ∧ fieldAt fwdMsg 0 1 = 1 ∧
    (fwdHw (forwardTenant fwdMsg)).judge ((fwdHw (forwardTenant fwdMsg)).forwardAsker fwdMsg) (slice fwdMsg 64 128) = .reads 0 0 := by
  have e : slice fwdMsg 64 128 = submission := by decide +kernel
  refine ⟨⟨rfl, rfl, rfl, rfl, rfl, rfl, rfl⟩, ?_, rfl, by decide +kernel, by decide +kernel, by decide +kernel, ?_⟩
  · rw [fwd_feature _ 3 (by decide)]; decide +kernel
  · have a (t : Nat) : ({ ring := none, tenant := t, queue := (fwdHw t).getAt 0x3101 0xC t, cls := none } : Asker) = fwdAsker t := by
      rw [fwd_queue]; rfl
    unfold Hw.forwardAsker
    dsimp only
    rw [a, e]
    exact fwd_judge _ _ (by decide +kernel) (by decide +kernel) (by decide +kernel) (by decide +kernel) (by decide +kernel) (by decide +kernel)

def listedS : State :=
  let h := pagesHw 3 0 [0, 4]
  mk { h with pages := { h.pages with
    index := [{ pool := 0, page := 0, key := 5, place := 0, order := 0 }, { pool := 0, page := 4, key := 6, place := 0, order := 1 }] } }
def recallStuck : State := mk (put recallS.hw [(0x6007, 1, 0, 0)])
def victimS : State := mk (runningS.hw.setSeq 5 (seqOf vertex))
def pinnedSeq : Seq := { seqOf vertex with resQueue := [(8, 1)] }
def pinnedS : State := mk (runningS.hw.setSeq 5 pinnedSeq)
def word5 : Word64 := BitVec.ofNat 64 handle5

theorem wit_PageMoves :
    stuckS.hw.descWaits 0 = false ∧
    (listedS.Ready ∧ listedS.hw.poolOn 0 = true ∧ listedS.hw.hostPool 0 = false ∧ listedS.hw.poolFree 0 < listedS.hw.getAt 0x4001 0xA 0 ∧
      (listedS.hw.pool 0).cached = 0 :: [4] ∧ (listedS.hw.pageInfo (0, 0)).refs = 1 ∧ listedS.hw.indexed (0, 0) = true) ∧
    (reclaimS.Ready ∧ reclaimS.hw.poolOn 0 = true ∧ reclaimS.hw.hostPool 0 = false ∧ reclaimS.hw.poolFree 0 < reclaimS.hw.getAt 0x4001 0xA 0 ∧
      (reclaimS.hw.pool 0).cached = 0 :: [4] ∧ reclaimS.hw.indexed (0, 0) = false) ∧
    (recallS.Ready ∧ recallS.hw.getAt 0x4001 0xA 0 ≤ recallS.hw.poolFree 0) ∧
    (evictS.Ready ∧ evictS.hw.evictChoice 0 = some (5, 0) ∧ evictS.hw.seq? 5 = some (seq0 0) ∧ evictS.hw.movePool (seq0 0) false = some 1 ∧
      evictS.hw.mayCopy (seq0 0).com.facet = true) ∧
    (stuckS.Ready ∧ stuckS.hw.evictChoice 0 = some (5, 0) ∧ stuckS.hw.seq? 5 = some (seq0 0) ∧ stuckS.hw.movePool (seq0 0) false = some 1 ∧
      stuckS.hw.mayCopy (seq0 0).com.facet = false) ∧
    (opS.Ready ∧ opS.hw.evictChoice 0 = none ∧ (opS.hw.recallChoice 0).isNone = true) ∧
    (recallS.hw.recallChoice 0 = some (5, seq0 1, 0) ∧ recallS.hw.seq? 5 = some (seq0 1) ∧ recallS.hw.movePool (seq0 1) true = some 0 ∧
      recallS.hw.mayCopy (seq0 1).com.facet = true) ∧
    (recallStuck.Ready ∧ recallStuck.hw.recallChoice 0 = some (5, seq0 1, 0) ∧ recallStuck.hw.seq? 5 = some (seq0 1) ∧
      recallStuck.hw.movePool (seq0 1) true = some 0 ∧ recallStuck.hw.mayCopy (seq0 1).com.facet = false) ∧
    (victimS.Ready ∧ victimS.hw.pairRuns 2 = true ∧ victimS.hw.liveSlot word5.toNat = some 5 ∧ victimS.hw.seq? 5 = some (seqOf vertex) ∧
      (seqOf vertex).pinned = false ∧ victimS.hw.liveSlot (99 : Word64).toNat = none) ∧
    (pinnedS.Ready ∧ pinnedS.hw.pairRuns 2 = true ∧ pinnedS.hw.liveSlot word5.toNat = some 5 ∧ pinnedS.hw.seq? 5 = some pinnedSeq ∧
      pinnedSeq.pinned = true) ∧ opS.hw.pairRuns 2 = false := by
  and_intros <;> first | exact ready_of _ (by decide +kernel) | decide +kernel

def nodesOf (g : List Byte) : List JobNode := (List.range (graphHeader g).nodes).map (graphNode (graphHeader g) g)
def clearS : State := mk (({ loadingS.hw with descs := [] } : Hw).modPart 9 fun p => { p with credits := loadingS.hw.get 0x2200 10 })
def creditS : State := mk (loadingS.hw.modPart 9 fun p => { p with credits := 999 })
def urgentGraph : List Byte := ((graphOf 2).set 14 2).set 15 1
def urgentS : State :=
  mk (((put loadingS.hw [(0x3101, 2, 0, 7), (0x8001, 1, 1, 1)]).setJob 2 false { Job.idle with state := .running, context := 1 }).setJob 2 true
    { Job.idle with state := .loading })
def countsS : State := mk { (gateS false).hw with descs := [(77, { gateDesc with counter := 2 })] }

theorem wit_JobLives :
    (clearS.Ready ∧ (clearS.hw.job 2 false).state = .loading ∧ (clearS.hw.job 2 false).graphOk = false ∧
      (clearS.hw.memWaiting fun x => x == .graphRead 2 false || (!false && x == .contextRecord 2)) = false ∧
      clearS.hw.headerOk 2 (graphOf 0) (graphHeader (graphOf 0)) = false ∧
      clearS.hw.graphError 2 (graphHeader (graphOf 0)) (graphOf 0) [] = some 0xFFFFFFFF ∧ clearS.hw.jobClear 2 false = true) ∧
    (creditS.Ready ∧ (creditS.hw.job 2 false).state = .loading ∧ (creditS.hw.job 2 false).graphOk = false ∧
      (creditS.hw.memWaiting fun x => x == .graphRead 2 false || (!false && x == .contextRecord 2)) = false ∧
      creditS.hw.headerOk 2 (graphOf 0) (graphHeader (graphOf 0)) = false ∧
      creditS.hw.graphError 2 (graphHeader (graphOf 0)) (graphOf 0) [] = some 0xFFFFFFFF ∧ creditS.hw.jobClear 2 false = false) ∧
    (loadingS.Ready ∧ (loadingS.hw.job 2 false).state = .loading ∧ (loadingS.hw.job 2 false).graphOk = false ∧
      (loadingS.hw.memWaiting fun x => x == .graphRead 2 false || (!false && x == .contextRecord 2)) = false ∧
      loadingS.hw.headerOk 2 (graphOf 1) (graphHeader (graphOf 1)) = true ∧ loadingS.hw.jobAllowed 2 (graphHeader (graphOf 1)) = true ∧
      loadingS.hw.graphError 2 (graphHeader (graphOf 1)) (graphOf 1) (nodesOf (graphOf 1)) = none ∧ (loadingS.hw.job 2 false).resume = false ∧
      loadingS.hw.raw 0x9210 3 = 0 ∧ loadingS.hw.raw 0x8101 3 = 0) ∧
    (urgentS.Ready ∧ (urgentS.hw.job 2 true).state = .loading ∧ (urgentS.hw.job 2 true).graphOk = false ∧
      (urgentS.hw.memWaiting fun x => x == .graphRead 2 true || (!true && x == .contextRecord 2)) = false ∧
      urgentS.hw.headerOk 2 urgentGraph (graphHeader urgentGraph) = true ∧ urgentS.hw.jobAllowed 2 (graphHeader urgentGraph) = true ∧
      urgentS.hw.graphError 2 (graphHeader urgentGraph) urgentGraph (nodesOf urgentGraph) = none ∧
      urgentS.hw.urgentAllowed 2 (graphHeader urgentGraph) = true ∧ urgentS.hw.raw 0x9211 3 = 0 ∧
      (∀ p ∈ urgentS.hw.facetParts 2, (urgentS.hw.part p).state ≠ .held)) ∧
    (readingS.Ready ∧ (readingS.hw.memWaiting fun x => x == .graphRead 2 false || (!false && x == .contextRecord 2)) = true) ∧
    (opS.Ready ∧ (opS.hw.job 2 false).state ≠ .loading) ∧
    (loadedS.Ready ∧ loadedS.hw.mayLoad 2 false = true) ∧ loadingS.hw.mayLoad 2 false = false ∧
    ((gateS true).Ready ∧ ((gateS true).hw.job 2 false).gateTag = some 77 ∧ (gateS true).hw.desc? 77 = some gateDesc ∧
      ((gateS true).hw.job 2 false).state = .running ∧ gateDesc.counter = 0 ∧ gateDesc.state = .waiting ∧
      ((gateS true).hw.job 2 false).suspended = true) ∧
    ((gateS false).Ready ∧ (gateS false).hw.desc? 77 = some gateDesc ∧ ((gateS false).hw.job 2 false).suspended = false ∧
      ((gateS false).hw.job 2 false).decision = none ∧ (gateS false).hw.federated ((gateS false).hw.job 2 false).model = false) ∧
    (countsS.Ready ∧ (countsS.hw.job 2 false).gateTag = some 77 ∧ (countsS.hw.desc? 77).map (fun d => d.counter) = some 2) ∧
    (opS.hw.job 2 true).gateTag = none ∧
    (endingS.Ready ∧ (endingS.hw.job 2 false).state = .teardown ∧ endingS.hw.jobClear 2 false = true) ∧
    (gateS false).hw.jobClear 2 false = false := by
  and_intros <;> first | exact ready_of _ (by decide +kernel) | decide +kernel

def sliceS (x : Nat) : State := facetS fun y => { y with sliceEndNs := some x }

/-- An urgent job owns facet 2, whose partition 9 is open. -/
def ownedS (s : State) : State :=
  mk (((put s.hw [(0x5000, 3, 0, 0x200)]).setJob 2 true { Job.idle with state := .running, graphOk := true, context := 5 }).modPart 9 fun p =>
    { p with state := .opened })

theorem wit_SlicesAndDonations :
    ((sliceS 0).Ready ∧ ((sliceS 0).hw.facet 2).sliceEndNs = some 0 ∧ 0 ≤ (sliceS 0).hw.now ∧ ((sliceS 0).hw.facet 2).state = .active) ∧
    ((sliceS (2 ^ 60)).Ready ∧ ((sliceS (2 ^ 60)).hw.facet 2).sliceEndNs = some (2 ^ 60) ∧ (sliceS (2 ^ 60)).hw.now < 2 ^ 60) ∧
    ((facetS id).Ready ∧ ((facetS id).hw.facet 2).sliceEndNs = none) ∧
    ((ownedS semS).Ready ∧ ((ownedS semS).hw.sem 1).holder = some (2, false, 4) ∧
      sortBy waiterBefore ((ownedS semS).hw.sem 1).waiters = waiterOf :: [] ∧ ((ownedS semS).hw.sem 1).donation = none ∧
      ((ownedS semS).hw.job 2 false).suspended = true ∧ (ownedS semS).hw.ownerSlot 2 = 2 ∧ (ownedS semS).hw.facetParts 2 ≠ [] ∧
      (∀ p ∈ (ownedS semS).hw.facetParts 2, ((ownedS semS).hw.part p).state ≠ .held)) ∧
    (opS.Ready ∧ (opS.hw.sem 1).waiters = [] ∧ (opS.hw.sem 1).donation = none) ∧
    ((atNs (10 ^ 11) (ownedS donatedS)).Ready ∧ ((atNs (10 ^ 11) (ownedS donatedS)).hw.sem 1).donation = some 0 ∧
      ((atNs (10 ^ 11) (ownedS donatedS)).hw.sem 1).holder = some (2, false, 4) ∧
      0 + 1000 * (atNs (10 ^ 11) (ownedS donatedS)).hw.get 0x9222 1 ≤ (atNs (10 ^ 11) (ownedS donatedS)).hw.now ∧
      ((atNs (10 ^ 11) (ownedS donatedS)).hw.job 2 false).state = .running ∧
      (atNs (10 ^ 11) (ownedS donatedS)).hw.federated ((atNs (10 ^ 11) (ownedS donatedS)).hw.job 2 false).model = false ∧
      (atNs (10 ^ 11) (ownedS donatedS)).hw.facetParts 2 ≠ [] ∧
      (∀ p ∈ (atNs (10 ^ 11) (ownedS donatedS)).hw.facetParts 2, ((atNs (10 ^ 11) (ownedS donatedS)).hw.part p).state ≠ .held)) ∧
    ((ownedS donatedS).Ready ∧ (ownedS donatedS).hw.now < 0 + 1000 * (ownedS donatedS).hw.get 0x9222 1) := by
  and_intros <;> first | exact ready_of _ (by decide +kernel) | decide +kernel

def flushing4 : AcctRec := { charges := { Charges.zero with tokens := 5 }, periods := 1, start := 0, stop := 1 }
def accountS : State :=
  atNs (2 ^ 60) (mk { put opHw [(0x9301, 1, 0, 0)] with
    acct := { opHw.acct with accounts := [(3, { Charges.zero with tokens := 5 })], flushing := [(4, flushing4)] } })
def requestS (r : Requester) : State := slotS fun h => h.modLearner 0 fun l => { l with request := some r }
def attemptS : State := mk ((requestS (.attempt 2 false)).hw.setJob 2 false { Job.idle with state := .running })
def usedS : State := slotS fun h => (h.setSeq 5 (seqOf { vertex with vslot := 1 })).modLearner 0 fun l => { l with request := some .load }
def budgetedS : State := mk (put (requestS .load).hw [(0x8008, 1, 0, 5)])
def onSlot (p : VPolicy) : Vertex := { vertex with vslot := 1, vpolicy := p, facet := 2 }
def onSlotS (p : VPolicy) : State := atNs (2 ^ 60) (mk ((facetIn budgetedS.hw 2 .active).setSeq 5 (seqOf (onSlot p))))
def staleS : State := mk (budgetedS.hw.modLearner 0 fun l => { l with stale := true })
def decidedS : State := exclS doneJob id
def lastS : State := mk ((exclS { doneJob with iterations := 1 } id).hw.modPart 9 fun p => { p with credits := opHw.get 0x2200 10 })

theorem wit_LearnerAndAccounts :
    (accountS.Ready ∧ accountS.hw.acct.startNs / (accountS.hw.acct.periodMs * 1000000) < accountS.hw.now / (accountS.hw.acct.periodMs * 1000000) ∧
      accountS.hw.acctFull = true ∧ accountS.hw.acct.flushing ≠ []) ∧
    (opS.Ready ∧ opS.hw.now / (opS.hw.acct.periodMs * 1000000) ≤ opS.hw.acct.startNs / (opS.hw.acct.periodMs * 1000000) ∧
      opS.hw.acct.due = false) ∧
    ((requestS .load).Ready ∧ ([0, 1].find? fun x => (requestS .load).hw.slotState 0 x = 5) = some 1 ∧ (requestS .load).hw.slotUse 0 1 = 0 ∧
      ((requestS .load).hw.learner 0).request = some .load) ∧
    (attemptS.Ready ∧ ([0, 1].find? fun x => attemptS.hw.slotState 0 x = 5) = some 1 ∧ attemptS.hw.slotUse 0 1 = 0 ∧
      (attemptS.hw.learner 0).request = some (.attempt 2 false) ∧ (attemptS.hw.job 2 false).state = .running ∧
      (attemptS.hw.job 2 false).model = 0) ∧
    (usedS.Ready ∧ ([0, 1].find? fun x => usedS.hw.slotState 0 x = 5) = some 1 ∧ usedS.hw.slotUse 0 1 ≠ 0) ∧
    (opS.hw.learner 0).request = none ∧
    (budgetedS.Ready ∧ (budgetedS.hw.learner 0).request.isSome = true ∧ (budgetedS.hw.learner 0).stale = false ∧
      budgetedS.hw.now < (budgetedS.hw.learner 0).requestNs + 1000000 * budgetedS.hw.getAt 0x8008 1 0) ∧
    ((requestS .load).hw.seqs = [] ∧ ((requestS .load).hw.learner 0).stale = false ∧
      ((atNs (2 ^ 60) budgetedS).Ready ∧ ((atNs (2 ^ 60) budgetedS).hw.learner 0).requestNs + 1000000 * (atNs (2 ^ 60) budgetedS).hw.getAt 0x8008 1 0 ≤
        (atNs (2 ^ 60) budgetedS).hw.now ∧ (atNs (2 ^ 60) budgetedS).hw.seqs = [])) ∧
    ((onSlotS .fixed).Ready ∧ ((onSlotS .fixed).hw.learner 0).request.isSome = true ∧ ((onSlotS .fixed).hw.learner 0).stale = false ∧
      ((onSlotS .fixed).hw.learner 0).requestNs + 1000000 * (onSlotS .fixed).hw.getAt 0x8008 1 0 ≤ (onSlotS .fixed).hw.now ∧
      (onSlotS .fixed).hw.seqs = [(5, seqOf (onSlot .fixed))] ∧ (onSlotS .fixed).hw.modelOf (onSlot .fixed) = 0 ∧
      (onSlotS .fixed).hw.slotState 0 1 = 5 ∧ (onSlot .fixed).state ≠ .ended ∧ (onSlot .fixed).pins = .fixed ∧ (onSlotS .fixed).hw.modeNow 2 ≠ 2 ∧
      (onSlotS .fixed).hw.currentSlot 0 = some 0 ∧ (onSlotS .fixed).hw.getAt 0x8007 1 0 ≠ 1 ∧ ((onSlotS .fixed).hw.facet 2).state = .active) ∧
    ((onSlotS .exact).Ready ∧ (onSlotS .exact).hw.seqs = [(5, seqOf (onSlot .exact))] ∧ (onSlot .exact).pins = .exact ∧
      (onSlotS .exact).hw.slotState 0 1 = 5) ∧
    (staleS.Ready ∧ (staleS.hw.learner 0).stale = true) ∧
    (updateS.Ready ∧ updateS.hw.updateReady 2 false = true) ∧ opS.hw.updateReady 2 false = false ∧
    (decidedS.Ready ∧ (decidedS.hw.job 2 false).state = .running ∧ (decidedS.hw.job 2 false).gateReady = true ∧
      (decidedS.hw.job 2 false).suspended = false ∧ (decidedS.hw.job 2 false).decision = some 0 ∧ (decidedS.hw.job 2 false).telemetryOk = true ∧
      (decidedS.hw.job 2 false).nextHeaderOk = true ∧ (decidedS.hw.job 2 false).acquired = none ∧
      (decidedS.hw.job 2 false).iteration + 1 < (decidedS.hw.job 2 false).iterations ∧ decidedS.hw.raw 0x9110 3 = 0) ∧
    (lastS.Ready ∧ (lastS.hw.job 2 false).decision = some 0 ∧ (lastS.hw.job 2 false).gateReady = true ∧ (lastS.hw.job 2 false).telemetryOk = true ∧
      (lastS.hw.job 2 false).nextHeaderOk = true ∧ (lastS.hw.job 2 false).iterations ≠ 0 ∧
      (lastS.hw.job 2 false).iterations ≤ (lastS.hw.job 2 false).iteration + 1 ∧ (lastS.hw.job 2 false).gateTag = some 77 ∧
      (lastS.hw.desc? 77).isSome = true ∧ lastS.hw.descTags (jobDesc 2 false) = [77] ∧
      (∀ p ∈ lastS.hw.facetParts 2, (lastS.hw.part p).credits = lastS.hw.get 0x2200 (p + 1) ∧ (lastS.hw.part p).intReq = false ∧
        (lastS.hw.part p).preReq = false)) ∧
    (opS.hw.job 2 false).state ≠ .running := by
  and_intros <;> first | exact ready_of _ (by decide +kernel) | decide +kernel

theorem takesCommit_of (h : Hw) (kind : Nat) (l : List Byte) (m : Nat)
    (e : (h.fedOn && decide (64 ≤ l.length) && (leBytes 4 (crc32c (slice l 0 60)).toNat == slice l 60 4) && (fieldAt l 0 1 == kind) &&
      decide (fieldAt l 1 1 ≤ 3) && (h.keyModel (fieldAt l 4 4) == some m)) = true) : h.takesCommit kind l m := by
  simpa [Hw.takesCommit, and_assoc] using e

def frameTo (dest : Nat) : List Byte := leBytes 4 64 ++ [2, 0, 0, 0] ++ leBytes 2 4 ++ leBytes 2 dest ++ List.replicate 116 0
def unitHw : Hw := { memberHw with fed := { memberHw.fed with inProduced := 2, polling := true } }
def gateFedS : State := mk ((put (openS true).hw [(0x8041, 1, 0, 64)]).setJob 2 false { gateJob with gateReady := true })

theorem wit_Federation :
    (unitHw.fed.inData = [] ∧ 64 ≤ fieldAt (frameTo 1) 0 4 ∧ fieldAt (frameTo 1) 0 4 ≤ 16777200 ∧
      (frameTo 1).length = 64 * ceilDiv (16 + fieldAt (frameTo 1) 0 4) 64 ∧
      unitHw.fed.inProduced = unitHw.fed.consumed + ceilDiv (16 + fieldAt (frameTo 1) 0 4) 64 ∧ unitHw.frameOk (frameTo 1) = true ∧
      unitHw.frameOk (frameTo 7) = false) ∧
    (opS.Ready ∧ opS.hw.fedOn = false) ∧ (memberS.Ready ∧ memberS.hw.now < memberS.hw.fed.pollNs + 1000 * memberS.hw.get 0x8307 1) ∧
    ((atNs (2 ^ 60) memberS).Ready ∧ (atNs (2 ^ 60) memberS).hw.fedOn = true ∧
      (atNs (2 ^ 60) memberS).hw.fed.pollNs + 1000 * (atNs (2 ^ 60) memberS).hw.get 0x8307 1 ≤ (atNs (2 ^ 60) memberS).hw.now ∧
      (atNs (2 ^ 60) memberS).hw.fed.inOff = false ∧ (atNs (2 ^ 60) memberS).hw.fed.polling = false) ∧
    (memberS.hw.takesCommit 1 (commitMsg 1 0 3) 0 ∧ memberS.hw.fedChildren.contains 5 = false ∧ memberS.hw.fedChildren.contains 4 = true ∧
      ((memberS.hw.learner 0).decided.find? fun e => e.1 == fieldAt (commitMsg 1 0 3) 8 8) = none ∧
      fieldAt (commitMsg 1 0 3) 8 8 = memberS.hw.getAt 0x802A 1 0 ∧ (memberS.hw.learner 0).round = none) ∧
    (memberS.hw.takesCommit 1 (commitMsg 1 0 9) 0 ∧ fieldAt (commitMsg 1 0 9) 8 8 ≠ memberS.hw.getAt 0x802A 1 0) ∧
    (memberS.hw.takesCommit 2 (commitMsg 2 0 3) 0 ∧ memberS.hw.fedParent ≠ some 4) ∧
    ((openS true).Ready ∧ (openS true).hw.takesCommit 2 (commitMsg 2 0 3) 0 ∧ (openS true).hw.fedParent = some 2 ∧
      fieldAt (commitMsg 2 0 3) 8 8 = (openS true).hw.getAt 0x802A 1 0 ∧
      ((openS true).hw.learner 0).round = some { heldRound with sent := true } ∧ (openS true).hw.roundState 0 = 2 ∧
      (openS true).hw.roundJob 0 = none) ∧
    (gateFedS.Ready ∧ gateFedS.hw.takesCommit 2 (commitMsg 2 2 3) 0 ∧ gateFedS.hw.fedParent = some 2 ∧
      fieldAt (commitMsg 2 2 3) 8 8 = gateFedS.hw.getAt 0x802A 1 0 ∧ (gateFedS.hw.learner 0).round = some { heldRound with sent := true } ∧
      gateFedS.hw.roundState 0 = 2 ∧ gateFedS.hw.roundJob 0 = some (2, false) ∧ (gateFedS.hw.job 2 false).decision = none) ∧
    ((openS false).Ready ∧ ((openS false).hw.learner 0).round = some heldRound ∧ (openS false).hw.fedOn = true ∧ heldRound.own.isSome = true ∧
      heldRound.sent = false ∧ (openS false).hw.fedParent = some 2 ∧
      (openS false).hw.now < heldRound.sinceNs + 1000000 * (openS false).hw.get 0x8308 1) ∧
    ((atNs (2 ^ 60) (openS false)).Ready ∧ ((atNs (2 ^ 60) (openS false)).hw.learner 0).round = some heldRound ∧
      heldRound.sinceNs + 1000000 * (atNs (2 ^ 60) (openS false)).hw.get 0x8308 1 ≤ (atNs (2 ^ 60) (openS false)).hw.now) ∧
    ((atNs (2 ^ 60) (openS true)).Ready ∧ (atNs (2 ^ 60) (openS true)).hw.roundState 0 = 2) := by
  and_intros <;> first | exact ready_of _ (by decide +kernel) | exact takesCommit_of _ _ _ _ (by decide +kernel) | decide +kernel

def adaptS : State := mk (put runningS.hw [(0x5100, 0xE, 0, 1), (0x5001, 4, 0, 0)])

theorem wit_PolicyCores :
    (runningS.Ready ∧ runningS.hw.pairRuns 2 = true ∧ runningS.hw.overLimit 3 (5 % 2 ^ 32) (6 % 2 ^ 32) = false ∧
      ((runningS.hw.pair 2).stamps.filter fun x => decide (runningS.hw.now < x + hourNs)).length < 2 ∧
      runningS.hw.liveSlot (99 : Word64).toNat = none) ∧
    (adaptS.Ready ∧ adaptS.hw.pairRuns 2 = true ∧ adaptS.hw.overLimit 3 (99999999 % 2 ^ 32) (6 % 2 ^ 32) = true) ∧
    (shapeS.Ready ∧ shapeS.hw.pairRuns 2 = true ∧ shapeS.hw.liveSlot (BitVec.ofNat 64 handle5 : Word64).toNat = some 5 ∧
      shapeS.hw.seq? 5 = some (seqOf vertex)) ∧
    (opS.Ready ∧ opS.hw.pairRuns 2 = false ∧ opS.hw.raw 0xA064 1 ≠ 1) ∧
    (twiceS.Ready ∧ twiceS.hw.pairRuns 2 = true ∧
      2 ≤ ((twiceS.hw.pair 2).stamps.filter fun x => decide (twiceS.hw.now < x + hourNs)).length) ∧
    (loadS.Ready ∧ loadS.hw.raw 0xA064 1 = 1) := by
  and_intros <;> first | exact ready_of _ (by decide +kernel) | decide +kernel

def storeS : State := mk { (facetS id).hw with smp := { (facetS id).hw.smp with store := [entryOf], laneFacets := [(3, 4)] } }
def rewindS : State := mk ((facetIn opHw 0 .standby).modQueue 4 fun q => { q with w := 5, k := 3 })

/-- Facet 2 with a hot sequence in slot 5 whose vertex has changed. -/
def hotS : State :=
  mk ((facetS id).hw.setSeq 5 { seqOf { vertex with facet := 2 } with hot := true, cur := { vertex with facet := 2, generated := 2 } })

/-- The bank of slot 5, which the manual does not name. -/
def bank5 : Fin 16 := ⟨bankOf 5, Nat.mod_lt _ (by decide)⟩

theorem hotS_bank : hotS.hw.bankFacets bank5 = [(2 : Fin 16).val] := by
  have e : hotS.hw.seqs = [(5, { seqOf { vertex with facet := 2 } with hot := true, cur := { vertex with facet := 2, generated := 2 } })] := by
    decide +kernel
  unfold Hw.bankFacets
  rw [e]
  have n : (({ vertex with facet := 2, generated := 2 } : Vertex) != { vertex with facet := 2 }) = true := by decide
  simp only [bank5, List.filter, beq_self_eq_true, Bool.and_self, seqOf, n]
  rfl

theorem wit_DetectedFaults :
    ((facetS id).Ready ∧ ((facetS id).hw.facet 2).state = .active ∧ (facetS id).hw.raw 0xA006 3 < (facetS id).hw.get 0xA001 1 ∧
      (∀ g : Fin 16, g ≠ 2 → ((facetS id).hw.facet g).state ≠ .active) ∧ ((facetS id).hw.raw 0xA013 1).testBit (copyBit .tes) = false ∧
      ((facetS id).hw.raw 0xA013 1).testBit (copyBit .dsp) = false) ∧
    (hotS.Ready ∧ (hotS.hw.facet 2).state = .active ∧ hotS.hw.raw 0xA006 3 < hotS.hw.get 0xA001 1 ∧
      hotS.hw.bankFacets bank5 = [(2 : Fin 16).val]) ∧
    (storeS.Ready ∧ (storeS.hw.facet 2).state = .active ∧ distinct (storeS.hw.smp.store.map fun e => e.facet) = [(2 : Fin 16).val] ∧
      facetsOf (Map.getD storeS.hw.smp.laneFacets 3 0) = [(2 : Fin 16).val]) ∧
    (opS.Ready ∧ opS.hw.bankFacets 3 = [] ∧ opS.hw.poolFacets 3 = []) ∧
    (rewindS.Ready ∧ (rewindS.hw.facet (rewindS.hw.queueFacet 4)).state = .standby) ∧
    (simplexS.Ready ∧ (simplexS.hw.raw 0xA013 1).testBit (copyBit .tes) = true) := by
  and_intros <;> first | exact ready_of _ (by decide +kernel) | exact hotS_bank | decide +kernel

def turn1S : State := mk { (taskS 1 { Task.reset with turn := true }).hw with cc := 63 }
def aheadS : State := taskS 1 { Task.reset with done := 10 ^ 6 }
def foregroundS : State := mk { opHw with mem := { opHw.mem with queue := [reqOf true .other] } }
def traceS : State := mk { opHw with trace := { opHw.trace with buffer := [(6, [1, 2])] } }
def record3 : AcctRec := { charges := Charges.zero, periods := 1, start := 0, stop := 1 }
def accountFlushS : State := mk { put opHw [(0x9301, 1, 0, 64)] with acct := { opHw.acct with flushing := [(3, record3)] } }
def heldFlushS : State := mk { (taskS 3 { Task.reset with state := 2 }).hw with trace := { opHw.trace with buffer := [(6, [1, 2])] } }
def takenS (c : Nat) : State := mk { intakeS.hw with cc := 19, events := { intakeS.hw.events with takenCc := some c } }
def eventOf : Ev := { fam := 1, code := 0x1000, sev := 2, unit := 2, facet := none, part := none, detail := [] }
def suppressedS : State :=
  atNs (2 ^ 50) (mk { opHw with events := { opHw.events with rates := [{ first := eventOf, logged := 1, suppressed := 9 }] } })

theorem wit_BackgroundAndEvents :
    (((taskS 1 { Task.reset with state := 0, pending := true }).hw.task 1).state = 0 ∧
      ((taskS 1 { Task.reset with state := 0, pending := true }).hw.task 1).pending = true) ∧
    ((taskS 1 { Task.reset with state := 0 }).Ready ∧ ((taskS 1 { Task.reset with state := 0 }).hw.task 1).state = 0) ∧
    (opS.Ready ∧ (opS.hw.task 1).state ≠ 0 ∧ opS.hw.eng.state ≠ .start ∧ opS.hw.bgGuaranteed 1 = false ∧
      (opS.hw.task 1).done < taskWork 1 * (opS.hw.now - (opS.hw.task 1).sinceNs) / opS.hw.bgPeriod 1 + taskWork 1) ∧
    (turn1S.Ready ∧ turn1S.hw.bgGuaranteed 1 = true ∧ (turn1S.hw.task 1).state ≠ 0 ∧
      (turn1S.hw.task 1).done < taskWork 1 * (turn1S.hw.now - (turn1S.hw.task 1).sinceNs) / turn1S.hw.bgPeriod 1 + taskWork 1) ∧
    (aheadS.Ready ∧ aheadS.hw.bgGuaranteed 1 = false ∧
      taskWork 1 * (aheadS.hw.now - (aheadS.hw.task 1).sinceNs) / aheadS.hw.bgPeriod 1 + taskWork 1 ≤ (aheadS.hw.task 1).done) ∧
    (foregroundS.Ready ∧ foregroundS.hw.bgGuaranteed 4 = false ∧ foregroundS.hw.foregroundWaits = true) ∧
    (traceS.Ready ∧ traceS.hw.foregroundWaits = false ∧ (traceS.hw.task 3).state ≠ 0 ∧
      (traceS.hw.trace.buffer.find? fun e => !(traceS.hw.memWaiting fun u => u == .traceRecord e.1)) = some (6, [1, 2])) ∧
    (accountFlushS.Ready ∧ accountFlushS.hw.foregroundWaits = false ∧ (accountFlushS.hw.task 4).state ≠ 0 ∧ accountFlushS.hw.acct.posted = none ∧
      accountFlushS.hw.acctFull = false ∧ accountFlushS.hw.acct.flushing = (3, record3) :: []) ∧
    ((taskS 5 { Task.reset with state := 2 }).Ready ∧ ((taskS 5 { Task.reset with state := 2 }).hw.task 5).state = 2 ∧
      (taskS 5 { Task.reset with state := 2 }).hw.flushHeld 5 = 0) ∧
    (heldFlushS.Ready ∧ heldFlushS.hw.flushHeld 3 ≠ 0) ∧ ((opS.hw.task 5).state ≠ 2 ∧ opS.hw.events.intake = []) ∧
    ((takenS 4).Ready ∧ (takenS 4).hw.events.takenCc = some 4 ∧ (takenS 4).hw.cc < 4 + 16) ∧
    ((takenS 3).Ready ∧ (takenS 3).hw.events.intake = recordOf1 7 :: [recordOf1 8] ∧ (takenS 3).hw.events.takenCc = some 3 ∧
      3 + 16 ≤ (takenS 3).hw.cc ∧ (∀ x ∈ [recordOf1 8], x.seq < (takenS 3).hw.raw 0xC004 1) ∧ (recordOf1 7).snap = [] ∧
      (recordOf1 7).duePersist = false ∧ (recordOf1 7).severity ≠ 5 ∧ (takenS 3).hw.events.buffer.length < eventSlots ∧
      (takenS 3).hw.events.lostIntake = 0 ∧ (takenS 3).hw.events.lostOver = 0 ∧ (takenS 3).hw.flushing = false) ∧
    (suppressedS.Ready ∧
      suppressedS.hw.events.rateNs / (suppressedS.hw.events.rateMs * 1000000) < suppressedS.hw.now / (suppressedS.hw.events.rateMs * 1000000) ∧
      suppressedS.hw.events.rates = [{ first := eventOf, logged := 1, suppressed := 9 }] ∧ suppressedS.hw.events.closed = [] ∧
      suppressedS.hw.events.stopBelowS4 = false ∧ suppressedS.hw.events.intake.length < 64) ∧
    (opS.hw.now / (opS.hw.events.rateMs * 1000000) ≤ opS.hw.events.rateNs / (opS.hw.events.rateMs * 1000000) ∧ opS.hw.events.closed = []) := by
  and_intros <;> first | exact ready_of _ (by decide +kernel) | decide +kernel

theorem wit_MarkConditions :
    (Asks opHw 0x5204 16 0xFF00 ∧ opHw.eng.state = .operational ∧
      marksOk ((List.range 5).map fun k => if k = (4 : Fin 5).val then 0xFF00 else opHw.get (0x5200 + k) 16) = true) ∧
    (Asks opHw 0x5203 16 0xE000 ∧
      marksOk ((List.range 5).map fun k => if k = (3 : Fin 5).val then 0xE000 else opHw.get (0x5200 + k) 16) = false) ∧
    (Asks (island .config) 0x5204 16 0xFF00 ∧ Asks (island .draining) 0x5204 16 0xFF00 ∧ Asks (island .quiesced) 0x5204 16 0xFF00) := by
  and_intros <;> first | exact asks _ _ _ _ (by decide +kernel) | decide +kernel

theorem wit_AccessChannels :
    (Asks (island .config) 0x2100 1 (2 ^ 55 + 2 ^ 12) ∧ (island .config).eng.state = .config ∧
      ((List.range 64).all fun i => !(2 ^ 55 + 2 ^ 12 : Nat).testBit i || (decide (12 ≤ i) && decide (i ≤ 55))) = true) ∧
    (Asks (island .config) 0x2100 1 (2 ^ 56) ∧ (2 ^ 56 : Nat).testBit 56 = true ∧ 55 < 56) ∧
    (Asks (island .config) 0x2100 1 (2 ^ 11) ∧ (2 ^ 11 : Nat).testBit 11 = true ∧ 11 < 12) := by
  and_intros <;> first | exact asks _ _ _ _ (by decide +kernel) | decide +kernel

theorem wit_LocusReserve : opHw.tenantLive 0 < opHw.getAt 0x3101 5 0 := by decide +kernel

theorem wit_SharedRecords : (([(3, 2), (5, 1)] : List (Nat × Nat)).map Prod.snd).sum ≠ 0 := by decide

theorem wit_StepRunsCommand : State.reset.pending = [] ∧ ({ State.reset with pending := [.wallTick, .tstTrst] } : State).pending = .wallTick :: [.tstTrst] :=
  ⟨rfl, rfl⟩

theorem wit_StepInvariant : Memory.wf opS.win.data = true ∧ opS.gnm.count < 2 ^ 70 ∧ ∃ t, step opS = .next t := by
  refine ⟨by decide, by decide, _, rfl⟩

theorem wit_StepsSettle : opS.hw.Quiet ∧ ∃ t, step opS = .next t := ⟨(ready_of _ (by decide +kernel)).quiet, _, rfl⟩

/-! ## Expected values from the manual -/

/-- The check value of the tile CRC (CRC-32C). -/
theorem test_crc32c : crc32c [0x31, 0x32, 0x33, 0x34, 0x35, 0x36, 0x37, 0x38, 0x39] = 0xE3069283 := by decide +kernel

/-- R159: the check value over "123456789". -/
theorem test_crc32iso : crc32iso [0x31, 0x32, 0x33, 0x34, 0x35, 0x36, 0x37, 0x38, 0x39] = 0xCBF43926 := by decide +kernel

/-- The header example after R87: facet 3, step low word 0xA028, position 1,234, tile 37. -/
theorem test_tile_header :
    let t := tileHdr 0x000404A04D2A0283
    (t.facet, t.step, t.position, t.tile, t.format, t.beat, t.isReplay) = (3, 0xA028, 1234, 37, 1, 0, false) := by decide

/-- The handle of the admission example: tenant 0x0A5, slot 0x4A21, generation 3. -/
theorem test_handle : handleOf 0x4A21 { vertex with tenant := 0x0A5, generation := 3, origin := 0 } = 0x000000060A504A21 := by decide

/-- The split example after R326. -/
theorem test_split : splitShare 1000003 [(0x011, 100), (0x2A0, 50), (0x7F3, 25)] = [(0x011, 571431), (0x2A0, 285715), (0x7F3, 142857)] := by
  decide

/-- Test vector B of Table 10.6. -/
theorem test_helix_vector_b : helixBlock 0 1 0 = (0xDFE1C8820447C318, 0x31DD05728EFBBB3A) := by decide +kernel

/-- Test vector C of Table 10.6. -/
theorem test_helix_vector_c : unit24 0xDFE1C8820447C318 = 0x3F5FE1C9 := by decide +kernel

/-- The inputs of the sampler's worked example: SAMPLE, T = 1.0, top_p = 0x8000_0000, repetition 1.0. -/
def exampleCtx : SampCtx :=
  { vocab := 8, format := 1,
    samp := { mode := .sample, maskSlot := 0, maskOn := false, maskInvert := false, topK := 0, temperature := 0x3F800000,
              topP := 0x80000000, minP := 0, repetition := 0x3F800000, frequency := 0, presence := 0, biasCount := 0, biasAddr := 0,
              scoreAddr := 0 },
    window := [], bias := [], mask := [], seed := 0, stream := 0, index := 0, races := true, keep := 4096, given := none }

/-- The logits of Table 11.8, as BF16 beats of tile 0. -/
def exampleTile : List Byte :=
  [0x80, 0x3F, 0x00, 0x00, 0x40, 0x40, 0x40, 0x40, 0x00, 0x40, 0x8C, 0xC2, 0x00, 0x40, 0x80, 0xBF] ++ List.replicate 240 0

/-- The entry of the worked example after its tile. -/
def exampleEntry : PosEntry :=
  ((tileLogits 1 0 0 8 exampleTile).foldl (fun e t => e.reduce exampleCtx t) (PosEntry.fresh 0 0 0 0)).settleNucleus exampleCtx

/-- The worked example of the sampler: token 2 with log-probability 0xBF8A_005F, and tokens 4 and 6 at 0xC005_0030. -/
theorem test_sampler_example :
    (exampleEntry.winner exampleCtx).map Prod.snd = some 2 ∧ exampleEntry.logprob 0x30000 = 0xBF8A005F ∧
    exampleEntry.logprob 0x20000 = 0xC0050030 ∧ exampleEntry.cands.map Prod.snd = [2, 3, 4, 6, 0, 1, 7, 5] ∧
    exampleEntry.nucleus = some 2 := by decide +kernel

/-! ## Ill-formed commands -/

/-- The start report's checks. -/
theorem test_wf_start_report :
    goodStart.wf = true ∧ ({ goodStart with standardFails := [0] }).wf = false ∧ ({ goodStart with alternateFails := [17] }).wf = false ∧
    ({ goodStart with lanesBad := 2 ^ 16 }).wf = false ∧ ({ goodStart with sharesBad := 2 ^ 16 }).wf = false ∧
    ({ goodStart with banksBad := 2 ^ 16 }).wf = false ∧ ({ goodStart with pairsBad := 2 ^ 8 }).wf = false ∧
    ({ goodStart with partitions := 0 }).wf = false ∧ (Instr.aonRstRelease { goodStart with partitions := 65 }).wf = false := by decide

/-- The packet's checks. -/
theorem test_wf_packet :
    waiting.wf = true ∧ ({ waiting with payload := List.replicate 65 0 }).wf = false ∧ ({ waiting with seq := 4 }).wf = false ∧
    ({ waiting with tag := 8 }).wf = false ∧ (Instr.mctpPacket { waiting with source := 256 }).wf = false := by decide

/-- Numbers beyond their fields. -/
theorem test_wf_numbers :
    (Instr.timeImport (2 ^ 64)).wf = false ∧ (Instr.deadlineMiss (2 ^ 20)).wf = false ∧ (Instr.delayInsert 0 (2 ^ 64) 0 0).wf = false ∧
    (Instr.delayInsert 0 0 0 (2 ^ 32)).wf = false ∧ (Instr.delayCancel 0 0 (2 ^ 32)).wf = false ∧ (Instr.creditReturn 0 128).wf = false ∧
    (Instr.replayTimeout 0 131072).wf = false ∧ (Instr.deferredStart (2 ^ 20)).wf = false ∧ (Instr.hotFill (2 ^ 20)).wf = false ∧
    (Instr.sampleResult 0 (2 ^ 64) 0).wf = false ∧ (Instr.sampleResult 0 0 131072).wf = false ∧ (Instr.secantWalk 0 (2 ^ 20)).wf = false ∧
    (Instr.fedVote 4096 []).wf = false ∧ (Instr.fedDecide 4096 []).wf = false ∧ (Instr.fedPoll (2 ^ 32) []).wf = false ∧
    (Instr.newEntry 0 (List.replicate 128 0) [2 ^ 32]).wf = false ∧ (Instr.heldRingReevaluate 0 (List.replicate 128 0) [2 ^ 32]).wf = false ∧
    (Instr.forwardMessage [] [2 ^ 32]).wf = false ∧ (Instr.migrateTimeout (2 ^ 32)).wf = false := by decide

/-- Data of a wrong length. -/
theorem test_wf_lengths :
    (Instr.reportBeat 0 []).wf = false ∧ (Instr.completionRecord 0 []).wf = false ∧ (Instr.contextDone []).wf = false ∧
    (Instr.tileTransfer 0 0 [] 0).wf = false ∧ (Instr.newEntry 0 [] []).wf = false ∧ (Instr.cancelEntry 0 []).wf = false ∧
    (Instr.heldRingReevaluate 0 [] []).wf = false := by decide

/-- Data beyond an interface's longest. -/
theorem test_wf_longest :
    (Instr.memReadResponse 0 0 .okay (List.replicate 4097 0)).wf = false ∧ (Instr.forwardMessage (List.replicate 4097 0) []).wf = false ∧
    (Instr.replyMessage (List.replicate 4097 0)).wf = false ∧ (Instr.fedVote 0 (List.replicate 4097 0)).wf = false ∧
    (Instr.fedDecide 0 (List.replicate 4097 0)).wf = false ∧ (Instr.liveMessage (List.replicate 4194305 0)).wf = false ∧
    (Instr.victimProposal 0 (List.replicate 65537 0)).wf = false := by
  simp only [Instr.wf, List.length_replicate]; decide

end Sys2Proof.Tests
end

/-! PROOFS. R31 and R32: which five mark values are legal, and what a write of one mark entry does. -/

namespace Sys2Proof.Machine

open Sys2Proof

/-! ## The value that a request carries -/

/-- A byte string of `n` bytes spells a number below 256ⁿ. -/
theorem leNat_lt (l : List Byte) : leNat l < 256 ^ l.length := by
  induction l with
  | nil => simp [leNat]
  | cons b r ih =>
    have hb : b.toNat < 256 := b.isLt
    simp only [leNat, List.length_cons, Nat.pow_succ]
    omega

theorem length_windowRun (m : List Host.Cell) (a n : Nat) : (windowRun m a n).length = n := by
  fun_induction windowRun m a n with
  | case1 => rfl
  | case2 _ _ ih => simp [ih]
  | case3 _ _ _ ih => simp [ih]
  | case4 _ _ _ _ _ ih => simp [ih]

theorem length_slice (l : List Byte) (off n : Nat) : (slice l off n).length = n := by
  simp only [slice, List.length_append, List.length_replicate, List.length_take]
  omega

/-- A request carries no more data than its length says. -/
theorem State.request_data_length {s : State} {p : Path} {r : Req} (h : s.request? p = some r) : r.data.length ≤ r.length := by
  cases p with
  | window =>
    simp only [State.request?, Option.ite_none_right_eq_some, Option.some.injEq] at h
    obtain ⟨-, rfl⟩ := h
    simp only [State.windowReq]
    split
    · exact (length_windowRun _ _ _).trans_le (Nat.min_le_left _ _)
    · exact Nat.zero_le _
  | ddp =>
    unfold State.request? at h
    dsimp only at h
    split at h
    · cases h
    · split at h
      · cases h
      · injection h with h
        subst h
        exact (length_slice _ _ _).trans_le (Nat.min_le_left _ _)

/-- The value of a scalar WRITE fits the entry's size. -/
theorem State.AsksWrite.value_lt {s : State} {p : Path} {idx sub v : Nat} (h : s.AsksWrite p idx sub v) : v < 256 ^ sizeOf idx sub := by
  obtain ⟨-, -, r, hr, -, -, -, -, -, -, hlen, rfl⟩ := h
  calc leNat r.data < 256 ^ r.data.length := leNat_lt _
    _ ≤ 256 ^ sizeOf idx sub := Nat.pow_le_pow_right (by decide) (hlen ▸ State.request_data_length hr)

/-! ## The marks and their entries -/

/-- R31, as its clauses. -/
theorem marksOk_iff (c p d m k : Nat) :
    marksOk [c, p, d, k, m] = true ↔
      (0x0100 ≤ c ∧ c < p ∧ p < d ∧ d < m ∧ m ≤ 0xFF00) ∧ c + 0x1000 ≤ m ∧
        0x0100 ≤ k ∧ k ≤ 0xFF00 ∧ k ≠ c ∧ k ≠ p ∧ k ≠ d ∧ k ≠ m := by
  simp only [marksOk, List.getD_cons_zero, List.getD_cons_succ, List.all_cons, List.all_nil, Bool.and_eq_true, decide_eq_true_eq,
    bne_iff_ne, and_true]
  omega

/-- The line of a mark's entry in the dictionary (0x5200 to 0x5204). -/
def markEntry (i : Nat) : Entry := ⟨0x5200 + i, 1, 16, .u16, .rw, true, 0, 0xFFFF, .none⟩

theorem lookup_mark : ∀ (i : Fin 5) (f : Fin 16), lookup (0x5200 + i) (f + 1) = some (markEntry i) := by decide +kernel

/-- No feature governs a mark's entry (Table 5.12). -/
theorem Hw.governor_mark (h : Hw) (r : Req) (i : Fin 5) (obj : Nat) (hi : r.idx = 0x5200 + i) : h.governor r obj = none := by
  have hg : ∀ i : Fin 5, (governed.find? fun g => decide (g.1 ≤ 0x5200 + i.val) && decide (0x5200 + i.val ≤ g.2.1)) = none := by decide
  have hs : ∀ g ∈ governedSubs, g.1 < 0x5200 ∨ 0x5204 < g.1 := by decide
  have hsub : (governedSubs.find? fun g => g.1 == r.idx && g.2.1 == r.sub) = none := by
    refine List.find?_eq_none.mpr fun g hmem => ?_
    have := hs g hmem
    simp only [Bool.and_eq_true, beq_iff_eq, not_and]
    omega
  unfold Hw.governor
  rw [hsub, hi, hg i]
  exact if_neg (by omega)

/-- Nothing but a denial of the sideband bars a WRITE of a mark (R422, steps 4 to 7). -/
theorem State.writeBar_mark (s : State) (r : Req) (i : Fin 5) (obj : Nat) (hi : r.idx = 0x5200 + i) (hd : s.hw.denied r = false) :
    s.writeBar r (markEntry i) obj = .ok := by
  simp [State.writeBar, hd, Hw.governor_mark s.hw r i obj hi, markEntry]

/-- A write of a mark's entry is its facet's mark write. -/
theorem State.ownScalar_mark (s : State) (i : Fin 5) (f obj v : Nat) :
    s.ownScalar (0x5200 + i) (f + 1) obj v = ((s.hw.writeMark i f v).1, { s with hw := (s.hw.writeMark i f v).2 }) := by
  fin_cases i <;> rfl

/-! ## A mark write -/

/-- The five marks that a facet would have with mark `i` at `v` and the other four as they are staged. -/
def Hw.marksWith (h : Hw) (i f v : Nat) : List Nat := (List.range 5).map fun k => if k = i then v else h.get (0x5200 + k) (f + 1)

theorem Hw.writeMark_legal (h : Hw) (i f v : Nat) (hm : marksOk (h.marksWith i f v) = true) :
    h.writeMark i f v = (.ok, h.set (0x5200 + i) (f + 1) v) := if_pos hm

theorem Hw.writeMark_illegal (h : Hw) (i f v : Nat) (hm : marksOk (h.marksWith i f v) = false) : h.writeMark i f v = (.range, h) :=
  if_neg (Bool.eq_false_iff.mp hm)

/-- A mark write changes dictionary values alone. -/
theorem Hw.writeMark_frame (h : Hw) (i f v : Nat) : (h.writeMark i f v).2 = { h with od := (h.writeMark i f v).2.od } := by
  cases hm : marksOk (h.marksWith i f v) with
  | true => rw [h.writeMark_legal i f v hm]; rfl
  | false => rw [h.writeMark_illegal i f v hm]

/-- The engine states in which a facet's configuration may be written serve every WRITE (Table 5.8). -/
theorem Hw.serves_write (h : Hw) (idx : Nat)
    (he : h.eng.state = .config ∨ h.eng.state = .operational ∨ h.eng.state = .draining ∨ h.eng.state = .quiesced) :
    h.serves 1 idx = true := by
  unfold Hw.serves
  rcases he with he | he | he | he <;> simp only [he]

/-- The requests that MARK_WRITE serves: WRITEs of a mark's entry. -/
def Req.writesMark (r : Req) : Bool := !r.bad && r.op == 1 && decide (0x5200 ≤ r.idx) && decide (r.idx ≤ 0x5204)

theorem exec_markWrite (p : Path) (s : State) : exec (.markWrite p) s = .next (s.serve p Req.writesMark) := rfl

theorem Req.isWrite.writesMark {r : Req} {i : Fin 5} {sub v : Nat} (h : r.isWrite (0x5200 + i) sub v) : r.writesMark = true := by
  obtain ⟨hb, hop, hi, -⟩ := h
  have hrange : 0x5200 ≤ r.idx ∧ r.idx ≤ 0x5204 := by omega
  simp [Req.writesMark, hb, hop, hrange]

/-- The value of a mark's WRITE lies in the entry's range. -/
theorem State.AsksWrite.mark_le {s : State} {p : Path} {i : Fin 5} {f : Fin 16} {v : Nat} (h : s.AsksWrite p (0x5200 + i) (f + 1) v) :
    v ≤ 0xFFFF := by
  have hlt := h.value_lt
  rw [sizeOf, lookup_mark] at hlt
  exact Nat.le_of_lt_succ hlt

/-- MARK_WRITE serves a mark's WRITE: what it leaves, and its answer. -/
theorem State.markWrite_served (s : State) (p : Path) (i : Fin 5) (f : Fin 16) (v : Nat) (hr : s.Ready)
    (he : s.hw.eng.state = .config ∨ s.hw.eng.state = .operational ∨ s.hw.eng.state = .draining ∨ s.hw.eng.state = .quiesced)
    (ha : s.AsksWrite p (0x5200 + i) (f + 1) v) :
    Served s (s.serve p Req.writesMark) p
        (.of ((s.begun p).hw.writeMark i f v).1, { s.begun p with hw := ((s.begun p).hw.writeMark i f v).2 }) ∧
      s.Answered (s.serve p Req.writesMark) ((s.begun p).hw.writeMark i f v).1 p := by
  have hframe := (s.begun p).hw.writeMark_frame i f v
  obtain ⟨-, -, -, hfaults⟩ := hr.quiet
  have h := State.write_served s p (0x5200 + i) (f + 1) v Req.writesMark (markEntry i) hr ha (fun _ => Req.isWrite.writesMark)
    (lookup_mark i f) (by simp [markEntry]) (s.hw.serves_write _ he)
    (fun r _ ⟨_, _, hi, _⟩ hd => (s.begun p).writeBar_mark r i _ hi hd) (Nat.zero_le _) ha.mark_le
  simp only [State.ownScalar_mark] at h
  exact h rfl (by rw [hframe]; rfl) (by rw [hframe]; exact hfaults) (by rw [hframe]; exact id)

/-- A staged mark after MARK_WRITE is as the write left it. -/
theorem Served.mark {s t : State} {p : Path} {o : Reply × State} (h : Served s t p o) (i : Fin 5) (f : Fin 16) :
    t.hw.get (0x5200 + i) (f + 1) = o.2.hw.get (0x5200 + i) (f + 1) :=
  h.get _ _ (plainKey_odKey _ _ _ (by omega) (by omega) (by omega))

/-- Settles O50: R31 is the meaning of `marksOk`, and MARK_WRITE either stages the mark or answers RANGE and leaves it. -/
theorem markConditions : Obligations.MarkConditions := by
  unfold Obligations.MarkConditions
  refine ⟨marksOk_iff, fun s p f i v hr he ha => ?_⟩
  obtain ⟨hserved, hanswered⟩ := s.markWrite_served p i f v hr he ha
  refine ⟨fun hm => ⟨_, exec_markWrite p s, ?_⟩, fun hm => ⟨_, exec_markWrite p s, ?_⟩⟩
  · rw [(s.begun p).hw.writeMark_legal i f v hm] at hanswered hserved
    exact ⟨hanswered, (hserved.mark i f).trans (Hw.get_set _ _ _ _)⟩
  · rw [(s.begun p).hw.writeMark_illegal i f v hm] at hanswered hserved
    exact ⟨hanswered, hserved.mark i f⟩

end Sys2Proof.Machine

/-! PROOFS. R63: the channel of an access, and the values that CHANNEL_SELECT (0x2100) takes. -/

namespace Sys2Proof.Machine

open Sys2Proof

/-! ## An access under way keeps what it asks for -/

/-- The request apart from its tag and its watchdog, which its transfer sets (R61, R67). -/
def MemReq.asked (r : MemReq) : MemReq := { r with tag := 0, sinceNs := 0, expired := false }

theorem MemReq.asked_transferred (r : MemReq) (tag ns : Nat) (expired : Bool) :
    { r with tag := tag, sinceNs := ns, expired := expired }.asked = r.asked := rfl

/-- What the access asks for stands in a request that is outstanding or queued. -/
def MemPort.Holds (m : MemPort) (r : MemReq) : Prop := ∃ q ∈ m.out ++ m.queue, q.asked = r.asked

/-- A transfer adds its request to the outstanding ones, with a free tag and a running watchdog. -/
theorem Hw.memIssue_out (h : Hw) (r : MemReq) :
    (h.memIssue r).mem.out = h.mem.out ++ [{ r with tag := h.mem.freeTag r.channel, sinceNs := h.now, expired := false }] := rfl

/-- A transfer takes no request but its own off the queue. -/
theorem Hw.memIssue_queue (h : Hw) (r : MemReq) : (h.memIssue r).mem.queue = h.mem.queue.erase r := rfl

/-- A transfer loses no access. -/
theorem Hw.memIssue_holds (h : Hw) (r a : MemReq) (ha : h.mem.Holds a) : (h.memIssue r).mem.Holds a := by
  obtain ⟨q, hq, hqa⟩ := ha
  unfold MemPort.Holds
  rw [h.memIssue_out, h.memIssue_queue]
  rcases List.mem_append.mp hq with hq | hq
  · exact ⟨q, by simp [hq], hqa⟩
  · by_cases hqr : q = r
    · subst hqr
      exact ⟨_, List.mem_append_left _ List.mem_concat_self, (q.asked_transferred _ _ _).trans hqa⟩
    · exact ⟨q, by simp [(List.mem_erase_of_ne hqr).mpr hq], hqa⟩

/-- Transferring queued requests loses no access. -/
theorem Hw.memPumpN_holds (n : Nat) (h : Hw) (a : MemReq) (ha : h.mem.Holds a) : (h.memPumpN n).mem.Holds a := by
  induction n generalizing h with
  | zero => exact ha
  | succ n ih =>
    unfold Hw.memPumpN
    split
    · exact ih _ (h.memIssue_holds _ a ha)
    · exact ha

/-- An access handed to MOV is outstanding or queued. -/
theorem Hw.memSend_holds (h : Hw) (r : MemReq) : (h.memSend r).mem.Holds r :=
  Hw.memPumpN_holds _ _ _ ⟨r, by simp, rfl⟩

/-- R63: the channel is the parity of the address's bits that 0x2100 picks. -/
theorem Hw.channelOf_eq (h : Hw) (addr : Nat) :
    h.channelOf addr = ((List.range 64).filter fun i => addr.testBit i && (h.get 0x2100 1).testBit i).length % 2 := by
  simp only [Hw.channelOf, popcount, Nat.testBit_and]

/-- An access that the engine starts stands in a request for its address's line, on its address's channel. -/
theorem Hw.memPost_request (h : Hw) (write : Bool) (addr beats : Nat) (data : List Byte) (p : Purpose) (tenant : Option Nat) (use : MemUse) :
    ∃ r ∈ (h.memPost write addr beats data p tenant use).mem.out ++ (h.memPost write addr beats data p tenant use).mem.queue,
      r.use = use ∧ r.write = write ∧ r.data = data ∧ r.addr = addr / 64 * 64 ∧ r.channel = h.channelOf addr := by
  obtain ⟨r, hr, ha⟩ : (h.memPost write addr beats data p tenant use).mem.Holds _ := Hw.memSend_holds _ _
  exact ⟨r, hr, congrArg MemReq.use ha, congrArg MemReq.write ha, congrArg MemReq.data ha, congrArg MemReq.addr ha,
    congrArg MemReq.channel ha⟩

/-! ## A write of CHANNEL_SELECT -/

/-- The owner's check of a CHANNEL_SELECT value. -/
def channelSelectOk (v : Nat) : Bool := v % 4096 == 0 && decide (v < 2 ^ 56)

/-- A number is a multiple of 2ⁿ where it sets no bit below n, and only there. -/
theorem mod_two_pow_eq_zero_iff (v n : Nat) : v % 2 ^ n = 0 ↔ ∀ i, v.testBit i = true → n ≤ i := by
  constructor
  · intro h i hi
    by_contra hlt
    have hbit : (v % 2 ^ n).testBit i = true := by simp [Nat.testBit_mod_two_pow, hi, Nat.lt_of_not_le hlt]
    simp [h] at hbit
  · intro h
    refine Nat.eq_of_testBit_eq fun i => ?_
    rw [Nat.testBit_mod_two_pow, Nat.zero_testBit, Bool.and_eq_false_imp]
    exact fun hlt => Bool.eq_false_iff.mpr fun hi => absurd (h i hi) (Nat.not_le.mpr (of_decide_eq_true hlt))

/-- A number lies below 2ⁿ where it sets no bit from n on, and only there. -/
theorem lt_two_pow_iff_testBit (v n : Nat) : v < 2 ^ n ↔ ∀ i, v.testBit i = true → i < n := by
  constructor
  · intro h i hi
    exact (Nat.pow_lt_pow_iff_right (by decide)).mp ((Nat.ge_two_pow_of_testBit hi).trans_lt h)
  · intro h
    refine Nat.lt_pow_two_of_testBit v fun i hi => Bool.eq_false_iff.mpr fun hb => ?_
    exact absurd (h i hb) (Nat.not_lt.mpr hi)

/-- R63: a CHANNEL_SELECT value passes where all its bits lie in [55:12], and only there. -/
theorem channelSelectOk_iff (v : Nat) : channelSelectOk v = true ↔ ∀ i, v.testBit i = true → 12 ≤ i ∧ i ≤ 55 := by
  have hlow : v % 4096 = 0 ↔ ∀ i, v.testBit i = true → 12 ≤ i := mod_two_pow_eq_zero_iff v 12
  simp only [channelSelectOk, Bool.and_eq_true, beq_iff_eq, decide_eq_true_eq, hlow, lt_two_pow_iff_testBit v 56, ← forall_and,
    Nat.lt_succ_iff]

/-- A value with a bit outside [55:12] does not pass. -/
theorem channelSelectOk_eq_false {v i : Nat} (hi : v.testBit i = true) (hout : i < 12 ∨ 55 < i) : channelSelectOk v = false := by
  refine Bool.eq_false_iff.mpr fun hok => ?_
  have := (channelSelectOk_iff v).mp hok i hi
  omega

/-- The line of CHANNEL_SELECT in the dictionary. -/
def channelSelectEntry : Entry := ⟨0x2100, 1, 1, .u64, .rwc, true, 0, 0xFFFFFFFFFFFFFFFF, .none⟩

theorem lookup_channelSelect : lookup 0x2100 1 = some channelSelectEntry := by decide +kernel

/-- No feature governs CHANNEL_SELECT (Table 5.12). -/
theorem Hw.governor_channelSelect (h : Hw) (r : Req) (obj : Nat) (hi : r.idx = 0x2100) (hs : r.sub = 1) : h.governor r obj = none := by
  simp only [Hw.governor, hi, hs]
  rfl

/-- In CONFIG nothing but a denial of the sideband bars a WRITE of CHANNEL_SELECT (R422, steps 4 to 7). -/
theorem State.writeBar_channelSelect (s : State) (r : Req) (obj : Nat) (hi : r.idx = 0x2100) (hs : r.sub = 1)
    (hd : s.hw.denied r = false) (hc : s.hw.eng.state = .config) : s.writeBar r channelSelectEntry obj = .ok := by
  simp [State.writeBar, hd, Hw.governor_channelSelect s.hw r obj hi hs, channelSelectEntry, hc]

theorem Hw.store_ok (h : Hw) (idx sub obj v : Nat) : h.store idx sub obj v true = (.ok, h.setAt idx sub obj v) := rfl

theorem Hw.store_refused (h : Hw) (idx sub obj v : Nat) : h.store idx sub obj v false = (.range, h) := rfl

/-- A store changes dictionary values alone. -/
theorem Hw.store_frame (h : Hw) (idx sub obj v : Nat) (ok : Bool) :
    (h.store idx sub obj v ok).2 = { h with od := (h.store idx sub obj v ok).2.od } := by
  cases ok <;> rfl

/-- A write of CHANNEL_SELECT stores a value that passes. -/
theorem State.ownScalar_channelSelect (s : State) (obj v : Nat) :
    s.ownScalar 0x2100 1 obj v = ((s.hw.store 0x2100 1 0 v (channelSelectOk v)).1,
      { s with hw := (s.hw.store 0x2100 1 0 v (channelSelectOk v)).2 }) := rfl

theorem exec_dictWrite (p : Path) (s : State) : exec (.dictWrite p) s = .next (s.serve p fun r => r.is 1) := rfl

/-- A WRITE is of DICT_WRITE's kind. -/
theorem Req.isWrite.is_one {r : Req} {idx sub v : Nat} (h : r.isWrite idx sub v) : r.is 1 = true := by
  obtain ⟨-, hop, -⟩ := h
  simp [Req.is, hop]

/-- DICT_WRITE serves a WRITE of CHANNEL_SELECT in CONFIG: what it leaves, and its answer. -/
theorem State.channelSelect_served (s : State) (p : Path) (v : Nat) (hr : s.Ready) (hc : s.hw.eng.state = .config)
    (ha : s.AsksWrite p 0x2100 1 v) (hv : v < 2 ^ 64) :
    (s.serve p fun r => r.is 1).hw.get 0x2100 1 = ((s.begun p).hw.store 0x2100 1 0 v (channelSelectOk v)).2.get 0x2100 1 ∧
      s.Answered (s.serve p fun r => r.is 1) ((s.begun p).hw.store 0x2100 1 0 v (channelSelectOk v)).1 p := by
  have hframe := (s.begun p).hw.store_frame 0x2100 1 0 v (channelSelectOk v)
  obtain ⟨-, -, -, hfaults⟩ := hr.quiet
  have h := State.write_served s p 0x2100 1 v (fun r => r.is 1) channelSelectEntry hr ha (fun _ => Req.isWrite.is_one)
    lookup_channelSelect (by simp [channelSelectEntry]) (s.hw.serves_write _ (.inl hc))
    (fun r _ ⟨_, _, hi, hs, _⟩ hd => (s.begun p).writeBar_channelSelect r _ hi hs hd hc) (Nat.zero_le _) (Nat.le_of_lt_succ hv)
  simp only [State.ownScalar_channelSelect] at h
  obtain ⟨hserved, hanswered⟩ := h rfl (by rw [hframe]; rfl) (by rw [hframe]; exact hfaults) (by rw [hframe]; exact id)
  exact ⟨hserved.get _ _ (plainKey_odKey _ _ _ (by decide) (by decide) (by decide)), hanswered⟩

/-- Settles O51: an access's request bears the channel of R63, and DICT_WRITE either stores a value of 0x2100 or answers RANGE and leaves it. -/
theorem accessChannels : Obligations.AccessChannels := by
  unfold Obligations.AccessChannels
  refine ⟨fun h write addr beats data p tenant use => ?_, fun s p v hr hc ha hv => ?_⟩
  · rw [← Hw.channelOf_eq]
    exact h.memPost_request write addr beats data p tenant use
  · obtain ⟨hget, hanswered⟩ := s.channelSelect_served p v hr hc ha hv
    refine ⟨fun hin => ⟨_, exec_dictWrite p s, ?_⟩, fun i hi hout => ⟨_, exec_dictWrite p s, ?_⟩⟩
    · rw [(channelSelectOk_iff v).mpr hin, Hw.store_ok] at hget hanswered
      exact ⟨hanswered, hget.trans (Hw.get_set _ _ _ _)⟩
    · rw [channelSelectOk_eq_false hi hout, Hw.store_refused] at hget hanswered
      exact ⟨hanswered, hget⟩

end Sys2Proof.Machine

/-! PROOFS. R124: what check 5 and the free list of the Locus say of the free slots. -/

namespace Sys2Proof.Machine

open Sys2Proof

/-- No slot is free exactly where all three parts of the free list are used up: its head, the slots never taken, and the freed ones. -/
theorem Hw.freeSlots_eq_zero_iff (h : Hw) :
    h.freeSlots = 0 ↔ h.slotsFront = [] ∧ 1048576 ≤ h.slotsFresh ∧ h.slotsFreed = [] := by
  simp only [Hw.freeSlots, Nat.add_eq_zero_iff, List.length_eq_zero_iff, Nat.sub_eq_zero_iff_le, and_assoc]

/-- A take looks at the three parts in turn, so it fails exactly where each is used up. -/
theorem Hw.takeSlot_eq_none_iff (h : Hw) : h.takeSlot = none ↔ h.freeSlots = 0 := by
  rw [Hw.freeSlots_eq_zero_iff]
  unfold Hw.takeSlot
  cases hfront : h.slotsFront with
  | cons s r => simp
  | nil =>
    by_cases hfresh : h.slotsFresh < 1048576
    · simp [hfresh]
    · cases hfreed : h.slotsFreed with
      | cons s r => simp [hfresh]
      | nil => simp [Nat.le_of_not_lt hfresh]

/-- Below the tenant's live limit check 5 looks for a slot first, and only a lack of one gives the hold reason 1. -/
theorem Hw.capacityFails_eq_one_iff (h : Hw) (a : Asker) (c : Cls) (hlive : h.tenantLive a.tenant < h.getAt 0x3101 5 a.tenant) :
    h.capacityFails a c = some 1 ↔ if c = .lc then h.freeSlots = 0 else h.freeSlots ≤ h.get 0x3002 1 := by
  rw [Hw.capacityFails, if_neg (Nat.not_le_of_lt hlive)]
  by_cases hslot : if c = .lc then h.freeSlots = 0 else h.freeSlots ≤ h.get 0x3002 1
  · rw [if_pos hslot]
    exact iff_of_true rfl hslot
  · rw [if_neg hslot]
    refine iff_of_false ?_ hslot
    -- The rest of the check answers reason 3, reason 4 or none.
    split_ifs <;> decide

/-- Settles O52: check 5's search for a slot, and whether a take fails, both turn on the number of free slots. -/
theorem locusReserve : Obligations.LocusReserve := by
  unfold Obligations.LocusReserve
  exact fun h a c hlive => ⟨h.capacityFails_eq_one_iff a c hlive, h.takeSlot_eq_none_iff⟩

end Sys2Proof.Machine

/-! PROOFS. R243: binary32 holds every UNIT24 value as it stands, so UNIT24 takes no rounding. -/

namespace Sys2Proof.Machine

open Sys2Proof

/-! ## Binary32 values that an encoding spells -/

/-- A normal encoding by its fields: exponent field `ef`, and significand `q` with its leading one. -/
def f32Normal (ef q : Nat) : BitVec 32 := BitVec.ofNat 32 (ef * 2 ^ 23 + (q - 2 ^ 23))

section Normal

variable {ef q : Nat} (hpos : 0 < ef) (hfin : ef < 255) (hlo : 2 ^ 23 ≤ q) (hhi : q < 2 ^ 24)

include hfin hlo hhi

theorem f32Normal_toNat : (f32Normal ef q).toNat = ef * 2 ^ 23 + (q - 2 ^ 23) := by
  rw [f32Normal, BitVec.toNat_ofNat]
  omega

theorem f32Neg_normal : f32Neg (f32Normal ef q) = false := by
  rw [f32Neg, ← BitVec.msb_eq_getLsbD_last, BitVec.msb_eq_false_iff_two_mul_lt, f32Normal_toNat hfin hlo hhi]
  omega

theorem f32Exp_normal : f32Exp (f32Normal ef q) = ef := by
  rw [f32Exp, f32Normal_toNat hfin hlo hhi]
  omega

theorem f32Frac_normal : f32Frac (f32Normal ef q) = q - 2 ^ 23 := by
  rw [f32Frac, f32Normal_toNat hfin hlo hhi]
  omega

theorem f32IsFinite_normal : f32IsFinite (f32Normal ef q) = true := by
  rw [f32IsFinite, f32Exp_normal hfin hlo hhi, bne_iff_ne]
  exact Nat.ne_of_lt hfin

include hpos in
theorem f32Mag_normal : f32Mag (f32Normal ef q) = q * 2 ^ (ef - 1) := by
  rw [f32Mag, f32Exp_normal hfin hlo hhi, f32Frac_normal hfin hlo hhi, if_neg (Nat.ne_of_gt hpos), Nat.add_sub_cancel' hlo]

end Normal

/-! ## Rounding a number of 24 bits or fewer -/

/-- A whole number needs no correction of its logarithm. -/
theorem log2Ratio_one {n : Nat} (hn : n ≠ 0) : log2Ratio n 1 = n.log2 := by
  have hle : ¬ n < 2 ^ n.log2 := Nat.not_lt_of_le (Nat.log2_self_le hn)
  have hlog : Nat.log2 1 = 0 := by decide
  simp [log2Ratio, hle, hlog]

/-- Division by 1 leaves nothing to round. -/
theorem rneDiv_one (n : Nat) : rneDiv n 1 = n := by
  simp [rneDiv, Nat.mod_one]

/-- A number of 24 bits or fewer, shifted until its leading one stands at bit 23. -/
def significand (n : Nat) : Nat := n * 2 ^ (23 - n.log2)

theorem significand_bounds {n : Nat} (hn : n ≠ 0) (h24 : n < 2 ^ 24) : 2 ^ 23 ≤ significand n ∧ significand n < 2 ^ 24 := by
  have hlog : n.log2 ≤ 23 := Nat.le_of_lt_succ ((Nat.log2_lt hn).mpr h24)
  constructor
  · calc 2 ^ 23 = 2 ^ n.log2 * 2 ^ (23 - n.log2) := by rw [← Nat.pow_add, Nat.add_sub_cancel' hlog]
      _ ≤ significand n := Nat.mul_le_mul_right _ (Nat.log2_self_le hn)
  · calc significand n < 2 ^ (n.log2 + 1) * 2 ^ (23 - n.log2) := Nat.mul_lt_mul_of_pos_right Nat.lt_log2_self (Nat.two_pow_pos _)
      _ = 2 ^ 24 := by rw [← Nat.pow_add]; congr 1; omega

section Round

variable {n : Nat} {e : Int} (hn : n ≠ 0) (h24 : n < 2 ^ 24) (hlo : -126 ≤ n.log2 + e) (hhi : n.log2 + e ≤ 127)

include hn h24 hlo hhi

/-- Such a number, scaled into the normal range, is encoded as it stands: the quotient that rounding would touch is whole. -/
theorem f32Round_eq_normal : f32Round false n 1 e = f32Normal (n.log2 + e + 127).toNat (significand n) := by
  have hlog : n.log2 ≤ 23 := Nat.le_of_lt_succ ((Nat.log2_lt hn).mpr h24)
  obtain ⟨hq, hq'⟩ := significand_bounds hn h24
  have hu : max ((n.log2 : Int) + e - 23) (-149) = n.log2 + e - 23 := by omega
  have hk : e - ((n.log2 : Int) + e - 23) = (23 - n.log2 : Nat) := by omega
  have hef : (n.log2 : Int) + e - 23 + 150 = n.log2 + e + 127 := by omega
  have hfin : ¬ 255 ≤ (n.log2 + e + 127).toNat := by omega
  have hsig : n * 2 ^ (23 - n.log2) = significand n := rfl
  simp only [f32Round, log2Ratio_one hn, hu, hk, Int.toNat_natCast, rneDiv_one, Int.natCast_nonneg, ge_iff_le, if_true, if_neg hn, hsig,
    if_neg (Nat.ne_of_lt hq'), if_neg (Nat.not_lt_of_le hq), hef, if_neg hfin, f32Normal, Nat.zero_add, Bool.false_eq_true, if_false]

/-- So the rounded value is the number itself, n · 2ᵉ. -/
theorem f32Round_exact :
    f32Neg (f32Round false n 1 e) = false ∧ f32IsFinite (f32Round false n 1 e) = true ∧
      f32Mag (f32Round false n 1 e) = n * 2 ^ (e + 149).toNat := by
  have hlog : n.log2 ≤ 23 := Nat.le_of_lt_succ ((Nat.log2_lt hn).mpr h24)
  obtain ⟨hq, hq'⟩ := significand_bounds hn h24
  have hpos : 0 < (n.log2 + e + 127).toNat := by omega
  have hfin : (n.log2 + e + 127).toNat < 255 := by omega
  rw [f32Round_eq_normal hn h24 hlo hhi]
  refine ⟨f32Neg_normal hfin hq hq', f32IsFinite_normal hfin hq hq', ?_⟩
  rw [f32Mag_normal hpos hfin hq hq', significand, Nat.mul_assoc, ← Nat.pow_add]
  congr 2
  omega

end Round

/-! ## UNIT24 -/

/-- At the greatest `m`, UNIT24 is 1.0. -/
theorem f32Round_one : f32Round false (2 ^ 24) 1 (-24) = 0x3F800000 := by decide +kernel

/-- A count of 2⁻²⁴ up to 1 is a binary32 value. -/
theorem f32Round_unit {n : Nat} (hn : n ≠ 0) (hle : n ≤ 2 ^ 24) :
    f32Neg (f32Round false n 1 (-24)) = false ∧ f32IsFinite (f32Round false n 1 (-24)) = true ∧
      f32Mag (f32Round false n 1 (-24)) = n * 2 ^ 125 := by
  rcases Nat.lt_or_eq_of_le hle with h24 | rfl
  · have hlog : n.log2 ≤ 23 := Nat.le_of_lt_succ ((Nat.log2_lt hn).mpr h24)
    exact f32Round_exact hn h24 (by omega) (by omega)
  · rw [f32Round_one]
    decide

/-- Settles O54: m + 1 is a number of 24 bits, or 2²⁴ itself, and either is encoded as it stands. -/
theorem unitValues : Obligations.UnitValues := by
  unfold Obligations.UnitValues
  intro w
  have hm : (w >>> 40).toNat = w.toNat / 2 ^ 40 := by rw [BitVec.toNat_ushiftRight, Nat.shiftRight_eq_div_pow]
  have hle : w.toNat / 2 ^ 40 + 1 ≤ 2 ^ 24 := by have := w.isLt; omega
  obtain ⟨hneg, hfin, hmag⟩ := f32Round_unit (Nat.succ_ne_zero _) hle
  rw [unit24, hm]
  refine ⟨hneg, hfin, hmag, ?_, ?_⟩
  · rw [hmag]
    positivity
  · calc f32Mag _ = (w.toNat / 2 ^ 40 + 1) * 2 ^ 125 := hmag
      _ ≤ 2 ^ 24 * 2 ^ 125 := Nat.mul_le_mul_right _ hle
      _ = 2 ^ 149 := by rw [← Nat.pow_add]

end Sys2Proof.Machine

/-! PROOFS. R236: the key words of a seed, and the constant's entry. -/

namespace Sys2Proof.Machine

open Sys2Proof

theorem helixKey_zero (seed : Word64) : helixKey seed 0 = seed := rfl

theorem helixKey_one (seed : Word64) : helixKey seed 1 = seed.rotateLeft 32 := rfl

theorem helixKey_two (seed : Word64) : helixKey seed 2 = helixKey seed 0 ^^^ helixKey seed 1 ^^^ helixParity := rfl

/-- Where nothing has been stored, an entry holds its default. -/
theorem Hw.getAt_eq_default {h : Hw} {idx sub obj : Nat} (hnone : Map.find? h.od (odKey idx sub obj) = none) :
    h.getAt idx sub obj = odDefault idx sub := by
  rw [Hw.getAt, hnone]

/-- HELIX_PARITY's default is the constant of the keys. -/
theorem odDefault_helixParity : odDefault 0x7101 1 = helixParity.toNat := by decide +kernel

/-- Settles O53: the key words by their equations, and HELIX_PARITY by its default, over which a reset stores nothing. -/
theorem helixKeyWords : Obligations.HelixKey := by
  unfold Obligations.HelixKey
  refine ⟨fun seed => ⟨helixKey_zero seed, helixKey_one seed, helixKey_two seed⟩, ?_⟩
  have hunset : Map.find? State.reset.hw.od (odKey 0x7101 1 0) = none := by decide +kernel
  exact (Hw.getAt_eq_default hunset).trans odDefault_helixParity

end Sys2Proof.Machine

/-! PROOFS. What every command keeps: the queue, the canonical form of the window's buffer, the range of the Gnomon's count, and that nothing is
left over to be settled. -/

namespace Sys2Proof.Machine

open Sys2Proof

/-! ## What lies outside the core island -/

/-- The queue, the window and the Gnomon's count: what only a few commands write. -/
def State.outer (s : State) : List Instr × Window × Nat := (s.pending, s.win, s.gnm.count)

/-- What the effect of a command keeps beside the core island: the queue as it is, a canonical buffer canonical, and a count of 70 bits one. -/
structure State.Kept (s t : State) : Prop where
  pending : t.pending = s.pending
  data : Memory.wf s.win.data = true → Memory.wf t.win.data = true
  count : s.gnm.count < 2 ^ 70 → t.gnm.count < 2 ^ 70

theorem State.Kept.refl (s : State) : s.Kept s := ⟨rfl, id, id⟩

theorem State.Kept.trans {s t u : State} (h1 : s.Kept t) (h2 : t.Kept u) : s.Kept u :=
  ⟨h2.pending.trans h1.pending, h2.data ∘ h1.data, h2.count ∘ h1.count⟩

/-- A command that writes nothing outside the core island keeps all of it. -/
theorem State.Kept.of_outer {s t : State} (h : t.outer = s.outer) : s.Kept t := by
  simp only [State.outer, Prod.mk.injEq] at h
  obtain ⟨hp, hw, hc⟩ := h
  exact ⟨hp, by rw [hw]; exact id, by rw [hc]; exact id⟩

/-- What a whole command keeps: besides, a machine without leftovers has none after it. -/
structure State.Keeps (s t : State) : Prop where
  kept : s.Kept t
  quiet : s.hw.Quiet → t.hw.Quiet

theorem State.Keeps.refl (s : State) : s.Keeps s := ⟨.refl s, id⟩

/-! ## The frames of commands -/

/-- Entering a cc settles what the cc before it has left. -/
theorem State.outer_enterCc (s : State) (c : CcPart) : (s.enterCc c).outer = s.outer := by
  simp only [State.outer, State.enterCc_pending, State.enterCc_win, State.enterCc_gnm]

theorem State.keeps_onCoreAt (s : State) (c : CcPart) (u : Nat) (f : Hw → Hw) : s.Keeps (s.onCoreAt c u f) :=
  ⟨.of_outer (by simp only [State.outer, State.onCoreAt_pending, State.onCoreAt_win, State.onCoreAt_gnm]), s.onCoreAt_quiet c u f⟩

theorem State.keeps_onAllAt (s : State) (c : CcPart) (u : Nat) (f : State → State) (hf : ∀ x : State, x.Kept (f x)) :
    s.Keeps (s.onAllAt c u f) := by
  refine ⟨?_, s.onAllAt_quiet c u f⟩
  unfold State.onAllAt
  dsimp only
  split
  · obtain ⟨hp, hd, hc⟩ := State.Kept.trans (.of_outer (s.outer_enterCc c)) (t := { s.enterCc c with hw := (s.enterCc c).hw.begin u }) (hf _)
    exact ⟨hp, hd, hc⟩
  · exact .refl s

theorem State.keeps_onHostAt (s : State) (c : CcPart) (f : State → State) (hf : ∀ x : State, x.Kept (f x)) : s.Keeps (s.onHostAt c f) := by
  refine s.keeps_onAllAt c 0 _ fun x => ?_
  split
  · exact hf x
  · exact .refl x

theorem State.keeps_goOn (s : State) (u : Nat) (f : State → State) (hf : ∀ x : State, x.Kept (f x)) : s.Keeps (s.goOn u f) := by
  obtain ⟨hp, hd, hc⟩ := hf { s with hw := s.hw.begin u }
  exact ⟨⟨hp, hd, hc⟩, fun _ => Hw.settle_quiet _ _⟩

/-! ## The retention store, RETAIN and power failure -/

/-- The core island lies inside. -/
theorem State.outer_withHw (s : State) (h : Hw) : ({ s with hw := h } : State).outer = s.outer := rfl

/-- Of the Gnomon island, the count alone lies outside. -/
theorem State.outer_withGnm (s : State) {g : Gnomon} (h : g.count = s.gnm.count) : ({ s with gnm := g } : State).outer = s.outer := by
  simp only [State.outer, h]

theorem State.outer_writeImage (s : State) : s.writeImage.outer = s.outer := by
  unfold State.writeImage
  dsimp only
  split <;> rfl

theorem State.outer_capImage (s : State) : s.capImage.outer = s.outer := by
  unfold State.capImage
  split
  · exact s.outer_writeImage
  · rfl

theorem State.outer_writeRecords (s : State) : s.writeRecords.outer = s.outer := rfl

theorem State.outer_writeCounts (s : State) : s.writeCounts.outer = s.outer := rfl

theorem State.outer_storeImage (s : State) (n : Nat) : (s.storeImage n).outer = s.outer := rfl

theorem State.outer_writeAll (s : State) : s.writeImage.writeRecords.writeCounts.outer = s.outer := by
  rw [State.outer_writeCounts, State.outer_writeRecords, State.outer_writeImage]

theorem State.outer_beginRetain (s : State) : s.beginRetain.outer = s.outer := by
  unfold State.beginRetain
  split
  · exact s.outer_writeAll
  · rfl

theorem State.outer_drainComplete (s : State) : s.drainComplete.outer = s.outer := by
  unfold State.drainComplete
  split
  · dsimp only
    rw [State.outer_beginRetain]
    exact (State.outer_withHw _ _).trans s.outer_writeAll
  · rfl

theorem State.outer_enterRetain (s : State) : s.enterRetain.outer = s.outer := rfl

theorem State.outer_flushAcked (s : State) : s.flushAcked.outer = s.outer := by
  unfold State.flushAcked
  dsimp only
  split
  · rfl
  · split
    · rw [State.outer_enterRetain]
      split <;> rfl
    · split <;> rfl

theorem State.outer_pfRest (s : State) : s.pfRest.outer = s.outer := by
  unfold State.pfRest
  dsimp only
  rw [State.outer_withHw, State.outer_writeCounts]
  split
  · exact State.outer_withHw _ _
  · rw [State.outer_writeRecords, State.outer_writeImage, State.outer_withHw]

theorem Gnomon.count_set (g : Gnomon) (idx sub v : Nat) : (g.set idx sub v).count = g.count := rfl

theorem State.outer_pDefaults (s : State) : s.pDefaults.outer = s.outer := by
  unfold State.pDefaults
  dsimp only
  rw [State.outer_writeCounts, State.outer_storeImage]
  simp only [State.outer, List.foldl_cons, List.foldl_nil, Gnomon.count_set]

/-! ## Requests of the dictionary -/

theorem State.outer_writeDefaults (s : State) (v : Nat) : (s.writeDefaults v).2.outer = s.outer := by
  unfold State.writeDefaults
  by_cases hc : s.hw.eng.state ≠ .config
  · rw [if_pos hc]
  · rw [if_neg hc]
    dsimp only
    rw [apply_ite State.outer, State.outer_pDefaults, ite_self]

theorem State.outer_ownScalar (s : State) (idx sub obj v : Nat) : (s.ownScalar idx sub obj v).2.outer = s.outer := by
  unfold State.ownScalar
  cases gnomonMask idx with
  | some n => rfl
  | none =>
    by_cases hd : idx = 0x1200
    · simp only [if_pos hd, State.outer_writeDefaults]
    · simp only [if_neg hd, State.outer_withHw]

theorem State.outer_takeValue (s : State) (r : Req) (obj : Nat) (x : Snap) : (s.takeValue r obj x).2.outer = s.outer := by
  unfold State.takeValue
  split <;> rfl

theorem State.outer_writeEntry (s : State) (r : Req) (e : Entry) (obj : Nat) : (s.writeEntry r e obj).2.outer = s.outer := by
  unfold State.writeEntry State.writeDomain State.writeScalar
  dsimp only
  split
  · split
    · rfl
    · split
      · exact s.outer_takeValue ..
      · split
        · rfl
        · split
          · exact s.outer_takeValue ..
          · rfl
  · split
    · rfl
    · split
      · rfl
      · exact s.outer_ownScalar ..

theorem State.outer_clearRead (s : State) (e : Entry) (sub obj : Nat) : (s.clearRead e sub obj).outer = s.outer := by
  unfold State.clearRead
  split_ifs <;> rfl

theorem State.outer_readEntry (s : State) (r : Req) (e : Entry) (obj : Nat) : (s.readEntry r e obj).2.outer = s.outer := by
  unfold State.readEntry State.readDomain
  dsimp only
  split
  · split
    · rfl
    · split
      · split <;> rfl
      · split
        · split <;> rfl
        · rfl
  · split
    · rfl
    · dsimp only
      split
      · rfl
      · exact s.outer_clearRead ..

/-- A WRITE of a DOMAIN entry may end what is staged, in the core island. -/
theorem State.outer_opened (s : State) (r : Req) :
    (if (s.find r).2.type = .domain then
      { s with hw := s.hw.endStaged r.path (domKey r.idx r.sub (s.hw.objOf r.path (s.find r).2.sel)) (r.offset % 2 ^ 31) } else s).outer =
        s.outer := by
  rw [apply_ite State.outer, State.outer_withHw, ite_self]

/-- Unless it is barred, a WRITE is carried out; neither writes outside. -/
theorem State.outer_writeUnless (s : State) (r : Req) (e : Entry) (obj : Nat) {o : List Instr × Window × Nat} (h : s.outer = o) (bar : Status) :
    (if bar ≠ .ok then ((.of bar, s) : Reply × State) else (.of (s.writeEntry r e obj).1, (s.writeEntry r e obj).2)).2.outer = o := by
  split
  · exact h
  · exact (s.outer_writeEntry r e obj).trans h

theorem State.outer_carryOut (s : State) (r : Req) : (s.carryOut r).2.outer = s.outer := by
  unfold State.carryOut
  dsimp only
  split
  · rfl
  · split
    · exact s.outer_readEntry ..
    · exact State.outer_writeUnless _ r _ _ (s.outer_opened r) _
    · rfl

theorem State.kept_answerWindow (s : State) (a : Reply) : s.Kept (s.answerWindow a) := ⟨rfl, wf_place _ _, id⟩

/-- A window that is not busy submits the request in its registers. -/
theorem State.kept_submitted (s : State) : s.Kept (if s.win.busy then s else s.submit) := by
  split
  · exact .refl s
  · exact ⟨rfl, id, id⟩

/-- The window's request is carried out and answered where it is the first. -/
theorem State.kept_windowAnswer (s : State) (r : Req) :
    s.Kept (if s.windowFirst then (s.carryOut r).2.answerWindow (s.carryOut r).1 else s) := by
  split
  · exact (State.Kept.of_outer (s.outer_carryOut r)).trans (State.kept_answerWindow _ _)
  · exact .refl s

theorem State.kept_serveOne (s : State) (p : Path) (mine : Req → Bool) : s.Kept (s.serveOne p mine) := by
  unfold State.serveOne
  cases p with
  | window =>
    dsimp only
    split
    · exact .refl s
    · exact s.kept_submitted.trans (State.kept_windowAnswer _ _)
  | ddp =>
    dsimp only
    split
    · exact .refl s
    · split
      · exact .of_outer (s.outer_carryOut _)
      · exact .refl s

theorem State.keeps_serve (s : State) (p : Path) (mine : Req → Bool) : s.Keeps (s.serve p mine) := by
  refine s.keeps_onAllAt _ 0 _ fun x => ?_
  obtain ⟨hp, hd, hc⟩ := (x.kept_serveOne p mine).trans
    (.of_outer (State.outer_capImage { x.serveOne p mine with hw := x.hw.openRings (x.serveOne p mine).hw }))
  exact ⟨hp, hd, hc⟩

/-! ## The target port -/

theorem State.outer_portRead (s : State) (a : Nat) (strb : BitVec 8) (priv : Bool) (tag : BitVec 8) :
    (s.portRead a strb priv tag).outer = s.outer := by
  unfold State.portRead
  split
  · exact s.outer_withHw _
  · split <;> exact s.outer_withHw _

/-- A window with the same buffer is as canonical. -/
theorem State.kept_withWin (s : State) (w : Window) (h : w.data = s.win.data) : s.Kept { s with win := w } :=
  ⟨rfl, fun hd => by rw [h]; exact hd, id⟩

theorem Window.data_writeCtrl (w : Window) (v : Nat) : (w.writeCtrl v).data = w.data := rfl

theorem Window.data_withLength (w : Window) (n : BitVec 16) : ({ w with length := n } : Window).data = w.data := rfl

theorem State.kept_windowWrite (s : State) (off : Nat) (strb : BitVec 8) (data : Word64) : s.Kept (s.windowWrite off strb data) := by
  unfold State.windowWrite
  dsimp only
  by_cases hs : (!strobeOk strb) = true
  · rw [if_pos hs]
    exact .of_outer (s.outer_withHw _)
  rw [if_neg hs]
  by_cases hb : s.win.busy = true ∧ busyDrops off = true
  · rw [if_pos hb]
    exact .of_outer (s.outer_withHw _)
  rw [if_neg hb]
  by_cases hd : 0x8000 ≤ off
  · rw [if_pos hd]
    exact ⟨rfl, wf_writeData _ _ _ _, id⟩
  rw [if_neg hd]
  split
  · exact s.kept_withWin _ (s.win.data_writeCtrl _)
  · exact s.kept_withWin _ (s.win.data_withLength _)
  · split
    · exact s.kept_withWin _ rfl
    · exact .refl s
  · split
    · exact s.kept_withWin _ rfl
    · exact .refl s
  · exact .refl s

/-! ## Wall time -/

theorem State.outer_wakeCompare (s : State) (n : Nat) : (s.wakeCompare n).outer = s.outer := by
  unfold State.wakeCompare
  split <;> rfl

theorem State.hw_wakeCompare (s : State) (n : Nat) : (s.wakeCompare n).hw = s.hw := by
  unfold State.wakeCompare
  split <;> rfl

theorem Gnomon.count_freeRun (g : Gnomon) : g.freeRun.count = g.count := by
  unfold Gnomon.freeRun
  split <;> rfl

/-- A tick leaves a count of 70 bits, whatever it was. -/
theorem Gnomon.count_tick_lt (g : Gnomon) (counts : Bool) : (g.tick counts).count < 2 ^ 70 := by
  unfold Gnomon.tick
  dsimp only
  split
  · exact (Gnomon.count_freeRun _).trans_lt (Nat.mod_lt _ (by decide))
  · exact (Gnomon.count_freeRun _).trans_lt (Nat.mod_lt _ (by decide))

theorem State.keeps_gnomonTick (s : State) : s.Keeps s.gnomonTick := by
  have hout : s.gnomonTick.outer = ({ s with gnm := s.gnm.tick s.hoursRun } : State).outer :=
    foldl_keeps State.outer _ State.outer_wakeCompare _ _
  have hhw : s.gnomonTick.hw = s.hw := foldl_keeps State.hw _ State.hw_wakeCompare _ _
  obtain ⟨hp, hd, hc⟩ := State.Kept.of_outer hout
  exact ⟨⟨hp, hd, fun _ => hc (Gnomon.count_tick_lt _ _)⟩, by rw [hhw]; exact id⟩

theorem Gnomon.count_take_lt (g : Gnomon) (ns : Nat) (c : Import) (h : g.count < 2 ^ 70) : (g.take ns c).count < 2 ^ 70 := by
  cases c with
  | slew => exact h
  | behind => exact h
  | forward => exact Nat.mod_lt _ (by decide)
  | first => exact Nat.mod_lt _ (by decide)

/-! ## Starts -/

/-- A step of a start keeps what both its ways keep. -/
theorem StartRun.outer_step {std : StartRun → Option StartRun} {alt : StartRun → StartRun}
    (hstd : ∀ y z, std y = some z → z.s.outer = y.s.outer) (halt : ∀ y, (alt y).s.outer = y.s.outer) (x : StartRun) (r : StartReport)
    (k outS outA detail : Nat) : (x.step r k outS outA detail std alt).s.outer = x.s.outer := by
  have htry : (if r.alternateFails.contains k then { x.note 6 1 0 with failed := k } else (alt x).note outA 1 detail).s.outer = x.s.outer := by
    split
    · rfl
    · exact halt x
  unfold StartRun.step
  dsimp only
  split
  · rfl
  · split
    · exact htry
    · split
      · next y hy =>
        split at hy
        · cases hy
        · exact hstd x y hy
      · split
        · rfl
        · exact htry

/-- A standard way that always succeeds keeps what its run keeps. -/
theorem StartRun.outer_some {f : StartRun → StartRun} (hf : ∀ y, (f y).s.outer = y.s.outer) (y z : StartRun) (h : some (f y) = some z) :
    z.s.outer = y.s.outer := by
  cases h
  exact hf y

/-- A standard way that succeeds under a condition. -/
theorem StartRun.outer_ite {c : Prop} [Decidable c] {a : StartRun} (y z : StartRun)
    (h : (if c then some a else none) = some z) (ha : a.s.outer = y.s.outer) : z.s.outer = y.s.outer := by
  split at h
  · cases h
    exact ha
  · cases h

theorem StartRun.outer_modHw (x : StartRun) (f : Hw → Hw) : (x.modHw f).s.outer = x.s.outer := rfl

theorem Gnomon.count_restoreImage (g : Gnomon) (img : PImage) : (g.restoreImage img).count = g.count := by
  refine foldl_keeps Gnomon.count _ (fun a e => ?_) _ _
  cases Map.find? a.od e.1 <;> rfl

theorem State.outer_restoreImage (s : State) (img : PImage) : (s.restoreImage img).outer = s.outer := by
  simp only [State.outer, State.restoreImage, Gnomon.count_restoreImage]

theorem State.outer_eventRecover (s : State) (anew : Bool) : (s.eventRecover anew).outer = s.outer := s.outer_withHw _

theorem State.outer_imageDefaults (s : State) (rejected : Bool) : (s.imageDefaults rejected).outer = s.outer := rfl

theorem State.outer_resumeRecord (s : State) (m : KeptRecord) : (s.resumeRecord m).outer = s.outer := s.outer_withHw _

theorem State.outer_resumeImage (s : State) (restored : Bool) : (s.resumeImage restored).outer = s.outer := s.outer_withHw _

theorem State.outer_applyMasks (s : State) (r : StartReport) (useRecord : Bool) : (s.applyMasks r useRecord).outer = s.outer := s.outer_withHw _

theorem State.outer_saveCounters (s : State) : s.saveCounters.outer = s.outer := rfl

theorem StartRun.outer_first (x : StartRun) (r : StartReport) : (x.first r).s.outer = x.s.outer := by
  have hid : ∀ y : StartRun, (id y).s.outer = y.s.outer := fun _ => rfl
  unfold StartRun.first
  dsimp only
  refine (StartRun.outer_step ?_ ?_ ..).trans ((StartRun.outer_step ?_ ?_ ..).trans ((StartRun.outer_step ?_ ?_ ..).trans
    ((StartRun.outer_step ?_ ?_ ..).trans (StartRun.outer_step ?_ ?_ ..))))
  · exact StartRun.outer_some fun y => y.s.outer_eventRecover _
  · exact fun y => y.s.outer_eventRecover _
  · exact StartRun.outer_some hid
  · exact fun _ => rfl
  · exact StartRun.outer_some fun y => y.outer_modHw _
  · exact fun y => y.outer_modHw _
  · exact StartRun.outer_some hid
  · exact hid
  · exact StartRun.outer_some hid
  · exact hid

/-- What follows step 6 writes the watchdog's limit and a count. -/
theorem StartRun.outer_afterSix (y : StartRun) (n : Nat) (h : Hw) :
    (if y.failed ≠ 0 then y else { y with s := { y.s with gnm := { y.s.gnm with watchdogMs := n }, hw := h } }).s.outer = y.s.outer := by
  split <;> rfl

/-- What follows step 7 counts the start and writes the counter record. -/
theorem StartRun.outer_afterSeven (y : StartRun) (f : Hw → Hw) :
    (if y.failed ≠ 0 then y else { y.modHw f with s := (y.modHw f).s.saveCounters }).s.outer = y.s.outer := by
  split <;> rfl

theorem StartRun.outer_second (x : StartRun) (r : StartReport) : (x.second r).s.outer = x.s.outer := by
  unfold StartRun.second
  dsimp only
  refine (StartRun.outer_step ?_ ?_ ..).trans ((StartRun.outer_step ?_ ?_ ..).trans ((StartRun.outer_afterSeven _ _).trans
    ((StartRun.outer_step ?_ ?_ ..).trans ((StartRun.outer_afterSix _ _ _).trans (StartRun.outer_step ?_ ?_ ..)))))
  · exact StartRun.outer_some fun y => y.s.outer_applyMasks _ _
  · exact fun _ => rfl
  · exact fun y z hy => StartRun.outer_ite y z hy rfl
  · exact fun y => y.s.outer_withGnm rfl
  · intro y z hy
    split at hy
    · exact StartRun.outer_ite y z hy (State.outer_resumeRecord _ _)
    · cases hy
  · exact fun y => y.s.outer_resumeImage _
  · intro y z hy
    split at hy
    · exact StartRun.outer_ite y z hy (State.outer_restoreImage _ _)
    · cases hy
  · exact fun y => y.s.outer_imageDefaults _

theorem StartRun.outer_third (x : StartRun) (r : StartReport) : (x.third r).s.outer = x.s.outer := by
  have hid : ∀ y : StartRun, (id y).s.outer = y.s.outer := fun _ => rfl
  unfold StartRun.third
  dsimp only
  refine (StartRun.outer_step ?_ ?_ ..).trans ((StartRun.outer_step ?_ ?_ ..).trans ((StartRun.outer_step ?_ ?_ ..).trans
    ((StartRun.outer_step ?_ ?_ ..).trans ((StartRun.outer_step ?_ ?_ ..).trans (StartRun.outer_step ?_ ?_ ..)))))
  · exact StartRun.outer_some fun y => y.outer_modHw _
  · exact hid
  · intro y z hy
    split at hy
    · cases hy
      rfl
    · exact StartRun.outer_ite y z hy (y.outer_modHw _)
  · exact hid
  · exact StartRun.outer_some fun y => y.outer_modHw _
  · exact fun y => y.outer_modHw _
  · exact StartRun.outer_some fun y => y.outer_modHw _
  · exact fun y => y.outer_modHw _
  · intro y z hy
    split at hy
    · cases hy
    · exact StartRun.outer_some (fun y => y.outer_modHw _) y z hy
  · exact fun y => y.outer_modHw _
  · exact StartRun.outer_some fun y => y.outer_modHw _
  · exact fun _ => rfl

/-- The end of a start writes the Gnomon's ledgers and the core island. -/
theorem StartRun.outer_last (x : StartRun) (r : StartReport) (stamp cause : Nat) : (x.last r stamp cause).outer = x.s.outer := by
  unfold StartRun.last
  refine Eq.trans ?_ (StartRun.outer_step (std := some) (alt := fun y => y.modHw fun h => h.event 0 (377 * 16) 3 none none)
    (StartRun.outer_some fun _ => rfl) (fun y => y.outer_modHw _) x r 16 2 4 0)
  dsimp only
  split
  · rfl
  · split <;> rfl

theorem State.outer_start (s : State) (r : StartReport) (cause : Nat) : (s.start r cause).outer = s.outer := by
  unfold State.start
  dsimp only
  rw [StartRun.outer_last, StartRun.outer_third, StartRun.outer_second, StartRun.outer_first]
  rfl

theorem State.keeps_rstRelease (s : State) (r : StartReport) : s.Keeps (s.rstRelease r) := by
  unfold State.rstRelease
  split
  · exact ⟨⟨rfl, id, id⟩, id⟩
  · dsimp only
    split
    · obtain ⟨⟨hp, hd, hc⟩, hq⟩ := State.keeps_onAllAt _ .alone 0 _ fun x => .of_outer (x.outer_start r _)
      exact ⟨⟨hp, hd, hc⟩, hq⟩
    · exact .refl s

/-- A reset of the core island empties the window's buffer and leaves nothing to be settled. -/
theorem State.keeps_resetCore (s : State) (st : EngState) (low : Bool) (g : Gnomon) (hg : s.gnm.count < 2 ^ 70 → g.count < 2 ^ 70) :
    s.Keeps { s.resetCore st low with gnm := g } :=
  ⟨⟨rfl, fun _ => wf_reset, hg⟩, fun _ => ⟨rfl, rfl, rfl, rfl⟩⟩

theorem State.keeps_watchdogExpiry (s : State) : s.Keeps s.watchdogExpiry := by
  unfold State.watchdogExpiry
  split
  · exact .refl s
  · split
    · exact s.keeps_onAllAt .alone 0 _ fun x => ⟨rfl, id, id⟩
    · exact s.keeps_resetCore _ _ _ id

theorem State.keeps_aonRstAssert (s : State) : ∃ t, exec .aonRstAssert s = .next t ∧ s.Keeps t := by
  refine ⟨_, rfl, ?_⟩
  split
  · exact ⟨⟨rfl, id, id⟩, id⟩
  · exact s.keeps_resetCore _ _ _ id
  · exact s.keeps_resetCore _ _ _ id

end Sys2Proof.Machine

/-! PROOFS. Every command keeps the queue, the canonical buffer and the count's range; the statements of the step itself. -/

namespace Sys2Proof.Machine

open Sys2Proof

/-! ## Every command -/

/-- A command that writes the Gnomon island's values alone. -/
theorem State.keeps_withGnm (s : State) (g : Gnomon) (h : s.gnm.count < 2 ^ 70 → g.count < 2 ^ 70) : s.Keeps { s with gnm := g } :=
  ⟨⟨rfl, id, h⟩, id⟩

/-- A wake source that acts under a condition. -/
theorem State.keeps_ite_wakeBy (s : State) (c : Prop) [Decidable c] (bit : Nat) : s.Keeps (if c then s.wakeBy bit else s) := by
  split
  · exact s.keeps_withGnm _ id
  · exact .refl s

theorem State.keeps_gnomonTickCommand (s : State) : ∃ t, exec .gnomonTick s = .next t ∧ s.Keeps t := by
  show ∃ t, execGnomonTick s = .next t ∧ s.Keeps t
  unfold execGnomonTick
  split
  · obtain ⟨h1, hq1⟩ := s.keeps_gnomonTick
    obtain ⟨h2, hq2⟩ := s.gnomonTick.keeps_onCoreAt .gnomon 0x0E fun h => h.seeTick s.gnomonTick.gnm
    exact ⟨_, rfl, h1.trans h2, hq2 ∘ hq1⟩
  · exact ⟨_, rfl, .refl s⟩

theorem State.keeps_timeImport (s : State) (ns : Nat) : ∃ t, exec (.timeImport ns) s = .next t ∧ s.Keeps t := by
  show ∃ t, execTimeImport ns s = .next t ∧ s.Keeps t
  unfold execTimeImport
  split
  · obtain ⟨h1, hq1⟩ := s.keeps_withGnm _ (s.gnm.count_take_lt ns (s.gnm.importCase ns (s.gnm.get 0xD100 5)))
    exact ⟨_, rfl, h1.trans (State.keeps_onCoreAt _ _ _ _).kept, fun hq => (State.keeps_onCoreAt _ _ _ _).quiet (hq1 hq)⟩
  · exact ⟨_, rfl, .refl s⟩

theorem State.keeps_importTimeout (s : State) : ∃ t, exec .importTimeout s = .next t ∧ s.Keeps t := by
  show ∃ t, execImportTimeout s = .next t ∧ s.Keeps t
  unfold execImportTimeout
  split
  · exact ⟨_, rfl, s.keeps_withGnm _ (by rw [Gnomon.count_freeRun]; exact id)⟩
  · exact ⟨_, rfl, .refl s⟩

theorem State.keeps_operatingHour (s : State) : ∃ t, exec .operatingHour s = .next t ∧ s.Keeps t := by
  show ∃ t, execOperatingHour s = .next t ∧ s.Keeps t
  unfold execOperatingHour
  split
  · exact ⟨_, rfl, s.keeps_withGnm _ id⟩
  · exact ⟨_, rfl, .refl s⟩

theorem State.outer_pfWarn (s : State) : s.pfWarn.outer = s.outer := rfl

theorem State.keeps_powerFailWarning (s : State) : ∃ t, exec .powerFailWarning s = .next t ∧ s.Keeps t := by
  show ∃ t, execPowerFailWarning s = .next t ∧ s.Keeps t
  refine ⟨_, rfl, ?_⟩
  split
  · split
    · exact s.keeps_withGnm _ id
    · exact .refl s
  · split
    · exact .refl s
    · obtain ⟨h1, hq1⟩ := s.keeps_onAllAt .alone 0x0E State.pfWarn fun x => .of_outer x.outer_pfWarn
      obtain ⟨h2, hq2⟩ := (s.onAll 0x0E State.pfWarn).keeps_goOn 0x0D State.pfRest fun x => .of_outer x.outer_pfRest
      exact ⟨h1.trans h2, hq2 ∘ hq1⟩

theorem State.keeps_aonPorRelease (s : State) (b : Bool) : ∃ t, exec (.aonPorRelease b) s = .next t ∧ s.Keeps t := by
  refine ⟨_, rfl, ?_⟩
  split
  · exact .refl s
  · exact ⟨⟨rfl, id, fun _ => Nat.two_pow_pos 70⟩, id⟩

theorem State.keeps_onCoreF (s : State) (u : Nat) (f : Hw → Hw) : s.Keeps (s.onCoreF u f) := s.keeps_onCoreAt .alone u fun h => (f h).runFaults

/-- Every command leads to a next machine, which keeps what commands keep. -/
theorem exec_keeps (c : Instr) (s : State) : ∃ t, exec c s = .next t ∧ s.Keeps t := by
  cases c with
  | accountingPeriodBoundary | backgroundSlot _ | bgShutdownComplete _ | phaseReport _ _ | stepBegin _ _ | mCompose _ | mPrefetch _
  | mDraft _ | mCapture _ | mCommit _ | phaseStall _ | wallTick | deadlineMiss _ | delayRelease _ | delayInsert _ _ _ _
  | delayCancel _ _ _ | drainLimitExpiry | newEntry _ _ _ | heldRingReevaluate _ _ _ | cancelEntry _ _ | deferredStart _
  | budgetPeriodBoundary | hotFill _ | forwardMessage _ _ | liveMessage _ | replyMessage _ | migrateTimeout _ | queuePublication _
  | pageReclaim _ | pageEvict _ | pageRecall _ | victimProposal _ _ | memReadResponse _ _ _ _ | memWriteResponse _ _ _
  | memWatchdogExpiry _ _ _ | memLateResponse _ _ _ | committedWriteReissue _ _ | commandDispatch | creditReturn _ _ | reportBeat _ _
  | completionRecord _ _ | cmdWatchdogExpiry _ | drainAck _ | drainAckFall _ | drainEnd _ | drainTimeout _ | contextTimeout _
  | planComplete _ | tileTransfer _ _ _ _ | replayTimeout _ _ | generationSliceEnd _ | jobGraphLoaded _ _ _ _ _ | iterationLoad _ _
  | gateReady _ _ | teardownComplete _ _ | updatePartWrite _ _ | learnerDecision _ _ | semaphoreDonation _ | donationOverrun _
  | firmwareBlockRequest _ _ _ _ | policyProposal _ _ _ _ | shapeProposal _ _ _ _ | lockstepDivergence _ | lockstepResyncComplete _
  | slotHandover _ | stalenessExpiry _ | fedPoll _ _ | fedVote _ _ | fedDecide _ _ | fedVoteTimeout _ | fwLoadComplete _
  | eventRecordAccept | rateWindowBoundary | pointCapChange _ | pointAck _ | pointAckFall | pointAckTimeout | facetGate _ | facetUp _
  | facetUpTimeout _ | facetUpFall _ | supplyHealthy | entdaa _ | rstdaa | enec _ | disec _ | getpid | getbcr | getdcr | getstatus
  | getmrl | getmwl | setmrl _ | setmwl _ | rstact _ | mctpPacket _ | i3cPrivateRead | snapshotExpiry _ | stagedWriteExpiry _ =>
    exact ⟨_, rfl, s.keeps_onCoreAt _ _ _⟩
  | phaseStallRecovery _ | descriptorZeroCounter _ | funnelRead | contextDone _ | binBuildComplete _ _ _ | replayNak _ | tokenReturn _
  | sampleResult _ _ _ | secantWalk _ _ | helixSelfCheck _ _ _ | sramEccError _ | residueMismatch _ | controlCopyMismatch _ _ _ =>
    exact ⟨_, rfl, s.keeps_onCoreF _ _⟩
  | dictRead _ | dictWrite _ | dictInfo _ | pDefaults _ | requestConfig _ | requestOperational _ | requestQuiesced _
  | featureAcceptWrite _ | ringEnable _ | ringDisable _ | queueEnable _ | queueDisable _ | cancelHandle _ | migrateHandle _ | poolEnable _
  | poolDisable _ | poolNoticeRead _ | facetRequestUnassigned _ | facetRequestStandby _ | facetRequestActive _ | facetRequestDraining _
  | facetPartsWrite _ | facetModeWrite _ | markWrite _ | pinnedEnableWrite _ | facetResume _ | jobStart _ | jobTeardown _ | urgentStart _
  | urgentTeardown _ | watermarkNoticeRead _ | partWaitMaxRead _ | helixProbeRead _ | hullMaxRead _ | wakeCauseRead _ | maskSlotLoad _
  | shapeTableWrite _ | modelRegister _ | modelActivate _ | versionLoad _ | versionPublish _ | versionAbort _ | learnReset _
  | fedResolve _ | bgEnable _ | bgDisable _ | fwLoad _ | countsClear _ | binFilterWrite _ | triggerFire _ | traceUnfreeze _ =>
    exact ⟨_, rfl, s.keeps_serve _ _⟩
  | submissionDoorbell _ _ _ => exact ⟨_, rfl, s.keeps_onHostAt _ _ fun x => .of_outer (x.outer_withHw _)⟩
  | deliveryDoorbell _ _ _ => exact ⟨_, rfl, s.keeps_onHostAt _ _ fun x => .of_outer (x.outer_withHw _)⟩
  | noticeRead _ _ _ => exact ⟨_, rfl, s.keeps_onHostAt _ _ fun x => .of_outer (x.outer_portRead _ _ _ _)⟩
  | windowRegisterWrite _ _ _ => exact ⟨_, rfl, s.keeps_onHostAt _ _ fun x => x.kept_windowWrite _ _ _⟩
  | rspDoneClear => exact ⟨_, rfl, s.keeps_onHostAt _ _ fun x => x.kept_windowWrite _ _ _⟩
  | disallowedTargetAccess write addr strb priv tag =>
    cases write with
    | true => exact ⟨_, rfl, s.keeps_onHostAt _ _ fun x => .of_outer (x.outer_withHw _)⟩
    | false => exact ⟨_, rfl, s.keeps_onHostAt _ _ fun x => .of_outer (x.outer_portRead _ _ _ _)⟩
  | pImageWrite => exact ⟨_, rfl, s.keeps_onAllAt _ _ _ fun x => .of_outer x.outer_writeImage⟩
  | retentionRecordWrite => exact ⟨_, rfl, s.keeps_onAllAt _ _ _ fun x => .of_outer x.outer_writeRecords⟩
  | highWaterSave => exact ⟨_, rfl, s.keeps_onAllAt _ _ _ fun x => .of_outer x.outer_saveCounters⟩
  | engineDrainComplete => exact ⟨_, rfl, s.keeps_onAllAt _ _ _ fun x => .of_outer x.outer_drainComplete⟩
  | retainRequest => exact ⟨_, rfl, s.keeps_onAllAt _ _ _ fun x => .of_outer ((State.outer_beginRetain _).trans (x.outer_withHw _))⟩
  | retainRequestWithdrawn => exact ⟨_, rfl, s.keeps_onAllAt _ _ _ fun x => .of_outer (x.outer_withHw _)⟩
  | rsFlushAck => exact ⟨_, rfl, s.keeps_onAllAt _ _ _ fun x => .of_outer x.outer_flushAcked⟩
  | wakeComparator n => exact ⟨_, rfl, .of_outer (s.outer_wakeCompare n), by rw [s.hw_wakeCompare]; exact id⟩
  | subWake n => exact ⟨_, rfl, s.keeps_ite_wakeBy _ 8⟩
  | wakeRequest => exact ⟨_, rfl, s.keeps_ite_wakeBy _ 9⟩
  | gnomonTick => exact s.keeps_gnomonTickCommand
  | timeImport ns => exact s.keeps_timeImport ns
  | importTimeout => exact s.keeps_importTimeout
  | operatingHour => exact s.keeps_operatingHour
  | powerFailWarning => exact s.keeps_powerFailWarning
  | aonRstAssert => exact s.keeps_aonRstAssert
  | aonPorAssert => exact ⟨_, rfl, s.keeps_resetCore _ _ _ fun _ => Nat.two_pow_pos 70⟩
  | powerLoss => exact ⟨_, rfl, s.keeps_resetCore _ _ _ fun _ => Nat.two_pow_pos 70⟩
  | aonPorRelease b => exact s.keeps_aonPorRelease b
  | tstTrst => exact ⟨_, rfl, s.keeps_withGnm _ id⟩
  | aonRstRelease r => exact ⟨_, rfl, s.keeps_rstRelease r⟩
  | startWatchdogExpiry => exact ⟨_, rfl, s.keeps_watchdogExpiry⟩
  | tapInstruction op => exact ⟨_, rfl, ⟨rfl, id, id⟩, id⟩

theorem State.keeps_tick (s : State) : s.Kept s.tick := by
  unfold State.tick
  split
  · exact .of_outer (s.outer_withHw _)
  · exact .refl s

/-- A step takes the command at the front of the queue, and keeps what commands keep of the machine with the queue's rest. -/
theorem step_kept (s : State) : ∃ t, step s = .next t ∧ State.Kept { s with pending := s.pending.drop 1 } t := by
  unfold step
  cases hp : s.pending with
  | nil =>
    obtain ⟨hq, hd, hc⟩ := s.keeps_tick
    exact ⟨s.tick, rfl, hq.trans hp, hd, hc⟩
  | cons c rest =>
    obtain ⟨t, he, ht, -⟩ := exec_keeps c { s with pending := rest }
    exact ⟨t, he, ht⟩

/-- Settles O56: both are the equations of `step`. -/
theorem stepRunsCommand : Obligations.StepRunsCommand := by
  unfold Obligations.StepRunsCommand
  intro s
  unfold step
  exact ⟨fun c rest h => by rw [h], fun h => by rw [h]⟩

/-- Settles O57: no command's effect reaches the queue. -/
theorem queueOrder : Obligations.QueueOrder := by
  unfold Obligations.QueueOrder
  refine ⟨fun c s => ?_, fun s => ?_⟩
  · obtain ⟨t, he, ht, -⟩ := exec_keeps c s
    exact ⟨t, he, ht.pending⟩
  · obtain ⟨t, he, ht⟩ := step_kept s
    exact ⟨t, he, ht.pending⟩

/-- Settles O59: every command keeps the buffer canonical and the count in its range. -/
theorem stepInvariant : Obligations.StepInvariant := by
  unfold Obligations.StepInvariant
  intro s t hd hc hs
  obtain ⟨t', he, ht⟩ := step_kept s
  rw [hs] at he
  injection he with he
  subst he
  exact ⟨ht.data hd, ht.count hc⟩

end Sys2Proof.Machine

/-! PROOFS. What a cc without a command may leave to be settled, and the machine after reset. -/

namespace Sys2Proof.Machine

open Sys2Proof

/-! ## A cc's re-projection raises an event that nothing settles -/

/-- A DL sequence of facet 0, before its first token, whose deadline lies 100 µs from the start and which may run on a fallback model. -/
def lateVertex : Vertex :=
  { tenant := 0, generation := 1, origin := 0, state := .prefill, endReason := none, vslot := 0, fallback := false, hostPool := false,
    shareReduced := false, facet := 0, generated := 0, kvTokens := 0, lastToken := 0, reservedTok := 0, version := 0, lastStep := 0,
    projection := 0, btRoot := 0, affinity := 0, tag := 0, seed := 0, stream := 0, deadline := 100000, start := 0, admitted := 0, model := 0,
    cls := .dl, level := 0, flags := 2, vpolicy := .follow, topn := 0, queue := 0, promptLen := 1, maxNew := 1, stop := [],
    sampling := samplingOf [], penalty := [], spec := SpecStats.initial, prefixLen := 0, arrival := 0 }

/-- Its entry in the table of sequences. -/
def lateSeq : Seq :=
  { com := lateVertex, cur := lateVertex, pagesCom := [], pagesCur := [], blocks := [], stale := [], tokensCom := [], tokensCur := [],
    prompt := [], given := [], bias := [], hot := false, lastPlaced := 0, moving := false, migrateAsked := false, cancelAsked := none,
    urgent := false, missSeen := false, resQueue := [], resRing := [], recordReady := false, lastEntry := none }

/-- An engine in OPERATIONAL whose facet 0 is ACTIVE with one more sequence to re-project: the fallback of its model 0 is model 1, which is
active with slot 0 CURRENT and takes 1/256 of the time. -/
def lateState : State :=
  { State.reset with hw := { Hw.reset with
      eng := { Hw.reset.eng with state := .operational }
      facets := [(0, { Facet.reset with state := .active, reproj := [5], stepBegins := [1000000, 0] })]
      seqs := [(5, lateSeq)]
      od := [(odKey 0x8001 1 1, 1), (odKey 0x8012 1 1, 3), (odKey 0x9020 1 0, 1), (odKey 0x9021 1 1, 1)] } }

theorem lateState_quiet : lateState.hw.Quiet := ⟨rfl, rfl, rfl, rfl⟩

theorem step_lateState : step lateState = .next { lateState with hw := lateState.hw.tick } := by
  have hlive : lateState.live = true := rfl
  show Host.Outcome.next lateState.tick = _
  rw [State.tick, if_pos hlive]

/-- An island with an event raised is not quiet. -/
theorem State.not_quiet_withHw (s : State) {h : Hw} (hr : h.events.raised ≠ []) : ¬ ({ s with hw := h } : State).hw.Quiet := fun hq => hr hq.1

/-- The cc settles what the cc before has left and then re-projects: the fallback's event remains. -/
theorem raised_tick_lateState : lateState.hw.tick.events.raised ≠ [] := by decide +kernel

/-- Refutes O60: on an empty queue one cc passes, and the re-projection of its work comes after the settling. A sequence that it orders onto the
fallback model leaves an event raised. -/
theorem not_stepsSettle : ¬ Obligations.StepsSettle := by
  unfold Obligations.StepsSettle
  intro h
  exact lateState.not_quiet_withHw raised_tick_lateState (h lateState _ lateState_quiet step_lateState)

/-! ## The machine after reset -/

theorem ready_reset : State.reset.Ready := ⟨rfl, rfl, rfl, ⟨rfl, rfl, rfl, rfl⟩⟩

/-- No facet is listed at reset. -/
theorem facet_reset_state (f : Nat) : (State.reset.hw.facet f).state = .unassigned := rfl

/-- Settles O58: each value stands in the reset state or is an entry's default. -/
theorem resetState : Obligations.ResetState := by
  unfold Obligations.ResetState
  have hcycles : State.reset.gnm.get 0xD111 1 = 1 := by decide +kernel
  have hdefault : State.reset.hw.get 0x2100 1 = 0x1000 := by decide +kernel
  exact ⟨rfl, rfl, rfl, rfl, facet_reset_state, rfl, rfl, rfl, rfl, rfl, rfl, rfl, hcycles, rfl, hdefault, wf_reset, ready_reset,
    Nat.two_pow_pos 70⟩

end Sys2Proof.Machine

/-! PROOFS. What a command of the core island leaves in a ready machine. -/

namespace Sys2Proof.Machine

open Sys2Proof

/-! ## A command of the core island in a ready machine -/

/-- A machine whose core island is settled. -/
theorem State.leaves_settle (s : State) (b : Hw) {x h : Hw} (hx : Hw.SameOut x h) : s.Leaves { s with hw := Hw.settle b x } h :=
  ⟨rfl, rfl, rfl, (Hw.sameOut_settle b x).trans hx⟩

/-- What the command's function leaves of the island, the command leaves of the machine. -/
theorem State.Ready.leaves {s : State} (hr : s.Ready) (c : CcPart) (u : Nat) (f : Hw → Hw) {h : Hw}
    (hf : Hw.SameOut (f ((s.hw.started c).begin u)) h) : ∃ t, (.next (s.onCoreAt c u f) : Host.Outcome State Fault Refusal) = .next t ∧ s.Leaves t h := by
  rw [s.onCoreAt_ready c u f hr]
  exact ⟨_, rfl, s.leaves_settle _ hf⟩

/-- Of the machine that a command leaves, a statement about the settled island. -/
theorem State.Ready.next {s : State} (hr : s.Ready) (c : CcPart) (u : Nat) (f : Hw → Hw) {P : State → Prop}
    (hP : P { s with hw := Hw.settle (s.hw.started c) (f ((s.hw.started c).begin u)) }) :
    ∃ t, (.next (s.onCoreAt c u f) : Host.Outcome State Fault Refusal) = .next t ∧ P t := by
  rw [s.onCoreAt_ready c u f hr]
  exact ⟨_, rfl, hP⟩

/-- The same of a command that reaches beyond the core island and finds no fault. -/
theorem State.Ready.nextAll {s : State} (hr : s.Ready) (c : CcPart) (u : Nat) (f : State → State) {P : State → Prop} {y : State}
    (hy : f { s with hw := (s.hw.started c).begin u } = y) (hf : y.hw.faults = [])
    (hP : P { y with hw := Hw.settle (s.hw.started c) y.hw }) :
    ∃ t, (.next (s.onAllAt c u f) : Host.Outcome State Fault Refusal) = .next t ∧ P t := by
  rw [s.onAllAt_ready c u f hr, hy, Hw.runFaults_none _ hf]
  exact ⟨_, rfl, hP⟩

/-- Such a command that writes the core island alone. -/
theorem State.Ready.leavesAll {s : State} (hr : s.Ready) (c : CcPart) (u : Nat) (f : State → State) {y h : Hw}
    (hy : f { s with hw := (s.hw.started c).begin u } = { s with hw := y }) (hf : y.faults = []) (hh : Hw.SameOut y h) :
    ∃ t, (.next (s.onAllAt c u f) : Host.Outcome State Fault Refusal) = .next t ∧ s.Leaves t h :=
  hr.nextAll c u f hy hf (s.leaves_settle _ hh)

/-- What an equation says of the island that a function leaves. -/
theorem Hw.SameOut.of_eq {x y h : Hw} (e : x = y) (hy : Hw.SameOut y h) : Hw.SameOut x h := e ▸ hy

/-- A command that does nothing leaves the island with empty output ports. -/
theorem Hw.sameOut_begun (h : Hw) (c : CcPart) (u : Nat) : Hw.SameOut ((h.started c).begin u) (h.sends []) := ⟨rfl, rfl⟩

/-- The counts of occurrences lie outside the keys of observation. -/
theorem obsKey_occurred (fam : Nat) : obsKey (odKey 0xC030 (fam + 1) 0) = false := by
  simp [obsKey, odKey]
  omega

@[simp] theorem Hw.occurred_settle (b h : Hw) (fam : Nat) : (Hw.settle b h).occurred fam = h.occurred fam :=
  Hw.settle_get b h _ _ (obsKey_occurred fam)

/-- An event adds 1 to the occurrences of its family. -/
@[simp] theorem Hw.occurred_event (h : Hw) (fam tag sev : Nat) (f p : Option Nat) :
    (h.event fam tag sev f p).occurred fam = (h.occurred fam + 1) % 2 ^ 64 := h.get_inc _ _

end Sys2Proof.Machine

/-! PROOFS. R409: core clock points. -/

namespace Sys2Proof.Machine

open Sys2Proof

/-- The point asked for is driven where no change is outstanding. -/
theorem Hw.drivePoint_of_idle (h : Hw) (hc : h.pins.changing = false) (ha : h.pins.pointAck = false)
    (hn : max (h.raw 0xD000 1) h.pins.pointCap ≠ h.pins.pointReq) :
    h.drivePoint = { h with pins := { h.pins with
      pointReq := max (h.raw 0xD000 1) h.pins.pointCap, pointReqNs := h.now, pointLogged := false } } := by
  simp [Hw.drivePoint, hn, hc, ha]

/-- It waits while a change is outstanding or acknowledged, or where it is driven already. -/
theorem Hw.drivePoint_of_not (h : Hw)
    (hn : max (h.raw 0xD000 1) h.pins.pointCap = h.pins.pointReq ∨ h.pins.changing = true ∨ h.pins.pointAck = true) :
    h.drivePoint = h := if_pos hn

/-- The ack that ends a change. -/
theorem Hw.pointAcked_of_reached (h : Hw) (cur : Nat) (hc : h.pins.changing = true) (ha : h.pins.pointAck = false) (hp : h.pins.pointReq = cur) :
    h.pointAcked cur = ({ h with pins := { h.pins with pointAck := true, pointCur := cur } } : Hw).inc 0xD003 1 := by
  simp [Hw.pointAcked, ha, hc, hp]

/-- An ack with another point than the one asked for. -/
theorem Hw.pointAcked_of_ne (h : Hw) (cur : Nat) (hp : h.pins.pointReq ≠ cur) :
    h.pointAcked cur = { h with pins := { h.pins with pointAck := true, pointCur := cur } } := by
  simp [Hw.pointAcked, hp.symm]

theorem Hw.pointLate_of_due (h : Hw) (hc : h.pins.changing = true) (hl : h.pins.pointLogged = false) (hn : h.pins.pointReqNs + 100000 ≤ h.now) :
    h.pointLate = ({ h with pins := { h.pins with pointLogged := true } } : Hw).event 0 (409 * 16) 4 none none := by
  simp [Hw.pointLate, hc, hl, hn]

theorem Hw.pointLate_of_not (h : Hw)
    (hn : h.pins.changing = false ∨ h.pins.pointLogged = true ∨ h.now < h.pins.pointReqNs + 100000) : h.pointLate = h := by
  refine if_neg fun ⟨hc, hl, hd⟩ => ?_
  rcases hn with h1 | h1 | h1
  · simp [h1] at hc
  · simp [h1] at hl
  · omega

/-- Settles O14: the cases of `Hw.drivePoint`, `Hw.pointAcked` and `Hw.pointLate`. -/
theorem clockPoints : Obligations.ClockPoints := by
  unfold Obligations.ClockPoints
  intro s hr
  refine ⟨fun c hc ha hn => ?_, fun c h => ?_, fun c hc ha hp => ?_, fun c hp => ?_, fun hp => ?_, fun hc hn => ?_, fun hc hl hd => ?_, fun h => ?_⟩
  · exact hr.leaves .alone 0 (fun h => h.capChange c) (.of_eq (Hw.drivePoint_of_idle _ hc ha hn) ⟨rfl, rfl⟩)
  · exact hr.leaves .alone 0 (fun h => h.capChange c) (.of_eq (Hw.drivePoint_of_not _ (.inr h)) ⟨rfl, rfl⟩)
  · refine hr.next .alone 0 (fun h => h.pointAcked c) ?_
    rw [Hw.pointAcked_of_reached ((s.hw.started .alone).begin 0) _ hc ha hp]
    refine ⟨?_, s.leaves_settle _ ⟨rfl, rfl⟩⟩
    rw [Hw.settle_pins]
    exact bne_eq_false_iff_eq.mpr hp
  · exact hr.leaves .alone 0 (fun h => h.pointAcked c) (.of_eq (Hw.pointAcked_of_ne _ _ hp) ⟨rfl, rfl⟩)
  · exact hr.leaves .alone 0 Hw.pointAckFell (.of_eq (Hw.drivePoint_of_not _ (.inl hp.symm)) ⟨rfl, rfl⟩)
  · exact hr.leaves .alone 0 Hw.pointAckFell (.of_eq (Hw.drivePoint_of_idle _ hc rfl hn.symm) ⟨rfl, rfl⟩)
  · refine hr.next .alone 0 Hw.pointLate ?_
    rw [Hw.pointLate_of_due ((s.hw.started .alone).begin 0) hc hl hd]
    refine ⟨Hw.settle_pins _ _, ?_, Hw.settle_seqs _ _, Hw.settle_facets _ _⟩
    rw [Hw.occurred_settle, Hw.occurred_event]
    rfl
  · exact hr.leaves .alone 0 Hw.pointLate (.of_eq (Hw.pointLate_of_not _ h) (s.hw.sameOut_begun _ _))

end Sys2Proof.Machine

/-! PROOFS. R326: how a record's value is split over its tenants. -/

namespace Sys2Proof.Machine

open Sys2Proof

/-- The floors of the shares lie below the value in proportion, each by less than one unit. -/
theorem floors_bounds (x : Nat) {total : Nat} (ht : 0 < total) (l : List (Nat × Nat)) :
    total * (l.map fun s => x * s.2 / total).sum ≤ x * (l.map Prod.snd).sum ∧
    x * (l.map Prod.snd).sum + l.length ≤ total * (l.map fun s => x * s.2 / total).sum + l.length * total := by
  induction l with
  | nil => simp
  | cons s r ih =>
    obtain ⟨hlo, hhi⟩ := ih
    have hdiv : total * (x * s.2 / total) + x * s.2 % total = x * s.2 := Nat.div_add_mod _ _
    have hmod : x * s.2 % total < total := Nat.mod_lt _ ht
    simp only [List.map_cons, List.sum_cons, List.length_cons, Nat.mul_add, Nat.add_mul, Nat.one_mul]
    omega

/-- Units handed out from the first on: as many as there are positions below the bound. -/
theorem sum_zipIdx_units (g : Nat × Nat → Nat) (l : List (Nat × Nat)) (k b : Nat) :
    ((l.zipIdx k).map fun e => g e.1 + if e.2 < b then 1 else 0).sum = (l.map g).sum + min (b - k) l.length := by
  induction l generalizing k with
  | nil => simp
  | cons s r ih =>
    simp only [List.zipIdx_cons, List.map_cons, List.sum_cons, List.length_cons, ih (k + 1)]
    split <;> omega

/-- What the floors leave of the value. -/
def shareRest (x : Nat) (shares : List (Nat × Nat)) : Nat := x - (shares.map fun s => x * s.2 / (shares.map Prod.snd).sum).sum

/-- Fewer units are left than there are tenants, and the floors pass the value nowhere. -/
theorem shareRest_bounds (x : Nat) (shares : List (Nat × Nat)) (ht : (shares.map Prod.snd).sum ≠ 0) :
    (shares.map fun s => x * s.2 / (shares.map Prod.snd).sum).sum + shareRest x shares = x ∧ shareRest x shares < shares.length := by
  obtain ⟨hlo, hhi⟩ := floors_bounds x (Nat.pos_of_ne_zero ht) shares
  have hlen : 0 < shares.length := List.length_pos_iff.mpr (by rintro rfl; simp at ht)
  unfold shareRest
  generalize (shares.map Prod.snd).sum = total at *
  generalize (shares.map fun s => x * s.2 / total).sum = floors at *
  have hle : floors ≤ x := Nat.le_of_mul_le_mul_left (by rwa [Nat.mul_comm x] at hlo) (Nat.pos_of_ne_zero ht)
  refine ⟨by omega, ?_⟩
  have hmul : total * (x - floors) < total * shares.length := by
    rw [Nat.mul_sub, Nat.mul_comm total x, Nat.mul_comm total shares.length]
    omega
  have hlt := Nat.lt_of_mul_lt_mul_left hmul
  exact hlt

/-- Each tenant receives its floor, and the first ones a unit more. -/
theorem splitShare_eq (x : Nat) (shares : List (Nat × Nat)) (ht : (shares.map Prod.snd).sum ≠ 0) :
    splitShare x shares = shares.zipIdx.map fun e =>
      (e.1.1, x * e.1.2 / (shares.map Prod.snd).sum + if e.2 < shareRest x shares then 1 else 0) := by
  obtain ⟨-, hrest⟩ := shareRest_bounds x shares ht
  have hmap : (shares.map fun s => (s.1, x * s.2 / (shares.map Prod.snd).sum)).map Prod.snd =
      shares.map fun s => x * s.2 / (shares.map Prod.snd).sum := by simp
  unfold splitShare
  rw [if_neg ht]
  have hzip : (shares.map fun s => (s.1, x * s.2 / (shares.map Prod.snd).sum)).zip (List.range shares.length) =
      (shares.map fun s => (s.1, x * s.2 / (shares.map Prod.snd).sum)).zipIdx := by
    rw [List.zipIdx_eq_zip_range', List.length_map, List.range_eq_range']
  unfold shareRest at hrest ⊢
  simp only [hmap, List.length_map, hzip, List.zipIdx_map, List.map_map, Nat.div_eq_of_lt hrest, Nat.mod_eq_of_lt hrest]
  rfl

/-- Settles O55: the floors and as many units as they leave. -/
theorem sharedRecords : Obligations.SharedRecords := by
  unfold Obligations.SharedRecords
  intro x shares ht
  obtain ⟨hsum, hrest⟩ := shareRest_bounds x shares ht
  rw [splitShare_eq x shares ht]
  refine ⟨?_, ?_, shareRest x shares, hrest, fun i e he => ?_⟩
  · rw [List.map_map]
    refine (sum_zipIdx_units (fun s => x * s.2 / (shares.map Prod.snd).sum) shares 0 (shareRest x shares)).trans ?_
    omega
  · rw [List.map_map]
    exact (List.map_map (f := Prod.fst) (g := Prod.fst) (l := shares.zipIdx)).symm.trans (by rw [List.zipIdx_map_fst])
  · simp [he]

end Sys2Proof.Machine

/-! PROOFS. What the writes of the retention store leave as it was. -/

namespace Sys2Proof.Machine

open Sys2Proof

/-- What a write of the retention store keeps: all but its bytes and counts (0xD050, 0x1200), its transfers, and whether the image is live. -/
structure Hw.SameStored (a b : Hw) : Prop where
  body : ({ a with od := [], out := [], imageLive := false } : Hw) = { b with od := [], out := [], imageLive := false }
  od : ∀ k, k ≠ odKey 0xD050 1 0 → k ≠ odKey 0x1200 1 0 → Map.find? a.od k = Map.find? b.od k

theorem Hw.SameStored.refl (a : Hw) : Hw.SameStored a a := ⟨rfl, fun _ _ _ => rfl⟩

theorem Hw.SameStored.trans {a b c : Hw} (h1 : Hw.SameStored a b) (h2 : Hw.SameStored b c) : Hw.SameStored a c :=
  ⟨h1.body.trans h2.body, fun k hb hi => (h1.od k hb hi).trans (h2.od k hb hi)⟩

theorem Hw.SameStored.eng {a b : Hw} (h : Hw.SameStored a b) : a.eng = b.eng := by have e := congrArg Hw.eng h.body; exact e
theorem Hw.SameStored.pins {a b : Hw} (h : Hw.SameStored a b) : a.pins = b.pins := by have e := congrArg Hw.pins h.body; exact e
theorem Hw.SameStored.seqs {a b : Hw} (h : Hw.SameStored a b) : a.seqs = b.seqs := by have e := congrArg Hw.seqs h.body; exact e
theorem Hw.SameStored.facets {a b : Hw} (h : Hw.SameStored a b) : a.facets = b.facets := by have e := congrArg Hw.facets h.body; exact e
theorem Hw.SameStored.faults {a b : Hw} (h : Hw.SameStored a b) : a.faults = b.faults := by have e := congrArg Hw.faults h.body; exact e
theorem Hw.SameStored.events {a b : Hw} (h : Hw.SameStored a b) : a.events = b.events := by have e := congrArg Hw.events h.body; exact e
theorem Hw.SameStored.arrival {a b : Hw} (h : Hw.SameStored a b) : a.arrival = b.arrival := by have e := congrArg Hw.arrival h.body; exact e
theorem Hw.SameStored.acct {a b : Hw} (h : Hw.SameStored a b) : a.acct = b.acct := by have e := congrArg Hw.acct h.body; exact e

theorem Hw.SameStored.raw {a b : Hw} (h : Hw.SameStored a b) (i s : Nat) (hb : odKey i s 0 ≠ odKey 0xD050 1 0) (hi : odKey i s 0 ≠ odKey 0x1200 1 0) :
    a.raw i s = b.raw i s := by
  simp only [Hw.raw, Map.getD, h.od _ hb hi]

theorem Hw.SameStored.get {a b : Hw} (h : Hw.SameStored a b) (i s : Nat) (hb : odKey i s 0 ≠ odKey 0xD050 1 0) (hi : odKey i s 0 ≠ odKey 0x1200 1 0) :
    a.get i s = b.get i s := by
  simp only [Hw.get, Hw.getAt, h.od _ hb hi]

/-- The masks do not change with a write of the store. -/
theorem Hw.SameStored.maskRecord {a b : Hw} (h : Hw.SameStored a b) : a.maskRecord = b.maskRecord := by
  unfold Hw.maskRecord
  rw [h.raw 0x2201 1 (by decide) (by decide), h.raw 0xA010 1 (by decide) (by decide), h.raw 0xA011 1 (by decide) (by decide),
    h.raw 0xA012 1 (by decide) (by decide), h.raw 0xA013 1 (by decide) (by decide)]

/-- The reserved counters live outside the store's counts. -/
theorem highWaterKeys_ne : ∀ k ∈ highWaterKeys, k ≠ odKey 0xD050 1 0 ∧ k ≠ odKey 0x1200 1 0 := by decide +kernel

theorem Hw.SameStored.highWater {a b : Hw} (h : Hw.SameStored a b) (k : Nat) (hk : k ∈ highWaterKeys) : a.highWater k = b.highWater k := by
  obtain ⟨hb, hi⟩ := highWaterKeys_ne k hk
  unfold Hw.highWater
  simp only [h.arrival, h.acct, Hw.facet, h.facets, Map.getD, h.od k hb hi]

theorem foldl_congr_mem {α β : Type} {f g : β → α → β} (l : List α) (hfg : ∀ b, ∀ a ∈ l, f b a = g b a) (b : β) : l.foldl f b = l.foldl g b := by
  induction l generalizing b with
  | nil => rfl
  | cons a r ih => rw [List.foldl_cons, List.foldl_cons, hfg b a (by simp), ih fun b x hx => hfg b x (List.mem_cons_of_mem _ hx)]

/-- What is reserved depends on the live counters and on the record before. -/
theorem State.reservations_congr {s t : State} (h : Hw.SameStored s.hw t.hw) (hc : s.gnm.rs.counters = t.gnm.rs.counters) :
    s.reservations = t.reservations := by
  unfold State.reservations
  rw [hc]
  exact foldl_congr_mem _ (fun m k hk => by simp only [h.highWater k hk]) _

theorem Hw.sameStored_retentionWrite (h : Hw) (area n : Nat) : Hw.SameStored (h.retentionWrite area n) h :=
  ⟨rfl, fun _ hb _ => Map.find?_insert_ne _ _ _ _ hb⟩

theorem Hw.find?_inc_ne (h : Hw) (i s k : Nat) (hk : k ≠ odKey i s 0) : Map.find? (h.inc i s).od k = Map.find? h.od k :=
  Map.find?_insert_ne _ _ _ _ hk

theorem Hw.sameStored_count (h : Hw) : Hw.SameStored { h.inc 0x1200 1 with imageLive := true } h :=
  ⟨rfl, fun k _ hi => h.find?_inc_ne _ _ k hi⟩

theorem State.sameStored_storeImage (s : State) (n : Nat) : Hw.SameStored (s.storeImage n).hw s.hw :=
  (Hw.sameStored_count (s.hw.retentionWrite 3 n)).trans (s.hw.sameStored_retentionWrite _ _)

theorem State.sameStored_writeImage (s : State) : Hw.SameStored s.writeImage.hw s.hw := by
  unfold State.writeImage
  dsimp only
  split
  · exact .refl _
  · exact s.sameStored_storeImage _

/-- The image's write leaves both records. -/
theorem State.writeImage_records (s : State) :
    s.writeImage.gnm.rs.masks = s.gnm.rs.masks ∧ s.writeImage.gnm.rs.counters = s.gnm.rs.counters := by
  unfold State.writeImage
  dsimp only
  split <;> exact ⟨rfl, rfl⟩

theorem State.sameStored_saveMasks (s : State) : Hw.SameStored s.saveMasks.hw s.hw := s.hw.sameStored_retentionWrite _ _

theorem State.sameStored_saveCounters (s : State) : Hw.SameStored s.saveCounters.hw s.hw := s.hw.sameStored_retentionWrite _ _

theorem State.sameStored_writeRecords (s : State) : Hw.SameStored s.writeRecords.hw s.hw :=
  (State.sameStored_saveCounters _).trans s.sameStored_saveMasks

theorem State.sameStored_writeCounts (s : State) : Hw.SameStored s.writeCounts.hw s.hw := s.hw.sameStored_retentionWrite _ _

/-- Both records as a write of them leaves them. -/
theorem State.writeRecords_records (s : State) :
    s.writeRecords.gnm.rs.masks = some s.hw.maskRecord ∧ s.writeRecords.gnm.rs.counters = some (.make s.reservations) :=
  ⟨rfl, congrArg (fun m => some (KeptRecord.make m)) (State.reservations_congr s.sameStored_saveMasks rfl)⟩

/-- A state in which everything has been written to the store (R99, R102, R404). -/
def State.allWritten (s : State) : State := s.writeImage.writeRecords.writeCounts

theorem State.sameStored_allWritten (s : State) : Hw.SameStored s.allWritten.hw s.hw :=
  (State.sameStored_writeCounts _).trans ((State.sameStored_writeRecords _).trans s.sameStored_writeImage)

theorem State.allWritten_records (s : State) :
    s.allWritten.gnm.rs.masks = some s.hw.maskRecord ∧ s.allWritten.gnm.rs.counters = some (.make s.reservations) := by
  obtain ⟨hm, hc⟩ := s.writeImage.writeRecords_records
  refine ⟨hm.trans (congrArg some s.sameStored_writeImage.maskRecord), hc.trans ?_⟩
  rw [State.reservations_congr s.sameStored_writeImage s.writeImage_records.2]

end Sys2Proof.Machine

/-! PROOFS. R413 and R414: entering RETAIN and waking from it. -/

namespace Sys2Proof.Machine

open Sys2Proof

/-- A request for RETAIN that cannot begin yet is only remembered. -/
theorem State.beginRetain_of_not (s : State) (h : s.hw.pins.retReq = false ∨ s.hw.eng.state ≠ .quiesced ∨ s.hw.eng.pendingTarget ≠ none) :
    s.beginRetain = s := by
  refine if_neg fun ⟨hr, hs, ht⟩ => ?_
  rcases h with h | h | h
  · simp [h] at hr
  · exact h hs
  · exact h ht

/-- In QUIESCED without a target everything is written, both records among it, and the flush starts. -/
theorem State.beginRetain_of_quiesced (s : State) (hr : s.hw.pins.retReq = true) (hs : s.hw.eng.state = .quiesced)
    (ht : s.hw.eng.pendingTarget = none) :
    s.beginRetain.hw.pins = { s.hw.pins with rsFlush := true } ∧ s.beginRetain.gnm.rs.masks = some s.hw.maskRecord ∧
      s.beginRetain.gnm.rs.counters = some (.make s.reservations) ∧ s.beginRetain.hw.eng = s.hw.eng ∧ s.beginRetain.hw.seqs = s.hw.seqs ∧
      s.beginRetain.hw.faults = s.hw.faults := by
  have he : s.beginRetain = { s.allWritten with hw := { s.allWritten.hw with pins := { s.allWritten.hw.pins with rsFlush := true } } } :=
    if_pos ⟨hr, hs, ht⟩
  have hk := s.sameStored_allWritten
  obtain ⟨hm, hc⟩ := s.allWritten_records
  rw [he]
  exact ⟨congrArg (fun p : Pins => { p with rsFlush := true }) hk.pins, hm, hc, hk.eng, hk.seqs, hk.faults⟩

/-- The ack of the flush that an entry to RETAIN waits for. -/
theorem State.flushAcked_of_retain (s : State) (hf : s.hw.pins.rsFlush = true) (hr : s.hw.pins.retReq = true) (hs : s.hw.eng.state = .quiesced)
    (hp : s.hw.eng.powerFail = false) :
    s.flushAcked = ({ s with hw := { s.hw with pins := { s.hw.pins with rsFlush := false } } } : State).enterRetain := by
  simp [State.flushAcked, hf, hr, hs, hp]

/-! ## Entries of the Gnomon island -/

@[simp] theorem Gnomon.get_set (g : Gnomon) (i s v : Nat) : (g.set i s v).get i s = v := by simp [Gnomon.get, Gnomon.set]

theorem Gnomon.get_set_ne (g : Gnomon) (i s j r v : Nat) (hne : odKey i s 0 ≠ odKey j r 0) : (g.set j r v).get i s = g.get i s := by
  simp [Gnomon.get, Gnomon.set, Map.getD_insert_ne _ _ _ _ _ hne]

/-- A source that wakes the engine from RETAIN. -/
theorem State.wakeBy_of_retain (s : State) (bit : Nat) (hs : s.hw.eng.state = .retain) :
    s.wakeBy bit = { s with gnm := { s.gnm.set 0xD021 1 (setBit (s.gnm.get 0xD021 1) bit) with wake := true } } := by
  simp [State.wakeBy, hs]

/-- An armed comparator at its time disarms and wakes. -/
theorem State.wakeCompare_of_due (s : State) (n : Nat) (hp : s.gnm.powered = true) (hs : s.hw.eng.state = .retain)
    (ha : (s.gnm.get 0xD031 1).testBit n = true) (ht : s.gnm.get 0xD030 (n + 1) ≤ s.gnm.time) :
    s.wakeCompare n = { s with gnm := { (s.gnm.set 0xD031 1 (clearBit (s.gnm.get 0xD031 1) n)).set 0xD021 1
      (setBit (s.gnm.get 0xD021 1) n) with wake := true } } := by
  have hc : (s.gnm.set 0xD031 1 (clearBit (s.gnm.get 0xD031 1) n)).get 0xD021 1 = s.gnm.get 0xD021 1 :=
    s.gnm.get_set_ne _ _ _ _ _ (by decide)
  unfold State.wakeCompare
  rw [if_pos ⟨hp, ha, ht⟩,
    State.wakeBy_of_retain { s with gnm := s.gnm.set 0xD031 1 (clearBit (s.gnm.get 0xD031 1) n) } n hs, hc]

/-- Settles O16: the cases of `State.beginRetain`, `State.flushAcked` and the wake sources. -/
theorem retainAndWake : Obligations.RetainAndWake := by
  unfold Obligations.RetainAndWake
  intro s
  refine ⟨fun hr hs => ?_, fun hr hs ht => ?_, fun hr => ?_, fun hr hf hq hs hp => ?_, fun n hp hs ha ht => ?_, fun n hp hs hc hn => ?_,
    fun hp hs => ?_, fun hs => ?_⟩
  · refine hr.leavesAll .alone 0 _ (y := { (s.hw.started .alone).begin 0 with pins := { s.hw.pins with retReq := true } })
      (State.beginRetain_of_not _ (.inr (.inl ?_))) hr.quiet.2.2.2 ⟨rfl, rfl⟩
    exact fun h => by simp [hs] at h
  · obtain ⟨hpins, hm, hc, he, hq, hf⟩ := State.beginRetain_of_quiesced
      { s with hw := { (s.hw.started .alone).begin 0 with pins := { s.hw.pins with retReq := true } } } rfl hs ht
    refine hr.nextAll .alone 0 _ rfl (hf.trans hr.quiet.2.2.2) ⟨?_, hm, hc, ?_, ?_⟩
    · rw [Hw.settle_pins]
      exact hpins
    · rw [Hw.settle_eng]
      exact he
    · rw [Hw.settle_seqs]
      exact hq
  · exact hr.leavesAll .alone 0 _ rfl hr.quiet.2.2.2 ⟨rfl, rfl⟩
  · refine hr.nextAll .retain 0 _ (State.flushAcked_of_retain _ hf hq hs hp) hr.quiet.2.2.2 ⟨?_, ?_, ?_, rfl, ?_, ?_⟩
    · rw [Hw.settle_eng]
      rfl
    · rw [Hw.settle_pins]
      rfl
    · rw [Hw.settle_pins]
      rfl
    · exact Gnomon.get_set _ _ _ _
    · rw [Hw.settle_seqs]
      rfl
  · refine ⟨_, rfl, ?_⟩
    rw [State.wakeCompare_of_due s n hp hs ha ht]
    exact ⟨rfl, Gnomon.get_set _ _ _ _, (Gnomon.get_set_ne _ _ _ _ _ _ (by decide)).trans (Gnomon.get_set _ _ _ _), rfl, rfl, rfl⟩
  · refine ⟨_, rfl, ?_⟩
    rw [if_pos ⟨hp, hs, hc, hn⟩, State.wakeBy_of_retain _ _ hs]
    exact ⟨rfl, rfl⟩
  · refine ⟨_, rfl, ?_⟩
    rw [if_pos ⟨hp, hs⟩, State.wakeBy_of_retain _ _ hs]
    exact ⟨rfl, rfl⟩
  · show Host.Outcome.next _ = _
    rw [if_neg fun h => by simp [hs] at h]

end Sys2Proof.Machine

/-! PROOFS. What the end of a command does to the events, and what it leaves where nothing has been raised. -/

namespace Sys2Proof.Machine

open Sys2Proof

/-! ## The severity below which EVR takes no event -/

/-- Whether EVR takes no event below S4 (R402). -/
def Hw.stops (h : Hw) : Bool := h.events.stopBelowS4

theorem Hw.stops_pulse (h : Hw) (v : Nat) : (h.pulse v).stops = h.stops := by
  unfold Hw.pulse
  split <;> rfl

theorem Hw.stops_traceRec (h : Hw) (ty u : Nat) (f : Option Nat) (p : List Byte) : (h.traceRec ty u f p).stops = h.stops := by
  unfold Hw.traceRec
  split <;> rfl

theorem Hw.stops_ite {c : Prop} [Decidable c] {a b h : Hw} (ha : a.stops = h.stops) (hb : b.stops = h.stops) :
    (if c then a else b).stops = h.stops := by
  split
  · exact ha
  · exact hb

theorem Hw.stops_logRecord (h : Hw) (e : Ev) (c : Nat) (y : Bool) (s : Nat) : (h.logRecord e c y s).stops = h.stops := by
  unfold Hw.logRecord
  dsimp only
  refine Hw.stops_ite rfl ?_
  rw [Hw.stops_traceRec]
  have hnotice : (if e.sev ≥ 3 then { h.takeSeq 1 with events := { (h.takeSeq 1).events with
      notice := setBit (h.takeSeq 1).events.notice e.fam } } else h.takeSeq 1).stops = h.stops := Hw.stops_ite rfl rfl
  have hpulse : ∀ a : Hw, a.stops = h.stops → (if e.sev ≥ h.get 0xC003 1 then a.pulse (h.raw 0xC002 1) else a).stops = h.stops :=
    fun a ha => Hw.stops_ite ((a.stops_pulse _).trans ha) ha
  exact Hw.stops_ite (hpulse _ hnotice) (hpulse _ hnotice)

/-- At the end of a rate window its table, length and start change, and what it suppressed waits. -/
theorem Hw.rollRates_cases (h : Hw) : h.rollRates = h ∨ ∃ r ms ns c,
    h.rollRates = { h with events := { h.events with rates := r, rateMs := ms, rateNs := ns, closed := c } } := by
  unfold Hw.rollRates
  exact if hc : _ then .inr ⟨_, _, _, _, if_pos hc⟩ else .inl (if_neg hc)

theorem Hw.stops_rollRates (h : Hw) : h.rollRates.stops = h.stops := by
  rcases h.rollRates_cases with e | ⟨r, ms, ns, c, e⟩
  · rw [e]
  · rw [e]
    rfl

theorem Hw.stops_withRates (h : Hw) (r : List RateEntry) : ({ h with events := { h.events with rates := r } } : Hw).stops = h.stops := rfl

/-- Whatever an occurrence's rate limit answers. -/
theorem Hw.stops_rated (g h : Hw) (e : Ev) (a : RateAnswer) (hg : g.stops = h.stops) :
    (match a with
      | .log => g.logRecord e 1 false h.now
      | .untracked => (g.inc 0xC014 1).logRecord e 1 false h.now
      | .suppress => g.inc 0xC013 1).stops = h.stops := by
  cases a
  · exact (Hw.stops_logRecord ..).trans hg
  · exact hg
  · exact (Hw.stops_logRecord ..).trans hg

theorem Hw.stops_logEvent (h : Hw) (e : Ev) : (h.logEvent e).stops = h.stops := by
  unfold Hw.logEvent
  refine Hw.stops_ite (h.stops_logRecord ..) (Hw.stops_ite rfl ?_)
  exact Hw.stops_rated _ h e _ ((Hw.stops_withRates _ _).trans h.stops_rollRates)

theorem Hw.stops_attachSnap (b h : Hw) (n : Nat) : (b.attachSnap h n).stops = h.stops := by
  unfold Hw.attachSnap
  split
  · rfl
  · split <;> rfl

/-- The trace is no matter of the events. -/
theorem Hw.events_traceTake (h : Hw) (ty u : Nat) (f : Option Nat) (p : List Byte) : (h.traceTake ty u f p).events = h.events := by
  have hgap : h.traceGap.events = h.events := by
    unfold Hw.traceGap
    dsimp only
    split <;> rfl
  unfold Hw.traceTake
  dsimp only
  split
  · rfl
  · split
    · rfl
    · split
      · rfl
      · split <;> exact hgap

theorem Hw.events_triggerRecord (h : Hw) (n : Nat) : (h.triggerRecord n).events = h.events := by
  unfold Hw.triggerRecord
  dsimp only
  split <;> exact h.events_traceTake ..

@[simp] theorem Hw.stops_settle (b h : Hw) : (Hw.settle b h).stops = h.stops := by
  have hlog := foldl_keeps Hw.stops Hw.logEvent Hw.stops_logEvent (sortBy (fun a b => decide (a.unit < b.unit)) h.events.raised) h
  unfold Hw.settle
  dsimp only
  refine (congrArg Events.stopBelowS4 (foldl_keeps Hw.events _ Hw.events_triggerRecord _ _)).trans ?_
  refine (congrArg Events.stopBelowS4 (foldl_keeps Hw.events _ (fun a r => a.events_traceTake ..) _ _)).trans ?_
  refine (foldl_keeps Hw.stops (fun a n => if a.eventTrigger n then a.fireTrigger n else a) (fun a n => Hw.stops_ite rfl rfl) _ _).trans ?_
  exact (Hw.stops_attachSnap ..).trans hlog

/-! ## The end of a command that has raised nothing -/

/-- No event, no record and no firing waits for the end of the command. -/
structure Hw.Idle (h : Hw) : Prop where
  raised : h.events.raised = []
  made : h.trace.made = []
  fired : h.trace.fired = []

theorem Hw.Quiet.idle {h : Hw} (hq : h.Quiet) : h.Idle := ⟨hq.1, hq.2.1, hq.2.2.1⟩

theorem Hw.attachSnap_trace (b h : Hw) (n : Nat) : (b.attachSnap h n).trace = h.trace := by
  unfold Hw.attachSnap
  split
  · rfl
  · split <;> rfl

/-- Of the events, a snapshot changes records of the intake alone. -/
theorem Hw.attachSnap_events (b h : Hw) (n : Nat) : ∃ l, (b.attachSnap h n).events = { h.events with intake := l } := by
  unfold Hw.attachSnap
  split
  · exact ⟨_, rfl⟩
  · split
    · exact ⟨_, rfl⟩
    · exact ⟨_, rfl⟩

/-- No snapshot is attached where the intake holds no record of the command. -/
theorem Hw.attachSnap_of_older (b h : Hw) (n : Nat) (hi : ∀ e ∈ h.events.intake, e.seq < n) : b.attachSnap h n = h := by
  have hnone : h.events.intake.find? (fun e => decide (n ≤ e.seq) && b.snapMatch e.code) = none := by
    rw [List.find?_eq_none]
    intro e he
    have := hi e he
    simp
    omega
  unfold Hw.attachSnap
  rw [hnone]
  split <;> rfl

theorem Hw.attachSnap_find? (b h : Hw) (n k : Nat) (hk : k ≠ odKey 0xC004 1 0) : Map.find? (b.attachSnap h n).od k = Map.find? h.od k := by
  unfold Hw.attachSnap
  split
  · rfl
  · split
    · exact Map.find?_insert_ne _ _ _ _ hk
    · rfl

theorem Hw.eventTrigger_of_idle (h : Hw) (hr : h.events.raised = []) (n : Nat) : h.eventTrigger n = false := by
  simp [Hw.eventTrigger, hr]

/-- A fold none of whose steps does anything. -/
theorem foldl_fixed {α β : Type} (f : β → α → β) (b : β) (hf : ∀ a, f b a = b) (l : List α) : l.foldl f b = b := by
  induction l with
  | nil => rfl
  | cons a r ih => rw [List.foldl_cons, hf, ih]

/-- The end of a command that has raised nothing attaches a snapshot at most. -/
theorem Hw.settle_of_idle (b h : Hw) (hi : h.Idle) :
    Hw.settle b h = { b.attachSnap h (h.raw 0xC004 1) with
      events := { (b.attachSnap h (h.raw 0xC004 1)).events with raised := [] },
      trace := { (b.attachSnap h (h.raw 0xC004 1)).trace with made := [], fired := [] }, faults := [] } := by
  obtain ⟨l, hev⟩ := b.attachSnap_events h (h.raw 0xC004 1)
  have hraised : (b.attachSnap h (h.raw 0xC004 1)).events.raised = [] := by rw [hev]; exact hi.raised
  have hmade : (b.attachSnap h (h.raw 0xC004 1)).trace.made = [] := by rw [Hw.attachSnap_trace]; exact hi.made
  have hfired : (b.attachSnap h (h.raw 0xC004 1)).trace.fired = [] := by rw [Hw.attachSnap_trace]; exact hi.fired
  unfold Hw.settle
  rw [hi.raised]
  dsimp only [sortBy, List.foldl_nil]
  generalize b.attachSnap h (h.raw 0xC004 1) = x at *
  rw [foldl_fixed _ x fun n => by rw [Hw.eventTrigger_of_idle x hraised]; rfl, hmade, hfired]
  simp

theorem Hw.settle_of_idle_find? (b h : Hw) (hi : h.Idle) (k : Nat) (hk : k ≠ odKey 0xC004 1 0) :
    Map.find? (Hw.settle b h).od k = Map.find? h.od k := by
  rw [Hw.settle_of_idle b h hi]
  exact b.attachSnap_find? h _ k hk

theorem Hw.settle_of_idle_events (b h : Hw) (hi : h.Idle) : ∃ l, (Hw.settle b h).events = { h.events with intake := l, raised := [] } := by
  obtain ⟨l, hev⟩ := b.attachSnap_events h (h.raw 0xC004 1)
  rw [Hw.settle_of_idle b h hi]
  exact ⟨l, by rw [hev]⟩

theorem Hw.settle_of_idle_trace (b h : Hw) (hi : h.Idle) : (Hw.settle b h).trace = { h.trace with made := [], fired := [] } := by
  rw [Hw.settle_of_idle b h hi, Hw.attachSnap_trace]

end Sys2Proof.Machine

/-! PROOFS. What a request of the memory port leaves as it was, and where it is found. -/

namespace Sys2Proof.Machine

open Sys2Proof

/-- What MOV keeps as it hands on requests: all but its own queues and its counts of bytes (0x2112). -/
structure Hw.SameButMem (a b : Hw) : Prop where
  body : ({ a with od := [], mem := Hw.reset.mem } : Hw) = { b with od := [], mem := Hw.reset.mem }
  od : ∀ i s o, i ≠ 0x2112 → s < 256 → Map.find? a.od (odKey i s o) = Map.find? b.od (odKey i s o)

theorem Hw.SameButMem.refl (a : Hw) : Hw.SameButMem a a := ⟨rfl, fun _ _ _ _ _ => rfl⟩

theorem Hw.SameButMem.trans {a b c : Hw} (h1 : Hw.SameButMem a b) (h2 : Hw.SameButMem b c) : Hw.SameButMem a c :=
  ⟨h1.body.trans h2.body, fun i s o hi hs => (h1.od i s o hi hs).trans (h2.od i s o hi hs)⟩

theorem Hw.SameButMem.cc {a b : Hw} (h : Hw.SameButMem a b) : a.cc = b.cc := by have e := congrArg Hw.cc h.body; exact e
theorem Hw.SameButMem.clk {a b : Hw} (h : Hw.SameButMem a b) : a.clk = b.clk := by have e := congrArg Hw.clk h.body; exact e
theorem Hw.SameButMem.eng {a b : Hw} (h : Hw.SameButMem a b) : a.eng = b.eng := by have e := congrArg Hw.eng h.body; exact e
theorem Hw.SameButMem.pins {a b : Hw} (h : Hw.SameButMem a b) : a.pins = b.pins := by have e := congrArg Hw.pins h.body; exact e
theorem Hw.SameButMem.dom {a b : Hw} (h : Hw.SameButMem a b) : a.dom = b.dom := by have e := congrArg Hw.dom h.body; exact e
theorem Hw.SameButMem.imageLive {a b : Hw} (h : Hw.SameButMem a b) : a.imageLive = b.imageLive := by have e := congrArg Hw.imageLive h.body; exact e
theorem Hw.SameButMem.snaps {a b : Hw} (h : Hw.SameButMem a b) : a.snaps = b.snaps := by have e := congrArg Hw.snaps h.body; exact e
theorem Hw.SameButMem.staged {a b : Hw} (h : Hw.SameButMem a b) : a.staged = b.staged := by have e := congrArg Hw.staged h.body; exact e
theorem Hw.SameButMem.side {a b : Hw} (h : Hw.SameButMem a b) : a.side = b.side := by have e := congrArg Hw.side h.body; exact e
theorem Hw.SameButMem.irq {a b : Hw} (h : Hw.SameButMem a b) : a.irq = b.irq := by have e := congrArg Hw.irq h.body; exact e
theorem Hw.SameButMem.events {a b : Hw} (h : Hw.SameButMem a b) : a.events = b.events := by have e := congrArg Hw.events h.body; exact e
theorem Hw.SameButMem.trace {a b : Hw} (h : Hw.SameButMem a b) : a.trace = b.trace := by have e := congrArg Hw.trace h.body; exact e
theorem Hw.SameButMem.rings {a b : Hw} (h : Hw.SameButMem a b) : a.rings = b.rings := by have e := congrArg Hw.rings h.body; exact e
theorem Hw.SameButMem.queues {a b : Hw} (h : Hw.SameButMem a b) : a.queues = b.queues := by have e := congrArg Hw.queues h.body; exact e
theorem Hw.SameButMem.seqs {a b : Hw} (h : Hw.SameButMem a b) : a.seqs = b.seqs := by have e := congrArg Hw.seqs h.body; exact e
theorem Hw.SameButMem.gens {a b : Hw} (h : Hw.SameButMem a b) : a.gens = b.gens := by have e := congrArg Hw.gens h.body; exact e
theorem Hw.SameButMem.arrival {a b : Hw} (h : Hw.SameButMem a b) : a.arrival = b.arrival := by have e := congrArg Hw.arrival h.body; exact e
theorem Hw.SameButMem.slotsFront {a b : Hw} (h : Hw.SameButMem a b) : a.slotsFront = b.slotsFront := by have e := congrArg Hw.slotsFront h.body; exact e
theorem Hw.SameButMem.slotsFresh {a b : Hw} (h : Hw.SameButMem a b) : a.slotsFresh = b.slotsFresh := by have e := congrArg Hw.slotsFresh h.body; exact e
theorem Hw.SameButMem.slotsFreed {a b : Hw} (h : Hw.SameButMem a b) : a.slotsFreed = b.slotsFreed := by have e := congrArg Hw.slotsFreed h.body; exact e
theorem Hw.SameButMem.adm {a b : Hw} (h : Hw.SameButMem a b) : a.adm = b.adm := by have e := congrArg Hw.adm h.body; exact e
theorem Hw.SameButMem.budgetNs {a b : Hw} (h : Hw.SameButMem a b) : a.budgetNs = b.budgetNs := by have e := congrArg Hw.budgetNs h.body; exact e
theorem Hw.SameButMem.facets {a b : Hw} (h : Hw.SameButMem a b) : a.facets = b.facets := by have e := congrArg Hw.facets h.body; exact e
theorem Hw.SameButMem.parts {a b : Hw} (h : Hw.SameButMem a b) : a.parts = b.parts := by have e := congrArg Hw.parts h.body; exact e
theorem Hw.SameButMem.descs {a b : Hw} (h : Hw.SameButMem a b) : a.descs = b.descs := by have e := congrArg Hw.descs h.body; exact e
theorem Hw.SameButMem.descFresh {a b : Hw} (h : Hw.SameButMem a b) : a.descFresh = b.descFresh := by have e := congrArg Hw.descFresh h.body; exact e
theorem Hw.SameButMem.descFreed {a b : Hw} (h : Hw.SameButMem a b) : a.descFreed = b.descFreed := by have e := congrArg Hw.descFreed h.body; exact e
theorem Hw.SameButMem.funnel {a b : Hw} (h : Hw.SameButMem a b) : a.funnel = b.funnel := by have e := congrArg Hw.funnel h.body; exact e
theorem Hw.SameButMem.reports {a b : Hw} (h : Hw.SameButMem a b) : a.reports = b.reports := by have e := congrArg Hw.reports h.body; exact e
theorem Hw.SameButMem.delays {a b : Hw} (h : Hw.SameButMem a b) : a.delays = b.delays := by have e := congrArg Hw.delays h.body; exact e
theorem Hw.SameButMem.smp {a b : Hw} (h : Hw.SameButMem a b) : a.smp = b.smp := by have e := congrArg Hw.smp h.body; exact e
theorem Hw.SameButMem.pages {a b : Hw} (h : Hw.SameButMem a b) : a.pages = b.pages := by have e := congrArg Hw.pages h.body; exact e
theorem Hw.SameButMem.jobs {a b : Hw} (h : Hw.SameButMem a b) : a.jobs = b.jobs := by have e := congrArg Hw.jobs h.body; exact e
theorem Hw.SameButMem.switches {a b : Hw} (h : Hw.SameButMem a b) : a.switches = b.switches := by have e := congrArg Hw.switches h.body; exact e
theorem Hw.SameButMem.images {a b : Hw} (h : Hw.SameButMem a b) : a.images = b.images := by have e := congrArg Hw.images h.body; exact e
theorem Hw.SameButMem.sems {a b : Hw} (h : Hw.SameButMem a b) : a.sems = b.sems := by have e := congrArg Hw.sems h.body; exact e
theorem Hw.SameButMem.learners {a b : Hw} (h : Hw.SameButMem a b) : a.learners = b.learners := by have e := congrArg Hw.learners h.body; exact e
theorem Hw.SameButMem.acct {a b : Hw} (h : Hw.SameButMem a b) : a.acct = b.acct := by have e := congrArg Hw.acct h.body; exact e
theorem Hw.SameButMem.tasks {a b : Hw} (h : Hw.SameButMem a b) : a.tasks = b.tasks := by have e := congrArg Hw.tasks h.body; exact e
theorem Hw.SameButMem.pairs {a b : Hw} (h : Hw.SameButMem a b) : a.pairs = b.pairs := by have e := congrArg Hw.pairs h.body; exact e
theorem Hw.SameButMem.fed {a b : Hw} (h : Hw.SameButMem a b) : a.fed = b.fed := by have e := congrArg Hw.fed h.body; exact e
theorem Hw.SameButMem.journal {a b : Hw} (h : Hw.SameButMem a b) : a.journal = b.journal := by have e := congrArg Hw.journal h.body; exact e
theorem Hw.SameButMem.expRings {a b : Hw} (h : Hw.SameButMem a b) : a.expRings = b.expRings := by have e := congrArg Hw.expRings h.body; exact e
theorem Hw.SameButMem.hostReads {a b : Hw} (h : Hw.SameButMem a b) : a.hostReads = b.hostReads := by have e := congrArg Hw.hostReads h.body; exact e
theorem Hw.SameButMem.faults {a b : Hw} (h : Hw.SameButMem a b) : a.faults = b.faults := by have e := congrArg Hw.faults h.body; exact e
theorem Hw.SameButMem.out {a b : Hw} (h : Hw.SameButMem a b) : a.out = b.out := by have e := congrArg Hw.out h.body; exact e

theorem Hw.SameButMem.getAt {a b : Hw} (h : Hw.SameButMem a b) (i s o : Nat) (hi : i ≠ 0x2112) (hs : s < 256) : a.getAt i s o = b.getAt i s o := by
  simp only [Hw.getAt, h.od i s o hi hs]

theorem Hw.SameButMem.get {a b : Hw} (h : Hw.SameButMem a b) (i s : Nat) (hi : i ≠ 0x2112) (hs : s < 256) : a.get i s = b.get i s :=
  h.getAt i s 0 hi hs

theorem Hw.SameButMem.raw {a b : Hw} (h : Hw.SameButMem a b) (i s : Nat) (hi : i ≠ 0x2112) (hs : s < 256) : a.raw i s = b.raw i s := by
  simp only [Hw.raw, Map.getD, h.od i s 0 hi hs]

theorem Purpose.sub_lt (p : Purpose) : p.sub < 256 := by cases p <;> decide

theorem Hw.sameButMem_withMem (h : Hw) (m : MemPort) : Hw.SameButMem { h with mem := m } h := ⟨rfl, fun _ _ _ _ _ => rfl⟩

theorem Hw.sameButMem_count (h : Hw) (p : Purpose) (n : Nat) : Hw.SameButMem (h.bump 0x2112 p.sub n) h :=
  ⟨rfl, fun i s o hi hs => Map.find?_insert_ne _ _ _ _ (odKey_idx_ne i s o 0x2112 p.sub 0 hs p.sub_lt hi)⟩

theorem Hw.sameButMem_memIssue (h : Hw) (r : MemReq) : Hw.SameButMem (h.memIssue r) h :=
  (Hw.sameButMem_withMem _ _).trans (h.sameButMem_count r.purpose _)

theorem Hw.sameButMem_memPumpN (n : Nat) (h : Hw) : Hw.SameButMem (Hw.memPumpN n h) h := by
  induction n generalizing h with
  | zero => exact .refl h
  | succ n ih =>
    unfold Hw.memPumpN
    split
    · exact (ih _).trans (h.sameButMem_memIssue _)
    · exact .refl h

theorem Hw.sameButMem_memPump (h : Hw) : Hw.SameButMem h.memPump h := h.sameButMem_memPumpN _

theorem Hw.sameButMem_memSend (h : Hw) (r : MemReq) : Hw.SameButMem (h.memSend r) h :=
  (Hw.sameButMem_memPump _).trans (h.sameButMem_withMem _)

theorem Hw.sameButMem_memAgain (h : Hw) (r : MemReq) : Hw.SameButMem (h.memAgain r) h :=
  (Hw.sameButMem_memPump _).trans (h.sameButMem_withMem _)

theorem Hw.sameButMem_memPost (h : Hw) (w : Bool) (addr beats : Nat) (data : List Byte) (p : Purpose) (tn : Option Nat) (use : MemUse) :
    Hw.SameButMem (h.memPost w addr beats data p tn use) h := h.sameButMem_memSend _

theorem Hw.sameButMem_foldl {α : Type} (f : Hw → α → Hw) (hf : ∀ b a, Hw.SameButMem (f b a) b) (l : List α) (b : Hw) :
    Hw.SameButMem (l.foldl f b) b := by
  induction l generalizing b with
  | nil => exact .refl b
  | cons a r ih => exact (ih (f b a)).trans (hf b a)

theorem Hw.sameButMem_writeBytes (h : Hw) (addr : Nat) (l : List Byte) (p : Purpose) (tn : Option Nat) (use : MemUse) :
    Hw.SameButMem (h.writeBytes addr l p tn use) h := Hw.sameButMem_foldl _ (fun b _ => b.sameButMem_memPost ..) _ _

theorem Hw.sameButMem_readBytes (h : Hw) (addr n : Nat) (p : Purpose) (tn : Option Nat) (use : MemUse) :
    Hw.SameButMem (h.readBytes addr n p tn use) h := Hw.sameButMem_foldl _ (fun b _ => b.sameButMem_memPost ..) _ _

/-! ## Where a request is found -/

/-- Some access that is outstanding or queued is one of a kind. -/
def Hw.underWay (h : Hw) (P : MemReq → Prop) : Prop := ∃ x ∈ h.mem.out ++ h.mem.queue, P x

/-- A kind of access that takes no account of its tag and of when it was sent. -/
def Timeless (P : MemReq → Prop) : Prop := ∀ (r : MemReq) (t ns : Nat), P r → P { r with tag := t, sinceNs := ns, expired := false }

/-- MOV moves requests from its queue to their channels and loses none. -/
theorem Hw.underWay_memIssue (h : Hw) (r : MemReq) {P : MemReq → Prop} (hP : Timeless P) (hx : h.underWay P) : (h.memIssue r).underWay P := by
  obtain ⟨x, hx, hp⟩ := hx
  by_cases hxr : x = r
  · exact ⟨_, List.mem_append_left _ (List.mem_append_right _ (List.mem_singleton.mpr rfl)), hP r _ _ (hxr ▸ hp)⟩
  · rcases List.mem_append.mp hx with ho | hq
    · exact ⟨x, List.mem_append_left _ (List.mem_append_left _ ho), hp⟩
    · exact ⟨x, List.mem_append_right _ ((List.mem_erase_of_ne hxr).mpr hq), hp⟩

theorem Hw.underWay_memPumpN {P : MemReq → Prop} (hP : Timeless P) (n : Nat) (h : Hw) (hx : h.underWay P) : (Hw.memPumpN n h).underWay P := by
  induction n generalizing h with
  | zero => exact hx
  | succ n ih =>
    unfold Hw.memPumpN
    split
    · exact ih _ (h.underWay_memIssue _ hP hx)
    · exact hx

theorem Hw.underWay_memPump (h : Hw) {P : MemReq → Prop} (hP : Timeless P) (hx : h.underWay P) : h.memPump.underWay P :=
  Hw.underWay_memPumpN hP _ h hx

/-- A request handed to MOV is under way. -/
theorem Hw.underWay_memSend (h : Hw) (r : MemReq) {P : MemReq → Prop} (hP : Timeless P) (hr : P r) : (h.memSend r).underWay P :=
  Hw.underWay_memPump _ hP ⟨r, by simp, hr⟩

theorem Hw.underWay_memAgain (h : Hw) (r : MemReq) {P : MemReq → Prop} (hP : Timeless P) (hr : P r) : (h.memAgain r).underWay P :=
  Hw.underWay_memPump _ hP ⟨r, by simp, hr⟩

/-- What is under way stays so as MOV is handed another request. -/
theorem Hw.underWay_memSend_of (h : Hw) (r : MemReq) {P : MemReq → Prop} (hP : Timeless P) (hx : h.underWay P) : (h.memSend r).underWay P := by
  obtain ⟨x, hx, hp⟩ := hx
  refine Hw.underWay_memPump _ hP ⟨x, ?_, hp⟩
  rcases List.mem_append.mp hx with ho | hq
  · exact List.mem_append_left _ ho
  · exact List.mem_append_right _ (List.mem_append_left _ hq)

/-- With nothing queued, MOV has nothing to hand on. -/
theorem Hw.memPump_of_empty (h : Hw) (hq : h.mem.queue = []) : h.memPump = h := by
  unfold Hw.memPump
  rw [hq]
  rfl

end Sys2Proof.Machine

/-! PROOFS. R402, R415 and R416: power-fail warnings. -/

namespace Sys2Proof.Machine

open Sys2Proof

/-! ## What the flush of the events keeps -/

/-- What EVR keeps as it takes, writes and loses records: sequences, facets, the engine, the pins, the severity it stops at, the entries below
0xB000 but MOV's counts, and the occurrences of family 0. -/
structure Hw.SameEvr (a b : Hw) : Prop where
  seqs : a.seqs = b.seqs
  facets : a.facets = b.facets
  eng : a.eng = b.eng
  pins : a.pins = b.pins
  faults : a.faults = b.faults
  stops : a.stops = b.stops
  od : ∀ i s, s < 256 → (i < 0xB000 ∧ i ≠ 0x2112) ∨ (i = 0xC030 ∧ s = 1) → Map.find? a.od (odKey i s 0) = Map.find? b.od (odKey i s 0)

theorem Hw.SameEvr.refl (a : Hw) : Hw.SameEvr a a := ⟨rfl, rfl, rfl, rfl, rfl, rfl, fun _ _ _ _ => rfl⟩

theorem Hw.SameEvr.trans {a b c : Hw} (h1 : Hw.SameEvr a b) (h2 : Hw.SameEvr b c) : Hw.SameEvr a c :=
  ⟨h1.seqs.trans h2.seqs, h1.facets.trans h2.facets, h1.eng.trans h2.eng, h1.pins.trans h2.pins, h1.faults.trans h2.faults,
    h1.stops.trans h2.stops, fun i s hs hi => (h1.od i s hs hi).trans (h2.od i s hs hi)⟩

theorem Hw.SameEvr.raw {a b : Hw} (h : Hw.SameEvr a b) (i s : Nat) (hs : s < 256) (hi : i < 0xB000) (hm : i ≠ 0x2112) : a.raw i s = b.raw i s := by
  simp only [Hw.raw, Map.getD, h.od i s hs (.inl ⟨hi, hm⟩)]

theorem Hw.SameEvr.occurred {a b : Hw} (h : Hw.SameEvr a b) : a.occurred 0 = b.occurred 0 := by
  simp only [Hw.occurred, Hw.get, Hw.getAt, h.od 0xC030 1 (by decide) (.inr ⟨rfl, rfl⟩)]

theorem Hw.SameEvr.maskRecord {a b : Hw} (h : Hw.SameEvr a b) : a.maskRecord = b.maskRecord := by
  unfold Hw.maskRecord
  rw [h.raw 0x2201 1 (by decide) (by decide) (by decide), h.raw 0xA010 1 (by decide) (by decide) (by decide),
    h.raw 0xA011 1 (by decide) (by decide) (by decide), h.raw 0xA012 1 (by decide) (by decide) (by decide),
    h.raw 0xA013 1 (by decide) (by decide) (by decide)]

theorem Hw.sameEvr_foldl {α : Type} (f : Hw → α → Hw) (hf : ∀ b a, Hw.SameEvr (f b a) b) (l : List α) (b : Hw) :
    Hw.SameEvr (l.foldl f b) b := by
  induction l generalizing b with
  | nil => exact .refl b
  | cons a r ih => exact (ih (f b a)).trans (hf b a)

/-- EVR's own entries lie from 0xB000 on. -/
theorem Hw.sameEvr_set (h : Hw) (i s v : Nat) (hs : s < 256) (hi : 0xB000 ≤ i) (hne : i ≠ 0xC030) : Hw.SameEvr (h.set i s v) h :=
  ⟨rfl, rfl, rfl, rfl, rfl, rfl, fun j r hr hj => Map.find?_insert_ne _ _ _ _ (odKey_idx_ne j r 0 i s 0 hr hs (by omega))⟩

theorem Hw.sameEvr_bump (h : Hw) (i s n : Nat) (hs : s < 256) (hi : 0xB000 ≤ i) (hne : i ≠ 0xC030) : Hw.SameEvr (h.bump i s n) h :=
  h.sameEvr_set i s _ hs hi hne

/-- So do the occurrences of another family than 0. -/
theorem Hw.sameEvr_occurrence (h : Hw) (fam : Nat) (hf : 0 < fam) (hs : fam + 1 < 256) : Hw.SameEvr (h.inc 0xC030 (fam + 1)) h := by
  refine ⟨rfl, rfl, rfl, rfl, rfl, rfl, fun j r hr hj => Map.find?_insert_ne _ _ _ _ ?_⟩
  rcases hj with ⟨hj, -⟩ | ⟨rfl, rfl⟩
  · exact odKey_idx_ne j r 0 0xC030 (fam + 1) 0 hr hs (by omega)
  · exact odKey_sub_ne 0xC030 1 0 (fam + 1) 0 (by omega)

/-- The records of EVR. -/
theorem Hw.sameEvr_events (h : Hw) {e : Events} (he : e.stopBelowS4 = h.events.stopBelowS4) : Hw.SameEvr { h with events := e } h :=
  ⟨rfl, rfl, rfl, rfl, rfl, he, fun _ _ _ _ => rfl⟩

theorem Hw.sameEvr_persistRecord (h : Hw) (e : EventRec) : Hw.SameEvr (h.persistRecord e) h :=
  ⟨rfl, rfl, rfl, rfl, rfl, rfl, (h.sameEvr_bump 0xD050 1 64 (by decide) (by decide) (by decide)).od⟩

theorem Hw.sameEvr_persistOldest (h : Hw) : Hw.SameEvr h.persistOldest h := by
  unfold Hw.persistOldest
  split
  · exact h.sameEvr_persistRecord _
  · exact .refl h

theorem Hw.sameEvr_persistUntil (h : Hw) (n : Nat) : Hw.SameEvr (h.persistUntil n) h :=
  Hw.sameEvr_foldl _ (fun b _ => b.sameEvr_persistOldest) _ _

theorem Hw.sameEvr_memPost (h : Hw) (w : Bool) (addr beats : Nat) (data : List Byte) (p : Purpose) (tn : Option Nat) (use : MemUse) :
    Hw.SameEvr (h.memPost w addr beats data p tn use) h := by
  have hm := h.sameButMem_memPost w addr beats data p tn use
  exact ⟨hm.seqs, hm.facets, hm.eng, hm.pins, hm.faults, congrArg Events.stopBelowS4 hm.events,
    fun i s hs hi => hm.od i s 0 (by omega) hs⟩

theorem Hw.sameEvr_writeEvent (h : Hw) : Hw.SameEvr h.writeEvent h := by
  unfold Hw.writeEvent
  dsimp only
  split
  · exact .refl h
  · split
    · split
      · exact h.sameEvr_memPost ..
      · exact .refl h
    · exact .refl h

theorem Hw.sameEvr_flushEvents (h : Hw) : Hw.SameEvr h.flushEvents h := by
  unfold Hw.flushEvents
  split
  · exact (Hw.sameEvr_writeEvent _).trans (h.sameEvr_persistUntil _)
  · exact .refl h

/-- A record put into the buffer, at the cost of others. -/
theorem Hw.sameEvr_placeEvent (h : Hw) (e : EventRec) : ∀ a, h.placeEvent e = some a → Hw.SameEvr a h := by
  have hput : ∀ (l : List EventRec) (n lost : Nat),
      Hw.SameEvr { h.bump 0xC009 1 n with events := { h.events with buffer := l, lostOver := lost } } h :=
    fun l n lost => ⟨rfl, rfl, rfl, rfl, rfl, rfl, (h.sameEvr_bump 0xC009 1 n (by decide) (by decide) (by decide)).od⟩
  intro a ha
  unfold Hw.placeEvent at ha
  dsimp only at ha
  split at ha
  · cases ha
    exact hput _ _ _
  · split at ha
    · cases ha
      exact hput _ _ _
    · split at ha
      · split at ha
        · cases ha
          exact hput _ _ _
        · cases ha
      · cases ha

/-- A record put into the buffer alone, or lost. -/
theorem Hw.sameEvr_placeAlone (h : Hw) (e : EventRec) : Hw.SameEvr ((h.placeEvent e).getD (h.inc 0xC00A 1)) h := by
  cases hp : h.placeEvent e with
  | none => exact h.sameEvr_bump 0xC00A 1 1 (by decide) (by decide) (by decide)
  | some a => exact h.sameEvr_placeEvent e a hp

/-- Records put into the buffer one after another, as long as each finds a slot. -/
theorem Hw.sameEvr_placeAll (h : Hw) (l : List EventRec) : ∀ o : Option Hw, (∀ a, o = some a → Hw.SameEvr a h) →
    ∀ a, l.foldl (fun a p => a.bind fun b => b.placeEvent p) o = some a → Hw.SameEvr a h := by
  induction l with
  | nil => exact fun o ho a ha => ho a ha
  | cons e r ih =>
    intro o ho
    refine ih _ fun a ha => ?_
    obtain ⟨b, hb, hab⟩ := Option.bind_eq_some_iff.mp ha
    exact (b.sameEvr_placeEvent e a hab).trans (ho b hb)

theorem Hw.sameEvr_placeWithSnap (h : Hw) (e : EventRec) : Hw.SameEvr (h.placeWithSnap e) h := by
  unfold Hw.placeWithSnap
  dsimp only
  split
  · exact h.sameEvr_placeAlone e
  · split
    · next a ha =>
      exact (Hw.sameEvr_bump a 0xC021 1 1 (by decide) (by decide) (by decide)).trans
        (h.sameEvr_placeAll _ _ (h.sameEvr_placeEvent e) a ha)
    · exact (Hw.sameEvr_placeAlone _ _).trans (h.sameEvr_bump 0xC022 1 1 (by decide) (by decide) (by decide))

theorem Hw.sameEvr_gapEvent (h : Hw) (lost cause : Nat) : Hw.SameEvr (h.gapEvent lost cause) h :=
  ⟨rfl, rfl, rfl, rfl, rfl, rfl, (h.sameEvr_occurrence 0xE (by decide) (by decide)).od⟩

/-- A count of lost events starts again, and a GAP event says it. -/
theorem Hw.sameEvr_gapOf (a h : Hw) (ha : Hw.SameEvr a h) (e : Events) (he : e.stopBelowS4 = a.events.stopBelowS4) (lost cause : Nat) :
    Hw.SameEvr (({ a with events := e } : Hw).gapEvent lost cause) h :=
  (Hw.sameEvr_gapEvent _ _ _).trans ((a.sameEvr_events he).trans ha)

theorem Hw.sameEvr_reportLost (h : Hw) : Hw.SameEvr h.reportLost h := by
  have hfirst : Hw.SameEvr (if h.events.lostIntake = 0 then h else
      ({ h with events := { h.events with lostIntake := 0 } } : Hw).gapEvent h.events.lostIntake 0) h := by
    split
    · exact .refl h
    · exact Hw.sameEvr_gapOf h h (.refl h) { h.events with lostIntake := 0 } rfl _ _
  unfold Hw.reportLost
  dsimp only
  generalize (if h.events.lostIntake = 0 then h else
      ({ h with events := { h.events with lostIntake := 0 } } : Hw).gapEvent h.events.lostIntake 0) = a at hfirst ⊢
  split
  · exact Hw.sameEvr_gapOf a h hfirst { a.events with lostOver := 0 } rfl _ _
  · exact hfirst

theorem Hw.sameEvr_acceptEvent (h : Hw) : Hw.SameEvr h.acceptEvent h := by
  unfold Hw.acceptEvent
  split
  · exact .refl h
  · next rest _ =>
    have htaken := h.sameEvr_events (e := { h.events with intake := rest }) rfl
    refine (Hw.sameEvr_flushEvents _).trans ((Hw.sameEvr_reportLost _).trans ((Hw.sameEvr_placeWithSnap _ _).trans ?_))
    dsimp only
    split
    · exact (Hw.sameEvr_persistUntil _ _).trans htaken
    · exact htaken

theorem Hw.sameEvr_pfFlush (h : Hw) : Hw.SameEvr h.pfFlush h := by
  unfold Hw.pfFlush
  exact (Hw.sameEvr_foldl _ (fun b _ => Hw.sameEvr_foldl _ Hw.sameEvr_persistRecord _ _) _ _).trans
    (Hw.sameEvr_foldl _ (fun b _ => b.sameEvr_acceptEvent) _ _)

/-! ## The power-fail sequence -/

/-- The machine with another core island. -/
def State.withHw (s : State) (h : Hw) : State := { s with hw := h }

theorem State.withHw_hw (s : State) (h : Hw) : (s.withHw h).hw = h := rfl

theorem State.withHw_gnm (s : State) (h : Hw) : (s.withHw h).gnm = s.gnm := rfl

/-- The machine with its island settled, as another part begins. -/
def State.between (s : State) (b : Hw) (v : Nat) : State := s.withHw ((Hw.settle b s.hw).begin v)

/-- A first stage and the stage that goes on from it, in a ready machine. -/
theorem State.Ready.goOn {s : State} (hr : s.Ready) (u v : Nat) (f g : State → State) (x z : State)
    (hx : f (s.withHw ((s.hw.started .alone).begin u)) = x) (hf : x.hw.faults = [])
    (hz : g (x.between (s.hw.started .alone) v) = z) (hg : z.hw.faults = []) :
    (s.onAll u f).goOn v g = z.withHw (Hw.settle (Hw.settle (s.hw.started .alone) x.hw) z.hw) := by
  unfold State.withHw at hx
  unfold State.between State.withHw at hz
  rw [s.onAll_ready u f hr, hx, Hw.runFaults_none _ hf]
  unfold State.goOn
  dsimp only
  rw [hz, Hw.runFaults_none _ hg]
  rfl

theorem State.writeRecords_gnm_od (s : State) : s.writeRecords.gnm.od = s.gnm.od := rfl

theorem State.writeCounts_gnm (s : State) : s.writeCounts.gnm.od = s.gnm.od ∧ s.writeCounts.gnm.rs.lastPf = s.gnm.get 0xD042 1 := ⟨rfl, rfl⟩

/-- Of the Gnomon island, the store alone is written. -/
theorem State.allWritten_gnm (s : State) : s.allWritten.gnm.od = s.gnm.od ∧ s.allWritten.gnm.rs.lastPf = s.gnm.get 0xD042 1 := by
  have himage : s.writeImage.gnm.od = s.gnm.od := by
    unfold State.writeImage
    dsimp only
    split <;> rfl
  have hrecords : s.writeImage.writeRecords.gnm.od = s.gnm.od := (State.writeRecords_gnm_od _).trans himage
  obtain ⟨hod, hpf⟩ := s.writeImage.writeRecords.writeCounts_gnm
  exact ⟨hod.trans hrecords, hpf.trans (by simp only [Gnomon.get, hrecords])⟩

theorem Hw.SameStored.stops {a b : Hw} (h : Hw.SameStored a b) : a.stops = b.stops := congrArg Events.stopBelowS4 h.events

/-- The machine as the rest of the sequence writes it. -/
def State.pfFlushed (s : State) : State := s.withHw (s.hw.pfFlush.set 0xC00C 1 s.hw.pfFlush.persistHeld)

theorem State.pfFlushed_hw (s : State) : s.pfFlushed.hw = s.hw.pfFlush.set 0xC00C 1 s.hw.pfFlush.persistHeld := s.withHw_hw _

theorem State.pfFlushed_gnm (s : State) : s.pfFlushed.gnm = s.gnm := s.withHw_gnm _

theorem State.sameEvr_pfFlushed (s : State) : Hw.SameEvr s.pfFlushed.hw s.hw := by
  rw [s.pfFlushed_hw]
  exact (Hw.sameEvr_set _ 0xC00C 1 _ (by decide) (by decide) (by decide)).trans s.hw.sameEvr_pfFlush

/-- The machine with `aon_rs_flush` high. -/
def State.raiseFlush (s : State) : State := { s with hw := { s.hw with pins := { s.hw.pins with rsFlush := true } } }

/-- Nothing but the pin changes as the flush is raised. -/
theorem State.raiseFlush_spec (s : State) : s.raiseFlush.hw.pins.rsFlush = true ∧ s.raiseFlush.hw.eng = s.hw.eng ∧
    s.raiseFlush.hw.stops = s.hw.stops ∧ s.raiseFlush.hw.seqs = s.hw.seqs ∧ s.raiseFlush.hw.facets = s.hw.facets ∧
    s.raiseFlush.hw.occurred 0 = s.hw.occurred 0 ∧ s.raiseFlush.hw.faults = s.hw.faults ∧ s.raiseFlush.gnm = s.gnm :=
  ⟨rfl, rfl, rfl, rfl, rfl, rfl, rfl, rfl⟩

theorem State.pfRest_of_run (s : State) (hs : s.hw.eng.state ≠ .start) : s.pfRest = s.pfFlushed.allWritten.raiseFlush := by
  have hrun : ¬ s.hw.pfFlush.eng.state = .start := by rw [s.hw.sameEvr_pfFlush.eng]; exact hs
  unfold State.pfRest
  dsimp only
  rw [if_neg hrun, State.raiseFlush, State.pfFlushed, State.allWritten, State.withHw]

/-- What the rest of the sequence leaves, after a START. -/
theorem State.pfRest_spec (s : State) (hs : s.hw.eng.state ≠ .start) :
    s.pfRest.hw.eng = s.hw.eng ∧ s.pfRest.hw.pins.rsFlush = true ∧ s.pfRest.hw.stops = s.hw.stops ∧ s.pfRest.hw.seqs = s.hw.seqs ∧
      s.pfRest.hw.facets = s.hw.facets ∧ s.pfRest.hw.occurred 0 = s.hw.occurred 0 ∧ s.pfRest.hw.faults = s.hw.faults ∧
      s.pfRest.gnm.od = s.gnm.od ∧ s.pfRest.gnm.rs.masks = some s.hw.maskRecord ∧ s.pfRest.gnm.rs.lastPf = s.gnm.get 0xD042 1 := by
  have he := s.sameEvr_pfFlushed
  have hw := s.pfFlushed.sameStored_allWritten
  have hocc : s.pfFlushed.allWritten.hw.occurred 0 = s.pfFlushed.hw.occurred 0 := hw.get 0xC030 1 (by decide) (by decide)
  obtain ⟨hm, -⟩ := s.pfFlushed.allWritten_records
  obtain ⟨hod, hpf⟩ := s.pfFlushed.allWritten_gnm
  rw [s.pfFlushed_gnm] at hod hpf
  rw [s.pfRest_of_run hs]
  generalize s.pfFlushed.allWritten = t at hw hocc hm hod hpf
  obtain ⟨hflush, heng, hstops, hseqs, hfacets, hocc', hfaults, hgnm⟩ := t.raiseFlush_spec
  rw [hgnm]
  exact ⟨heng.trans (hw.eng.trans he.eng), hflush, hstops.trans (hw.stops.trans he.stops), hseqs.trans (hw.seqs.trans he.seqs),
    hfacets.trans (hw.facets.trans he.facets), hocc'.trans (hocc.trans he.occurred), hfaults.trans (hw.faults.trans he.faults), hod,
    hm.trans (congrArg some he.maskRecord), hpf⟩

theorem Hw.raiseEv_spec (h : Hw) (e : Ev) : (h.raiseEv e).eng = h.eng ∧ (h.raiseEv e).stops = h.stops ∧ (h.raiseEv e).seqs = h.seqs ∧
    (h.raiseEv e).facets = h.facets ∧ (h.raiseEv e).faults = h.faults ∧ (h.raiseEv e).occurred e.fam = (h.occurred e.fam + 1) % 2 ^ 64 :=
  ⟨rfl, rfl, rfl, rfl, rfl, h.get_inc _ _⟩

/-- The mask record reads no count of occurrences. -/
theorem Hw.maskRecord_raiseEv (h : Hw) (e : Ev) (hf : e.fam = 0) : (h.raiseEv e).maskRecord = h.maskRecord := by
  have hraw : ∀ i, i < 0xB000 → (h.raiseEv e).raw i 1 = h.raw i 1 := fun i hi => by
    have hk : odKey i 1 0 ≠ odKey 0xC030 (e.fam + 1) 0 := odKey_idx_ne i 1 0 0xC030 _ 0 (by decide) (by rw [hf]; decide) (by omega)
    exact congrArg (·.getD 0) (Map.find?_insert_ne _ _ _ _ hk)
  unfold Hw.maskRecord
  rw [hraw 0x2201 (by decide), hraw 0xA010 (by decide), hraw 0xA011 (by decide), hraw 0xA012 (by decide), hraw 0xA013 (by decide)]

theorem Hw.maskRecord_settle (b h : Hw) : (Hw.settle b h).maskRecord = h.maskRecord := by
  unfold Hw.maskRecord
  rw [Hw.settle_raw _ _ 0x2201 1 (by decide), Hw.settle_raw _ _ 0xA010 1 (by decide), Hw.settle_raw _ _ 0xA011 1 (by decide),
    Hw.settle_raw _ _ 0xA012 1 (by decide), Hw.settle_raw _ _ 0xA013 1 (by decide)]

theorem Hw.begin_spec (h : Hw) (u : Nat) : (h.begin u).eng = h.eng ∧ (h.begin u).stops = h.stops ∧ (h.begin u).seqs = h.seqs ∧
    (h.begin u).facets = h.facets ∧ (h.begin u).faults = h.faults ∧ (h.begin u).occurred 0 = h.occurred 0 ∧
    (h.begin u).maskRecord = h.maskRecord := ⟨rfl, rfl, rfl, rfl, rfl, rfl, rfl⟩

/-- The island with the sequence under way. -/
def Hw.failing (h : Hw) : Hw :=
  { h with eng := { h.eng with powerFail := true, pfNs := h.now }, events := { h.events with stopBelowS4 := true } }

theorem Hw.failing_spec (h : Hw) : h.failing.eng.state = h.eng.state ∧ h.failing.eng.powerFail = true ∧ h.failing.stops = true ∧
    h.failing.seqs = h.seqs ∧ h.failing.facets = h.facets ∧ h.failing.faults = h.faults ∧ h.failing.occurred 0 = h.occurred 0 ∧
    h.failing.maskRecord = h.maskRecord := ⟨rfl, rfl, rfl, rfl, rfl, rfl, rfl, rfl⟩

/-- The first part of the sequence raises one event of family 0. -/
theorem State.pfWarn_eq (s : State) : ∃ e : Ev, e.fam = 0 ∧ s.pfWarn.hw = s.hw.failing.raiseEv e ∧ s.pfWarn.gnm = s.gnm.notePf s.hw.now :=
  ⟨_, rfl, rfl, rfl⟩

/-- What the first part leaves. -/
theorem State.pfWarn_spec (s : State) :
    s.pfWarn.hw.eng.state = s.hw.eng.state ∧ s.pfWarn.hw.eng.powerFail = true ∧ s.pfWarn.hw.stops = true ∧
      s.pfWarn.hw.seqs = s.hw.seqs ∧ s.pfWarn.hw.facets = s.hw.facets ∧ s.pfWarn.hw.faults = s.hw.faults ∧
      s.pfWarn.hw.occurred 0 = (s.hw.occurred 0 + 1) % 2 ^ 64 ∧ s.pfWarn.hw.maskRecord = s.hw.maskRecord ∧
      s.pfWarn.gnm = s.gnm.notePf s.hw.now := by
  obtain ⟨e, hfam, hw, hg⟩ := s.pfWarn_eq
  obtain ⟨hstate, hpf, hstops, hseqs, hfacets, hfaults, hocc, hmask⟩ := s.hw.failing_spec
  obtain ⟨reng, rstops, rseqs, rfacets, rfaults, rocc⟩ := s.hw.failing.raiseEv_spec e
  rw [hfam] at rocc
  rw [hw, reng, rstops, rseqs, rfacets, rfaults, rocc, Hw.maskRecord_raiseEv _ e hfam, hocc]
  exact ⟨hstate, hpf, hstops, hseqs, hfacets, hfaults, rfl, hmask, hg⟩

/-- What settling between the two parts keeps. -/
theorem State.between_spec (s : State) (b : Hw) (v : Nat) :
    (s.between b v).hw.eng = s.hw.eng ∧ (s.between b v).hw.stops = s.hw.stops ∧ (s.between b v).hw.seqs = s.hw.seqs ∧
      (s.between b v).hw.facets = s.hw.facets ∧ (s.between b v).hw.faults = [] ∧ (s.between b v).hw.occurred 0 = s.hw.occurred 0 ∧
      (s.between b v).hw.maskRecord = s.hw.maskRecord ∧ (s.between b v).gnm = s.gnm := by
  obtain ⟨beng, bstops, bseqs, bfacets, bfaults, bocc, bmask⟩ := (Hw.settle b s.hw).begin_spec v
  unfold State.between
  rw [State.withHw_hw, State.withHw_gnm, beng, bstops, bseqs, bfacets, bfaults, bocc, bmask, Hw.settle_eng, Hw.stops_settle,
    Hw.settle_seqs, Hw.settle_facets, Hw.occurred_settle, Hw.maskRecord_settle, Hw.settle_faults]
  exact ⟨rfl, rfl, rfl, rfl, rfl, rfl, rfl, rfl⟩

/-- Settles O17: the stages of the power-fail sequence. -/
theorem powerFailure : Obligations.PowerFailure := by
  unfold Obligations.PowerFailure
  intro s
  refine ⟨fun hr hs hp => ?_, fun hs hp => ?_, fun hs hp => ?_, fun hr => ?_⟩
  · have hlive : s.live = true := hr.live
    have hne : ¬ s.hw.eng.state = .retain := by simp [hs]
    refine ⟨_, rfl, ?_⟩
    rw [if_neg hne, if_neg (by simp [hlive, hp])]
    obtain ⟨xeng, xpf, xstops, xseqs, xfacets, xfaults, xocc, xmask, xgnm⟩ :=
      (s.withHw ((s.hw.started .alone).begin 0x0E)).pfWarn_spec
    rw [State.withHw_hw] at xeng xseqs xfacets xfaults xocc xmask xgnm
    rw [State.withHw_gnm] at xgnm
    generalize hx : (s.withHw ((s.hw.started .alone).begin 0x0E)).pfWarn = x at xeng xpf xstops xseqs xfacets xfaults xocc xmask xgnm
    obtain ⟨beng, bstops, bseqs, bfacets, bfaults, bocc, bmask, bgnm⟩ := x.between_spec (s.hw.started .alone) 0x0D
    have hrun : (x.between (s.hw.started .alone) 0x0D).hw.eng.state ≠ .start := by
      rw [beng, xeng]
      show s.hw.eng.state ≠ .start
      simp [hs]
    obtain ⟨zeng, zflush, zstops, zseqs, zfacets, zocc, zfaults, zod, zmasks, zpf⟩ := State.pfRest_spec _ hrun
    rw [beng] at zeng
    rw [bstops] at zstops
    rw [bseqs] at zseqs
    rw [bfacets] at zfacets
    rw [bocc] at zocc
    rw [bfaults] at zfaults
    rw [bgnm] at zod zpf
    rw [bmask] at zmasks
    generalize hz : (x.between (s.hw.started .alone) 0x0D).pfRest = z at zeng zflush zstops zseqs zfacets zocc zfaults zod zmasks zpf
    have hfaults : (s.hw.started .alone).faults = [] := hr.quiet.2.2.2
    rw [hr.goOn 0x0E 0x0D _ _ x z hx (xfaults.trans hfaults) hz zfaults]
    have hget : ∀ i, z.gnm.get i 1 = x.gnm.get i 1 := fun i => by simp only [Gnomon.get, zod]
    have hns : x.gnm.get 0xD042 1 = s.hw.now := by
      rw [xgnm]
      exact Gnomon.get_set _ _ _ _
    have hcount : x.gnm.get 0xD041 1 = (s.gnm.get 0xD041 1 + 1) % 2 ^ 64 := by
      rw [xgnm]
      exact (Gnomon.get_set_ne _ _ _ _ _ _ (by decide)).trans (Gnomon.get_set _ _ _ _)
    rw [State.withHw_hw, State.withHw_gnm, Hw.settle_eng, Hw.settle_pins, Hw.settle_seqs, Hw.settle_facets, Hw.occurred_settle,
      zeng, zflush, zseqs, zfacets, zocc, hget, hget, zmasks, zpf, hns, hcount, xseqs, xfacets, xocc, xmask]
    exact ⟨xpf, rfl, (Hw.stops_settle _ _).trans (zstops.trans xstops), rfl, rfl, rfl, rfl, rfl, rfl, rfl⟩
  · have hl : ¬ s.hw.eng.state = .retain := by simp [hs]
    show Host.Outcome.next _ = _
    rw [if_neg hl, if_pos (by simp [hp])]
  · refine ⟨_, rfl, ?_⟩
    rw [if_pos hs, if_pos hp]
    exact ⟨(Gnomon.get_set_ne _ _ _ _ _ _ (by decide)).trans (Gnomon.get_set _ _ _ _), Gnomon.get_set _ _ _ _, rfl⟩
  · refine hr.next .alone 0x0D _ ⟨Hw.stops_settle _ _, s.leaves_settle _ ⟨rfl, rfl⟩⟩

end Sys2Proof.Machine

/-! PROOFS. R36 to R39 and R404: the Gnomon's ticks, its imports and the operating hours. -/

namespace Sys2Proof.Machine

open Sys2Proof

/-! ## The Gnomon's tick -/

/-- What recording a wake source keeps of the Gnomon. -/
structure Gnomon.SameTime (a b : Gnomon) : Prop where
  count : a.count = b.count
  inc : a.inc = b.inc
  offset : a.offset = b.offset
  synced : a.synced = b.synced
  hour : a.get 0xD112 1 = b.get 0xD112 1

theorem Gnomon.SameTime.refl (a : Gnomon) : Gnomon.SameTime a a := ⟨rfl, rfl, rfl, rfl, rfl⟩

theorem Gnomon.SameTime.trans {a b c : Gnomon} (h1 : Gnomon.SameTime a b) (h2 : Gnomon.SameTime b c) : Gnomon.SameTime a c :=
  ⟨h1.count.trans h2.count, h1.inc.trans h2.inc, h1.offset.trans h2.offset, h1.synced.trans h2.synced, h1.hour.trans h2.hour⟩

theorem Gnomon.SameTime.time {a b : Gnomon} (h : Gnomon.SameTime a b) : a.time = b.time := by rw [Gnomon.time, Gnomon.time, h.count]

theorem State.sameTime_wakeBy (s : State) (n : Nat) : Gnomon.SameTime (s.wakeBy n).gnm s.gnm :=
  ⟨rfl, rfl, rfl, rfl, Gnomon.get_set_ne _ _ _ _ _ _ (by decide)⟩

theorem State.sameTime_wakeCompare (s : State) (n : Nat) : Gnomon.SameTime (s.wakeCompare n).gnm s.gnm := by
  unfold State.wakeCompare
  split
  · exact (State.sameTime_wakeBy _ n).trans ⟨rfl, rfl, rfl, rfl, Gnomon.get_set_ne _ _ _ _ _ _ (by decide)⟩
  · exact .refl _

/-- The wake comparators that hold at a tick change neither the time nor the core. -/
theorem State.wakeCompares (l : List Nat) (s : State) :
    Gnomon.SameTime (l.foldl State.wakeCompare s).gnm s.gnm ∧ (l.foldl State.wakeCompare s).hw = s.hw := by
  induction l generalizing s with
  | nil => exact ⟨.refl _, rfl⟩
  | cons n r ih => exact ⟨(ih _).1.trans (s.sameTime_wakeCompare n), (ih _).2.trans (s.hw_wakeCompare n)⟩

theorem State.gnomonTick_spec (s : State) : Gnomon.SameTime s.gnomonTick.gnm (s.gnm.tick s.hoursRun) ∧ s.gnomonTick.hw = s.hw :=
  State.wakeCompares _ _

/-- The Gnomon as a tick leaves it, before the age of the import is looked at. -/
def Gnomon.ticked (g : Gnomon) (adj : Int) : Gnomon :=
  let inc := (Int.ofNat nominalInc + adj).toNat
  { g with count := (g.count + inc) % 2 ^ 70, inc := inc, offset := g.offset - adj, ageTicks := g.ageTicks + 1, startTicks := g.startTicks + 1 }

theorem Gnomon.ticked_count (g : Gnomon) (adj : Int) : (g.ticked adj).count = (g.count + (g.ticked adj).inc) % 2 ^ 70 := rfl

theorem Gnomon.ticked_synced (g : Gnomon) (adj : Int) : (g.ticked adj).synced = g.synced := rfl

theorem Gnomon.ticked_inc_ahead (g : Gnomon) (m : Nat) : (g.ticked m).inc = 1953125 + m := by
  show (Int.ofNat nominalInc + (m : Int)).toNat = 1953125 + m
  simp only [nominalInc, Int.ofNat_eq_natCast]
  omega

theorem Gnomon.ticked_inc_behind (g : Gnomon) (m : Nat) : (g.ticked (-(m : Int))).inc = 1953125 - m := by
  show (Int.ofNat nominalInc + -(m : Int)).toNat = 1953125 - m
  simp only [nominalInc, Int.ofNat_eq_natCast]
  omega

theorem Gnomon.tick_eq (g : Gnomon) (b : Bool) :
    g.tick b = if b then (g.ticked (g.slew (g.get 0xD100 4))).freeRun.set 0xD112 1 (min (g.get 0xD112 1 + 1) (hourTicks - 1))
      else (g.ticked (g.slew (g.get 0xD100 4))).freeRun := rfl

theorem Gnomon.freeRun_keeps (g : Gnomon) : g.freeRun.count = g.count ∧ g.freeRun.offset = g.offset := by
  unfold Gnomon.freeRun
  split <;> exact ⟨rfl, rfl⟩

theorem Gnomon.sameTime_set (g : Gnomon) (i s v : Nat) : (g.set i s v).count = g.count ∧ (g.set i s v).offset = g.offset ∧
    (g.set i s v).inc = g.inc ∧ (g.set i s v).synced = g.synced := ⟨rfl, rfl, rfl, rfl⟩

/-- Whether operating hours count or not, the tick's count, increment and offset are these. -/
theorem Gnomon.tick_spec (g : Gnomon) (b : Bool) :
    (g.tick b).count = (g.ticked (g.slew (g.get 0xD100 4))).count ∧ (g.tick b).offset = g.offset - g.slew (g.get 0xD100 4) ∧
      (g.tick b).inc = (g.ticked (g.slew (g.get 0xD100 4))).freeRun.inc ∧
      (g.tick b).synced = (g.ticked (g.slew (g.get 0xD100 4))).freeRun.synced ∧
      (b = true → (g.tick b).get 0xD112 1 = min (g.get 0xD112 1 + 1) (hourTicks - 1)) := by
  obtain ⟨hcount, hoffset⟩ := (g.ticked (g.slew (g.get 0xD100 4))).freeRun_keeps
  rw [g.tick_eq]
  cases b with
  | true =>
    obtain ⟨scount, soffset, sinc, ssynced⟩ :=
      (g.ticked (g.slew (g.get 0xD100 4))).freeRun.sameTime_set 0xD112 1 (min (g.get 0xD112 1 + 1) (hourTicks - 1))
    rw [if_pos rfl, scount, soffset, sinc, ssynced]
    exact ⟨hcount, hoffset, rfl, rfl, fun _ => Gnomon.get_set _ _ _ _⟩
  | false => exact ⟨hcount, hoffset, rfl, rfl, fun h => nomatch h⟩

/-- A Gnomon that runs free, or has nothing to absorb, keeps the nominal increment. -/
theorem Gnomon.slew_none (g : Gnomon) (ppm : Nat) (h : g.synced = false ∨ g.offset = 0) : g.slew ppm = 0 := by
  unfold Gnomon.slew
  rcases h with h | h
  · simp [h]
  · rw [h]
    split <;> omega

/-- An offset beyond what one tick may absorb is absorbed at the limit. -/
theorem Gnomon.slew_ahead (g : Gnomon) (ppm : Nat) (hs : g.synced = true) (h : (slewMax ppm : Int) < g.offset) : g.slew ppm = slewMax ppm := by
  unfold Gnomon.slew
  rw [if_pos hs]
  omega

theorem Gnomon.slew_behind (g : Gnomon) (ppm : Nat) (hs : g.synced = true) (h : g.offset < -(slewMax ppm : Int)) :
    g.slew ppm = -(slewMax ppm : Int) := by
  unfold Gnomon.slew
  rw [if_pos hs]
  omega

/-- An import that is not too old keeps the Gnomon from running free. -/
theorem Gnomon.freeRun_young (g : Gnomon) (adj : Int) (h : (g.ageTicks + 1) * 1000 < g.get 0xD100 8 * 32768) :
    (g.ticked adj).freeRun = g.ticked adj := by
  have hover : ¬ (g.get 0xD100 8 * 32768 ≤ (g.ageTicks + 1) * 1000) := by omega
  have hfalse : (g.ticked adj).overdue = false := decide_eq_false hover
  rw [Gnomon.freeRun, hfalse, if_neg Bool.false_ne_true]

/-! ## The commands -/

/-- A command of the core leaves the Gnomon alone. -/
theorem State.gnm_onCoreAt (s : State) (c : CcPart) (u : Nat) (f : Hw → Hw) : (s.onCoreAt c u f).gnm = s.gnm := by
  unfold State.onCoreAt State.enterCc
  dsimp only
  split <;> rfl

theorem State.hoursRun_of_live (s : State) (h : s.live = true) : s.hoursRun = true := by
  simp [State.live] at h
  simp [State.hoursRun, h]

/-- The Gnomon after GNOMON_TICK, whatever the core does. -/
theorem State.gnomonTick_command (s : State) (hp : s.gnm.powered = true) {P : State → Prop}
    (hP : ∀ t : State, Gnomon.SameTime t.gnm (s.gnm.tick s.hoursRun) → P t) : ∃ t, exec .gnomonTick s = .next t ∧ P t := by
  show ∃ t, execGnomonTick s = .next t ∧ P t
  unfold execGnomonTick
  rw [if_pos hp]
  refine ⟨_, rfl, hP _ ?_⟩
  rw [State.gnm_onCoreAt]
  exact s.gnomonTick_spec.1

/-- An operating engine with the Gnomon ticked is as ready as before. -/
theorem State.Ready.of_hw {s t : State} (hr : s.Ready) (h : t.hw = s.hw) : t.Ready := by
  obtain ⟨hlive, hfirst, honce, hquiet⟩ := hr
  exact ⟨by rw [State.live, h]; exact hlive, by rw [h]; exact hfirst, by rw [h]; exact honce, by rw [h]; exact hquiet⟩

theorem Gnomon.importCase_forward (g : Gnomon) (ns thr : Nat) (ha : g.anyImport = true) (h : g.time + thr < ns) :
    g.importCase ns thr = .forward := by
  simp [Gnomon.importCase, ha, h]

theorem Gnomon.importCase_behind (g : Gnomon) (ns thr : Nat) (ha : g.anyImport = true) (h : ns + thr < g.time) :
    g.importCase ns thr = .behind := by
  have hn : ¬ g.time + thr < ns := by omega
  simp [Gnomon.importCase, ha, h, hn]

theorem Gnomon.importCase_slew (g : Gnomon) (ns thr : Nat) (ha : g.anyImport = true) (h1 : ns ≤ g.time + thr) (h2 : g.time ≤ ns + thr) :
    g.importCase ns thr = .slew := by
  simp [Gnomon.importCase, ha, Nat.not_lt.mpr h1, Nat.not_lt.mpr h2]

theorem Gnomon.importCase_first (g : Gnomon) (ns thr : Nat) (ha : g.anyImport = false) (h : g.time ≤ ns) : g.importCase ns thr = .first := by
  simp [Gnomon.importCase, ha, h]

/-- A powered Gnomon takes every import, and the core of a ready machine notes it. -/
theorem State.Ready.imported {s : State} (hr : s.Ready) (ns : Nat) (hp : s.gnm.powered = true) (c : Import)
    (hc : s.gnm.importCase ns (s.gnm.get 0xD100 5) = c) {P : State → Prop}
    (hP : P { s with gnm := s.gnm.take ns c, hw := Hw.settle (s.hw.started .alone) (((s.hw.started .alone).begin 0x0E).noteImport c) }) :
    ∃ t, exec (.timeImport ns) s = .next t ∧ P t := by
  have hr1 : ({ s with gnm := s.gnm.take ns c } : State).Ready := hr.of_hw rfl
  show ∃ t, execTimeImport ns s = .next t ∧ P t
  unfold execTimeImport
  rw [if_pos hp, hc]
  exact hr1.next .alone 0x0E _ hP

/-- The count of discontinuities after one. -/
theorem Gnomon.take_jumps (g : Gnomon) (ns : Nat) (c : Import) (h : c.jump = true) :
    (g.take ns c).get 0xD100 6 = (g.get 0xD100 6 + 1) % 2 ^ 64 := by
  cases c with
  | forward => exact Gnomon.get_set _ _ _ _
  | behind => exact Gnomon.get_set _ _ _ _
  | slew => exact nomatch h
  | first => exact nomatch h

/-- Settles O20: a tick slews within its limit, an import is taken by its case, and the hours are counted. -/
theorem wallTime : Obligations.WallTime := by
  unfold Obligations.WallTime
  intro s hp
  refine ⟨fun hr hs => ?_, fun hs hage ho => ?_, fun hs hage ho => ?_, fun ns hr ha h => ?_, fun ns hr ha h => ?_, fun ns hr ha h1 h2 => ?_,
    fun ns hr ha h => ?_, fun h => ?_, fun h => ?_, fun h1 h2 h3 => ?_, fun h => ?_⟩
  · obtain ⟨htime, hhw⟩ := s.gnomonTick_spec
    obtain ⟨hcount, hoffset, hinc, hsynced, hhour⟩ := s.gnm.tick_spec s.hoursRun
    rw [s.gnm.slew_none _ hs] at hcount hoffset hinc
    have hi : (s.gnm.ticked 0).freeRun.inc = 1953125 := by
      unfold Gnomon.freeRun
      split
      · rfl
      · exact s.gnm.ticked_inc_ahead 0
    have hr1 : s.gnomonTick.Ready := hr.of_hw hhw
    show ∃ t, execGnomonTick s = .next t ∧ _
    unfold execGnomonTick
    rw [if_pos hp]
    refine hr1.next .gnomon 0x0E _ ?_
    dsimp only
    have hclk : s.gnomonTick.gnm.inc = 1953125 := htime.inc.trans (hinc.trans hi)
    have hlast : hourTicks - 1 = 117964799 := by decide
    rw [Hw.settle_clk, Hw.settle_seqs, Hw.settle_facets, hhw, htime.hour, hhour (s.hoursRun_of_live hr.live), hlast]
    refine ⟨htime.count.trans hcount, hclk, htime.offset.trans (hoffset.trans (Int.sub_zero _)), ?_, rfl, rfl, rfl⟩
    rw [← hclk]
    rfl
  · refine s.gnomonTick_command hp fun t htime => ?_
    obtain ⟨hcount, hoffset, hinc, hsynced, -⟩ := s.gnm.tick_spec s.hoursRun
    rw [s.gnm.slew_ahead _ hs ho] at hcount hoffset hinc hsynced
    rw [s.gnm.freeRun_young _ hage] at hinc hsynced
    refine ⟨htime.inc.trans (hinc.trans (Gnomon.ticked_inc_ahead _ _)), htime.synced.trans (hsynced.trans ((Gnomon.ticked_synced _ _).trans hs)), htime.offset.trans hoffset, ?_⟩
    rw [htime.inc, htime.count, hcount, hinc, Gnomon.ticked_count]
  · refine s.gnomonTick_command hp fun t htime => ?_
    obtain ⟨hcount, hoffset, hinc, hsynced, -⟩ := s.gnm.tick_spec s.hoursRun
    rw [s.gnm.slew_behind _ hs ho] at hcount hoffset hinc hsynced
    rw [s.gnm.freeRun_young _ hage] at hinc hsynced
    refine ⟨htime.inc.trans (hinc.trans (Gnomon.ticked_inc_behind _ _)), htime.synced.trans (hsynced.trans ((Gnomon.ticked_synced _ _).trans hs)),
      htime.offset.trans (hoffset.trans (Int.sub_neg _ _)), ?_⟩
    rw [htime.inc, htime.count, hcount, hinc, Gnomon.ticked_count]
  · refine hr.imported ns hp _ (s.gnm.importCase_forward ns _ ha h) ⟨rfl, rfl, rfl, rfl, s.gnm.take_jumps ns .forward rfl, ?_⟩
    exact (Hw.occurred_settle _ _ _).trans (Hw.occurred_event _ _ _ _ _ _)
  · refine hr.imported ns hp _ (s.gnm.importCase_behind ns _ ha h) ⟨rfl, rfl, rfl, rfl, s.gnm.take_jumps ns .behind rfl, ?_⟩
    exact (Hw.occurred_settle _ _ _).trans (Hw.occurred_event _ _ _ _ _ _)
  · refine hr.imported ns hp _ (s.gnm.importCase_slew ns _ ha h1 h2) ⟨rfl, (Hw.sameOut_settle _ _).trans ⟨rfl, rfl⟩⟩
  · exact hr.imported ns hp _ (s.gnm.importCase_first ns _ ha h) ⟨rfl, (Hw.sameOut_settle _ _).trans ⟨rfl, rfl⟩⟩
  · show ∃ t, execImportTimeout s = .next t ∧ _
    unfold execImportTimeout
    rw [if_pos hp, Gnomon.freeRun, if_pos (by simpa [Gnomon.overdue] using h)]
    exact ⟨_, rfl, rfl, rfl, rfl⟩
  · show execImportTimeout s = _
    unfold execImportTimeout
    rw [if_pos hp, Gnomon.freeRun, if_neg (by simpa [Gnomon.overdue] using h)]
  · have hrun : s.hoursRun = true := by simp [State.hoursRun, h1, h2]
    show ∃ t, execOperatingHour s = .next t ∧ _
    unfold execOperatingHour
    rw [if_pos (by simp [hp, hrun, h3, hourTicks])]
    have hn : s.gnm.hour.get 0xD110 1 = (s.gnm.get 0xD110 1 + 1) % 2 ^ 32 :=
      (Gnomon.get_set_ne _ _ _ _ _ _ (by decide)).trans (Gnomon.get_set _ _ _ _)
    exact ⟨_, rfl, hn, Gnomon.get_set _ _ _ _, hn.symm, rfl, rfl, rfl⟩
  · have hlack : ¬ hourTicks ≤ s.gnm.get 0xD112 1 + 1 := by
      simp only [hourTicks]
      omega
    show execOperatingHour s = _
    unfold execOperatingHour
    rw [if_neg (by simp [hlack])]

end Sys2Proof.Machine

/-! PROOFS. R24, R106, R107 and R419: the management sideband and the TAP. -/

namespace Sys2Proof.Machine

open Sys2Proof

/-! ## The in-band interrupt -/

/-- A waiting message is signalled where interrupts are enabled and the target has an address. -/
theorem Hw.signal_eq (h : Hw) :
    h.signal = { h with out := h.out ++ if h.side.ibiOn = true ∧ h.side.address ≠ 0 ∧ h.side.responses ≠ [] then [.ibi Config.pendingReadByte] else [] } := by
  unfold Hw.signal
  by_cases hc : h.side.ibiOn = true ∧ h.side.address ≠ 0 ∧ h.side.responses ≠ []
  · rw [if_pos hc, if_pos (by simpa [and_assoc] using hc), Hw.emit]
  · rw [if_neg hc, if_neg (by simpa [and_assoc] using hc), List.append_nil]

/-- The interrupt alone is emitted, from an island whose ports are empty. -/
theorem Hw.sameOut_signal (h g : Hw) {l : List PortOut} (hout : h.out = []) (hsame : Hw.SameOut { h with out := l } (g.sends l))
    (hl : (if h.side.ibiOn = true ∧ h.side.address ≠ 0 ∧ h.side.responses ≠ [] then [PortOut.ibi Config.pendingReadByte] else []) = l) :
    Hw.SameOut h.signal (g.sends l) := by
  rw [h.signal_eq, hl, hout]
  exact hsame

/-- Settles O12: each command of the I3C target and of the TAP does what its row says. -/
theorem sidebandAndTestPort : Obligations.SidebandAndTestPort := by
  unfold Obligations.SidebandAndTestPort
  refine ⟨fun s hr => ⟨fun a ha => ?_, fun a ha => ?_, ?_, fun e => ?_, fun e => ?_, ?_, ?_, ?_, ?_, ?_, ?_, fun n => ?_, fun n => ?_,
    fun n => ?_⟩, fun s => ⟨fun op => ?_, ?_⟩⟩
  · refine hr.leaves .alone 0 _ (.of_eq (if_pos ha) (Hw.sameOut_signal _ _ rfl ⟨rfl, rfl⟩ ?_))
    have hne : a.toNat ≠ 0 ↔ a ≠ 0 := by simp [BitVec.toNat_eq]
    exact if_congr (and_congr Iff.rfl (and_congr hne Iff.rfl)) rfl rfl
  · exact hr.leaves .alone 0 _ (.of_eq (if_neg ha) ⟨rfl, rfl⟩)
  · exact hr.leaves .alone 0 _ ⟨rfl, rfl⟩
  · by_cases hc : s.hw.side.ibiOn = false ∧ e.getLsbD 0 = true
    · have hor : (s.hw.side.ibiOn || e.getLsbD 0) = true := by simp [hc.2]
      rw [hor]
      refine hr.leaves .alone 0 _ (.of_eq (if_pos ?_) (Hw.sameOut_signal _ _ rfl ⟨rfl, rfl⟩ ?_))
      · show (!s.hw.side.ibiOn && e.getLsbD 0) = true
        simp [hc]
      · exact if_congr ⟨fun h => ⟨hc.1, hc.2, h.2⟩, fun h => ⟨rfl, h.2.2⟩⟩ rfl rfl
    · have hor : (s.hw.side.ibiOn || e.getLsbD 0) = s.hw.side.ibiOn := by
        cases hi : s.hw.side.ibiOn <;> simp_all
      rw [hor, if_neg fun h => hc ⟨h.1, h.2.1⟩]
      refine hr.leaves .alone 0 _ (.of_eq (if_neg ?_) ⟨rfl, rfl⟩)
      show ¬ (!s.hw.side.ibiOn && e.getLsbD 0) = true
      simpa using hc
  · exact hr.leaves .alone 0 _ ⟨rfl, rfl⟩
  · exact hr.leaves .alone 0 _ ⟨rfl, rfl⟩
  · exact hr.leaves .alone 0 _ ⟨rfl, rfl⟩
  · exact hr.leaves .alone 0 _ ⟨rfl, rfl⟩
  · exact hr.leaves .alone 0 _ ⟨rfl, rfl⟩
  · exact hr.leaves .alone 0 _ ⟨rfl, rfl⟩
  · exact hr.leaves .alone 0 _ ⟨rfl, rfl⟩
  · exact hr.leaves .alone 0 _ ⟨rfl, rfl⟩
  · exact hr.leaves .alone 0 _ ⟨rfl, rfl⟩
  · exact hr.leaves .alone 0 _ ⟨rfl, rfl⟩
  · exact ⟨_, rfl, rfl, rfl, rfl, rfl⟩
  · exact ⟨_, rfl, rfl, rfl, rfl, rfl⟩

/-! ## Packets -/

theorem Hw.packetIn_none (h : Hw) (p : MctpPacket) (hp : h.side.address = 0 ∨ (p.pecOk = true ∧ p.tagOwner = false)) : h.packetIn p = h := by
  unfold Hw.packetIn
  rcases hp with hp | ⟨hp, ht⟩
  · rw [if_pos hp]
  · simp [hp, ht]

theorem Hw.packetIn_bad (h : Hw) (p : MctpPacket) (ha : h.side.address ≠ 0) (hp : p.pecOk = false) : h.packetIn p = h.inc 0x2401 2 := by
  unfold Hw.packetIn
  rw [if_neg ha, if_pos (by simp [hp])]

/-- The whole message of a single packet is taken. -/
theorem Hw.packetIn_single (h : Hw) (p : MctpPacket) (ha : h.side.address ≠ 0) (hp : p.pecOk = true) (ht : p.tagOwner = true)
    (hs : p.som = true) (he : p.eom = true) (hl : p.payload.length ≤ 1029) :
    h.packetIn p = (h.modSide fun x => { x with assembling := none }).message p.source p.tag p.payload := by
  unfold Hw.packetIn
  have hlong : ¬ 5 + 1024 < p.payload.length := by omega
  rw [if_neg ha, if_neg (by simp [hp]), if_neg (by simp [ht]), if_pos hs]
  dsimp only
  rw [List.nil_append, if_neg hlong, if_pos he]

/-- A packet that opens or continues a message, of which more follows. -/
theorem Hw.packetIn_part (h : Hw) (p : MctpPacket) (l : List Byte) (ha : h.side.address ≠ 0) (hp : p.pecOk = true) (ht : p.tagOwner = true)
    (hs : (p.som = true ∧ l = []) ∨ (p.som = false ∧ h.side.assembling = some (p.source, p.tag, p.seq % 4, l))) (he : p.eom = false)
    (hl : (l ++ p.payload).length ≤ 1029) :
    h.packetIn p = (h.modSide fun x => { x with assembling := none }).modSide fun x =>
      { x with assembling := some (p.source, p.tag, (p.seq + 1) % 4, l ++ p.payload) } := by
  have hlong : ¬ 5 + 1024 < (l ++ p.payload).length := by omega
  unfold Hw.packetIn
  rw [if_neg ha, if_neg (by simp [hp]), if_neg (by simp [ht])]
  rcases hs with ⟨hs, rfl⟩ | ⟨hs, hasm⟩
  · rw [if_pos hs]
    dsimp only
    rw [if_neg hlong, if_neg (by simp [he])]
  · rw [if_neg (by simp [hs]), hasm]
    dsimp only
    rw [if_pos ⟨rfl, rfl, rfl⟩]
    dsimp only
    rw [if_neg hlong, if_neg (by simp [he])]

/-- A DDP message of the block's enterprise number waits, or is counted where four wait. -/
theorem Hw.message_ddp (h : Hw) (src tag : Nat) (l : List Byte) (hl : l.take 5 = ddpPrefix) :
    h.message src tag l = if 4 ≤ h.side.requests.length then h.inc 0x2401 3
      else h.modSide fun x => { x with requests := x.requests ++ [(h.cc, tag + 8 * src, l.drop 5)] } := by
  have hhead : l.head? = some 0x7F := by
    cases l with
    | nil => exact nomatch hl
    | cons a r =>
      rw [List.take_succ_cons, ddpPrefix] at hl
      exact congrArg some (List.cons.inj hl).1
  unfold Hw.message
  rw [if_neg (not_not_intro hhead), if_neg (not_not_intro hl)]

/-- The message of one packet waits, or is counted where four wait. -/
theorem Hw.packetIn_ddp (h : Hw) (p : MctpPacket) (ha : h.side.address ≠ 0) (hp : p.pecOk = true) (ht : p.tagOwner = true)
    (hs : p.som = true) (he : p.eom = true) (hl : p.payload.length ≤ 1029) (hd : p.payload.take 5 = ddpPrefix) :
    h.packetIn p = if 4 ≤ h.side.requests.length then (h.modSide fun x => { x with assembling := none }).inc 0x2401 3
      else (h.modSide fun x => { x with assembling := none }).modSide fun x =>
        { x with requests := x.requests ++ [(h.cc, p.tag + 8 * p.source, p.payload.drop 5)] } :=
  (h.packetIn_single p ha hp ht hs he hl).trans (Hw.message_ddp _ _ _ _ hd)

/-- Settles O13: packets by their fields, and the packet that the controller reads. -/
theorem sidebandMessages : Obligations.SidebandMessages := by
  unfold Obligations.SidebandMessages
  intro s hr
  refine ⟨fun p hp => ?_, fun hn => ?_, fun ha => ⟨fun p hp => ?_, fun p hp ht hs he hl hd hq => ?_, fun p hp ht hs he hl hd hq => ?_,
    fun p hp ht hs he hl => ?_, fun p l hp ht hs he hasm hl => ?_, fun p rest hres => ?_⟩⟩
  · exact hr.leaves .alone 0 _ (.of_eq (Hw.packetIn_none _ p hp) ⟨rfl, rfl⟩)
  · have hnone : ∀ h : Hw, h.side.address = 0 ∨ h.side.responses = [] → h.privateRead = h := fun h hc => by
      unfold Hw.privateRead
      split
      · next hcons => rw [if_pos (hc.resolve_right (by simp [hcons]))]
      · rfl
    exact hr.leaves .alone 0 _ (.of_eq (hnone _ hn) ⟨rfl, rfl⟩)
  · exact hr.leaves .alone 0 _ (.of_eq (Hw.packetIn_bad _ p ha hp) ⟨rfl, rfl⟩)
  · exact hr.leaves .alone 0 _ (.of_eq ((Hw.packetIn_ddp ((s.hw.started .alone).begin 0) p ha hp ht hs he hl hd).trans (if_neg (Nat.not_le.mpr hq)))
      ⟨rfl, rfl⟩)
  · exact hr.leaves .alone 0 _ (.of_eq ((Hw.packetIn_ddp ((s.hw.started .alone).begin 0) p ha hp ht hs he hl hd).trans (if_pos hq)) ⟨rfl, rfl⟩)
  · exact hr.leaves .alone 0 _ (.of_eq (Hw.packetIn_part _ p [] ha hp ht (.inl ⟨hs, rfl⟩) he hl) ⟨rfl, rfl⟩)
  · exact hr.leaves .alone 0 _ (.of_eq (Hw.packetIn_part _ p l ha hp ht (.inr ⟨hs, hasm⟩) he hl) ⟨rfl, rfl⟩)
  · have hread : ∀ h : Hw, h.side.address ≠ 0 → h.side.responses = p :: rest →
        h.privateRead = (h.modSide fun x => { x with responses := rest }).emit (.packet p) := fun h hc hcons => by
      unfold Hw.privateRead
      rw [hcons]
      exact if_neg hc
    exact hr.leaves .alone 0 _ (.of_eq (hread _ ha hres) ⟨rfl, rfl⟩)

end Sys2Proof.Machine

/-! PROOFS. R104: the registers of the dictionary window. -/

namespace Sys2Proof.Machine

open Sys2Proof

/-! ## Requests of the target port -/

/-- A request of the target port that transfers, in a ready machine. -/
theorem State.Ready.onHost {s : State} (hr : s.Ready) (hroom : s.hw.hostReads.length < 16) (c : CcPart) (f : State → State) {P : State → Prop}
    {y : State} (hy : f { s with hw := (s.hw.started c).begin 0 } = y) (hf : y.hw.faults = [])
    (hP : P { y with hw := Hw.settle (s.hw.started c) y.hw }) :
    ∃ t, (.next (s.onHostAt c f) : Host.Outcome State Fault Refusal) = .next t ∧ P t := by
  have hopen : ((s.hw.started c).begin 0).hostReady = true := decide_eq_true hroom
  exact hr.nextAll c 0 (fun x => if x.hw.hostReady then f x else x) ((if_pos hopen).trans hy) hf hP

/-- A request that changes the window alone. -/
theorem State.Ready.hostWindow {s : State} (hr : s.Ready) (hroom : s.hw.hostReads.length < 16) (f : State → State) {w : Window}
    (hy : f { s with hw := (s.hw.started .alone).begin 0 } = { s with win := w, hw := (s.hw.started .alone).begin 0 }) {P : State → Prop}
    (hP : ∀ h, Hw.SameOut h (s.hw.sends []) → P { s with win := w, hw := h }) :
    ∃ t, (.next (s.onHostAt .alone f) : Host.Outcome State Fault Refusal) = .next t ∧ P t :=
  hr.onHost hroom .alone f hy hr.quiet.2.2.2 (hP _ ((Hw.sameOut_settle _ _).trans ⟨rfl, rfl⟩))

/-! ## Strobes -/

/-- All eight bytes are enabled. -/
theorem strobeMask_full : strobeMask 0xFF = 2 ^ 64 - 1 := by decide

/-- A whole word replaces what stood there. -/
theorem strobed_full (old new : Nat) (ho : old < 2 ^ 64) (hn : new < 2 ^ 64) : strobed 0xFF old new = new := by
  unfold strobed
  rw [strobeMask_full, Nat.and_two_pow_sub_one_of_lt_two_pow hn, Nat.and_two_pow_sub_one_of_lt_two_pow ho]
  omega

theorem Window.word_ctrl_lt (w : Window) : w.word 0 < 2 ^ 64 := by
  have hindex := w.index.isLt
  have hsub := w.sub.isLt
  have hop := w.op.isLt
  have hoffset := w.offset.isLt
  show w.index.toNat + w.sub.toNat * 2 ^ 16 + w.op.toNat * 2 ^ 24 + w.offset.toNat * 2 ^ 32 < 2 ^ 64
  omega

/-- A free window takes REQ_CTRL's fields. -/
theorem State.windowWrite_ctrl (s : State) (v : Word64) (hb : s.win.busy = false) :
    s.windowWrite 0 0xFF v = { s with win := s.win.writeCtrl v.toNat } := by
  unfold State.windowWrite
  rw [if_neg (by decide), if_neg (by simp [hb]), if_neg (by decide)]
  exact congrArg (fun n => ({ s with win := s.win.writeCtrl n } : State)) (strobed_full _ _ s.win.word_ctrl_lt v.isLt)

theorem State.windowWrite_length (s : State) (v : Word64) (hb : s.win.busy = false) :
    s.windowWrite 8 0xFF v = { s with win := { s.win with length := BitVec.ofNat 16 v.toNat } } := by
  unfold State.windowWrite
  rw [if_neg (by decide), if_neg (by simp [hb]), if_neg (by decide)]
  exact congrArg (fun n => ({ s with win := { s.win with length := BitVec.ofNat 16 n } } : State))
    (strobed_full _ _ (Nat.lt_trans s.win.length.isLt (by decide)) v.isLt)

theorem State.windowWrite_go (s : State) (v : Word64) (hb : s.win.busy = false) (hv : v.getLsbD 0 = true) :
    s.windowWrite 0x10 0xFF v = s.submit := by
  have hgo : (strobed 0xFF 0 v.toNat).testBit 0 = true := by
    rw [strobed_full _ _ (by decide) v.isLt]
    exact hv
  unfold State.windowWrite
  rw [if_neg (by decide), if_neg (by simp [hb]), if_neg (by decide)]
  exact if_pos hgo

theorem State.windowWrite_data (s : State) (off : Nat) (v : Word64) (hb : s.win.busy = false) (ho : 0x8000 ≤ off) :
    s.windowWrite off 0xFF v = { s with win := s.win.writeData off 0xFF v } := by
  unfold State.windowWrite
  rw [if_neg (by decide), if_neg (by simp [hb]), if_pos ho]

/-! ## DATA -/

/-- The first `n` bytes of a word, put from `a` on. -/
def putWord (a n v : Nat) (d : List Host.Cell) : List Host.Cell :=
  (List.range n).foldl (fun d i => putCell (a + i) (BitVec.ofNat 8 (v / 256 ^ i)) d) d

theorem putWord_succ (a n v : Nat) (d : List Host.Cell) :
    putWord a (n + 1) v d = putCell (a + n) (BitVec.ofNat 8 (v / 256 ^ n)) (putWord a n v d) := by
  simp only [putWord, List.range_succ, List.foldl_append, List.foldl_cons, List.foldl_nil]

theorem wf_putWord (a n v : Nat) (d : List Host.Cell) (h : Memory.wf d = true) : Memory.wf (putWord a n v d) = true := by
  induction n with
  | zero => exact h
  | succ n ih => rw [putWord_succ]; exact wf_putCell _ _ _ ih

theorem readCell_putWord_in (a n v j : Nat) (d : List Host.Cell) (h : Memory.wf d = true) (hj : j < n) :
    readCell (putWord a n v d) (a + j) = BitVec.ofNat 8 (v / 256 ^ j) := by
  induction n with
  | zero => omega
  | succ n ih =>
    rw [putWord_succ]
    by_cases hjn : j = n
    · rw [hjn]
      exact readCell_putCell_self _ _ _ (wf_putWord a n v d h)
    · rw [readCell_putCell_ne _ _ _ _ (by omega)]
      exact ih (by omega)

theorem readCell_putWord_out (a n v k : Nat) (d : List Host.Cell) (hk : k < a ∨ a + n ≤ k) :
    readCell (putWord a n v d) k = readCell d k := by
  induction n with
  | zero => rfl
  | succ n ih =>
    rw [putWord_succ, readCell_putCell_ne _ _ _ _ (by omega)]
    exact ih (by omega)

theorem Window.writeData_full (w : Window) (off : Nat) (v : Word64) :
    w.writeData off 0xFF v = { w with data := putWord (off - 0x8000) 8 v.toNat w.data } := by
  have hbit : ∀ i ∈ List.range 8, (0xFF : BitVec 8).getLsbD i = true := by decide
  exact congrArg (fun d => ({ w with data := d } : Window)) (foldl_congr_mem _ (fun d i hi => if_pos (hbit i hi)) _)

/-- Settles O24: a free window takes each register's fields, a busy one drops them. -/
theorem windowRegisters : Obligations.WindowRegisters := by
  unfold Obligations.WindowRegisters
  intro s v hr hroom
  refine ⟨fun hb => ⟨?_, ?_, fun hv => ?_, fun hwf i => ?_⟩, fun hb off hoff => ?_, ?_⟩
  · exact hr.hostWindow hroom _ (State.windowWrite_ctrl { s with hw := (s.hw.started .alone).begin 0 } v hb) fun h hh => ⟨rfl, hh⟩
  · exact hr.hostWindow hroom _ (State.windowWrite_length { s with hw := (s.hw.started .alone).begin 0 } v hb) fun h hh => ⟨rfl, hh⟩
  · exact hr.hostWindow hroom _ (State.windowWrite_go { s with hw := (s.hw.started .alone).begin 0 } v hb hv) fun h hh => ⟨rfl, hh⟩
  · have hoff : (BitVec.ofNat 16 (0x8000 + 8 * i)).toNat / 8 * 8 = 0x8000 + 8 * i := by
      have hi := i.isLt
      rw [BitVec.toNat_ofNat, Nat.mod_eq_of_lt (by omega)]
      omega
    have hbase : 0x8000 + 8 * i.val - 0x8000 = 8 * i.val := by omega
    show ∃ t, (.next (s.onHostAt .alone fun x => x.windowWrite ((BitVec.ofNat 16 (0x8000 + 8 * i)).toNat / 8 * 8) 0xFF v) :
      Host.Outcome State Fault Refusal) = .next t ∧ _
    rw [hoff]
    refine hr.hostWindow hroom _ (State.windowWrite_data { s with hw := (s.hw.started .alone).begin 0 } _ v hb (by omega)) fun h hh => ?_
    rw [s.win.writeData_full, hbase]
    exact ⟨fun j => readCell_putWord_in _ 8 _ _ _ hwf j.isLt, fun a ha => readCell_putWord_out _ 8 _ _ _ ha, rfl, hh⟩
  · have hdrop : ∀ x : State, x.win.busy = true →
        x.windowWrite (off.toNat / 8 * 8) 0xFF v = { x with hw := x.hw.inc 0x2400 3 } := fun x hx => by
      have hb : busyDrops (off.toNat / 8 * 8) = true := by
        simp only [busyDrops, Bool.or_eq_true, decide_eq_true_eq]
        omega
      unfold State.windowWrite
      rw [if_neg (by decide), if_pos ⟨hx, hb⟩]
    refine hr.onHost hroom .alone _ (hdrop { s with hw := (s.hw.started .alone).begin 0 } hb) hr.quiet.2.2.2 ⟨rfl, ?_⟩
    exact (Hw.settle_get _ _ _ _ (by decide)).trans (Hw.get_inc _ _ _)
  · have hdone : ∀ x : State, x.windowWrite 0x18 0xFF 2 = { x with win := { x.win with done := false } } := fun x => by
      unfold State.windowWrite
      rw [if_neg (by decide), if_neg (by simp [busyDrops])]
      rfl
    exact hr.hostWindow hroom _ (hdone _) fun h hh => ⟨rfl, hh⟩

end Sys2Proof.Machine

/-! PROOFS. Occurrences that are counted and logged. -/

namespace Sys2Proof.Machine

open Sys2Proof

/-! ## A counter and its event -/

/-- An event writes the occurrences of its family alone. -/
theorem Hw.getAt_event_ne (h : Hw) (fam tag sev : Nat) (f p : Option Nat) (i s o : Nat) (hne : odKey i s o ≠ odKey 0xC030 (fam + 1) 0) :
    (h.event fam tag sev f p).getAt i s o = h.getAt i s o := h.getAt_setAt_ne i s o _ _ _ _ hne

theorem Hw.get_event_ne (h : Hw) (fam tag sev : Nat) (f p : Option Nat) (i s : Nat) (hne : odKey i s 0 ≠ odKey 0xC030 (fam + 1) 0) :
    (h.event fam tag sev f p).get i s = h.get i s := h.getAt_event_ne fam tag sev f p i s 0 hne

theorem Hw.occurred_inc_ne (h : Hw) (i s fam : Nat) (hne : odKey 0xC030 (fam + 1) 0 ≠ odKey i s 0) : (h.inc i s).occurred fam = h.occurred fam :=
  h.get_inc_ne _ _ _ _ hne

/-- What is counted and logged shows in its counter. -/
theorem Hw.get_counted (h : Hw) (i s fam tag sev : Nat) (f p : Option Nat) (hne : odKey i s 0 ≠ odKey 0xC030 (fam + 1) 0) :
    ((h.inc i s).event fam tag sev f p).get i s = (h.get i s + 1) % 2 ^ 64 :=
  ((h.inc i s).get_event_ne fam tag sev f p i s hne).trans (h.get_inc i s)

/-- And in the occurrences of its family. -/
theorem Hw.occurred_counted (h : Hw) (i s fam tag sev : Nat) (f p : Option Nat) (hne : odKey 0xC030 (fam + 1) 0 ≠ odKey i s 0) :
    ((h.inc i s).event fam tag sev f p).occurred fam = (h.occurred fam + 1) % 2 ^ 64 := by
  rw [Hw.occurred_event, h.occurred_inc_ne i s fam hne]

end Sys2Proof.Machine

/-! PROOFS. R48, R49, R52 and R57: reads of NOTICE and accesses that the target port does not allow. -/

namespace Sys2Proof.Machine

open Sys2Proof

/-! ## Responses -/

theorem Hw.withReads_self (h : Hw) (hn : h.hostReads = []) : { h with hostReads := [] } = h := hn ▸ rfl

/-- With no read outstanding an integrator that is ready takes the response at once. -/
theorem Hw.respond_ready (h : Hw) (tag : BitVec 8) (d st : Nat) (hn : h.hostReads = []) (hr : h.pins.rspReady = true) :
    h.respond tag d st = h.emit (.response tag (BitVec.ofNat 64 d) st) := by
  unfold Hw.respond Hw.hostTransfer
  dsimp only
  rw [hn, List.nil_append]
  dsimp only
  rw [if_pos hr, h.withReads_self hn]

/-- While it is not ready, the response waits behind the others. -/
theorem Hw.respond_wait (h : Hw) (tag : BitVec 8) (d st : Nat) (hr : h.pins.rspReady = false) :
    h.respond tag d st = { h with hostReads := h.hostReads ++ [(tag, BitVec.ofNat 64 d, st)] } := by
  unfold Hw.respond Hw.hostTransfer
  dsimp only
  split
  · rw [if_neg (by simp [hr])]
  · rfl

/-- Whether it transfers or waits, nothing but the reads outstanding and the port changes. -/
theorem Hw.respond_keeps (h : Hw) (tag : BitVec 8) (d st : Nat) :
    (h.respond tag d st).events = h.events ∧ (h.respond tag d st).trace = h.trace ∧ (h.respond tag d st).faults = h.faults := by
  unfold Hw.respond Hw.hostTransfer
  dsimp only
  split
  · split <;> exact ⟨rfl, rfl, rfl⟩
  · exact ⟨rfl, rfl, rfl⟩

/-! ## Reads -/

/-- A privileged read of NOTICE is answered with its value. -/
theorem State.portRead_notice (s : State) (strb : BitVec 8) (tag : BitVec 8) (hs : strobeOk strb = true) :
    s.portRead 0x02010010 strb true tag = { s with hw := (s.hw.readNotice strb).respond tag s.hw.events.notice 0 } := by
  unfold State.portRead
  rw [if_neg (by simp [hs]), if_neg (by simp)]
  rfl

theorem State.portRead_denied (s : State) (tag : BitVec 8) :
    s.portRead 0x02010010 0xFF false tag = { s with hw := ((s.hw.inc 0x2001 1).event 0 (52 * 16) 3 none none).respond tag 0 1 } := by
  unfold State.portRead
  rw [if_neg (by decide), if_pos (by decide)]

theorem State.portRead_badStrobe (s : State) (a : Nat) (strb : BitVec 8) (priv : Bool) (tag : BitVec 8) (hs : strobeOk strb = false) :
    s.portRead a strb priv tag = { s with hw := s.hw.badStrobe.respond tag 0 2 } := by
  unfold State.portRead
  rw [if_pos (by simp [hs])]

theorem State.portRead_reserved (s : State) (a : Nat) (tag : BitVec 8) (ha : regionOf a = .reserved) :
    s.portRead a 0xFF false tag = { s with hw := s.hw.disallowed.respond tag 0 0 } := by
  have hoff : offMap a = true := by simp [offMap, ha]
  have hword : s.portWord a = 0 := by simp [State.portWord, ha]
  unfold State.portRead
  rw [if_neg (by decide), ha, if_neg (by decide)]
  dsimp only
  rw [if_neg (by simp), if_pos hoff, hword]

/-! ## The commands -/

/-- A read of the port in a ready machine, by the island that it leaves. -/
theorem State.Ready.portRead {s : State} (hr : s.Ready) (hroom : s.hw.hostReads.length < 16) (f : State → State) {y : Hw} {P : State → Prop}
    (hy : f { s with hw := (s.hw.started .portRead).begin 0 } = { s with hw := y }) (hf : y.faults = [])
    (hP : P { s with hw := Hw.settle (s.hw.started .portRead) y }) :
    ∃ t, (.next (s.onHostAt .portRead f) : Host.Outcome State Fault Refusal) = .next t ∧ P t :=
  hr.onHost hroom .portRead f hy hf hP

/-- NOTICE after a command that raises nothing. -/
theorem Hw.notice_settle (b h : Hw) (hi : h.Idle) : (Hw.settle b h).events.notice = h.events.notice := by
  obtain ⟨l, hl⟩ := Hw.settle_of_idle_events b h hi
  rw [hl]

/-- The read clears NOTICE where it enables the low half. -/
theorem Hw.readNotice_clears (h : Hw) (strb : BitVec 8) (hs : strb = 0xFF ∨ strb = 0x0F) :
    h.readNotice strb = { h with events := { h.events with notice := 0 } } := by
  unfold Hw.readNotice
  rw [if_neg]
  rcases hs with rfl | rfl <;> decide

/-- Settles O23: a read of NOTICE, and each access that is counted, by its fields. -/
theorem targetAccesses : Obligations.TargetAccesses := by
  unfold Obligations.TargetAccesses
  intro s tag hr hroom
  obtain ⟨hraised, hmade, hfired, hfaults⟩ := hr.quiet
  refine ⟨fun strb hs => ?_, fun hw => ?_, fun hn hready => ⟨?_, ?_, fun addr strb hs => ?_, fun addr ha => ?_⟩, fun addr ha => ?_, fun addr ha => ?_⟩
  · have hok : strobeOk strb = true := by rcases hs with rfl | rfl <;> rfl
    have hclear := ((s.hw.started .portRead).begin 0).readNotice_clears strb hs
    have hnotice : ∀ h : Hw, h.Idle → h.events.notice = 0 → (Hw.settle (s.hw.started .portRead) h).events.notice = 0 :=
      fun h hi hz => (Hw.notice_settle _ h hi).trans hz
    obtain ⟨hevents, htrace, hfault⟩ := (((s.hw.started .portRead).begin 0).readNotice strb).respond_keeps tag s.hw.events.notice 0
    rw [hclear] at hevents htrace hfault
    refine hr.portRead hroom _ ((State.portRead_notice _ strb tag hok).trans (congrArg _ (congrArg (Hw.respond · tag _ 0) hclear)))
      (hfault.trans hfaults) ⟨?_, fun hn hready => ?_, fun hready => ?_, rfl, rfl⟩
    · exact hnotice _ ⟨(congrArg Events.raised hevents).trans hraised, (congrArg Trace.made htrace).trans hmade,
        (congrArg Trace.fired htrace).trans hfired⟩ (congrArg Events.notice hevents)
    · refine (Hw.settle_out _ _).trans (congrArg Hw.out (Hw.respond_ready _ tag _ 0 ?_ ?_))
      · exact hn
      · exact hready
    · rw [Hw.respond_wait]
      · exact ⟨Hw.settle_hostReads _ _, Hw.settle_out _ _⟩
      · exact hready
  · refine hr.portRead hroom _ ((State.portRead_notice _ 0xF0 tag rfl).trans (congrArg _ (Hw.respond_wait _ tag _ 0 hw))) hfaults ⟨?_, ?_⟩
    · exact Hw.notice_settle _ _ ⟨hraised, hmade, hfired⟩
    · exact s.leaves_settle _ ⟨rfl, rfl⟩
  · refine hr.portRead hroom _ ((State.portRead_notice _ 0xF0 tag rfl).trans (congrArg _ (Hw.respond_ready _ tag _ 0 hn hready))) hfaults ⟨?_, ?_⟩
    · exact Hw.notice_settle _ _ ⟨hraised, hmade, hfired⟩
    · exact s.leaves_settle _ ⟨rfl, rfl⟩
  · refine hr.portRead hroom _ ((State.portRead_denied _ tag).trans (congrArg _ (Hw.respond_ready _ tag _ 1 hn hready))) hfaults ⟨?_, ?_, ?_⟩
    · exact Hw.settle_out _ _
    · exact (Hw.settle_get _ _ _ _ (by decide)).trans (Hw.get_counted _ 0x2001 1 0 _ _ _ _ (by decide))
    · exact (Hw.occurred_settle _ _ _).trans (Hw.occurred_counted _ 0x2001 1 0 _ _ _ _ (by decide))
  · refine hr.portRead hroom _ ((State.portRead_badStrobe _ _ strb true tag hs).trans (congrArg _ (Hw.respond_ready _ tag _ 2 hn hready)))
      hfaults ⟨?_, ?_, rfl⟩
    · exact Hw.settle_out _ _
    · exact (Hw.settle_get _ _ _ _ (by decide)).trans (Hw.get_counted _ 0x2002 1 0 _ _ _ _ (by decide))
  · refine hr.portRead hroom _ ((State.portRead_reserved _ _ tag ha).trans (congrArg _ (Hw.respond_ready _ tag _ 0 hn hready)))
      hfaults ⟨?_, ?_, ?_, rfl, rfl⟩
    · exact Hw.settle_out _ _
    · exact (Hw.settle_get _ _ _ _ (by decide)).trans (Hw.get_counted _ 0x2000 1 0 _ _ _ _ (by decide))
    · exact (Hw.occurred_settle _ _ _).trans (Hw.occurred_counted _ 0x2000 1 0 _ _ _ _ (by decide))
  · have hdrop : ∀ h : Hw, h.dropWrite (addr.toNat / 8 * 8) 0xFF true = h.disallowed := fun h => by
      unfold Hw.dropWrite
      rw [if_neg (by decide), ha]
      rfl
    refine hr.onHost hroom .alone _ (congrArg (fun h => ({ s with hw := h } : State)) (hdrop _)) hfaults ⟨?_, ?_, rfl, rfl, ?_, ?_⟩
    · exact (Hw.settle_get _ _ _ _ (by decide)).trans (Hw.get_counted _ 0x2000 1 0 _ _ _ _ (by decide))
    · exact Hw.settle_out _ _
    · exact Hw.settle_facets _ _
    · exact Hw.settle_seqs _ _
  · have hdrop : ∀ h : Hw, h.dropWrite (addr.toNat / 8 * 8) 0xFF false = (h.inc 0x2001 1).event 0 (52 * 16) 3 none none := fun h => by
      unfold Hw.dropWrite
      rw [if_neg (by decide), ha]
      rfl
    refine hr.onHost hroom .alone _ (congrArg (fun h => ({ s with hw := h } : State)) (hdrop _)) hfaults ⟨?_, ?_, rfl⟩
    · exact (Hw.settle_get _ _ _ _ (by decide)).trans (Hw.get_counted _ 0x2001 1 0 _ _ _ _ (by decide))
    · exact Hw.settle_out _ _

end Sys2Proof.Machine

/-! PROOFS. R42 and R396: the count of deadline misses under a facet number out of range. -/

namespace Sys2Proof.Machine

open Sys2Proof

/-! ## A miss whose counter is the log's sequence number -/

/-- A facet number that no facet has: its entry of 0x9015 has the key of 0xC004.01, the sequence number of the event log. -/
def strayFacet : Nat := (0xC004 - 0x9015) * 256

/-- A DL sequence past its deadline, on that facet. -/
def straySeq : Seq := { lateSeq with com := { lateVertex with facet := strayFacet, deadline := 0 } }

/-- A record that waits in the intake, as EVR makes it. -/
def strayRecord : EventRec :=
  { seq := 10, code := 0, stamp := 0, severity := 3, summary := false, snap := [], partSeq := 0, unit := 0, facet := none, part := none, count := 1,
    step := 0, detail := [], dueMem := false, duePersist := false }

/-- An engine in OPERATIONAL with such a sequence and such a record, whose code a snapshot rule matches: the end of the next command of the core
attaches the cc's snapshot to the record and takes eight sequence numbers. -/
def strayState : State :=
  { State.reset with hw := { Hw.reset with
      clk := { Hw.reset.clk with g := 1000000 }
      eng := { Hw.reset.eng with state := .operational }
      events := { Hw.reset.events with intake := [strayRecord] }
      seqs := [(5, straySeq)]
      od := [(odKey 0xC020 1 0, 0x10000)] } }

theorem strayState_ready : strayState.Ready := ⟨rfl, rfl, rfl, ⟨rfl, rfl, rfl, rfl⟩⟩

/-- The miss adds 1 to the key, and the snapshot 8. -/
theorem misses_strayState :
    (Hw.settle (strayState.hw.started (.miss 5)) (((strayState.hw.started (.miss 5)).begin 9).deadlineMiss 5)).get 0x9015 (strayFacet + 1) ≠
      (strayState.hw.get 0x9015 (strayFacet + 1) + 1) % 2 ^ 64 := by decide +kernel

/-- Refutes O21: the statement bounds no facet number, and the miss of a sequence whose facet number gives its counter the key of the log's
sequence number is counted with the eight numbers that a snapshot takes. -/
theorem not_delaysAndDeadlines : ¬ Obligations.DelaysAndDeadlines := by
  unfold Obligations.DelaysAndDeadlines
  intro h
  obtain ⟨-, -, hmiss, -⟩ := h strayState 0 strayState_ready
  obtain ⟨t, ht, -, hcount, -⟩ := hmiss 5 straySeq rfl rfl (by decide) rfl (by decide +kernel) (by decide +kernel)
  have he : exec (.deadlineMiss 5) strayState = .next (strayState.onCoreAt (.miss 5) 9 fun h => h.deadlineMiss 5) := rfl
  rw [he, strayState.onCoreAt_ready _ _ _ strayState_ready] at ht
  injection ht with ht
  subst ht
  exact misses_strayState hcount

end Sys2Proof.Machine

/-! PROOFS. R99, R102, R111 and R112: the writes of the retention store and the end of a drain. -/

namespace Sys2Proof.Machine

open Sys2Proof

/-! ## Reservations -/

/-- A fold that inserts, at each key, a value that the key gives. -/
theorem Map.find?_foldl_insert {β : Type} (g : Nat → β) (l : List Nat) (m : Map β) {k : Nat} (hk : k ∈ l) :
    Map.find? (l.foldl (fun m k => Map.insert m k (g k)) m) k = some (g k) := by
  induction l generalizing m with
  | nil => exact absurd hk (by simp)
  | cons a r ih =>
    rw [List.foldl_cons]
    by_cases hr : k ∈ r
    · exact ih _ hr
    · obtain rfl : k = a := by simpa [hr] using hk
      have hkeep : ∀ (l : List Nat) (m : Map β), k ∉ l → Map.find? (l.foldl (fun m k => Map.insert m k (g k)) m) k = Map.find? m k := by
        intro l
        induction l with
        | nil => exact fun _ _ => rfl
        | cons b t iht =>
          intro m hn
          rw [List.foldl_cons, iht _ fun h => hn (List.mem_cons_of_mem _ h)]
          exact Map.find?_insert_ne _ _ _ _ fun h => hn (h ▸ List.mem_cons_self)
      rw [hkeep r _ hr]
      exact Map.find?_insert_self _ _ _

/-- The value that is saved of one reserved counter. -/
def State.reserved (s : State) (k : Nat) : Nat :=
  let v := Map.getD (match s.gnm.rs.counters with | some r => r.values | none => []) k 0
  if s.hw.highWater k + 2 ^ 19 < v then v else s.hw.highWater k + 2 ^ 20

theorem State.reservations_eq (s : State) : s.reservations = highWaterKeys.foldl (fun m k => Map.insert m k (s.reserved k)) [] := rfl

/-- A saved value lies above the live one. -/
theorem State.reservations_above (s : State) {k : Nat} (hk : k ∈ highWaterKeys) :
    ∃ v, Map.find? s.reservations k = some v ∧ s.hw.highWater k < v := by
  rw [s.reservations_eq]
  refine ⟨_, Map.find?_foldl_insert _ _ _ hk, ?_⟩
  unfold State.reserved
  dsimp only
  generalize Map.getD (match s.gnm.rs.counters with | some r => r.values | none => []) k 0 = v
  split <;> omega

theorem KeptRecord.make_values (m : Map Nat) : (KeptRecord.make m).values = m := rfl

/-! ## The end of a drain -/

/-- The machine as the end of a drain leaves it, before an entry to RETAIN. -/
def State.quiesce (s : State) : State :=
  { s.allWritten with hw :=
    if (s.allWritten.hw.enter .quiesced).eng.pendingTarget = some .operational ∧ (s.allWritten.hw.enter .quiesced).tableShort
      then (s.allWritten.hw.enter .quiesced).setTarget none else s.allWritten.hw.enter .quiesced }

theorem State.drainComplete_of_drained (s : State) (hs : s.hw.eng.state = .draining) (hd : s.hw.drained = true) :
    s.drainComplete = s.quiesce.beginRetain := if_pos ⟨hs, hd⟩

/-- Without a target OPERATIONAL, the island enters QUIESCED. -/
theorem State.quiesce_hw (s : State) (ht : s.hw.eng.pendingTarget ≠ some .operational) : s.quiesce.hw = s.allWritten.hw.enter .quiesced := by
  refine if_neg fun h => ht ?_
  rw [← s.sameStored_allWritten.eng]
  exact h.1

theorem Hw.enter_spec (h : Hw) (st : EngState) :
    (h.enter st).eng = { h.eng with state := st } ∧ (h.enter st).facets = h.facets ∧ (h.enter st).pins = h.pins ∧ (h.enter st).faults = h.faults ∧
      (h.enter st).get 0x1103 1 = h.eng.state.code := by
  refine ⟨rfl, rfl, rfl, rfl, ?_⟩
  show ((h.set 0x1103 1 h.eng.state.code).inc 0x1104 1).get 0x1103 1 = _
  rw [Hw.get_inc_ne _ _ _ _ _ (by decide)]
  exact Hw.get_set _ _ _ _

/-- What a drain without a target OPERATIONAL leaves. -/
theorem State.quiesce_spec (s : State) (ht : s.hw.eng.pendingTarget ≠ some .operational) :
    s.quiesce.hw.eng = { s.hw.eng with state := .quiesced } ∧ s.quiesce.hw.facets = s.hw.facets ∧ s.quiesce.hw.pins = s.hw.pins ∧
      s.quiesce.hw.faults = s.hw.faults ∧ s.quiesce.hw.get 0x1103 1 = s.hw.eng.state.code ∧
      s.quiesce.gnm.rs.masks = some s.hw.maskRecord ∧ s.quiesce.gnm.rs.counters = some (.make s.reservations) := by
  have hw := s.sameStored_allWritten
  obtain ⟨heng, hfacets, hpins, hfaults, hleft⟩ := s.allWritten.hw.enter_spec .quiesced
  obtain ⟨hm, hc⟩ := s.allWritten_records
  rw [s.quiesce_hw ht, heng, hfacets, hpins, hfaults, hleft, hw.eng, hw.facets, hw.pins, hw.faults]
  exact ⟨rfl, rfl, rfl, rfl, rfl, hm, hc⟩

/-- The end of a drain, in a ready machine that enters no RETAIN. -/
theorem State.Ready.drainEnds {s : State} (hr : s.Ready) (hs : s.hw.eng.state = .draining) (hd : s.hw.drained = true)
    (ht : s.hw.eng.pendingTarget ≠ some .operational) (hn : s.hw.pins.retReq = false ∨ s.hw.eng.pendingTarget ≠ none) :
    ∃ t, exec .engineDrainComplete s = .next t ∧ t.hw.eng = { s.hw.eng with state := .quiesced } ∧ t.hw.get 0x1103 1 = 5 ∧
      t.hw.facets = s.hw.facets ∧ t.gnm.rs.masks = some s.hw.maskRecord ∧ t.gnm.rs.counters = some (.make s.reservations) := by
  obtain ⟨heng, hfacets, hpins, hfaults, hleft, hm, hc⟩ := State.quiesce_spec (s.withHw ((s.hw.started .alone).begin 0)) ht
  have hdone : State.drainComplete (s.withHw ((s.hw.started .alone).begin 0)) = (s.withHw ((s.hw.started .alone).begin 0)).quiesce := by
    rw [State.drainComplete_of_drained (s.withHw ((s.hw.started .alone).begin 0)) hs hd, State.beginRetain_of_not]
    rw [hpins, heng]
    exact hn.imp id .inr
  rw [State.withHw_hw] at heng hfacets hpins hfaults hleft hm
  generalize (s.withHw ((s.hw.started .alone).begin 0)).quiesce = x at hdone heng hfacets hpins hfaults hleft hm hc
  refine hr.nextAll .alone 0 State.drainComplete hdone (hfaults.trans hr.quiet.2.2.2) ?_
  rw [Hw.settle_eng, Hw.settle_facets, heng, hfacets, hm, hc, Hw.settle_get _ _ _ _ (by decide), hleft]
  exact ⟨rfl, congrArg EngState.code hs, rfl, rfl, rfl⟩

/-! ## DRAIN_LIMIT -/

/-- What DRAIN_LIMIT does to one facet. -/
def Hw.limitFacet (a0 : Hw) (f : Nat) : Hw :=
  match ((a0.endPending f).facet f).state with
  | .draining => (a0.endPending f).modFacet f fun x => { x with stopAtCommit := true }
  | .exclusive => ((a0.endPending f).teardown f true 2).teardown f false 2
  | _ => a0.endPending f

/-- A draining facet without a PENDING job stops at its next commit, and one in STANDBY stays. -/
theorem Hw.limitFacet_eq (a : Hw) (f : Nat) (hs : (a.facet f).state = .draining ∨ (a.facet f).state = .standby)
    (hj : (a.job f false).state ≠ .pending) :
    a.limitFacet f = if (a.facet f).state = .draining then a.modFacet f fun x => { x with stopAtCommit := true } else a := by
  have he : a.endPending f = a := if_neg hj
  unfold Hw.limitFacet
  rw [he]
  rcases hs with hs | hs
  · rw [hs, if_pos rfl]
  · rw [hs, if_neg (by decide)]

/-- Of several facets, each at most once. -/
theorem Hw.limitFacets (l : List Nat) (hl : l.Nodup) (a : Hw)
    (hs : ∀ f ∈ l, (a.facet f).state = .draining ∨ (a.facet f).state = .standby) (hj : ∀ f ∈ l, (a.job f false).state ≠ .pending) :
    (l.foldl Hw.limitFacet a).eng = a.eng ∧ (l.foldl Hw.limitFacet a).faults = a.faults ∧
      (∀ f, f ∉ l → (l.foldl Hw.limitFacet a).facet f = a.facet f) ∧
      ∀ f ∈ l, (l.foldl Hw.limitFacet a).facet f = if (a.facet f).state = .draining then { a.facet f with stopAtCommit := true } else a.facet f := by
  induction l generalizing a with
  | nil => exact ⟨rfl, rfl, fun _ _ => rfl, fun _ h => absurd h (by simp)⟩
  | cons k r ih =>
    obtain ⟨hk, hr⟩ := List.nodup_cons.mp hl
    rw [List.foldl_cons]
    have hstep := a.limitFacet_eq k (hs k List.mem_cons_self) (hj k List.mem_cons_self)
    have hother : ∀ f, f ≠ k → (a.limitFacet k).facet f = a.facet f := fun f hf => by
      rw [hstep]
      split
      · exact Hw.facet_modFacet_ne _ _ _ _ hf
      · rfl
    have hself : (a.limitFacet k).facet k = if (a.facet k).state = .draining then { a.facet k with stopAtCommit := true } else a.facet k := by
      rw [hstep]
      split
      · exact Hw.facet_modFacet _ _ _
      · rfl
    have hkeep : (a.limitFacet k).eng = a.eng ∧ (a.limitFacet k).faults = a.faults ∧ (a.limitFacet k).jobs = a.jobs := by
      rw [hstep]
      split <;> exact ⟨rfl, rfl, rfl⟩
    obtain ⟨heng, hfaults, hjobs⟩ := hkeep
    have hne : ∀ f ∈ r, f ≠ k := fun f hf h => hk (h ▸ hf)
    obtain ⟨he, hf, hout, hin⟩ := ih hr (a.limitFacet k)
      (fun f hf => by rw [hother f (hne f hf)]; exact hs f (List.mem_cons_of_mem _ hf))
      (fun f hf => by rw [Hw.job, hjobs]; exact hj f (List.mem_cons_of_mem _ hf))
    refine ⟨he.trans heng, hf.trans hfaults, fun f hn => ?_, fun f hm => ?_⟩
    · obtain ⟨hfk, hfr⟩ := not_or.mp (mt List.mem_cons.mpr hn)
      rw [hout f hfr, hother f hfk]
    · rcases List.mem_cons.mp hm with rfl | hm
      · rw [hout f hk, hself]
      · rw [hin f hm, hother f (hne f hm)]

/-- The island with DRAIN_LIMIT noted. -/
def Hw.atLimit (h : Hw) : Hw := { h with eng := { h.eng with limitHit := true } }

theorem Hw.atLimit_spec (h : Hw) : h.atLimit.eng.limitHit = true ∧ (∀ f, h.atLimit.facet f = h.facet f) ∧ (∀ f u, h.atLimit.job f u = h.job f u) :=
  ⟨rfl, fun _ => rfl, fun _ _ => rfl⟩

/-- DRAIN_LIMIT has passed. -/
theorem Hw.drainLimit_of_passed (h : Hw) (hs : h.eng.state = .draining) (hl : h.eng.limitHit = false)
    (hn : h.eng.drainNs + 1000000 * h.get 0x1105 1 ≤ h.now) :
    h.drainLimit = (List.range 16).foldl Hw.limitFacet h.atLimit :=
  if_pos ⟨hs, by simp [hl], hn⟩

/-- Settles O27: the store's writes, the drain's end and its limit, and the target that follows. -/
theorem retentionAndDrains : Obligations.RetentionAndDrains := by
  unfold Obligations.RetentionAndDrains
  refine ⟨fun s hr => ⟨fun hn => ?_, ?_, ?_⟩, fun s hr hs => ⟨fun hd ht hret => ?_, fun hd ht => ?_, fun hd => ?_, fun hl hn hf hj => ?_,
    fun hn => ?_⟩, fun h hs ht => ?_⟩
  · have hwrite : State.writeImage { s with hw := (s.hw.started .alone).begin 0 } =
        State.storeImage { s with hw := (s.hw.started .alone).begin 0 } s.pendingBytes := if_neg hn
    have hcount : ∀ x : State, (x.storeImage s.pendingBytes).hw.get 0x1200 1 = (x.hw.get 0x1200 1 + 1) % 2 ^ 64 := fun x => by
      refine (Hw.get_inc _ _ _).trans ?_
      exact congrArg (fun n => (n + 1) % 2 ^ 64) (Hw.get_set_ne _ _ _ _ _ _ (by decide))
    refine hr.nextAll .alone 0 State.writeImage hwrite hr.quiet.2.2.2 ⟨rfl, ?_, Hw.settle_out _ _, Hw.settle_seqs _ _, rfl, rfl⟩
    exact (Hw.settle_get _ _ _ _ (by decide)).trans (hcount _)
  · obtain ⟨hm, hc⟩ := State.writeRecords_records (s.withHw ((s.hw.started .alone).begin 0))
    have hstored := State.sameStored_writeRecords (s.withHw ((s.hw.started .alone).begin 0))
    refine hr.nextAll .alone 0 State.writeRecords rfl (hstored.faults.trans hr.quiet.2.2.2) ⟨hm, hc, rfl, ?_⟩
    exact (Hw.settle_seqs _ _).trans hstored.seqs
  · have hsaved : ∀ k ∈ highWaterKeys, ∃ v, Map.find? (KeptRecord.make s.reservations).values k = some v ∧ s.hw.highWater k < v :=
      fun k hk => by
        rw [KeptRecord.make_values]
        exact s.reservations_above hk
    have hr2 := hr.nextAll (P := fun t => t.gnm.rs.counters = some (.make s.reservations) ∧ t.gnm.rs.masks = s.gnm.rs.masks ∧
      t.gnm.rs.image = s.gnm.rs.image) .alone 0 State.saveCounters rfl hr.quiet.2.2.2 ⟨rfl, rfl, rfl⟩
    obtain ⟨t, he, hc, hm, hi⟩ := hr2
    exact ⟨t, _, he, hc, hm, hi, hsaved⟩
  · obtain ⟨t, he, heng, hleft, hfacets, hm, hc⟩ := hr.drainEnds hs hd (by simp [ht]) (.inl hret)
    exact ⟨t, he, by rw [heng], hleft, hfacets, hm, hc⟩
  · obtain ⟨t, he, heng, -, hfacets, -, -⟩ := hr.drainEnds hs hd (by simp [ht]) (.inr (by simp [ht]))
    exact ⟨t, he, by rw [heng], by rw [heng]; exact ht, hfacets⟩
  · have hno : State.drainComplete { s with hw := (s.hw.started .alone).begin 0 } = { s with hw := (s.hw.started .alone).begin 0 } :=
      if_neg fun h => by
        have : s.hw.drained = true := h.2
        simp [hd] at this
    exact hr.leavesAll .alone 0 State.drainComplete hno hr.quiet.2.2.2 ⟨rfl, rfl⟩
  · have hpass := Hw.drainLimit_of_passed ((s.hw.started .alone).begin 0) hs hl hn
    obtain ⟨hlimit, hfacet, hjob⟩ := ((s.hw.started .alone).begin 0).atLimit_spec
    obtain ⟨heng, -, -, hin⟩ := Hw.limitFacets (List.range 16) List.nodup_range ((s.hw.started .alone).begin 0).atLimit
      (fun f h => by rw [hfacet]; exact hf ⟨f, List.mem_range.mp h⟩) (fun f h => by rw [hjob]; exact hj ⟨f, List.mem_range.mp h⟩)
    refine hr.next .alone 0 Hw.drainLimit ?_
    dsimp only
    rw [hpass, Hw.settle_eng, heng, hlimit]
    refine ⟨rfl, fun f => ?_⟩
    rw [Hw.settle_facet, hin f (List.mem_range.mpr f.isLt), hfacet]
    rfl
  · have hwait : ∀ h : Hw, h.now < h.eng.drainNs + 1000000 * h.get 0x1105 1 → h.drainLimit = h := fun h hn =>
      if_neg fun hc => Nat.not_le.mpr hn hc.2.2
    have hno := hwait ((s.hw.started .alone).begin 0) hn
    exact hr.leaves .alone 0 Hw.drainLimit (.of_eq hno ⟨rfl, rfl⟩)
  · have he : h.followTarget = (h.setTarget none).enter .config := by
      unfold Hw.followTarget
      rw [if_pos hs, ht]
    rw [he]
    exact ⟨rfl, rfl, rfl⟩

end Sys2Proof.Machine

/-! PROOFS. R410 and R411: the entry of a facet, in a cc whose end serves a pinned batch of another facet. -/

namespace Sys2Proof.Machine

open Sys2Proof

/-! ## A facet whose entry flips a sequence of another facet -/

/-- A sequence in DECODE of facet 1. -/
def pinnedVertex : Vertex :=
  { lateVertex with state := .decode, facet := 1, kvTokens := 1, generated := 1, cls := .be, flags := 0, deadline := 0 }

/-- A place of that sequence in a plan of facet 1. -/
def pinnedPlace : Place :=
  { slot := 5, part := 9, kind := .decode, first := 0, count := 1, start := 1, tokenNum := 1, endsPrompt := false, model := 0, vslot := 0,
    version := 0, reserved := 0, isOpen := true, noKv := false, tree := none }

/-- The plan. -/
def pinnedPlan : Plan :=
  { step := 1, places := [pinnedPlace], positions := [], charge := 0, carry := false, tags := [], doneIds := [], frozen := false, argsNext := 0,
    listsSent := false, bins := [], exits := [] }

/-- Facet 0 in STANDBY with 16 MiB of argument space, driven and up; its pinned batch is enabled and names the sequence of facet 1, for which a
newer version is CURRENT. -/
def pinnedHw : Hw :=
  { Hw.reset with
    eng := { Hw.reset.eng with state := .operational }
    pins := { Hw.reset.pins with facetUp := 1 }
    facets := [(0, { Facet.reset with state := .standby }), (1, { Facet.reset with plans := [pinnedPlan] })]
    seqs := [(5, { lateSeq with com := pinnedVertex, cur := pinnedVertex })]
    dom := [(odKey 0x5030 1 0, leBytes 8 (handleOf 5 pinnedVertex))]
    od := [(odKey 0x1012 1 0, 2 ^ 63), (odKey 0x5021 1 0, 16 * 2 ^ 20), (odKey 0x5031 1 0, 1), (odKey 0x8007 1 0, 1), (odKey 0x8012 2 0, 3),
      (odKey 0xD010 1 0, 200)] }

/-- The window asks that facet 0 become ACTIVE. -/
def pinnedState : State :=
  { State.reset with
    hw := pinnedHw
    win := { Window.reset with index := 0x5003, sub := 1, op := 1, busy := true, data := [(0, 2)] } }

theorem pinnedState_ready : pinnedState.Ready := ⟨rfl, rfl, rfl, ⟨rfl, rfl, rfl, rfl⟩⟩

theorem pinnedState_asks : pinnedState.AsksWrite .window 0x5003 1 2 := by
  have hroom : ((pinnedState.begun .window).serveOne .window fun _ => true).pendingBytes < 24576 := by decide +kernel
  exact ⟨nofun, hroom, pinnedState.windowReq, rfl, rfl, rfl, rfl, rfl, rfl, rfl, by decide +kernel, by decide +kernel⟩

/-- An outcome leaves facet 1 as `s` has it. -/
def keepsBeside (s : State) : Host.Outcome State Fault Refusal → Bool
  | .next t => decide (t.hw.facet 1 = s.hw.facet 1)
  | _ => true

/-- The end of the command places the sequence in the pinned batch, which flips its version and voids its computation in the plan of facet 1. -/
theorem pinnedState_changes : keepsBeside pinnedState (exec (.facetRequestActive .window) pinnedState) = false := by decide +kernel

/-- Refutes O5: a pinned batch may name a sequence of another facet, whose plan the facet's entry then changes. -/
theorem not_facetRequests : ¬ Obligations.FacetRequests := by
  unfold Obligations.FacetRequests
  intro h
  obtain ⟨-, -, -, -, henter, -⟩ := h pinnedState .window 0 pinnedState_ready rfl
  obtain ⟨t, ht, -, -, hother⟩ := henter pinnedState_asks rfl rfl (by decide +kernel) (by decide +kernel) rfl
  have hkept : keepsBeside pinnedState (.next t) = true := decide_eq_true (hother 1 (by decide))
  rw [← ht, pinnedState_changes] at hkept
  exact Bool.false_ne_true hkept

end Sys2Proof.Machine

/-! PROOFS. Commands of the core island that may find a fault. -/

namespace Sys2Proof.Machine

open Sys2Proof

/-! ## A command that may find a fault, in a ready machine -/

/-- The island in which a command's function is carried out. -/
def Hw.begun (h : Hw) (c : CcPart) (u : Nat) : Hw := (h.started c).begin u

/-- Of the machine that a command of this kind leaves, a statement about the settled island. -/
theorem State.Ready.nextF {s : State} (hr : s.Ready) (c : CcPart) (u : Nat) (f : Hw → Hw) {P : State → Prop}
    (hP : P { s with hw := Hw.settle (s.hw.started c) (f (s.hw.begun c u)).runFaults }) :
    ∃ t, (.next (s.onCoreFAt c u f) : Host.Outcome State Fault Refusal) = .next t ∧ P t := hr.next c u _ hP

/-- Such a command that finds no fault. -/
theorem State.Ready.nextNoFault {s : State} (hr : s.Ready) (c : CcPart) (u : Nat) (f : Hw → Hw) {P : State → Prop}
    (hf : (f (s.hw.begun c u)).faults = []) (hP : P { s with hw := Hw.settle (s.hw.started c) (f (s.hw.begun c u)) }) :
    ∃ t, (.next (s.onCoreFAt c u f) : Host.Outcome State Fault Refusal) = .next t ∧ P t :=
  hr.nextF c u f (by rw [Hw.runFaults_none _ hf]; exact hP)

/-- One that leaves of the island what `h` has. -/
theorem State.Ready.leavesNoFault {s : State} (hr : s.Ready) (c : CcPart) (u : Nat) (f : Hw → Hw) {h : Hw}
    (hf : (f (s.hw.begun c u)).faults = []) (hh : Hw.SameOut (f (s.hw.begun c u)) h) :
    ∃ t, (.next (s.onCoreFAt c u f) : Host.Outcome State Fault Refusal) = .next t ∧ s.Leaves t h :=
  hr.nextNoFault c u f hf (s.leaves_settle _ hh)

/-- One that does nothing. -/
theorem State.Ready.idleF {s : State} (hr : s.Ready) (c : CcPart) (u : Nat) (f : Hw → Hw) (hf : f (s.hw.begun c u) = s.hw.begun c u) :
    ∃ t, (.next (s.onCoreFAt c u f) : Host.Outcome State Fault Refusal) = .next t ∧ s.Leaves t (s.hw.sends []) := by
  obtain ⟨-, -, -, hnone⟩ := hr.quiet
  exact hr.leavesNoFault c u f (by rw [hf]; exact hnone) (by rw [hf]; exact s.hw.sameOut_begun c u)

/-- And one without faults that does nothing. -/
theorem State.Ready.idle {s : State} (hr : s.Ready) (c : CcPart) (u : Nat) (f : Hw → Hw) (hf : f (s.hw.begun c u) = s.hw.begun c u) :
    ∃ t, (.next (s.onCoreAt c u f) : Host.Outcome State Fault Refusal) = .next t ∧ s.Leaves t (s.hw.sends []) :=
  hr.leaves c u f (.of_eq hf (s.hw.sameOut_begun c u))

end Sys2Proof.Machine

/-! PROOFS. R73, R75, R78, R79 and R82: credits, report beats and completion records. -/

namespace Sys2Proof.Machine

open Sys2Proof

/-! ## Credits -/

theorem Hw.tryEndJob_of_not_running (h : Hw) (f : Nat) (u : Bool) (hj : (h.job f u).state ≠ .running) : h.tryEndJob f u = h := by
  unfold Hw.tryEndJob
  exact if_pos (.inl hj)

/-- Where no job of the facet runs, none ends. -/
theorem Hw.settleJobs_of_not_running (h : Hw) (f : Nat) (hj : ∀ u, (h.job f u).state ≠ .running) : h.settleJobs f = h := by
  unfold Hw.settleJobs
  rw [h.tryEndJob_of_not_running f false (hj false), h.tryEndJob_of_not_running f true (hj true)]

theorem Hw.creditReturn_of_ack (h : Hw) (p n : Nat) (ha : (h.part p).ack = true) : h.creditReturn p n = h := by
  unfold Hw.creditReturn
  exact if_pos ha

theorem Hw.creditReturn_of_excess (h : Hw) (p n : Nat) (ha : (h.part p).ack = false) (hx : h.get 0x2200 (p + 1) < (h.part p).credits + n) :
    h.creditReturn p n = h.event 5 (73 * 16) 4 (h.facetOf p) (some p) := by
  unfold Hw.creditReturn
  dsimp only
  rw [if_neg (by simp [ha]), if_pos hx]

theorem Hw.creditReturn_of_room (h : Hw) (p n : Nat) (ha : (h.part p).ack = false) (hx : (h.part p).credits + n ≤ h.get 0x2200 (p + 1))
    (hj : ∀ f u, h.facetOf p = some f → (h.job f u).state ≠ .running) :
    h.creditReturn p n = h.modPart p fun y => { y with credits := y.credits + n } := by
  unfold Hw.creditReturn
  dsimp only
  rw [if_neg (by simp [ha]), if_neg (by omega)]
  split
  case h_1 f hf => exact Hw.settleJobs_of_not_running _ f fun u => hj f u hf
  case h_2 => rfl

/-! ## Completion records -/

theorem Hw.takeRouters_nil (h : Hw) (t : Nat) (d : Desc) (st : Nat) : h.takeRouters t d st [] = h := by
  unfold Hw.takeRouters
  split
  · rfl
  · exact if_pos (.inr rfl)

theorem Hw.takeExits_nil (h : Hw) (d : Desc) : h.takeExits d [] = h := by
  unfold Hw.takeExits
  split
  · rfl
  · exact if_pos (.inr (.inl rfl))

/-- A record without reports delivers nothing. -/
theorem Hw.takeReports_nil (h : Hw) (t st : Nat) : h.takeReports t st [] = h := by
  unfold Hw.takeReports
  split
  · rfl
  · split
    · rfl
    · split
      · rfl
      · exact (Hw.takeExits_nil _ _).trans (h.takeRouters_nil _ _ _)
      · rfl

/-- The island after a record has taken its channel's reports. -/
def Hw.unreported (h : Hw) (k : Nat) : Hw := { h with reports := Map.insert h.reports k [] }

theorem Hw.beats_unreported (h : Hw) (k : Nat) : (h.unreported k).beats k = [] := Map.getD_insert_self _ _ _ _

theorem Hw.completion_of_full (h : Hw) (k : Nat) (l : List Byte) (hf : h.funnelReady = false) : h.completion k l = h := by
  unfold Hw.completion
  exact if_pos (by simp [hf])

/-- A malformed record of a command in time. -/
theorem Hw.completion_malformed (h : Hw) (k : Nat) (l : List Byte) (hf : h.funnelReady = true)
    (ht : ((h.part (recordOf l).part).sent.contains (recordOf l).tag && h.cmdOverdue (recordOf l).tag) = false)
    (hg : ((h.part (recordOf l).part).ghosts.find? fun g => g.1 == (recordOf l).tag && (recordOf l).part / 16 == k) = none)
    (hm : h.malformedRecord k l = true) :
    h.completion k l = ((h.unreported k).inc 0x2204 (k + 1)).event 5 (78 * 16) 4 (h.facetOf (recordOf l).part) (some (recordOf l).part) := by
  unfold Hw.completion
  rw [if_neg (by simp [hf])]
  dsimp only
  rw [ht, if_neg Bool.false_ne_true]
  change (match (h.part (recordOf l).part).ghosts.find? fun g => g.1 == (recordOf l).tag && (recordOf l).part / 16 == k with
    | some _ => _
    | none => _) = _
  rw [hg]
  dsimp only
  rw [if_pos hm]
  rfl

/-- The funnel's record of a well-formed completion. -/
def Hw.funnelRecord (h : Hw) (l : List Byte) (d : Desc) : Hw :=
  { h with funnel := h.funnel ++ [{ record := recordOf l, cls := d.cls, level := d.level, since := h.cc + 1 }] }

theorem Hw.completion_wellFormed (h : Hw) (k : Nat) (l : List Byte) (d : Desc) (hf : h.funnelReady = true)
    (ht : h.cmdOverdue (recordOf l).tag = false)
    (hg : ((h.part (recordOf l).part).ghosts.find? fun g => g.1 == (recordOf l).tag && (recordOf l).part / 16 == k) = none)
    (hm : h.malformedRecord k l = false) (hb : h.beats k = []) (hd : h.desc? (recordOf l).tag = some d) :
    h.completion k l = (h.unreported k).funnelRecord l d := by
  unfold Hw.completion
  rw [if_neg (by simp [hf])]
  dsimp only
  rw [ht, Bool.and_false, if_neg Bool.false_ne_true]
  change (match (h.part (recordOf l).part).ghosts.find? fun g => g.1 == (recordOf l).tag && (recordOf l).part / 16 == k with
    | some _ => _
    | none => _) = _
  rw [hg]
  dsimp only
  rw [if_neg (by simp [hm]), hb, Hw.takeReports_nil]
  change (match h.desc? (recordOf l).tag with
    | some _ => _
    | none => _) = _
  rw [hd]
  rfl

/-- Settles O32: the credits, the beats and the records, each by what its function does with the island. -/
theorem completions : Obligations.Completions := by
  unfold Obligations.Completions
  intro s hr
  obtain ⟨-, -, -, hnone⟩ := hr.quiet
  refine ⟨fun p n ha hx hj => ?_, fun p n ha hx => ?_, fun p n ha => ?_, fun k l hf hb => ?_, fun k l hf => ⟨?_, ?_⟩,
    fun k l hf ht hg hm => ?_, fun k l d hf ht hg hm hb hd => ?_⟩
  · exact hr.leaves .alone 0 _ (.of_eq (Hw.creditReturn_of_room _ _ _ ha hx hj) ⟨rfl, rfl⟩)
  · refine hr.next .alone 0 _ ?_
    rw [Hw.creditReturn_of_excess ((s.hw.started .alone).begin 0) p n ha hx]
    refine ⟨?_, ?_, ?_, ?_⟩
    · exact Hw.settle_parts ..
    · exact Hw.settle_descs ..
    · exact Hw.settle_facets ..
    · exact (Hw.occurred_settle ..).trans (Hw.occurred_event ..)
  · exact hr.idle .alone 0 _ (Hw.creditReturn_of_ack _ _ _ ha)
  · exact hr.leaves _ 0 _ (.of_eq (if_pos ⟨hf, hb⟩) ⟨rfl, rfl⟩)
  · exact hr.idle _ 0 _ (if_neg fun h => by simp [show s.hw.funnelReady = true from h.1] at hf)
  · exact hr.idleF _ 0 _ (Hw.completion_of_full _ _ _ hf)
  · have e := Hw.completion_malformed (s.hw.begun (.record k.val) 0) k l hf ht hg hm
    refine hr.nextNoFault _ 0 _ (by rw [e]; exact hnone) ?_
    rw [e]
    refine ⟨Hw.settle_funnel .., ?_, ?_, ?_, Hw.settle_descs .., Hw.settle_parts .., Hw.settle_facets ..⟩
    · exact (congrArg (Map.getD · k.val []) (Hw.settle_reports ..)).trans (Hw.beats_unreported _ _)
    · refine (Hw.settle_get _ _ _ _ ?_).trans (Hw.get_counted _ _ _ _ _ _ _ _ ?_)
      · simp [obsKey, odKey]; omega
      · simp [odKey]; omega
    · refine (Hw.occurred_settle ..).trans (Hw.occurred_counted _ _ _ _ _ _ _ _ ?_)
      simp [odKey]; omega
  · have e := Hw.completion_wellFormed (s.hw.begun (.record k.val) 0) k l d hf ht hg hm hb hd
    refine hr.nextNoFault _ 0 _ (by rw [e]; exact hnone) ?_
    rw [e]
    exact ⟨Hw.settle_funnel .., Hw.settle_descs .., Hw.settle_parts .., Hw.settle_facets ..⟩

end Sys2Proof.Machine

/-! PROOFS. R365: a fault of an ACTIVE facet that has a replay left makes it recover. -/

namespace Sys2Proof.Machine

open Sys2Proof

/-! ## The start of a recovery -/

theorem Hw.facets_requestInt (h : Hw) (p : Nat) : (h.requestInt p).facets = h.facets := by
  unfold Hw.requestInt
  dsimp only
  split <;> rfl

/-- A replay begins with its facet marked as recovering. -/
theorem Hw.recovering_startReplay (h : Hw) (f : Nat) : ((h.startReplay f).facet f).recovering = true := by
  unfold Hw.startReplay
  dsimp only
  refine (congrArg (fun m => (Map.getD m f Facet.reset).recovering) (foldl_keeps Hw.facets Hw.requestInt Hw.facets_requestInt _ _)).trans ?_
  exact congrArg Facet.recovering (Hw.facet_modFacet ..)

/-- A facet in whose run of faults a replay is left. -/
structure Hw.MayReplay (h : Hw) (f : Nat) : Prop where
  active : (h.facet f).state = .active
  left : h.raw 0xA006 (f + 1) < h.get 0xA001 1

theorem Hw.MayReplay.of_eq {h g : Hw} {f : Nat} (hm : h.MayReplay f) (hf : g.facet f = h.facet f)
    (hc : g.raw 0xA006 (f + 1) = h.raw 0xA006 (f + 1)) (hb : g.get 0xA001 1 = h.get 0xA001 1) : g.MayReplay f :=
  ⟨hf ▸ hm.active, by rw [hc, hb]; exact hm.left⟩

theorem Hw.MayReplay.recovers {h : Hw} {f : Nat} (hm : h.MayReplay f) (u : FaultUnit) : ((h.faultOn f u).facet f).recovering = true := by
  have hruns : (h.facet f).state.runs = true := by rw [hm.active]; rfl
  have hne : ¬ (h.facet f).state = .exclusive := by simp [hm.active]
  unfold Hw.faultOn
  dsimp only
  rw [if_neg (by simp [hruns]), if_pos hm.left, if_neg hne]
  exact Hw.recovering_startReplay _ f

/-! ## The faults that a command finds -/

/-- A fault of one facet and no permanent unit. -/
theorem Hw.runFaults_one (h : Hw) (f : Nat) (u : FaultUnit) (hf : h.faults = [{ facets := [f], unit := u, permanent := false }]) :
    h.runFaults = ({ h with faults := [] } : Hw).faultOn f u := by
  unfold Hw.runFaults
  rw [hf]
  rfl

/-- A permanent fault of one facet. -/
theorem Hw.runFaults_permanent (h : Hw) (f : Nat) (u : FaultUnit) (hf : h.faults = [{ facets := [f], unit := u, permanent := true }]) :
    h.runFaults = (({ h with faults := [] } : Hw).maskUnit u).faultOn f u := by
  unfold Hw.runFaults
  rw [hf]
  rfl

/-- A permanent fault of no facet. -/
theorem Hw.runFaults_unit (h : Hw) (u : FaultUnit) (hf : h.faults = [{ facets := [], unit := u, permanent := true }]) :
    h.runFaults = ({ h with faults := [] } : Hw).maskUnit u := by
  unfold Hw.runFaults
  rw [hf]
  rfl

/-- A fault of one facet, found by a command, makes the facet recover. -/
theorem State.Ready.recovers {s : State} (hr : s.Ready) (c : CcPart) (v : Nat) (g : Hw → Hw) (f : Nat) (u : FaultUnit)
    (hf : (g (s.hw.begun c v)).faults = [{ facets := [f], unit := u, permanent := false }]) (hm : (g (s.hw.begun c v)).MayReplay f) :
    ∃ t, (.next (s.onCoreFAt c v g) : Host.Outcome State Fault Refusal) = .next t ∧ (t.hw.facet f).recovering = true := by
  refine hr.nextF c v g ?_
  rw [Hw.runFaults_one _ f u hf]
  refine (congrArg (fun m => (Map.getD m f Facet.reset).recovering) (Hw.settle_facets ..)).trans ?_
  have hm' : ({ g (s.hw.begun c v) with faults := [] } : Hw).MayReplay f := hm.of_eq rfl rfl rfl
  exact hm'.recovers u

end Sys2Proof.Machine

/-! PROOFS. R241 and R244: the known-answer check of the Helix lanes. -/

namespace Sys2Proof.Machine

open Sys2Proof

/-! ## A lane that fails its check -/

/-- The facets of a set of one are its one. -/
theorem facetsOf_two_pow (f : Fin 16) : facetsOf (2 ^ f.val) = [f.val] := by
  revert f
  decide

/-- What a wrong answer leaves before the faults are served. -/
def Hw.wrongAnswer (h : Hw) (lane : Nat) (l : List Nat) : Hw :=
  ((h.event 7 (244 * 16) 4 none none).inc 0x7105 1).fault l (.lane lane) true

theorem Hw.selfCheck_wrong (h : Hw) (lane : Nat) (w0 w1 : Word64) (hm : (h.raw 0xA010 1).testBit lane = false)
    (hw : (w0, w1) ≠ helixBlock 0 1 0) : h.selfCheck lane w0 w1 = h.wrongAnswer lane (facetsOf (Map.getD h.smp.laneFacets lane 0)) := by
  unfold Hw.selfCheck
  rw [if_neg (by simp [hm]), if_neg hw]
  rfl

theorem Hw.selfCheck_right (h : Hw) (lane : Nat) (hm : (h.raw 0xA010 1).testBit lane = false) :
    h.selfCheck lane (helixBlock 0 1 0).1 (helixBlock 0 1 0).2 =
      { h.inc 0x7106 1 with smp := { h.smp with laneFacets := Map.erase h.smp.laneFacets lane } } := by
  unfold Hw.selfCheck
  rw [if_neg (by simp [hm]), if_pos rfl]

theorem Hw.selfCheck_masked (h : Hw) (lane : Nat) (w0 w1 : Word64) (hm : (h.raw 0xA010 1).testBit lane = true) :
    h.selfCheck lane w0 w1 = h.markIdle 6 := by
  unfold Hw.selfCheck
  exact if_pos hm

theorem Hw.wrongAnswer_spec (h : Hw) (lane : Nat) (l : List Nat) (i s : Nat) (h1 : odKey i s 0 ≠ odKey 0x7105 1 0)
    (h2 : odKey i s 0 ≠ odKey 0xC030 8 0) :
    (h.wrongAnswer lane l).facets = h.facets ∧ (h.wrongAnswer lane l).raw i s = h.raw i s ∧ (h.wrongAnswer lane l).get i s = h.get i s ∧
      (h.wrongAnswer lane l).faults = h.faults ++ [{ facets := l, unit := .lane lane, permanent := true }] := by
  have hraw : (h.wrongAnswer lane l).raw i s = h.raw i s := by
    refine (congrArg (·.getD 0) (Map.find?_insert_ne _ _ _ _ h1)).trans (congrArg (·.getD 0) (Map.find?_insert_ne _ _ _ _ h2))
  exact ⟨rfl, hraw, (Hw.get_inc_ne _ _ _ _ _ h1).trans (Hw.get_event_ne _ _ _ _ _ _ _ _ h2), rfl⟩

theorem Hw.wrongAnswer_counts (h : Hw) (lane : Nat) (l : List Nat) :
    (h.wrongAnswer lane l).get 0x7105 1 = (h.get 0x7105 1 + 1) % 2 ^ 64 ∧
      (h.wrongAnswer lane l).occurred 7 = (h.occurred 7 + 1) % 2 ^ 64 := by
  constructor
  · refine (Hw.get_inc ..).trans ?_
    rw [Hw.get_event_ne _ _ _ _ _ _ _ _ (by decide)]
  · exact (Hw.get_inc_ne _ _ _ _ _ (by decide)).trans (Hw.occurred_event ..)

/-- The island with the failing lane masked. -/
def Hw.laneMasked (h : Hw) (lane : Nat) : Hw := ({ h with faults := [] } : Hw).maskUnit (.lane lane)

theorem Hw.laneMasked_spec (h : Hw) (lane i s : Nat) (hne : odKey i s 0 ≠ odKey 0xA010 1 0) :
    (h.laneMasked lane).facets = h.facets ∧ (h.laneMasked lane).raw i s = h.raw i s ∧ (h.laneMasked lane).get i s = h.get i s :=
  ⟨rfl, Hw.raw_set_ne _ _ _ _ _ _ hne, Hw.get_set_ne _ _ _ _ _ _ hne⟩

/-- Settles O38: a right answer, a wrong one without a facet and a wrong one with one. -/
theorem helixSelfChecks : Obligations.HelixSelfChecks := by
  unfold Obligations.HelixSelfChecks
  intro s lane hr
  obtain ⟨-, -, -, hnone⟩ := hr.quiet
  refine ⟨fun w0 w1 hm => ?_, fun hm => ⟨?_, fun w0 w1 hw => ⟨fun hl => ?_, fun f hl hs hc => ?_⟩⟩⟩
  · have e := Hw.selfCheck_masked (s.hw.begun .alone 6) lane w0 w1 hm
    exact hr.leavesNoFault .alone 6 _ (by rw [e]; exact hnone) (.of_eq e ⟨rfl, rfl⟩)
  · have e := Hw.selfCheck_right (s.hw.begun .alone 6) lane hm
    exact hr.leavesNoFault .alone 6 _ (by rw [e]; exact hnone) (.of_eq e ⟨rfl, rfl⟩)
  · have e : (s.hw.begun .alone 6).selfCheck lane w0 w1 = (s.hw.begun .alone 6).wrongAnswer lane [] := by
      rw [Hw.selfCheck_wrong (s.hw.begun .alone 6) _ _ _ hm hw]
      exact congrArg (fun n => (s.hw.begun .alone 6).wrongAnswer lane (facetsOf (Option.getD n 0))) hl
    obtain ⟨hfacets, hraw, -, hfaults⟩ := (s.hw.begun .alone 6).wrongAnswer_spec lane [] 0xA010 1 (by decide) (by decide)
    obtain ⟨hcount, hocc⟩ := (s.hw.begun .alone 6).wrongAnswer_counts lane []
    refine hr.nextF .alone 6 _ ?_
    rw [e, Hw.runFaults_unit _ (.lane lane) (hfaults.trans (congrArg (· ++ _) hnone))]
    change (Hw.settle _ (((s.hw.begun .alone 6).wrongAnswer lane []).laneMasked lane)).get _ _ = _ ∧ _
    obtain ⟨hf, -, hg⟩ := ((s.hw.begun .alone 6).wrongAnswer lane []).laneMasked_spec lane 0x7105 1 (by decide)
    obtain ⟨-, -, ho⟩ := ((s.hw.begun .alone 6).wrongAnswer lane []).laneMasked_spec lane 0xC030 8 (by decide)
    refine ⟨?_, ?_, ?_, ?_⟩
    · exact (Hw.settle_get _ _ _ _ (by decide)).trans (hg.trans hcount)
    · refine (Hw.settle_raw _ _ _ _ (by decide)).trans ((Hw.raw_set ..).trans ?_)
      exact congrArg (setBit · lane.val) hraw
    · exact (Hw.occurred_settle ..).trans (ho.trans hocc)
    · exact (Hw.settle_facets ..).trans (hf.trans hfacets)
  · have e : (s.hw.begun .alone 6).selfCheck lane w0 w1 = (s.hw.begun .alone 6).wrongAnswer lane [f.val] := by
      rw [Hw.selfCheck_wrong (s.hw.begun .alone 6) _ _ _ hm hw]
      refine (congrArg (fun n => (s.hw.begun .alone 6).wrongAnswer lane (facetsOf (Option.getD n 0))) hl).trans ?_
      exact congrArg ((s.hw.begun .alone 6).wrongAnswer lane) (facetsOf_two_pow f)
    obtain ⟨hfacets, hraw, -, hfaults⟩ := (s.hw.begun .alone 6).wrongAnswer_spec lane [f.val] 0xA006 (f + 1)
      (odKey_idx_ne _ _ _ _ _ _ (by omega) (by decide) (by decide)) (odKey_idx_ne _ _ _ _ _ _ (by omega) (by decide) (by decide))
    obtain ⟨-, -, hget, -⟩ := (s.hw.begun .alone 6).wrongAnswer_spec lane [f.val] 0xA001 1 (by decide) (by decide)
    refine hr.nextF .alone 6 _ ?_
    rw [e, Hw.runFaults_permanent _ f.val (.lane lane) (hfaults.trans (congrArg (· ++ _) hnone))]
    obtain ⟨mfacets, mraw, -⟩ := ((s.hw.begun .alone 6).wrongAnswer lane [f.val]).laneMasked_spec lane 0xA006 (f + 1)
      (odKey_idx_ne _ _ _ _ _ _ (by omega) (by decide) (by decide))
    obtain ⟨-, -, mget⟩ := ((s.hw.begun .alone 6).wrongAnswer lane [f.val]).laneMasked_spec lane 0xA001 1 (by decide)
    have hmay : (((s.hw.begun .alone 6).wrongAnswer lane [f.val]).laneMasked lane).MayReplay f :=
      (Hw.MayReplay.mk (h := s.hw) hs hc).of_eq (congrArg (Map.getD · f.val Facet.reset) (mfacets.trans hfacets)) (mraw.trans hraw)
        (mget.trans hget)
    exact (congrArg (fun m => (Map.getD m f.val Facet.reset).recovering) (Hw.settle_facets ..)).trans (hmay.recovers (.lane lane))

end Sys2Proof.Machine

/-! PROOFS. What the operations on a partition's order of transfer and on a facet's plans keep. -/

namespace Sys2Proof.Machine

open Sys2Proof

/-! ## The map of descriptors -/

@[simp] theorem Map.find?_erase_self {α : Type} (m : Map α) (k : Nat) : Map.find? (Map.erase m k) k = none := by
  induction m with
  | nil => rfl
  | cons e r ih =>
    unfold Map.erase at ih ⊢
    rw [List.filter_cons]
    by_cases he : e.1 = k
    · rw [if_neg (by simp [he])]
      exact ih
    · rw [if_pos (by simp [he]), Map.find?, if_neg (Ne.symm he), ih, ite_self]

/-- What is found is found without another key as well. -/
theorem Map.find?_erase_ne {α : Type} (m : Map α) (k j : Nat) (v : α) (hj : j ≠ k) (hv : Map.find? m j = some v) :
    Map.find? (Map.erase m k) j = some v := by
  induction m with
  | nil => cases hv
  | cons e r ih =>
    unfold Map.erase at ih ⊢
    rw [List.filter_cons]
    rw [Map.find?] at hv
    by_cases he : e.1 = k
    · rw [if_neg (by simp [he])]
      rw [if_neg (by rw [he]; exact hj)] at hv
      split at hv
      · cases hv
      · exact ih hv
    · rw [if_pos (by simp [he]), Map.find?]
      split
      · simpa [*] using hv
      · split
        · simp_all
        · exact ih (by simpa [*] using hv)

/-! ## A command that leaves the order of transfer -/

/-- What a command's window keeps as it ends: all but the partitions, the trace and the dictionary from 0xB000 on. -/
structure Hw.SameButParts (a b : Hw) : Prop where
  body : ({ a with od := [], parts := [], trace := Hw.reset.trace } : Hw) = { b with od := [], parts := [], trace := Hw.reset.trace }
  od : ∀ i s o, i < 0xB000 → s < 256 → Map.find? a.od (odKey i s o) = Map.find? b.od (odKey i s o)

theorem Hw.SameButParts.refl (a : Hw) : Hw.SameButParts a a := ⟨rfl, fun _ _ _ _ _ => rfl⟩

theorem Hw.SameButParts.trans {a b c : Hw} (h1 : Hw.SameButParts a b) (h2 : Hw.SameButParts b c) : Hw.SameButParts a c :=
  ⟨h1.body.trans h2.body, fun i s o hi hs => (h1.od i s o hi hs).trans (h2.od i s o hi hs)⟩

theorem Hw.SameButParts.clk {a b : Hw} (h : Hw.SameButParts a b) : a.clk = b.clk := by have e := congrArg Hw.clk h.body; exact e
theorem Hw.SameButParts.cc {a b : Hw} (h : Hw.SameButParts a b) : a.cc = b.cc := by have e := congrArg Hw.cc h.body; exact e
theorem Hw.SameButParts.facets {a b : Hw} (h : Hw.SameButParts a b) : a.facets = b.facets := by have e := congrArg Hw.facets h.body; exact e
theorem Hw.SameButParts.descs {a b : Hw} (h : Hw.SameButParts a b) : a.descs = b.descs := by have e := congrArg Hw.descs h.body; exact e
theorem Hw.SameButParts.funnel {a b : Hw} (h : Hw.SameButParts a b) : a.funnel = b.funnel := by have e := congrArg Hw.funnel h.body; exact e
theorem Hw.SameButParts.faults {a b : Hw} (h : Hw.SameButParts a b) : a.faults = b.faults := by have e := congrArg Hw.faults h.body; exact e
theorem Hw.SameButParts.jobs {a b : Hw} (h : Hw.SameButParts a b) : a.jobs = b.jobs := by have e := congrArg Hw.jobs h.body; exact e
theorem Hw.SameButParts.switches {a b : Hw} (h : Hw.SameButParts a b) : a.switches = b.switches := by have e := congrArg Hw.switches h.body; exact e

theorem Hw.SameButParts.desc? {a b : Hw} (h : Hw.SameButParts a b) (t : Nat) : a.desc? t = b.desc? t := congrArg (Map.find? · t) h.descs
theorem Hw.SameButParts.facet {a b : Hw} (h : Hw.SameButParts a b) (f : Nat) : a.facet f = b.facet f :=
  congrArg (Map.getD · f Facet.reset) h.facets

theorem Hw.SameButParts.raw {a b : Hw} (h : Hw.SameButParts a b) (i s : Nat) (hi : i < 0xB000) (hs : s < 256) : a.raw i s = b.raw i s := by
  simp only [Hw.raw, Map.getD, h.od i s 0 hi hs]

theorem Hw.SameButParts.get {a b : Hw} (h : Hw.SameButParts a b) (i s : Nat) (hi : i < 0xB000) (hs : s < 256) : a.get i s = b.get i s := by
  simp only [Hw.get, Hw.getAt, h.od i s 0 hi hs]

theorem Hw.sameButParts_setPart (h : Hw) (p : Nat) (x : Part) : Hw.SameButParts (h.setPart p x) h := ⟨rfl, fun _ _ _ _ _ => rfl⟩
theorem Hw.sameButParts_modPart (h : Hw) (p : Nat) (g : Part → Part) : Hw.SameButParts (h.modPart p g) h := ⟨rfl, fun _ _ _ _ _ => rfl⟩

theorem Hw.sameButParts_traceRec (h : Hw) (ty u : Nat) (f : Option Nat) (p : List Byte) : Hw.SameButParts (h.traceRec ty u f p) h := by
  unfold Hw.traceRec
  split
  · exact ⟨rfl, fun _ _ _ _ _ => rfl⟩
  · exact .refl h

theorem Hw.sameButParts_bumpAt (h : Hw) (i s o n : Nat) (hi : 0xB000 ≤ i) (hs : s < 256) : Hw.SameButParts (h.bumpAt i s o n) h :=
  ⟨rfl, fun j r q hj hr => Map.find?_insert_ne _ _ _ _ (odKey_idx_ne j r q i s o hr hs (by omega))⟩

theorem Hw.sameButParts_binAdd (h : Hw) (w : CmdWindow) (bytes energy : Nat) : Hw.SameButParts (h.binAdd w bytes energy) h := by
  unfold Hw.binAdd
  split
  case h_1 b hb =>
    have hlt : b < 64 := List.mem_range.mp (List.mem_of_find?_eq_some hb)
    have step : ∀ (x : Hw) (o n : Nat), Hw.SameButParts (x.bumpAt 0xB021 (b + 1) o n) x := fun x o n =>
      x.sameButParts_bumpAt _ _ o n (by decide) (by omega)
    exact (step _ 4 _).trans ((step _ 3 _).trans ((step _ 2 _).trans ((step _ 1 _).trans (step h 0 _))))
  case h_2 => exact .refl h

theorem Hw.sameButParts_endWindow (h : Hw) (p tag status fabric bytes energy : Nat) :
    Hw.SameButParts (h.endWindow p tag status fabric bytes energy) h := by
  unfold Hw.endWindow
  dsimp only
  split
  · split
    · exact (Hw.sameButParts_traceRec ..).trans ((Hw.sameButParts_binAdd ..).trans (h.sameButParts_setPart ..))
    · exact .refl h
  · exact .refl h

theorem Hw.sameButParts_startWindow (h : Hw) (p : Nat) : Hw.SameButParts (h.startWindow p) h := by
  unfold Hw.startWindow
  dsimp only
  split
  · split
    · exact h.sameButParts_setPart ..
    · exact .refl h
  · exact .refl h

theorem Hw.sameButParts_unsend (h : Hw) (p tag status fabric bytes energy : Nat) :
    Hw.SameButParts (h.unsend p tag status fabric bytes energy) h :=
  (Hw.sameButParts_startWindow ..).trans ((Hw.sameButParts_modPart ..).trans (h.sameButParts_endWindow ..))

/-! The order of transfer itself. -/

theorem Hw.parts_traceRec (h : Hw) (ty u : Nat) (f : Option Nat) (p : List Byte) : (h.traceRec ty u f p).parts = h.parts := by
  unfold Hw.traceRec
  split <;> rfl

theorem Hw.parts_binAdd (h : Hw) (w : CmdWindow) (bytes energy : Nat) : (h.binAdd w bytes energy).parts = h.parts := by
  unfold Hw.binAdd
  split <;> rfl

theorem Hw.sent_setPart (h : Hw) (p : Nat) (x : Part) : ((h.setPart p x).part p).sent = x.sent := congrArg Part.sent (h.part_setPart p x)

/-- The end of a window leaves the order of transfer as it was. -/
theorem Hw.sent_endWindow (h : Hw) (p tag status fabric bytes energy : Nat) :
    ((h.endWindow p tag status fabric bytes energy).part p).sent = (h.part p).sent := by
  unfold Hw.endWindow
  dsimp only
  split
  · split
    · refine (congrArg (fun m => (Map.getD m p Part.reset).sent) ((Hw.parts_traceRec ..).trans (Hw.parts_binAdd ..))).trans ?_
      exact Hw.sent_setPart ..
    · rfl
  · rfl

theorem Hw.sent_startWindow (h : Hw) (p : Nat) : ((h.startWindow p).part p).sent = (h.part p).sent := by
  unfold Hw.startWindow
  dsimp only
  split
  · split
    · exact Hw.sent_setPart ..
    · rfl
  · rfl

/-- A command leaves its place in the order of transfer. -/
theorem Hw.sent_unsend (h : Hw) (p tag status fabric bytes energy : Nat) :
    ((h.unsend p tag status fabric bytes energy).part p).sent = (h.part p).sent.erase tag := by
  unfold Hw.unsend
  rw [Hw.sent_startWindow, Hw.part_modPart, Hw.sent_endWindow]

/-! ## Descriptors that go -/

theorem Hw.desc?_freeDesc (h : Hw) (t : Nat) : (h.freeDesc t).desc? t = none := by
  unfold Hw.freeDesc
  split
  · exact Map.find?_erase_self _ _
  case h_2 hn => exact hn

theorem Hw.desc?_freeDesc_ne (h : Hw) (t k : Nat) (d : Desc) (hk : k ≠ t) (hd : h.desc? k = some d) : (h.freeDesc t).desc? k = some d := by
  unfold Hw.freeDesc
  split
  · exact Map.find?_erase_ne _ _ _ _ hk hd
  · exact hd

theorem Hw.freeDesc_keeps (h : Hw) (t : Nat) : (h.freeDesc t).funnel = h.funnel ∧ (h.freeDesc t).faults = h.faults ∧
    (h.freeDesc t).facets = h.facets ∧ ∀ p, ((h.freeDesc t).part p).sent = (h.part p).sent := by
  unfold Hw.freeDesc
  split
  case h_1 d hd =>
    refine ⟨rfl, rfl, rfl, fun p => ?_⟩
    by_cases hp : p = d.part
    · rw [hp, Hw.part_modPart]
      rfl
    · rw [Hw.part_modPart_ne _ _ _ _ hp]
      rfl
  · exact ⟨rfl, rfl, rfl, fun _ => rfl⟩

theorem Hw.desc?_doneDesc (h : Hw) (t : Nat) : (h.doneDesc t).desc? t = none := by
  unfold Hw.doneDesc
  split
  · exact h.desc?_freeDesc t
  case h_2 hn => exact hn

theorem Hw.desc?_doneDesc_ne (h : Hw) (t k : Nat) (d : Desc) (hk : k ≠ t) (hd : h.desc? k = some d) : (h.doneDesc t).desc? k = some d := by
  unfold Hw.doneDesc
  split
  · exact h.desc?_freeDesc_ne t k d hk hd
  · exact hd

theorem Hw.doneDesc_keeps (h : Hw) (t : Nat) : (h.doneDesc t).funnel = h.funnel ∧ (h.doneDesc t).faults = h.faults ∧
    (h.doneDesc t).facets = h.facets ∧ ∀ p, ((h.doneDesc t).part p).sent = (h.part p).sent := by
  unfold Hw.doneDesc
  split
  · exact h.freeDesc_keeps t
  · exact ⟨rfl, rfl, rfl, fun _ => rfl⟩

/-- A decrement that is not the last leaves a smaller counter and is no fault. -/
theorem Hw.decrement_waiting (h : Hw) (k : Nat) (c : Desc) (hd : h.desc? k = some c) (hs : c.state = .waiting) (hc : 0 < c.counter) :
    ∃ c', (h.decrement k).desc? k = some c' ∧ c'.counter = c.counter - 1 ∧ (h.decrement k).funnel = h.funnel ∧
      (h.decrement k).faults = h.faults ∧ (h.decrement k).facets = h.facets ∧ (h.decrement k).parts = h.parts ∧
      ∀ t, t ≠ k → (h.decrement k).desc? t = h.desc? t := by
  have hd' : (h.markBusy 5).desc? k = some c := hd
  unfold Hw.decrement
  dsimp only
  rw [hd']
  dsimp only
  rw [if_pos ⟨hs, hc⟩]
  refine ⟨_, Map.find?_insert_self _ _ _, ?_, rfl, rfl, rfl, rfl, fun t ht => Map.find?_insert_ne _ _ _ _ ht⟩
  split <;> rfl

/-! ## Charges and plans -/

/-- Nothing but facets changed. -/
structure Hw.SameButFacets (a b : Hw) : Prop where
  body : ({ a with facets := [] } : Hw) = { b with facets := [] }

theorem Hw.SameButFacets.refl (a : Hw) : Hw.SameButFacets a a := ⟨rfl⟩

theorem Hw.SameButFacets.trans {a b c : Hw} (h1 : Hw.SameButFacets a b) (h2 : Hw.SameButFacets b c) : Hw.SameButFacets a c :=
  ⟨h1.body.trans h2.body⟩

theorem Hw.sameButFacets_modFacet (h : Hw) (f : Nat) (g : Facet → Facet) : Hw.SameButFacets (h.modFacet f g) h := ⟨rfl⟩

theorem Hw.sameButFacets_charge (h : Hw) (f tenant : Nat) (c : Charges) : Hw.SameButFacets (h.charge f tenant c) h := ⟨rfl⟩

theorem Hw.sameButFacets_foldl {α : Type} (g : Hw → α → Hw) (hg : ∀ b a, Hw.SameButFacets (g b a) b) (l : List α) (b : Hw) :
    Hw.SameButFacets (l.foldl g b) b := by
  induction l generalizing b with
  | nil => exact .refl b
  | cons a r ih => exact (ih (g b a)).trans (hg b a)

theorem Hw.sameButFacets_chargePlan (h : Hw) (d : Desc) (r : Record) : Hw.SameButFacets (h.chargePlan d r) h := by
  unfold Hw.chargePlan
  dsimp only
  split
  · exact (Hw.sameButFacets_charge ..).trans (h.sameButFacets_modFacet ..)
  · split
    · exact h.sameButFacets_modFacet ..
    · exact (Hw.sameButFacets_foldl _ (fun b _ => b.sameButFacets_charge ..) _ _).trans (h.sameButFacets_modFacet ..)

theorem Hw.SameButFacets.descs {a b : Hw} (h : Hw.SameButFacets a b) : a.descs = b.descs := by have e := congrArg Hw.descs h.body; exact e
theorem Hw.SameButFacets.parts {a b : Hw} (h : Hw.SameButFacets a b) : a.parts = b.parts := by have e := congrArg Hw.parts h.body; exact e
theorem Hw.SameButFacets.funnel {a b : Hw} (h : Hw.SameButFacets a b) : a.funnel = b.funnel := by have e := congrArg Hw.funnel h.body; exact e
theorem Hw.SameButFacets.faults {a b : Hw} (h : Hw.SameButFacets a b) : a.faults = b.faults := by have e := congrArg Hw.faults h.body; exact e

theorem Hw.SameButFacets.desc? {a b : Hw} (h : Hw.SameButFacets a b) (t : Nat) : a.desc? t = b.desc? t := congrArg (Map.find? · t) h.descs
theorem Hw.SameButFacets.part {a b : Hw} (h : Hw.SameButFacets a b) (p : Nat) : a.part p = b.part p :=
  congrArg (Map.getD · p Part.reset) h.parts

end Sys2Proof.Machine

/-! PROOFS. R76, R77, R79, R208, R212 and R224: records read from the funnel, and the command watchdog. -/

namespace Sys2Proof.Machine

open Sys2Proof

/-! ## The record that is read -/

theorem Hw.funnelRead_of_none (h : Hw) (hb : h.funnelBest = none) : h.funnelRead = h := by
  unfold Hw.funnelRead
  rw [hb]

theorem Hw.funnelBest_of_empty (h : Hw) (hf : h.funnel = []) : h.funnelBest = none := by
  unfold Hw.funnelBest
  rw [hf]
  rfl

theorem Hw.funnelBest_of_early (h : Hw) (e : FunnelEntry) (hf : h.funnel = [e]) (hc : h.cc ≤ e.since) : h.funnelBest = none := by
  have hr : e.readable h.cc = false := decide_eq_false (by omega)
  unfold Hw.funnelBest
  rw [hf, List.filter_cons_of_neg (by simp [hr])]
  rfl

theorem Hw.funnelBest_of_one (h : Hw) (e : FunnelEntry) (hf : h.funnel = [e]) (hc : e.since < h.cc) : h.funnelBest = some e := by
  have hr : e.readable h.cc = true := decide_eq_true hc
  unfold Hw.funnelBest
  have hl : ([e].filter fun e => e.readable h.cc) = [e] := by rw [List.filter_singleton, hr]; rfl
  rw [hf, hl]
  dsimp only [List.find?, List.foldl]
  cases e.aged h.cc <;> rfl

/-- The island whose only record has been taken from the funnel. -/
def Hw.taken (h : Hw) (e : FunnelEntry) : Hw :=
  if e.aged h.cc then ({ h with funnel := [] } : Hw).inc 0x2205 1 else { h with funnel := [] }

theorem Hw.taken_keeps (h : Hw) (e : FunnelEntry) : (h.taken e).funnel = [] ∧ (h.taken e).descs = h.descs ∧ (h.taken e).parts = h.parts ∧
    (h.taken e).facets = h.facets ∧ (h.taken e).faults = h.faults := by
  unfold Hw.taken
  split <;> exact ⟨rfl, rfl, rfl, rfl, rfl⟩

theorem Hw.funnelRead_of_one (h : Hw) (e : FunnelEntry) (hf : h.funnel = [e]) (hc : e.since < h.cc) :
    h.funnelRead = (h.taken e).readRecord e.record := by
  unfold Hw.funnelRead
  rw [h.funnelBest_of_one e hf hc]
  dsimp only
  rw [hf, List.erase_cons_head]
  rfl

/-- FUNNEL_READ reads twice; a record that leaves the funnel empty is the only one read. -/
theorem Hw.funnelRead_twice (h : Hw) (e : FunnelEntry) (hf : h.funnel = [e]) (hc : e.since < h.cc)
    (hx : ((h.taken e).readRecord e.record).funnel = []) : h.funnelRead.funnelRead = (h.taken e).readRecord e.record := by
  rw [h.funnelRead_of_one e hf hc]
  exact Hw.funnelRead_of_none _ (Hw.funnelBest_of_empty _ hx)

/-! ## What a record brings -/

theorem Hw.readRecord_ghost (h : Hw) (r : Record) (g : Nat × Bool) (hg : ((h.part r.part).ghosts.find? fun x => x.1 == r.tag) = some g) :
    h.readRecord r = h.modPart r.part fun y => { y with ghosts := y.ghosts.erase g } := by
  unfold Hw.readRecord
  dsimp only
  rw [hg]

/-- The island after a record's command has left the order of transfer. -/
def Hw.departed (h : Hw) (r : Record) : Hw :=
  (if r.status = 0 ∨ r.status = 2 then h.bump 0x6017 (r.part + 1) r.busy else h).unsend r.part r.tag r.status r.busy r.bytes r.energy

theorem Hw.departed_keeps (h : Hw) (r : Record) : (h.departed r).funnel = h.funnel ∧ (h.departed r).descs = h.descs ∧
    (h.departed r).facets = h.facets ∧ (h.departed r).faults = h.faults ∧
    ((h.departed r).part r.part).sent = (h.part r.part).sent.erase r.tag := by
  unfold Hw.departed
  split
  · have hs := (h.bump 0x6017 (r.part + 1) r.busy).sameButParts_unsend r.part r.tag r.status r.busy r.bytes r.energy
    exact ⟨hs.funnel, hs.descs, hs.facets, hs.faults, Hw.sent_unsend ..⟩
  · have hs := h.sameButParts_unsend r.part r.tag r.status r.busy r.bytes r.energy
    exact ⟨hs.funnel, hs.descs, hs.facets, hs.faults, Hw.sent_unsend ..⟩

/-- The record of a plan's command. -/
theorem Hw.readRecord_plan (h : Hw) (r : Record) (d : Desc) (hg : (h.part r.part).ghosts = []) (hd : h.desc? r.tag = some d)
    (hs : (h.part r.part).sent.contains r.tag = true) (ho : d.owner = .plan) (hr : d.retireOnRecord = false) :
    h.readRecord r = (h.departed r).actOn r.tag d r := by
  unfold Hw.readRecord
  dsimp only
  rw [hg]
  dsimp only [List.find?]
  rw [hd]
  dsimp only
  rw [if_neg (by simp only [hs]; decide), ho, hr]
  rfl

theorem Hw.recordChunks_of_class (h : Hw) (d : Desc) (hc : d.opClass ≠ 4) : h.recordChunks d = h := by
  unfold Hw.recordChunks
  split
  · rfl
  · exact if_pos (.inl hc)

/-- An OK record of a command that projects nothing. -/
theorem Hw.actOn_ok (h : Hw) (t : Nat) (d : Desc) (r : Record) (hs : r.status = 0) (ho : d.owner = .plan) (hc : d.opClass ≠ 4) :
    h.actOn t d r = (h.chargePlan d r).planDone t d := by
  unfold Hw.actOn
  rw [hs]
  dsimp only
  rw [if_pos ho]
  exact Hw.recordChunks_of_class _ d hc

/-- A DISCARDED record of a command whose facet runs on. -/
theorem Hw.actOn_discarded (h : Hw) (t : Nat) (d : Desc) (r : Record) (hs : r.status = 1) (ho : d.owner = .plan)
    (ha : (h.facet d.facet).state = .active) (hr : (h.facet d.facet).recovering = false) : h.actOn t d r = h.reenter t := by
  have hkeep : h.retiresDiscarded d = false := by
    unfold Hw.retiresDiscarded
    rw [ho]
    simp only [ha, hr]
    rfl
  unfold Hw.actOn
  rw [hs, hkeep]
  rfl

theorem Hw.noteLevel_keeps (h : Hw) (idx sub threshold before after : Nat) :
    (h.noteLevel idx sub threshold before after).funnel = h.funnel ∧ (h.noteLevel idx sub threshold before after).descs = h.descs ∧
      (h.noteLevel idx sub threshold before after).facets = h.facets ∧ (h.noteLevel idx sub threshold before after).faults = h.faults := by
  have hp : ∀ (g : Hw) (v : Nat), (g.pulse v).funnel = g.funnel ∧ (g.pulse v).descs = g.descs ∧ (g.pulse v).facets = g.facets ∧
      (g.pulse v).faults = g.faults := fun g v => by
    unfold Hw.pulse
    split <;> exact ⟨rfl, rfl, rfl, rfl⟩
  unfold Hw.noteLevel
  dsimp only
  split
  · exact hp _ _
  · exact ⟨rfl, rfl, rfl, rfl⟩

/-- A command that is to be sent again is READY, and no facet changes. -/
theorem Hw.reenter_spec (h : Hw) (t : Nat) (d : Desc) (hd : h.desc? t = some d) : (h.reenter t).funnel = h.funnel ∧
    ((h.reenter t).desc? t).map (fun x => x.state) = some .ready ∧ (h.reenter t).facets = h.facets ∧ (h.reenter t).faults = h.faults := by
  unfold Hw.reenter
  rw [hd]
  dsimp only
  have hm : h.modDesc t (fun d => { d with state := .ready, readyCc := h.cc }) =
      { h with descs := Map.insert h.descs t { d with state := .ready, readyCc := h.cc } } := by
    unfold Hw.modDesc
    rw [hd]
  rw [hm]
  obtain ⟨hf, hs, hx, hz⟩ := Hw.noteLevel_keeps _ _ _ _ _ _
  refine ⟨hf.trans rfl, ?_, hx.trans rfl, hz.trans rfl⟩
  refine (congrArg (fun m => (Map.find? m t).map fun x : Desc => x.state) hs).trans ?_
  exact congrArg (Option.map _) (Map.find?_insert_self _ _ _)

/-! ## The end of a plan's command -/

/-- A command without a successor frees its descriptor. -/
theorem Hw.planDone_last (h : Hw) (t : Nat) (d : Desc) (hs : d.succ = []) : (h.planDone t d).funnel = h.funnel ∧
    (h.planDone t d).faults = h.faults ∧ (h.planDone t d).desc? t = none ∧ ∀ p, ((h.planDone t d).part p).sent = (h.part p).sent := by
  unfold Hw.planDone
  rw [hs]
  obtain ⟨hf, hx, -, hp⟩ := Hw.doneDesc_keeps (h.modPlan d.facet d.step fun p => { p with doneIds := p.doneIds ++ [d.cmdId] }) t
  exact ⟨hf, hx, Hw.desc?_doneDesc _ t, hp⟩

/-- One with a successor counts it down as well. -/
theorem Hw.planDone_next (h : Hw) (t : Nat) (d : Desc) (k : Nat) (c : Desc) (hs : d.succ = [k]) (hk : k ≠ t) (hc : h.desc? k = some c)
    (hw : c.state = .waiting) (h0 : 0 < c.counter) : (h.planDone t d).funnel = h.funnel ∧ (h.planDone t d).faults = h.faults ∧
      (h.planDone t d).desc? t = none ∧ ((h.planDone t d).desc? k).map (fun x => x.counter) = some (c.counter - 1) := by
  obtain ⟨c', hd, hn, hf, hx, -⟩ := Hw.decrement_waiting (h.modPlan d.facet d.step fun p => { p with doneIds := p.doneIds ++ [d.cmdId] }) k c
    hc hw h0
  unfold Hw.planDone Hw.decrementAll
  rw [hs]
  dsimp only [List.foldl]
  obtain ⟨kf, kx, -⟩ := Hw.doneDesc_keeps ((h.modPlan d.facet d.step fun p => { p with doneIds := p.doneIds ++ [d.cmdId] }).decrement k) t
  exact ⟨kf.trans hf, kx.trans hx, Hw.desc?_doneDesc _ t, by rw [Hw.desc?_doneDesc_ne _ t k c' hk hd, Option.map_some, hn]⟩

/-! ## The command watchdog -/

/-- The expiry of a plan's command is a transient fault of its facet. -/
theorem Hw.cmdExpired_plan (h : Hw) (t : Nat) (d : Desc) (hd : h.desc? t = some d) (hs : d.state = .dispatched) (he : d.expired = false)
    (ho : d.owner = .plan) (hr : d.retireOnRecord = false)
    (hf : (h.funnel.any fun e => e.record.tag == t && e.record.part == d.part) = false) (hl : h.cmdLimit d ≤ h.now) :
    ∃ g : Hw, h.cmdExpired t = g.fault [d.facet] (.part d.part) false ∧ g.facets = h.facets ∧ g.faults = h.faults ∧
      ∀ i s, i < 0xB000 → s < 256 → g.raw i s = h.raw i s ∧ g.get i s = h.get i s := by
  have hu := h.sameButParts_unsend d.part t 0xF 0 0 0
  have hm := (Hw.sameButParts_modPart (h.unsend d.part t 0xF 0 0 0) d.part fun x => { x with ghosts := x.ghosts ++ [(t, true)] }).trans hu
  unfold Hw.cmdExpired
  rw [hd]
  dsimp only
  rw [if_neg (by omega)]
  unfold Hw.cmdExpire
  rw [hd]
  dsimp only
  rw [if_neg (by simp [hs, he, hf])]
  generalize (h.unsend d.part t 0xF 0 0 0).modPart d.part (fun x => { x with ghosts := x.ghosts ++ [(t, true)] }) = y at hm ⊢
  have hy : y.desc? t = some d := (hm.desc? t).trans hd
  have hmod : y.modDesc t (fun d => { d with expired := true }) = { y with descs := Map.insert y.descs t { d with expired := true } } := by
    unfold Hw.modDesc
    rw [hy]
  have hlose : y.lose t = { y with descs := Map.insert y.descs t { d with expired := true } } := by
    have hfind : ({ y with descs := Map.insert y.descs t { d with expired := true } } : Hw).desc? t = some { d with expired := true } :=
      Map.find?_insert_self _ _ _
    unfold Hw.lose
    dsimp only
    rw [hmod, hfind]
    dsimp only
    rw [if_neg (by simp [ho]), if_neg (by simp [hr])]
  exact ⟨_, rfl, by rw [hlose]; exact hm.facets, by rw [hlose]; exact hm.faults,
    fun i s hi hs => by rw [hlose]; exact ⟨hm.raw i s hi hs, hm.get i s hi hs⟩⟩

/-- Settles O33: the record that is read, by what it brings, and the watchdog. -/
theorem funnelReads : Obligations.FunnelReads := by
  unfold Obligations.FunnelReads
  intro s hr
  obtain ⟨-, -, -, hnone⟩ := hr.quiet
  refine ⟨fun hf => ?_, fun e hf hc => ?_, fun e g hf hc hage hg => ?_, fun e d hf hc hg hd hs ho hret hcls hst => ?_,
    fun e d hf hc hg hd hs ho hret hact hrec hst => ?_, fun tag d hd hs he ho hret hlt hfun hlim hact hleft => ?_, fun tag d hd hn => ?_,
    fun tag hd => ?_⟩
  · have e := Hw.funnelRead_of_none _ (Hw.funnelBest_of_empty (s.hw.begun .alone 0) hf)
    exact hr.idleF .alone 0 _ (by rw [e, e])
  · have e := Hw.funnelRead_of_none _ (Hw.funnelBest_of_early (s.hw.begun .alone 0) e hf hc)
    exact hr.idleF .alone 0 _ (by rw [e, e])
  · have ht : (s.hw.begun .alone 0).taken e = { s.hw.begun .alone 0 with funnel := [] } := by
      have : e.aged (s.hw.begun .alone 0).cc = false := decide_eq_false (show ¬ e.since + 8 ≤ s.hw.cc by omega)
      unfold Hw.taken
      rw [this]
      rfl
    have hread : ((s.hw.begun .alone 0).taken e).readRecord e.record = _ := Hw.readRecord_ghost _ e.record g (by rw [ht]; exact hg)
    have htwice := (s.hw.begun .alone 0).funnelRead_twice e hf hc (by rw [hread, ht]; rfl)
    rw [ht] at hread htwice
    exact hr.leavesNoFault .alone 0 _ (by rw [htwice, hread]; exact hnone) (.of_eq (htwice.trans hread) ⟨rfl, rfl⟩)
  · obtain ⟨tf, td, tp, -, tx⟩ := (s.hw.begun .alone 0).taken_keeps e
    have htwice := (s.hw.begun .alone 0).funnelRead_twice e hf hc
    generalize (s.hw.begun .alone 0).taken e = x at *
    have hpart : x.part e.record.part = s.hw.part e.record.part := congrArg (Map.getD · e.record.part Part.reset) tp
    have hread := x.readRecord_plan e.record d (by rw [hpart]; exact hg) ((congrArg (Map.find? · e.record.tag) td).trans hd)
      (by rw [hpart]; exact hs) ho hret
    rw [Hw.actOn_ok _ _ d _ hst ho hcls] at hread
    obtain ⟨df, dd, -, dx, ds⟩ := x.departed_keeps e.record
    have hc := (x.departed e.record).sameButFacets_chargePlan d e.record
    have hfun := hc.funnel.trans (df.trans tf)
    have hfaults := hc.faults.trans (dx.trans (tx.trans hnone))
    refine ⟨fun hsucc => ?_, fun k c hsucc hk hkd hkw hk0 => ?_⟩
    · obtain ⟨pf, px, pd, pp⟩ := ((x.departed e.record).chargePlan d e.record).planDone_last e.record.tag d hsucc
      have htw := htwice (by rw [hread]; exact pf.trans hfun)
      rw [hread] at htw
      refine hr.nextNoFault .alone 0 _ (by rw [htw]; exact px.trans hfaults) ?_
      rw [htw]
      refine ⟨(Hw.settle_funnel ..).trans (pf.trans hfun), ?_, ?_⟩
      · exact (congrArg (Map.find? · e.record.tag) (Hw.settle_descs ..)).trans pd
      · refine (congrArg (fun m => (Map.getD m e.record.part Part.reset).sent) (Hw.settle_parts ..)).trans ((pp _).trans ?_)
        rw [hc.part, ds, hpart]
    · have hkd' : ((x.departed e.record).chargePlan d e.record).desc? k = some c :=
        (hc.desc? k).trans ((congrArg (Map.find? · k) (dd.trans td)).trans hkd)
      obtain ⟨pf, px, pd, pk⟩ := ((x.departed e.record).chargePlan d e.record).planDone_next e.record.tag d k c hsucc hk hkd' hkw hk0
      have htw := htwice (by rw [hread]; exact pf.trans hfun)
      rw [hread] at htw
      refine hr.nextNoFault .alone 0 _ (by rw [htw]; exact px.trans hfaults) ?_
      rw [htw]
      refine ⟨(Hw.settle_funnel ..).trans (pf.trans hfun), ?_, ?_⟩
      · exact (congrArg (Map.find? · e.record.tag) (Hw.settle_descs ..)).trans pd
      · exact (congrArg (fun m => (Map.find? m k).map fun y : Desc => y.counter) (Hw.settle_descs ..)).trans pk
  · obtain ⟨tf, td, tp, tfac, tx⟩ := (s.hw.begun .alone 0).taken_keeps e
    have htwice := (s.hw.begun .alone 0).funnelRead_twice e hf hc
    generalize (s.hw.begun .alone 0).taken e = x at *
    have hpart : x.part e.record.part = s.hw.part e.record.part := congrArg (Map.getD · e.record.part Part.reset) tp
    have hread := x.readRecord_plan e.record d (by rw [hpart]; exact hg) ((congrArg (Map.find? · e.record.tag) td).trans hd)
      (by rw [hpart]; exact hs) ho hret
    obtain ⟨df, dd, dfac, dx, -⟩ := x.departed_keeps e.record
    have hfacet : (x.departed e.record).facet d.facet = s.hw.facet d.facet := congrArg (Map.getD · d.facet Facet.reset) (dfac.trans tfac)
    rw [Hw.actOn_discarded _ _ d _ hst ho (by rw [hfacet]; exact hact) (by rw [hfacet]; exact hrec)] at hread
    obtain ⟨pf, pd, pfac, px⟩ := (x.departed e.record).reenter_spec e.record.tag d
      ((congrArg (Map.find? · e.record.tag) (dd.trans td)).trans hd)
    have htw := htwice (by rw [hread]; exact pf.trans (df.trans tf))
    rw [hread] at htw
    refine hr.nextNoFault .alone 0 _ (by rw [htw]; exact px.trans (dx.trans (tx.trans hnone))) ?_
    rw [htw]
    refine ⟨(Hw.settle_funnel ..).trans (pf.trans (df.trans tf)), ?_, (Hw.settle_facets ..).trans (pfac.trans (dfac.trans tfac))⟩
    exact (congrArg (fun m => (Map.find? m e.record.tag).map fun y : Desc => y.state) (Hw.settle_descs ..)).trans pd
  · obtain ⟨g, hg, gf, gx, god⟩ := (s.hw.begun .expiry 0).cmdExpired_plan tag d hd hs he ho hret hfun hlim
    obtain ⟨hraw, -⟩ := god 0xA006 (d.facet + 1) (by decide) (by omega)
    obtain ⟨-, hget⟩ := god 0xA001 1 (by decide) (by decide)
    have hmay : s.hw.MayReplay d.facet := ⟨hact, hleft⟩
    refine hr.recovers .expiry 0 _ d.facet (.part d.part) ?_ ?_
    · rw [hg]
      exact congrArg (· ++ _) (gx.trans hnone)
    · rw [hg]
      exact hmay.of_eq (congrArg (Map.getD · d.facet Facet.reset) gf) hraw hget
  · refine hr.idleF .expiry 0 _ ?_
    unfold Hw.cmdExpired
    rw [show (s.hw.begun .expiry 0).desc? tag = some d from hd]
    exact if_pos hn
  · refine hr.idleF .expiry 0 _ ?_
    unfold Hw.cmdExpired
    rw [show (s.hw.begun .expiry 0).desc? tag = none from hd]

end Sys2Proof.Machine

/-! PROOFS. What a replay of a facet's step keeps (R365). -/

namespace Sys2Proof.Machine

open Sys2Proof

/-! ## What a replay keeps -/

/-- A facet without what a replay of its step starts afresh. -/
def Facet.settings (x : Facet) : Facet :=
  { x with ledger := Ledger.empty, composing := none, tes := .idle, plans := [], recovering := false, episode := [], lastFaultStep := none }

/-- An island without what a replay may change. -/
def Hw.standing (h : Hw) : Hw :=
  { h with od := [], facets := [], parts := [], seqs := [], pages := Hw.reset.pages, queues := [], mem := Hw.reset.mem,
           trace := Hw.reset.trace, descs := [], descFreed := [], delays := [], sems := [], acct := Hw.reset.acct, smp := Hw.reset.smp,
           secUsed := 0 }

/-- What a replay keeps: the facets' settings, the masked partitions and the dictionary but for its own counters. -/
structure Hw.Replayed (a b : Hw) : Prop where
  body : a.standing = b.standing
  settings : ∀ k, (a.facet k).settings = (b.facet k).settings
  masked : ∀ p, (b.part p).state = .masked → (a.part p).state = .masked
  od : ∀ i s o, i < 0xB000 → i ≠ 0x2112 → i ≠ 0xA002 → i ≠ 0xA006 → s < 256 → Map.find? a.od (odKey i s o) = Map.find? b.od (odKey i s o)

theorem Hw.Replayed.refl (a : Hw) : Hw.Replayed a a := ⟨rfl, fun _ => rfl, fun _ h => h, fun _ _ _ _ _ _ _ _ => rfl⟩

theorem Hw.Replayed.trans {a b c : Hw} (h1 : Hw.Replayed a b) (h2 : Hw.Replayed b c) : Hw.Replayed a c :=
  ⟨h1.body.trans h2.body, fun k => (h1.settings k).trans (h2.settings k), fun p hp => h1.masked p (h2.masked p hp),
    fun i s o h3 h4 h5 h6 hs => (h1.od i s o h3 h4 h5 h6 hs).trans (h2.od i s o h3 h4 h5 h6 hs)⟩

theorem Hw.replayed_foldl {α : Type} (g : Hw → α → Hw) (hg : ∀ b a, Hw.Replayed (g b a) b) (l : List α) (b : Hw) :
    Hw.Replayed (l.foldl g b) b := by
  induction l generalizing b with
  | nil => exact .refl b
  | cons a r ih => exact (ih (g b a)).trans (hg b a)

/-- A change of what a replay starts afresh, outside the facets, partitions and the dictionary. -/
theorem Hw.Replayed.of_standing {a b : Hw} (h : a.standing = b.standing) (hf : a.facets = b.facets) (hp : a.parts = b.parts)
    (ho : a.od = b.od) : Hw.Replayed a b :=
  ⟨h, fun k => congrArg (fun m => (Map.getD m k Facet.reset).settings) hf,
    fun p hx => (congrArg (fun m => (Map.getD m p Part.reset).state) hp).trans hx, fun _ _ _ _ _ _ _ _ => by rw [ho]⟩

theorem Hw.replayed_withAcct (h : Hw) (a : Account) : Hw.Replayed { h with acct := a } h := .of_standing rfl rfl rfl rfl
theorem Hw.replayed_withSampler (h : Hw) (a : Sampler) : Hw.Replayed { h with smp := a } h := .of_standing rfl rfl rfl rfl

/-- Such a change after others. -/
theorem Hw.Replayed.then_standing {a b c : Hw} (hb : Hw.Replayed b c) (h : a.standing = b.standing) (hf : a.facets = b.facets)
    (hp : a.parts = b.parts) (ho : a.od = b.od) : Hw.Replayed a c := (Hw.Replayed.of_standing h hf hp ho).trans hb

theorem Hw.Replayed.get {a b : Hw} (h : Hw.Replayed a b) (i s : Nat) (h1 : i < 0xB000) (h2 : i ≠ 0x2112) (h3 : i ≠ 0xA002) (h4 : i ≠ 0xA006)
    (hs : s < 256) : a.get i s = b.get i s := by simp only [Hw.get, Hw.getAt, h.od i s 0 h1 h2 h3 h4 hs]

theorem Hw.Replayed.raw {a b : Hw} (h : Hw.Replayed a b) (i s : Nat) (h1 : i < 0xB000) (h2 : i ≠ 0x2112) (h3 : i ≠ 0xA002) (h4 : i ≠ 0xA006)
    (hs : s < 256) : a.raw i s = b.raw i s := by simp only [Hw.raw, Map.getD, h.od i s 0 h1 h2 h3 h4 hs]

/-! ## The parts of a replay -/

/-- A facet whose settings stay. -/
theorem Hw.replayed_modFacet (h : Hw) (f : Nat) (g : Facet → Facet) (hg : (g (h.facet f)).settings = (h.facet f).settings) :
    Hw.Replayed (h.modFacet f g) h := by
  refine ⟨rfl, fun k => ?_, fun _ hp => hp, fun _ _ _ _ _ _ _ _ => rfl⟩
  by_cases hk : k = f
  · rw [hk, Hw.facet_modFacet, hg]
  · rw [Hw.facet_modFacet_ne _ _ _ _ hk]

/-- A partition that stays masked if it was. -/
theorem Hw.replayed_setPart (h : Hw) (p : Nat) (x : Part) (hx : (h.part p).state = .masked → x.state = .masked) :
    Hw.Replayed (h.setPart p x) h := by
  refine ⟨rfl, fun _ => rfl, fun k hk => ?_, fun _ _ _ _ _ _ _ _ => rfl⟩
  by_cases he : k = p
  · rw [he, Hw.part_setPart]
    exact hx (he ▸ hk)
  · rw [Hw.part_setPart_ne _ _ _ _ he]
    exact hk

/-- A partition whose state stays. -/
theorem Hw.replayed_modPart (h : Hw) (p : Nat) (g : Part → Part) (hg : (g (h.part p)).state = (h.part p).state) :
    Hw.Replayed (h.modPart p g) h := h.replayed_setPart p _ fun hm => hg.trans hm

theorem Hw.Replayed.of_mem {a b : Hw} (h : Hw.SameButMem a b) : Hw.Replayed a b :=
  ⟨by have e := congrArg Hw.standing h.body; exact e, fun k => congrArg (fun m => (Map.getD m k Facet.reset).settings) h.facets,
    fun p hx => (congrArg (fun m => (Map.getD m p Part.reset).state) h.parts).trans hx, fun i s o _ hi _ _ hs => h.od i s o hi hs⟩

theorem Hw.replayed_set (h : Hw) (i s v : Nat) (hi : i = 0xA002 ∨ i = 0xA006) (hs : s < 256) : Hw.Replayed (h.set i s v) h :=
  ⟨rfl, fun _ => rfl, fun _ hp => hp, fun j r o _ _ h5 h6 hr => Map.find?_insert_ne _ _ _ _ (odKey_idx_ne j r o i s 0 hr hs (by omega))⟩

theorem Hw.replayed_unallocPage (h : Hw) (r : Nat × Nat) : Hw.Replayed (h.unallocPage r) h := .of_standing rfl rfl rfl rfl

theorem Hw.replayed_freeBlocks (h : Hw) (l : List Nat) : Hw.Replayed (h.freeBlocks l) h := .of_standing rfl rfl rfl rfl

theorem Hw.replayed_setSeq (h : Hw) (slot : Nat) (q : Seq) : Hw.Replayed (h.setSeq slot q) h := .of_standing rfl rfl rfl rfl

theorem Hw.replayed_discardSeq (h : Hw) (slot : Nat) : Hw.Replayed (h.discardSeq slot) h := by
  unfold Hw.discardSeq
  dsimp only
  split
  case h_1 q hq =>
    have hpages := Hw.replayed_foldl (fun (a : Hw) (r : PageRef) => a.unallocPage (r.pool, r.page)) (fun b _ => b.replayed_unallocPage _)
      (pagesMinus q.pagesCur q.pagesCom).reverse h
    exact (Hw.replayed_setSeq ..).trans ((Hw.replayed_freeBlocks ..).trans hpages)
  case h_2 => exact .refl h

theorem Hw.replayed_chargeNow (h : Hw) (tenant : Nat) (c : Charges) : Hw.Replayed (h.chargeNow tenant c) h := by
  have hroll : Hw.Replayed h.rollAccounts h := by
    unfold Hw.rollAccounts
    dsimp only
    split
    · exact .of_standing rfl rfl rfl rfl
    · exact .refl h
  unfold Hw.chargeNow
  exact (Hw.replayed_withAcct _ _).trans hroll

theorem Hw.replayed_modSeq (h : Hw) (slot : Nat) (g : Seq → Seq) : Hw.Replayed (h.modSeq slot g) h := by
  unfold Hw.modSeq
  split
  · exact .of_standing rfl rfl rfl rfl
  · exact .refl h

theorem Hw.replayed_modQueue (h : Hw) (q : Nat) (g : Queue → Queue) : Hw.Replayed (h.modQueue q g) h := .of_standing rfl rfl rfl rfl

theorem Hw.replayed_deliver (h : Hw) (q : Nat) (entry : List Byte) : Hw.Replayed (h.deliver q entry) h := by
  unfold Hw.deliver
  exact (Hw.replayed_modQueue ..).trans (.of_mem (h.sameButMem_memPost ..))

theorem Hw.replayed_writeMigrated (h : Hw) (m : Migration) : Hw.Replayed (h.writeMigrated m) h := by
  unfold Hw.writeMigrated
  split
  · exact .refl h
  · dsimp only
    split
    · exact (Hw.replayed_modSeq ..).trans (h.replayed_deliver ..)
    · exact h.replayed_deliver ..

theorem Hw.replayed_rewind (h : Hw) (f : Nat) : Hw.Replayed (h.rewind f) h := Hw.replayed_foldl _ (fun b _ => b.replayed_modQueue ..) _ _

/-- The end of a window leaves the partition's state. -/
theorem Hw.replayed_endWindow (h : Hw) (p tag status fabric bytes energy : Nat) : Hw.Replayed (h.endWindow p tag status fabric bytes energy) h := by
  have htrace : ∀ (g : Hw) (ty u : Nat) (f : Option Nat) (l : List Byte), Hw.Replayed (g.traceRec ty u f l) g := fun g ty u f l => by
    unfold Hw.traceRec
    split
    · exact .of_standing rfl rfl rfl rfl
    · exact .refl g
  have hbin : ∀ (g : Hw) (w : CmdWindow) (b e : Nat), Hw.Replayed (g.binAdd w b e) g := fun g w b e => by
    have hs := g.sameButParts_binAdd w b e
    exact ⟨by have e := congrArg Hw.standing hs.body; exact e, fun k => congrArg Facet.settings (hs.facet k),
      fun p hx => (congrArg (fun m => (Map.getD m p Part.reset).state) (g.parts_binAdd w b e)).trans hx,
      fun i s o hi _ _ _ hr => hs.od i s o hi hr⟩
  unfold Hw.endWindow
  dsimp only
  split
  · split
    · exact (htrace ..).trans ((hbin ..).trans (h.replayed_setPart _ _ id))
    · exact .refl h
  · exact .refl h

theorem Hw.replayed_startWindow (h : Hw) (p : Nat) : Hw.Replayed (h.startWindow p) h := by
  unfold Hw.startWindow
  dsimp only
  split
  · split
    · exact h.replayed_setPart _ _ id
    · exact .refl h
  · exact .refl h

theorem Hw.replayed_unsend (h : Hw) (p tag status fabric bytes energy : Nat) : Hw.Replayed (h.unsend p tag status fabric bytes energy) h :=
  (Hw.replayed_startWindow ..).trans ((Hw.replayed_modPart _ _ _ rfl).trans (h.replayed_endWindow ..))

theorem Hw.replayed_freeDesc (h : Hw) (t : Nat) : Hw.Replayed (h.freeDesc t) h := by
  unfold Hw.freeDesc
  split
  case h_1 d hd =>
    have hmap : Hw.Replayed { h with descs := Map.erase h.descs t, descFreed := h.descFreed ++ [t] } h := .of_standing rfl rfl rfl rfl
    exact (Hw.replayed_modPart _ _ _ rfl).trans hmap
  · exact .refl h

theorem Hw.replayed_dropWaiter (h : Hw) (t : Nat) : Hw.Replayed (h.dropWaiter t) h := .of_standing rfl rfl rfl rfl

theorem Hw.replayed_retire (h : Hw) (t : Nat) : Hw.Replayed (h.retire t) h := by
  unfold Hw.retire
  split
  case h_2 => exact .refl h
  case h_1 d hd =>
    refine (Hw.replayed_freeDesc ..).trans ((Hw.replayed_dropWaiter ..).trans ?_)
    have hsent : Hw.Replayed (if d.state = .dispatched ∧ (!d.expired) = true then
        (h.unsend d.part t 0xF 0 0 0).modPart d.part fun p => { p with ghosts := p.ghosts ++ [(t, false)] } else h) h := by
      split
      · exact (Hw.replayed_modPart _ _ _ rfl).trans (h.replayed_unsend ..)
      · exact .refl h
    split
    · exact hsent.then_standing rfl rfl rfl rfl
    · exact hsent.then_standing rfl rfl rfl rfl
    · exact hsent

/-- The island whose facet `f` has lost its open ledger, with the entries and requests of its positions. -/
def Hw.ledgerless (h : Hw) (f : Nat) : Hw :=
  let h1 := h.modFacet f fun y => { y with ledger := Ledger.empty, composing := none, tes := .idle }
  { h1 with smp := { h1.smp with store := h1.smp.store.filter fun e => e.facet ≠ f,
                                 replays := h1.smp.replays.filter fun e => e.facet ≠ f } }

theorem Hw.replayed_ledgerless (h : Hw) (f : Nat) : Hw.Replayed (h.ledgerless f) h :=
  (Hw.replayed_withSampler _ _).trans (h.replayed_modFacet f _ rfl)

theorem Hw.replayed_discardLedger (h : Hw) (f : Nat) : Hw.Replayed (h.discardLedger f) h := by
  unfold Hw.discardLedger
  dsimp only
  have hseqs := Hw.replayed_foldl Hw.discardSeq Hw.replayed_discardSeq (h.slotsOf f) h
  generalize (h.slotsOf f).foldl Hw.discardSeq h = h1 at hseqs ⊢
  have hcharge := (Hw.replayed_foldl (fun (a : Hw) e => a.chargeNow faultAccount e.2) (fun b _ => b.replayed_chargeNow _ _)
    (h.facet f).ledger.charges h1).trans hseqs
  generalize (h.facet f).ledger.charges.foldl (fun (a : Hw) e => a.chargeNow faultAccount e.2) h1 = h2 at hcharge ⊢
  have hmig := (Hw.replayed_foldl Hw.writeMigrated Hw.replayed_writeMigrated (h2.migrationsOf f) (h2.rewind f)).trans
    ((h2.replayed_rewind f).trans hcharge)
  generalize (h2.migrationsOf f).foldl Hw.writeMigrated (h2.rewind f) = h3 at hmig ⊢
  split
  · exact (Hw.replayed_ledgerless _ f).trans ((Hw.replayed_foldl Hw.retire Hw.replayed_retire _ h3).trans hmig)
  · exact (h3.replayed_ledgerless f).trans hmig

theorem Hw.replayed_withSecUsed (h : Hw) (n : Nat) : Hw.Replayed { h with secUsed := n } h := .of_standing rfl rfl rfl rfl

theorem Hw.replayed_modPlan (h : Hw) (f n : Nat) (g : Plan → Plan) : Hw.Replayed (h.modPlan f n g) h := by
  unfold Hw.modPlan
  exact h.replayed_modFacet f _ rfl

theorem Hw.replayed_reopen (h : Hw) (f : Nat) (l : List (Nat × Nat)) : Hw.Replayed (h.reopen f l) h := by
  unfold Hw.reopen
  refine Hw.replayed_foldl _ (fun b r => ?_) l h
  dsimp only
  exact (Hw.replayed_modPlan ..).trans (b.replayed_withSecUsed _)

theorem Hw.replayed_requestInt (h : Hw) (p : Nat) : Hw.Replayed (h.requestInt p) h := by
  unfold Hw.requestInt
  dsimp only
  split
  case isTrue hs => exact h.replayed_setPart _ _ fun hm => by rcases hs with e | e <;> rw [e] at hm <;> cases hm
  case isFalse => exact .refl h

theorem Hw.replayed_startReplay (h : Hw) (f : Nat) (hf : f < 16) : Hw.Replayed (h.startReplay f) h := by
  unfold Hw.startReplay
  dsimp only
  have hopen := (Hw.replayed_reopen (h.discardLedger f) f (h.facet f).ledger.results).trans (h.replayed_discardLedger f)
  generalize (h.discardLedger f).reopen f (h.facet f).ledger.results = h1 at hopen ⊢
  have hinc : Hw.Replayed (h1.inc 0xA002 (f + 1)) h :=
    Hw.Replayed.trans (h1.replayed_set _ _ _ (.inl rfl) (by omega)) hopen
  exact (Hw.replayed_foldl Hw.requestInt Hw.replayed_requestInt _ _).trans ((Hw.replayed_modFacet _ f _ rfl).trans hinc)

/-- A fault that a replay answers keeps what a replay keeps. -/
theorem Hw.MayReplay.replayed {h : Hw} {f : Nat} (hm : h.MayReplay f) (hf : f < 16) (u : FaultUnit) : Hw.Replayed (h.faultOn f u) h := by
  have hruns : (h.facet f).state.runs = true := by rw [hm.active]; rfl
  have hne : ¬ (h.facet f).state = .exclusive := by simp [hm.active]
  unfold Hw.faultOn
  dsimp only
  rw [if_neg (by simp [hruns]), if_pos hm.left, if_neg hne]
  exact (Hw.replayed_startReplay _ f hf).trans ((Hw.replayed_modFacet _ f _ rfl).trans (h.replayed_set _ _ _ (.inr rfl) (by omega)))

/-! ## The machine after a fault that a replay answers -/

theorem obsKey_low (i s o : Nat) (hi : i < 0xB000) (hs : s < 256) : obsKey (odKey i s o) = false := by
  simp [obsKey, odKey]
  omega

/-- Of the machine that a command leaves, a statement about what its function leaves of the island. -/
theorem State.Ready.nextEq {s : State} (hr : s.Ready) (c : CcPart) (u : Nat) (f : Hw → Hw) {y : Hw} {P : State → Prop}
    (he : f (s.hw.begun c u) = y) (hP : P { s with hw := Hw.settle (s.hw.started c) y }) :
    ∃ t, (.next (s.onCoreAt c u f) : Host.Outcome State Fault Refusal) = .next t ∧ P t := hr.next c u f (by rw [← he] at hP; exact hP)

/-- The same of a command that may find a fault and finds none. -/
theorem State.Ready.nextEqF {s : State} (hr : s.Ready) (c : CcPart) (u : Nat) (f : Hw → Hw) {y : Hw} {P : State → Prop}
    (he : f (s.hw.begun c u) = y) (hf : y.faults = []) (hP : P { s with hw := Hw.settle (s.hw.started c) y }) :
    ∃ t, (.next (s.onCoreFAt c u f) : Host.Outcome State Fault Refusal) = .next t ∧ P t :=
  hr.nextNoFault c u f (by rw [he]; exact hf) (by rw [he]; exact hP)

/-- A fault of one facet, found by a command and answered by a replay: the facet recovers, and what a replay keeps is as the command left it. -/
theorem State.Ready.replays {s : State} (hr : s.Ready) (c : CcPart) (v : Nat) (g : Hw → Hw) (f : Nat) (u : FaultUnit) (hf16 : f < 16)
    (hf : (g (s.hw.begun c v)).faults = [{ facets := [f], unit := u, permanent := false }]) (hm : (g (s.hw.begun c v)).MayReplay f)
    {P : State → Prop} (hP : ∀ t : State, (t.hw.facet f).recovering = true →
      (∀ k, (t.hw.facet k).settings = ((g (s.hw.begun c v)).facet k).settings) →
      (∀ i r, i < 0xB000 → i ≠ 0x2112 → i ≠ 0xA002 → i ≠ 0xA006 → r < 256 → t.hw.get i r = (g (s.hw.begun c v)).get i r) → P t) :
    ∃ t, (.next (s.onCoreFAt c v g) : Host.Outcome State Fault Refusal) = .next t ∧ P t := by
  refine hr.nextF c v g ?_
  rw [Hw.runFaults_one _ f u hf]
  generalize g (s.hw.begun c v) = x at hm hP ⊢
  have hm' : ({ x with faults := [] } : Hw).MayReplay f := hm.of_eq rfl rfl rfl
  have hrep := hm'.replayed hf16 u
  refine hP _ ?_ (fun k => ?_) fun i r h1 h2 h3 h4 h5 => ?_
  · exact (congrArg Facet.recovering (Hw.settle_facet ..)).trans (hm'.recovers u)
  · exact (congrArg Facet.settings (Hw.settle_facet ..)).trans (hrep.settings k)
  · exact (Hw.settle_get _ _ _ _ (obsKey_low i r 0 h1 h5)).trans (hrep.get i r h1 h2 h3 h4 h5)

end Sys2Proof.Machine

/-! PROOFS. R27 to R35: phase reports, step begins and stalls. -/

namespace Sys2Proof.Machine

open Sys2Proof

/-! ## Reports -/

/-- A facet at a new phase. -/
def Facet.atPhase (x : Facet) (phase now : Nat) : Facet :=
  { x with phase := phase, phaseNs := now, stallLogged := false, stallFaulted := false }

theorem Hw.phaseReport_of_idle (h : Hw) (f n : Nat) (hr : (h.facet f).state.runs = false) : h.phaseReport f n = h := by
  unfold Hw.phaseReport
  exact if_pos (by simp [hr])

/-- A report of a later phase is taken. -/
theorem Hw.phaseReport_later (h : Hw) (f n : Nat) (hr : (h.facet f).state.runs = true) (hn : (h.facet f).phase < n) :
    h.phaseReport f n = h.modFacet f fun x => x.atPhase n h.now := by
  have hlate : decide (n < (h.facet f).phase) = false := decide_eq_false (by omega)
  unfold Hw.phaseReport
  dsimp only
  rw [if_neg (by simp [hr]), hlate, Bool.and_false, if_neg Bool.false_ne_true, if_neg (by omega)]
  rfl

/-- A report of an earlier phase is a fault, counted and logged. -/
theorem Hw.phaseReport_earlier (h : Hw) (f n : Nat) (hr : (h.facet f).state.runs = true) (hs : (h.facet f).stepRuns = true)
    (hn : n < (h.facet f).phase) :
    h.phaseReport f n = ((h.inc 0x520A (f + 1)).event 0 (28 * 16) 4 (some f) none).fault [f] .unnamed false := by
  have hearly : decide (n < (h.facet f).phase) = true := decide_eq_true hn
  unfold Hw.phaseReport
  dsimp only
  rw [if_neg (by simp [hr]), hearly, hs, Bool.and_true, if_pos rfl]

/-! ## Begins -/

theorem Hw.stepBegin_of_idle (h : Hw) (f n : Nat) (hr : (h.facet f).state.runs = false) : h.stepBegin f n = h := by
  unfold Hw.stepBegin
  exact if_pos (by simp [hr])

/-- A facet whose next step begins, with the marks it has. -/
def Facet.nextStep (x : Facet) (now : Nat) : Facet :=
  { x with step := (x.step + 1) % 2 ^ 64, fired := [], stepRuns := true, stepBegins := (now :: x.stepBegins).take 17, modeRun := x.modePlan }

/-- The entries that fall due at a begin and the triggers that fire keep facets and sequences. -/
theorem Hw.delaysAtBegin_keeps (h : Hw) (f last n : Nat) : (∀ k, (h.delaysAtBegin f last n).facet k = h.facet k) ∧
    (h.delaysAtBegin f last n).seqs = h.seqs := by
  constructor
  · refine fun k => foldl_keeps (fun a : Hw => a.facet k) _ (fun a l => ?_) _ h
    split <;> rfl
  · refine foldl_keeps Hw.seqs _ (fun a l => ?_) _ h
    split <;> rfl

theorem Hw.stepTriggers_keeps (h : Hw) (f : Nat) : (∀ k, (h.stepTriggers f).facet k = h.facet k) ∧ (h.stepTriggers f).seqs = h.seqs := by
  constructor
  · refine fun k => foldl_keeps (fun a : Hw => a.facet k) _ (fun a n => ?_) _ h
    dsimp only
    split <;> rfl
  · refine foldl_keeps Hw.seqs _ (fun a n => ?_) _ h
    dsimp only
    split <;> rfl

/-- A begin on a step whose marks have all fired. -/
theorem Hw.stepBegin_fired (h : Hw) (f n : Nat) (hr : (h.facet f).state.runs = true) (hm : (h.facet f).mayBegin = true)
    (hu : (h.facet f).unfired = []) :
    (h.stepBegin f n).facet f = h.beginMarks f (((h.facet f).atPhase n h.now).nextStep h.now) ∧ (h.stepBegin f n).seqs = h.seqs ∧
      ∀ k, k ≠ f → (h.stepBegin f n).facet k = h.facet k := by
  unfold Hw.stepBegin
  dsimp only
  rw [if_neg (by simp [hr]), if_neg (by simp [hm]), hu]
  unfold Hw.lateMarks
  rw [if_neg (by simp [hr])]
  obtain ⟨tfacet, tseqs⟩ := Hw.stepTriggers_keeps (Hw.delaysAtBegin _ f _ _) f
  obtain ⟨dfacet, dseqs⟩ := Hw.delaysAtBegin_keeps _ f _ _
  refine ⟨?_, ?_, fun k hk => ?_⟩
  · rw [tfacet, dfacet, Hw.facet_modFacet, Hw.facet_modFacet]
    rfl
  · rw [tseqs, dseqs]
    rfl
  · rw [tfacet, dfacet, Hw.facet_modFacet_ne _ _ _ _ hk, Hw.facet_modFacet_ne _ _ _ _ hk]

/-- The marks that govern the new step are the only thing that the begin leaves open. -/
theorem Hw.beginMarks_spec (h : Hw) (f : Nat) (x : Facet) : (h.beginMarks f x).step = x.step ∧ (h.beginMarks f x).fired = x.fired ∧
    (h.beginMarks f x).stepRuns = x.stepRuns ∧ (h.beginMarks f x).phase = x.phase ∧ (h.beginMarks f x).phaseNs = x.phaseNs ∧
    (h.beginMarks f x).marks = if x.setPending && !x.setReady then x.marks else h.stagedMarks f := by
  unfold Hw.beginMarks
  split
  · exact ⟨rfl, rfl, rfl, rfl, rfl, rfl⟩
  · exact ⟨rfl, rfl, rfl, rfl, rfl, rfl⟩

/-! ## Stalls -/

theorem Hw.phaseStall_early (h : Hw) (f : Nat) (hn : h.phaseAge f < h.stallNs f) : h.phaseStall f = h := by
  have he : decide (h.stallNs f ≤ h.phaseAge f) = false := decide_eq_false (by omega)
  unfold Hw.phaseStall
  dsimp only
  rw [he, Bool.and_false, if_neg Bool.false_ne_true]

theorem Hw.phaseStall_due (h : Hw) (f : Nat) (hr : (h.facet f).state.runs = true) (hl : (h.facet f).stallLogged = false)
    (hn : h.stallNs f ≤ h.phaseAge f) :
    h.phaseStall f = (h.event 0 (35 * 16) 3 (some f) none).modFacet f fun y => { y with stallLogged := true } := by
  unfold Hw.phaseStall
  exact if_pos (by simp [hr, hl, hn])

theorem Hw.phaseStallFault_early (h : Hw) (f : Nat) (hn : h.phaseAge f < 2 * h.stallNs f) : h.phaseStallFault f = h := by
  have he : decide (2 * h.stallNs f ≤ h.phaseAge f) = false := decide_eq_false (by omega)
  unfold Hw.phaseStallFault
  dsimp only
  rw [he, Bool.and_false, if_neg Bool.false_ne_true]

theorem Hw.phaseStallFault_due (h : Hw) (f : Nat) (hr : (h.facet f).state.runs = true) (hl : (h.facet f).stallFaulted = false)
    (hn : 2 * h.stallNs f ≤ h.phaseAge f) :
    h.phaseStallFault f = (h.modFacet f fun y => { y with stallFaulted := true }).fault [f] .unnamed false := by
  unfold Hw.phaseStallFault
  exact if_pos (by simp [hr, hl, hn])

/-- Settles O28: reports, begins and the two stall limits. -/
theorem phaseReports : Obligations.PhaseReports := by
  unfold Obligations.PhaseReports
  intro s f ph hr
  obtain ⟨-, -, -, hnone⟩ := hr.quiet
  have hruns : (s.hw.facet f).state = .active → (s.hw.facet f).state.runs = true := fun h => by rw [h]; rfl
  have hkey : odKey 0xA006 (f.val + 1) 0 ≠ odKey 0x520A (f.val + 1) 0 := odKey_idx_ne _ _ _ _ _ _ (by omega) (by omega) (by decide)
  have hocc : ∀ i, i ≠ 0xC030 → odKey i (f.val + 1) 0 ≠ odKey 0xC030 (0 + 1) 0 := fun i hi =>
    odKey_idx_ne _ _ _ _ _ _ (by omega) (by decide) hi
  refine ⟨fun hrun hn => ?_, fun ha hs hn hleft => ?_, fun hrun => ?_, fun hrun hm hu => ?_, fun hrun => ?_, fun hrun hl hn => ?_,
    fun hn => ?_, fun ha hl hn hleft => ?_, fun hn => ?_⟩
  · have e := (s.hw.begun (.report f.val) 0).phaseReport_later f ph.toNat hrun hn
    refine hr.nextEqF _ 0 _ e hnone ?_
    refine ⟨(Hw.settle_facet ..).trans (Hw.facet_modFacet ..), Hw.settle_seqs .., fun k hk => ?_⟩
    exact (Hw.settle_facet ..).trans (Hw.facet_modFacet_ne _ _ _ _ fun h => hk (Fin.ext h))
  · have e := (s.hw.begun (.report f.val) 0).phaseReport_earlier f ph.toNat (hruns ha) hs hn
    have hcount := Hw.get_counted (s.hw.begun (.report f.val) 0) 0x520A (f.val + 1) 0 (28 * 16) 4 (some f.val) none (hocc _ (by decide))
    have hmay : (((s.hw.begun (.report f.val) 0).inc 0x520A (f.val + 1)).event 0 (28 * 16) 4 (some f.val) none).MayReplay f := by
      refine (Hw.MayReplay.mk (h := s.hw) ha hleft).of_eq rfl ?_ ?_
      · exact congrArg (·.getD 0) ((Map.find?_insert_ne _ _ _ _ (hocc _ (by decide))).trans (Map.find?_insert_ne _ _ _ _ hkey))
      · refine (Hw.get_event_ne _ _ _ _ _ _ _ _ (by decide)).trans (Hw.get_inc_ne _ _ _ _ _ ?_)
        exact odKey_idx_ne _ _ _ _ _ _ (by decide) (by omega) (by decide)
    refine hr.replays _ 0 _ f.val .unnamed f.isLt (by rw [e]; exact congrArg (· ++ _) hnone) (by rw [e]; exact hmay.of_eq rfl rfl rfl) ?_
    rw [e]
    exact fun t hrec _ hget => ⟨hrec, (hget _ _ (by decide) (by decide) (by decide) (by decide) (by omega)).trans hcount⟩
  · exact hr.idleF _ 0 _ (Hw.phaseReport_of_idle _ _ _ hrun)
  · obtain ⟨hfacet, hseqs, hother⟩ := (s.hw.begun (.report f.val) 0).stepBegin_fired f ph.toNat hrun hm hu
    have hset := (Hw.settle_facet (s.hw.started (.report f.val)) _ f).trans hfacet
    refine hr.nextEq _ 0 _ rfl ?_
    obtain ⟨bstep, bfired, bruns, bphase, bns, bmarks⟩ := (s.hw.begun (.report f.val) 0).beginMarks_spec f
      ((((s.hw.begun (.report f.val) 0).facet f).atPhase ph.toNat s.hw.now).nextStep s.hw.now)
    refine ⟨(congrArg Facet.step hset).trans bstep, (congrArg Facet.fired hset).trans bfired, (congrArg Facet.stepRuns hset).trans bruns,
      (congrArg Facet.phase hset).trans bphase, (congrArg Facet.phaseNs hset).trans bns, (congrArg Facet.marks hset).trans bmarks,
      (Hw.settle_seqs ..).trans hseqs, fun k hk => ?_⟩
    exact (Hw.settle_facet ..).trans (hother k fun h => hk (Fin.ext h))
  · exact hr.idle _ 0 _ (Hw.stepBegin_of_idle _ _ _ hrun)
  · have e := (s.hw.begun .alone 0).phaseStall_due f hrun hl hn
    refine hr.nextEq .alone 0 _ e ?_
    refine ⟨(Hw.settle_facet ..).trans (Hw.facet_modFacet ..), (Hw.occurred_settle ..).trans (Hw.occurred_event ..), Hw.settle_seqs ..,
      fun k hk => ?_⟩
    exact (Hw.settle_facet ..).trans (Hw.facet_modFacet_ne _ _ _ _ fun h => hk (Fin.ext h))
  · exact hr.idle .alone 0 _ (Hw.phaseStall_early _ _ hn)
  · have e := (s.hw.begun .alone 0).phaseStallFault_due f (hruns ha) hl hn
    have hmay : ((s.hw.begun .alone 0).modFacet f fun y => { y with stallFaulted := true }).MayReplay f :=
      ⟨by rw [Hw.facet_modFacet]; exact ha, hleft⟩
    refine hr.replays _ 0 _ f.val .unnamed f.isLt (by rw [e]; exact congrArg (· ++ _) hnone) (by rw [e]; exact hmay.of_eq rfl rfl rfl) ?_
    rw [e]
    refine fun t hrec hset _ => ⟨hrec, (congrArg Facet.stallFaulted (hset f)).trans ?_⟩
    change (((s.hw.begun .alone 0).modFacet f fun y => { y with stallFaulted := true }).facet f).stallFaulted = true
    rw [Hw.facet_modFacet]
  · exact hr.idleF .alone 0 _ (Hw.phaseStallFault_early _ _ hn)

end Sys2Proof.Machine

/-! PROOFS. R81 to R84, R221, R309 and R310: drains of partitions and their contexts. -/

namespace Sys2Proof.Machine

open Sys2Proof

/-! ## Acks -/

theorem Hw.drainAck_of_none (h : Hw) (p : Nat) (ha : (h.part p).ack = false) (hi : (h.part p).intReq = false) (hp : (h.part p).preReq = false) :
    h.drainAck p = (h.event 5 (82 * 16 + 1) 3 (h.facetOf p) (some p)).modPart p fun y => { y with ack := true } := by
  unfold Hw.drainAck
  dsimp only
  rw [if_neg (by simp [ha]), if_pos (by simp [hi, hp])]

/-- The ack of a drain whose credits have all returned. -/
theorem Hw.drainAck_full (h : Hw) (p : Nat) (ha : (h.part p).ack = false) (hr : (h.part p).intReq = true ∨ (h.part p).preReq = true)
    (hc : (h.part p).credits = h.get 0x2200 (p + 1)) : h.drainAck p = h.modPart p fun x => { x with ack := true, acked := true } := by
  unfold Hw.drainAck
  dsimp only
  rw [if_neg (by simp [ha]), if_neg (by rcases hr with e | e <;> simp [e]), if_pos hc]
  unfold Hw.modPart
  rw [← hc]

/-- The ack of a drain some of whose credits have not. -/
theorem Hw.drainAck_short (h : Hw) (p : Nat) (ha : (h.part p).ack = false) (hr : (h.part p).intReq = true ∨ (h.part p).preReq = true)
    (hc : (h.part p).credits ≠ h.get 0x2200 (p + 1)) :
    h.drainAck p = ((h.inc 0x2208 1).event 5 (82 * 16) 4 (h.facetOf p) (some p)).modPart p fun x =>
      { x with credits := h.get 0x2200 (p + 1), ack := true, acked := true } := by
  unfold Hw.drainAck
  dsimp only
  rw [if_neg (by simp [ha]), if_neg (by rcases hr with e | e <;> simp [e]), if_neg hc]

theorem Hw.modPart_counts (h : Hw) (p : Nat) (g : Part → Part) (i s fam : Nat) : (h.modPart p g).get i s = h.get i s ∧
    (h.modPart p g).occurred fam = h.occurred fam := ⟨rfl, rfl⟩

/-- Such an ack is counted and logged. -/
theorem Hw.drainAck_short_counts (h : Hw) (p : Nat) (ha : (h.part p).ack = false) (hr : (h.part p).intReq = true ∨ (h.part p).preReq = true)
    (hc : (h.part p).credits ≠ h.get 0x2200 (p + 1)) : (h.drainAck p).get 0x2208 1 = (h.get 0x2208 1 + 1) % 2 ^ 64 ∧
      (h.drainAck p).occurred 5 = (h.occurred 5 + 1) % 2 ^ 64 := by
  rw [h.drainAck_short p ha hr hc, (Hw.modPart_counts _ _ _ 0x2208 1 5).1, (Hw.modPart_counts _ _ _ 0x2208 1 5).2]
  exact ⟨Hw.get_counted _ _ _ _ _ _ _ _ (by decide), Hw.occurred_counted _ _ _ _ _ _ _ _ (by decide)⟩

/-! ## Ends of drains -/

theorem Hw.afterRecoveryDrain_of_not (h : Hw) (f : Nat) (hr : (h.facet f).recovering = false) : h.afterRecoveryDrain f = h := by
  unfold Hw.afterRecoveryDrain
  exact if_pos (by simp [hr])

/-- The end of an interrupt of a facet that does not recover and runs no job. -/
theorem Hw.drainEnd_interrupt (h : Hw) (p f : Nat) (ho : h.drainOver p = true) (hf : h.facetOf p = some f) (hp : (h.part p).preReq = false)
    (hr : (h.facet f).recovering = false) (hj : ∀ u, (h.job f u).state ≠ .running) :
    h.drainEnd p = ((h.inc 0x2207 (p + 1)).modPart p fun y => { y with intReq := false, preReq := false, acked := false }).modPart p
      fun y => { y with state := h.openOrClosed f } := by
  unfold Hw.drainEnd
  dsimp only
  rw [if_neg (by simp [ho]), hf]
  dsimp only
  rw [hp, if_neg Bool.false_ne_true, if_neg Bool.false_ne_true]
  refine (congrArg (Hw.settleJobs · f) (Hw.afterRecoveryDrain_of_not _ f ?_)).trans (Hw.settleJobs_of_not_running _ f ?_)
  · exact hr
  · exact hj

theorem Hw.drainEnd_of_not (h : Hw) (p : Nat) (ho : h.drainOver p = false) : h.drainEnd p = h := by
  unfold Hw.drainEnd
  exact if_pos (by simp [ho])

/-! ## Partitions that fail -/

/-- The island whose partition `p`, which has no command outstanding, is masked. -/
def Hw.partMasked (h : Hw) (p : Nat) : Hw :=
  (h.set 0x2201 1 (setBit (h.raw 0x2201 1) p)).modPart p fun x =>
    { x with state := .masked, intReq := false, preReq := false, ctxBusy := 0, sent := [],
             ghosts := (x.ghosts.map fun g => (g.1, true)) ++ ([] : List Nat).map fun t => (t, true) }

theorem Hw.partMasked_spec (h : Hw) (p : Nat) (hm : h.raw 0x2201 1 = 0) : ((h.partMasked p).part p).state = .masked ∧
    (h.partMasked p).raw 0x2201 1 = 2 ^ p ∧ (h.partMasked p).facets = h.facets ∧ (h.partMasked p).jobs = h.jobs ∧
    (h.partMasked p).switches = h.switches ∧
    ∀ i s, i ≠ 0x2201 → s < 256 → (h.partMasked p).raw i s = h.raw i s ∧ (h.partMasked p).get i s = h.get i s := by
  refine ⟨?_, (Hw.raw_set ..).trans ?_, rfl, rfl, rfl, fun i s hi hs => ?_⟩
  · unfold Hw.partMasked
    rw [Hw.part_modPart]
  · rw [hm, setBit, Nat.zero_or]
  · have hk : odKey i s 0 ≠ odKey 0x2201 1 0 := odKey_idx_ne i s 0 0x2201 1 0 hs (by decide) hi
    exact ⟨Hw.raw_set_ne _ _ _ _ _ _ hk, Hw.get_set_ne _ _ _ _ _ _ hk⟩

theorem Hw.facetOf_partMasked (h : Hw) (p q : Nat) : (h.partMasked p).facetOf q = h.facetOf q := by
  have hraw : ∀ f, (h.partMasked p).raw 0x5000 (f + 1) = h.raw 0x5000 (f + 1) := fun f =>
    Hw.raw_set_ne _ _ _ _ _ _ (by simp [odKey]; omega)
  unfold Hw.facetOf
  exact congrArg (List.find? · (List.range 16)) (funext fun f => by rw [hraw])

/-- Another partition of a facet stays one of its partitions. -/
theorem Hw.mem_facetParts_partMasked (h : Hw) (p f k : Nat) (hf : f < 16) (hm : h.raw 0x2201 1 = 0) (hk : k ∈ h.facetParts f)
    (hne : k ≠ p) : k ∈ (h.partMasked p).facetParts f := by
  obtain ⟨-, hmask, -, -, -, hraw⟩ := h.partMasked_spec p hm
  unfold Hw.facetParts at hk ⊢
  rw [(hraw 0x5000 (f + 1) (by decide) (by omega)).1, hmask]
  rw [List.mem_filter] at hk ⊢
  refine ⟨hk.1, ?_⟩
  rw [Nat.testBit_two_pow_of_ne (Ne.symm hne)]
  rfl

/-- What the masking of a partition brings for its facet. -/
def Hw.maskEnd (h1 : Hw) (p : Nat) : Hw :=
  match h1.facetOf p with
  | none => h1
  | some f =>
    let onJob := fun (u : Bool) => (h1.job f u).parts.contains p && (h1.job f u).state.live
    let h2 := if onJob false then h1.teardown f false 2 else h1
    let h3 := if onJob true then h2.teardown f true 2 else h2
    let h4 := h3.partSwitched f p
    if h4.facetParts f = [] then h4.halt f else h4

theorem Hw.partSwitched_of_none (h : Hw) (f p : Nat) (hs : Map.find? h.switches f = none) : h.partSwitched f p = h := by
  unfold Hw.partSwitched
  rw [hs]

theorem Hw.halt_of_halted (h : Hw) (f : Nat) (hs : (h.facet f).state = .halted) : h.halt f = h := by
  unfold Hw.halt
  exact if_pos (.inr hs)

/-- Nothing, where no job is live, no context is switched and the facet is halted or has another partition. -/
theorem Hw.maskEnd_of_idle (h : Hw) (p : Nat) (hf : ∀ f, h.facetOf p = some f → (∀ u, (h.job f u).state.live = false) ∧
    Map.find? h.switches f = none ∧ ((h.facet f).state = .halted ∨ h.facetParts f ≠ [])) : h.maskEnd p = h := by
  unfold Hw.maskEnd
  split
  case h_1 => rfl
  case h_2 f hfacet =>
    obtain ⟨hj, hs, hp⟩ := hf f hfacet
    dsimp only
    simp only [hj, Bool.and_false, Bool.false_eq_true, if_false, h.partSwitched_of_none f p hs]
    split
    case isTrue he => exact h.halt_of_halted f (hp.resolve_right fun hn => hn he)
    case isFalse => rfl

/-- Masking a partition without commands, where no job of its facet is live and no context is switched, and where its facet is halted or has
another partition. -/
theorem Hw.maskPart_of_idle (h : Hw) (p : Nat) (hm : h.raw 0x2201 1 = 0) (hs : (h.part p).sent = [])
    (hf : ∀ f, h.facetOf p = some f → (∀ u, (h.job f u).state.live = false) ∧ Map.find? h.switches f = none ∧
      ((h.facet f).state = .halted ∨ f < 16 ∧ ∃ k ∈ h.facetParts f, k ≠ p)) : h.maskPart p = h.partMasked p := by
  unfold Hw.maskPart
  rw [if_neg (by simp [hm])]
  dsimp only
  rw [hs]
  refine Eq.trans (b := (h.partMasked p).maskEnd p) rfl (Hw.maskEnd_of_idle _ p fun f hfacet => ?_)
  rw [Hw.facetOf_partMasked] at hfacet
  obtain ⟨hj, hsw, hp⟩ := hf f hfacet
  refine ⟨hj, hsw, hp.imp id fun hk => ?_⟩
  obtain ⟨hlt, k, hk, hne⟩ := hk
  exact List.ne_nil_of_mem (h.mem_facetParts_partMasked p f k hlt hm hk hne)

/-! ## Contexts -/

theorem Hw.pulse_keeps (h : Hw) (v : Nat) : (h.pulse v).facets = h.facets ∧ (h.pulse v).faults = h.faults ∧ (h.pulse v).switches = h.switches ∧
    (h.pulse v).images = h.images ∧ (h.pulse v).parts = h.parts := by
  unfold Hw.pulse
  split <;> exact ⟨rfl, rfl, rfl, rfl, rfl⟩

theorem Hw.noteLevel_same (h : Hw) (idx sub threshold before after : Nat) :
    (h.noteLevel idx sub threshold before after).facets = h.facets ∧ (h.noteLevel idx sub threshold before after).faults = h.faults ∧
      (h.noteLevel idx sub threshold before after).switches = h.switches ∧
      (h.noteLevel idx sub threshold before after).images = h.images ∧ (h.noteLevel idx sub threshold before after).parts = h.parts := by
  unfold Hw.noteLevel
  dsimp only
  split
  · exact Hw.pulse_keeps _ _
  · exact ⟨rfl, rfl, rfl, rfl, rfl⟩

/-- A partition without its ready list. -/
def Part.unlisted (x : Part) : Part := { x with ready := [] }

/-- What the return of suspended commands keeps. -/
structure Hw.Relisted (a b : Hw) : Prop where
  facets : a.facets = b.facets
  faults : a.faults = b.faults
  switches : a.switches = b.switches
  images : a.images = b.images
  part : ∀ p, (a.part p).unlisted = (b.part p).unlisted

theorem Hw.Relisted.refl (a : Hw) : Hw.Relisted a a := ⟨rfl, rfl, rfl, rfl, fun _ => rfl⟩

theorem Hw.Relisted.trans {a b c : Hw} (h1 : Hw.Relisted a b) (h2 : Hw.Relisted b c) : Hw.Relisted a c :=
  ⟨h1.facets.trans h2.facets, h1.faults.trans h2.faults, h1.switches.trans h2.switches, h1.images.trans h2.images,
    fun p => (h1.part p).trans (h2.part p)⟩

theorem Hw.relisted_modDesc (h : Hw) (t : Nat) (g : Desc → Desc) : Hw.Relisted (h.modDesc t g) h := by
  unfold Hw.modDesc
  split
  · exact ⟨rfl, rfl, rfl, rfl, fun _ => rfl⟩
  · exact .refl h

theorem Hw.relisted_modPart (h : Hw) (p : Nat) (g : Part → Part) (hg : (g (h.part p)).unlisted = (h.part p).unlisted) :
    Hw.Relisted (h.modPart p g) h := by
  refine ⟨rfl, rfl, rfl, rfl, fun k => ?_⟩
  by_cases hk : k = p
  · rw [hk, Hw.part_modPart, hg]
  · rw [Hw.part_modPart_ne _ _ _ _ hk]

theorem Hw.relisted_noteLevel (h : Hw) (idx sub threshold before after : Nat) :
    Hw.Relisted (h.noteLevel idx sub threshold before after) h := by
  obtain ⟨h1, h2, h3, h4, h5⟩ := h.noteLevel_same idx sub threshold before after
  exact ⟨h1, h2, h3, h4, fun p => congrArg (fun m => (Map.getD m p Part.reset).unlisted) h5⟩

theorem Hw.relisted_reenter (h : Hw) (t : Nat) : Hw.Relisted (h.reenter t) h := by
  unfold Hw.reenter
  split
  · exact (Hw.relisted_noteLevel ..).trans ((Hw.relisted_modPart _ _ _ rfl).trans (h.relisted_modDesc ..))
  · exact .refl h

theorem Hw.relisted_foldl {α : Type} (g : Hw → α → Hw) (hg : ∀ b a, Hw.Relisted (g b a) b) (l : List α) (b : Hw) :
    Hw.Relisted (l.foldl g b) b := by
  induction l generalizing b with
  | nil => exact .refl b
  | cons a r ih => exact (ih (g b a)).trans (hg b a)

/-- A partition released to a context. -/
theorem Hw.relisted_releasePart (h : Hw) (f p s ctx : Nat) : Hw.Relisted (h.releasePart f p s ctx)
    (h.modPart p fun x => { x with state := h.openOrClosed f, resident := ctx, ctxBusy := 0, holds := s }) :=
  Hw.relisted_foldl Hw.reenter Hw.relisted_reenter _ _

/-- The island whose facet `f` has a switch under way. -/
def Hw.waitsOn (h : Hw) (f : Nat) (sw : Switch) : Hw := { h with switches := Map.insert h.switches f sw }

theorem Hw.waitsOn_keeps (h : Hw) (f : Nat) (sw : Switch) : (h.waitsOn f sw).facets = h.facets ∧ (h.waitsOn f sw).faults = h.faults ∧
    (h.waitsOn f sw).images = h.images ∧ (h.waitsOn f sw).parts = h.parts ∧ Map.find? (h.waitsOn f sw).switches f = some sw :=
  ⟨rfl, rfl, rfl, rfl, Map.find?_insert_self _ _ _⟩

/-- A partition of several that are switched. -/
theorem Hw.partSwitched_waits (h : Hw) (f p : Nat) (sw : Switch) (hs : Map.find? h.switches f = some sw) (hw : sw.waiting.erase p ≠ []) :
    h.partSwitched f p = h.waitsOn f { sw with waiting := sw.waiting.erase p } := by
  unfold Hw.partSwitched
  rw [hs]
  exact if_neg hw

/-! ## Context done messages -/

/-- The island after a message that answers a context request has been counted and charged. -/
def Hw.ctxAnswered (h : Hw) (f p bytes tenant : Nat) : Hw :=
  ((h.bump 0x9108 (f + 1) bytes).chargeCtx tenant bytes).modPart p fun y => { y with ctxBusy := 0 }

/-- A charge changes the accounts alone. -/
theorem Hw.chargeNow_eq (h : Hw) (tenant : Nat) (c : Charges) : ∃ a, h.chargeNow tenant c = { h with acct := a } := by
  have hr : ∃ a, h.rollAccounts = { h with acct := a } := by
    unfold Hw.rollAccounts
    dsimp only
    split
    · exact ⟨_, rfl⟩
    · exact ⟨h.acct, rfl⟩
  obtain ⟨a, e⟩ := hr
  unfold Hw.chargeNow
  rw [e]
  exact ⟨_, rfl⟩

theorem Hw.withAcct_keeps (h : Hw) (a : Account) : ({ h with acct := a } : Hw).facets = h.facets ∧ ({ h with acct := a } : Hw).faults = h.faults ∧
    ({ h with acct := a } : Hw).switches = h.switches ∧ ({ h with acct := a } : Hw).images = h.images ∧
    ({ h with acct := a } : Hw).jobs = h.jobs ∧ ({ h with acct := a } : Hw).parts = h.parts := ⟨rfl, rfl, rfl, rfl, rfl, rfl⟩

theorem Hw.ctxAnswered_keeps (h : Hw) (f p bytes tenant : Nat) : (h.ctxAnswered f p bytes tenant).facets = h.facets ∧
    (h.ctxAnswered f p bytes tenant).faults = h.faults ∧ (h.ctxAnswered f p bytes tenant).switches = h.switches ∧
    (h.ctxAnswered f p bytes tenant).images = h.images ∧ (h.ctxAnswered f p bytes tenant).jobs = h.jobs ∧
    (h.ctxAnswered f p bytes tenant).part p = { h.part p with ctxBusy := 0 } := by
  unfold Hw.ctxAnswered Hw.chargeCtx
  split
  · exact ⟨rfl, rfl, rfl, rfl, rfl, Hw.part_modPart ..⟩
  · obtain ⟨a, e⟩ := (h.bump 0x9108 (f + 1) bytes).chargeNow_eq tenant { Charges.zero with ctxBytes := bytes }
    rw [e]
    obtain ⟨h1, h2, h3, h4, h5, h6⟩ := (h.bump 0x9108 (f + 1) bytes).withAcct_keeps a
    refine ⟨h1, h2, h3, h4, h5, (Hw.part_modPart ..).trans ?_⟩
    exact congrArg (fun m => { Map.getD m p Part.reset with ctxBusy := 0 }) h6

theorem Hw.ctxGoesOn_congr {a b : Hw} (hj : a.jobs = b.jobs) (f s : Nat) : a.ctxGoesOn f s = b.ctxGoesOn f s := by
  unfold Hw.ctxGoesOn Hw.job
  rw [hj]

/-- An answer to a context request of a facet that does not recover. -/
theorem Hw.contextDone_answer (h : Hw) (n f : Nat) (sw : Switch) (hf : h.facetOf (bits n 7 2) = some f)
    (hs : Map.find? h.switches f = some sw) (hb : (h.part (bits n 7 2)).ctxBusy ≠ 0) (hi : bits n 23 8 = (h.part (bits n 7 2)).ctxId)
    (h0 : bits n 1 0 = 0) :
    h.contextDone n = ((if (h.part (bits n 7 2)).ctxBusy == 1 then
        (h.ctxAnswered f (bits n 7 2) (bits n 71 24) sw.charge).saveDone f (bits n 7 2) (h.part (bits n 7 2)).ctxSlot
      else (h.ctxAnswered f (bits n 7 2) (bits n 71 24) sw.charge).restoreDone f (bits n 7 2) (h.part (bits n 7 2)).ctxSlot).ctxStep f
        (bits n 7 2) sw).afterRecoveryDrain f := by
  unfold Hw.contextDone
  dsimp only
  rw [hf]
  dsimp only
  rw [hs]
  dsimp only
  rw [if_neg (by simp [hb, hi]), if_neg (by omega), if_neg (by omega)]
  rfl

/-- A restored context that the facet goes on with is held. -/
theorem Hw.restoreDone_spec (h : Hw) (f p s : Nat) (hg : h.ctxGoesOn f s = true) : (h.restoreDone f p s).facets = h.facets ∧
    (h.restoreDone f p s).faults = h.faults ∧ (h.restoreDone f p s).switches = h.switches ∧
    (h.restoreDone f p s).part p = { h.part p with holds := s } := by
  unfold Hw.restoreDone
  rw [if_pos hg]
  exact ⟨rfl, rfl, rfl, Hw.part_modPart ..⟩

/-- The island whose partition's context in slot `s` has become a valid image. -/
def Hw.imaged (h : Hw) (f p s : Nat) : Hw :=
  let h0 := h.modPart p fun x => { x with holds := 3 }
  { h0 with images := if h0.images.contains (3 * f + s, p) then h0.images else h0.images ++ [(3 * f + s, p)] }

theorem Hw.imaged_spec (h : Hw) (f p s : Nat) : (h.imaged f p s).facets = h.facets ∧ (h.imaged f p s).faults = h.faults ∧
    (h.imaged f p s).switches = h.switches ∧ ((h.imaged f p s).part p).holds = 3 ∧ (3 * f + s, p) ∈ (h.imaged f p s).images := by
  have hpart : ((h.modPart p fun x => { x with holds := 3 }).part p).holds = 3 := by rw [Hw.part_modPart]
  have himages : ∀ l : List (Nat × Nat), (3 * f + s, p) ∈ if l.contains (3 * f + s, p) then l else l ++ [(3 * f + s, p)] := fun l => by
    split
    case isTrue hc => exact List.contains_iff_mem.mp hc
    case isFalse => exact List.mem_append_right _ (List.mem_singleton.mpr rfl)
  exact ⟨rfl, rfl, rfl, hpart, himages _⟩

/-- The last image of a slot has the slot's record written. -/
theorem Hw.saveDone_cases (h : Hw) (f p s : Nat) (hg : h.ctxGoesOn f s = true) : h.saveDone f p s = h.imaged f p s ∨
    ∃ r a l pu tn us, h.saveDone f p s = ({ h.imaged f p s with ctxRecords := r } : Hw).memPost true a 1 l pu tn us := by
  unfold Hw.saveDone
  dsimp only
  rw [if_neg (by simp [hg])]
  exact if hc : _ then .inr ⟨_, _, _, _, _, _, if_pos hc⟩ else .inl (if_neg hc)

/-- A context that the facet goes on with is a valid image once it is saved. -/
theorem Hw.saveDone_spec (h : Hw) (f p s : Nat) (hg : h.ctxGoesOn f s = true) : (h.saveDone f p s).facets = h.facets ∧
    (h.saveDone f p s).faults = h.faults ∧ (h.saveDone f p s).switches = h.switches ∧ ((h.saveDone f p s).part p).holds = 3 ∧
    (3 * f + s, p) ∈ (h.saveDone f p s).images := by
  obtain ⟨h1, h2, h3, h4, h5⟩ := h.imaged_spec f p s
  rcases h.saveDone_cases f p s hg with e | ⟨r, a, l, pu, tn, us, e⟩
  · rw [e]
    exact ⟨h1, h2, h3, h4, h5⟩
  · generalize h.imaged f p s = y at *
    have hm := ({ y with ctxRecords := r } : Hw).sameButMem_memPost true a 1 l pu tn us
    rw [e]
    exact ⟨hm.facets.trans h1, hm.faults.trans h2, hm.switches.trans h3,
      (congrArg (fun m => (Map.getD m p Part.reset).holds) hm.parts).trans h4, by rw [hm.images]; exact h5⟩

/-- The step of a switch whose partition holds the incoming context. -/
theorem Hw.ctxStep_held (h : Hw) (f p : Nat) (sw : Switch) (hh : (h.part p).holds = sw.inSlot) :
    h.ctxStep f p sw = (h.releasePart f p sw.inSlot sw.inCtx).partSwitched f p := by
  unfold Hw.ctxStep
  dsimp only
  rw [if_neg (by simp [hh])]
  unfold Hw.ctxAdvance
  exact if_neg (by simp [hh])

/-- The step of a switch whose partition holds no context. -/
theorem Hw.ctxStep_free (h : Hw) (f p : Nat) (sw : Switch) (hh : (h.part p).holds = 3) : h.ctxStep f p sw = h.ctxAdvance f p sw := by
  have hno : h.ctxGoesOn f 3 = false := rfl
  unfold Hw.ctxStep
  dsimp only
  rw [hh]
  exact if_neg (by simp [hno])

/-- Whatever comes next for the partition, facets and images stay. -/
theorem Hw.ctxAdvance_keeps (h : Hw) (f p : Nat) (sw : Switch) (hs : Map.find? h.switches f = some sw) (hw : sw.waiting.erase p ≠ []) :
    (h.ctxAdvance f p sw).facets = h.facets ∧ (h.ctxAdvance f p sw).faults = h.faults ∧ (h.ctxAdvance f p sw).images = h.images := by
  unfold Hw.ctxAdvance
  split
  · exact ⟨rfl, rfl, rfl⟩
  · have hrel := h.relisted_releasePart f p sw.inSlot sw.inCtx
    rw [Hw.partSwitched_waits _ f p sw ((congrArg (Map.find? · f) hrel.switches).trans hs) hw]
    obtain ⟨wf, wx, wi, -⟩ := (h.releasePart f p sw.inSlot sw.inCtx).waitsOn_keeps f { sw with waiting := sw.waiting.erase p }
    exact ⟨wf.trans hrel.facets, wx.trans hrel.faults, wi.trans hrel.images⟩

/-! ## Timeouts -/

theorem Hw.clear_faults (h : Hw) (hn : h.faults = []) : { h with faults := [] } = h := by rw [← hn]

/-- The only fault of a command is served. -/
theorem Hw.runFaults_fault (h : Hw) (l : List Nat) (u : FaultUnit) (hn : h.faults = []) :
    (h.fault l u true).runFaults = (distinct l).foldl (fun b f => b.faultOn f u) (h.maskUnit u) := by
  have hf : (h.fault l u true).faults = [{ facets := l, unit := u, permanent := true }] := congrArg (· ++ _) hn
  have hc : ({ h.fault l u true with faults := [] } : Hw) = h := h.clear_faults hn
  unfold Hw.runFaults
  dsimp only
  rw [hf, hc]
  rfl

theorem Hw.faultOn_of_halted (h : Hw) (f : Nat) (u : FaultUnit) (hs : (h.facet f).state = .halted) : h.faultOn f u = h := by
  unfold Hw.faultOn
  exact if_pos (by rw [hs]; rfl)

theorem Hw.facet_partMasked (h : Hw) (p f : Nat) : (h.partMasked p).facet f = h.facet f := rfl

/-- A partition that fails where nothing of its facet can go on. -/
theorem Hw.partFault_halted (h : Hw) (p : Nat) (hn : h.faults = []) (hm : h.raw 0x2201 1 = 0) (hs : (h.part p).sent = [])
    (hf : ∀ f, h.facetOf p = some f → (h.facet f).state = .halted ∧ (∀ u, (h.job f u).state.live = false) ∧
      Map.find? h.switches f = none) : (h.fault (h.partFacets p) (.part p) true).runFaults = h.partMasked p := by
  have hmask : h.maskUnit (.part p) = h.partMasked p :=
    Hw.maskPart_of_idle _ p hm hs fun f hfac => ⟨(hf f hfac).2.1, (hf f hfac).2.2, .inl (hf f hfac).1⟩
  rw [Hw.runFaults_fault _ _ _ hn, hmask]
  unfold Hw.partFacets
  split
  case h_1 f hfac => exact (h.partMasked p).faultOn_of_halted f _ (hf f hfac).1
  case h_2 => rfl

/-- One that fails where its facet has another partition. -/
theorem Hw.partFault_active (h : Hw) (p : Nat) (f : Fin 16) (hn : h.faults = []) (hm : h.raw 0x2201 1 = 0) (hs : (h.part p).sent = [])
    (hf : h.facetOf p = some f.val) (hj : ∀ u, (h.job f u).state.live = false) (hsw : Map.find? h.switches f = none)
    (hk : ∃ k ∈ h.facetParts f, k ≠ p) : (h.fault (h.partFacets p) (.part p) true).runFaults = (h.partMasked p).faultOn f (.part p) := by
  have hmask : h.maskUnit (.part p) = h.partMasked p := Hw.maskPart_of_idle _ p hm hs fun i hfac => by
    have : f.val = i := Option.some.inj (hf.symm.trans hfac)
    subst this
    exact ⟨hj, hsw, .inr ⟨f.isLt, hk⟩⟩
  have hone : h.partFacets p = [f.val] := by
    unfold Hw.partFacets
    rw [hf]
  rw [Hw.runFaults_fault _ _ _ hn, hmask, hone]
  rfl

/-- Masked, a partition leaves its facet the replay that it has. -/
theorem Hw.MayReplay.masked {h : Hw} {f : Fin 16} (hmay : h.MayReplay f) (p : Nat) (hm : h.raw 0x2201 1 = 0) : (h.partMasked p).MayReplay f := by
  obtain ⟨-, -, -, -, -, mget⟩ := h.partMasked_spec p hm
  exact hmay.of_eq (h.facet_partMasked p f) (mget 0xA006 (f + 1) (by decide) (by omega)).1 (mget 0xA001 1 (by decide) (by decide)).2

/-- A command that finds such a failure. -/
theorem State.Ready.partFails {s : State} (hr : s.Ready) (p v : Nat) (g : Hw → Hw)
    (hg : g (s.hw.begun .expiry v) = (s.hw.begun .expiry v).fault (s.hw.partFacets p) (.part p) true) (hm : s.hw.raw 0x2201 1 = 0)
    (hs : (s.hw.part p).sent = []) (hf : ∀ f, s.hw.facetOf p = some f → (s.hw.facet f).state = .halted ∧
      (∀ u, (s.hw.job f u).state.live = false) ∧ Map.find? s.hw.switches f = none) :
    ∃ t, (.next (s.onCoreFAt .expiry v g) : Host.Outcome State Fault Refusal) = .next t ∧ (t.hw.part p).state = .masked ∧
      t.hw.raw 0x2201 1 = 2 ^ p := by
  obtain ⟨-, -, -, hnone⟩ := hr.quiet
  obtain ⟨mstate, mraw, -⟩ := (s.hw.begun .expiry v).partMasked_spec p hm
  refine hr.nextEq .expiry v _ (y := (s.hw.begun .expiry v).partMasked p)
    (by rw [hg]; exact Hw.partFault_halted (s.hw.begun .expiry v) p hnone hm hs hf) ⟨?_, ?_⟩
  · exact (congrArg Part.state (Hw.settle_part ..)).trans mstate
  · exact (Hw.settle_raw _ _ _ _ (by decide)).trans mraw

theorem State.Ready.partReplays {s : State} (hr : s.Ready) (p v : Nat) (f : Fin 16) (g : Hw → Hw)
    (hg : g (s.hw.begun .expiry v) = (s.hw.begun .expiry v).fault (s.hw.partFacets p) (.part p) true) (hm : s.hw.raw 0x2201 1 = 0)
    (hs : (s.hw.part p).sent = []) (hf : s.hw.facetOf p = some f.val) (hmay : (s.hw.begun .expiry v).MayReplay f)
    (hj : ∀ u, (s.hw.job f u).state.live = false) (hsw : Map.find? s.hw.switches f = none) (hk : ∃ k ∈ s.hw.facetParts f, k ≠ p) :
    ∃ t, (.next (s.onCoreFAt .expiry v g) : Host.Outcome State Fault Refusal) = .next t ∧ (t.hw.part p).state = .masked ∧
      (t.hw.facet f).recovering = true := by
  obtain ⟨-, -, -, hnone⟩ := hr.quiet
  obtain ⟨mstate, -⟩ := (s.hw.begun .expiry v).partMasked_spec p hm
  have hmay' := hmay.masked p hm
  refine hr.nextEq .expiry v _ (y := ((s.hw.begun .expiry v).partMasked p).faultOn f (.part p))
    (by rw [hg]; exact Hw.partFault_active (s.hw.begun .expiry v) p f hnone hm hs hf hj hsw hk) ⟨?_, ?_⟩
  · exact (congrArg Part.state (Hw.settle_part ..)).trans ((hmay'.replayed f.isLt _).masked p mstate)
  · exact (congrArg Facet.recovering (Hw.settle_facet ..)).trans (hmay'.recovers _)

/-- What DRAIN_TIMEOUT does. -/
def Hw.drainLate (h : Hw) (p : Nat) : Hw :=
  if ((h.part p).intReq || (h.part p).preReq) && !(h.part p).acked && decide ((h.part p).reqNs + 1000 * h.get 0x2206 1 ≤ h.now) then
    h.fault (h.partFacets p) (.part p) true
  else h

theorem exec_drainTimeout (p : Fin 64) (s : State) :
    exec (.drainTimeout p) s = .next (s.onCoreFAt .expiry 0 fun h => h.drainLate p.val) := rfl

theorem Hw.drainLate_due (h : Hw) (p : Nat) (hq : (h.part p).intReq = true ∨ (h.part p).preReq = true) (ha : (h.part p).acked = false)
    (hd : (h.part p).reqNs + 1000 * h.get 0x2206 1 ≤ h.now) : h.drainLate p = h.fault (h.partFacets p) (.part p) true := by
  have hq' : ((h.part p).intReq || (h.part p).preReq) = true := by rcases hq with e | e <;> simp [e]
  have hd' : decide ((h.part p).reqNs + 1000 * h.get 0x2206 1 ≤ h.now) = true := decide_eq_true hd
  unfold Hw.drainLate
  rw [hq', ha, hd']
  rfl

theorem Hw.drainLate_early (h : Hw) (p : Nat) (hd : h.now < (h.part p).reqNs + 1000 * h.get 0x2206 1) : h.drainLate p = h := by
  have hd' : decide ((h.part p).reqNs + 1000 * h.get 0x2206 1 ≤ h.now) = false := decide_eq_false (by omega)
  unfold Hw.drainLate
  rw [hd', Bool.and_false]
  rfl

/-- What CONTEXT_TIMEOUT does. -/
def Hw.contextLate (h : Hw) (p : Nat) : Hw :=
  if (h.part p).ctxBusy ≠ 0 ∧ (h.part p).ctxNs + 1000 * h.get 0x2209 1 ≤ h.now then h.fault (h.partFacets p) (.part p) true else h

theorem exec_contextTimeout (p : Fin 64) (s : State) :
    exec (.contextTimeout p) s = .next (s.onCoreFAt .expiry 0x0A fun h => h.contextLate p.val) := rfl

theorem Hw.contextLate_due (h : Hw) (p : Nat) (hb : (h.part p).ctxBusy ≠ 0) (hd : (h.part p).ctxNs + 1000 * h.get 0x2209 1 ≤ h.now) :
    h.contextLate p = h.fault (h.partFacets p) (.part p) true := if_pos ⟨hb, hd⟩

theorem Hw.contextLate_early (h : Hw) (p : Nat) (hd : (h.part p).ctxBusy = 0 ∨ h.now < (h.part p).ctxNs + 1000 * h.get 0x2209 1) :
    h.contextLate p = h := if_neg fun hc => by
  obtain ⟨hb, ht⟩ := hc
  rcases hd with e | e
  · exact hb e
  · omega

/-! ## Answers to context requests -/

/-- A RESTORE that is done leaves the incoming context resident. -/
theorem Hw.contextDone_restore (h : Hw) (n p f : Nat) (sw : Switch) (hp : bits n 7 2 = p) (hf : h.facetOf p = some f)
    (hs : Map.find? h.switches f = some sw) (hb : (h.part p).ctxBusy = 2) (hi : bits n 23 8 = (h.part p).ctxId) (h0 : bits n 1 0 = 0)
    (hr : (h.facet f).recovering = false) (hw : sw.waiting.erase p ≠ []) (hslot : (h.part p).ctxSlot = sw.inSlot)
    (hg : h.ctxGoesOn f sw.inSlot = true) :
    ((h.contextDone n).part p).unlisted =
      { (h.part p).unlisted with resident := sw.inCtx, ctxBusy := 0, holds := sw.inSlot, state := h.openOrClosed f } ∧
    Map.find? (h.contextDone n).switches f = some { sw with waiting := sw.waiting.erase p } ∧ (h.contextDone n).facets = h.facets ∧
    (h.contextDone n).faults = h.faults := by
  subst hp
  have e := h.contextDone_answer n f sw hf hs (by omega) hi h0
  rw [hb, hslot, if_neg (by decide)] at e
  obtain ⟨af, ax, as_, -, aj, ap⟩ := h.ctxAnswered_keeps f (bits n 7 2) (bits n 71 24) sw.charge
  generalize h.ctxAnswered f (bits n 7 2) (bits n 71 24) sw.charge = a at *
  obtain ⟨rf, rx, rs, rp⟩ := a.restoreDone_spec f (bits n 7 2) sw.inSlot ((Hw.ctxGoesOn_congr aj f sw.inSlot).trans hg)
  generalize a.restoreDone f (bits n 7 2) sw.inSlot = b at *
  have hrel := b.relisted_releasePart f (bits n 7 2) sw.inSlot sw.inCtx
  rw [b.ctxStep_held f _ sw (by rw [rp]),
    Hw.partSwitched_waits _ f _ sw ((congrArg (Map.find? · f) (hrel.switches.trans (rs.trans as_))).trans hs) hw] at e
  obtain ⟨wf, wx, -, wp, ws⟩ := (b.releasePart f (bits n 7 2) sw.inSlot sw.inCtx).waitsOn_keeps f
    { sw with waiting := sw.waiting.erase (bits n 7 2) }
  generalize (b.releasePart f (bits n 7 2) sw.inSlot sw.inCtx).waitsOn f { sw with waiting := sw.waiting.erase (bits n 7 2) } = w at *
  have hfacets : w.facets = h.facets := wf.trans (hrel.facets.trans (rf.trans af))
  rw [w.afterRecoveryDrain_of_not f ((congrArg (fun m => (Map.getD m f Facet.reset).recovering) hfacets).trans hr)] at e
  rw [e]
  have hopen : b.openOrClosed f = h.openOrClosed f := by
    unfold Hw.openOrClosed Hw.facet
    rw [rf, af]
  refine ⟨?_, ws, hfacets, wx.trans (hrel.faults.trans (rx.trans ax))⟩
  refine (congrArg (fun m => (Map.getD m (bits n 7 2) Part.reset).unlisted) wp).trans ((hrel.part _).trans ?_)
  rw [Hw.part_modPart, rp, ap, hopen]
  rfl

/-- A SAVE that is done leaves a valid image. -/
theorem Hw.contextDone_save (h : Hw) (n p f : Nat) (sw : Switch) (hp : bits n 7 2 = p) (hf : h.facetOf p = some f)
    (hs : Map.find? h.switches f = some sw) (hb : (h.part p).ctxBusy = 1) (hi : bits n 23 8 = (h.part p).ctxId) (h0 : bits n 1 0 = 0)
    (hr : (h.facet f).recovering = false) (hw : sw.waiting.erase p ≠ []) (hg : h.ctxGoesOn f (h.part p).ctxSlot = true) :
    (3 * f + (h.part p).ctxSlot, p) ∈ (h.contextDone n).images ∧ (h.contextDone n).facets = h.facets ∧
      (h.contextDone n).faults = h.faults := by
  subst hp
  have e := h.contextDone_answer n f sw hf hs (by omega) hi h0
  rw [hb, if_pos (by decide)] at e
  obtain ⟨af, ax, as_, -, aj, -⟩ := h.ctxAnswered_keeps f (bits n 7 2) (bits n 71 24) sw.charge
  generalize h.ctxAnswered f (bits n 7 2) (bits n 71 24) sw.charge = a at *
  obtain ⟨rf, rx, rs, rh, ri⟩ := a.saveDone_spec f (bits n 7 2) (h.part (bits n 7 2)).ctxSlot ((Hw.ctxGoesOn_congr aj f _).trans hg)
  generalize a.saveDone f (bits n 7 2) (h.part (bits n 7 2)).ctxSlot = b at *
  obtain ⟨cf, cx, ci⟩ := b.ctxAdvance_keeps f (bits n 7 2) sw ((congrArg (Map.find? · f) (rs.trans as_)).trans hs) hw
  rw [b.ctxStep_free f _ sw rh] at e
  rw [Hw.afterRecoveryDrain_of_not _ f ((congrArg (fun m => (Map.getD m f Facet.reset).recovering) (cf.trans (rf.trans af))).trans hr)] at e
  rw [e]
  exact ⟨by rw [ci]; exact ri, cf.trans (rf.trans af), cx.trans (rx.trans ax)⟩

/-- Settles O34: acks, ends, failures and answers. -/
theorem drains : Obligations.Drains := by
  unfold Obligations.Drains
  intro s p hr
  obtain ⟨-, -, -, hnone⟩ := hr.quiet
  refine ⟨fun ha hq hc => ?_, fun ha hq hc => ?_, fun ha hi hp => ?_, ?_, fun f ho hf hp hrec hj => ?_, fun ho => ?_,
    fun hm hs hf => ⟨fun hq hack hd => ?_, fun hb hd => ?_⟩, fun f hm hs hf hact hj hsw hk hleft => ⟨fun hq hack hd => ?_, fun hb hd => ?_⟩,
    fun hn => ?_, fun hn => ?_, fun l f sw hp h0 hid hf hsw hrec hw => ⟨fun hb hslot hgo => ?_, fun hb hgo => ?_⟩⟩
  · exact hr.leaves .alone 0 _ (.of_eq (Hw.drainAck_full (s.hw.begun .alone 0) p ha hq hc) ⟨rfl, rfl⟩)
  · obtain ⟨hcount, hocc⟩ := (s.hw.begun .alone 0).drainAck_short_counts p ha hq hc
    have hpart := congrArg (Hw.part · p.val) ((s.hw.begun .alone 0).drainAck_short p ha hq hc)
    refine hr.nextEq .alone 0 _ rfl ⟨?_, ?_, ?_⟩
    · exact (Hw.settle_part ..).trans (hpart.trans (Hw.part_modPart ..))
    · exact (Hw.settle_get _ _ _ _ (by decide)).trans hcount
    · exact (Hw.occurred_settle ..).trans hocc
  · refine hr.nextEq .alone 0 _ (Hw.drainAck_of_none (s.hw.begun .alone 0) p ha hi hp) ⟨?_, ?_⟩
    · exact (Hw.settle_part ..).trans (Hw.part_modPart ..)
    · exact (Hw.occurred_settle ..).trans (Hw.occurred_event ..)
  · exact hr.leaves .alone 0 _ ⟨rfl, rfl⟩
  · refine hr.nextEq .alone 0 _ (Hw.drainEnd_interrupt (s.hw.begun .alone 0) p f ho hf hp hrec hj) ⟨?_, ?_, Hw.settle_facets .., fun k hk => ?_⟩
    · rw [Hw.settle_part, Hw.part_modPart, Hw.part_modPart]
      rfl
    · exact (Hw.settle_get _ _ _ _ (obsKey_low _ _ _ (by decide) (by omega))).trans (Hw.get_inc ..)
    · rw [Hw.settle_part, Hw.part_modPart_ne _ _ _ _ hk, Hw.part_modPart_ne _ _ _ _ hk]
      rfl
  · exact hr.idle .alone 0 _ (Hw.drainEnd_of_not _ _ ho)
  · rw [exec_drainTimeout]
    exact hr.partFails p 0 _ (Hw.drainLate_due (s.hw.begun .expiry 0) p hq hack hd) hm hs hf
  · rw [exec_contextTimeout]
    exact hr.partFails p 0x0A _ (Hw.contextLate_due (s.hw.begun .expiry 0x0A) p hb hd) hm hs hf
  · rw [exec_drainTimeout]
    exact hr.partReplays p 0 f _ (Hw.drainLate_due (s.hw.begun .expiry 0) p hq hack hd) hm hs hf ⟨hact, hleft⟩ hj hsw hk
  · rw [exec_contextTimeout]
    exact hr.partReplays p 0x0A f _ (Hw.contextLate_due (s.hw.begun .expiry 0x0A) p hb hd) hm hs hf ⟨hact, hleft⟩ hj hsw hk
  · rw [exec_drainTimeout]
    exact hr.idleF .expiry 0 _ (Hw.drainLate_early (s.hw.begun .expiry 0) p hn)
  · rw [exec_contextTimeout]
    exact hr.idleF .expiry 0x0A _ (Hw.contextLate_early (s.hw.begun .expiry 0x0A) p hn)
  · obtain ⟨hpart, hswitch, hfacets, hfaults⟩ := (s.hw.begun .alone 0x0A).contextDone_restore _ p f sw hp hf hsw hb hid h0 hrec hw hslot hgo
    refine hr.nextEqF .alone 0x0A _ rfl (hfaults.trans hnone) ?_
    have hset := (congrArg Part.unlisted (Hw.settle_part (s.hw.started .alone) _ p)).trans hpart
    refine ⟨?_, ?_, ?_, ?_, ?_, (Hw.settle_facets ..).trans hfacets⟩
    · have e := congrArg Part.resident hset; exact e
    · have e := congrArg Part.ctxBusy hset; exact e
    · have e := congrArg Part.holds hset; exact e
    · have e := congrArg Part.state hset; exact e
    · exact (congrArg (Map.find? · f) (Hw.settle_switches ..)).trans hswitch
  · obtain ⟨himage, hfacets, hfaults⟩ := (s.hw.begun .alone 0x0A).contextDone_save _ p f sw hp hf hsw hb hid h0 hrec hw hgo
    refine hr.nextEqF .alone 0x0A _ rfl (hfaults.trans hnone) ⟨?_, (Hw.settle_facets ..).trans hfacets⟩
    rw [Hw.settle_images]
    exact himage

end Sys2Proof.Machine

/-! PROOFS. R72, R73, R207, R214, R216 and R219: descriptors whose counter is 0, and the command that DSP sends. -/

namespace Sys2Proof.Machine

open Sys2Proof

/-! ## A changed descriptor -/

theorem Hw.modDesc_some (h : Hw) (t : Nat) (g : Desc → Desc) (d : Desc) (hd : h.desc? t = some d) :
    h.modDesc t g = { h with descs := Map.insert h.descs t (g d) } := by
  unfold Hw.modDesc
  rw [hd]

theorem Hw.desc?_modDesc (h : Hw) (t : Nat) (g : Desc → Desc) (d : Desc) (hd : h.desc? t = some d) : (h.modDesc t g).desc? t = some (g d) := by
  rw [h.modDesc_some t g d hd]
  exact Map.find?_insert_self _ _ _

theorem Hw.desc?_modDesc_ne (h : Hw) (t k : Nat) (g : Desc → Desc) (hk : k ≠ t) : (h.modDesc t g).desc? k = h.desc? k := by
  unfold Hw.modDesc
  split
  · exact Map.find?_insert_ne _ _ _ _ hk
  · rfl

/-- Nothing but descriptors changed. -/
structure Hw.SameButDescs (a b : Hw) : Prop where
  body : ({ a with descs := [] } : Hw) = { b with descs := [] }

theorem Hw.SameButDescs.refl (a : Hw) : Hw.SameButDescs a a := ⟨rfl⟩

theorem Hw.SameButDescs.trans {a b c : Hw} (h1 : Hw.SameButDescs a b) (h2 : Hw.SameButDescs b c) : Hw.SameButDescs a c :=
  ⟨h1.body.trans h2.body⟩

theorem Hw.sameButDescs_modDesc (h : Hw) (t : Nat) (g : Desc → Desc) : Hw.SameButDescs (h.modDesc t g) h := by
  unfold Hw.modDesc
  split
  · exact ⟨rfl⟩
  · exact .refl h

theorem Hw.pulse_eq (h : Hw) (v : Nat) : ∃ i, h.pulse v = { h with irq := i } := by
  unfold Hw.pulse
  split
  · exact ⟨_, rfl⟩
  · exact ⟨_, rfl⟩

/-- A level that is noted changes its entry and the vectors alone. -/
theorem Hw.noteLevel_eq (h : Hw) (idx sub threshold before after : Nat) :
    ∃ o i, h.noteLevel idx sub threshold before after = { h with od := o, irq := i } := by
  unfold Hw.noteLevel
  dsimp only
  split
  · obtain ⟨i, e⟩ := Hw.pulse_eq (h.set idx sub _) _
    exact ⟨_, i, e⟩
  · exact ⟨_, h.irq, rfl⟩

/-! ## A counter of 0 -/

/-- A descriptor that is READY. -/
def Desc.atReady (d : Desc) (cc : Nat) : Desc := { d with state := .ready, readyCc := cc, sentNo := 0 }

/-- The island with the descriptor READY and at the tail of its partition's list. -/
def Hw.listed (h : Hw) (t : Nat) (d : Desc) : Hw :=
  ({ h with descs := Map.insert h.descs t (d.atReady h.cc) } : Hw).modPart d.part fun p => { p with ready := p.ready ++ [t] }

theorem Hw.listed_spec (h : Hw) (t : Nat) (d : Desc) : (h.listed t d).desc? t = some (d.atReady h.cc) ∧
    ((h.listed t d).part d.part).ready = (h.part d.part).ready ++ [t] ∧ (∀ k, k ≠ d.part → (h.listed t d).part k = h.part k) ∧
    (h.listed t d).facets = h.facets ∧ (h.listed t d).seqs = h.seqs ∧ (h.listed t d).jobs = h.jobs ∧ (h.listed t d).faults = h.faults := by
  refine ⟨Map.find?_insert_self _ _ _, ?_, fun k hk => ?_, rfl, rfl, rfl, rfl⟩
  · exact congrArg Part.ready (Hw.part_modPart ({ h with descs := Map.insert h.descs t (d.atReady h.cc) } : Hw) d.part _)
  · exact Hw.part_modPart_ne ({ h with descs := Map.insert h.descs t (d.atReady h.cc) } : Hw) _ _ _ hk

theorem Hw.makeReady_eq (h : Hw) (t : Nat) (d : Desc) (hd : h.desc? t = some d) : ∃ o i, h.makeReady t = { h.listed t d with od := o, irq := i } := by
  obtain ⟨o, i, e⟩ := (h.listed t d).noteLevel_eq 0x601A (d.part + 1) (h.get 0x6019 (d.part + 1)) (h.readyDepth d.part) (h.readyDepth d.part + 1)
  refine ⟨o, i, Eq.trans ?_ e⟩
  unfold Hw.makeReady
  rw [hd]
  dsimp only
  rw [h.modDesc_some t _ d hd]
  rfl

/-- The descriptor goes to the tail of its partition's list. -/
theorem Hw.makeReady_spec (h : Hw) (t : Nat) (d : Desc) (hd : h.desc? t = some d) :
    (h.makeReady t).desc? t = some (d.atReady h.cc) ∧ ((h.makeReady t).part d.part).ready = (h.part d.part).ready ++ [t] ∧
      (∀ k, k ≠ d.part → (h.makeReady t).part k = h.part k) ∧ (h.makeReady t).facets = h.facets ∧ (h.makeReady t).seqs = h.seqs ∧
      (h.makeReady t).jobs = h.jobs ∧ (h.makeReady t).faults = h.faults := by
  obtain ⟨o, i, e⟩ := h.makeReady_eq t d hd
  rw [e]
  exact h.listed_spec t d

theorem Hw.semRequest_of_not_job (h : Hw) (t : Nat) (d : Desc) (hd : h.desc? t = some d) (ho : d.owner ≠ .job) : h.semRequest t = h := by
  unfold Hw.semRequest
  rw [hd]
  exact if_pos ho

theorem Hw.semRequest_of_none (h : Hw) (t : Nat) (d : Desc) (hd : h.desc? t = some d)
    (hs : (h.job d.facet d.urgentJob).semOf d.node = none) : h.semRequest t = h := by
  unfold Hw.semRequest
  rw [hd]
  dsimp only
  rw [hs]
  split <;> rfl

theorem Hw.jobReleased_of_not_job (h : Hw) (d : Desc) (ho : d.owner ≠ .job) : h.jobReleased d = true := by
  unfold Hw.jobReleased
  simp [ho]

/-- What happens to a released descriptor whose counter is 0. -/
theorem Hw.zeroCounter_released (h : Hw) (t : Nat) (d : Desc) (hd : h.desc? t = some d) (hs : d.state = .waiting) (hc : d.counter = 0)
    (hk : d.kind ≠ 8) (hr : h.released t d = true) (hj : h.jobReleased d = true) :
    (d.active = some [] → h.zeroCounter t = h.planDone t d) ∧
    (d.active ≠ some [] → d.delay = none → h.zeroCounter t = (h.makeReady t).semRequest t) ∧
    (∀ l key, d.active ≠ some [] → d.delay = some (l, key) → h.zeroCounter t =
      ((h.insertEntry l { key := key, kind := 0, payload := t, sinceCc := h.cc, atBegin := false }).modDelay l fun x =>
        { x with reserved := x.reserved - 1 }).modDesc t fun d => { d with state := .delayed }) := by
  have hgo : ¬ (d.state ≠ .waiting ∨ d.counter ≠ 0 ∨ d.kind = 8 ∨ (!h.released t d) = true ∨ (!h.jobReleased d) = true) := by
    simp [hs, hc, hk, hr, hj]
  refine ⟨fun ha => ?_, fun ha hn => ?_, fun l key ha hn => ?_⟩ <;> unfold Hw.zeroCounter <;> rw [hd] <;> dsimp only <;> rw [if_neg hgo]
  · exact if_pos ha
  · rw [if_neg ha, hn]
  · rw [if_neg ha, hn]

/-- A descriptor with a delay goes on its delay list. -/
theorem Hw.delayed_spec (h : Hw) (t : Nat) (d : Desc) (l : Nat) (e : DelayEntry) (hd : h.desc? t = some d) :
    let r := ((h.insertEntry l e).modDelay l fun x => { x with reserved := x.reserved - 1 }).modDesc t fun d => { d with state := .delayed }
    r.desc? t = some { d with state := .delayed } ∧ r.delay l = { h.delay l with
      entries := insertBy (fun a b => decide (a.key < b.key)) e (h.delay l).entries, reserved := (h.delay l).reserved - 1 } ∧
      r.parts = h.parts ∧ r.facets = h.facets ∧ r.faults = h.faults := by
  dsimp only
  have hy : ((h.insertEntry l e).modDelay l fun x => { x with reserved := x.reserved - 1 }).delay l = { h.delay l with
      entries := insertBy (fun a b => decide (a.key < b.key)) e (h.delay l).entries, reserved := (h.delay l).reserved - 1 } := by
    unfold Hw.insertEntry
    rw [Hw.delay_modDelay, Hw.delay_modDelay]
  have hb := ((h.insertEntry l e).modDelay l fun x => { x with reserved := x.reserved - 1 }).sameButDescs_modDesc t fun d =>
    { d with state := .delayed }
  refine ⟨Hw.desc?_modDesc _ t _ d hd, Eq.trans ?_ hy, ?_, ?_, ?_⟩
  · have e := congrArg Hw.delays hb.body; exact congrArg (Map.getD · l DelayList.reset) e
  · have e := congrArg Hw.parts hb.body; exact e
  · have e := congrArg Hw.facets hb.body; exact e
  · have e := congrArg Hw.faults hb.body; exact e

/-! ## Dispatch -/

/-- The heads that are passed over keep the descriptor that is taken, but for its own bypass field. -/
theorem Hw.countBypass_spec (h : Hw) (p t : Nat) (d : Desc) (hd : h.desc? t = some d) :
    (∃ b, (h.countBypass p t).desc? t = some { d with bypass := b }) ∧ (h.countBypass p t).parts = h.parts ∧
      (h.countBypass p t).facets = h.facets ∧ (h.countBypass p t).seqs = h.seqs ∧ (h.countBypass p t).out = h.out := by
  have hfold : ∀ (l : List Nat) (g : Hw), t ∉ l → let r := l.foldl (fun a x => a.modDesc x fun d => { d with bypass := min 65535 (d.bypass + 1) }) g
      r.desc? t = g.desc? t ∧ Hw.SameButDescs r g := fun l => by
    induction l with
    | nil => exact fun g _ => ⟨rfl, .refl g⟩
    | cons x r ih =>
      intro g hl
      obtain ⟨h1, h2⟩ := ih (g.modDesc x fun d => { d with bypass := min 65535 (d.bypass + 1) }) fun hr => hl (List.mem_cons_of_mem _ hr)
      exact ⟨h1.trans (g.desc?_modDesc_ne x t _ fun e => hl (e ▸ List.mem_cons_self)), h2.trans (g.sameButDescs_modDesc x _)⟩
  have hout : t ∉ (h.heads p).filter fun x => x != t && decide (h.rankOf t < h.rankOf x) := by simp
  have hkeep : ∀ {a b : Hw}, Hw.SameButDescs a b → a.parts = b.parts ∧ a.facets = b.facets ∧ a.seqs = b.seqs ∧ a.out = b.out := fun {a b} e =>
    ⟨by have x := congrArg Hw.parts e.body; exact x, by have x := congrArg Hw.facets e.body; exact x,
      by have x := congrArg Hw.seqs e.body; exact x, by have x := congrArg Hw.out e.body; exact x⟩
  unfold Hw.countBypass
  dsimp only
  split
  · obtain ⟨h1, h2⟩ := hfold _ ((h.inc 0x6018 (p + 1)).modDesc t fun d => { d with bypass := 0 }) hout
    obtain ⟨k1, k2, k3, k4⟩ := hkeep h2
    obtain ⟨m1, m2, m3, m4⟩ := hkeep ((h.inc 0x6018 (p + 1)).sameButDescs_modDesc t fun d => { d with bypass := 0 })
    exact ⟨⟨0, h1.trans (Hw.desc?_modDesc _ t _ d hd)⟩, k1.trans m1, k2.trans m2, k3.trans m3, k4.trans m4⟩
  · obtain ⟨h1, h2⟩ := hfold _ h hout
    exact ⟨⟨d.bypass, h1.trans hd⟩, hkeep h2⟩

/-- A window that starts sets the partition's window alone. -/
theorem Hw.startWindow_spec (h : Hw) (p t : Nat) : ∃ w, (h.startWindow p).part p = { h.part p with live := w } ∧
    (h.startWindow p).desc? t = h.desc? t ∧ (h.startWindow p).facets = h.facets ∧ (h.startWindow p).seqs = h.seqs ∧
    (h.startWindow p).out = h.out ∧ (h.startWindow p).lastPart = h.lastPart := by
  unfold Hw.startWindow
  dsimp only
  split
  · split
    · exact ⟨_, Hw.part_setPart .., rfl, rfl, rfl, rfl, rfl⟩
    · exact ⟨_, rfl, rfl, rfl, rfl, rfl, rfl⟩
  · exact ⟨_, rfl, rfl, rfl, rfl, rfl, rfl⟩

/-- The end of a dispatch: its counts, the job's learner commands, the partition last served, its window and the command. -/
def Hw.sendEnd (y : Hw) (p t wait most : Nat) (d : Desc) : Hw :=
  let h3 := ((y.inc 0x6014 (p + 1)).bump 0x6015 (p + 1) wait).set 0x6016 (p + 1) most
  let h4 := if d.owner = .job ∧ d.kind = 3 then
      h3.modJob d.facet d.urgentJob fun j => { j with learnSent := Map.insert j.learnSent p (Map.getD j.learnSent p 0 + 1) }
    else h3
  ((({ h4 with lastPart := p } : Hw).markBusy 5).startWindow p).emit (d.command t)

theorem Hw.sendEnd_spec (y : Hw) (p t wait most : Nat) (d : Desc) : (y.sendEnd p t wait most d).out = y.out ++ [d.command t] ∧
    (∃ w, (y.sendEnd p t wait most d).part p = { y.part p with live := w }) ∧ (y.sendEnd p t wait most d).lastPart = p ∧
    (y.sendEnd p t wait most d).desc? t = y.desc? t ∧ (y.sendEnd p t wait most d).facets = y.facets ∧
    (y.sendEnd p t wait most d).seqs = y.seqs := by
  have hgo : ∀ z : Hw, z.parts = y.parts → z.descs = y.descs → z.facets = y.facets → z.seqs = y.seqs → z.out = y.out →
      let r := ((({ z with lastPart := p } : Hw).markBusy 5).startWindow p).emit (d.command t)
      r.out = y.out ++ [d.command t] ∧ (∃ w, r.part p = { y.part p with live := w }) ∧ r.lastPart = p ∧ r.desc? t = y.desc? t ∧
        r.facets = y.facets ∧ r.seqs = y.seqs := fun z hp hd hf hs ho => by
    obtain ⟨w, sp, sd, sf, ss, so, sl⟩ := (({ z with lastPart := p } : Hw).markBusy 5).startWindow_spec p t
    refine ⟨congrArg (· ++ _) (so.trans ho), ⟨w, sp.trans ?_⟩, sl, sd.trans (congrArg (Map.find? · t) hd), sf.trans hf, ss.trans hs⟩
    exact congrArg (fun m => { Map.getD m p Part.reset with live := w }) hp
  unfold Hw.sendEnd
  dsimp only
  split
  · exact hgo _ rfl rfl rfl rfl rfl
  · exact hgo _ rfl rfl rfl rfl rfl

/-- A command that is sent: the partition has one credit less and the command last in its order of transfer. -/
theorem Hw.send_spec (h : Hw) (p t : Nat) (d : Desc) (hd : h.desc? t = some d) (ho : h.out = []) :
    (h.send p t).out = [d.command t] ∧ ((h.send p t).part p).credits = (h.part p).credits - 1 ∧
      ((h.send p t).part p).sent = (h.part p).sent ++ [t] ∧ ((h.send p t).part p).ready = (h.part p).ready.erase t ∧
      (h.send p t).lastPart = p ∧
      (∃ d', (h.send p t).desc? t = some d' ∧ d'.state = .dispatched ∧ d'.counter = d.counter ∧ d'.succ = d.succ) ∧
      (h.send p t).facets = h.facets ∧ (h.send p t).seqs = h.seqs := by
  obtain ⟨⟨b, ad⟩, ap, af, as_, ao⟩ := h.countBypass_spec p t d hd
  have hsend : h.send p t = (((h.countBypass p t).modDesc t fun x =>
      { x with state := .dispatched, sentNs := h.now, sentNo := h.nextSent, expired := false }).modPart p fun x =>
        { x with credits := x.credits - 1, ready := x.ready.erase t, sent := x.sent ++ [t] }).sendEnd p t (h.cc - d.readyCc)
          (min (2 ^ 32 - 1) (max (h.raw 0x6016 (p + 1)) (h.cc - d.readyCc))) d := by
    unfold Hw.send
    rw [hd]
    rfl
  rw [hsend]
  generalize h.countBypass p t = a at *
  rw [a.modDesc_some t _ _ ad]
  generalize hm : ({ a with descs := Map.insert a.descs t { { d with bypass := b } with
    state := .dispatched, sentNs := h.now, sentNo := h.nextSent, expired := false } } : Hw) = m
  have mdesc : m.desc? t = some { { d with bypass := b } with state := .dispatched, sentNs := h.now, sentNo := h.nextSent, expired := false } := by
    rw [← hm]
    exact Map.find?_insert_self _ _ _
  have mpart : m.part p = h.part p := by rw [← hm]; exact congrArg (Map.getD · p Part.reset) ap
  have mfacets : m.facets = h.facets := by rw [← hm]; exact af
  have mseqs : m.seqs = h.seqs := by rw [← hm]; exact as_
  have mout : m.out = [] := by rw [← hm]; exact ao.trans ho
  obtain ⟨eo, ⟨w, ep⟩, el, ed, ef, es⟩ := (m.modPart p fun x =>
    { x with credits := x.credits - 1, ready := x.ready.erase t, sent := x.sent ++ [t] }).sendEnd_spec p t (h.cc - d.readyCc)
      (min (2 ^ 32 - 1) (max (h.raw 0x6016 (p + 1)) (h.cc - d.readyCc))) d
  rw [Hw.part_modPart, mpart] at ep
  refine ⟨eo.trans (congrArg (· ++ _) mout), ?_, ?_, ?_, el, ⟨_, ed.trans mdesc, rfl, rfl, rfl⟩, ef.trans mfacets, es.trans mseqs⟩
  · rw [ep]
  · rw [ep]
  · rw [ep]

/-- Settles O31: the descriptor whose counter is 0, by its kind, and the dispatch. -/
theorem dispatch : Obligations.Dispatch := by
  unfold Obligations.Dispatch
  intro s hr
  obtain ⟨-, -, -, hnone⟩ := hr.quiet
  refine ⟨fun t d hd hs hc hk hrel hj ho hsem ha hn => ?_, fun t d hd hs hc hk ho hrel ha hn => ?_, fun t d l key hd hs hc hk hrel hj ha hn => ?_,
    fun t d hd hs hc hk ho hrel ha hsucc => ?_, fun t hd => ?_, fun p t d hch hd => ?_, fun hch => ?_⟩
  · obtain ⟨-, hready, -⟩ := (s.hw.begun .alone 0).zeroCounter_released t d hd hs hc hk hrel hj
    obtain ⟨m1, m2, m3, m4, m5, m6, m7⟩ := (s.hw.begun .alone 0).makeReady_spec t d hd
    have e := (hready (by simp [ha]) hn).trans (Hw.semRequest_of_none _ t _ m1
      ((congrArg (fun m => (Map.getD m (jobKey d.facet d.urgentJob) Job.idle).semOf d.node) m6).trans hsem))
    refine hr.nextEqF .alone 0 _ e (m7.trans hnone) ⟨?_, ?_, fun k hne => ?_, (Hw.settle_facets ..).trans m4, (Hw.settle_seqs ..).trans m5⟩
    · exact (Hw.settle_desc? ..).trans m1
    · exact (congrArg Part.ready (Hw.settle_part ..)).trans m2
    · exact (Hw.settle_part ..).trans (m3 k hne)
  · obtain ⟨-, hready, -⟩ := (s.hw.begun .alone 0).zeroCounter_released t d hd hs hc hk hrel (Hw.jobReleased_of_not_job _ d ho)
    obtain ⟨m1, m2, m3, m4, m5, -, m7⟩ := (s.hw.begun .alone 0).makeReady_spec t d hd
    have e := (hready ha hn).trans (Hw.semRequest_of_not_job _ t _ m1 ho)
    refine hr.nextEqF .alone 0 _ e (m7.trans hnone) ⟨?_, ?_, fun k hne => ?_, (Hw.settle_facets ..).trans m4, (Hw.settle_seqs ..).trans m5⟩
    · exact (Hw.settle_desc? ..).trans m1
    · exact (congrArg Part.ready (Hw.settle_part ..)).trans m2
    · exact (Hw.settle_part ..).trans (m3 k hne)
  · obtain ⟨-, -, hdelay⟩ := (s.hw.begun .alone 0).zeroCounter_released t d hd hs hc hk hrel hj
    obtain ⟨d1, d2, d3, d4, d5⟩ := (s.hw.begun .alone 0).delayed_spec t d l
      { key := key, kind := 0, payload := t, sinceCc := s.hw.cc, atBegin := false } hd
    refine hr.nextEqF .alone 0 _ (hdelay l key ha hn) (d5.trans hnone) ⟨?_, ?_, (Hw.settle_parts ..).trans d3, (Hw.settle_facets ..).trans d4⟩
    · exact (Hw.settle_desc? ..).trans d1
    · exact (congrArg (fun m => Map.getD m l DelayList.reset) (Hw.settle_delays ..)).trans d2
  · obtain ⟨hdone, -⟩ := (s.hw.begun .alone 0).zeroCounter_released t d hd hs hc hk hrel (Hw.jobReleased_of_not_job _ d (by simp [ho]))
    obtain ⟨-, hx, hgone, -⟩ := (s.hw.begun .alone 0).planDone_last t d hsucc
    exact hr.nextEqF .alone 0 _ (hdone ha) (hx.trans hnone) ((Hw.settle_desc? ..).trans hgone)
  · refine hr.idleF .alone 0 _ ?_
    unfold Hw.zeroCounter
    rw [show (s.hw.begun .alone 0).desc? t = none from hd]
  · obtain ⟨h1, h2, h3, h4, h5, ⟨d', h6, h7, h8, h9⟩, h10, h11⟩ := (s.hw.begun .alone 0).send_spec p t d hd rfl
    refine hr.nextEq .alone 0 _ (y := (s.hw.begun .alone 0).send p t) (by rw [show (s.hw.begun .alone 0).choose = some (p, t) from hch]) ?_
    refine ⟨(Hw.settle_out ..).trans h1, ?_, ?_, ?_, (Hw.settle_lastPart ..).trans h5, ⟨d', (Hw.settle_desc? ..).trans h6, h7, h8, h9⟩,
      (Hw.settle_facets ..).trans h10, (Hw.settle_seqs ..).trans h11⟩
    · exact (congrArg Part.credits (Hw.settle_part ..)).trans h2
    · exact (congrArg Part.sent (Hw.settle_part ..)).trans h3
    · exact (congrArg Part.ready (Hw.settle_part ..)).trans h4
  · exact hr.idle .alone 0 _ (by rw [show (s.hw.begun .alone 0).choose = none from hch])

end Sys2Proof.Machine

/-! PROOFS. R60, R61, R67, R68, R423: responses, errors, watchdogs and re-issues of the memory port. -/

namespace Sys2Proof.Machine

open Sys2Proof

/-! ## Finding and removing a request -/

theorem Hw.memFind_spec {h : Hw} {ch tag : Nat} {w : Bool} {r : MemReq} (hf : h.memFind ch tag w = some r) :
    r ∈ h.mem.out ∧ r.channel = ch ∧ r.tag = tag ∧ r.write = w := by
  have hp := List.find?_some hf
  simp only [Bool.and_eq_true, decide_eq_true_eq, beq_iff_eq] at hp
  exact ⟨List.mem_of_find?_eq_some hf, hp.1.1, hp.1.2, hp.2⟩

/-- The island without an outstanding request. -/
def Hw.withoutReq (h : Hw) (r : MemReq) : Hw := { h with mem := { h.mem with out := h.mem.out.erase r } }

/-- With nothing queued, nothing takes the place of a request that is removed. -/
theorem Hw.memRemove_of_empty (h : Hw) (r : MemReq) (hq : h.mem.queue = []) : h.memRemove r = h.withoutReq r := Hw.memPump_of_empty _ hq

theorem Hw.chargeMem_of_none (h : Hw) (r : MemReq) (ht : r.tenant = none) : h.chargeMem r = h := by
  unfold Hw.chargeMem
  rw [ht]

/-! ## Responses in time -/

section
variable {h : Hw} {ch tag : Nat} {w : Bool} {r : MemReq} (hf : h.memFind ch tag w = some r)
include hf

theorem Hw.memResponse_okay (he : r.expired = false) (hl : h.clk.prev < h.memLimit r) (data : List Byte) :
    h.memResponse ch tag w .okay data = ((h.memRemove r).chargeMem r).memDone { r with fails := 0 } data := by
  unfold Hw.memResponse
  rw [hf]
  dsimp only
  rw [if_neg (by simp [he]), if_neg (by omega)]

theorem Hw.memResponse_slverr (he : r.expired = false) (hl : h.clk.prev < h.memLimit r) (data : List Byte) :
    h.memResponse ch tag w .slverr data = (h.memRemove r).memError r false := by
  unfold Hw.memResponse
  rw [hf]
  dsimp only
  rw [if_neg (by simp [he]), if_neg (by omega)]

/-- An OKAY on which nothing waits takes its access off its channel, and no more. -/
theorem Hw.memResponse_okay_idle (he : r.expired = false) (hl : h.clk.prev < h.memLimit r) (ht : r.tenant = none) (hq : h.mem.queue = [])
    (hu : r.use = .startRead ∨ r.use = .other) (data : List Byte) : h.memResponse ch tag w .okay data = h.withoutReq r := by
  rw [h.memResponse_okay hf he hl data, h.memRemove_of_empty r hq, Hw.chargeMem_of_none _ r ht]
  unfold Hw.memDone
  rcases hu with e | e <;> simp only [e]

end

/-! ## Failures -/

/-- An access as it is sent a second time. -/
def MemReq.again (r : MemReq) : MemReq := { r with retried := true, expired := false }

theorem Hw.memError_first (h : Hw) (r : MemReq) (hr : r.retried = false) : h.memError r false = (h.inc 0x2103 (r.channel + 1)).memAgain r.again := by
  unfold Hw.memError
  dsimp only
  rw [if_neg (by simp), if_pos (by simp [hr])]
  rfl

/-- Its failure is counted, and it is under way again. -/
theorem Hw.memError_first_spec (h : Hw) (r : MemReq) (hr : r.retried = false) (hc : r.channel < 2) :
    (h.memError r false).get 0x2103 (r.channel + 1) = (h.get 0x2103 (r.channel + 1) + 1) % 2 ^ 64 ∧
    (h.memError r false).facets = h.facets ∧ (h.memError r false).faults = h.faults ∧
    ∀ P, Timeless P → P r.again → (h.memError r false).underWay P := by
  rw [h.memError_first r hr]
  have hs := (h.inc 0x2103 (r.channel + 1)).sameButMem_memAgain r.again
  exact ⟨(hs.get _ _ (by decide) (by omega)).trans (h.get_inc ..), hs.facets, hs.faults, fun P hP hp => Hw.underWay_memAgain _ _ hP hp⟩

/-- The write that is kept after its second failure. -/
def Hw.keptReq (h : Hw) (r : MemReq) : MemReq := { r with fails := r.fails + 1, reissueNs := some (h.now + 1000) }

/-- The island that keeps a committed write for its re-issue. -/
def Hw.keeping (h : Hw) (r : MemReq) : Hw :=
  { (h.inc 0x2103 (r.channel + 1)).event 0 (423 * 16) 4 none none with mem := { h.mem with failed := h.mem.failed ++ [h.keptReq r] } }

theorem Hw.occurred_keeping (h : Hw) (r : MemReq) (hc : r.channel < 2) : (h.keeping r).occurred 0 = (h.occurred 0 + 1) % 2 ^ 64 := by
  have hne : odKey 0xC030 (0 + 1) 0 ≠ odKey 0x2103 (r.channel + 1) 0 := odKey_idx_ne _ _ _ _ _ _ (by decide) (by omega) (by decide)
  have ho : (h.keeping r).occurred 0 = ((h.inc 0x2103 (r.channel + 1)).event 0 (423 * 16) 4 none none).occurred 0 := rfl
  exact ho.trans (h.occurred_counted _ _ 0 _ _ _ _ hne)

theorem Hw.memError_kept (h : Hw) (r : MemReq) (hr : r.retried = true) (hd : r.purpose.dropped = false) (hw : r.write = true)
    (hu : r.use = .other) (hn : r.fails < 15) :
    h.memError r false = h.keeping r := by
  have hcw : (h.inc 0x2103 (r.channel + 1)).committedWrite r = true := by
    unfold Hw.committedWrite
    rw [hw, hu]
    rfl
  unfold Hw.memError
  dsimp only
  rw [if_neg (by simp), if_neg (by simp [hr]), if_neg (by simp [hd]), if_pos hcw]
  unfold Hw.memKept
  dsimp only
  rw [if_neg (by omega)]
  have he : ({ r with fails := r.fails + 1, retried := true, reissueNs := some (h.now + 1000) } : MemReq) = h.keptReq r := by
    unfold Hw.keptReq
    rw [← hr]
  exact congrArg (fun q => { (h.inc 0x2103 (r.channel + 1)).event 0 (423 * 16) 4 none none with
    mem := { h.mem with failed := h.mem.failed ++ [q] } }) he

/-! ## The watchdog and late responses -/

/-- A request whose watchdog has expired: its tag stays in use, and nothing waits on it. -/
def MemReq.past (r : MemReq) : MemReq := { r with expired := true, use := .other }

/-- The island after a watchdog has expired, before the access is taken for a failed one. -/
def Hw.expiring (h : Hw) (r : MemReq) : Hw := { h with mem := { h.mem with out := h.mem.out.map fun q => if q == r then r.past else q } }

theorem Hw.memExpire_eq (h : Hw) (r : MemReq) : h.memExpire r = (h.expiring r).memError r false := by
  have hl : (h.mem.out.map fun q => if q == r then ({ q with expired := true, use := .other } : MemReq) else q)
      = h.mem.out.map fun q => if q == r then r.past else q := by
    refine List.map_congr_left fun q _ => ?_
    by_cases e : q = r
    · rw [e]; rfl
    · rw [if_neg (by simpa using e), if_neg (by simpa using e)]
  exact congrArg (fun l => ({ h with mem := { h.mem with out := l } } : Hw).memError r false) hl

theorem Hw.memExpired_of_none (h : Hw) (ch tag : Nat) (w : Bool) (hf : h.memFind ch tag w = none) : h.memExpired ch tag w = h := by
  unfold Hw.memExpired
  rw [hf]

theorem Hw.memExpired_early (h : Hw) (ch tag : Nat) (w : Bool) (r : MemReq) (hf : h.memFind ch tag w = some r)
    (he : r.expired = true ∨ h.now < h.memLimit r) : h.memExpired ch tag w = h := by
  unfold Hw.memExpired
  rw [hf]
  exact if_pos he

theorem Hw.memExpired_due (h : Hw) (ch tag : Nat) (w : Bool) (r : MemReq) (hf : h.memFind ch tag w = some r) (he : r.expired = false)
    (hl : h.memLimit r ≤ h.now) : h.memExpired ch tag w = (h.expiring r).memError r false := by
  rw [← h.memExpire_eq r]
  unfold Hw.memExpired
  rw [hf]
  exact if_neg (by simp [he]; omega)

/-- What is outstanding stays so while MOV is handed an access again. -/
theorem Hw.mem_out_memPumpN (n : Nat) (h : Hw) {q : MemReq} (hq : q ∈ h.mem.out) : q ∈ (Hw.memPumpN n h).mem.out := by
  induction n generalizing h with
  | zero => exact hq
  | succ n ih =>
    unfold Hw.memPumpN
    split
    · exact ih _ (List.mem_append_left _ hq)
    · exact hq

theorem Hw.mem_out_memAgain (h : Hw) (r : MemReq) {q : MemReq} (hq : q ∈ h.mem.out) : q ∈ (h.memAgain r).mem.out :=
  Hw.mem_out_memPumpN _ _ hq

theorem Hw.past_mem_expiring (h : Hw) (r : MemReq) (hr : r ∈ h.mem.out) : r.past ∈ (h.expiring r).mem.out :=
  List.mem_map.mpr ⟨r, hr, if_pos (beq_self_eq_true r)⟩

/-- A late response's part in MEM_LATE_RESPONSE. -/
def Hw.lateResponse (h : Hw) (ch tag : Nat) (w : Bool) : Hw :=
  match h.memFind ch tag w with
  | some r => if r.expired then h.memLate r else h
  | none => h

theorem exec_memLateResponse (ch : Fin 2) (w : Bool) (tag : Fin 1024) (s : State) : exec (.memLateResponse ch w tag) s =
    .next (s.onCoreAt (.response ch.val w) 0x0B fun h => h.lateResponse ch.val tag.val w) := rfl

theorem Hw.lateResponse_of_none (h : Hw) (ch tag : Nat) (w : Bool) (hf : h.memFind ch tag w = none) : h.lateResponse ch tag w = h := by
  unfold Hw.lateResponse
  rw [hf]

theorem Hw.lateResponse_of_expired (h : Hw) (ch tag : Nat) (w : Bool) (r : MemReq) (hf : h.memFind ch tag w = some r) (he : r.expired = true)
    (hq : h.mem.queue = []) : h.lateResponse ch tag w = (h.withoutReq r).inc 0x2102 (ch + 1) := by
  obtain ⟨-, hch, -, -⟩ := h.memFind_spec hf
  unfold Hw.lateResponse
  rw [hf]
  dsimp only
  rw [if_pos he]
  unfold Hw.memLate
  rw [h.memRemove_of_empty r hq, hch]

/-! ## Re-issue -/

/-- Nothing that MOV hands on is one of the failed writes that wait. -/
theorem Hw.failed_memPumpN (n : Nat) (h : Hw) : (Hw.memPumpN n h).mem.failed = h.mem.failed := by
  induction n generalizing h with
  | zero => rfl
  | succ n ih =>
    unfold Hw.memPumpN
    split
    · exact ih _
    · rfl

theorem Hw.failed_memAgain (h : Hw) (r : MemReq) : (h.memAgain r).mem.failed = h.mem.failed := Hw.failed_memPumpN _ _

/-- The island without a failed write that has waited. -/
def Hw.withoutFailed (h : Hw) (r : MemReq) : Hw := { h with mem := { h.mem with failed := h.mem.failed.erase r } }

theorem Hw.memReissue_due (h : Hw) (ch tag : Nat) (r : MemReq) (hf : (h.mem.failed.find? fun q => q.channel = ch && q.tag = tag) = some r)
    (hd : ∀ since, r.reissueNs = some since → since ≤ h.now) :
    h.memReissue ch tag = (h.withoutFailed r).memAgain { r with reissueNs := none } := by
  unfold Hw.memReissue
  rw [hf]
  refine if_neg ?_
  cases e : r.reissueNs with
  | none => simp
  | some since =>
    have := hd since e
    simpa using this

theorem Hw.memReissue_early (h : Hw) (ch tag : Nat) (r : MemReq) (hf : (h.mem.failed.find? fun q => q.channel = ch && q.tag = tag) = some r)
    (since : Nat) (he : r.reissueNs = some since) (hd : h.now < since) : h.memReissue ch tag = h := by
  unfold Hw.memReissue
  rw [hf]
  refine if_pos ?_
  rw [he]
  exact decide_eq_true hd

/-- Settles O30: responses in time, first and second failures, watchdogs, late responses and re-issues. -/
theorem memoryResponses : Obligations.MemoryResponses := by
  intro s ch tag hr
  obtain ⟨-, -, -, hnone⟩ := hr.quiet
  have hch : ch.val < 2 := ch.isLt
  refine ⟨fun r data hf hu he hl ht hq => ?_, fun r hf hu he hl ht hq => ?_, fun r hf he hl hrt hq => ?_,
    fun r hf hu he hl hrt hd hn hq => ?_, fun w hf => ⟨?_, ?_⟩, fun w r hf he hl hrt hq => ?_, fun w r hf he => ?_, fun w r hf he hq => ?_,
    fun r hf => ⟨fun hd => ?_, fun since he hd => ?_⟩⟩
  · exact hr.nextEqF _ _ _ (y := (s.hw.begun (.response ch.val false) 0x0B).withoutReq r)
      (Hw.memResponse_okay_idle (h := s.hw.begun _ _) hf he hl ht hq (.inl hu) data) hnone ⟨Hw.settle_mem .., Hw.settle_seqs .., Hw.settle_facets ..⟩
  · exact hr.nextEqF _ _ _ (y := (s.hw.begun (.response ch.val true) 0x0B).withoutReq r)
      (Hw.memResponse_okay_idle (h := s.hw.begun _ _) hf he hl ht hq (.inr hu) []) hnone ⟨Hw.settle_mem .., Hw.settle_seqs .., Hw.settle_facets ..⟩
  · obtain ⟨-, hc, -, -⟩ := s.hw.memFind_spec hf
    obtain ⟨hget, hfac, hfau, huw⟩ := ((s.hw.begun (.response ch.val true) 0x0B).withoutReq r).memError_first_spec r hrt (by omega)
    refine hr.nextEqF _ _ _ (y := ((s.hw.begun (.response ch.val true) 0x0B).withoutReq r).memError r false) ?_ (hfau.trans hnone) ⟨?_, ?_, ?_⟩
    · exact (Hw.memResponse_slverr (h := s.hw.begun _ _) hf he hl []).trans (congrArg (Hw.memError · r false) (Hw.memRemove_of_empty _ r hq))
    · exact (Hw.settle_get _ _ _ _ (obsKey_low _ _ _ (by decide) (by omega))).trans hget
    · obtain ⟨q, hq1, hq2⟩ := huw (fun q => q.retried = true ∧ q.channel = r.channel ∧ q.addr = r.addr ∧ q.data = r.data ∧
        q.use = r.use ∧ q.purpose = r.purpose ∧ q.cls = r.cls ∧ q.ways = r.ways ∧ q.qos = r.qos) (fun _ _ _ hp => hp)
        ⟨rfl, rfl, rfl, rfl, rfl, rfl, rfl, rfl, rfl⟩
      exact ⟨q, by rw [Hw.settle_mem]; exact hq1, hq2⟩
    · exact (Hw.settle_facets ..).trans hfac
  · obtain ⟨-, hc, -, hw⟩ := s.hw.memFind_spec hf
    have heq := (Hw.memResponse_slverr (h := s.hw.begun (.response ch.val true) 0x0B) hf he hl []).trans
      ((congrArg (Hw.memError · r false) (Hw.memRemove_of_empty (s.hw.begun (.response ch.val true) 0x0B) r hq)).trans
        (Hw.memError_kept _ r hrt hd hw hu hn))
    refine hr.nextEqF _ _ _ heq hnone ⟨?_, ?_, ?_, Hw.settle_facets ..⟩
    · rw [Hw.settle_mem]
      rfl
    · rw [Hw.settle_mem]
      rfl
    · exact (Hw.occurred_settle ..).trans (Hw.occurred_keeping _ r (by omega))
  · exact hr.idleF _ _ _ (Hw.memExpired_of_none _ _ _ _ hf)
  · rw [exec_memLateResponse]
    exact hr.idle _ _ _ (Hw.lateResponse_of_none _ _ _ _ hf)
  · obtain ⟨hmem, hc, -, -⟩ := s.hw.memFind_spec hf
    have heq := (s.hw.begun .expiry 0x0B).memExpired_due ch.val tag.val w r hf he hl
    obtain ⟨hget, hfac, hfau, huw⟩ := ((s.hw.begun .expiry 0x0B).expiring r).memError_first_spec r hrt (by omega)
    refine hr.nextEqF _ _ _ heq (hfau.trans hnone) ⟨⟨r.past, ?_, rfl, rfl, rfl, rfl⟩, ?_, ?_, (Hw.settle_facets ..).trans hfac⟩
    · rw [Hw.settle_mem, Hw.memError_first _ r hrt]
      exact Hw.mem_out_memAgain _ _ (Hw.past_mem_expiring (s.hw.begun .expiry 0x0B) r hmem)
    · obtain ⟨q, hq1, hq2⟩ := huw (fun q => q.retried = true ∧ q.addr = r.addr ∧ q.data = r.data ∧ q.use = r.use) (fun _ _ _ hp => hp)
        ⟨rfl, rfl, rfl, rfl⟩
      exact ⟨q, by rw [Hw.settle_mem]; exact hq1, hq2⟩
    · exact (Hw.settle_get _ _ _ _ (obsKey_low _ _ _ (by decide) (by omega))).trans hget
  · exact hr.idleF _ _ _ (Hw.memExpired_early _ _ _ _ r hf he)
  · rw [exec_memLateResponse]
    refine hr.nextEq _ _ _ (Hw.lateResponse_of_expired (s.hw.begun _ _) _ _ w r hf he hq) ⟨?_, ?_, Hw.settle_facets ..⟩
    · exact Hw.settle_mem ..
    · exact (Hw.settle_get _ _ _ _ (obsKey_low _ _ _ (by decide) (by omega))).trans (Hw.get_inc ..)
  · have heq := (s.hw.begun .alone 0x0B).memReissue_due ch.val tag.val r hf hd
    refine hr.nextEq _ _ _ heq ⟨?_, ?_⟩
    · rw [Hw.settle_mem, Hw.failed_memAgain]
      rfl
    · obtain ⟨q, hq1, hq2⟩ := Hw.underWay_memAgain ((s.hw.begun .alone 0x0B).withoutFailed r) { r with reissueNs := none }
        (P := fun q => q.addr = r.addr ∧ q.data = r.data ∧ q.use = r.use ∧ q.fails = r.fails) (fun _ _ _ hp => hp) ⟨rfl, rfl, rfl, rfl⟩
      exact ⟨q, by rw [Hw.settle_mem]; exact hq1, hq2⟩
  · exact hr.idle _ _ _ (Hw.memReissue_early _ _ _ r hf since he hd)

end Sys2Proof.Machine

/-! PROOFS. R321: a donation for a semaphore whose holder is named beyond the sixteen facets. -/

namespace Sys2Proof.Machine

open Sys2Proof

/-! ## A holder whose partitions are kept where donations are counted -/

/-- The facet number whose FACET_PARTS would stand where 0x9223.01 stands. -/
def farFacet : Nat := 0x422300

/-- The job that waits for the semaphore. -/
def farWaiter : Waiter := { facet := 0, urgent := true, context := 0, cls := .be, level := 0, cc := 0, tag := 0 }

/-- A suspended job of that facet holds semaphore 0, its urgent job has the facet, and a job of facet 0 waits; partition 0 is the facet's. -/
def farHw : Hw :=
  { Hw.reset with
    sems := [(0, { Sem.free with holder := some (farFacet, false, 0), waiters := [farWaiter] })]
    jobs := [(jobKey farFacet false, { Job.idle with suspended := true }), (jobKey farFacet true, { Job.idle with state := .running, graphOk := true })]
    od := [(odKey 0x9223 1 0, 1)] }

/-- That machine. -/
def farState : State := { State.reset with hw := farHw }

theorem farState_ready : farState.Ready := ⟨rfl, rfl, rfl, ⟨rfl, rfl, rfl, rfl⟩⟩

theorem farState_parts : farHw.facetParts farFacet = [0] := by decide +kernel

/-- An outcome has a switch of that facet for which partition 0 waits. -/
def switchesZero : Host.Outcome State Fault Refusal → Bool
  | .next t => (Map.find? t.hw.switches farFacet).any fun sw => decide (sw.waiting = [0])
  | _ => false

/-- The donation is counted first, which leaves the facet with partition 1. -/
theorem farState_switches : switchesZero (exec (.semaphoreDonation 0) farState) = false := by decide +kernel

/-- Refutes O44: of a holder that is no facet of the block, the count of donations is the place of its partitions, and the switch takes them as
they are once the donation is counted. -/
theorem not_slicesAndDonations : ¬ Obligations.SlicesAndDonations := by
  unfold Obligations.SlicesAndDonations
  intro h
  obtain ⟨-, -, hdonate, -⟩ := h farState farState_ready
  obtain ⟨t, ht, -, -, hsw, -⟩ := hdonate 0 farFacet 0 farWaiter [] rfl rfl rfl (by decide +kernel) (by decide +kernel)
    (by rw [show farState.hw = farHw from rfl, farState_parts]; decide)
    (by rw [show farState.hw = farHw from rfl, farState_parts]; decide +kernel)
  have hwait : switchesZero (.next t) = true := by
    simp only [switchesZero, hsw]
    exact decide_eq_true farState_parts
  rw [← ht, farState_switches] at hwait
  exact Bool.false_ne_true hwait

end Sys2Proof.Machine

/-! PROOFS. R41, R375, R376, R395, R397, R398: background slots, shut-down, event intake and rate windows. -/

namespace Sys2Proof.Machine

open Sys2Proof

/-! ## Background tasks -/

theorem Map.mem_of_find? {α : Type} (m : Map α) {k : Nat} {v : α} (hf : Map.find? m k = some v) : (k, v) ∈ m := by
  induction m with
  | nil => exact absurd hf nofun
  | cons e r ih =>
    obtain ⟨j, w⟩ := e
    unfold Map.find? at hf
    split at hf
    · rename_i hk
      injection hf with hf
      rw [hk, hf]
      exact List.mem_cons_self
    · split at hf
      · exact absurd hf nofun
      · exact List.mem_cons_of_mem _ (ih hf)

theorem Hw.task_modTask_ne (h : Hw) (n k : Nat) (g : Task → Task) (hne : k ≠ n) : (h.modTask n g).task k = h.task k := by
  simp [Hw.task, Hw.modTask, Map.getD_insert_ne _ _ _ _ _ hne]

/-- A task whose debt begins anew stays so as others start. -/
theorem Hw.task_foldl_bgStart (l : List Nat) (h : Hw) (t : Nat) (ht : t ∈ l ∨ h.task t = { Task.reset with sinceNs := h.now }) :
    (l.foldl Hw.bgStart h).task t = { Task.reset with sinceNs := h.now } := by
  induction l generalizing h with
  | nil => exact ht.resolve_left List.not_mem_nil
  | cons k r ih =>
    refine ih (h.bgStart k) ?_
    by_cases hk : t = k
    · exact .inr (by rw [hk]; exact h.task_modTask k _)
    · rcases ht with ht | ht
      · exact .inl ((List.mem_cons.mp ht).resolve_left hk)
      · exact .inr ((h.task_modTask_ne k t _ hk).trans ht)

/-- A task that is OFF with an enable pending starts again. -/
theorem Hw.task_bgPending (h : Hw) (t : Nat) (hs : (h.task t).state = 0) (hp : (h.task t).pending = true) :
    h.bgPending.task t = { Task.reset with sinceNs := h.now } := by
  refine h.task_foldl_bgStart _ t (.inl ?_)
  cases hf : Map.find? h.tasks t with
  | none => exact absurd hs (by simp [Hw.task, Map.getD, hf, Task.reset])
  | some x =>
    have hx : h.task t = x := by simp [Hw.task, Map.getD, hf]
    rw [hx] at hs hp
    exact List.mem_map.mpr ⟨(t, x), List.mem_filter.mpr ⟨Map.mem_of_find? _ hf, by simp [hs, hp]⟩, rfl⟩

/-! ## Slots -/

theorem Hw.bgSlot_of_off (h : Hw) (u t : Nat) (ht : (h.task t).state = 0 ∨ h.eng.state = .start) : h.bgSlot u t = h.markIdle u := by
  unfold Hw.bgSlot
  exact if_pos ht

section
variable (h : Hw) (u t : Nat) (ht : (h.task t).state ≠ 0) (he : h.eng.state ≠ .start)
include ht he

theorem Hw.bgSlot_guaranteed (hg : h.bgGuaranteed t = true) : h.bgSlot u t = (h.inc 0xA055 (t + 1)).bgWork t := by
  unfold Hw.bgSlot
  rw [if_neg (by simp [ht, he]), if_pos hg]

theorem Hw.bgSlot_free (hg : h.bgGuaranteed t = false) (hw : t < 3 ∨ h.foregroundWaits = false) : h.bgSlot u t = h.bgWork t := by
  have hw : ¬(3 ≤ t ∧ h.foregroundWaits = true) := by rcases hw with hw | hw <;> simp [hw]
  unfold Hw.bgSlot
  rw [if_neg (by simp [ht, he]), if_neg (by simp [hg]), if_neg hw]

/-- Whatever the slot is, the task does its work in it; a guaranteed one is counted before. -/
theorem Hw.bgSlot_works (hw : h.foregroundWaits = false) : h.bgSlot u t = h.bgWork t ∨ h.bgSlot u t = (h.inc 0xA055 (t + 1)).bgWork t := by
  cases hg : h.bgGuaranteed t with
  | false => exact .inl (h.bgSlot_free u t ht he hg (.inr hw))
  | true => exact .inr (h.bgSlot_guaranteed u t ht he hg)

end

/-- A flush task leaves a slot that is not guaranteed to a foreground request. -/
theorem Hw.bgSlot_yields (h : Hw) (u t : Nat) (ht : 3 ≤ t) (hg : h.bgGuaranteed t = false) (hw : h.foregroundWaits = true) :
    h.bgSlot u t = h.markIdle u := by
  unfold Hw.bgSlot
  split
  · rfl
  · rw [if_neg (by simp [hg]), if_pos ⟨ht, hw⟩]

/-- How far a pass task may be. -/
def Hw.bgAhead (h : Hw) (t : Nat) : Nat := taskWork t * (h.now - (h.task t).sinceNs) / h.bgPeriod t + taskWork t

theorem Hw.bgWork_pass (h : Hw) (t : Nat) (ht : t < 3) :
    h.bgWork t = if (h.task t).done < h.bgAhead t then h.modTask t fun y => { y with done := y.done + 1 } else h := by
  unfold Hw.bgWork
  split
  · omega
  · omega
  · omega
  · rfl

/-- The count of guaranteed slots is no matter of a task's debt. -/
theorem Hw.bgAhead_inc (h : Hw) (t : Nat) (ht : t < 3) : (h.inc 0xA055 (t + 1)).bgAhead t = h.bgAhead t := by
  have hg : (h.inc 0xA055 (t + 1)).get 0xA052 (t + 1) = h.get 0xA052 (t + 1) :=
    h.get_inc_ne _ _ _ _ (odKey_idx_ne _ _ _ _ _ _ (by omega) (by omega) (by decide))
  unfold Hw.bgAhead Hw.bgPeriod
  rw [hg]
  rfl

theorem Hw.bgSlot_tooFar (h : Hw) (u t : Nat) (ht : t < 3) (hg : h.bgGuaranteed t = false) (hd : h.bgAhead t ≤ (h.task t).done) :
    h.bgSlot u t = h ∨ h.bgSlot u t = h.markIdle u := by
  by_cases hoff : (h.task t).state = 0 ∨ h.eng.state = .start
  · exact .inr (h.bgSlot_of_off u t hoff)
  · obtain ⟨hs, he⟩ := not_or.mp hoff
    exact .inl (by rw [h.bgSlot_free u t hs he hg (.inl ht), h.bgWork_pass t ht, if_neg (by omega)])

/-! ## The flush tasks -/

/-- TRACE_FLUSH writes the next trace record that waits. -/
theorem Hw.postTrace_spec (h : Hw) (i : Nat) (l : List Byte)
    (hf : (h.trace.buffer.find? fun e => !(h.memWaiting fun u => u == .traceRecord e.1)) = some (i, l)) :
    h.postTrace.underWay (fun x => x.use = .traceRecord i ∧ x.data = l) ∧ h.postTrace.seqs = h.seqs := by
  unfold Hw.postTrace
  rw [hf]
  exact ⟨Hw.underWay_memSend _ _ (fun _ _ _ hp => hp) ⟨rfl, rfl⟩, (Hw.sameButMem_memPost ..).seqs⟩

/-- ACCOUNT_FLUSH posts the first record that waits. -/
theorem Hw.postAccount_spec (h : Hw) (n : Nat) (r : AcctRec) (rest : List (Nat × AcctRec)) (hp : h.acct.posted = none) (hn : h.acctFull = false)
    (hl : h.acct.flushing = (n, r) :: rest) : h.postAccount.acct.flushing = rest ∧ h.postAccount.acct.posted = some (n, r) ∧
      h.postAccount.underWay (fun x => x.use = .accountRecord n ∧ x.write = true) ∧ h.postAccount.seqs = h.seqs := by
  unfold Hw.postAccount
  rw [if_neg (by simp [hp, hn]), hl]
  have hm := fun (a : Hw) addr data => a.sameButMem_memPost true addr 2 data .account none (.accountRecord n)
  exact ⟨congrArg Account.flushing (hm _ _ _).acct, congrArg Account.posted (hm _ _ _).acct,
    Hw.underWay_memSend _ _ (fun _ _ _ hp => hp) ⟨rfl, rfl⟩, (hm _ _ _).seqs⟩

/-- The slots of the two flushes. -/
theorem Hw.bgSlot_trace (h : Hw) (u i : Nat) (l : List Byte) (ht : (h.task 3).state ≠ 0) (he : h.eng.state ≠ .start)
    (hw : h.foregroundWaits = false)
    (hf : (h.trace.buffer.find? fun e => !(h.memWaiting fun u => u == .traceRecord e.1)) = some (i, l)) :
    (h.bgSlot u 3).underWay (fun x => x.use = .traceRecord i ∧ x.data = l) ∧ (h.bgSlot u 3).seqs = h.seqs := by
  rcases h.bgSlot_works u 3 ht he hw with e | e
  · rw [e]
    exact h.postTrace_spec i l hf
  · rw [e]
    exact (h.inc 0xA055 4).postTrace_spec i l hf

theorem Hw.bgSlot_account (h : Hw) (u n : Nat) (r : AcctRec) (rest : List (Nat × AcctRec)) (ht : (h.task 4).state ≠ 0)
    (he : h.eng.state ≠ .start) (hw : h.foregroundWaits = false) (hp : h.acct.posted = none) (hn : h.acctFull = false)
    (hl : h.acct.flushing = (n, r) :: rest) : (h.bgSlot u 4).acct.flushing = rest ∧ (h.bgSlot u 4).acct.posted = some (n, r) ∧
      (h.bgSlot u 4).underWay (fun x => x.use = .accountRecord n ∧ x.write = true) ∧ (h.bgSlot u 4).seqs = h.seqs := by
  rcases h.bgSlot_works u 4 ht he hw with e | e
  · rw [e]
    exact h.postAccount_spec n r rest hp hn hl
  · have hfull : (h.inc 0xA055 5).acctFull = h.acctFull := by
      unfold Hw.acctFull
      rw [Hw.get_inc_ne h _ _ _ _ (by decide), show (h.inc 0xA055 5).raw 0x9303 1 = h.raw 0x9303 1 from Hw.raw_set_ne h _ _ _ _ _ (by decide),
        show (h.inc 0xA055 5).raw 0x9304 1 = h.raw 0x9304 1 from Hw.raw_set_ne h _ _ _ _ _ (by decide)]
    rw [e]
    exact (h.inc 0xA055 5).postAccount_spec n r rest hp (hfull.trans hn) hl

/-! ## The end of a shut-down -/

theorem Hw.bgStopped_held (h : Hw) (t : Nat) (hk : (h.task t).state ≠ 2 ∨ (3 ≤ t ∧ h.flushHeld t ≠ 0)) : h.bgStopped t = h := by
  unfold Hw.bgStopped
  exact if_pos hk

theorem Hw.bgStopped_free (h : Hw) (t : Nat) (hs : (h.task t).state = 2) (hk : t < 3 ∨ h.flushHeld t = 0) :
    h.bgStopped t = h.modTask t fun y => { y with state := 0 } := by
  unfold Hw.bgStopped
  exact if_neg (by rintro (hn | ⟨h3, hn⟩); exacts [hn hs, hk.elim (by omega) hn])

/-! ## The intake of EVR -/

theorem Hw.acceptNext_idle (h : Hw) (hi : h.events.intake = [] ∨ ∃ c, h.events.takenCc = some c ∧ h.cc < c + 16) :
    h.acceptNext = h.markIdle 0x0D := by
  unfold Hw.acceptNext
  refine if_pos ?_
  rcases hi with hi | ⟨c, hc, hlt⟩
  · simp [hi]
  · simp [hc, hlt]

theorem Hw.acceptNext_due (h : Hw) (hi : h.events.intake ≠ []) (hc : ∀ c, h.events.takenCc = some c → c + 16 ≤ h.cc) :
    h.acceptNext = Hw.acceptEvent { h with events := { h.events with takenCc := some h.cc } } := by
  unfold Hw.acceptNext
  refine if_neg ?_
  cases ht : h.events.takenCc with
  | none => simpa using hi
  | some c =>
    have := hc c ht
    simp [hi]
    omega

/-- The island once a record without parts has a free slot. -/
def Hw.accepted (h : Hw) (e : EventRec) (rest : List EventRec) : Hw :=
  { h.bump 0xC009 1 0 with events := { h.events with intake := rest, buffer := h.events.buffer ++ [e] } }

/-- A record that has no parts and is persisted by no write of its own takes a free slot. -/
theorem Hw.acceptEvent_plain (h : Hw) (e : EventRec) (rest : List EventRec) (hi : h.events.intake = e :: rest) (hs : e.snap = [])
    (hd : e.duePersist = false) (hv : e.severity ≠ 5) (hb : h.events.buffer.length < eventSlots) (hl : h.events.lostIntake = 0)
    (ho : h.events.lostOver = 0) (hf : h.flushing = false) : h.acceptEvent = h.accepted e rest := by
  have hplace : ∀ a : Hw, a.events = { h.events with intake := rest } → a.placeEvent e = some { a.bump 0xC009 1 0 with
      events := { h.events with intake := rest, buffer := h.events.buffer ++ [e] } } := fun a ha => by
    have hfilter : h.events.buffer.filter (fun x => !([] : List EventRec).contains x) = h.events.buffer :=
      List.filter_eq_self.mpr fun x _ => rfl
    unfold Hw.placeEvent
    dsimp only
    rw [ha, if_pos hb, hfilter, Nat.add_zero]
  have hreport : (h.accepted e rest).reportLost = h.accepted e rest := by
    have h0 : (h.accepted e rest).events.lostIntake = 0 := hl
    have h1 : (h.accepted e rest).events.lostOver = 0 := ho
    unfold Hw.reportLost
    rw [h0]
    dsimp only
    rw [if_pos rfl, if_neg (by simp [h1])]
  have hquiet : (h.accepted e rest).flushing = false := by
    have hraw : (h.bump 0xC009 1 0).raw 0xC005 1 = h.raw 0xC005 1 := Hw.raw_set_ne h _ _ _ _ _ (by decide)
    have hany : ∀ x, (h.accepted e rest).unsettled x = h.unsettled x := fun x => congrArg (fun n => (x.dueMem && n != 0) || x.duePersist) hraw
    have hold : h.eng.state ≠ .faultHold ∧ (h.events.buffer.any fun x => x.severity == 5 && h.unsettled x) = false := by
      have := hf
      simp only [Hw.flushing, Bool.or_eq_false_iff] at this
      exact ⟨by simpa using this.1, this.2⟩
    have heng : (h.accepted e rest).eng = h.eng := rfl
    have hbuf : (h.accepted e rest).events.buffer = h.events.buffer ++ [e] := rfl
    simp only [Hw.flushing, heng, hbuf, hany, List.any_append, hold.2]
    simp [hold.1, hv]
  unfold Hw.acceptEvent
  rw [hi]
  dsimp only
  rw [hd, if_neg Bool.false_ne_true]
  unfold Hw.placeWithSnap
  dsimp only
  rw [if_pos hs, hplace _ rfl]
  have ha : (some ({ h.bump 0xC009 1 0 with events := { h.events with intake := rest, buffer := h.events.buffer ++ [e] } } : Hw)).getD
      (({ h with events := { h.events with intake := rest } } : Hw).inc 0xC00A 1) = h.accepted e rest := rfl
  refine Eq.trans (congrArg (fun a : Hw => a.reportLost.flushEvents) ha) ?_
  rw [hreport]
  unfold Hw.flushEvents
  rw [hquiet, if_neg Bool.false_ne_true]

/-- The end of the command finds no record of its own in the intake. -/
theorem Hw.settle_accepted (b h : Hw) (e : EventRec) (rest : List EventRec) (hi : h.Idle) (hr : ∀ x ∈ rest, x.seq < h.raw 0xC004 1) :
    (Hw.settle b (h.accepted e rest)).events = { h.events with intake := rest, buffer := h.events.buffer ++ [e] } := by
  have hidle : (h.accepted e rest).Idle := ⟨hi.raised, hi.made, hi.fired⟩
  have hraw : (h.accepted e rest).raw 0xC004 1 = h.raw 0xC004 1 := Hw.raw_set_ne h _ _ _ _ _ (by decide)
  have hsnap := b.attachSnap_of_older (h.accepted e rest) (h.raw 0xC004 1) hr
  rw [Hw.settle_of_idle b _ hidle, hraw, hsnap]
  exact congrArg (fun l => ({ h.events with raised := l, intake := rest, buffer := h.events.buffer ++ [e] } : Events)) hi.raised.symm

/-! ## Rate windows -/

/-- What a logged record leaves: the rate window, sequences and facets. -/
def Hw.window (h : Hw) : List Ev × List RateEntry × Nat × Nat × List (RateEntry × Nat) × Map Seq × Map Facet :=
  (h.events.raised, h.events.rates, h.events.rateMs, h.events.rateNs, h.events.closed, h.seqs, h.facets)

theorem Hw.window_ite {c : Prop} [Decidable c] {a b h : Hw} (ha : a.window = h.window) (hb : b.window = h.window) :
    (if c then a else b).window = h.window := by
  split
  · exact ha
  · exact hb

theorem Hw.events_pulse (h : Hw) (v : Nat) : (h.pulse v).events = h.events := by
  unfold Hw.pulse
  split <;> rfl

theorem Hw.window_pulse (h : Hw) (v : Nat) : (h.pulse v).window = h.window := by
  unfold Hw.pulse
  split <;> rfl

theorem Hw.events_traceRec (h : Hw) (ty u : Nat) (f : Option Nat) (p : List Byte) : (h.traceRec ty u f p).events = h.events := by
  unfold Hw.traceRec
  split <;> rfl

theorem Hw.window_traceRec (h : Hw) (ty u : Nat) (f : Option Nat) (p : List Byte) : (h.traceRec ty u f p).window = h.window := by
  unfold Hw.traceRec
  split <;> rfl

theorem Hw.window_logRecord (h : Hw) (e : Ev) (c : Nat) (y : Bool) (n : Nat) : (h.logRecord e c y n).window = h.window := by
  unfold Hw.logRecord
  dsimp only
  refine Hw.window_ite rfl ?_
  rw [Hw.window_traceRec]
  have hnotice : (if e.sev ≥ 3 then { h.takeSeq 1 with events := { (h.takeSeq 1).events with
      notice := setBit (h.takeSeq 1).events.notice e.fam } } else h.takeSeq 1).window = h.window := Hw.window_ite rfl rfl
  have hpulse : ∀ a : Hw, a.window = h.window → (if e.sev ≥ h.get 0xC003 1 then a.pulse (h.raw 0xC002 1) else a).window = h.window :=
    fun a ha => Hw.window_ite ((a.window_pulse _).trans ha) ha
  exact Hw.window_ite (hpulse _ hnotice) (hpulse _ hnotice)

/-- With room in the intake a record is its last one. -/
theorem Hw.intake_logRecord (h : Hw) (e : Ev) (c : Nat) (y : Bool) (n : Nat) (hs : h.events.stopBelowS4 = false)
    (hl : h.events.intake.length < 64) :
    (h.logRecord e c y n).events.intake = h.events.intake ++ [h.eventRec e (h.raw 0xC004 1) c y n] := by
  have hkeep : ∀ a : Hw, a.events.intake = h.events.intake →
      (if e.sev ≥ h.get 0xC003 1 then a.pulse (h.raw 0xC002 1) else a).events.intake = h.events.intake := fun a ha => by
    split
    · rw [Hw.events_pulse]; exact ha
    · exact ha
  unfold Hw.logRecord
  dsimp only
  rw [if_neg (by simp [hs]), Hw.events_traceRec, if_pos hl]
  refine congrArg (· ++ _) (hkeep _ ?_)
  split <;> rfl

/-- The records that the rate windows which have ended leave. -/
def Hw.sumUp (h : Hw) (r : RateEntry × Nat) : Hw :=
  h.logRecord { r.1.first with facet := none, part := none, detail := [] } (r.1.suppressed % 2 ^ 32) true r.2

theorem Hw.rateBoundary_eq (h : Hw) : h.rateBoundary =
    (sortBy (fun (a b : RateEntry × Nat) => decide (a.1.first.unit < b.1.first.unit)) h.rollRates.events.closed).foldl Hw.sumUp
      { h.rollRates with events := { h.rollRates.events with closed := [] } } := rfl

/-- The end of a window, with what waits to be summed up. -/
def Hw.rolled (h : Hw) (l : List (RateEntry × Nat)) : Hw :=
  { h with events := { h.events with rates := [], rateMs := h.get 0xC010 1, rateNs := h.now, closed := l } }

/-- What the window that ends sums up, with the stamp of its end. -/
def Hw.windowSums (h : Hw) : List (RateEntry × Nat) :=
  (h.events.rates.filter fun r => r.suppressed ≠ 0).map fun r =>
    (r, (h.events.rateNs / (h.events.rateMs * 1000000) + 1) * (h.events.rateMs * 1000000))

theorem Hw.rateBoundary_due (h : Hw)
    (hd : h.events.rateNs / (h.events.rateMs * 1000000) < h.now / (h.events.rateMs * 1000000)) : h.rateBoundary =
      (sortBy (fun (a b : RateEntry × Nat) => decide (a.1.first.unit < b.1.first.unit)) (h.events.closed ++ h.windowSums)).foldl Hw.sumUp
        (h.rolled []) := by
  have hroll : h.rollRates = h.rolled (h.events.closed ++ h.windowSums) := by
    unfold Hw.rollRates
    exact if_pos hd
  rw [h.rateBoundary_eq, hroll]
  rfl

theorem Hw.rateBoundary_early (h : Hw) (hd : h.now / (h.events.rateMs * 1000000) ≤ h.events.rateNs / (h.events.rateMs * 1000000))
    (hc : h.events.closed = []) : h.rateBoundary = { h with events := { h.events with closed := [] } } := by
  have hroll : h.rollRates = h := by
    unfold Hw.rollRates
    exact if_neg (by omega)
  rw [h.rateBoundary_eq, hroll, hc]
  rfl

theorem Hw.rateBoundary_spec (h : Hw)
    (hd : h.events.rateNs / (h.events.rateMs * 1000000) < h.now / (h.events.rateMs * 1000000)) :
    h.rateBoundary.events.raised = h.events.raised ∧ h.rateBoundary.events.rates = [] ∧ h.rateBoundary.events.rateMs = h.get 0xC010 1 ∧
    h.rateBoundary.events.rateNs = h.now ∧ h.rateBoundary.events.closed = [] ∧ h.rateBoundary.seqs = h.seqs ∧
    h.rateBoundary.facets = h.facets := by
  have hwin : h.rateBoundary.window = (h.rolled []).window := by
    rw [h.rateBoundary_due hd]
    exact foldl_keeps Hw.window Hw.sumUp (fun a r => a.window_logRecord ..) _ _
  simp only [Hw.window, Prod.mk.injEq] at hwin
  exact hwin

/-- Of a window with one code, the summary is the last record of the intake. -/
theorem Hw.intake_rateBoundary (h : Hw) (r : RateEntry)
    (hd : h.events.rateNs / (h.events.rateMs * 1000000) < h.now / (h.events.rateMs * 1000000)) (hr : h.events.rates = [r])
    (hn : r.suppressed ≠ 0) (hc : h.events.closed = []) (hs : h.events.stopBelowS4 = false) (hl : h.events.intake.length < 64) :
    ∃ e, h.rateBoundary.events.intake = h.events.intake ++ [e] ∧ e.summary = true ∧ e.code = r.first.code ∧ e.count = r.suppressed % 2 ^ 32 ∧
      e.stamp = (h.events.rateNs / (h.events.rateMs * 1000000) + 1) * (h.events.rateMs * 1000000) := by
  have hsums : h.windowSums = [(r, (h.events.rateNs / (h.events.rateMs * 1000000) + 1) * (h.events.rateMs * 1000000))] := by
    unfold Hw.windowSums
    rw [hr, List.filter_cons_of_pos (by simpa using hn)]
    rfl
  rw [h.rateBoundary_due hd, hc, hsums]
  exact ⟨_, (h.rolled []).intake_logRecord _ _ _ _ hs hl, rfl, rfl, rfl, rfl⟩

/-- With no event raised, the end of a command changes the snapshots of the intake's records at most. -/
theorem Hw.settle_events_unraised (b h : Hw) (hr : h.events.raised = []) : ∃ g : EventRec → EventRec,
    (∀ e, (g e).summary = e.summary ∧ (g e).code = e.code ∧ (g e).count = e.count ∧ (g e).stamp = e.stamp) ∧
    (Hw.settle b h).events = { h.events with intake := h.events.intake.map g } := by
  have hsnap : ∃ g : EventRec → EventRec, (∀ e, (g e).summary = e.summary ∧ (g e).code = e.code ∧ (g e).count = e.count ∧ (g e).stamp = e.stamp) ∧
      (b.attachSnap h (h.raw 0xC004 1)).events = { h.events with intake := h.events.intake.map g } := by
    unfold Hw.attachSnap
    split
    · exact ⟨id, fun e => ⟨rfl, rfl, rfl, rfl⟩, by rw [List.map_id]⟩
    · split
      · refine ⟨_, fun e => ?_, rfl⟩
        split <;> exact ⟨rfl, rfl, rfl, rfl⟩
      · exact ⟨id, fun e => ⟨rfl, rfl, rfl, rfl⟩, by rw [List.map_id]⟩
  obtain ⟨g, hg, he⟩ := hsnap
  have hraised : (b.attachSnap h (h.raw 0xC004 1)).events.raised = [] := by rw [he]; exact hr
  refine ⟨g, hg, ?_⟩
  unfold Hw.settle
  rw [hr]
  dsimp only [sortBy, List.foldl_nil]
  generalize b.attachSnap h (h.raw 0xC004 1) = x at he hraised
  rw [foldl_fixed _ x fun n => by rw [Hw.eventTrigger_of_idle x hraised]; rfl]
  refine (congrArg (fun v : Events => { v with raised := [] }) ((foldl_keeps Hw.events _ Hw.events_triggerRecord _ _).trans
    (foldl_keeps Hw.events _ (fun a r => a.events_traceTake ..) _ _))).trans ?_
  rw [he, ← hr]

/-- The rate window is none of it. -/
theorem Hw.settle_window_unraised (b h : Hw) (hr : h.events.raised = []) : ∃ g : EventRec → EventRec,
    (∀ e, (g e).summary = e.summary ∧ (g e).code = e.code ∧ (g e).count = e.count ∧ (g e).stamp = e.stamp) ∧
    (Hw.settle b h).events.intake = h.events.intake.map g ∧ (Hw.settle b h).events.rates = h.events.rates ∧
    (Hw.settle b h).events.rateMs = h.events.rateMs ∧ (Hw.settle b h).events.rateNs = h.events.rateNs ∧
    (Hw.settle b h).events.closed = h.events.closed := by
  obtain ⟨g, hg, hev⟩ := Hw.settle_events_unraised b h hr
  exact ⟨g, hg, by rw [hev], by rw [hev], by rw [hev], by rw [hev], by rw [hev]⟩

/-- Settles O49: pending enables, slots, shut-downs, the intake and rate windows. -/
theorem backgroundAndEvents : Obligations.BackgroundAndEvents := by
  refine ⟨Hw.task_bgPending, fun s hr => ?_⟩
  obtain ⟨hraised, hmade, hfired, -⟩ := hr.quiet
  refine ⟨fun k hk => ?_, fun k hk hs he hd => ⟨fun hg => ?_, fun hg => ?_⟩, fun k hk hg hd => ?_, fun k hk hg hw => ?_,
    fun he hw => ⟨fun i l ht hf => ?_, fun n r rest ht hp hn hl => ?_⟩, fun k hk hw => ?_, fun k hk => ?_, fun hi => ?_,
    fun e rest hi hc hrest hs hd hv hb hl ho hf => ?_, fun hd => ?_, fun hd hc => ?_⟩
  · exact hr.leaves _ _ _ (.of_eq (Hw.bgSlot_of_off _ _ _ hk) ⟨rfl, rfl⟩)
  · have hd' : ((s.hw.begun .alone (bgUnit k)).task k).done < (s.hw.begun .alone (bgUnit k)).bgAhead k := hd
    have heq := ((s.hw.begun .alone (bgUnit k)).bgSlot_guaranteed (bgUnit k) k hs he hg).trans (Hw.bgWork_pass _ _ hk)
    rw [Hw.bgAhead_inc _ _ hk] at heq
    exact hr.leaves _ _ _ (.of_eq (heq.trans (if_pos hd')) ⟨rfl, rfl⟩)
  · have heq := ((s.hw.begun .alone (bgUnit k)).bgSlot_free (bgUnit k) k hs he hg (.inl hk)).trans (Hw.bgWork_pass _ _ hk)
    exact hr.leaves _ _ _ (.of_eq (heq.trans (if_pos hd)) ⟨rfl, rfl⟩)
  · rcases Hw.bgSlot_tooFar (s.hw.begun .alone (bgUnit k)) (bgUnit k) k hk hg hd with e | e
    · exact hr.idle _ _ _ e
    · exact hr.leaves _ _ _ (.of_eq e ⟨rfl, rfl⟩)
  · exact hr.leaves _ _ _ (.of_eq (Hw.bgSlot_yields _ _ _ hk hg hw) ⟨rfl, rfl⟩)
  · obtain ⟨hposted, hseqs⟩ := Hw.bgSlot_trace (s.hw.begun .alone (bgUnit 3)) (bgUnit 3) i l ht he hw hf
    refine hr.next _ _ _ ⟨?_, (Hw.settle_seqs ..).trans hseqs⟩
    obtain ⟨x, hx, hp⟩ := hposted
    exact ⟨x, by rw [Hw.settle_mem]; exact hx, hp⟩
  · obtain ⟨hflush, hposted, hway, hseqs⟩ := Hw.bgSlot_account (s.hw.begun .alone (bgUnit 4)) (bgUnit 4) n r rest ht he hw hp hn hl
    refine hr.next _ _ _ ⟨?_, ?_, ?_, (Hw.settle_seqs ..).trans hseqs⟩
    · exact (congrArg Account.flushing (Hw.settle_acct ..)).trans hflush
    · exact (congrArg Account.posted (Hw.settle_acct ..)).trans hposted
    · obtain ⟨x, hx, hp⟩ := hway
      exact ⟨x, by rw [Hw.settle_mem]; exact hx, hp⟩
  · exact hr.leaves _ _ _ (.of_eq (Hw.bgStopped_free _ _ hk hw) ⟨rfl, rfl⟩)
  · exact hr.idle _ _ _ (Hw.bgStopped_held _ _ hk)
  · exact hr.leaves _ _ _ (.of_eq (Hw.acceptNext_idle _ hi) ⟨rfl, rfl⟩)
  · have hdue := (s.hw.begun .alone 0x0D).acceptNext_due (by rw [show (s.hw.begun .alone 0x0D).events = s.hw.events from rfl, hi]; nofun) hc
    have heq := hdue.trans (Hw.acceptEvent_plain _ e rest hi hs hd hv hb hl ho hf)
    have hev := Hw.settle_accepted (s.hw.started .alone) { s.hw.begun .alone 0x0D with events := { s.hw.events with takenCc := some s.hw.cc } }
      e rest ⟨hraised, hmade, hfired⟩ hrest
    refine hr.nextEq _ _ _ heq ⟨?_, ?_, ?_, Hw.settle_facets .., Hw.settle_seqs ..⟩
    · exact congrArg Events.intake hev
    · exact congrArg Events.buffer hev
    · exact congrArg Events.takenCc hev
  · obtain ⟨hun, hrates, hms, hns, hclosed, hseqs, hfacets⟩ := (s.hw.begun .alone 0x0D).rateBoundary_spec hd
    obtain ⟨g, hg, sintake, srates, sms, sns, sclosed⟩ := Hw.settle_window_unraised (s.hw.started .alone) (s.hw.begun .alone 0x0D).rateBoundary (hun.trans hraised)
    refine hr.nextEq _ _ _ rfl ⟨?_, ?_, ?_, ?_, (Hw.settle_seqs ..).trans hseqs, (Hw.settle_facets ..).trans hfacets, fun r hone hn hc hs hl => ?_⟩
    · exact srates.trans hrates
    · exact sms.trans hms
    · exact sns.trans hns
    · exact sclosed.trans hclosed
    · obtain ⟨e, hin, hsum, hcode, hcount, hstamp⟩ := (s.hw.begun .alone 0x0D).intake_rateBoundary r hd hone hn hc hs hl
      obtain ⟨gsum, gcode, gcount, gstamp⟩ := hg e
      refine ⟨g e, ?_, gsum.trans hsum, gcode.trans hcode, gcount.trans hcount, gstamp.trans hstamp⟩
      refine (congrArg List.getLast? sintake).trans ?_
      simp [hin]
  · refine hr.leaves _ _ _ (.of_eq (Hw.rateBoundary_early _ hd hc) ⟨rfl, rfl⟩)

end Sys2Proof.Machine

/-! PROOFS. R14, R181, R242, R294, R369, R380: what a policy pair's mailbox asks for, divergence, and the firmware load. -/

namespace Sys2Proof.Machine

open Sys2Proof

/-! ## The mailbox of a pair -/

theorem Hw.fromPair_of_runs (h : Hw) (p : Nat) (g : Hw → Hw) (hp : h.pairRuns p = true) : h.fromPair p g = g h := by
  unfold Hw.fromPair
  exact if_pos hp

theorem Hw.fromPair_of_not (h : Hw) (p : Nat) (g : Hw → Hw) (hp : h.pairRuns p = false) : h.fromPair p g = h := by
  unfold Hw.fromPair
  exact if_neg (by simp [hp])

/-- A firmware block is counted and answered. -/
theorem Hw.firmwareBlock_spec (h : Hw) (st : Word64) (c : BitVec 60) (a : Bool) :
    (h.firmwareBlock st c a).get 0x7104 1 = (h.get 0x7104 1 + 1) % 2 ^ 64 ∧ (h.firmwareBlock st c a).out.length = h.out.length + 1 :=
  ⟨h.get_inc 0x7104 1, List.length_append⟩

theorem Hw.takeProposal_within (h : Hw) (f n k : Nat) (ho : h.overLimit f n k = false) :
    h.takeProposal f n k = h.modFacet f fun x => { x with proposal := (n, k) } := by
  unfold Hw.takeProposal
  exact if_neg (by simp [ho])

/-- A proposal above the limits is an event and no more. -/
theorem Hw.takeProposal_over (h : Hw) (f n k : Nat) (ho : h.overLimit f n k = true) :
    (h.takeProposal f n k).facets = h.facets ∧ (h.takeProposal f n k).occurred 0xD = (h.occurred 0xD + 1) % 2 ^ 64 := by
  unfold Hw.takeProposal
  rw [if_pos ho]
  exact ⟨rfl, h.get_inc _ _⟩

/-- Takes a shape for a live sequence. -/
def Hw.takeShape (h : Hw) (handle slot : Nat) (valid : Bool) : Hw :=
  match h.liveSlot handle with
  | some n => h.modCur n fun v => { v with spec := { v.spec with shape := slot, shapeValid := valid } }
  | none => h

theorem exec_shapeProposal (p : Fin 8) (handle : Word64) (slot : Fin 16) (valid : Bool) (s : State) :
    exec (.shapeProposal p handle slot valid) s = .next (s.onCore (0x20 + p.val) fun h => h.fromPair p.val fun a =>
      a.takeShape handle.toNat slot.val valid) := rfl

theorem Hw.takeShape_of_none (h : Hw) (handle slot : Nat) (valid : Bool) (hl : h.liveSlot handle = none) : h.takeShape handle slot valid = h := by
  unfold Hw.takeShape
  rw [hl]

theorem Hw.modCur_some (h : Hw) (n : Nat) (q : Seq) (g : Vertex → Vertex) (hq : h.seq? n = some q) :
    h.modCur n g = h.setSeq n { q with cur := g q.cur } := by
  unfold Hw.modCur Hw.modSeq
  rw [hq]

theorem Hw.seq?_setSeq_ne (h : Hw) (n k : Nat) (q : Seq) (hne : k ≠ n) : (h.setSeq n q).seq? k = h.seq? k :=
  Map.find?_insert_ne _ _ _ _ hne

theorem Hw.takeShape_of_some (h : Hw) (handle slot : Nat) (valid : Bool) (n : Nat) (q : Seq) (hl : h.liveSlot handle = some n)
    (hq : h.seq? n = some q) : h.takeShape handle slot valid =
      h.setSeq n { q with cur := { q.cur with spec := { q.cur.spec with shape := slot, shapeValid := valid } } } := by
  unfold Hw.takeShape
  rw [hl]
  exact h.modCur_some n q _ hq

/-! ## Divergence -/

theorem Hw.diverge_of_not (h : Hw) (p : Nat) (hp : h.pairRuns p = false) : h.diverge p = h := by
  unfold Hw.diverge
  exact if_neg (by simp [hp])

/-- The resyncs of a pair within the last hour, this one among them. -/
def Hw.resyncs (h : Hw) (p : Nat) : List Nat := ((h.pair p).stamps.filter fun t => decide (h.now < t + hourNs)) ++ [h.now]

/-- The island with a divergence counted and the pair as it is. -/
def Hw.diverged (h : Hw) (p : Nat) (x : Pair) : Hw := { h.inc 0xA020 4 with pairs := Map.insert h.pairs p x }

theorem Hw.diverge_eq (h : Hw) (p : Nat) (hp : h.pairRuns p = true) {third : Bool} (ht : decide (3 ≤ (h.resyncs p).length) = third) :
    h.diverge p = if third then (h.diverged p { resyncing := !third, stamps := h.resyncs p }).maskUnit (.pair p)
      else h.diverged p { resyncing := !third, stamps := h.resyncs p } := by
  unfold Hw.diverge
  rw [← ht]
  exact if_pos hp

theorem Hw.resyncs_length (h : Hw) (p : Nat) :
    (h.resyncs p).length = ((h.pair p).stamps.filter fun t => decide (h.now < t + hourNs)).length + 1 := List.length_append

theorem Hw.diverge_held (h : Hw) (p : Nat) (hp : h.pairRuns p = true)
    (hn : ((h.pair p).stamps.filter fun t => decide (h.now < t + hourNs)).length < 2) :
    h.diverge p = h.diverged p { resyncing := true, stamps := h.resyncs p } :=
  h.diverge_eq p hp (third := false) (decide_eq_false (by rw [h.resyncs_length p]; omega))

theorem Hw.diverge_masked (h : Hw) (p : Nat) (hp : h.pairRuns p = true)
    (hn : 2 ≤ ((h.pair p).stamps.filter fun t => decide (h.now < t + hourNs)).length) :
    h.diverge p = (h.diverged p { resyncing := false, stamps := h.resyncs p }).maskUnit (.pair p) :=
  h.diverge_eq p hp (third := true) (decide_eq_true (by rw [h.resyncs_length p]; omega))

theorem Hw.diverged_spec (h : Hw) (p : Nat) (x : Pair) : (h.diverged p x).pair p = x ∧ (h.diverged p x).raw 0xA012 1 = h.raw 0xA012 1 ∧
    (h.diverged p x).get 0xA020 4 = (h.get 0xA020 4 + 1) % 2 ^ 64 :=
  ⟨Map.getD_insert_self .., Hw.raw_set_ne h _ _ _ _ _ (by decide), h.get_inc ..⟩

theorem testBit_setBit (n i : Nat) : (setBit n i).testBit i = true := by
  unfold setBit
  rw [Nat.testBit_or, Nat.testBit_two_pow_self, Bool.or_true]

theorem Hw.maskUnit_pair (h : Hw) (p : Nat) : ((h.maskUnit (.pair p)).raw 0xA012 1).testBit p = true ∧
    (h.maskUnit (.pair p)).facets = h.facets := by
  refine ⟨?_, rfl⟩
  have hraw : (h.maskUnit (.pair p)).raw 0xA012 1 = setBit (h.raw 0xA012 1) p := h.raw_set ..
  rw [hraw]
  exact testBit_setBit _ _

/-! ## The firmware load -/

theorem Hw.fwLoaded_idle (h : Hw) (b : Bool) (hr : h.raw 0xA064 1 ≠ 1) : h.fwLoaded b = h := by
  unfold Hw.fwLoaded
  exact if_pos hr

theorem Hw.fwLoaded_ok (h : Hw) (hr : h.raw 0xA064 1 = 1) : h.fwLoaded true = h.startPairs := by
  unfold Hw.fwLoaded
  rw [if_neg (by simp [hr]), if_pos rfl]

theorem Hw.fwLoaded_rejected (h : Hw) (hr : h.raw 0xA064 1 = 1) : h.fwLoaded false = h.set 0xA064 1 3 := by
  unfold Hw.fwLoaded
  rw [if_neg (by simp [hr]), if_neg Bool.false_ne_true]

/-- The pairs start: none of them resyncs, and HLX has its seed. -/
theorem Hw.startPairs_spec (h : Hw) : h.startPairs.raw 0xA064 1 = 2 ∧ h.startPairs.engineSeedUsed = h.raw 0x7103 1 ∧
    ∀ e ∈ h.startPairs.pairs, e.2.resyncing = false := by
  refine ⟨h.raw_set .., rfl, fun e he => ?_⟩
  obtain ⟨x, -, hx⟩ := List.mem_map.mp he
  rw [← hx]

/-- Settles O47: firmware blocks, proposals, divergence and the end of the firmware load. -/
theorem policyCores : Obligations.PolicyCores := by
  intro s p hr
  have hkey : ∀ {i}, i < 0xB000 → obsKey (odKey i 1 0) = false := fun hi => obsKey_low _ _ _ hi (by decide)
  refine ⟨fun st c a hp => ?_, fun f n k hp => ⟨fun ho => ?_, fun ho => ?_⟩, fun handle slot valid hp => ⟨fun n q hl hq => ?_, fun hl => ?_⟩,
    fun hp st c a f n k handle slot valid i hi => ?_, fun hp hn => ?_, fun hp hn => ?_, ?_, fun hf => ?_, fun hf => ?_, fun b hf => ?_⟩
  · have heq := (s.hw.begun .alone 6).fromPair_of_runs p (fun x => x.firmwareBlock st c a) hp
    obtain ⟨hget, hout⟩ := (s.hw.begun .alone 6).firmwareBlock_spec st c a
    refine hr.nextEq _ _ _ heq ⟨s.leaves_settle _ ⟨rfl, rfl⟩, ?_, ?_⟩
    · exact (Hw.settle_get _ _ _ _ (hkey (by decide))).trans hget
    · exact (congrArg List.length (Hw.settle_out ..)).trans hout
  · exact hr.leaves _ _ _ (.of_eq (((s.hw.begun _ _).fromPair_of_runs p _ hp).trans (Hw.takeProposal_within _ _ _ _ ho)) ⟨rfl, rfl⟩)
  · obtain ⟨hfac, hocc⟩ := (s.hw.begun .alone (0x20 + p.val)).takeProposal_over f (n % 2 ^ 32) (k % 2 ^ 32) ho
    exact hr.nextEq _ _ _ ((s.hw.begun .alone (0x20 + p.val)).fromPair_of_runs p _ hp)
      ⟨(Hw.settle_facets ..).trans hfac, (Hw.occurred_settle ..).trans hocc⟩
  · rw [exec_shapeProposal]
    have heq := ((s.hw.begun .alone (0x20 + p.val)).fromPair_of_runs p (fun a => a.takeShape handle.toNat slot valid) hp).trans
      ((s.hw.begun .alone (0x20 + p.val)).takeShape_of_some handle.toNat slot valid n q hl hq)
    refine hr.nextEq _ _ _ heq ⟨?_, fun k hk => ?_⟩
    · exact (congrArg (Map.find? · n) (Hw.settle_seqs ..)).trans (Hw.seq?_setSeq ..)
    · exact (congrArg (Map.find? · k) (Hw.settle_seqs ..)).trans (Hw.seq?_setSeq_ne _ _ _ _ hk)
  · rw [exec_shapeProposal]
    exact hr.idle _ _ _ (((s.hw.begun _ _).fromPair_of_runs p _ hp).trans (Hw.takeShape_of_none _ _ _ _ hl))
  · simp only [List.mem_cons, List.not_mem_nil, or_false] at hi
    rcases hi with rfl | rfl | rfl | rfl
    · exact hr.idle _ _ _ (Hw.fromPair_of_not _ _ _ hp)
    · exact hr.idle _ _ _ (Hw.fromPair_of_not _ _ _ hp)
    · exact hr.idle _ _ _ (Hw.fromPair_of_not _ _ _ hp)
    · exact hr.idle _ _ _ (Hw.diverge_of_not _ _ hp)
  · obtain ⟨hpair, hraw, hget⟩ := (s.hw.begun .alone (0x20 + p.val)).diverged_spec p
      { resyncing := true, stamps := (s.hw.begun .alone (0x20 + p.val)).resyncs p }
    refine hr.nextEq _ _ _ ((s.hw.begun .alone (0x20 + p.val)).diverge_held p hp hn) ⟨?_, ?_, ?_⟩
    · exact (congrArg (fun l => (Map.getD l p.val Pair.reset).resyncing) (Hw.settle_pairs ..)).trans (congrArg Pair.resyncing hpair)
    · exact (Hw.settle_raw _ _ _ _ (hkey (by decide))).trans hraw
    · exact (Hw.settle_get _ _ _ _ (obsKey_low _ _ _ (by decide) (by decide))).trans hget
  · have heq := (s.hw.begun .alone (0x20 + p.val)).diverge_masked p hp hn
    obtain ⟨hbit, hfac⟩ := ((s.hw.begun .alone (0x20 + p.val)).diverged p
      { resyncing := false, stamps := (s.hw.begun .alone (0x20 + p.val)).resyncs p }).maskUnit_pair p
    refine hr.nextEq _ _ _ heq ⟨?_, (Hw.settle_facets ..).trans hfac⟩
    exact (congrArg (Nat.testBit · p.val) (Hw.settle_raw _ _ _ _ (hkey (by decide)))).trans hbit
  · refine hr.nextEq _ _ _ rfl ⟨?_, fun k hk => ?_⟩
    · exact (congrArg (Map.getD · p.val Pair.reset) (Hw.settle_pairs ..)).trans (Map.getD_insert_self ..)
    · exact (congrArg (Map.getD · k Pair.reset) (Hw.settle_pairs ..)).trans (Map.getD_insert_ne _ _ _ _ _ hk)
  · obtain ⟨hraw, hseed, hpairs⟩ := (s.hw.begun .alone 0).startPairs_spec
    refine hr.nextEq _ _ _ ((s.hw.begun .alone 0).fwLoaded_ok hf) ⟨?_, (Hw.settle_engineSeedUsed ..).trans hseed, fun e he => hpairs e ?_⟩
    · exact (Hw.settle_raw _ _ _ _ (hkey (by decide))).trans hraw
    · rwa [Hw.settle_pairs] at he
  · exact hr.leaves _ _ _ (.of_eq ((s.hw.begun _ _).fwLoaded_rejected hf) ⟨rfl, rfl⟩)
  · exact hr.idle _ _ _ ((s.hw.begun _ _).fwLoaded_idle b hf)

end Sys2Proof.Machine

/-! PROOFS. R355, R357 to R359: federation polls, votes, decisions and vote timeouts. -/

namespace Sys2Proof.Machine

open Sys2Proof

/-! ## Sending a frame -/

theorem Hw.SameButMem.withFed {a b : Hw} (h : Hw.SameButMem a b) (x : Fed) : Hw.SameButMem { a with fed := x } { b with fed := x } :=
  ⟨congrArg (fun y : Hw => { y with fed := x }) h.body, h.od⟩

/-- A frame that is written moves the produced count; no other part of the island is MOV's. -/
theorem Hw.fedWrite_spec (h : Hw) (frame : List Byte) :
    Hw.SameButMem (h.fedWrite frame) { h with fed := { h.fed with produced := h.fed.produced + frameUnits frame } } := by
  have hput := fun (a : Hw) addr l => a.sameButMem_writeBytes addr l .fed none .fedFrame
  unfold Hw.fedWrite
  dsimp only
  have hboth := (hput (h.writeBytes (h.raw 0x8303 1 + 4096 + h.fed.produced % h.get 0x8304 1 * 64)
    ((slice frame 0 (64 * frameUnits frame)).take (64 * (h.get 0x8304 1 - h.fed.produced % h.get 0x8304 1))) .fed none .fedFrame)
    (h.raw 0x8303 1 + 4096) ((slice frame 0 (64 * frameUnits frame)).drop (64 * (h.get 0x8304 1 - h.fed.produced % h.get 0x8304 1)))).trans
    (hput h _ _)
  rw [hboth.fed]
  exact hboth.withFed _

/-- The header of a frame. -/
def Hw.fedFrame (h : Hw) (dest cls : Nat) (payload : List Byte) : List Byte :=
  leBytes 4 payload.length ++ [BitVec.ofNat 8 cls, 0, 0, 0] ++ leBytes 2 (h.raw 0x8300 1) ++ leBytes 2 dest ++ [0, 0, 0, 0] ++ payload

theorem Hw.fedFrame_units (h : Hw) (dest cls : Nat) (payload : List Byte) : 0 < frameUnits (h.fedFrame dest cls payload) := by
  unfold frameUnits Hw.fedFrame ceilDiv
  simp only [List.length_append, List.length_cons]
  omega

/-- Sending a frame changes what the federation's rings hold. -/
theorem Hw.fedSend_spec (h : Hw) (dest cls : Nat) (payload : List Byte) :
    ∃ x, x ≠ h.fed ∧ Hw.SameButMem (h.fedSend dest cls payload) { h with fed := x } := by
  have hdef : h.fedSend dest cls payload = if h.fed.waitingOut = [] ∧ h.fedRoom (h.fedFrame dest cls payload) = true
      then h.fedWrite (h.fedFrame dest cls payload)
      else { h with fed := { h.fed with waitingOut := h.fed.waitingOut ++ [h.fedFrame dest cls payload] } } := rfl
  rw [hdef]
  split
  · have hu := h.fedFrame_units dest cls payload
    refine ⟨_, fun e => ?_, h.fedWrite_spec _⟩
    have := congrArg Fed.produced e
    dsimp only at this
    omega
  · refine ⟨_, fun e => ?_, .refl _⟩
    have := congrArg (fun x : Fed => x.waitingOut.length) e
    simp only [List.length_append, List.length_singleton] at this
    omega

theorem Hw.fedSend_keeps (h : Hw) (dest cls : Nat) (payload : List Byte) :
    (h.fedSend dest cls payload).learners = h.learners ∧ (h.fedSend dest cls payload).jobs = h.jobs := by
  obtain ⟨x, -, hs⟩ := h.fedSend_spec dest cls payload
  exact ⟨hs.learners, hs.jobs⟩

theorem Hw.fedForward_keeps (h : Hw) (m v a p d : Nat) :
    (h.fedForward m v a p d).learners = h.learners ∧ (h.fedForward m v a p d).jobs = h.jobs :=
  ⟨foldl_keeps Hw.learners _ (fun b _ => (b.fedSend_keeps ..).1) _ h, foldl_keeps Hw.jobs _ (fun b _ => (b.fedSend_keeps ..).2) _ h⟩

/-! ## Frames that have been read -/

theorem Hw.badFrame_spec (h : Hw) : h.badFrame.fed = h.fed ∧ h.badFrame.get 0x830B 1 = (h.get 0x830B 1 + 1) % 2 ^ 64 :=
  ⟨rfl, h.get_counted 0x830B 1 9 _ _ _ _ (by decide)⟩

/-- Once all is read the batch is over. -/
theorem Hw.fedReadOn_done (h : Hw) (before : Nat) (hd : h.fed.inProduced ≤ h.fed.consumed + h.fed.inData.length / 64) :
    Hw.SameButMem (h.fedReadOn before) { h with fed := { h.fed with polling := false, inData := [] } } := by
  unfold Hw.fedReadOn
  dsimp only
  rw [if_neg (by omega)]
  split
  · exact .refl _
  · exact Hw.sameButMem_memPost ..

/-- The island once a frame has been taken from what was read. -/
def Hw.pastFrame (h : Hw) (units : Nat) (rest : List Byte) : Hw :=
  { h with fed := { h.fed with consumed := h.fed.consumed + units, inData := rest } }

/-- One whole frame, the last of its batch. -/
theorem Hw.takeFrames_one (h : Hw) (l : List Byte) (fuel : Nat) (hl : h.fed.inData = l) (h64 : 64 ≤ fieldAt l 0 4)
    (hmax : fieldAt l 0 4 ≤ 16777200) (hlen : l.length = 64 * ceilDiv (16 + fieldAt l 0 4) 64)
    (hp : h.fed.inProduced = h.fed.consumed + ceilDiv (16 + fieldAt l 0 4) 64) :
    Hw.takeFrames (fuel + 1) h = if h.frameOk l then h.pastFrame (ceilDiv (16 + fieldAt l 0 4) 64) []
      else (h.pastFrame (ceilDiv (16 + fieldAt l 0 4) 64) []).badFrame := by
  have hu : 1 ≤ ceilDiv (16 + fieldAt l 0 4) 64 := by unfold ceilDiv; omega
  generalize hunits : ceilDiv (16 + fieldAt l 0 4) 64 = units at *
  have hrest : ∀ (x : Hw), x.fed.inData = [] → Hw.takeFrames fuel x = x := fun x hx => by
    cases fuel with
    | zero => rfl
    | succ n =>
      unfold Hw.takeFrames
      rw [hx]
      exact if_pos (by decide)
  have hdrop : l.drop (64 * units) = [] := List.drop_eq_nil_of_le (by omega)
  unfold Hw.takeFrames
  dsimp only
  rw [hl, hunits, if_neg (by omega), if_neg (by omega), if_neg (by omega), hdrop]
  refine (hrest _ ?_).trans rfl
  split <;> rfl

/-- A frame that is read whole is taken: the consumed count moves past it. -/
theorem Hw.fedUnitsIn_one (h : Hw) (data : List Byte) (hi : h.fed.inData = []) (h64 : 64 ≤ fieldAt data 0 4)
    (hmax : fieldAt data 0 4 ≤ 16777200) (hlen : data.length = 64 * ceilDiv (16 + fieldAt data 0 4) 64)
    (hp : h.fed.inProduced = h.fed.consumed + ceilDiv (16 + fieldAt data 0 4) 64) :
    (h.fedUnitsIn data).fed.consumed = h.fed.inProduced ∧ (h.fedUnitsIn data).fed.polling = false ∧
    (h.fedUnitsIn data).get 0x830B 1 = if h.frameOk data then h.get 0x830B 1 else (h.get 0x830B 1 + 1) % 2 ^ 64 := by
  have hu : 1 ≤ ceilDiv (16 + fieldAt data 0 4) 64 := by unfold ceilDiv; omega
  obtain ⟨n, hn⟩ : ∃ n, data.length / 64 = n + 1 := ⟨data.length / 64 - 1, by omega⟩
  have htake := Hw.takeFrames_one { h with fed := { h.fed with inData := data } } data n rfl h64 hmax hlen hp
  have hin : h.fedUnitsIn data = (Hw.takeFrames (n + 1) { h with fed := { h.fed with inData := data } }).fedReadOn h.fed.consumed := by
    unfold Hw.fedUnitsIn
    rw [hi, List.nil_append]
    dsimp only
    rw [hn]
  rw [hin, htake]
  have hok : Hw.frameOk { h with fed := { h.fed with inData := data } } data = h.frameOk data := rfl
  rw [hok, hp]
  generalize ceilDiv (16 + fieldAt data 0 4) 64 = units at *
  have hpast : ∀ x : Hw, x.fed = { h.fed with consumed := h.fed.consumed + units, inData := [] } →
      (x.fedReadOn h.fed.consumed).fed.consumed = h.fed.consumed + units ∧ (x.fedReadOn h.fed.consumed).fed.polling = false ∧
      (x.fedReadOn h.fed.consumed).get 0x830B 1 = x.get 0x830B 1 := fun x hx => by
    have hs := x.fedReadOn_done h.fed.consumed (by rw [hx]; simp only [List.length_nil]; omega)
    refine ⟨?_, by rw [hs.fed], hs.get _ _ (by decide) (by decide)⟩
    rw [hs.fed]
    exact congrArg Fed.consumed hx
  split
  · exact hpast _ rfl
  · obtain ⟨hfed, hget⟩ := (Hw.pastFrame { h with fed := { h.fed with inData := data } } units []).badFrame_spec
    obtain ⟨hc, hpoll, hg⟩ := hpast _ hfed
    exact ⟨hc, hpoll, hg.trans hget⟩

/-! ## Polls -/

theorem Hw.fedPoll_idle (h : Hw) (hp : h.fedOn = false ∨ h.now < h.fed.pollNs + 1000 * h.get 0x8307 1) : h.fedPoll = h := by
  unfold Hw.fedPoll
  exact if_pos (by simpa using hp)

/-- A poll reads the in ring's produced count. -/
theorem Hw.fedPoll_due (h : Hw) (ho : h.fedOn = true) (hp : h.fed.pollNs + 1000 * h.get 0x8307 1 ≤ h.now) (hi : h.fed.inOff = false)
    (hq : h.fed.polling = false) :
    Hw.SameButMem h.fedPoll { h with fed := { h.fed with pollNs := h.now, polling := true } } ∧
    h.fedPoll.underWay fun x => x.use = .fedPoll ∧ x.write = false ∧ x.addr = h.raw 0x8305 1 / 64 * 64 := by
  have hway : ∀ a : Hw, (a.memPost false (h.raw 0x8305 1) 1 [] .fed none .fedPoll).underWay fun x =>
      x.use = .fedPoll ∧ x.write = false ∧ x.addr = h.raw 0x8305 1 / 64 * 64 := fun a =>
    Hw.underWay_memSend _ _ (fun _ _ _ hp => hp) ⟨rfl, rfl, rfl⟩
  unfold Hw.fedPoll
  have hreads : ¬(h.fed.inOff = true ∨ h.fed.polling = true) := by simp [hi, hq]
  rw [if_neg (not_or.mpr ⟨by simp [ho], by omega⟩)]
  dsimp only
  simp only [if_neg hreads]
  split
  · exact ⟨Hw.sameButMem_memPost .., hway _⟩
  · exact ⟨(Hw.sameButMem_memPost ..).trans (Hw.sameButMem_memPost ..), Hw.underWay_memSend_of _ _ (fun _ _ _ hp => hp) (hway _)⟩

/-! ## Votes -/

theorem Hw.commitIn_takes {h : Hw} {kind : Nat} {l : List Byte} {m : Nat} (ht : h.takesCommit kind l m) (f : Hw → Nat → Hw) :
    h.commitIn kind l f = f h m := by
  obtain ⟨hon, hlen, hcrc, hkind, hv, hkey⟩ := ht
  unfold Hw.commitIn
  rw [if_neg (by simp [hon]), if_neg (by simp [hcrc, hkind]; omega), hkey]

theorem Hw.voteIn_stranger (h : Hw) (source m : Nat) (l : List Byte) (hc : h.fedChildren.contains source = false) :
    h.voteIn source m l = h.badFrame := by
  unfold Hw.voteIn
  exact if_pos (by simp only [hc]; rfl)

/-- A child's vote for no decided attempt. -/
theorem Hw.voteIn_other (h : Hw) (source m : Nat) (l : List Byte) (hc : h.fedChildren.contains source = true)
    (hd : ((h.learner m).decided.find? fun e => e.1 == fieldAt l 8 8) = none) (ha : fieldAt l 8 8 ≠ h.getAt 0x802A 1 m) :
    h.voteIn source m l = h.badFrame := by
  unfold Hw.voteIn
  dsimp only
  rw [if_neg (by simp only [hc]; decide), hd]
  exact if_pos ha

/-- A round without the engine's own verdict is not final. -/
theorem Hw.fedProgress_open (h : Hw) (m : Nat) (late : Bool) (r : Round) (hr : (h.learner m).round = some r) (ho : r.own = none) :
    h.fedProgress m late = h := by
  have ha : (h.aggregate r late).2 = false := by
    unfold Hw.aggregate
    simp [ho]
  unfold Hw.fedProgress
  rw [hr]
  dsimp only
  exact if_pos (by simp [ha])

/-- The first vote for the model's attempt opens its round. -/
theorem Hw.voteIn_first (h : Hw) (source m : Nat) (l : List Byte) (hc : h.fedChildren.contains source = true)
    (hd : ((h.learner m).decided.find? fun e => e.1 == fieldAt l 8 8) = none) (ha : fieldAt l 8 8 = h.getAt 0x802A 1 m)
    (hr : (h.learner m).round = none) :
    h.voteIn source m l = h.modLearner m fun x => { x with round := some { h.freshRound m with
      votes := [(source, voteCode (fieldAt l 1 1) (fieldAt l 16 4) (fieldAt l 20 4))] } } := by
  unfold Hw.voteIn
  dsimp only
  rw [if_neg (by simp only [hc]; decide), hd]
  dsimp only
  rw [if_neg (by simpa using ha), hr]
  exact Hw.fedProgress_open _ m false _ (congrArg Learner.round (h.learner_modLearner m _)) rfl

/-! ## Decisions -/

theorem Hw.decideIn_stranger (h : Hw) (source m : Nat) (l : List Byte) (hp : h.fedParent ≠ some source) : h.decideIn source m l = h.badFrame := by
  unfold Hw.decideIn
  exact if_pos (.inl hp)

theorem Hw.decideIn_open (h : Hw) (source m : Nat) (l : List Byte) (hp : h.fedParent = some source)
    (ha : fieldAt l 8 8 = h.getAt 0x802A 1 m) (hs : h.roundState m = 1 ∨ h.roundState m = 2) :
    h.decideIn source m l = (h.fedApply m (fieldAt l 1 1)).fedForward m (fieldAt l 1 1) (fieldAt l 8 8) (fieldAt l 16 4) (fieldAt l 20 4) := by
  unfold Hw.decideIn
  refine if_neg ?_
  rintro (hn | hn | ⟨h1, h2⟩)
  · exact hn hp
  · exact hn ha
  · exact hs.elim h1 h2

/-- What the flip walk and the next shadow leave of a learner: its round and its decisions. -/
def Hw.verdicts (h : Hw) (m : Nat) : Option Round × List (Nat × Nat) := ((h.learner m).round, (h.learner m).decided)

theorem Hw.verdicts_modLearner (h : Hw) (m : Nat) (g : Learner → Learner)
    (hg : ∀ x, (g x).round = x.round ∧ (g x).decided = x.decided) : (h.modLearner m g).verdicts m = h.verdicts m := by
  unfold Hw.verdicts
  rw [h.learner_modLearner m g, (hg _).1, (hg _).2]

theorem Hw.verdicts_flipWalk (h : Hw) (m : Nat) : (h.flipWalk m).verdicts m = h.verdicts m :=
  h.verdicts_modLearner m _ fun _ => ⟨rfl, rfl⟩

theorem Hw.verdicts_serveShadow (h : Hw) (m : Nat) : (h.serveShadow m).verdicts m = h.verdicts m := by
  have hjob : ∀ (a : Hw) f u g, (a.modJob f u g).verdicts m = a.verdicts m := fun _ _ _ _ => rfl
  unfold Hw.serveShadow
  dsimp only
  split
  · split
    · rw [hjob]
      refine (Hw.verdicts_modLearner (h.setSlot m (h.writeSlot m) 2) m _ ?_).trans rfl
      exact fun _ => ⟨rfl, rfl⟩
    · refine (Hw.verdicts_modLearner (h.setSlot m (h.writeSlot m) 5) m _ ?_).trans rfl
      exact fun _ => ⟨rfl, rfl⟩
    · rfl
  · rfl

theorem Hw.verdicts_closeRound (h : Hw) (m a v : Nat) :
    ∃ c, (h.closeRound m a v).verdicts m = (none, ((a, c) :: (h.learner m).decided).take 16) := by
  unfold Hw.closeRound Hw.verdicts
  rw [Hw.learner_modLearner]
  exact ⟨_, rfl⟩

theorem Hw.fedApply_of_gone (h : Hw) (m v : Nat) (r : Round) (hr : (h.learner m).round = some r) (hj : h.roundJob m = none) :
    ∃ a : Hw, h.fedApply m v = (if v = 0 then (a.closeRound m r.attempt v).flipWalk m else a.closeRound m r.attempt v).serveShadow m := by
  unfold Hw.fedApply
  rw [hr]
  dsimp only
  rw [hj]
  exact ⟨_, rfl⟩

/-- A verdict for a round that no job waits for closes it. -/
theorem Hw.fedApply_gone (h : Hw) (m v : Nat) (r : Round) (hr : (h.learner m).round = some r) (hj : h.roundJob m = none) :
    ∃ c l, (h.fedApply m v).verdicts m = (none, (r.attempt, c) :: l) := by
  obtain ⟨a, ha⟩ := h.fedApply_of_gone m v r hr hj
  obtain ⟨c, hc⟩ := a.verdicts_closeRound m r.attempt v
  refine ⟨c, (a.learner m).decided.take 15, ?_⟩
  rw [ha, Hw.verdicts_serveShadow]
  split
  · rw [Hw.verdicts_flipWalk, hc, List.take_succ_cons]
  · rw [hc, List.take_succ_cons]

theorem Hw.sameButMem_writeTelemetry (h st : Hw) (f : Nat) (u : Bool) (c : Nat) : Hw.SameButMem (h.writeTelemetry st f u c) h :=
  Hw.sameButMem_memPost ..

theorem Hw.sameButMem_writeHeader (h st : Hw) (f : Nat) (u : Bool) (k : Nat) (b : Bool) : Hw.SameButMem (h.writeHeader st f u k b) h :=
  (Hw.sameButMem_writeBytes ..).trans (Hw.sameButMem_memPost ..)

theorem Hw.postDecision_room (h : Hw) (f : Nat) (u : Bool) (d : Nat) (b : Bool) (hr : h.telemetryRoom (h.job f u).model = true) :
    ∃ j st k, h.postDecision f u d b = (((h.setJob f u j).writeTelemetry st f u d).writeHeader st f u k b).modJob f u fun x =>
      { x with decision := some d, telemetryOk := false, nextHeaderOk := false } := by
  unfold Hw.postDecision
  exact ⟨_, _, _, if_pos hr⟩

theorem Hw.postDecision_full (h : Hw) (f : Nat) (u : Bool) (d : Nat) (b : Bool) (hr : h.telemetryRoom (h.job f u).model = false) :
    h.postDecision f u d b = h.setJob f u { h.job f u with decision := some (d + 16), retains := b } := by
  unfold Hw.postDecision
  exact if_neg (by simp only [hr]; decide)

theorem Hw.learners_modJob (h : Hw) (f : Nat) (u : Bool) (g : Job → Job) : (h.modJob f u g).learners = h.learners := rfl

/-- A decision is kept with the job, and 16 added while the telemetry ring has no room; learners stay as they are. -/
theorem Hw.postDecision_spec (h : Hw) (f : Nat) (u : Bool) (d : Nat) (b : Bool) :
    (h.postDecision f u d b).learners = h.learners ∧
    ((h.postDecision f u d b).job f u).decision = some (d + if h.telemetryRoom (h.job f u).model then 0 else 16) := by
  cases hr : h.telemetryRoom (h.job f u).model with
  | true =>
    obtain ⟨j, st, k, e⟩ := h.postDecision_room f u d b hr
    rw [e, Hw.learners_modJob, (Hw.sameButMem_writeHeader ..).learners, (Hw.sameButMem_writeTelemetry ..).learners, Hw.job_modJob]
    exact ⟨rfl, rfl⟩
  | false =>
    rw [h.postDecision_full f u d b hr, Hw.job_setJob]
    exact ⟨rfl, rfl⟩

theorem Hw.fedApply_waits (h : Hw) (m v : Nat) (r : Round) (f : Nat) (u : Bool) (hr : (h.learner m).round = some r)
    (hj : h.roundJob m = some (f, u)) (hd : (h.job f u).decision = none) :
    h.fedApply m v = h.postDecision f u v (decide (v ≥ 2)) := by
  unfold Hw.fedApply
  rw [hr]
  dsimp only
  rw [hj]
  exact if_neg (by simp [hd])

/-! ## Vote timeouts -/

theorem Hw.voteTimeout_of_none (h : Hw) (m : Nat) (hr : (h.learner m).round = none) : h.voteTimeout m = h := by
  unfold Hw.voteTimeout
  rw [hr]

theorem Hw.voteTimeout_early (h : Hw) (m : Nat) (r : Round) (hr : (h.learner m).round = some r)
    (hn : h.now < r.sinceNs + 1000000 * h.get 0x8308 1) : h.voteTimeout m = h := by
  unfold Hw.voteTimeout
  rw [hr]
  exact if_pos (.inr (.inr hn))

section
variable (h : Hw) (m : Nat) (r : Round) (p : Nat) (hr : (h.learner m).round = some r) (hon : h.fedOn = true) (ho : r.own.isSome = true)
  (hp : h.fedParent = some p) (hn : r.sinceNs + 1000000 * h.get 0x8308 1 ≤ h.now)
include hr hon ho hp hn

/-- A missing vote is sent on as failed. -/
theorem Hw.voteTimeout_missing (hs : r.sent = false) : ∃ l, h.voteTimeout m =
    (h.modLearner m fun x => { x with round := some { r with sent := true, verdict := (h.aggregate r true).1, sinceNs := h.now } }).fedSend
      p 2 l := by
  have ha : (h.aggregate r true).2 = true := by
    unfold Hw.aggregate
    simp [ho]
  unfold Hw.voteTimeout
  rw [hr]
  dsimp only
  rw [if_neg (by simp [hon, Option.isSome_iff_ne_none.mp ho]; omega), if_pos (by simp [hs])]
  unfold Hw.fedProgress
  rw [hr]
  dsimp only
  rw [if_neg (by simp [ha, hs]), hp]
  exact ⟨_, rfl⟩

/-- The engine's own vote goes out again, counted and logged. -/
theorem Hw.voteTimeout_again (hs : r.sent = true) (hst : h.roundState m = 2) : ∃ l, h.voteTimeout m =
    (((h.modLearner m fun x => { x with round := some { r with sinceNs := h.now } }).fedSend p 2 l).inc 0x830C 1).event 9 (359 * 16) 3
      none none := by
  unfold Hw.voteTimeout
  rw [hr]
  dsimp only
  rw [if_neg (by simp [hon, Option.isSome_iff_ne_none.mp ho]; omega), if_neg (by simp [hs]), hp]
  dsimp only
  rw [if_pos hst]
  exact ⟨_, rfl⟩

end

/-- Settles O46: frames read whole, polls, votes, decisions and vote timeouts. -/
theorem federation : Obligations.Federation := by
  refine ⟨Hw.fedUnitsIn_one, fun s told units hr => ?_⟩
  have hlearn : ∀ (b h : Hw) (m : Nat), (Hw.settle b h).learner m = h.learner m := fun b h m =>
    congrArg (Map.getD · m Learner.reset) (Hw.settle_learners b h)
  have hjob : ∀ (b h : Hw) (f : Nat) (u : Bool), (Hw.settle b h).job f u = h.job f u := fun b h f u =>
    congrArg (Map.getD · (jobKey f u) Job.idle) (Hw.settle_jobs b h)
  refine ⟨fun hp => ?_, fun ho hp hi hq => ?_, fun src l m ht hc => ?_, fun src l m ht hc hd => ⟨fun ha hn => ?_, fun ha => ?_⟩,
    fun src l m ht hp => ?_, fun src l m r ht hp ha hrd hst => ⟨fun hj => ?_, fun f u hj hd => ?_⟩, fun m hn => ?_,
    fun m r p hrd hon ho hp => ⟨fun hn => ?_, fun hn hs => ?_, fun hn hs hst => ?_⟩⟩
  · exact hr.idle _ _ _ (Hw.fedPoll_idle _ hp)
  · obtain ⟨hsame, x, hx, hxp⟩ := (s.hw.begun .alone 9).fedPoll_due ho hp hi hq
    refine hr.next _ _ _ ⟨(Hw.settle_fed ..).trans hsame.fed, ⟨x, by rw [Hw.settle_mem]; exact hx, hxp⟩, (Hw.settle_learners ..).trans hsame.learners,
      (Hw.settle_seqs ..).trans hsame.seqs⟩
  · exact hr.leaves _ _ _ (.of_eq ((Hw.commitIn_takes (h := s.hw.begun _ _) ht _).trans (Hw.voteIn_stranger _ _ _ _ hc)) ⟨rfl, rfl⟩)
  · have heq := (Hw.commitIn_takes (h := s.hw.begun .alone 9) ht fun a m => a.voteIn src m l).trans (Hw.voteIn_first _ _ _ _ hc hd ha hn)
    refine hr.nextEq _ _ _ heq ⟨?_, Hw.settle_fed ..⟩
    rw [hlearn, Hw.learner_modLearner]
    rfl
  · exact hr.leaves _ _ _ (.of_eq ((Hw.commitIn_takes (h := s.hw.begun _ _) ht _).trans (Hw.voteIn_other _ _ _ _ hc hd ha)) ⟨rfl, rfl⟩)
  · exact hr.leaves _ _ _ (.of_eq ((Hw.commitIn_takes (h := s.hw.begun _ _) ht _).trans (Hw.decideIn_stranger _ _ _ _ hp)) ⟨rfl, rfl⟩)
  · have heq := (Hw.commitIn_takes (h := s.hw.begun .alone 9) ht fun a m => a.decideIn src m l).trans (Hw.decideIn_open _ _ _ _ hp ha hst)
    obtain ⟨c, d, hv⟩ := (s.hw.begun .alone 9).fedApply_gone m (fieldAt l 1 1) r hrd hj
    refine hr.nextEq _ _ _ heq ?_
    have hl := ((s.hw.begun .alone 9).fedApply m (fieldAt l 1 1)).fedForward_keeps m (fieldAt l 1 1) (fieldAt l 8 8) (fieldAt l 16 4) (fieldAt l 20 4)
    have hlm := congrArg (Map.getD · m Learner.reset) hl.1
    refine ⟨?_, ?_⟩
    · rw [hlearn]
      exact (congrArg Learner.round hlm).trans (congrArg Prod.fst hv)
    · rw [hlearn]
      exact (congrArg (fun x : Learner => x.decided.head?.map Prod.fst) hlm).trans (congrArg (fun x => x.2.head?.map Prod.fst) hv)
  · have heq := (Hw.commitIn_takes (h := s.hw.begun .alone 9) ht fun a m => a.decideIn src m l).trans ((Hw.decideIn_open (s.hw.begun .alone 9) _ _ _ hp ha hst).trans
      (congrArg (fun a : Hw => a.fedForward m (fieldAt l 1 1) (fieldAt l 8 8) (fieldAt l 16 4) (fieldAt l 20 4))
        (Hw.fedApply_waits (s.hw.begun .alone 9) m (fieldAt l 1 1) r f u hrd hj hd)))
    obtain ⟨hlp, hdp⟩ := (s.hw.begun .alone 9).postDecision_spec f u (fieldAt l 1 1) (decide (fieldAt l 1 1 ≥ 2))
    obtain ⟨hlf, hjf⟩ := ((s.hw.begun .alone 9).postDecision f u (fieldAt l 1 1) (decide (fieldAt l 1 1 ≥ 2))).fedForward_keeps m (fieldAt l 1 1)
      (fieldAt l 8 8) (fieldAt l 16 4) (fieldAt l 20 4)
    refine hr.nextEq _ _ _ heq ⟨?_, ?_⟩
    · rw [hlearn]
      exact (congrArg (fun y => (Map.getD y m Learner.reset).round) (hlf.trans hlp)).trans hrd
    · rw [hjob]
      exact (congrArg (fun y => (Map.getD y (jobKey f u) Job.idle).decision) hjf).trans hdp
  · exact hr.idle _ _ _ (Hw.voteTimeout_of_none _ _ hn)
  · exact hr.idle _ _ _ (Hw.voteTimeout_early _ _ r hrd hn)
  · obtain ⟨l, heq⟩ := (s.hw.begun .alone 9).voteTimeout_missing m r p hrd hon ho hp hn hs
    obtain ⟨x, hx, hsame⟩ := Hw.fedSend_spec ((s.hw.begun .alone 9).modLearner m fun x => { x with round := some { r with
      sent := true, verdict := ((s.hw.begun .alone 9).aggregate r true).1, sinceNs := (s.hw.begun .alone 9).now } }) p 2 l
    refine hr.nextEq _ _ _ heq ⟨?_, ?_⟩
    · rw [hlearn]
      exact (congrArg (fun y => (Map.getD y m.val Learner.reset).round) (Hw.fedSend_keeps _ p 2 l).1).trans (congrArg Learner.round (Hw.learner_modLearner ..))
    · rw [Hw.settle_fed, hsame.fed]
      exact hx
  · obtain ⟨l, heq⟩ := (s.hw.begun .alone 9).voteTimeout_again m r p hrd hon ho hp hn hs hst
    obtain ⟨x, -, hsame⟩ := Hw.fedSend_spec ((s.hw.begun .alone 9).modLearner m fun x => { x with round := some { r with
      sinceNs := (s.hw.begun .alone 9).now } }) p 2 l
    refine hr.nextEq _ _ _ heq ⟨?_, ?_, ?_⟩
    · rw [hlearn]
      exact (congrArg (fun y => (Map.getD y m.val Learner.reset).round) (Hw.fedSend_keeps _ p 2 l).1).trans (congrArg Learner.round (Hw.learner_modLearner ..))
    · refine (Hw.settle_get _ _ _ _ (obsKey_low _ _ _ (by decide) (by decide))).trans ((Hw.get_counted _ _ _ _ _ _ _ _ (by decide)).trans ?_)
      rw [hsame.get _ _ (by decide) (by decide)]
      rfl
    · refine (Hw.occurred_settle ..).trans ((Hw.occurred_counted _ _ _ _ _ _ _ _ (by decide)).trans ?_)
      rw [show ∀ a : Hw, a.occurred 9 = a.get 0xC030 10 from fun _ => rfl, hsame.get _ _ (by decide) (by decide)]
      rfl

end Sys2Proof.Machine

/-! PROOFS. R14, R163 to R166, R209: reclaim, eviction, recall and victims. -/

namespace Sys2Proof.Machine

open Sys2Proof

/-! ## Copies that wait -/

/-- A count is a facet's own. -/
theorem Hw.get_countWaits_step (h b : Hw) (f k : Nat) (hf : f < 16) (hk : k < 16) :
    (if b.descWaits k then h.inc 0x6009 (k + 1) else h).get 0x6009 (f + 1) =
      if k = f ∧ b.descWaits k then (h.get 0x6009 (f + 1) + 1) % 2 ^ 64 else h.get 0x6009 (f + 1) := by
  by_cases hw : b.descWaits k = true
  · by_cases he : k = f
    · rw [if_pos hw, if_pos ⟨he, hw⟩, he]
      exact h.get_inc ..
    · rw [if_pos hw, if_neg (fun hn => he hn.1)]
      exact h.get_inc_ne _ _ _ _ (odKey_sub_ne _ _ _ _ _ (by omega))
  · rw [if_neg hw, if_neg (fun hn => hw hn.2)]

theorem Hw.get_countWaits_foldl (b : Hw) (f : Nat) (hf : f < 16) (l : List Nat) (hl : l.Nodup) (hb : ∀ k ∈ l, k < 16) (h : Hw) :
    (l.foldl (fun a k => if b.descWaits k then a.inc 0x6009 (k + 1) else a) h).get 0x6009 (f + 1) =
      if f ∈ l ∧ b.descWaits f then (h.get 0x6009 (f + 1) + 1) % 2 ^ 64 else h.get 0x6009 (f + 1) := by
  induction l generalizing h with
  | nil => simp
  | cons k r ih =>
    obtain ⟨hkr, hr⟩ := List.nodup_cons.mp hl
    rw [List.foldl_cons, ih hr fun j hj => hb j (List.mem_cons_of_mem _ hj), h.get_countWaits_step b f k hf (hb k List.mem_cons_self)]
    by_cases he : k = f
    · subst he
      simp [hkr]
    · simp [he, Ne.symm he]

/-! ## Reclaim -/

theorem Hw.sameButMem_postPages (h b : Hw) : Hw.SameButMem (h.postPages b) h := Hw.sameButMem_foldl _ (fun a _ => a.sameButMem_memPost ..) _ _

/-- PAGE_RECLAIM's part of the island. -/
def Hw.reclaimOne (h : Hw) (k : Nat) : Hw :=
  if h.poolOn k ∧ !h.hostPool k ∧ h.poolFree k < h.getAt 0x4001 0xA k then (h.reclaim k).postPages h else h

theorem exec_pageReclaim (k : Fin 64) (s : State) : exec (.pageReclaim k) s = .next (s.onCore 3 fun h => h.reclaimOne k.val) := rfl

theorem Hw.reclaimOne_idle (h : Hw) (k : Nat) (hi : h.poolOn k = false ∨ h.hostPool k = true ∨ h.getAt 0x4001 0xA k ≤ h.poolFree k) :
    h.reclaimOne k = h := by
  unfold Hw.reclaimOne
  refine if_neg ?_
  rintro ⟨h1, h2, h3⟩
  rcases hi with e | e | e
  · simp [e] at h1
  · simp [e] at h2
  · omega

/-- The index of prefixes without a page's entries. -/
def Hw.unindexed (h : Hw) (k pg : Nat) : Hw :=
  { h with pages := { h.pages with index := h.pages.index.filter fun e => !(e.pool == k && e.page == pg) } }

/-- A page that the index alone holds is freed. -/
theorem Hw.reclaim_freed (h : Hw) (k pg : Nat) (rest : List Nat) (hc : (h.pool k).cached = pg :: rest)
    (hp : (h.pageInfo (k, pg)).refs = 1 ∧ h.indexed (k, pg) = true) :
    ((h.reclaim k).pool k).cached = rest.erase pg ∧ ((h.reclaim k).pool k).freed = (h.pool k).freed ++ [pg] ∧
    (h.reclaim k).pages.index = h.pages.index.filter (fun e => !(e.pool == k && e.page == pg)) ∧
    (h.reclaim k).get 0x4035 1 = (h.get 0x4035 1 + 1) % 2 ^ 64 ∧ (h.reclaim k).seqs = h.seqs := by
  have heq : h.reclaim k = (((h.modPool k fun p => { p with cached := rest }).unindexed k pg).inc 0x4035 1).freePage (k, pg) := by
    unfold Hw.reclaim
    rw [hc]
    exact if_pos hp
  have hpool : ∀ a : Hw, ((a.unindexed k pg).inc 0x4035 1).pool k = a.pool k := fun _ => rfl
  have hfree : ∀ a : Hw, (a.freePage (k, pg)).pool k =
      { a.pool k with info := Map.erase (a.pool k).info pg, freed := (a.pool k).freed ++ [pg], cached := (a.pool k).cached.erase pg } :=
    fun a => a.pool_modPool k _
  rw [heq, hfree, hpool, Hw.pool_modPool]
  exact ⟨rfl, rfl, rfl, h.get_inc 0x4035 1, rfl⟩

/-- Any other is only unlinked. -/
theorem Hw.reclaim_unlinked (h : Hw) (k pg : Nat) (rest : List Nat) (hc : (h.pool k).cached = pg :: rest)
    (hp : ¬((h.pageInfo (k, pg)).refs = 1 ∧ h.indexed (k, pg) = true)) :
    ((h.reclaim k).pool k).cached = rest ∧ ((h.reclaim k).pool k).freed = (h.pool k).freed ∧ (h.reclaim k).pages.index = h.pages.index ∧
    (h.reclaim k).get 0x4035 1 = h.get 0x4035 1 ∧ (h.reclaim k).seqs = h.seqs := by
  unfold Hw.reclaim
  rw [hc]
  dsimp only
  rw [if_neg hp]
  unfold Hw.setPage
  rw [Hw.pool_modPool, Hw.pool_modPool]
  exact ⟨rfl, rfl, rfl, rfl, rfl⟩

/-! ## Moves -/

theorem Hw.mem_movablePages {h : Hw} {slot : Nat} {q : Seq} {from_ : Nat → Bool} {i : Nat} (hi : i ∈ h.movablePages slot q from_) :
    h.pageMovable slot i q = true ∧ ∃ src, q.pagesCom[i]? = some src ∧ from_ src.pool = true := by
  unfold Hw.movablePages at hi
  obtain ⟨-, hp⟩ := List.mem_filter.mp hi
  obtain ⟨hm, hf⟩ := Bool.and_eq_true_iff.mp hp
  cases hs : q.pagesCom[i]? with
  | none => exact absurd hf (by simp [hs])
  | some src => exact ⟨hm, src, rfl, by simpa [hs] using hf⟩

theorem Hw.evictChoice_mem {h : Hw} {k slot i : Nat} {q : Seq} (he : h.evictChoice k = some (slot, i)) (hq : h.seq? slot = some q) :
    i ∈ h.movablePages slot q fun p => p = k := by
  unfold Hw.evictChoice at he
  split at he
  · obtain ⟨v, -, hv⟩ := Option.bind_eq_some_iff.mp he
    obtain ⟨j, hj, hpair⟩ := Option.map_eq_some_iff.mp hv
    obtain ⟨rfl, rfl⟩ := Prod.mk.injEq .. ▸ hpair
    unfold Hw.evictable at hj
    rw [hq] at hj
    dsimp only at hj
    split at hj
    · exact absurd hj nofun
    · exact List.mem_of_mem_head? hj
  · exact absurd he nofun

theorem Hw.recallChoice_mem {h : Hw} {k slot i : Nat} {q : Seq} (he : h.recallChoice k = some (slot, q, i)) :
    i ∈ h.movablePages slot q h.hostPool := by
  unfold Hw.recallChoice at he
  split at he
  · dsimp only at he
    split at he
    · obtain ⟨j, hj, hpair⟩ := Option.map_eq_some_iff.mp he
      simp only [Prod.mk.injEq] at hpair
      obtain ⟨rfl, rfl, rfl⟩ := hpair
      exact List.mem_of_mem_head? hj
    · exact absurd he nofun
  · exact absurd he nofun

/-- The pool that takes a moved page has a free one. -/
theorem Hw.movePool_free {h : Hw} {q : Seq} {b : Bool} {d : Nat} (hm : h.movePool q b = some d) : 0 < h.poolFree d := by
  unfold Hw.movePool at hm
  dsimp only at hm
  split at hm
  · have hg := List.find?_some hm
    unfold Hw.poolGrants at hg
    split at hg
    · simpa using hg
    · have := of_decide_eq_true hg
      omega
  · simpa using List.find?_some hm

/-- A pool with a free page gives one; moves and sequences stay. -/
theorem Hw.takePage_free (h : Hw) (k : Nat) (hk : 0 < h.poolFree k) :
    ∃ pg h1, h.takePage k = some (pg, h1) ∧ h1.pages.moves = h.pages.moves ∧ h1.seqs = h.seqs := by
  unfold Hw.poolFree at hk
  dsimp only at hk
  unfold Hw.takePage
  dsimp only
  split
  · exact ⟨_, _, rfl, rfl, rfl⟩
  · rename_i hfront
    split
    · exact ⟨_, _, rfl, rfl, rfl⟩
    · split
      · exact ⟨_, _, rfl, rfl, rfl⟩
      · rename_i hfreed
        simp only [hfront, hfreed, List.length_nil] at hk
        omega

theorem Hw.desc?_takeDesc (h : Hw) (d : Desc) : (h.takeDesc d).2.desc? (h.takeDesc d).1 = some d ∧ (h.takeDesc d).2.seqs = h.seqs ∧
    (h.takeDesc d).2.pages = h.pages := by
  have hnote : ∀ (a : Hw) i s t x y (k : Nat), (a.noteLevel i s t x y).desc? k = a.desc? k ∧ (a.noteLevel i s t x y).seqs = a.seqs ∧
      (a.noteLevel i s t x y).pages = a.pages := fun a i s t x y k => by
    obtain ⟨o, v, e⟩ := a.noteLevel_eq i s t x y
    rw [e]
    exact ⟨rfl, rfl, rfl⟩
  unfold Hw.takeDesc
  dsimp only
  refine ⟨?_, ?_, ?_⟩
  · rw [(hnote _ _ _ _ _ _ _).1]
    exact Map.find?_insert_self ..
  · rw [(hnote _ _ _ _ _ _ 0).2.1]
    dsimp only
    split
    · rfl
    · split <;> rfl
  · rw [(hnote _ _ _ _ _ _ 0).2.2]
    dsimp only
    split
    · rfl
    · split <;> rfl

theorem Hw.modSeq_some (h : Hw) (n : Nat) (q : Seq) (g : Seq → Seq) (hq : h.seq? n = some q) : h.modSeq n g = h.setSeq n (g q) := by
  unfold Hw.modSeq
  rw [hq]

/-- A copy that has begun, as the obligation describes it. -/
def Hw.Copying (h t : Hw) (slot i : Nat) (q : Seq) (source dest : Nat) (isRecall : Bool) : Prop :=
  ∃ m c, t.pages.moves = h.pages.moves ++ [m] ∧ m.slot = slot ∧ m.index = i ∧ m.source.1 = source ∧ m.isRecall = isRecall ∧ m.dest.1 = dest ∧
    t.desc? m.tag = some c ∧ c.owner = .copy ∧ c.facet = q.com.facet ∧ t.seq? slot = some { q with moving := true } ∧
    ∀ n, n ≠ slot → t.seq? n = h.seq? n

/-- The island with a copy's command issued and its argument block on its way. -/
theorem Hw.copying_issueMove (h : Hw) (slot i : Nat) (q : Seq) (src : PageRef) (dest : Nat × Nat) (b : Bool) (hq : h.seq? slot = some q) :
    h.Copying (h.issueMove slot i q src dest b) slot i q src.pool dest.1 b := by
  obtain ⟨td, ts, tp⟩ := h.desc?_takeDesc (h.copyDesc q.com.facet q.com.tenant (h.copyPart q.com.facet dest.1) 0)
  unfold Hw.issueMove
  dsimp only
  generalize h.takeDesc (h.copyDesc q.com.facet q.com.tenant (h.copyPart q.com.facet dest.1) 0) = t at td ts tp ⊢
  have hd := Hw.desc?_modDesc t.2 t.1 (fun d => { d with args := copyArgsAddr t.1 }) _ td
  have hkeep := Hw.sameButDescs_modDesc t.2 t.1 fun d => { d with args := copyArgsAddr t.1 }
  generalize (t.2.modDesc t.1 fun d => { d with args := copyArgsAddr t.1 }) = a at hd hkeep ⊢
  have hrun := a.sameButMem_writeBytes (copyArgsAddr t.1) (copyArgs (h.pageAddr src) (h.pageAddr { pool := dest.1, page := dest.2, isSealed := false })
    (h.getAt 0x4001 2 src.pool)) .page (some q.com.tenant) (.stepWrite q.com.facet [t.1])
  unfold Hw.writeRun
  generalize a.writeBytes (copyArgsAddr t.1) _ .page (some q.com.tenant) (.stepWrite q.com.facet [t.1]) = w at hrun ⊢
  have hpages : w.pages = h.pages := hrun.pages.trans ((congrArg Hw.pages hkeep.body).trans tp)
  have hseqs : w.seqs = h.seqs := hrun.seqs.trans ((congrArg Hw.seqs hkeep.body).trans ts)
  have hwq : ∀ p : Pages, ({ w with pages := p } : Hw).seq? slot = some q := fun _ => (congrArg (Map.find? · slot) hseqs).trans hq
  rw [Hw.modSeq_some _ slot q _ (hwq _)]
  refine ⟨_, _, congrArg (fun p : Pages => p.moves ++ [_]) hpages, rfl, rfl, rfl, rfl, rfl,
    (congrArg (Map.find? · t.1) hrun.descs).trans hd, rfl, rfl, Hw.seq?_setSeq .., fun n hn => ?_⟩
  exact (Hw.seq?_setSeq_ne _ _ _ _ hn).trans (congrArg (Map.find? · n) hseqs)

/-- A page that may be moved moves where a descriptor is free, and else the copy waits. -/
theorem Hw.startMove_goes (h : Hw) (slot i : Nat) (b : Bool) (q : Seq) (src : PageRef) (d : Nat) (hq : h.seq? slot = some q)
    (hs : q.pagesCom[i]? = some src) (hp : h.movePool q b = some d) (hm : h.pageMovable slot i q = true) (hc : h.mayCopy q.com.facet = true) :
    h.Copying (h.startMove slot i b) slot i q src.pool d b := by
  obtain ⟨pg, h1, ht, hmoves, hseqs⟩ := h.takePage_free d (Hw.movePool_free hp)
  have heq : h.startMove slot i b = h1.issueMove slot i q src (d, pg) b := by
    unfold Hw.startMove
    simp only [hq, hs, hp, hm, hc, ht, Bool.not_true, Bool.false_eq_true, if_false]
  obtain ⟨m, c, hmv, hrest⟩ := h1.copying_issueMove slot i q src (d, pg) b ((congrArg (Map.find? · slot) hseqs).trans hq)
  obtain ⟨r1, r2, r3, r4, r5, r6, r7, r8, r9, r10⟩ := hrest
  rw [heq]
  exact ⟨m, c, by rw [hmv, hmoves], r1, r2, r3, r4, r5, r6, r7, r8, r9, fun n hn => (r10 n hn).trans (congrArg (Map.find? · n) hseqs)⟩

/-- The island with one more copy that waits. -/
def Hw.copyWaiting (h : Hw) (w : CopyWait) : Hw := { h with pages := { h.pages with waits := h.pages.waits ++ [w] } }

theorem Hw.startMove_waits (h : Hw) (slot i : Nat) (b : Bool) (q : Seq) (src : PageRef) (d : Nat) (hq : h.seq? slot = some q)
    (hs : q.pagesCom[i]? = some src) (hp : h.movePool q b = some d) (hm : h.pageMovable slot i q = true) (hc : h.mayCopy q.com.facet = false) :
    h.startMove slot i b = h.copyWaiting { facet := q.com.facet, slot := slot, index := i, isRecall := b } := by
  unfold Hw.startMove
  simp only [hq, hs, hp, hm, hc, Bool.not_true, Bool.not_false, Bool.false_eq_true, if_false, if_true]
  rfl

theorem Hw.evict_some (h : Hw) (k slot i : Nat) (he : h.evictChoice k = some (slot, i)) : h.evict k = h.startMove slot i false := by
  unfold Hw.evict
  rw [he]

theorem Hw.evict_none (h : Hw) (k : Nat) (he : h.evictChoice k = none) : h.evict k = h := by
  unfold Hw.evict
  rw [he]

theorem Hw.recall_some (h : Hw) (k slot i : Nat) (q : Seq) (he : h.recallChoice k = some (slot, q, i)) : h.recall k = h.startMove slot i true := by
  unfold Hw.recall
  rw [he]

theorem Hw.recall_none (h : Hw) (k : Nat) (he : h.recallChoice k = none) : h.recall k = h := by
  unfold Hw.recall
  rw [he]

/-- The end of the command keeps a copy that has begun. -/
theorem Hw.Copying.settle {h t : Hw} {slot i : Nat} {q : Seq} {source dest : Nat} {r : Bool} (b : Hw) (hc : h.Copying t slot i q source dest r) :
    h.Copying (Hw.settle b t) slot i q source dest r := by
  unfold Hw.Copying Hw.desc? Hw.seq? at *
  rwa [Hw.settle_pages, Hw.settle_descs, Hw.settle_seqs]

/-! ## Victims -/

/-- VICTIM_PROPOSAL's part of the island. -/
def Hw.victimsFrom (h : Hw) (p : Nat) (l : List Word64) : Hw := if h.pairRuns p then h.nameVictims p l else h

theorem exec_victimProposal (p : Fin 8) (l : List Word64) (s : State) :
    exec (.victimProposal p l) s = .next (s.onCore (0x20 + p.val) fun h => h.victimsFrom p.val l) := rfl

/-- The sequence that a victim's name stands for, and whether it is a pinned one. -/
def Hw.victim? (h : Hw) (w : Word64) : Option Seq := (h.liveSlot w.toNat).bind h.seq?

def Hw.victimPinned (h : Hw) (w : Word64) : Bool := (h.victim? w).any Seq.pinned

theorem Hw.nameVictims_eq (h : Hw) (p : Nat) (l : List Word64) : h.nameVictims p l =
    if l.any h.victimPinned then
      Hw.eventUnit { h with pages := { h.pages with victims := l.filter fun w => (h.victim? w).isSome && !h.victimPinned w } }
        0xD (14 * 16) (Config.freeNat 14 0 % 6) (0x20 + p) none
    else { h with pages := { h.pages with victims := l.filter fun w => (h.victim? w).isSome && !h.victimPinned w } } := by
  have hbad : h.victimPinned = fun w => match (h.liveSlot w.toNat).bind h.seq? with
      | some q => q.pinned
      | none => false := by
    funext w
    unfold Hw.victimPinned Hw.victim?
    cases (h.liveSlot w.toNat).bind h.seq? <;> rfl
  rw [hbad]
  rfl

theorem Hw.liveSlot_seq? (h : Hw) (x n : Nat) (hl : h.liveSlot x = some n) : ∃ q, h.seq? n = some q := by
  unfold Hw.liveSlot at hl
  dsimp only at hl
  split at hl
  · rename_i q hq
    split at hl
    · injection hl with hl
      exact ⟨q, hl ▸ hq⟩
    · exact absurd hl nofun
  · exact absurd hl nofun

theorem Hw.victim?_of_live (h : Hw) (w : Word64) (n : Nat) (q : Seq) (hl : h.liveSlot w.toNat = some n) (hq : h.seq? n = some q) :
    h.victim? w = some q := by
  unfold Hw.victim?
  rw [hl]
  exact hq

theorem Hw.victim?_isSome (h : Hw) (w : Word64) : (h.victim? w).isSome = (h.liveSlot w.toNat).isSome := by
  unfold Hw.victim?
  cases hl : h.liveSlot w.toNat with
  | none => rfl
  | some n =>
    obtain ⟨q, hq⟩ := h.liveSlot_seq? _ n hl
    simp [hq]

/-- With no pinned sequence named, the victims are the live ones. -/
theorem Hw.nameVictims_free (h : Hw) (p : Nat) (l : List Word64)
    (hl : ∀ w ∈ l, ∀ n q, h.liveSlot w.toNat = some n → h.seq? n = some q → q.pinned = false) :
    h.nameVictims p l = { h with pages := { h.pages with victims := l.filter fun w => (h.liveSlot w.toNat).isSome } } := by
  have hfree : ∀ w ∈ l, h.victimPinned w = false := fun w hw => by
    unfold Hw.victimPinned Hw.victim?
    cases hs : h.liveSlot w.toNat with
    | none => rfl
    | some n =>
      obtain ⟨q, hq⟩ := h.liveSlot_seq? _ n hs
      simpa [hq] using hl w hw n q hs hq
  have hany : l.any h.victimPinned = false := by simpa using hfree
  have hfilter : (l.filter fun w => (h.victim? w).isSome && !h.victimPinned w) = l.filter fun w => (h.liveSlot w.toNat).isSome :=
    List.filter_congr fun w hw => by rw [hfree w hw, h.victim?_isSome w, Bool.not_false, Bool.and_true]
  rw [h.nameVictims_eq p l, hany, if_neg Bool.false_ne_true, hfilter]

/-- A pinned one is refused with an event. -/
theorem Hw.nameVictims_pinned (h : Hw) (p : Nat) (l : List Word64) (w : Word64) (n : Nat) (q : Seq) (hw : w ∈ l)
    (hs : h.liveSlot w.toNat = some n) (hq : h.seq? n = some q) (hp : q.pinned = true) :
    (h.nameVictims p l).occurred 0xD = (h.occurred 0xD + 1) % 2 ^ 64 ∧ w ∉ (h.nameVictims p l).pages.victims ∧
      (h.nameVictims p l).seqs = h.seqs := by
  have hpin : h.victimPinned w = true := by
    unfold Hw.victimPinned
    rw [h.victim?_of_live w n q hs hq]
    exact hp
  rw [h.nameVictims_eq p l, if_pos (List.any_eq_true.mpr ⟨w, hw, hpin⟩)]
  refine ⟨h.get_inc _ _, fun hmem => ?_, rfl⟩
  have hkept := (List.mem_filter.mp hmem).2
  simp [hpin] at hkept

/-- PAGE_RECLAIM on a device pool that is low reclaims a page. -/
theorem State.Ready.reclaims {s : State} (hr : s.Ready) (k : Fin 64) (hon : s.hw.poolOn k = true) (hho : s.hw.hostPool k = false)
    (hlo : s.hw.poolFree k < s.hw.getAt 0x4001 0xA k) :
    ∃ t, exec (.pageReclaim k) s = .next t ∧ t.hw.pool k = ((s.hw.begun .alone 3).reclaim k).pool k ∧
      t.hw.pages.index = ((s.hw.begun .alone 3).reclaim k).pages.index ∧
      t.hw.get 0x4035 1 = ((s.hw.begun .alone 3).reclaim k).get 0x4035 1 ∧ t.hw.seqs = ((s.hw.begun .alone 3).reclaim k).seqs := by
  have heq : (s.hw.begun .alone 3).reclaimOne k = ((s.hw.begun .alone 3).reclaim k).postPages (s.hw.begun .alone 3) :=
    if_pos ⟨hon, by rw [show (s.hw.begun .alone 3).hostPool k = false from hho]; rfl, hlo⟩
  have hmem := ((s.hw.begun .alone 3).reclaim k).sameButMem_postPages (s.hw.begun .alone 3)
  have hpages := (Hw.settle_pages (s.hw.started .alone) _).trans hmem.pages
  rw [exec_pageReclaim]
  refine hr.nextEq _ _ _ heq ⟨?_, congrArg Pages.index hpages, ?_, (Hw.settle_seqs ..).trans hmem.seqs⟩
  · exact congrArg (fun p : Pages => Map.getD p.pools k.val Pool.reset) hpages
  · exact (Hw.settle_get _ _ _ _ (obsKey_low _ _ _ (by decide) (by decide))).trans (hmem.get _ _ (by decide) (by decide))

/-- Settles O42: waiting copies, reclaim, eviction, recall and victims. -/
theorem pageMoves : Obligations.PageMoves := by
  refine ⟨fun h f => ?_, fun s k hr => ?_⟩
  · exact (h.get_countWaits_foldl f f.isLt (List.range 16) List.nodup_range (fun j hj => List.mem_range.mp hj) h).trans (by simp [f.isLt])
  refine ⟨fun pg rest hon hho hlo hc => ⟨fun h1 h2 => ?_, fun hn => ?_⟩, fun hi => ?_, fun slot i q d he hq hp => ⟨fun hm => ?_, fun hm => ?_⟩,
    fun he => ?_, fun slot i q d he hq hp => ⟨fun hm => ?_, fun hm => ?_⟩, fun he => ?_, fun p l => ⟨fun hp hl => ?_, fun w n q hp hw hs hq hpin => ?_,
    fun hp => ?_⟩⟩
  · obtain ⟨t, ht, tpool, tindex, tget, tseqs⟩ := hr.reclaims k hon hho hlo
    obtain ⟨f1, f2, f3, f4, f5⟩ := (s.hw.begun .alone 3).reclaim_freed k pg rest hc ⟨h1, h2⟩
    exact ⟨t, ht, by rw [tpool, f1], by rw [tpool, f2]; rfl, tindex.trans f3, tget.trans f4, tseqs.trans f5⟩
  · obtain ⟨t, ht, tpool, tindex, tget, tseqs⟩ := hr.reclaims k hon hho hlo
    have hn' : ¬(((s.hw.begun .alone 3).pageInfo (k, pg)).refs = 1 ∧ (s.hw.begun .alone 3).indexed (k, pg) = true) := by
      rintro ⟨e1, e2⟩
      exact hn.elim (fun e => e e1) (fun e => Bool.false_ne_true (e.symm.trans e2))
    obtain ⟨f1, f2, f3, f4, f5⟩ := (s.hw.begun .alone 3).reclaim_unlinked k pg rest hc hn'
    exact ⟨t, ht, by rw [tpool, f1], by rw [tpool, f2]; rfl, tindex.trans f3, tget.trans f4, tseqs.trans f5⟩
  · rw [exec_pageReclaim]
    exact hr.idle _ _ _ (Hw.reclaimOne_idle _ _ hi)
  · obtain ⟨hmov, src, hsrc, hk⟩ := Hw.mem_movablePages (Hw.evictChoice_mem he hq)
    have heq := ((s.hw.begun .alone 3).evict_some k slot i he)
    obtain ⟨t, ht, m, c, r0, r1, r2, r3, r4, r5, r6, r7, r8, r9, r10⟩ := hr.nextEq .alone 3 (fun h => h.evict k.val) heq
      (P := fun t => (s.hw.begun .alone 3).Copying t.hw slot i q src.pool d false)
      (((s.hw.begun .alone 3).startMove_goes slot i false q src d hq hsrc hp hmov hm).settle (s.hw.started .alone))
    exact ⟨t, m, c, ht, r0, r1, r2, r3.trans (of_decide_eq_true hk), r4, r5, r6, r7, r8, r9, r10⟩
  · obtain ⟨hmov, src, hsrc, -⟩ := Hw.mem_movablePages (Hw.evictChoice_mem he hq)
    exact hr.leaves _ _ _ (.of_eq (((s.hw.begun .alone 3).evict_some k slot i he).trans
      ((s.hw.begun .alone 3).startMove_waits slot i false q src d hq hsrc hp hmov hm)) ⟨rfl, rfl⟩)
  · exact hr.idle _ _ _ (Hw.evict_none _ _ he)
  · obtain ⟨hmov, src, hsrc, -⟩ := Hw.mem_movablePages (Hw.recallChoice_mem he)
    have heq := ((s.hw.begun .alone 3).recall_some k slot i q he)
    obtain ⟨t, ht, m, c, r0, r1, r2, -, r4, r5, r6, r7, r8, r9, r10⟩ := hr.nextEq .alone 3 (fun h => h.recall k.val) heq
      (P := fun t => (s.hw.begun .alone 3).Copying t.hw slot i q src.pool d true)
      (((s.hw.begun .alone 3).startMove_goes slot i true q src d hq hsrc hp hmov hm).settle (s.hw.started .alone))
    exact ⟨t, m, c, ht, r0, r1, r2, r4, r5, r6, r7, r8, r9, r10⟩
  · obtain ⟨hmov, src, hsrc, -⟩ := Hw.mem_movablePages (Hw.recallChoice_mem he)
    exact hr.leaves _ _ _ (.of_eq (((s.hw.begun .alone 3).recall_some k slot i q he).trans
      ((s.hw.begun .alone 3).startMove_waits slot i true q src d hq hsrc hp hmov hm)) ⟨rfl, rfl⟩)
  · exact hr.idle _ _ _ (Hw.recall_none _ _ he)
  · rw [exec_victimProposal]
    exact hr.leaves _ _ _ (.of_eq ((if_pos hp).trans ((s.hw.begun .alone (0x20 + p.val)).nameVictims_free p l hl)) ⟨rfl, rfl⟩)
  · rw [exec_victimProposal]
    obtain ⟨hocc, hnot, hseqs⟩ := (s.hw.begun .alone (0x20 + p.val)).nameVictims_pinned p l w n q hw hs hq hpin
    have heq : (s.hw.begun .alone (0x20 + p.val)).victimsFrom p l = (s.hw.begun .alone (0x20 + p.val)).nameVictims p l := if_pos hp
    exact hr.nextEq _ _ _ heq ⟨(Hw.occurred_settle ..).trans hocc, by rw [Hw.settle_pages]; exact hnot, (Hw.settle_seqs ..).trans hseqs⟩
  · rw [exec_victimProposal]
    exact hr.idle _ _ _ (if_neg (by rw [show (s.hw.begun _ _).pairRuns p = false from hp]; exact Bool.false_ne_true))

end Sys2Proof.Machine

/-! PROOFS. R6, R97, R234, R237, R245, R276, R414: reads of the dictionary, and those that clear. -/

namespace Sys2Proof.Machine

open Sys2Proof

/-! ## A served READ -/

/-- What a READ request of a scalar carries, path apart. -/
def Req.isRead (r : Req) (idx sub : Nat) : Prop :=
  r.bad = false ∧ r.op = 0 ∧ r.idx = idx ∧ r.sub = sub ∧ r.offset = 0 ∧ r.length = sizeOf idx sub

theorem Req.isRead.reads {r : Req} {idx sub : Nat} (h : r.isRead idx sub) : r.reads idx = true := by
  obtain ⟨hb, hop, hi, -⟩ := h
  simp [Req.reads, hb, hop, hi]

/-- In CONFIG and in OPERATIONAL every READ is served. -/
theorem Hw.serves_read (h : Hw) (idx : Nat) (he : h.eng.state = .config ∨ h.eng.state = .operational) : h.serves 0 idx = true := by
  unfold Hw.serves
  rcases he with he | he <;> simp only [he]

/-- A READ of a scalar is answered with the entry's value, and clears it where it is an RC entry. -/
theorem State.carryOut_read (x : State) (r : Req) (e : Entry) (hlook : lookup r.idx r.sub = some e) (hb : r.bad = false) (hop : r.op = 0)
    (hserve : x.hw.serves 0 r.idx = true) (hdom : e.type ≠ .domain) (hoff : r.offset = 0) (hlen : r.length = e.type.size)
    (hsub : r.sub ≠ 0) :
    x.carryOut r = (.value (x.valueBytes e r.sub (x.hw.objOf r.path e.sel)), x.clearRead e r.sub (x.hw.objOf r.path e.sel)) := by
  have hfind : x.find r = (.ok, e) := by
    unfold State.find
    simp only [hlook, hb, hop, hserve]
    rfl
  unfold State.carryOut
  simp only [hfind, hop, ne_eq, not_true_eq_false, if_false]
  unfold State.readEntry
  rw [if_neg hdom, if_neg (by simp [hoff, hlen]), if_neg hsub]

/-- Clearing an entry's value neither finds a fault nor changes the engine's state, the window or the sideband. -/
theorem State.clearRead_frame (s : State) (e : Entry) (sub obj : Nat) :
    (s.clearRead e sub obj).win = s.win ∧ (s.clearRead e sub obj).hw.side = s.hw.side ∧ (s.clearRead e sub obj).hw.faults = s.hw.faults ∧
      (s.clearRead e sub obj).hw.eng = s.hw.eng := by
  unfold State.clearRead
  split
  · exact ⟨rfl, rfl, rfl, rfl⟩
  · split
    · exact ⟨rfl, rfl, rfl, rfl⟩
    · split
      · exact ⟨rfl, rfl, rfl, rfl⟩
      · split
        · exact ⟨rfl, rfl, rfl, rfl⟩
        · split
          · exact ⟨rfl, rfl, rfl, rfl⟩
          · split <;> exact ⟨rfl, rfl, rfl, rfl⟩

/-- A READ of a scalar: what it leaves, its answer, and the bytes that the window shows. -/
theorem State.read_served (s : State) (p : Path) (idx sub : Nat) (mine : Req → Bool) (e : Entry) (hl : s.Ready) (ha : s.AsksRead p idx sub)
    (hm : ∀ r : Req, r.isRead idx sub → mine r = true) (hlook : lookup idx sub = some e) (hdom : e.type ≠ .domain)
    (he : s.hw.eng.state = .config ∨ s.hw.eng.state = .operational) (hsub : sub ≠ 0) :
    Served s (s.serve p mine) p
        (.value ((s.begun p).valueBytes e sub (s.hw.objOf p e.sel)), (s.begun p).clearRead e sub (s.hw.objOf p e.sel)) ∧
      s.Answered (s.serve p mine) .ok p ∧
      (p = .window → (s.serve p mine).win.data = (s.win.place ((s.begun p).valueBytes e sub (s.hw.objOf p e.sel))).data) := by
  obtain ⟨hroom, r, hr, hp, hb, hop, hi, hs, hoff, hlen⟩ := ha
  have hc := State.carryOut_read (s.begun p) r e (by rw [hi, hs]; exact hlook) hb hop (s.hw.serves_read _ he) hdom hoff
    (by rw [hlen, sizeOf, hlook]) (hs ▸ hsub)
  rw [hp, hs] at hc
  change (s.begun p).carryOut r = (.value ((s.begun p).valueBytes e sub (s.hw.objOf p e.sel)),
    (s.begun p).clearRead e sub (s.hw.objOf p e.sel)) at hc
  obtain ⟨hwin, hside, hfaults, heng⟩ := (s.begun p).clearRead_frame e sub (s.hw.objOf p e.sel)
  obtain ⟨-, -, -, hq⟩ := hl.quiet
  have hf : ((s.begun p).carryOut r).2.hw.faults = [] := by rw [hc]; exact hfaults.trans hq
  have hop' : ((s.begun p).carryOut r).2.hw.eng.state = .operational → s.hw.eng.state = .operational := by
    rw [hc]
    exact fun h => heng ▸ h
  have hmine := hm r ⟨hb, hop, hi, hs, hoff, hlen⟩
  have h1 := State.serve_served s p mine r hl hroom hr hmine hf hop'
  have h2 := State.serve_answered s p mine r hl hroom hr hmine hf hop' (by rw [hc]; exact hwin) (by rw [hc]; exact hside)
  have h3 := State.serve_eq s p mine r hl hroom hr hmine hf hop'
  rw [hc] at h1 h2 h3
  refine ⟨h1, h2, fun hpw => ?_⟩
  subst hpw
  rw [h3]
  exact congrArg (fun w : Window => (w.place ((s.begun .window).valueBytes e sub (s.hw.objOf .window e.sel))).data) hwin

/-! ## Bytes in the window -/

theorem readCell_cellsOf (l : List Byte) (a j : Nat) (m : List Host.Cell) (hm : ∀ c ∈ m, a + l.length ≤ c.1) (hj : j < l.length) :
    readCell (cellsOf a l ++ m) (a + j) = l[j] := by
  induction l generalizing a j with
  | nil => exact absurd hj (Nat.not_lt_zero j)
  | cons b r ih =>
    have hm' : ∀ c ∈ m, a + 1 + r.length ≤ c.1 := fun c hc => by have := hm c hc; rw [List.length_cons] at this; omega
    unfold cellsOf
    cases j with
    | zero =>
      split
      · rename_i h0
        subst h0
        refine readCell_of_lt _ _ fun c hc => ?_
        rcases List.mem_append.mp hc with hc | hc
        · have := mem_cellsOf _ _ _ hc
          omega
        · have := hm' c hc
          omega
      · simp [readCell]
    | succ j =>
      have hi := ih (a + 1) j hm' (Nat.lt_of_succ_lt_succ hj)
      have ha : a + 1 + j = a + (j + 1) := by omega
      rw [ha] at hi
      split
      · exact hi
      · rw [List.cons_append, readCell, if_neg (by omega)]
        exact hi

/-- The window shows the bytes that were placed. -/
theorem Window.readCell_place (w : Window) (l : List Byte) (j : Nat) (hj : j < l.length) : readCell (w.place l).data j = l[j] := by
  have h := readCell_cellsOf l 0 j (w.data.filter fun c => decide (l.length ≤ c.1)) (fun c hc => by
    have := of_decide_eq_true (List.mem_filter.mp hc).2
    omega) hj
  rwa [Nat.zero_add] at h

theorem length_leBytes (n v : Nat) : (leBytes n v).length = n := by
  induction n generalizing v with
  | zero => rfl
  | succ n ih => simp [leBytes, ih]

theorem getElem_leBytes (n v j : Nat) (hj : j < (leBytes n v).length) : (leBytes n v)[j] = BitVec.ofNat 8 (v / 256 ^ j) := by
  induction n generalizing v j with
  | zero => exact absurd hj (Nat.not_lt_zero j)
  | succ n ih =>
    cases j with
    | zero => simp [leBytes]
    | succ j =>
      simp only [leBytes, List.getElem_cons_succ]
      rw [ih]
      congr 1
      rw [Nat.div_div_eq_div_mul, Nat.pow_succ, Nat.mul_comm]

/-- A byte of a word. -/
theorem ofNat_byte (b : Word64) (j : Nat) : BitVec.ofNat 8 (b.toNat / 256 ^ j) = (b >>> (8 * j)).setWidth 8 := by
  apply BitVec.eq_of_toNat_eq
  simp only [BitVec.toNat_ofNat, BitVec.toNat_setWidth, BitVec.toNat_ushiftRight, Nat.shiftRight_eq_div_pow]
  rw [Nat.pow_mul]

/-! ## The entries -/

/-- A line of the dictionary whose read clears it. -/
def clearingEntry (idx count : Nat) (ty : EntryType) (hi : Nat) : Entry := ⟨idx, 1, count, ty, .rc, false, 0, hi, .none⟩

theorem lookup_readyNotice : ∀ k : Fin 64, lookup 0x601A (k + 1) = some (clearingEntry 0x601A 64 .u64 (2 ^ 64 - 1)) := by decide +kernel
theorem lookup_descNotice : ∀ f : Fin 16, lookup 0x6021 (f + 1) = some (clearingEntry 0x6021 16 .u64 (2 ^ 64 - 1)) := by decide +kernel
theorem lookup_waitMax : ∀ k : Fin 64, lookup 0x6016 (k + 1) = some (clearingEntry 0x6016 64 .u32 (2 ^ 32 - 1)) := by decide +kernel
theorem lookup_hullMax : lookup 0x702A 1 = some (clearingEntry 0x702A 1 .u16 0xFFFF) := by decide +kernel
theorem lookup_wakeCause : lookup 0xD021 1 = some (clearingEntry 0xD021 1 .u16 0xFFFF) := by decide +kernel

/-- The line of a probe's word (0x7110.04 and .05). -/
def probeEntry (w : Nat) : Entry := ⟨0x7110, w + 4, 1, .u64, .ro, false, 0, 2 ^ 64 - 1, .path⟩

theorem lookup_probe : ∀ w : Fin 2, lookup 0x7110 (w + 4) = some (probeEntry w) := by decide +kernel

theorem State.clearRead_readyNotice (s : State) (n : Nat) (ty : EntryType) (hi sub obj : Nat) :
    s.clearRead (clearingEntry 0x601A n ty hi) sub obj = { s with hw := s.hw.set 0x601A sub (s.hw.readyDepth (sub - 1)) } := by
  simp [State.clearRead, clearingEntry]
theorem State.clearRead_descNotice (s : State) (n : Nat) (ty : EntryType) (hi sub obj : Nat) :
    s.clearRead (clearingEntry 0x6021 n ty hi) sub obj = { s with hw := s.hw.set 0x6021 sub (s.hw.descHeld (sub - 1)) } := by
  simp [State.clearRead, clearingEntry]
theorem State.clearRead_waitMax (s : State) (n : Nat) (ty : EntryType) (hi sub obj : Nat) :
    s.clearRead (clearingEntry 0x6016 n ty hi) sub obj = { s with hw := s.hw.set 0x6016 sub 0 } := by
  simp [State.clearRead, clearingEntry]
theorem State.clearRead_hullMax (s : State) (n : Nat) (ty : EntryType) (hi sub obj : Nat) :
    s.clearRead (clearingEntry 0x702A n ty hi) sub obj = { s with hw := { s.hw with smp := { s.hw.smp with hullMax := 0 } } } := by
  simp [State.clearRead, clearingEntry]
theorem State.clearRead_wakeCause (s : State) (n : Nat) (ty : EntryType) (hi sub obj : Nat) :
    s.clearRead (clearingEntry 0xD021 n ty hi) sub obj = { s with gnm := s.gnm.set 0xD021 sub 0 } := by
  simp [State.clearRead, clearingEntry]
theorem State.clearRead_probe (s : State) (w sub obj : Nat) : s.clearRead (probeEntry w) sub obj = s := rfl

/-- The block's word of a probe's key and counter (R237). -/
def Hw.probeWord (h : Hw) (obj w : Nat) : Word64 :=
  let b := helixBlock (.ofNat 64 (h.getAt 0x7110 1 obj)) (.ofNat 64 (h.getAt 0x7110 2 obj)) (.ofNat 64 (h.getAt 0x7110 3 obj))
  if w = 0 then b.1 else b.2

theorem State.valueBytes_probe (s : State) (w : Fin 2) (obj : Nat) :
    s.valueBytes (probeEntry w) (w + 4) obj = leBytes 8 (s.hw.probeWord obj w).toNat := by
  fin_cases w <;> rfl

theorem plainKey_low (i j : Nat) (hj : j < 256) (hi : i < 0xB000) (h : i ≠ 0x2400) : plainKey (odKey i j 0) = true :=
  plainKey_odKey i j 0 hj (.inl hi) h

/-- Settles O8: a served READ answers the entry's value, and the six reads leave what `clearRead` makes of it. -/
theorem readsThatClear : Obligations.ReadsThatClear := by
  unfold Obligations.ReadsThatClear
  intro s p hr he
  refine ⟨fun k h => ?_, fun f h => ?_, fun k h => ?_, fun h => ?_, fun h => ?_, fun w h => ?_⟩
  · obtain ⟨hs, ha, -⟩ := s.read_served p 0x601A (k + 1) (fun r => r.reads 0x601A || r.reads 0x6021) _ hr h (fun r hi => by simp [hi.reads])
      (lookup_readyNotice k) nofun (.inr he) (Nat.succ_ne_zero _)
    rw [State.clearRead_readyNotice] at hs
    exact ⟨_, rfl, ha, (hs.raw _ _ (plainKey_low _ _ (by omega) (by decide) (by decide))).trans (Hw.raw_set _ _ _ _), hs.parts⟩
  · obtain ⟨hs, ha, -⟩ := s.read_served p 0x6021 (f + 1) (fun r => r.reads 0x601A || r.reads 0x6021) _ hr h (fun r hi => by simp [hi.reads])
      (lookup_descNotice f) nofun (.inr he) (Nat.succ_ne_zero _)
    rw [State.clearRead_descNotice] at hs
    exact ⟨_, rfl, ha, (hs.raw _ _ (plainKey_low _ _ (by omega) (by decide) (by decide))).trans (Hw.raw_set _ _ _ _), hs.parts⟩
  · obtain ⟨hs, ha, -⟩ := s.read_served p 0x6016 (k + 1) (fun r => r.reads 0x6016) _ hr h (fun r hi => hi.reads)
      (lookup_waitMax k) nofun (.inr he) (Nat.succ_ne_zero _)
    rw [State.clearRead_waitMax] at hs
    exact ⟨_, rfl, ha, (hs.raw _ _ (plainKey_low _ _ (by omega) (by decide) (by decide))).trans (Hw.raw_set _ _ _ _), hs.parts⟩
  · obtain ⟨hs, ha, -⟩ := s.read_served p 0x702A 1 (fun r => r.reads 0x702A) _ hr h (fun r hi => hi.reads) lookup_hullMax nofun (.inr he) (by decide)
    rw [State.clearRead_hullMax] at hs
    exact ⟨_, rfl, ha, hs.smp⟩
  · obtain ⟨hs, ha, -⟩ := s.read_served p 0xD021 1 (fun r => r.reads 0xD021) _ hr h (fun r hi => hi.reads) lookup_wakeCause nofun (.inr he) (by decide)
    rw [State.clearRead_wakeCause] at hs
    exact ⟨_, rfl, ha, hs.gnm⟩
  · obtain ⟨hs, ha, hdata⟩ := s.read_served p 0x7110 (w + 4) (fun r => r.reads 0x7110 && (r.sub == 4 || r.sub == 5)) _ hr h (fun r hi => by
      obtain ⟨-, -, -, hsub, -⟩ := id hi
      have hw : r.sub = 4 ∨ r.sub = 5 := by omega
      simp [hi.reads, hw]) (lookup_probe w) nofun (.inr he) (by omega)
    rw [State.clearRead_probe] at hs
    refine ⟨_, rfl, ha, hs.seqs, hs.facets, hs.raw _ _ (plainKey_low _ _ (by omega) (by decide) (by decide)), fun hp j => ?_⟩
    have hlen : j.val < (leBytes 8 (s.hw.probeWord (pathNum p) w).toNat).length := by rw [length_leBytes]; exact j.isLt
    rw [hdata hp, State.valueBytes_probe]
    refine (Window.readCell_place _ _ _ hlen).trans ((getElem_leBytes _ _ _ hlen).trans ((ofNat_byte _ _).trans ?_))
    fin_cases w <;> rfl

end Sys2Proof.Machine

/-! PROOFS. What a served WRITE of a scalar or a DOMAIN entry comes to, where nothing bars it (R96, R98, R105, R422). -/

namespace Sys2Proof.Machine

open Sys2Proof

/-! ## What bars a WRITE -/

/-- The feature of Table 5.12 that governs an entry, a host pool's switch apart. -/
def governs (idx sub : Nat) : Option Nat :=
  ((governed.find? fun g => decide (g.1 ≤ idx) && decide (idx ≤ g.2.1)).map fun g => g.2.2).or
    ((governedSubs.find? fun g => g.1 == idx && g.2.1 == sub).map fun g => g.2.2)

theorem Hw.governor_eq (h : Hw) (r : Req) (obj : Nat) (hp : ¬(r.idx = 0x4001 ∧ r.sub = 8 ∧ h.hostPool obj = true ∧ r.value = 1)) :
    h.governor r obj = governs r.idx r.sub := by
  unfold Hw.governor governs
  rw [if_neg hp]
  split
  · rename_i g hg
    rw [hg]
    rfl
  · rename_i hg
    rw [hg]
    split
    · rename_i g hs
      rw [hs]
      rfl
    · rename_i hs
      rw [hs]
      rfl

/-- Where an entry may be written: no value that the driver only reads, and a configuration value in CONFIG alone. -/
def Access.writable (a : Access) (st : EngState) : Bool := a != .ro && a != .rc && a != .const && (a != .rwc || st == .config)

/-- Nothing bars a WRITE of a writable entry whose feature is in force. -/
theorem State.writeBar_ok (s : State) (r : Req) (e : Entry) (obj : Nat) (hd : s.hw.denied r = false)
    (ha : e.access.writable s.hw.eng.state = true) (hg : ∀ f, s.hw.governor r obj = some f → s.hw.featureForWrites f = true) :
    s.writeBar r e obj = .ok := by
  simp only [Access.writable, Bool.and_eq_true, Bool.or_eq_true, bne_iff_ne, ne_eq, beq_iff_eq] at ha
  obtain ⟨⟨⟨hro, hrc⟩, hconst⟩, hrwc⟩ := ha
  have hst : ¬(e.access = .rwc ∧ s.hw.eng.state ≠ .config) := fun ⟨h1, h2⟩ => hrwc.elim (fun h => h h1) h2
  unfold State.writeBar
  cases hgov : s.hw.governor r obj with
  | none => simp [hd, hro, hrc, hconst, hst]
  | some f => simp [hd, hro, hrc, hconst, hst, hg f hgov]

/-- In OPERATIONAL the features in force are those that govern writes. -/
theorem Hw.featureForWrites_of_operational (h : Hw) (f : Nat) (he : h.eng.state = .operational) : h.featureForWrites f = h.feature f := by
  unfold Hw.featureForWrites
  rw [he]

/-! ## A scalar WRITE -/

/-- The path's command takes a scalar WRITE up to its owner's rules: nothing bars it, and its value lies in the entry's range. -/
structure State.Takes (s : State) (p : Path) (idx sub v : Nat) (mine : Req → Bool) (e : Entry) : Prop where
  ready  : s.Ready
  asks   : s.AsksWrite p idx sub v
  look   : lookup idx sub = some e
  kind   : ∀ r : Req, r.isWrite idx sub v → mine r = true
  scalar : e.type ≠ .domain
  serves : s.hw.serves 1 idx = true
  access : e.access.writable s.hw.eng.state = true
  gov    : ∀ f, governs idx sub = some f → s.hw.featureForWrites f = true
  pool   : idx = 0x4001 → sub = 8 → v = 1 → s.hw.hostPool (s.hw.objOf p e.sel) = true → s.hw.featureForWrites 7 = true
  range  : e.lo ≤ v ∧ v ≤ e.hi

section
variable {s : State} {p : Path} {idx sub v : Nat} {mine : Req → Bool} {e : Entry}

/-- Nothing but a denial of the sideband bars it. -/
theorem State.Takes.bar (h : s.Takes p idx sub v mine e) (r : Req) (hr : r.isWrite idx sub v) (hd : s.hw.denied r = false) :
    (s.begun p).writeBar r e (s.hw.objOf p e.sel) = .ok := by
  obtain ⟨-, -, hi, hs, -, -, hv⟩ := hr
  refine (s.begun p).writeBar_ok r e _ hd h.access fun f hg => ?_
  by_cases hp : r.idx = 0x4001 ∧ r.sub = 8 ∧ (s.begun p).hw.hostPool (s.hw.objOf p e.sel) = true ∧ r.value = 1
  · obtain ⟨h1, h2, h3, h4⟩ := hp
    have h7 : (s.begun p).hw.governor r (s.hw.objOf p e.sel) = some 7 := by
      unfold Hw.governor
      rw [h1, h2]
      exact if_pos ⟨rfl, rfl, h3, h4⟩
    rw [h7] at hg
    cases hg
    exact h.pool (hi ▸ h1) (hs ▸ h2) (hv ▸ h4) h3
  · rw [Hw.governor_eq _ _ _ hp, hi, hs] at hg
    exact h.gov f hg

/-- The path's next request, and what its owner's rules make of it. -/
theorem State.Takes.carryOut (h : s.Takes p idx sub v mine e) : ∃ r, s.request? p = some r ∧ mine r = true ∧
    (s.begun p).carryOut r = (.of ((s.begun p).ownScalar idx sub (s.hw.objOf p e.sel) v).1,
      ((s.begun p).ownScalar idx sub (s.hw.objOf p e.sel) v).2) := by
  obtain ⟨hden, -, r, hr, hp, hb, hop, hi, hs, hoff, hlen, hv⟩ := h.asks
  have hw : r.isWrite idx sub v := ⟨hb, hop, hi, hs, hoff, hlen, hv⟩
  have hd : s.hw.denied r = false := by
    unfold Hw.denied
    cases p with
    | window => simp [hp]
    | ddp => simp [hden rfl]
  have hbar : (s.begun p).writeBar r e ((s.begun p).hw.objOf r.path e.sel) = .ok := by rw [hp]; exact h.bar r hw hd
  refine ⟨r, hr, h.kind r hw, ?_⟩
  have hc := (s.begun p).carryOut_write r e (by rw [hi, hs]; exact h.look) hb hop (by rw [hi]; exact h.serves) hbar h.scalar hoff
    (by rw [hlen, sizeOf, h.look]) (hv ▸ h.range.1) (hv ▸ h.range.2)
  rw [hi, hs, hv, hp] at hc
  exact hc

/-- A taken WRITE: what its owner's rules make of it is what the command leaves and answers. -/
theorem State.Takes.served (h : s.Takes p idx sub v mine e) {st : Status} {t : State}
    (ho : (s.begun p).ownScalar idx sub (s.hw.objOf p e.sel) v = (st, t)) (hwin : t.win = s.win) (hside : t.hw.side = s.hw.side)
    (hf : t.hw.faults = []) (he : t.hw.eng.state = .operational → s.hw.eng.state = .operational) :
    Served s (s.serve p mine) p (.of st, t) ∧ s.Answered (s.serve p mine) st p := by
  obtain ⟨r, hr, hm, hc⟩ := h.carryOut
  obtain ⟨-, hroom, -⟩ := h.asks
  rw [ho] at hc
  have h1 := s.serve_served p mine r h.ready hroom hr hm (by rw [hc]; exact hf) (by rw [hc]; exact he)
  have h2 := s.serve_answered p mine r h.ready hroom hr hm (by rw [hc]; exact hf) (by rw [hc]; exact he) (by rw [hc]; exact hwin)
    (by rw [hc]; exact hside)
  rw [hc] at h1 h2
  exact ⟨h1, h2⟩

/-- The machine after a taken WRITE, observation included. -/
theorem State.Takes.serve_eq (h : s.Takes p idx sub v mine e) {st : Status} {t : State}
    (ho : (s.begun p).ownScalar idx sub (s.hw.objOf p e.sel) v = (st, t)) (hf : t.hw.faults = [])
    (he : t.hw.eng.state = .operational → s.hw.eng.state = .operational) :
    (p = .ddp → (s.begun p).hw.side.requests ≠ []) ∧
      (s.serve p mine).hw = Hw.settle (s.hw.started (s.servePart p)) ((s.begun p).replied p (.of st, t)).hw := by
  obtain ⟨r, hr, hm, hc⟩ := h.carryOut
  obtain ⟨-, hroom, -⟩ := h.asks
  rw [ho] at hc
  have heq := s.serve_eq p mine r h.ready hroom hr hm (by rw [hc]; exact hf) (by rw [hc]; exact he)
  rw [hc] at heq
  exact ⟨fun hp => by subst hp; exact request_ddp hr, congrArg State.hw heq⟩

end

/-- A WRITE of a value that the driver may set, in OPERATIONAL. -/
theorem State.takes_operational (s : State) (p : Path) (idx sub v : Nat) (mine : Req → Bool) (e : Entry) (hl : s.Ready)
    (he : s.hw.eng.state = .operational) (ha : s.AsksWrite p idx sub v) (hlook : lookup idx sub = some e)
    (hm : ∀ r : Req, r.isWrite idx sub v → mine r = true) (hdom : e.type ≠ .domain) (hacc : e.access.writable .operational = true)
    (hgov : ∀ f, governs idx sub = some f → s.hw.feature f = true) (hpool : idx ≠ 0x4001) (hrange : e.lo ≤ v ∧ v ≤ e.hi) :
    s.Takes p idx sub v mine e :=
  ⟨hl, ha, hlook, hm, hdom, s.hw.serves_write _ (.inr (.inl he)), by rw [he]; exact hacc,
    fun f hf => (s.hw.featureForWrites_of_operational f he).trans (hgov f hf), fun hi => absurd hi hpool, hrange⟩

/-! ## A DOMAIN WRITE -/

/-- A WRITE of a DOMAIN entry that nothing refuses before its length is its owner's, after the stale staged value is gone. -/
theorem State.carryOut_domain (x : State) (r : Req) (e : Entry) (obj : Nat) (y : State) (hlook : lookup r.idx r.sub = some e)
    (hb : r.bad = false) (hop : r.op = 1) (hserve : x.hw.serves 1 r.idx = true) (hdom : e.type = .domain) (hobj : x.hw.objOf r.path e.sel = obj)
    (hy : y = { x with hw := x.hw.endStaged r.path (domKey r.idx r.sub obj) (r.offset % 2 ^ 31) }) (hbar : y.writeBar r e obj = .ok) :
    x.carryOut r = (.of (y.writeDomain r obj).1, (y.writeDomain r obj).2) := by
  have hfind : x.find r = (.ok, e) := by
    unfold State.find
    simp only [hlook, hb, hop, hserve]
    rfl
  subst hobj hy
  unfold State.carryOut
  simp only [hfind, hop, if_pos hdom, hbar, ne_eq, not_true_eq_false, if_false]
  unfold State.writeEntry
  rw [if_pos hdom]

/-- What a DOMAIN entry's WRITE of a path is allowed to be. -/
structure Req.isSegment (r : Req) (p : Path) (idx sub : Nat) : Prop where
  path : r.path = p
  good : r.bad = false
  op   : r.op = 1
  idx  : r.idx = idx
  sub  : r.sub = sub

theorem Hw.staged_frame (h : Hw) (p : Path) (key n : Nat) :
    (h.endStaged p key n).eng = h.eng ∧ (h.endStaged p key n).od = h.od ∧ (h.endStaged p key n).side = h.side ∧
      (h.endStaged p key n).faults = h.faults := by
  unfold Hw.endStaged
  split <;> exact ⟨rfl, rfl, rfl, rfl⟩

/-- A WRITE of a DOMAIN entry of no object: what its owner's rules make of it is what the command leaves and answers. -/
theorem State.domain_served (s : State) (p : Path) (r : Req) (mine : Req → Bool) (e : Entry) (idx sub : Nat) (y t : State) (st : Status)
    (hl : s.Ready) (hden : p = .ddp → s.hw.featureForWrites 11 = true) (hroom : s.ImageRoom p) (hr : s.request? p = some r)
    (hseg : r.isSegment p idx sub) (hm : mine r = true) (hlook : lookup idx sub = some e) (hdom : e.type = .domain)
    (hpool : idx ≠ 0x4001) (hserve : s.hw.serves 1 idx = true) (hacc : e.access.writable s.hw.eng.state = true)
    (hgov : ∀ f, governs idx sub = some f → s.hw.featureForWrites f = true)
    (hy : y = { s.begun p with
      hw := (s.begun p).hw.endStaged p (domKey idx sub (s.hw.objOf p e.sel)) (r.offset % 2 ^ 31) })
    (ho : y.writeDomain r (s.hw.objOf p e.sel) = (st, t)) (hwin : t.win = s.win) (hside : t.hw.side = s.hw.side) (hf : t.hw.faults = [])
    (heng : t.hw.eng.state = .operational → s.hw.eng.state = .operational) :
    Served s (s.serve p mine) p (.of st, t) ∧ s.Answered (s.serve p mine) st p := by
  obtain ⟨hp, hb, hop, hi, hs⟩ := hseg
  obtain ⟨hye, hyo, -, -⟩ := (s.begun p).hw.staged_frame p (domKey idx sub (s.hw.objOf p e.sel)) (r.offset % 2 ^ 31)
  have hyw : y.hw.eng = s.hw.eng ∧ y.hw.od = s.hw.od := by rw [hy]; exact ⟨hye, hyo⟩
  have hffw : ∀ f, y.hw.featureForWrites f = s.hw.featureForWrites f := fun f => by
    unfold Hw.featureForWrites Hw.feature Hw.get Hw.getAt Hw.raw
    rw [hyw.1, hyw.2]
  have hd : y.hw.denied r = false := by
    unfold Hw.denied
    cases p with
    | window => simp [hp]
    | ddp => simp [hffw, hden rfl]
  have hbar : y.writeBar r e (s.hw.objOf p e.sel) = .ok := by
    refine y.writeBar_ok r e _ hd (by rw [hyw.1]; exact hacc) fun f hg => ?_
    rw [Hw.governor_eq _ _ _ (fun h => hpool (hi ▸ h.1)), hi, hs] at hg
    rw [hffw]
    exact hgov f hg
  have hc := (s.begun p).carryOut_domain r e (s.hw.objOf p e.sel) y (by rw [hi, hs]; exact hlook) hb hop (by rw [hi]; exact hserve) hdom
    (by rw [hp]; rfl) (by rw [hy, hp, hi, hs]) hbar
  rw [ho] at hc
  have h1 := s.serve_served p mine r hl hroom hr hm (by rw [hc]; exact hf) (by rw [hc]; exact heng)
  have h2 := s.serve_answered p mine r hl hroom hr hm (by rw [hc]; exact hf) (by rw [hc]; exact heng) (by rw [hc]; exact hwin)
    (by rw [hc]; exact hside)
  rw [hc] at h1 h2
  exact ⟨h1, h2⟩

/-- A value taken in whole by a committing segment is its owner's. -/
theorem State.takeValue_commit (s : State) (r : Req) (obj : Nat) (x : Snap) (hb : r.offset.testBit 31 = true) :
    s.takeValue r obj x = (((s.hw.dropStaged r.path).ownDomain r.idx r.sub obj x.bytes).1,
      { s with hw := ((s.hw.dropStaged r.path).ownDomain r.idx r.sub obj x.bytes).2 }) := by
  unfold State.takeValue
  exact if_pos hb

/-- The island on which a path's committed value is taken: nothing staged on the path. -/
def State.unstaged (s : State) (p : Path) : Hw := ((s.begun p).hw.dropStaged p).dropStaged p

/-- A WRITE that carries a DOMAIN entry's whole value and commits it is its owner's. -/
theorem State.commit_served (s : State) (p : Path) (idx sub : Nat) (l : List Byte) (mine : Req → Bool) (e : Entry) (st : Status) (h : Hw)
    (hl : s.Ready) (ha : s.AsksCommit p idx sub l) (hlook : lookup idx sub = some e)
    (hm : ∀ r : Req, r.isSegment p idx sub → r.offset.testBit 31 = true → mine r = true)
    (hdom : e.type = .domain) (hpool : idx ≠ 0x4001) (hserve : s.hw.serves 1 idx = true) (hacc : e.access.writable s.hw.eng.state = true)
    (hgov : ∀ f, governs idx sub = some f → s.hw.featureForWrites f = true)
    (ho : (s.unstaged p).ownDomain idx sub (s.hw.objOf p e.sel) l = (st, h)) (hside : h.side = s.hw.side) (hf : h.faults = [])
    (heng : h.eng.state = .operational → s.hw.eng.state = .operational) :
    Served s (s.serve p mine) p (.of st, { s.begun p with hw := h }) ∧ s.Answered (s.serve p mine) st p := by
  obtain ⟨hden, hroom, r, hr, hp, hb, hop, hi, hs, hoff, hlen, hdata⟩ := ha
  have hseg : r.isSegment p idx sub := ⟨hp, hb, hop, hi, hs⟩
  have hbit : r.offset.testBit 31 = true := by rw [hoff]; decide
  have hat : r.offset % 2 ^ 31 = 0 := by rw [hoff]; exact Nat.mod_self _
  refine s.domain_served p r mine e idx sub { s.begun p with hw := (s.begun p).hw.dropStaged p } _ st hl hden hroom hr hseg (hm r hseg hbit)
    hlook hdom hpool hserve hacc hgov ?_ ?_ rfl hside hf heng
  · unfold Hw.endStaged
    rw [if_pos (.inl hat)]
  · unfold State.writeDomain
    dsimp only
    rw [if_neg (by rw [hp]; omega), if_pos hat, State.takeValue_commit _ _ _ _ hbit, hp, hi, hs, hdata]
    exact congrArg (fun o : Status × Hw => (o.1, ({ s.begun p with hw := o.2 } : State))) ho

end Sys2Proof.Machine

/-! PROOFS. R252 and R278: mask slots and shape tables. -/

namespace Sys2Proof.Machine

open Sys2Proof

/-! ## Loads -/

theorem Hw.unless_false (h : Hw) (bad : Bool) (st : Status) (go : Status × Hw) (hb : bad = false) : h.unless bad st go = go := by
  rw [hb]
  rfl

theorem Hw.unless_true (h : Hw) (bad : Bool) (st : Status) (go : Status × Hw) (hb : bad = true) : h.unless bad st go = (st, h) := by
  rw [hb]
  rfl

/-- The island after a shape table was stored. -/
def Hw.shaped (h : Hw) (k : Nat) (l : List Byte) : Hw := (h.setDomain 0x7210 (k + 1) 0 l).set 0x7211 1 (setBit (h.raw 0x7211 1) k)

theorem Hw.writeShape_valid (h : Hw) (k : Nat) (l : List Byte) (hl : validShape l = true) : h.writeShape k l = (.ok, h.shaped k l) :=
  h.unless_false _ _ _ (by rw [hl]; rfl)

theorem Hw.writeShape_invalid (h : Hw) (k : Nat) (l : List Byte) (hl : validShape l = false) : h.writeShape k l = (.range, h) :=
  h.unless_true _ _ _ (by rw [hl]; rfl)

/-- The island after a mask was loaded into its slot. -/
def Hw.masked (h : Hw) (m : Nat) (l : List Byte) : Hw :=
  ((({ h with smp := { h.smp with masks := Map.insert h.smp.masks m l } } : Hw).set 0x7041 1 (setBit (h.raw 0x7041 1) m)).set 0x7042 1
    (setBit (h.raw 0x7042 1) m))

theorem Hw.writeMask_length (h : Hw) (m : Nat) (l : List Byte) (hl : l.length ≠ 131072) : h.writeMask m l = (.length, h) :=
  h.unless_true _ _ _ (by simpa using hl)

theorem Hw.writeMask_whole (h : Hw) (m : Nat) (l : List Byte) (hl : l.length = 131072)
    (hn : ((h.seqs.any fun e => e.2.com.sampling.maskOn && e.2.com.sampling.maskSlot == m) && (h.raw 0x7042 1).testBit m) = false) :
    h.writeMask m l = (.ok, h.masked m l) := by
  refine (h.unless_false _ _ _ (by simp [hl])).trans ?_
  exact h.unless_false _ _ _ hn

/-! ## Their entries -/

def shapeEntry : Entry := ⟨0x7210, 1, 16, .domain, .rw, true, 0, 0, .none⟩
def maskEntry : Entry := ⟨0x7040, 1, 16, .domain, .rw, false, 0, 0, .none⟩

theorem lookup_shape : ∀ m : Fin 16, lookup 0x7210 (m + 1) = some shapeEntry := by decide +kernel
theorem lookup_mask : ∀ m : Fin 16, lookup 0x7040 (m + 1) = some maskEntry := by decide +kernel

theorem governs_shape (m : Nat) : governs 0x7210 m = some 0 := rfl
theorem governs_mask (m : Nat) : governs 0x7040 m = none := by
  have hs : ∀ g ∈ governedSubs, g.1 ≠ 0x7040 := by decide
  have hsub : (governedSubs.find? fun g => g.1 == 0x7040 && g.2.1 == m) = none :=
    List.find?_eq_none.mpr fun g hg => by simp [hs g hg]
  unfold governs
  rw [hsub]
  rfl

/-- A WRITE's segment that commits is of a committing command's kind. -/
theorem Req.isSegment.commits {r : Req} {p : Path} {idx sub : Nat} (h : r.isSegment p idx sub) (hb : r.offset.testBit 31 = true) :
    r.commits idx = true := by
  obtain ⟨-, hgood, hop, hi, -⟩ := h
  simp [Req.commits, Req.writes, hgood, hop, hi, hb]

theorem domKey_zero (idx sub : Nat) : domKey idx sub 0 = odKey idx sub 0 := by
  simp [domKey]

/-- A path's live staged value is kept by the segment that follows it. -/
theorem Hw.endStaged_follows (h : Hw) (p : Path) (key n : Nat) (x : Snap) (hx : h.liveStaged p key = some x) (hn : n ≠ 0) :
    h.endStaged p key n = h := by
  unfold Hw.endStaged
  rw [hx]
  exact if_neg (by simp [hn])

/-- Settles O9: a table that its owner's rules take is stored, and another leaves slots and tables as they were. -/
theorem tableLoads : Obligations.TableLoads := by
  unfold Obligations.TableLoads
  intro s p m l hr he
  have hop : s.hw.eng.state = .operational → s.hw.eng.state = .operational := id
  have hserve : ∀ idx, s.hw.serves 1 idx = true := fun idx => s.hw.serves_write idx (.inr (.inl he))
  obtain ⟨-, -, -, hfaults⟩ := hr.quiet
  have hm : ∀ idx sub, ∀ r : Req, r.isSegment p idx sub → r.offset.testBit 31 = true → r.commits idx = true := fun _ _ _ h hb => h.commits hb
  have hshape : ∀ st h, s.AsksCommit p 0x7210 (m + 1) l → s.hw.feature 0 = true → (s.unstaged p).writeShape m l = (st, h) →
      h.side = s.hw.side → h.faults = [] → h.eng.state = s.hw.eng.state →
      Served s (s.serve p fun r => r.commits 0x7210) p (.of st, { s.begun p with hw := h }) ∧
        s.Answered (s.serve p fun r => r.commits 0x7210) st p := fun st h ha hf hw hside hflt heng =>
    s.commit_served p 0x7210 (m + 1) l _ shapeEntry st h hr ha (lookup_shape m) (hm _ _) rfl (by decide) (hserve _) (by rfl)
      (fun f hg => by rw [governs_shape] at hg; cases hg; rw [s.hw.featureForWrites_of_operational _ he]; exact hf) hw hside hflt
      (fun hx => heng ▸ hx)
  refine ⟨fun ha hf hv => ?_, fun ha hf hv => ?_, fun ha hlen => ?_, ?_⟩
  · obtain ⟨hs, hans⟩ := hshape _ _ ha hf ((s.unstaged p).writeShape_valid m l hv) rfl hfaults rfl
    have hkey : plainKey (odKey 0x7211 1 0) = true := by decide
    refine ⟨_, rfl, hans, ?_, ?_, hs.smp⟩
    · unfold Hw.domain
      rw [hs.dom]
      exact Map.getD_insert_self _ _ _ _
    · rw [hs.raw _ _ hkey]
      exact (congrArg (fun n : Nat => n.testBit m) (Hw.raw_set _ _ _ _)).trans (testBit_setBit _ _)
  · obtain ⟨hs, hans⟩ := hshape _ _ ha hf ((s.unstaged p).writeShape_invalid m l hv) rfl hfaults rfl
    exact ⟨_, rfl, hans, hs.dom, hs.raw _ _ (by decide)⟩
  · obtain ⟨hs, hans⟩ := s.commit_served p 0x7040 (m + 1) l _ maskEntry _ _ hr ha (lookup_mask m) (hm _ _) rfl (by decide) (hserve _) (by rfl)
      (fun f hg => by rw [governs_mask] at hg; cases hg) ((s.unstaged p).writeMask_length m l hlen) rfl hfaults hop
    exact ⟨_, rfl, hans, hs.smp⟩
  · intro r x hden hroom hreq hp hb hopn hi hsub hbit hoff hat hlen hx hwhole hnamed
    have hseg : r.isSegment p 0x7040 (m + 1) := ⟨hp, hb, hopn, hi, hsub⟩
    have hlive : (s.begun p).hw.liveStaged p (domKey 0x7040 (m + 1) (s.hw.objOf p maskEntry.sel)) = some x :=
      (congrArg (s.hw.liveStaged p) (domKey_zero 0x7040 (m + 1))).trans hx
    have hwl : (x.bytes ++ r.data).length = 131072 := List.length_append.trans hwhole
    have hmask := Hw.writeMask_whole ((s.begun p).hw.dropStaged p) m (x.bytes ++ r.data) hwl hnamed
    obtain ⟨hs, hans⟩ := s.domain_served p r (fun r => r.commits 0x7040) maskEntry 0x7040 (m + 1) (s.begun p)
      { s.begun p with hw := ((s.begun p).hw.dropStaged p).masked m (x.bytes ++ r.data) } .ok hr hden hroom hreq hseg (hseg.commits hbit)
      (lookup_mask m) rfl (by decide) (hserve _) (by rfl) (fun f hg => by rw [governs_mask] at hg; cases hg)
      (by rw [Hw.endStaged_follows _ _ _ _ x hlive hoff])
      (by
        unfold State.writeDomain
        dsimp only
        rw [if_neg (by rw [hp]; omega), if_neg hoff, hp, hi, hsub, hlive]
        dsimp only
        rw [if_pos hat, State.takeValue_commit _ _ _ _ hbit, hp, hi, hsub]
        exact congrArg (fun o : Status × Hw => (o.1, ({ s.begun p with hw := o.2 } : State))) hmask)
      rfl rfl hfaults hop
    have hbits : ∀ n : Nat, (setBit n m).testBit m = true := fun n => testBit_setBit n m
    refine ⟨_, rfl, hans, ?_, ?_, ?_, fun k hk => ?_⟩
    · rw [hs.smp]
      exact Map.find?_insert_self _ _ _
    · rw [hs.raw _ _ (by decide)]
      refine (congrArg (fun n : Nat => n.testBit m) ((Hw.raw_set_ne _ _ _ _ _ _ (by decide)).trans (Hw.raw_set _ _ _ _))).trans (hbits _)
    · rw [hs.raw _ _ (by decide)]
      exact (congrArg (fun n : Nat => n.testBit m) (Hw.raw_set _ _ _ _)).trans (hbits _)
    · rw [hs.smp]
      exact Map.find?_insert_ne _ _ _ _ hk

end Sys2Proof.Machine

/-! PROOFS. R376, R380, R384, R387, R392, R393: background enables, firmware load, bins, triggers and the frozen window. -/

namespace Sys2Proof.Machine

open Sys2Proof

/-! ## What an answer leaves of observation -/

theorem Hw.find_countServed_ne (h : Hw) (st : Status) (k : Nat) (h1 : k ≠ odKey 0x2400 1 0) (h2 : k ≠ odKey 0x2400 2 0) :
    Map.find? (h.countServed st).od k = Map.find? h.od k := by
  have hinc : Map.find? (h.inc 0x2400 1).od k = Map.find? h.od k := Map.find?_insert_ne _ _ _ _ h1
  unfold Hw.countServed
  dsimp only
  split
  · exact hinc
  · exact (Map.find?_insert_ne _ _ _ _ h2).trans hinc

theorem Hw.watch_countServed (h : Hw) (st : Status) : (h.countServed st).trace = h.trace ∧ (h.countServed st).events = h.events := by
  unfold Hw.countServed
  dsimp only
  split <;> exact ⟨rfl, rfl⟩

theorem Hw.watch_pulse (h : Hw) (v : Nat) : (h.pulse v).trace = h.trace ∧ (h.pulse v).events = h.events := by
  unfold Hw.pulse
  split <;> exact ⟨rfl, rfl⟩

theorem Hw.watch_ddpAnswer (h : Hw) (who : Nat) (l : List Byte) : (h.ddpAnswer who l).trace = h.trace ∧ (h.ddpAnswer who l).events = h.events := by
  unfold Hw.ddpAnswer Hw.signal
  split <;> exact ⟨rfl, rfl⟩

/-- An answer makes no record, fires no trigger and raises no event. -/
theorem State.replied_watch (s : State) (p : Path) (o : Reply × State) (h : p = .ddp → s.hw.side.requests ≠ []) :
    (s.replied p o).hw.trace = o.2.hw.trace ∧ (s.replied p o).hw.events = o.2.hw.events := by
  unfold State.replied
  cases p with
  | window =>
    obtain ⟨h1, h2⟩ := (o.2.hw.countServed o.1.status).watch_pulse (o.2.hw.raw 0x1020 1)
    obtain ⟨h3, h4⟩ := o.2.hw.watch_countServed o.1.status
    exact ⟨h1.trans h3, h2.trans h4⟩
  | ddp =>
    dsimp only
    split
    · exact absurd ‹_› (h rfl)
    · rename_i who l rest _
      obtain ⟨h1, h2⟩ := ((o.2.hw.modSide fun x => { x with requests := rest }).countServed o.1.status).watch_ddpAnswer who (ddpResponse l o.1)
      obtain ⟨h3, h4⟩ := (o.2.hw.modSide fun x => { x with requests := rest }).watch_countServed o.1.status
      exact ⟨h1.trans h3, h2.trans h4⟩

/-- An answer changes no value but the counts of requests. -/
theorem State.replied_find (s : State) (p : Path) (o : Reply × State) (h : p = .ddp → s.hw.side.requests ≠ []) (k : Nat)
    (h1 : k ≠ odKey 0x2400 1 0) (h2 : k ≠ odKey 0x2400 2 0) : Map.find? (s.replied p o).hw.od k = Map.find? o.2.hw.od k := by
  unfold State.replied
  cases p with
  | window =>
    show Map.find? ((o.2.hw.countServed o.1.status).pulse _).od k = _
    rw [Hw.od_pulse, Hw.find_countServed_ne _ _ _ h1 h2]
  | ddp =>
    dsimp only
    split
    · exact absurd ‹_› (h rfl)
    · show Map.find? (Hw.ddpAnswer _ _ _).od k = _
      rw [Hw.od_ddpAnswer, Hw.find_countServed_ne _ _ _ h1 h2]
      rfl

section
variable {s : State} {p : Path} {idx sub v : Nat} {mine : Req → Bool} {e : Entry}

/-- A taken WRITE that is idle leaves every value but the counts of requests and of events as its owner's rules do. -/
theorem State.Takes.idle_find (h : s.Takes p idx sub v mine e) {st : Status} {t : State}
    (ho : (s.begun p).ownScalar idx sub (s.hw.objOf p e.sel) v = (st, t)) (hf : t.hw.faults = [])
    (he : t.hw.eng.state = .operational → s.hw.eng.state = .operational) (hi : t.hw.Idle) (k : Nat) (h1 : k ≠ odKey 0x2400 1 0)
    (h2 : k ≠ odKey 0x2400 2 0) (h3 : k ≠ odKey 0xC004 1 0) : Map.find? (s.serve p mine).hw.od k = Map.find? t.hw.od k := by
  obtain ⟨hd, heq⟩ := h.serve_eq ho hf he
  obtain ⟨htr, hev⟩ := (s.begun p).replied_watch p (.of st, t) hd
  have hidle : ((s.begun p).replied p (.of st, t)).hw.Idle :=
    ⟨by rw [hev]; exact hi.raised, by rw [htr]; exact hi.made, by rw [htr]; exact hi.fired⟩
  rw [heq, Hw.settle_of_idle_find? _ _ hidle _ h3]
  exact State.replied_find _ _ _ hd _ h1 h2

/-- The trace after it. -/
theorem State.Takes.idle_trace (h : s.Takes p idx sub v mine e) {st : Status} {t : State}
    (ho : (s.begun p).ownScalar idx sub (s.hw.objOf p e.sel) v = (st, t)) (hf : t.hw.faults = [])
    (he : t.hw.eng.state = .operational → s.hw.eng.state = .operational) (hi : t.hw.Idle) :
    (s.serve p mine).hw.trace = { t.hw.trace with made := [], fired := [] } := by
  obtain ⟨hd, heq⟩ := h.serve_eq ho hf he
  obtain ⟨htr, hev⟩ := (s.begun p).replied_watch p (.of st, t) hd
  have hidle : ((s.begun p).replied p (.of st, t)).hw.Idle :=
    ⟨by rw [hev]; exact hi.raised, by rw [htr]; exact hi.made, by rw [htr]; exact hi.fired⟩
  rw [heq, Hw.settle_of_idle_trace _ _ hidle, htr]

end

/-! ## Triggers -/

/-- A record of the trace changes the trace's two counts alone. -/
theorem Hw.find_traceTake (h : Hw) (ty u : Nat) (f : Option Nat) (l : List Byte) (k : Nat) (h1 : k ≠ odKey 0xB035 1 0) (h2 : k ≠ odKey 0xB036 1 0) :
    Map.find? (h.traceTake ty u f l).od k = Map.find? h.od k := by
  have hinc : ∀ g : Hw, Map.find? (g.inc 0xB036 1).od k = Map.find? g.od k := fun g => Map.find?_insert_ne _ _ _ _ h2
  have hfrozen : ∀ g : Hw, Map.find? g.frozenGap.od k = Map.find? g.od k := fun g =>
    (Map.find?_insert_ne _ _ _ _ h1).trans (hinc g)
  have hgap : Map.find? h.traceGap.od k = Map.find? h.od k := by
    unfold Hw.traceGap
    dsimp only
    split
    · rfl
    · exact Map.find?_insert_ne _ _ _ _ h1
  unfold Hw.traceTake
  dsimp only
  split
  · exact hinc h
  · split
    · exact hfrozen h
    · split
      · exact hinc h
      · split
        · exact (hfrozen _).trans hgap
        · exact (Map.find?_insert_ne _ _ _ _ h1).trans hgap

/-- The record of a firing trigger changes the trace's counts and the frozen window alone. -/
theorem Hw.find_triggerRecord (h : Hw) (n k : Nat) (h1 : k ≠ odKey 0xB035 1 0) (h2 : k ≠ odKey 0xB036 1 0) (h3 : k ≠ odKey 0xB038 1 0) :
    Map.find? (h.triggerRecord n).od k = Map.find? h.od k := by
  unfold Hw.triggerRecord
  dsimp only
  split
  · exact h.find_traceTake _ _ _ _ k h1 h2
  · exact (Map.find?_insert_ne _ _ _ _ h3).trans (h.find_traceTake _ _ _ _ k h1 h2)

/-- The end of a command that has raised no event keeps what neither the trace nor the event numbers count. -/
theorem Hw.settle_unraised_find (b h : Hw) (k : Nat) (hr : h.events.raised = []) (h0 : k ≠ odKey 0xC004 1 0) (h1 : k ≠ odKey 0xB035 1 0)
    (h2 : k ≠ odKey 0xB036 1 0) (h3 : k ≠ odKey 0xB038 1 0) : Map.find? (Hw.settle b h).od k = Map.find? h.od k := by
  obtain ⟨l, hev⟩ := b.attachSnap_events h (h.raw 0xC004 1)
  have hraised : (b.attachSnap h (h.raw 0xC004 1)).events.raised = [] := by rw [hev]; exact hr
  have hsnap := b.attachSnap_find? h (h.raw 0xC004 1) k h0
  unfold Hw.settle
  rw [hr]
  dsimp only [sortBy, List.foldl_nil]
  generalize b.attachSnap h (h.raw 0xC004 1) = x at *
  rw [foldl_fixed _ x fun n => by rw [Hw.eventTrigger_of_idle x hraised]; rfl]
  refine (foldl_keeps (fun g : Hw => Map.find? g.od k) _ (fun g n => g.find_triggerRecord n k h1 h2 h3) _ _).trans ?_
  exact (foldl_keeps (fun g : Hw => Map.find? g.od k) _ (fun g r => g.find_traceTake _ _ _ _ k h1 h2) _ x).trans hsnap

theorem testBit_clearBit (n i : Nat) : (clearBit n i).testBit i = false := by
  unfold clearBit
  split
  · rename_i h
    have hle := Nat.ge_two_pow_of_testBit h
    have hs : n = n - 2 ^ i + 2 ^ i := by omega
    rw [hs, Nat.add_comm, Nat.testBit_two_pow_add_eq] at h
    simpa using h
  · rename_i h
    exact Bool.eq_false_iff.mpr h

/-! ## The entries -/

/-- A line of the dictionary that the driver writes. -/
def drivenEntry (idx sub count : Nat) (ty : EntryType) (a : Access) (isP : Bool) (hi : Nat) : Entry := ⟨idx, sub, count, ty, a, isP, 0, hi, .none⟩

theorem lookup_background : ∀ k : Fin 6, lookup 0xA050 (k + 1) = some (drivenEntry 0xA050 1 6 .bool .rw true 1) := by decide +kernel
theorem lookup_fwLoad : lookup 0xA063 1 = some (drivenEntry 0xA063 1 1 .bool .wo false 1) := by decide +kernel
theorem lookup_countsClear : lookup 0xB002 1 = some (drivenEntry 0xB002 1 1 .bool .wo false 1) := by decide +kernel
theorem lookup_binFilter : ∀ b : Fin 64, lookup 0xB020 (b + 1) = some (drivenEntry 0xB020 1 64 .u64 .rw true (2 ^ 64 - 1)) := by decide +kernel
theorem lookup_triggerFire : lookup 0xB042 1 = some (drivenEntry 0xB042 1 1 .u8 .wo false 7) := by decide +kernel
theorem lookup_unfreeze : lookup 0xB039 1 = some (drivenEntry 0xB039 1 1 .bool .wo false 1) := by decide +kernel

theorem Req.isWrite.writes {r : Req} {idx sub v : Nat} (h : r.isWrite idx sub v) : r.writes idx = true := by
  obtain ⟨hb, hop, hi, -⟩ := h
  simp [Req.writes, hb, hop, hi]

theorem Req.isWrite.writesValue {r : Req} {idx sub v : Nat} (h : r.isWrite idx sub v) : r.writesValue idx v = true := by
  obtain ⟨-, -, -, -, -, -, hv⟩ := id h
  simp [Req.writesValue, h.writes, hv]

/-- No feature governs an entry that Table 5.12 does not list. -/
theorem governs_none {idx sub : Nat} (h1 : ∀ g ∈ governed, idx < g.1 ∨ g.2.1 < idx) (h2 : ∀ g ∈ governedSubs, g.1 ≠ idx) :
    governs idx sub = none := by
  have hg : (governed.find? fun g => decide (g.1 ≤ idx) && decide (idx ≤ g.2.1)) = none := by
    refine List.find?_eq_none.mpr fun g hm => ?_
    have := h1 g hm
    simp only [Bool.and_eq_true, decide_eq_true_eq]
    omega
  have hs : (governedSubs.find? fun g => g.1 == idx && g.2.1 == sub) = none :=
    List.find?_eq_none.mpr fun g hm => by simp [h2 g hm]
  unfold governs
  rw [hg, hs]
  rfl

theorem governs_countsClear : governs 0xB002 1 = none := by decide
theorem governs_fwLoad : governs 0xA063 1 = none := by decide

/-! ## Background tasks, counts and bins -/

theorem Hw.bgEnable_off (h : Hw) (k : Nat) (hk : (h.task k).state = 0) : h.bgEnable k 1 = (h.set 0xA050 (k + 1) 1).bgStart k := by
  unfold Hw.bgEnable
  rw [hk]
  rfl

theorem Hw.bgEnable_running (h : Hw) (k : Nat) (hk : (h.task k).state = 1) :
    h.bgEnable k 0 = (h.set 0xA050 (k + 1) 0).modTask k fun x => { x with state := 2, pending := false } := by
  unfold Hw.bgEnable
  rw [hk]
  rfl

theorem Hw.fwLoad_config (h : Hw) (he : h.eng.state = .config) : h.fwLoad 1 = (.ok, (h.set 0xA064 1 1).readImage) := by
  unfold Hw.fwLoad
  rw [if_neg (not_not_intro he), if_neg (by decide)]

theorem Hw.fwLoad_refused (h : Hw) (he : h.eng.state ≠ .config) : h.fwLoad 1 = (.state, h) := if_pos he

/-- Reading the firmware image is the memory port's. -/
theorem Hw.sameButMem_readImage (h : Hw) : Hw.SameButMem h.readImage h := by
  unfold Hw.readImage
  dsimp only
  generalize List.range (ceilDiv (h.raw 0xA061 1) 4096) = l
  suffices hs : ∀ (l : List Nat) (a : Hw), Hw.SameButMem a h → Hw.SameButMem (l.foldl (fun a i =>
      a.memPost false (h.raw 0xA060 1 + 4096 * i) (ceilDiv (min 4096 (h.raw 0xA061 1 - 4096 * i)) 64) [] .start none .startRead) a) h from
    hs l h (.refl h)
  intro l
  induction l with
  | nil => exact fun a ha => ha
  | cons i r ih => exact fun a ha => ih _ ((Hw.sameButMem_memPost a ..).trans ha)

/-- A value stays 0 where values are set to 0. -/
theorem Hw.getAt_setAt_zero (h : Hw) (i s o j t u : Nat) (h0 : h.getAt i s o = 0) : (h.setAt j t u 0).getAt i s o = 0 := by
  by_cases hk : odKey i s o = odKey j t u
  · unfold Hw.getAt Hw.setAt
    dsimp only
    rw [hk, Map.find?_insert_self]
  · rw [Hw.getAt_setAt_ne _ _ _ _ _ _ _ _ hk, h0]

/-- Values that were set to 0 are 0. -/
theorem Hw.getAt_foldl_zero (idx sub : Nat) (l : List Nat) (h : Hw) (i : Nat) (hi : i ∈ l ∨ h.getAt idx sub i = 0) :
    (l.foldl (fun a j => a.setAt idx sub j 0) h).getAt idx sub i = 0 := by
  induction l generalizing h with
  | nil => exact hi.resolve_left List.not_mem_nil
  | cons j r ih =>
    refine ih _ ?_
    rcases hi with hi | hi
    · rcases List.mem_cons.mp hi with rfl | hi
      · exact .inr (Hw.getAt_setAt _ _ _ _ _)
      · exact .inl hi
    · exact .inr (h.getAt_setAt_zero _ _ _ _ _ _ hi)

/-- A bin after its filter was set: its totals are 0. -/
theorem Hw.binFilter_totals (h : Hw) (sub v : Nat) (i : Fin 5) : (h.binFilter sub v).getAt 0xB021 sub i = 0 :=
  Hw.getAt_foldl_zero 0xB021 sub (List.range 5) _ i (.inl (List.mem_range.mpr i.isLt))

theorem Hw.binFilter_raw (h : Hw) (sub v : Nat) (hs : sub < 256) : (h.binFilter sub v).raw 0xB020 sub = v := by
  have hk : ∀ (a : Hw) (i : Nat), (a.setAt 0xB021 sub i 0).raw 0xB020 sub = a.raw 0xB020 sub := fun a i =>
    Map.getD_insert_ne _ _ _ _ _ (odKey_idx_ne _ _ _ _ _ _ hs hs (by decide))
  unfold Hw.binFilter
  exact (foldl_keeps (fun a : Hw => a.raw 0xB020 sub) _ hk _ _).trans (Hw.raw_set _ _ _ _)

/-- Setting a bin's filter changes dictionary values alone. -/
theorem Hw.binFilter_eq (h : Hw) (sub v : Nat) : ∃ m, h.binFilter sub v = { h with od := m } := by
  unfold Hw.binFilter
  suffices hs : ∀ (l : List Nat) (a : Hw), (∃ m, a = { h with od := m }) → ∃ m, l.foldl (fun a i => a.setAt 0xB021 sub i 0) a = { h with od := m } from
    hs _ _ ⟨_, rfl⟩
  intro l
  induction l with
  | nil => exact fun a ha => ha
  | cons i r ih =>
    rintro a ⟨m, rfl⟩
    exact ih _ ⟨_, rfl⟩

/-! ## What the requests leave -/

theorem State.ownScalar_background (s : State) (k obj v : Nat) :
    s.ownScalar 0xA050 (k + 1) obj v = (.ok, { s with hw := s.hw.bgEnable k v }) := rfl
theorem State.ownScalar_fwLoad (s : State) (obj v : Nat) :
    s.ownScalar 0xA063 1 obj v = ((s.hw.fwLoad v).1, { s with hw := (s.hw.fwLoad v).2 }) := rfl
theorem State.ownScalar_countsClear (s : State) (obj v : Nat) :
    s.ownScalar 0xB002 1 obj v = (.ok, { s with hw := s.hw.countsClear v }) := rfl
theorem State.ownScalar_binFilter (s : State) (b obj v : Nat) :
    s.ownScalar 0xB020 b obj v = (.ok, { s with hw := s.hw.binFilter b (v % 2 ^ 49) }) := rfl
theorem State.ownScalar_triggerFire (s : State) (obj v : Nat) :
    s.ownScalar 0xB042 1 obj v = (.ok, { s with hw := s.hw.triggerFire v }) := rfl
theorem State.ownScalar_unfreeze (s : State) (obj v : Nat) :
    s.ownScalar 0xB039 1 obj v = (.ok, { s with hw := s.hw.traceUnfreeze v }) := rfl

theorem Hw.triggerFire_armed (h : Hw) (n : Nat) (ha : (h.raw 0xB040 (n + 1)).testBit 3 = true) (hk : h.raw 0xB040 (n + 1) % 8 = 1) :
    h.triggerFire n = h.fireTrigger n := if_pos ⟨ha, hk⟩

theorem Hw.traceUnfreeze_frozen (h : Hw) (hf : (h.raw 0xB038 1).testBit 63 = true) : h.traceUnfreeze 1 = h.unfreeze := if_pos ⟨rfl, hf⟩

/-- Closing a gap's count changes the trace alone. -/
theorem Hw.gapRewrite_cases (h : Hw) : ∃ tr, h.gapRewrite = { h with trace := tr } ∧ tr.made = h.trace.made ∧ tr.fired = h.trace.fired := by
  unfold Hw.gapRewrite
  split
  · exact ⟨_, rfl, rfl, rfl⟩
  · split
    · exact ⟨_, rfl, rfl, rfl⟩
    · exact ⟨_, rfl, rfl, rfl⟩

/-- Giving the frozen window up. -/
theorem Hw.unfreeze_spec (h : Hw) : ∃ tr, h.unfreeze = { h.set 0xB038 1 0 with trace := tr } ∧ tr.made = h.trace.made ∧
    tr.fired = h.trace.fired ∧ tr.gapIndex = none ∧ tr.gapCount = 0 := by
  obtain ⟨tr, he, hm, hf⟩ := h.gapRewrite_cases
  unfold Hw.unfreeze
  rw [he]
  exact ⟨{ tr with gapIndex := none, gapCount := 0, gapWritten := 0 }, rfl, hm, hf, rfl, rfl⟩

theorem Hw.find_fireTrigger (h : Hw) (n : Nat) (hn : n < 8) :
    Map.find? (h.fireTrigger n).od (odKey 0xB040 (n + 1) 0) = some (clearBit (h.raw 0xB040 (n + 1)) 3) := by
  have hk : odKey 0xB040 (n + 1) 0 ≠ odKey 0xB03A 1 0 := odKey_idx_ne _ _ _ _ _ _ (by omega) (by omega) (by decide)
  exact (Map.find?_insert_ne _ _ _ _ hk).trans (Map.find?_insert_self _ _ _)

/-- Settles O11: what each WRITE's owner makes of its value, which the end of the command keeps. -/
theorem backgroundAndObservation : Obligations.BackgroundAndObservation := by
  unfold Obligations.BackgroundAndObservation
  intro s p hr
  obtain ⟨hraised, hmade, hfired, hfaults⟩ := hr.quiet
  refine ⟨fun k ha hk he => ?_, fun k ha hk he => ?_, fun ha he => ?_, fun ha he => ?_, fun ha he => ?_, fun b v ha he => ?_,
    fun n ha he hf harm hkind => ?_, fun ha he hf hz => ?_⟩
  · have hg : governs 0xA050 (k + 1) = none := governs_none (by decide) (by decide)
    have ht := s.takes_operational p 0xA050 (k + 1) 1 (fun r => r.writesValue 0xA050 1) _ hr he ha (lookup_background k)
      (fun _ h => h.writesValue) nofun rfl (by simp [hg]) (by decide) ⟨Nat.zero_le _, Nat.le_refl _⟩
    have ho := (s.begun p).ownScalar_background k (s.hw.objOf p .none) 1
    rw [(s.begun p).hw.bgEnable_off k hk] at ho
    obtain ⟨hs, hans⟩ := ht.served ho rfl rfl hfaults id
    have htask : (s.serve p fun r => r.writesValue 0xA050 1).hw.task k = { Task.reset with sinceNs := s.hw.now } :=
      (hs.task k).trans (Hw.task_modTask _ _ _)
    exact ⟨_, rfl, hans, congrArg Task.state htask, congrArg Task.done htask, congrArg Task.sinceNs htask,
      (hs.get _ _ (plainKey_low _ _ (by omega) (by decide) (by decide))).trans (Hw.get_set _ _ _ _), hs.seqs, hs.facets⟩
  · have hg : governs 0xA050 (k + 1) = none := governs_none (by decide) (by decide)
    have ht := s.takes_operational p 0xA050 (k + 1) 0 (fun r => r.writesValue 0xA050 0) _ hr he ha (lookup_background k)
      (fun _ h => h.writesValue) nofun rfl (by simp [hg]) (by decide) ⟨Nat.zero_le _, Nat.zero_le _⟩
    have ho := (s.begun p).ownScalar_background k (s.hw.objOf p .none) 0
    rw [(s.begun p).hw.bgEnable_running k hk] at ho
    obtain ⟨hs, hans⟩ := ht.served ho rfl rfl hfaults id
    exact ⟨_, rfl, hans, (hs.task k).trans (Hw.task_modTask _ _ _),
      (hs.get _ _ (plainKey_low _ _ (by omega) (by decide) (by decide))).trans (Hw.get_set _ _ _ _), hs.seqs, hs.facets⟩
  · have ht : s.Takes p 0xA063 1 1 (fun r => r.writesValue 0xA063 1) (drivenEntry 0xA063 1 1 .bool .wo false 1) :=
      ⟨hr, ha, lookup_fwLoad, fun _ h => h.writesValue, nofun, s.hw.serves_write _ (.inl he), rfl,
        fun f hf => absurd (governs_fwLoad.symm.trans hf) nofun, fun h => absurd h (by decide), ⟨Nat.zero_le _, Nat.le_refl _⟩⟩
    have ho := (s.begun p).ownScalar_fwLoad (s.hw.objOf p .none) 1
    rw [(s.begun p).hw.fwLoad_config he] at ho
    have hi := ((s.begun p).hw.set 0xA064 1 1).sameButMem_readImage
    have hst : ((s.begun p).hw.set 0xA064 1 1).readImage.eng.state = .config := (congrArg Eng.state hi.eng).trans he
    obtain ⟨hs, hans⟩ := ht.served ho rfl hi.side (hi.faults.trans hfaults) (fun h => absurd (hst.symm.trans h) nofun)
    refine ⟨_, rfl, hans, ?_, hs.seqs.trans hi.seqs, hs.facets.trans hi.facets⟩
    exact (hs.raw _ _ (by decide)).trans ((hi.raw 0xA064 1 (by decide) (by decide)).trans (Hw.raw_set _ _ _ _))
  · have ht := s.takes_operational p 0xA063 1 1 (fun r => r.writesValue 0xA063 1) _ hr he ha lookup_fwLoad
      (fun _ h => h.writesValue) nofun rfl (fun f h => absurd (governs_fwLoad.symm.trans h) nofun) (by decide) ⟨Nat.zero_le _, Nat.le_refl _⟩
    have ho := (s.begun p).ownScalar_fwLoad (s.hw.objOf p .none) 1
    rw [(s.begun p).hw.fwLoad_refused (fun h : s.hw.eng.state = .config => absurd (he.symm.trans h) nofun)] at ho
    obtain ⟨hs, hans⟩ := ht.served ho rfl rfl hfaults id
    exact ⟨_, rfl, hans, hs.raw _ _ (by decide)⟩
  · have ht := s.takes_operational p 0xB002 1 1 (fun r => r.writesValue 0xB002 1) _ hr he ha lookup_countsClear
      (fun _ h => h.writesValue) nofun rfl (fun f h => absurd (governs_countsClear.symm.trans h) nofun) (by decide) ⟨Nat.zero_le _, Nat.le_refl _⟩
    have ho := (s.begun p).ownScalar_countsClear (s.hw.objOf p .none) 1
    obtain ⟨hs, hans⟩ := ht.served ho rfl rfl hfaults id
    have htrace := ht.idle_trace ho hfaults id ⟨hraised, hmade, hfired⟩
    exact ⟨_, rfl, hans, by rw [htrace]; rfl, hs.seqs, hs.facets⟩
  · have hv : v < 2 ^ 64 := by
      have hlt := ha.value_lt
      rw [sizeOf, lookup_binFilter] at hlt
      exact hlt
    have hg : governs 0xB020 (b + 1) = none := governs_none (by decide) (by decide)
    have ht := s.takes_operational p 0xB020 (b + 1) v (fun r => r.writes 0xB020) _ hr he ha (lookup_binFilter b)
      (fun _ h => h.writes) nofun rfl (by simp [hg]) (by decide) ⟨Nat.zero_le _, Nat.le_sub_one_of_lt hv⟩
    have ho := (s.begun p).ownScalar_binFilter (b + 1) (s.hw.objOf p .none) v
    obtain ⟨m, hm⟩ := (s.begun p).hw.binFilter_eq (b + 1) (v % 2 ^ 49)
    have hraw := (s.begun p).hw.binFilter_raw (b + 1) (v % 2 ^ 49) (by omega)
    have htot := (s.begun p).hw.binFilter_totals (b + 1) (v % 2 ^ 49)
    rw [hm] at ho hraw htot
    obtain ⟨hs, hans⟩ := ht.served ho rfl rfl hfaults id
    have hkey : ∀ i j o, i ≠ 0x2400 ∧ i ≠ 0xC004 → j < 256 → Map.find? (s.serve p fun r => r.writes 0xB020).hw.od (odKey i j o) =
        Map.find? m (odKey i j o) := fun i j o hi hj =>
      ht.idle_find ho hfaults id ⟨hraised, hmade, hfired⟩ (odKey i j o) (odKey_idx_ne _ _ _ _ _ _ hj (by decide) hi.1)
        (odKey_idx_ne _ _ _ _ _ _ hj (by decide) hi.1) (odKey_idx_ne _ _ _ _ _ _ hj (by decide) hi.2)
    refine ⟨_, rfl, hans, ?_, fun i => ?_, hs.seqs, hs.facets⟩
    · exact (congrArg (fun o : Option Nat => o.getD 0) (hkey 0xB020 (b + 1) 0 (by decide) (by omega))).trans hraw
    · refine Eq.trans ?_ (htot i)
      unfold Hw.getAt
      rw [hkey 0xB021 (b + 1) i (by decide) (by omega)]
  · have hg : governs 0xB042 1 = some 10 := rfl
    have ht := s.takes_operational p 0xB042 1 n (fun r => r.writes 0xB042) _ hr he ha lookup_triggerFire
      (fun _ h => h.writes) nofun rfl (fun f h => by rw [hg] at h; cases h; exact hf) (by decide) ⟨Nat.zero_le _, Nat.le_of_lt_succ n.isLt⟩
    have ho := (s.begun p).ownScalar_triggerFire (s.hw.objOf p .none) n
    rw [(s.begun p).hw.triggerFire_armed n harm hkind] at ho
    obtain ⟨hs, hans⟩ := ht.served ho rfl rfl hfaults id
    obtain ⟨hd, heq⟩ := ht.serve_eq ho hfaults id
    have hne : ∀ i j, i ≠ 0xB040 → j < 256 → odKey 0xB040 (n + 1) 0 ≠ odKey i j 0 := fun i j hi hj =>
      odKey_idx_ne _ _ _ _ _ _ (by omega) hj (Ne.symm hi)
    have hrep := (s.begun p).replied_watch p (.of .ok, { s.begun p with hw := (s.begun p).hw.fireTrigger n }) hd
    have hfind := (Hw.settle_unraised_find (s.hw.started (s.servePart p)) _ (odKey 0xB040 (n + 1) 0)
      ((congrArg Events.raised hrep.2).trans hraised) (hne _ _ (by decide) (by decide)) (hne _ _ (by decide) (by decide))
      (hne _ _ (by decide) (by decide)) (hne _ _ (by decide) (by decide))).trans
      ((s.begun p).replied_find p (.of .ok, { s.begun p with hw := (s.begun p).hw.fireTrigger n }) hd _
        (hne _ _ (by decide) (by decide)) (hne _ _ (by decide) (by decide)))
    have hraw := congrArg (fun o : Option Nat => (o.getD 0).testBit 3) (hfind.trans ((s.begun p).hw.find_fireTrigger n n.isLt))
    refine ⟨_, rfl, hans, ?_, hs.seqs, hs.facets⟩
    unfold Hw.raw
    rw [heq]
    exact hraw.trans (testBit_clearBit _ _)
  · have hg : governs 0xB039 1 = some 10 := rfl
    have ht := s.takes_operational p 0xB039 1 1 (fun r => r.writesValue 0xB039 1) _ hr he ha lookup_unfreeze
      (fun _ h => h.writesValue) nofun rfl (fun f h => by rw [hg] at h; cases h; exact hf) (by decide) ⟨Nat.zero_le _, Nat.le_refl _⟩
    have ho := (s.begun p).ownScalar_unfreeze (s.hw.objOf p .none) 1
    obtain ⟨tr, htr, htm, htf, hgi, hgc⟩ := (s.begun p).hw.unfreeze_spec
    rw [(s.begun p).hw.traceUnfreeze_frozen hz, htr] at ho
    obtain ⟨hs, hans⟩ := ht.served ho rfl rfl hfaults id
    have hidle : ({ (s.begun p).hw.set 0xB038 1 0 with trace := tr } : Hw).Idle := ⟨hraised, htm.trans hmade, htf.trans hfired⟩
    have htrace := ht.idle_trace ho hfaults id hidle
    have hfind := ht.idle_find ho hfaults id hidle (odKey 0xB038 1 0) (by decide) (by decide) (by decide)
    refine ⟨_, rfl, hans, by rw [htrace]; exact hgi, by rw [htrace]; exact hgc, ?_, hs.seqs, hs.facets⟩
    exact (congrArg (fun o : Option Nat => o.getD 0) hfind).trans (Hw.raw_set (s.begun p).hw 0xB038 1 0)

end Sys2Proof.Machine

/-! PROOFS. R55, R117, R139: enabling and disabling rings and queues. -/

namespace Sys2Proof.Machine

open Sys2Proof

/-! ## Closing a ring -/

/-- Giving a reference back changes the pages alone. -/
theorem Hw.dropRef_eq (h : Hw) (r : Nat × Nat) : ∃ x, h.dropRef r = { h with pages := x } := by
  unfold Hw.dropRef
  dsimp only
  split
  · exact ⟨_, rfl⟩
  · split
    · exact ⟨_, rfl⟩
    · split <;> exact ⟨_, rfl⟩

theorem Hw.giveBack_eq (h : Hw) (l : List PageRef) : ∃ x, h.giveBack l = { h with pages := x } := by
  unfold Hw.giveBack
  induction l generalizing h with
  | nil => exact ⟨_, rfl⟩
  | cons r l ih =>
    obtain ⟨x, hx⟩ := h.dropRef_eq (r.pool, r.page)
    rw [List.foldl_cons, hx]
    obtain ⟨y, hy⟩ := ih { h with pages := x }
    exact ⟨y, hy⟩

/-- What two states of a ring share, its admission and its hold apart. -/
def Ring.counts (r : Ring) : Nat × Nat × Option Nat × Bool := (r.consumed, r.latched, r.offCc, r.toRead)

/-- The rings of `b` are those of `a` but for the admission of ring `r`. -/
def Hw.RingClosed (a : Map Ring) (b : Hw) (r : Nat) : Prop :=
  (∀ k, k ≠ r → Map.getD a k Ring.reset = b.ring k) ∧ (Map.getD a r Ring.reset).counts = (b.ring r).counts

/-- Dropping the admission of a ring changes pages, admission, memory uses and that ring's entry. -/
theorem Hw.dropTrial_eq (h : Hw) (r : Nat) (hr : (h.adm.trial.bind fun t => t.ring) = some r) :
    ∃ x a m l, h.dropTrial = { h with pages := x, adm := a, mem := m, rings := l } ∧ Hw.RingClosed l h r := by
  unfold Hw.dropTrial
  cases ht : h.adm.trial with
  | none => rw [ht] at hr; cases hr
  | some t =>
    rw [ht] at hr
    have htr : t.ring = some r := hr
    obtain ⟨x, hx⟩ := Hw.giveBack_eq { h with adm := { h.adm with trial := none } } (t.walk.getD [])
    dsimp only
    rw [hx, htr]
    refine ⟨x, _, _, _, rfl, fun k hk => Map.getD_insert_ne _ _ _ _ _ hk, ?_⟩
    refine (congrArg Ring.counts (Map.getD_insert_self _ _ _ _)).trans ?_
    rfl

/-- Closing a ring ends its admission, clears its hold and turns its reads away. -/
theorem Hw.closeRing_eq (h : Hw) (r : Nat) : ∃ x a m l, h.closeRing r = { h with pages := x, adm := a, mem := m, rings := l } ∧
    Hw.RingClosed l h r ∧ (Map.getD l r Ring.reset).hold = 0 := by
  have hclose : ∀ (b : Hw), Hw.RingClosed b.rings h r → ∃ m l, (b.modRing r fun x =>
      { x with deciding := false, entry := none, hold := 0, readFailNs := none }).reuse (MemUse.offRing r) =
        { b with mem := m, rings := l } ∧ Hw.RingClosed l h r ∧ (Map.getD l r Ring.reset).hold = 0 := by
    rintro b ⟨hother, hsame⟩
    refine ⟨_, _, rfl, ⟨fun k hk => (Map.getD_insert_ne _ _ _ _ _ hk).trans (hother k hk), ?_⟩, ?_⟩
    · exact (congrArg Ring.counts (Map.getD_insert_self _ _ _ _)).trans hsame
    · exact congrArg Ring.hold (Map.getD_insert_self _ _ _ _)
  unfold Hw.closeRing
  by_cases hr : (h.adm.trial.bind fun t => t.ring) = some r
  · obtain ⟨x, a, m, l, he, hl⟩ := h.dropTrial_eq r hr
    rw [if_pos hr, he]
    obtain ⟨m', l', he', hl'⟩ := hclose { h with pages := x, adm := a, mem := m, rings := l } hl
    exact ⟨x, a, m', l', he', hl'⟩
  · rw [if_neg hr]
    obtain ⟨m', l', he', hl'⟩ := hclose h ⟨fun _ _ => rfl, rfl⟩
    exact ⟨_, _, m', l', he', hl'⟩

/-! ## The switches -/

/-- An enabled ring's island. -/
def Hw.ringOpened (h : Hw) (r : Nat) : Hw :=
  ((h.setAt 0x3011 6 r 1).closeRing r).modRing r fun x => { x with consumed := 0, latched := 0, offCc := none }

/-- A disabled ring's island. -/
def Hw.ringShut (h : Hw) (r : Nat) : Hw := ((h.setAt 0x3011 6 r 0).closeRing r).modRing r fun x => { x with offCc := some h.cc }

theorem Hw.ringEnable_on (h : Hw) (r : Nat) (hoff : h.getAt 0x3011 6 r = 0) (h1 : h.getAt 0x3011 1 r % 4096 = 0)
    (h2 : h.getAt 0x3011 2 r % 4096 = 0) (h3 : isPow2 (h.getAt 0x3011 3 r) = true) (h4 : h.getAt 0x3101 1 (h.getAt 0x3011 4 r) = 1) :
    h.ringEnable r true = (.ok, h.ringOpened r) := by
  unfold Hw.ringEnable
  dsimp only
  rw [hoff, if_neg (by decide), if_pos rfl, if_neg (by simp [h1, h2, h3]), if_neg (by simp [h4])]
  rfl

theorem Hw.ringEnable_off (h : Hw) (r : Nat) (hon : h.getAt 0x3011 6 r = 1) : h.ringEnable r false = (.ok, h.ringShut r) := by
  unfold Hw.ringEnable
  dsimp only
  rw [hon, if_neg (by decide), if_neg (by decide)]
  rfl

/-- What a ring's switch leaves: the switch, the other rings, and all that a ring's admission does not touch. -/
structure Hw.Switched (a b : Hw) (r v : Nat) : Prop where
  value : a.getAt 0x3011 6 r = v
  others : ∀ k, k ≠ r → a.ring k = b.ring k
  hold : (a.ring r).hold = 0
  queues : a.queues = b.queues
  seqs : a.seqs = b.seqs
  side : a.side = b.side
  faults : a.faults = b.faults
  eng : a.eng = b.eng

/-- A ring's switch, its counts set by `g`. -/
theorem Hw.switched_modRing (h : Hw) (r v : Nat) (g : Ring → Ring) (hg : ∀ x, (g x).hold = x.hold) :
    Hw.Switched (((h.setAt 0x3011 6 r v).closeRing r).modRing r g) h r v ∧
      ∃ x : Ring, (((h.setAt 0x3011 6 r v).closeRing r).modRing r g).ring r = g x ∧ x.counts = (h.ring r).counts := by
  obtain ⟨x, a, m, l, he, ⟨hother, hsame⟩, hold⟩ := (h.setAt 0x3011 6 r v).closeRing_eq r
  rw [he]
  refine ⟨⟨Hw.getAt_setAt h 0x3011 6 r v, fun k hk => (Map.getD_insert_ne _ _ _ _ _ hk).trans (hother k hk), ?_, rfl, rfl, rfl, rfl, rfl⟩,
    Map.getD l r Ring.reset, Hw.ring_modRing _ r g, hsame⟩
  exact (congrArg Ring.hold (Hw.ring_modRing _ r g)).trans ((hg _).trans hold)

/-- An enabled queue's island. -/
def Hw.queueStarted (h : Hw) (q : Nat) : Hw := (h.setAt 0x3021 6 q 1).modQueue q fun x => { x with w := 0, k := 0, m := 0, c := 0 }

theorem Hw.queueEnable_on (h : Hw) (q : Nat) (hoff : h.queueOn q = false) (h1 : h.getAt 0x3021 1 q % 4096 = 0)
    (h2 : isPow2 (h.queueSize q) = true) (h3 : h.queueFits (h.queueFacet q) (h.getAt 0x3021 3 q) = true) :
    h.queueEnable q true = (.ok, h.queueStarted q) := by
  unfold Hw.queueEnable
  rw [hoff, if_neg (by decide), if_pos rfl, if_neg (by simp [h1, h2, h3])]
  rfl

theorem Hw.queueEnable_off (h : Hw) (q : Nat) (hon : h.queueOn q = true) (hn : (h.seqs.any fun e => e.2.com.queue = q) = false) :
    h.queueEnable q false = (.ok, h.setAt 0x3021 6 q 0) := by
  unfold Hw.queueEnable
  rw [hon, if_neg (by decide), if_neg (by decide), if_neg (by simp [hn])]

theorem Hw.queueEnable_busy (h : Hw) (q : Nat) (hon : h.queueOn q = true) (hn : (h.seqs.any fun e => e.2.com.queue = q) = true) :
    h.queueEnable q false = (.busy, h) := by
  unfold Hw.queueEnable
  rw [hon, if_neg (by decide), if_neg (by decide), if_pos hn]

/-! ## Their entries -/

def ringSwitch : Entry := ⟨0x3011, 6, 1, .bool, .rw, true, 0, 1, .ring⟩
def queueSwitch : Entry := ⟨0x3021, 6, 1, .bool, .rw, true, 0, 1, .queue⟩

theorem lookup_ringSwitch : lookup 0x3011 6 = some ringSwitch := by decide +kernel
theorem lookup_queueSwitch : lookup 0x3021 6 = some queueSwitch := by decide +kernel

theorem Req.isWrite.writesAt {r : Req} {idx sub v : Nat} (h : r.isWrite idx sub v) : r.writesAt idx sub v = true := by
  obtain ⟨-, -, -, hs, -, -, hv⟩ := id h
  simp [Req.writesAt, h.writes, hs, hv]

theorem State.ownScalar_ringSwitch (s : State) (r v : Nat) :
    s.ownScalar 0x3011 6 r v = ((s.hw.ringEnable r (v == 1)).1, { s with hw := (s.hw.ringEnable r (v == 1)).2 }) := rfl
theorem State.ownScalar_queueSwitch (s : State) (q v : Nat) :
    s.ownScalar 0x3021 6 q v = ((s.hw.queueEnable q (v == 1)).1, { s with hw := (s.hw.queueEnable q (v == 1)).2 }) := rfl

theorem governs_ringSwitch : governs 0x3011 6 = none := by decide
theorem governs_queueSwitch : governs 0x3021 6 = none := by decide

/-- Settles O3: the switch's value, the counts that it sets or keeps, and that every other ring or queue stays. -/
theorem ringAndQueueSwitches : Obligations.RingAndQueueSwitches := by
  unfold Obligations.RingAndQueueSwitches
  intro s p hr he
  obtain ⟨-, -, -, hfaults⟩ := hr.quiet
  have hring : ∀ v, v ≤ 1 → s.AsksWrite p 0x3011 6 v → s.Takes p 0x3011 6 v (fun r => r.writesAt 0x3011 6 v) ringSwitch := fun v hv ha =>
    s.takes_operational p 0x3011 6 v _ _ hr he ha lookup_ringSwitch (fun _ h => h.writesAt) nofun rfl
      (fun f h => absurd (governs_ringSwitch.symm.trans h) nofun) (by decide) ⟨Nat.zero_le _, hv⟩
  have hqueue : ∀ v, v ≤ 1 → s.AsksWrite p 0x3021 6 v → s.Takes p 0x3021 6 v (fun r => r.writesAt 0x3021 6 v) queueSwitch := fun v hv ha =>
    s.takes_operational p 0x3021 6 v _ _ hr he ha lookup_queueSwitch (fun _ h => h.writesAt) nofun rfl
      (fun f h => absurd (governs_queueSwitch.symm.trans h) nofun) (by decide) ⟨Nat.zero_le _, hv⟩
  have hring6 : ∀ r, plainKey (odKey 0x3011 6 r) = true := fun r => plainKey_odKey _ _ _ (by decide) (.inl (by decide)) (by decide)
  have hqueue6 : ∀ q, plainKey (odKey 0x3021 6 q) = true := fun q => plainKey_odKey _ _ _ (by decide) (.inl (by decide)) (by decide)
  refine ⟨?_, ?_, ?_, ?_, ?_⟩
  · rintro r rfl ha h0 h1 h2 h3 h4
    have ho := (s.begun p).ownScalar_ringSwitch (s.hw.objOf p .ring) 1
    rw [show ((1 : Nat) == 1) = true from rfl, (s.begun p).hw.ringEnable_on _ h0 h1 h2 h3 h4] at ho
    obtain ⟨hsw, x, hx, -⟩ := (s.begun p).hw.switched_modRing (s.hw.objOf p .ring) 1 (fun x => { x with consumed := 0, latched := 0, offCc := none })
      fun _ => rfl
    obtain ⟨hs, hans⟩ := (hring 1 (Nat.le_refl _) ha).served ho rfl hsw.side (hsw.faults.trans hfaults) (fun h => hsw.eng ▸ h)
    refine ⟨_, rfl, hans, (hs.getAt _ _ _ (hring6 _)).trans hsw.value, ?_, ?_, ?_, hs.queues.trans hsw.queues, hs.seqs.trans hsw.seqs,
      fun k hk => (hs.ring k).trans (hsw.others k hk)⟩
    · exact (congrArg Ring.consumed (hs.ring _)).trans (congrArg Ring.consumed hx)
    · exact (congrArg Ring.latched (hs.ring _)).trans (congrArg Ring.latched hx)
    · exact (congrArg Ring.hold (hs.ring _)).trans hsw.hold
  · rintro r rfl ha h1
    have ho := (s.begun p).ownScalar_ringSwitch (s.hw.objOf p .ring) 0
    rw [show ((0 : Nat) == 1) = false from rfl, (s.begun p).hw.ringEnable_off _ h1] at ho
    obtain ⟨hsw, x, hx, hc⟩ := (s.begun p).hw.switched_modRing (s.hw.objOf p .ring) 0 (fun x => { x with offCc := some s.hw.cc }) fun _ => rfl
    obtain ⟨hs, hans⟩ := (hring 0 (Nat.zero_le _) ha).served ho rfl hsw.side (hsw.faults.trans hfaults) (fun h => hsw.eng ▸ h)
    refine ⟨_, rfl, hans, (hs.getAt _ _ _ (hring6 _)).trans hsw.value, ?_, ?_, hs.queues.trans hsw.queues, hs.seqs.trans hsw.seqs,
      fun k hk => (hs.ring k).trans (hsw.others k hk)⟩
    · exact (congrArg Ring.consumed (hs.ring _)).trans ((congrArg Ring.consumed hx).trans (congrArg Prod.fst hc))
    · exact (congrArg Ring.latched (hs.ring _)).trans ((congrArg Ring.latched hx).trans (congrArg (fun c => c.2.1) hc))
  · rintro q rfl ha h0 h1 h2 h3
    have ho := (s.begun p).ownScalar_queueSwitch (s.hw.objOf p .queue) 1
    rw [show ((1 : Nat) == 1) = true from rfl, (s.begun p).hw.queueEnable_on _ h0 h1 h2 h3] at ho
    obtain ⟨hs, hans⟩ := (hqueue 1 (Nat.le_refl _) ha).served ho rfl rfl hfaults id
    have hq : (s.serve p fun r => r.writesAt 0x3021 6 1).hw.queue (s.hw.objOf p .queue) =
        { s.hw.queue (s.hw.objOf p .queue) with w := 0, k := 0, m := 0, c := 0 } := (hs.queue _).trans (Hw.queue_modQueue _ _ _)
    refine ⟨_, rfl, hans, (hs.getAt _ _ _ (hqueue6 _)).trans (Hw.getAt_setAt _ _ _ _ _), congrArg Queue.w hq, congrArg Queue.k hq,
      congrArg Queue.m hq, congrArg Queue.c hq, hs.rings, hs.seqs, fun k hk => (hs.queue k).trans ?_⟩
    exact Map.getD_insert_ne _ _ _ _ _ hk
  · rintro q rfl ha h1 hn
    have ho := (s.begun p).ownScalar_queueSwitch (s.hw.objOf p .queue) 0
    rw [show ((0 : Nat) == 1) = false from rfl, (s.begun p).hw.queueEnable_off _ h1 hn] at ho
    obtain ⟨hs, hans⟩ := (hqueue 0 (Nat.zero_le _) ha).served ho rfl rfl hfaults id
    exact ⟨_, rfl, hans, (hs.getAt _ _ _ (hqueue6 _)).trans (Hw.getAt_setAt _ _ _ _ _), hs.queues, hs.rings⟩
  · rintro q rfl ha h1 hn
    have ho := (s.begun p).ownScalar_queueSwitch (s.hw.objOf p .queue) 0
    rw [show ((0 : Nat) == 1) = false from rfl, (s.begun p).hw.queueEnable_busy _ h1 hn] at ho
    obtain ⟨hs, hans⟩ := (hqueue 0 (Nat.zero_le _) ha).served ho rfl rfl hfaults id
    exact ⟨_, rfl, hans, hs.getAt _ _ _ (hqueue6 _), hs.queues, hs.rings⟩

end Sys2Proof.Machine

/-! PROOFS. R130, R147, R150, R153: cancels, migrations, pools and the pool notice. -/

namespace Sys2Proof.Machine

open Sys2Proof

/-! ## Requests of a handle -/

theorem Hw.cancelWrite_live (h : Hw) (v slot : Nat) (hl : h.liveSlot v = some slot) : h.cancelWrite v = (.ok, h.askEnd slot .cancel) := by
  unfold Hw.cancelWrite
  rw [hl]

theorem Hw.askEnd_some (h : Hw) (slot : Nat) (r : EndReason) (q : Seq) (hq : h.seq? slot = some q) :
    h.askEnd slot r = h.setSeq slot { q with cancelAsked := some (q.cancelAsked.getD r) } := h.modSeq_some slot q _ hq

theorem Hw.migrateWrite_taken (h : Hw) (v slot : Nat) (q : Seq) (hl : h.liveSlot v = some slot) (hq : h.seq? slot = some q)
    (hd : q.com.state = .decode) (hn : q.com.promptLen + q.com.generated ≤ 65536) :
    h.migrateWrite v = (.ok, h.setSeq slot { q with migrateAsked := true }) := by
  unfold Hw.migrateWrite
  rw [hl]
  dsimp only
  rw [hq]
  dsimp only
  rw [if_pos ⟨hd, hn⟩, h.modSeq_some slot q _ hq]

theorem Hw.migrateWrite_refused (h : Hw) (v slot : Nat) (q : Seq) (hl : h.liveSlot v = some slot) (hq : h.seq? slot = some q)
    (hn : q.com.state ≠ .decode ∨ 65536 < q.com.promptLen + q.com.generated) : h.migrateWrite v = (.range, h) := by
  unfold Hw.migrateWrite
  rw [hl]
  dsimp only
  rw [hq]
  exact if_neg fun ⟨h1, h2⟩ => hn.elim (fun h => h h1) (fun h => absurd h2 (Nat.not_le.mpr h))

/-! ## Switches of a pool -/

/-- An enabled pool's island. -/
def Hw.poolOpened (h : Hw) (k : Nat) : Hw := (h.setAt 0x4001 8 k 1).modPool k Pool.renew

theorem Hw.poolEnable_on (h : Hw) (k : Nat) (hoff : h.poolOn k = false) (hf : h.hostPool k = true → h.featureForWrites 7 = true)
    (h1 : h.getAt 0x4001 1 k % 4096 = 0) (h2 : h.getAt 0x4001 6 k % 4096 = 0) (h3 : h.getAt 0x4001 7 k % 4096 = 0)
    (h4 : h.getAt 0x4001 2 k % 4096 = 0) : h.poolEnable k true = (.ok, h.poolOpened k) := by
  unfold Hw.poolEnable
  rw [hoff, if_neg (by decide), if_pos rfl, if_neg, if_neg (by simp [h1, h2, h3, h4])]
  · rfl
  · rintro ⟨ha, hb⟩
    rw [hf ha] at hb
    exact Bool.false_ne_true hb

/-- The island without a pool's entries in the index of prefixes. -/
def Hw.delisted (h : Hw) (k : Nat) : Hw := { h with pages := { h.pages with index := h.pages.index.filter fun e => !(e.pool == k) } }

/-- The island after the cached pages of a disabled pool were freed. -/
def Hw.emptied (h : Hw) (k : Nat) : Hw := ((h.delisted k).pool k).cached.foldl (fun a p => a.freePage (k, p)) (h.delisted k)

/-- A disabled pool's island. -/
def Hw.poolShut (h : Hw) (k : Nat) : Hw := (((h.emptied k).postPages h).setAt 0x4001 8 k 0).modPool k Pool.renew

theorem Hw.poolEnable_off (h : Hw) (k : Nat) (hon : h.poolOn k = true) (hu : h.poolUsed k = false) :
    h.poolEnable k false = (.ok, h.poolShut k) := by
  unfold Hw.poolEnable
  rw [hon, if_neg (by decide), if_neg (by decide), hu, if_neg (by decide)]
  rfl

theorem Hw.poolEnable_busy (h : Hw) (k : Nat) (hon : h.poolOn k = true) (hu : h.poolUsed k = true) :
    h.poolEnable k false = (.busy, h) := by
  unfold Hw.poolEnable
  rw [hon, if_neg (by decide), if_neg (by decide), if_pos hu]

/-- Freeing pages changes the pools alone. -/
theorem Hw.freePages_eq (h : Hw) (k : Nat) (l : List Nat) :
    ∃ m, l.foldl (fun a p => a.freePage (k, p)) h = { h with pages := { h.pages with pools := m } } := by
  induction l generalizing h with
  | nil => exact ⟨_, rfl⟩
  | cons p r ih =>
    obtain ⟨m, hm⟩ := ih (h.freePage (k, p))
    exact ⟨m, hm⟩

theorem Hw.emptied_eq (h : Hw) (k : Nat) : ∃ m, h.emptied k = { h.delisted k with pages := { (h.delisted k).pages with pools := m } } :=
  (h.delisted k).freePages_eq k _

/-- Disabling a pool keeps what lies outside pages, memory port and dictionary. -/
theorem Hw.poolShut_spec (h : Hw) (k : Nat) : (h.poolShut k).pages.index = (h.delisted k).pages.index ∧ (h.poolShut k).getAt 0x4001 8 k = 0 ∧
    (h.poolShut k).side = h.side ∧ (h.poolShut k).faults = h.faults ∧ (h.poolShut k).eng = h.eng := by
  obtain ⟨m, hm⟩ := h.emptied_eq k
  have hs := (h.emptied k).sameButMem_postPages h
  unfold Hw.poolShut
  generalize (h.emptied k).postPages h = y at hs ⊢
  refine ⟨(congrArg Pages.index hs.pages).trans ?_, Hw.getAt_setAt y _ _ _ _, hs.side.trans ?_, hs.faults.trans ?_, hs.eng.trans ?_⟩ <;>
    rw [hm] <;> rfl

/-! ## Their entries -/

def handleEntry (idx : Nat) : Entry := ⟨idx, 1, 1, .u64, .wo, false, 0, 2 ^ 64 - 1, .none⟩
def poolSwitch : Entry := ⟨0x4001, 8, 1, .bool, .rwc, true, 0, 1, .pool⟩
def poolNoticeEntry : Entry := ⟨0x4001, 0xC, 1, .u64, .rc, false, 0, 2 ^ 64 - 1, .pool⟩

theorem lookup_cancel : lookup 0x3302 1 = some (handleEntry 0x3302) := by decide +kernel
theorem lookup_migrate : lookup 0x3303 1 = some (handleEntry 0x3303) := by decide +kernel
theorem lookup_poolSwitch : lookup 0x4001 8 = some poolSwitch := by decide +kernel
theorem lookup_poolNotice : lookup 0x4001 0xC = some poolNoticeEntry := by decide +kernel

theorem governs_cancel : governs 0x3302 1 = none := by decide
theorem governs_migrate : governs 0x3303 1 = some 3 := by decide
theorem governs_poolSwitch : governs 0x4001 8 = none := by decide

theorem State.ownScalar_cancel (s : State) (obj v : Nat) :
    s.ownScalar 0x3302 1 obj v = ((s.hw.cancelWrite v).1, { s with hw := (s.hw.cancelWrite v).2 }) := rfl
theorem State.ownScalar_migrate (s : State) (obj v : Nat) :
    s.ownScalar 0x3303 1 obj v = ((s.hw.migrateWrite v).1, { s with hw := (s.hw.migrateWrite v).2 }) := rfl
theorem State.ownScalar_poolSwitch (s : State) (k v : Nat) :
    s.ownScalar 0x4001 8 k v = ((s.hw.poolEnable k (v == 1)).1, { s with hw := (s.hw.poolEnable k (v == 1)).2 }) := rfl
theorem State.clearRead_poolNotice (s : State) (sub k : Nat) :
    s.clearRead poolNoticeEntry sub k = { s with hw := s.hw.modPool k fun p => { p with minFree := none, crossings := 0 } } := by
  simp [State.clearRead, poolNoticeEntry]

theorem Hw.pool_modPool_ne (h : Hw) (k j : Nat) (g : Pool → Pool) (hj : j ≠ k) : (h.modPool k g).pool j = h.pool j :=
  Map.getD_insert_ne _ _ _ _ _ hj

/-- A value of eight bytes. -/
theorem State.AsksWrite.le_u64 {s : State} {p : Path} {idx sub v : Nat} (h : s.AsksWrite p idx sub v) (hs : sizeOf idx sub = 8) :
    v ≤ 2 ^ 64 - 1 := by
  have hlt := h.value_lt
  rw [hs] at hlt
  exact Nat.le_sub_one_of_lt hlt

/-- Settles O4: what a cancel, a migration, a pool's switch and a read of its notice leave. -/
theorem handleAndPoolRequests : Obligations.HandleAndPoolRequests := by
  unfold Obligations.HandleAndPoolRequests
  refine ⟨fun s p v slot q hr he hl hq => ?_, fun s p k hr he hk => ?_⟩
  · obtain ⟨-, -, -, hfaults⟩ := hr.quiet
    have hcancel : s.AsksWrite p 0x3302 1 v → s.Takes p 0x3302 1 v (fun r => r.writes 0x3302) (handleEntry 0x3302) := fun ha =>
      s.takes_operational p 0x3302 1 v _ _ hr he ha lookup_cancel (fun _ h => h.writes) nofun rfl
        (fun f h => absurd (governs_cancel.symm.trans h) nofun) (by decide) ⟨Nat.zero_le _, ha.le_u64 (by decide +kernel)⟩
    have hmigrate : s.AsksWrite p 0x3303 1 v → s.hw.feature 3 = true →
        s.Takes p 0x3303 1 v (fun r => r.writes 0x3303) (handleEntry 0x3303) := fun ha hf =>
      s.takes_operational p 0x3303 1 v _ _ hr he ha lookup_migrate (fun _ h => h.writes) nofun rfl
        (fun f h => by rw [governs_migrate] at h; cases h; exact hf) (by decide) ⟨Nat.zero_le _, ha.le_u64 (by decide +kernel)⟩
    refine ⟨fun ha => ?_, fun ha hf hd hn => ?_, fun ha hf hn => ?_⟩
    · have ho := (s.begun p).ownScalar_cancel (s.hw.objOf p .none) v
      rw [(s.begun p).hw.cancelWrite_live v slot hl, (s.begun p).hw.askEnd_some slot _ q hq] at ho
      obtain ⟨hs, hans⟩ := (hcancel ha).served ho rfl rfl hfaults id
      exact ⟨_, rfl, hans, (hs.seq? slot).trans (Map.find?_insert_self _ _ _),
        fun k hk => (hs.seq? k).trans (Map.find?_insert_ne _ _ _ _ hk)⟩
    · have ho := (s.begun p).ownScalar_migrate (s.hw.objOf p .none) v
      rw [(s.begun p).hw.migrateWrite_taken v slot q hl hq hd hn] at ho
      obtain ⟨hs, hans⟩ := (hmigrate ha hf).served ho rfl rfl hfaults id
      exact ⟨_, rfl, hans, (hs.seq? slot).trans (Map.find?_insert_self _ _ _),
        fun k hk => (hs.seq? k).trans (Map.find?_insert_ne _ _ _ _ hk)⟩
    · have ho := (s.begun p).ownScalar_migrate (s.hw.objOf p .none) v
      rw [(s.begun p).hw.migrateWrite_refused v slot q hl hq hn] at ho
      obtain ⟨hs, hans⟩ := (hmigrate ha hf).served ho rfl rfl hfaults id
      exact ⟨_, rfl, hans, hs.seqs⟩
  · subst hk
    obtain ⟨-, -, -, hfaults⟩ := hr.quiet
    have hswitch : ∀ v, v ≤ 1 → s.AsksWrite p 0x4001 8 v → (v = 1 → s.hw.hostPool (s.hw.objOf p .pool) = true → s.hw.featureForWrites 7 = true) →
        s.Takes p 0x4001 8 v (fun r => r.writesAt 0x4001 8 v) poolSwitch := fun v hv ha hf =>
      ⟨hr, ha, lookup_poolSwitch, fun _ h => h.writesAt, nofun, s.hw.serves_write _ (.inl he), by rw [he]; rfl,
        fun f h => absurd (governs_poolSwitch.symm.trans h) nofun, fun _ _ h => hf h, ⟨Nat.zero_le _, hv⟩⟩
    have hkey : plainKey (odKey 0x4001 8 (s.hw.objOf p .pool)) = true := plainKey_odKey _ _ _ (by decide) (.inl (by decide)) (by decide)
    refine ⟨fun ha hoff hf h1 h2 h3 h4 => ?_, fun ha hon hu => ?_, fun ha hon hu => ?_, fun ha => ?_⟩
    · have ho := (s.begun p).ownScalar_poolSwitch (s.hw.objOf p .pool) 1
      rw [show ((1 : Nat) == 1) = true from rfl, (s.begun p).hw.poolEnable_on _ hoff hf h1 h2 h3 h4] at ho
      obtain ⟨hs, hans⟩ := (hswitch 1 (Nat.le_refl _) ha fun _ => hf).served ho rfl rfl hfaults id
      exact ⟨_, rfl, hans, (hs.getAt _ _ _ hkey).trans (Hw.getAt_setAt (s.begun p).hw _ _ _ _), (hs.pool _).trans (Hw.pool_modPool _ _ _),
        (congrArg Pages.index hs.pages).trans rfl, fun j hj => (hs.pool j).trans (Hw.pool_modPool_ne _ _ _ _ hj)⟩
    · have ho := (s.begun p).ownScalar_poolSwitch (s.hw.objOf p .pool) 0
      rw [show ((0 : Nat) == 1) = false from rfl, (s.begun p).hw.poolEnable_off _ hon hu] at ho
      obtain ⟨hindex, hoff, hside, hflt, heng⟩ := (s.begun p).hw.poolShut_spec (s.hw.objOf p .pool)
      obtain ⟨hs, hans⟩ := (hswitch 0 (Nat.zero_le _) ha nofun).served ho rfl hside (hflt.trans hfaults) (fun h => heng ▸ h)
      exact ⟨_, rfl, hans, (hs.getAt _ _ _ hkey).trans hoff, (congrArg Pages.index hs.pages).trans hindex⟩
    · have ho := (s.begun p).ownScalar_poolSwitch (s.hw.objOf p .pool) 0
      rw [show ((0 : Nat) == 1) = false from rfl, (s.begun p).hw.poolEnable_busy _ hon hu] at ho
      obtain ⟨hs, hans⟩ := (hswitch 0 (Nat.zero_le _) ha nofun).served ho rfl rfl hfaults id
      exact ⟨_, rfl, hans, hs.pages⟩
    · obtain ⟨hs, hans, -⟩ := s.read_served p 0x4001 0xC (fun r => r.reads 0x4001 && r.sub == 0xC) _ hr ha (fun r hi => by
        obtain ⟨-, -, -, hsub, -⟩ := id hi
        simp [hi.reads, hsub]) lookup_poolNotice nofun (.inl he) (by decide)
      rw [State.clearRead_poolNotice] at hs
      exact ⟨_, rfl, hans, (hs.pool _).trans (Hw.pool_modPool _ _ _), fun j hj => (hs.pool j).trans (Hw.pool_modPool_ne _ _ _ _ hj), hs.seqs⟩

end Sys2Proof.Machine

/-! PROOFS. R101 and R113: the accept set, and an image of defaults. -/

namespace Sys2Proof.Machine

open Sys2Proof

/-! ## The accept set -/

theorem Hw.writeAccept_stored (h : Hw) (sub v : Nat) (hin : v &&& h.get 0x1010 sub = v)
    (hneed : ∀ e ∈ featureNeeds, ((h.set 0x1011 sub v).get 0x1011 (e.1 / 64 + 1)).testBit (e.1 % 64) = true →
      ((h.set 0x1011 sub v).get 0x1011 (e.2 / 64 + 1)).testBit (e.2 % 64) = true) :
    h.writeAccept sub v = (.ok, h.set 0x1011 sub v) := by
  unfold Hw.writeAccept
  dsimp only
  rw [if_neg (not_not_intro hin), if_neg]
  intro hany
  obtain ⟨e, he, hb⟩ := List.any_eq_true.mp hany
  rw [Bool.and_eq_true, Bool.not_eq_true'] at hb
  exact Bool.false_ne_true (hb.2.symm.trans (hneed e he hb.1))

theorem Hw.writeAccept_refused (h : Hw) (sub v : Nat) (hin : v &&& h.get 0x1010 sub ≠ v) : h.writeAccept sub v = (.range, h) := by
  unfold Hw.writeAccept
  exact if_pos hin

/-! ## Lists of values -/

theorem Map.mem_insert {α : Type} {m : Map α} {k : Nat} {v : α} {e : Nat × α} (he : e ∈ Map.insert m k v) : e = (k, v) ∨ e ∈ m := by
  induction m with
  | nil => exact .inl (List.mem_singleton.mp he)
  | cons x r ih =>
    obtain ⟨k', v'⟩ := x
    unfold Map.insert at he
    split at he
    · rcases List.mem_cons.mp he with he | he
      · exact .inl he
      · exact .inr (List.mem_cons_of_mem _ he)
    · split at he
      · rcases List.mem_cons.mp he with he | he
        · exact .inl he
        · exact .inr he
      · rcases List.mem_cons.mp he with he | he
        · exact .inr (he ▸ List.mem_cons_self)
        · exact (ih he).imp id (List.mem_cons_of_mem _)

/-- Entries that inserts leave are inserted or were there. -/
theorem Map.mem_foldl_insert {α β : Type} (f : β → Nat) (g : β → α) (l : List β) (m : Map α) {e : Nat × α}
    (he : e ∈ l.foldl (fun m x => Map.insert m (f x) (g x)) m) : (∃ x ∈ l, e = (f x, g x)) ∨ e ∈ m := by
  induction l generalizing m with
  | nil => exact .inr he
  | cons x r ih =>
    rcases ih _ he with ⟨y, hy, rfl⟩ | h
    · exact .inl ⟨y, List.mem_cons_of_mem _ hy, rfl⟩
    · exact (Map.mem_insert h).imp (fun h => ⟨x, List.mem_cons_self, h⟩) id

/-- A key that no entry has reads as nothing. -/
theorem Map.find?_eq_none {α : Type} (m : Map α) (k : Nat) (h : ∀ e ∈ m, e.1 ≠ k) : Map.find? m k = none := by
  cases hf : Map.find? m k with
  | none => rfl
  | some v => exact absurd rfl (h _ (Map.mem_of_find? m hf))

/-! ## Defaults -/

/-- Whether the P image saves the entry of a key. -/
def savedKey (k : Nat) : Bool := match keyEntry k with | some x => inImage x | none => false

/-- The Gnomon's counts after P_DEFAULTS: at 0, and no value that the image saves. -/
def Gnomon.defaulted (g : Gnomon) : Gnomon :=
  let g1 := [0xD110, 0xD111, 0xD041, 0xD042, 0xD043].foldl (fun (a : Gnomon) i => a.set i 1 0)
    { g with od := g.od.filter fun e => match keyEntry e.1 with | some x => !inImage x | none => true }
  { g1 with rs := { g1.rs with holdup := 0 } }

/-- The core island after P_DEFAULTS, the image's own counts apart. -/
def Hw.defaulted (h : Hw) : Hw :=
  let h1 := { h with
    od := h.od.filter fun e => (match keyEntry e.1 with | some x => !inImage x | none => true) || highWaterKeys.contains e.1,
    dom := h.dom.filter fun e => match keyEntry e.1 with | some x => !inImage x | none => true }
  { h1 with learners := h1.learners.map fun e => (e.1, { e.2 with layerExp := [] }) }

/-- The machine whose image P_DEFAULTS writes. -/
def State.defaulted (s : State) : State := { s with hw := s.hw.defaulted, gnm := s.gnm.defaulted }

theorem State.pDefaults_eq (s : State) : s.pDefaults = (s.defaulted.storeImage (s.pendingBytes + s.defaulted.pendingBytes)).writeCounts := by
  unfold State.pDefaults State.defaulted Hw.defaulted Gnomon.defaulted
  rfl

theorem not_saved_of_keepKey (k : Nat) (hk : (match keyEntry k with | some x => !inImage x | none => true) = true) : savedKey k = false := by
  unfold savedKey
  split <;> simp_all

theorem Hw.defaulted_od (h : Hw) (e : Nat × Nat) (he : e ∈ h.defaulted.od) (hs : savedKey e.1 = true) : highWaterKeys.contains e.1 = true := by
  rcases Bool.or_eq_true _ _ |>.mp (List.mem_filter.mp he).2 with hk | hk
  · exact absurd (not_saved_of_keepKey e.1 hk) (by simp [hs])
  · exact hk

/-- The keys of the Gnomon's counts are not saved. -/
theorem gnomonCounts_not_saved : ∀ i ∈ [0xD110, 0xD111, 0xD041, 0xD042, 0xD043], savedKey (odKey i 1 0) = false := by decide +kernel

theorem Gnomon.defaulted_od (g : Gnomon) (e : Nat × Nat) (he : e ∈ g.defaulted.od) : savedKey e.1 = false := by
  have hset : ∀ (l : List Nat) (a : Gnomon), (l.foldl (fun (a : Gnomon) i => a.set i 1 0) a).od =
      l.foldl (fun m i => Map.insert m (odKey i 1 0) 0) a.od := by
    intro l
    induction l with
    | nil => exact fun _ => rfl
    | cons i r ih => exact fun a => ih _
  have he' : e ∈ ([0xD110, 0xD111, 0xD041, 0xD042, 0xD043].foldl (fun (a : Gnomon) i => a.set i 1 0)
    { g with od := g.od.filter fun e => match keyEntry e.1 with | some x => !inImage x | none => true }).od := he
  rw [hset] at he'
  rcases Map.mem_foldl_insert (fun i => odKey i 1 0) (fun _ => 0) _ _ he' with ⟨i, hi, rfl⟩ | hm
  · exact gnomonCounts_not_saved i hi
  · exact not_saved_of_keepKey e.1 (List.mem_filter.mp hm).2

theorem State.pImage_values (s : State) :
    s.pImage.values = highWaterKeys.foldl (fun m k => Map.insert m k (s.hw.highWater k)) s.pValues := by
  unfold State.pImage
  dsimp only

/-- The image of defaults holds reserved counters alone. -/
theorem State.defaulted_values (s : State) (e : Nat × Nat) (he : e ∈ s.defaulted.pImage.values) : highWaterKeys.contains e.1 = true := by
  have hg : imagePart s.defaulted.gnm.od = [] := List.filter_eq_nil_iff.mpr fun x hx => by
    have hf := s.gnm.defaulted_od x hx
    exact fun h => Bool.false_ne_true (hf.symm.trans h)
  have hp : s.defaulted.pValues = imagePart s.defaulted.hw.od := by
    unfold State.pValues
    rw [hg]
    rfl
  rw [State.pImage_values, hp] at he
  rcases Map.mem_foldl_insert (fun k => k) (fun k => s.defaulted.hw.highWater k) _ _ he with ⟨k, hk, rfl⟩ | hm
  · exact List.contains_iff_mem.mpr hk
  · obtain ⟨h1, h2⟩ := List.mem_filter.mp hm
    exact s.hw.defaulted_od e h1 h2

/-- It holds no DOMAIN value. -/
theorem State.defaulted_domains (s : State) : s.defaulted.pImage.domains = [] := by
  have hdom : s.defaulted.hw.allDom = s.defaulted.hw.dom := by
    unfold Hw.allDom
    have hl : ∀ (l : Map Learner) (m : Map (List Byte)), (∀ e ∈ l, e.2.layerExp = []) →
        l.foldl (fun m e => if e.2.layerExp = [] then m else Map.insert m (odKey 0x8026 1 e.1) (s.defaulted.hw.layerExpBytes e.1)) m = m := by
      intro l
      induction l with
      | nil => exact fun _ _ => rfl
      | cons e r ih =>
        intro m hm
        rw [List.foldl_cons, if_pos (hm e List.mem_cons_self)]
        exact ih m fun x hx => hm x (List.mem_cons_of_mem _ hx)
    refine hl _ _ fun e he => ?_
    obtain ⟨x, -, rfl⟩ := List.mem_map.mp he
    rfl
  show imagePart s.defaulted.hw.allDom = []
  rw [hdom]
  refine List.filter_eq_nil_iff.mpr fun e he h => ?_
  exact Bool.false_ne_true ((not_saved_of_keepKey e.1 (List.mem_filter.mp he).2).symm.trans h)

theorem State.pImage_ok (s : State) : s.pImage.ok = true := by
  unfold PImage.ok State.pImage
  simp

/-- P_DEFAULTS leaves every saved value at its default, the reserved counters apart. -/
theorem State.pDefaults_find (s : State) (k : Nat) (hs : savedKey k = true) (hw : highWaterKeys.contains k = false) :
    Map.find? s.pDefaults.hw.od k = none := by
  have hne : ∀ i ∈ [odKey 0xD050 1 0, odKey 0x1200 1 0], savedKey i = false := by decide +kernel
  have h1 : k ≠ odKey 0xD050 1 0 := fun h => Bool.false_ne_true ((hne _ (by simp)).symm.trans (h ▸ hs))
  have h2 : k ≠ odKey 0x1200 1 0 := fun h => Bool.false_ne_true ((hne _ (by simp)).symm.trans (h ▸ hs))
  rw [State.pDefaults_eq]
  refine ((State.sameStored_writeCounts _).od k h1 h2).trans (((State.sameStored_storeImage _ _).od k h1 h2).trans ?_)
  refine Map.find?_eq_none _ _ fun e he h => ?_
  subst h
  exact Bool.false_ne_true (hw.symm.trans (s.hw.defaulted_od e he hs))

theorem State.pDefaults_gnomon (s : State) (j : Nat) (hs : savedKey (odKey 0xD100 j 0) = true) :
    s.pDefaults.gnm.get 0xD100 j = odDefault 0xD100 j := by
  have hnone : Map.find? s.gnm.defaulted.od (odKey 0xD100 j 0) = none := Map.find?_eq_none _ _ fun e he h => by
    exact Bool.false_ne_true ((s.gnm.defaulted_od e he).symm.trans (h ▸ hs))
  exact congrArg (fun o : Option Nat => o.getD (odDefault 0xD100 j)) hnone

/-- What P_DEFAULTS leaves beside dictionary, image and store. -/
theorem State.pDefaults_frame (s : State) : s.pDefaults.hw.eng = s.hw.eng ∧ s.pDefaults.hw.side = s.hw.side ∧
    s.pDefaults.hw.faults = s.hw.faults ∧ s.pDefaults.hw.trace = s.hw.trace ∧ s.pDefaults.hw.events = s.hw.events := by
  have hs : Hw.SameStored s.pDefaults.hw s.hw.defaulted := by
    rw [State.pDefaults_eq]
    exact (State.sameStored_writeCounts _).trans (State.sameStored_storeImage _ _)
  refine ⟨hs.eng, ?_, hs.faults, ?_, hs.events⟩
  · have e := congrArg Hw.side hs.body
    exact e
  · have e := congrArg Hw.trace hs.body
    exact e

theorem State.win_writeCounts (s : State) : s.writeCounts.win = s.win := rfl
theorem State.win_storeImage (s : State) (n : Nat) : (s.storeImage n).win = s.win := rfl
theorem State.image_writeCounts (s : State) : s.writeCounts.gnm.rs.image = s.gnm.rs.image := rfl
theorem State.image_storeImage (s : State) (n : Nat) : (s.storeImage n).gnm.rs.image = some s.pImage := rfl

theorem State.pDefaults_win (s : State) : s.pDefaults.win = s.win := by
  rw [State.pDefaults_eq, State.win_writeCounts, State.win_storeImage]
  simp only [State.defaulted]

theorem State.pDefaults_image (s : State) : s.pDefaults.gnm.rs.image = some s.defaulted.pImage := by
  rw [State.pDefaults_eq, State.image_writeCounts, State.image_storeImage]

/-! ## Their entries -/

def acceptEntry : Entry := ⟨0x1011, 1, 4, .u64, .rwc, false, 0, 2 ^ 64 - 1, .none⟩
theorem lookup_accept : ∀ k : Fin 4, lookup 0x1011 (k + 1) = some acceptEntry := by decide +kernel
theorem lookup_defaults : lookup 0x1200 3 = some ⟨0x1200, 3, 1, .bool, .wo, false, 0, 1, .none⟩ := by decide +kernel
theorem governs_defaults : governs 0x1200 3 = none := by decide

theorem State.ownScalar_accept (s : State) (sub obj v : Nat) :
    s.ownScalar 0x1011 sub obj v = ((s.hw.writeAccept sub v).1, { s with hw := (s.hw.writeAccept sub v).2 }) := rfl

theorem State.ownScalar_defaults (s : State) (obj : Nat) (he : s.hw.eng.state = .config) : s.ownScalar 0x1200 3 obj 1 = (.ok, s.pDefaults) :=
  if_neg (not_not_intro he)

/-- Settles O2: the accept set that passes is stored, and P_DEFAULTS leaves no saved value behind. -/
theorem featuresAndDefaults : Obligations.FeaturesAndDefaults := by
  unfold Obligations.FeaturesAndDefaults
  intro s p hr he
  obtain ⟨hraised, hmade, hfired, hfaults⟩ := hr.quiet
  have haccept : ∀ (k : Fin 4) v, s.AsksWrite p 0x1011 (k + 1) v → s.Takes p 0x1011 (k + 1) v (fun r => r.writes 0x1011) acceptEntry :=
    fun k v ha => ⟨hr, ha, lookup_accept k, fun _ h => h.writes, nofun, s.hw.serves_write _ (.inl he), by rw [he]; rfl,
      fun f h => absurd ((governs_none (by decide) (by decide)).symm.trans h) nofun, fun h => absurd h (by decide),
      ⟨Nat.zero_le _, ha.le_u64 (by rw [sizeOf, lookup_accept]; rfl)⟩⟩
  have hkey : ∀ j : Fin 4, plainKey (odKey 0x1011 (j + 1) 0) = true := fun j => plainKey_low _ _ (by omega) (by decide) (by decide)
  refine ⟨fun k v ha hin hneed => ?_, fun k v ha hin => ?_, fun ha => ?_⟩
  · have ho := (s.begun p).ownScalar_accept (k + 1) (s.hw.objOf p .none) v
    rw [(s.begun p).hw.writeAccept_stored (k + 1) v hin hneed] at ho
    obtain ⟨hs, hans⟩ := (haccept k v ha).served ho rfl rfl hfaults id
    refine ⟨_, rfl, hans, (hs.get _ _ (hkey k)).trans (Hw.get_set _ _ _ _), fun j hj => (hs.get _ _ (hkey j)).trans ?_⟩
    exact Hw.get_set_ne _ _ _ _ _ _ (odKey_sub_ne _ _ _ _ _ (fun h => hj (Fin.ext (Nat.succ.inj h))))
  · have ho := (s.begun p).ownScalar_accept (k + 1) (s.hw.objOf p .none) v
    rw [(s.begun p).hw.writeAccept_refused (k + 1) v hin] at ho
    obtain ⟨hs, hans⟩ := (haccept k v ha).served ho rfl rfl hfaults id
    exact ⟨_, rfl, hans, fun j => hs.get _ _ (hkey j)⟩
  · have ht : s.Takes p 0x1200 3 1 (fun r => r.writesAt 0x1200 3 1) ⟨0x1200, 3, 1, .bool, .wo, false, 0, 1, .none⟩ :=
      ⟨hr, ha, lookup_defaults, fun _ h => h.writesAt, nofun, s.hw.serves_write _ (.inl he), by rw [he]; rfl,
        fun f h => absurd (governs_defaults.symm.trans h) nofun, fun h => absurd h (by decide), ⟨Nat.zero_le _, Nat.le_refl _⟩⟩
    have ho := (s.begun p).ownScalar_defaults (s.hw.objOf p .none) he
    obtain ⟨heng, hside, hflt, htr, hev⟩ := (s.begun p).pDefaults_frame
    have hen : (s.begun p).pDefaults.hw.eng.state = .operational → s.hw.eng.state = .operational := fun h => heng ▸ h
    obtain ⟨hs, hans⟩ := ht.served ho (s.begun p).pDefaults_win hside (hflt.trans hfaults) hen
    have hidle : (s.begun p).pDefaults.hw.Idle := ⟨by rw [hev]; exact hraised, by rw [htr]; exact hmade, by rw [htr]; exact hfired⟩
    have hgnm : (s.serve p fun r => r.writesAt 0x1200 3 1).gnm = (s.begun p).pDefaults.gnm := hs.gnm
    refine ⟨_, (s.begun p).defaulted.pImage, rfl, hans, (congrArg (fun g : Gnomon => g.rs.image) hgnm).trans (s.begun p).pDefaults_image, State.pImage_ok _,
      State.defaulted_domains _, fun e => State.defaulted_values _ e, fun j hj => ?_, fun idx sub obj x hx himg hw hsub hobj => ?_⟩
    · have hsaved : ∀ j ∈ [4, 5, 8], savedKey (odKey 0xD100 j 0) = true := by decide +kernel
      rw [hgnm]
      exact (s.begun p).pDefaults_gnomon j (hsaved j hj)
    · have hsaved : savedKey (odKey idx sub obj) = true := by
        unfold savedKey
        rw [hx]
        exact himg
      have hcount : ∀ i ∈ [odKey 0x2400 1 0, odKey 0x2400 2 0], savedKey i = false := by decide +kernel
      have hseq : highWaterKeys.contains (odKey 0xC004 1 0) = true := by decide +kernel
      have h := ht.idle_find ho (hflt.trans hfaults) hen hidle (odKey idx sub obj)
        (fun h => Bool.false_ne_true ((hcount _ (by simp)).symm.trans (h ▸ hsaved)))
        (fun h => Bool.false_ne_true ((hcount _ (by simp)).symm.trans (h ▸ hsaved)))
        (fun h => by rw [h, hseq] at hw; cases hw)
      rw [(s.begun p).pDefaults_find _ hsaved hw] at h
      unfold Hw.getAt
      rw [h]

end Sys2Proof.Machine

/-! PROOFS. R110 to R112: requests to the engine, and the entry into OPERATIONAL. -/

namespace Sys2Proof.Machine

open Sys2Proof

/-! ## A request that enters OPERATIONAL -/

/-- A request is answered where the window and the sideband are as the answer leaves them. -/
theorem State.answered_of_replied (s : State) (p : Path) (r : Req) (hr : s.request? p = some r) (o : Reply × State) (hw : o.2.win = s.win)
    (hs : o.2.hw.side = s.hw.side) (t : State) (htw : t.win = ((s.begun p).replied p o).win)
    (hts : t.hw.side = ((s.begun p).replied p o).hw.side) : s.Answered t o.1.status p := by
  cases p with
  | window =>
    simp only [State.Answered, htw, State.replied, State.answerWindow, Window.place, hw, and_self]
  | ddp =>
    have hd : s.hw.side.requests ≠ [] := request_ddp hr
    have hb : (s.begun .ddp).hw.side = s.hw.side := rfl
    unfold State.replied at hts
    dsimp only at hts
    rw [hb] at hts
    split at hts
    · exact absurd ‹_› hd
    · rename_i cc who l rest heq
      have hside := Hw.side_ddpAnswer ((o.2.hw.modSide fun x => { x with requests := rest }).countServed o.1.status) who (ddpResponse l o.1)
      have hcount : ((o.2.hw.modSide fun x => { x with requests := rest }).countServed o.1.status).side = { s.hw.side with requests := rest } := by
        rw [Hw.side_countServed]
        exact congrArg (fun x : Side => { x with requests := rest }) hs
      rw [hcount] at hside
      have ht : t.hw.side = _ := hts.trans hside
      simp only [State.Answered, ht, heq]
      exact ⟨rfl, cc, who, l, ddpResponse l o.1, rfl, ddpResponse_status _ _, rfl⟩

/-- Reading the entries of waiting rings is the memory port's. -/
theorem Hw.sameButMem_readEntries (h : Hw) : Hw.SameButMem h.readEntries h := by
  refine Hw.sameButMem_foldl _ (fun a r => ?_) _ _
  unfold Hw.readEntry
  dsimp only
  split
  · exact a.sameButMem_memPost ..
  · exact .refl a

theorem Hw.sameButMem_openRings (b h : Hw) : Hw.SameButMem (b.openRings h) h := by
  unfold Hw.openRings
  split
  · exact h.sameButMem_readEntries
  · exact .refl h

theorem State.sameStored_capImage (s : State) : Hw.SameStored s.capImage.hw s.hw := by
  unfold State.capImage
  split
  · exact s.sameStored_writeImage
  · exact .refl _

theorem State.win_capImage (s : State) : s.capImage.win = s.win := by
  unfold State.capImage State.writeImage
  split
  · dsimp only
    split <;> rfl
  · rfl

/-- What a request that may enter OPERATIONAL leaves of the island that its effect left: engine, facets and the plain values. -/
structure Hw.Kept (a b : Hw) : Prop where
  eng : a.eng = b.eng
  facets : a.facets = b.facets
  od : ∀ i s, i < 0xB000 → s < 256 → i ≠ 0x2400 → i ≠ 0x1200 → i ≠ 0x2112 → Map.find? a.od (odKey i s 0) = Map.find? b.od (odKey i s 0)

section
variable {s : State} {p : Path} {idx sub v : Nat} {mine : Req → Bool} {e : Entry}

/-- A taken WRITE, whether it enters OPERATIONAL or not. -/
theorem State.Takes.kept (h : s.Takes p idx sub v mine e) {st : Status} {t : State}
    (ho : (s.begun p).ownScalar idx sub (s.hw.objOf p e.sel) v = (st, t)) (hwin : t.win = s.win) (hside : t.hw.side = s.hw.side)
    (hf : t.hw.faults = []) : Hw.Kept (s.serve p mine).hw t.hw ∧ s.Answered (s.serve p mine) st p := by
  obtain ⟨r, hr, hm, hc⟩ := h.carryOut
  rw [ho] at hc
  have hd : p = .ddp → (s.begun p).hw.side.requests ≠ [] := fun hp => by subst hp; exact request_ddp hr
  have hserve : s.serve p mine = { ({ (s.begun p).replied p (.of st, t) with
      hw := (s.begun p).hw.openRings ((s.begun p).replied p (.of st, t)).hw } : State).capImage with
      hw := Hw.settle (s.hw.started (s.servePart p)) (({ (s.begun p).replied p (.of st, t) with
        hw := (s.begun p).hw.openRings ((s.begun p).replied p (.of st, t)).hw } : State).capImage).hw.runFaults } := by
    unfold State.serve
    rw [State.onAllAt_ready _ _ _ _ h.ready, ← hc, ← State.serveOne_of s p mine r hr hm]
    rfl
  have hopen := (s.begun p).hw.sameButMem_openRings ((s.begun p).replied p (.of st, t)).hw
  have hin := State.replied_inner (s.begun p) p (.of st, t) hd
  have hod := State.replied_od (s.begun p) p (.of st, t) hd
  have hfl := (State.replied_faults (s.begun p) p (.of st, t) hd).trans hf
  have hans := fun x => s.answered_of_replied p r hr (.of st, t) hwin hside x
  generalize hy : (s.begun p).replied p (.of st, t) = y at *
  have hcap := ({ y with hw := (s.begun p).hw.openRings y.hw } : State).sameStored_capImage
  have hwin' : ({ y with hw := (s.begun p).hw.openRings y.hw } : State).capImage.win = y.win :=
    ({ y with hw := (s.begun p).hw.openRings y.hw } : State).win_capImage
  generalize ({ y with hw := (s.begun p).hw.openRings y.hw } : State).capImage = z at *
  have hzf : z.hw.faults = [] := hcap.faults.trans (hopen.faults.trans hfl)
  rw [hserve, Hw.runFaults_none _ hzf]
  have heng : y.hw.eng = t.hw.eng := by
    have e := congrArg Hw.eng hin
    exact e
  have hfac : y.hw.facets = t.hw.facets := by
    have e := congrArg Hw.facets hin
    exact e
  refine ⟨⟨?_, ?_, fun i j hi hj h1 h2 h3 => ?_⟩, hans _ hwin' ?_⟩
  · exact (Hw.settle_eng _ _).trans (hcap.eng.trans (hopen.eng.trans heng))
  · exact (Hw.settle_facets _ _).trans (hcap.facets.trans (hopen.facets.trans hfac))
  · refine (Hw.settle_find? _ _ _ (plainKey_obs (plainKey_low i j hj hi h1))).trans ?_
    refine (hcap.od _ (odKey_idx_ne _ _ _ _ _ _ hj (by decide) (by omega)) (odKey_idx_ne _ _ _ _ _ _ hj (by decide) h2)).trans ?_
    exact (hopen.od i j 0 h3 hj).trans (hod _ (plainKey_low i j hj hi h1))
  · have hz : z.hw.side = ((s.begun p).hw.openRings y.hw).side := by
      have e := congrArg Hw.side hcap.body
      exact e
    exact (Hw.settle_side _ _).trans (hz.trans hopen.side)

end

/-! ## Where the requests lead -/

/-- Dropping the admission under way changes pages, admission, memory uses and rings. -/
theorem Hw.dropTrial_some (h : Hw) : ∃ x a m l, h.dropTrial = { h with pages := x, adm := a, mem := m, rings := l } := by
  unfold Hw.dropTrial
  cases h.adm.trial with
  | none => exact ⟨_, _, _, _, rfl⟩
  | some t =>
    obtain ⟨x, hx⟩ := Hw.giveBack_eq { h with adm := { h.adm with trial := none } } (t.walk.getD [])
    dsimp only
    rw [hx]
    cases t.ring with
    | none => exact ⟨_, _, _, _, rfl⟩
    | some r => exact ⟨_, _, _, _, rfl⟩

theorem Hw.closeAdmission_eq (h : Hw) : ∃ x a m l, h.closeAdmission = { h with pages := x, adm := a, mem := m, rings := l } := by
  obtain ⟨x, a, m, l, he⟩ := h.dropTrial_some
  unfold Hw.closeAdmission
  rw [he]
  exact ⟨_, _, _, _, rfl⟩

/-- An ACTIVE facet drains. -/
def Hw.drainFacet (h : Hw) (f : Nat) : Hw := if (h.facet f).state = .active then h.modFacet f fun x => { x with state := .draining } else h

/-- The state of a facet once the ACTIVE ones drain. -/
def drainedState (st : FacetState) : FacetState := if st = .active then .draining else st

theorem Hw.facet_drainFacet (h : Hw) (f k : Nat) :
    ((h.drainFacet f).facet k).state = if k = f then drainedState (h.facet k).state else (h.facet k).state := by
  unfold Hw.drainFacet drainedState
  by_cases hk : k = f
  · subst hk
    rw [if_pos rfl]
    split
    · rw [Hw.facet_modFacet]
    · rfl
  · rw [if_neg hk]
    split
    · rw [Hw.facet_modFacet_ne _ _ _ _ hk]
    · rfl

/-- After all facets of a list have been asked to drain, its ACTIVE ones do. -/
theorem Hw.foldl_drainFacet (h : Hw) (l : List Nat) (k : Nat) :
    ((l.foldl Hw.drainFacet h).facet k).state = if k ∈ l then drainedState (h.facet k).state else (h.facet k).state := by
  induction l generalizing h with
  | nil => rfl
  | cons f r ih =>
    have htwice : ∀ st, drainedState (drainedState st) = drainedState st := fun st => by cases st <;> rfl
    rw [List.foldl_cons, ih, Hw.facet_drainFacet]
    by_cases hk : k = f <;> by_cases hr : k ∈ r <;> simp [hk, hr, htwice]

theorem Hw.foldl_drainFacet_eq (h : Hw) (l : List Nat) : ∃ m, l.foldl Hw.drainFacet h = { h with facets := m } := by
  induction l generalizing h with
  | nil => exact ⟨_, rfl⟩
  | cons f r ih =>
    rw [List.foldl_cons]
    unfold Hw.drainFacet
    split
    · obtain ⟨m, hm⟩ := ih (h.modFacet f fun x => { x with state := .draining })
      exact ⟨m, hm⟩
    · exact ih h

theorem Hw.get_enter (h : Hw) (st : EngState) : (h.enter st).get 0x1103 1 = h.eng.state.code :=
  (Hw.getAt_setAt_ne (h.set 0x1103 1 h.eng.state.code) 0x1103 1 0 0x1104 1 0 _ (by decide)).trans (Hw.get_set _ _ _ _)

/-- The island of an engine that starts to drain, its facets apart. -/
def Hw.draining (h : Hw) (ns : Nat) (target : Option EngState) : Hw :=
  { h.enter .draining with eng := { (h.enter .draining).eng with pendingTarget := target, drainNs := ns, limitHit := false } }

theorem Hw.draining_spec (h : Hw) (ns : Nat) (target : Option EngState) : (h.draining ns target).eng.state = .draining ∧
    (h.draining ns target).eng.pendingTarget = target ∧ (h.draining ns target).facets = h.facets ∧ (h.draining ns target).side = h.side ∧
    (h.draining ns target).faults = h.faults ∧ (h.draining ns target).get 0x1103 1 = h.eng.state.code :=
  ⟨rfl, rfl, rfl, rfl, rfl, h.get_enter .draining⟩

theorem Hw.startDrain_eq (h : Hw) (target : Option EngState) :
    h.startDrain target = (List.range 16).foldl Hw.drainFacet (h.closeAdmission.draining h.now target) := rfl

/-- The start of the engine's drain. -/
theorem Hw.startDrain_spec (h : Hw) (target : Option EngState) : (h.startDrain target).eng.state = .draining ∧
    (h.startDrain target).eng.pendingTarget = target ∧ (h.startDrain target).get 0x1103 1 = h.eng.state.code ∧
    (h.startDrain target).side = h.side ∧ (h.startDrain target).faults = h.faults ∧
    ∀ f : Fin 16, ((h.startDrain target).facet f).state = drainedState (h.facet f).state := by
  have hf : ∀ f : Fin 16, f.val ∈ List.range 16 := fun f => List.mem_range.mpr f.isLt
  obtain ⟨x, a, m, l, hc⟩ := h.closeAdmission_eq
  have heng : h.closeAdmission.eng = h.eng := by rw [hc]
  have hfacets : h.closeAdmission.facets = h.facets := by rw [hc]
  have hside : h.closeAdmission.side = h.side := by rw [hc]
  have hfaults : h.closeAdmission.faults = h.faults := by rw [hc]
  obtain ⟨hst, htg, hfc, hsd, hfl, hget⟩ := h.closeAdmission.draining_spec h.now target
  rw [Hw.startDrain_eq]
  generalize h.closeAdmission.draining h.now target = b at *
  obtain ⟨n, hn⟩ := b.foldl_drainFacet_eq (List.range 16)
  refine ⟨?_, ?_, ?_, ?_, ?_, fun f => ?_⟩
  · rw [hn]
    exact hst
  · rw [hn]
    exact htg
  · rw [hn, ← heng]
    exact hget
  · rw [hn, ← hside]
    exact hsd
  · rw [hn, ← hfaults]
    exact hfl
  · rw [b.foldl_drainFacet, if_pos (hf f)]
    unfold Hw.facet
    rw [hfc, hfacets]

/-- An entry into OPERATIONAL before its state changes: the credits of every partition, and from CONFIG the features in force. -/
def Hw.preparing (h : Hw) : Hw :=
  (List.range 64).foldl (fun a p => a.modPart p fun x => { x with credits := a.get 0x2200 (p + 1) })
    (if h.eng.state = .config then (List.range 4).foldl (fun a i => a.set 0x1012 (i + 1) (a.get 0x1011 (i + 1))) h else h)

theorem Hw.enterOperational_eq (h : Hw) : h.enterOperational = h.preparing.enter .operational := rfl

theorem Hw.foldl_credits_eq (h : Hw) (l : List Nat) :
    ∃ m, l.foldl (fun a p => a.modPart p fun x => { x with credits := a.get 0x2200 (p + 1) }) h = { h with parts := m } := by
  induction l generalizing h with
  | nil => exact ⟨_, rfl⟩
  | cons p r ih =>
    obtain ⟨m, hm⟩ := ih (h.modPart p fun x => { x with credits := h.get 0x2200 (p + 1) })
    exact ⟨m, hm⟩

theorem Hw.foldl_features_eq (h : Hw) (l : List Nat) :
    ∃ m, l.foldl (fun a i => a.set 0x1012 (i + 1) (a.get 0x1011 (i + 1))) h = { h with od := m } := by
  induction l generalizing h with
  | nil => exact ⟨_, rfl⟩
  | cons p r ih =>
    obtain ⟨m, hm⟩ := ih (h.set 0x1012 (p + 1) (h.get 0x1011 (p + 1)))
    exact ⟨m, hm⟩

/-- An entry into OPERATIONAL touches partitions and dictionary alone. -/
theorem Hw.preparing_eq (h : Hw) : ∃ m n, h.preparing = { h with parts := m, od := n } := by
  unfold Hw.preparing
  split
  · obtain ⟨n, hn⟩ := h.foldl_features_eq (List.range 4)
    rw [hn]
    obtain ⟨m, hm⟩ := ({ h with od := n } : Hw).foldl_credits_eq (List.range 64)
    exact ⟨m, n, hm⟩
  · obtain ⟨m, hm⟩ := h.foldl_credits_eq (List.range 64)
    exact ⟨m, _, hm⟩

/-- From CONFIG the accepted features are in force. -/
theorem Hw.preparing_features (h : Hw) (he : h.eng.state = .config) (i : Fin 4) : h.preparing.get 0x1012 (i + 1) = h.get 0x1011 (i + 1) := by
  obtain ⟨m, hm⟩ := ((List.range 4).foldl (fun a i => a.set 0x1012 (i + 1) (a.get 0x1011 (i + 1))) h).foldl_credits_eq (List.range 64)
  have hne : ∀ m n : Nat, m ≠ n → odKey 0x1012 (m + 1) 0 ≠ odKey 0x1012 (n + 1) 0 := fun m n hmn =>
    odKey_sub_ne _ _ _ _ _ (fun h => hmn (Nat.succ.inj h))
  have hni : ∀ m n : Fin 4, odKey 0x1011 (m.val + 1) 0 ≠ odKey 0x1012 (n.val + 1) 0 := fun m n =>
    odKey_idx_ne _ _ _ _ _ _ (by omega) (by omega) (by decide)
  unfold Hw.preparing
  rw [if_pos he, hm]
  show ((List.range 4).foldl (fun a i => a.set 0x1012 (i + 1) (a.get 0x1011 (i + 1))) h).get 0x1012 (i + 1) = _
  have hr : List.range 4 = [0, 1, 2, 3] := rfl
  rw [hr]
  simp only [List.foldl_cons, List.foldl_nil]
  fin_cases i <;> simp [Hw.get_set, Hw.get_set_ne, odKey]

theorem Hw.enterOperational_spec (h : Hw) : h.enterOperational.eng = { h.eng with state := .operational } ∧
    h.enterOperational.facets = h.facets ∧ h.enterOperational.side = h.side ∧ h.enterOperational.faults = h.faults ∧
    h.enterOperational.get 0x1103 1 = h.eng.state.code := by
  obtain ⟨m, n, hp⟩ := h.preparing_eq
  rw [Hw.enterOperational_eq, hp]
  exact ⟨rfl, rfl, rfl, rfl, Hw.get_enter _ _⟩

theorem State.ownScalar_stateRequest (s : State) (obj v : Nat) :
    s.ownScalar 0x1101 1 obj v = ((s.hw.stateRequest v).1, { s with hw := (s.hw.stateRequest v).2 }) := rfl

def stateRequestEntry : Entry := ⟨0x1101, 1, 1, .u8, .wo, false, 3, 6, .none⟩
theorem lookup_stateRequest : lookup 0x1101 1 = some stateRequestEntry := by decide +kernel
theorem governs_stateRequest : governs 0x1101 1 = none := by decide

theorem Hw.askQuiesced_operational (h : Hw) (he : h.eng.state = .operational) : h.stateRequest 6 = (.ok, h.startDrain none) := by
  show h.askQuiesced = _
  unfold Hw.askQuiesced
  rw [he]

theorem Hw.askQuiesced_draining (h : Hw) (he : h.eng.state = .draining) : h.stateRequest 6 = (.ok, h.setTarget none) := by
  show h.askQuiesced = _
  unfold Hw.askQuiesced
  rw [he]

theorem Hw.askConfig_operational (h : Hw) (he : h.eng.state = .operational) : h.stateRequest 3 = (.ok, h.startDrain (some .config)) := by
  show h.askConfig = _
  unfold Hw.askConfig
  rw [he]

theorem Hw.askConfig_quiesced (h : Hw) (he : h.eng.state = .quiesced) : h.stateRequest 3 = (.ok, h.enter .config) := by
  show h.askConfig = _
  unfold Hw.askConfig
  rw [he]

theorem Hw.askConfig_draining (h : Hw) (he : h.eng.state = .draining) : h.stateRequest 3 = (.ok, h.setTarget (some .config)) := by
  show h.askConfig = _
  unfold Hw.askConfig
  rw [he]

theorem Hw.askOperational_quiesced (h : Hw) (he : h.eng.state = .quiesced) (hs : h.tableShort = false) :
    h.stateRequest 4 = (.ok, h.enterOperational) := by
  show h.askOperational = _
  unfold Hw.askOperational
  simp [he, hs]

theorem Hw.askOperational_config (h : Hw) (he : h.eng.state = .config) (hf : ∃ f : Fin 16, (h.facet f).state = .standby)
    (hs : h.tableShort = false) : h.stateRequest 4 = (.ok, h.enterOperational) := by
  obtain ⟨f, hf⟩ := hf
  have hany : ((List.range 16).any fun f => (h.facet f).state == .standby) = true :=
    List.any_eq_true.mpr ⟨f, List.mem_range.mpr f.isLt, by simp [hf]⟩
  show h.askOperational = _
  unfold Hw.askOperational
  simp only [he, hany, hs, if_true, Bool.false_eq_true, if_false]

theorem Hw.askOperational_short (h : Hw) (he : h.eng.state = .quiesced ∨ h.eng.state = .draining) (hs : h.tableShort = true) :
    h.stateRequest 4 = (.state, h) := by
  show h.askOperational = _
  unfold Hw.askOperational
  rcases he with he | he <;> simp [he, hs]

theorem Hw.askOperational_draining (h : Hw) (he : h.eng.state = .draining) (hs : h.tableShort = false) :
    h.stateRequest 4 = (.ok, h.setTarget (some .operational)) := by
  show h.askOperational = _
  unfold Hw.askOperational
  simp [he, hs]

theorem Hw.Kept.get {a b : Hw} (h : Hw.Kept a b) (i s : Nat) (hi : i < 0xB000) (hs : s < 256) (h1 : i ≠ 0x2400) (h2 : i ≠ 0x1200)
    (h3 : i ≠ 0x2112) : a.get i s = b.get i s := by
  simp only [Hw.get, Hw.getAt, h.od i s hi hs h1 h2 h3]

/-- A path's request to the engine, and what it leaves. -/
theorem State.stateRequest_kept (s : State) (p : Path) (v : Nat) (st : Status) (h : Hw) (hr : s.Ready) (ha : s.AsksWrite p 0x1101 1 v)
    (hv : 3 ≤ v ∧ v ≤ 6) (he : s.hw.eng.state = .config ∨ s.hw.eng.state = .operational ∨ s.hw.eng.state = .draining ∨ s.hw.eng.state = .quiesced)
    (ho : (s.begun p).hw.stateRequest v = (st, h)) (hside : h.side = s.hw.side) (hf : h.faults = s.hw.faults) :
    Hw.Kept (s.serve p fun r => r.writesValue 0x1101 v).hw h ∧ s.Answered (s.serve p fun r => r.writesValue 0x1101 v) st p := by
  obtain ⟨-, -, -, hfaults⟩ := hr.quiet
  have ht : s.Takes p 0x1101 1 v (fun r => r.writesValue 0x1101 v) stateRequestEntry :=
    ⟨hr, ha, lookup_stateRequest, fun _ h => h.writesValue, nofun, s.hw.serves_write _ he, by rcases he with he | he | he | he <;> rw [he] <;> rfl,
      fun f h => absurd (governs_stateRequest.symm.trans h) nofun, fun h => absurd h (by decide), hv⟩
  have hown := (s.begun p).ownScalar_stateRequest (s.hw.objOf p .none) v
  rw [ho] at hown
  exact ht.kept hown rfl hside (hf.trans hfaults)

/-- Settles O1: each request's effect on the engine, which the end of the command keeps. -/
theorem engineStateRequests : Obligations.EngineStateRequests := by
  unfold Obligations.EngineStateRequests
  intro s p hr
  have hdrain : ∀ v target, 3 ≤ v ∧ v ≤ 6 → s.AsksWrite p 0x1101 1 v → s.hw.eng.state = .operational →
      (s.begun p).hw.stateRequest v = (.ok, (s.begun p).hw.startDrain target) →
      s.Answered (s.serve p fun r => r.writesValue 0x1101 v) .ok p ∧
        (s.serve p fun r => r.writesValue 0x1101 v).hw.eng.state = .draining ∧
        (s.serve p fun r => r.writesValue 0x1101 v).hw.eng.pendingTarget = target ∧
        (s.serve p fun r => r.writesValue 0x1101 v).hw.get 0x1103 1 = 4 ∧
        ∀ f : Fin 16, ((s.serve p fun r => r.writesValue 0x1101 v).hw.facet f).state =
          if (s.hw.facet f).state = .active then .draining else (s.hw.facet f).state := by
    intro v target hv ha he ho
    obtain ⟨hst, htg, hget, hside, hf, hfacet⟩ := (s.begun p).hw.startDrain_spec target
    obtain ⟨hk, hans⟩ := s.stateRequest_kept p v _ _ hr ha hv (.inr (.inl he)) ho hside hf
    refine ⟨hans, by rw [hk.eng]; exact hst, by rw [hk.eng]; exact htg, ?_, fun f => ?_⟩
    · rw [hk.get 0x1103 1 (by decide) (by decide) (by decide) (by decide) (by decide), hget]
      exact congrArg EngState.code he
    · have hx := hfacet f
      unfold Hw.facet at hx ⊢
      rw [hk.facets]
      exact hx
  have hshort : s.AsksWrite p 0x1101 1 4 → s.hw.eng.state = .quiesced ∨ s.hw.eng.state = .draining → s.hw.tableShort = true →
      ∃ t, exec (.requestOperational p) s = .next t ∧ s.Answered t .state p ∧ t.hw.eng = s.hw.eng := fun ha he hs => by
    obtain ⟨hk, hans⟩ := s.stateRequest_kept p 4 _ _ hr ha (by decide) (he.elim (fun h => .inr (.inr (.inr h))) (fun h => .inr (.inr (.inl h))))
      ((s.begun p).hw.askOperational_short he hs) rfl rfl
    exact ⟨_, rfl, hans, hk.eng⟩
  refine ⟨fun ha he => ?_, fun ha he => ?_, fun ha he => ?_, fun ha he hs => ?_, fun ha he hf hs => ?_, hshort, fun ha he hs => ?_,
    fun ha he => ?_, fun ha he => ?_⟩
  · exact ⟨_, rfl, hdrain 6 none (by decide) ha he ((s.begun p).hw.askQuiesced_operational he)⟩
  · exact ⟨_, rfl, hdrain 3 (some .config) (by decide) ha he ((s.begun p).hw.askConfig_operational he)⟩
  · obtain ⟨hk, hans⟩ := s.stateRequest_kept p 3 _ _ hr ha (by decide) (.inr (.inr (.inr he))) ((s.begun p).hw.askConfig_quiesced he) rfl rfl
    refine ⟨_, rfl, hans, by rw [hk.eng]; rfl, ?_, hk.facets⟩
    rw [hk.get 0x1103 1 (by decide) (by decide) (by decide) (by decide) (by decide), Hw.get_enter]
    exact congrArg EngState.code he
  · obtain ⟨heng, hfacets, hside, hflt, hget⟩ := (s.begun p).hw.enterOperational_spec
    obtain ⟨hk, hans⟩ := s.stateRequest_kept p 4 _ _ hr ha (by decide) (.inr (.inr (.inr he)))
      ((s.begun p).hw.askOperational_quiesced he hs) hside hflt
    refine ⟨_, rfl, hans, by rw [hk.eng, heng], ?_, hk.facets.trans hfacets⟩
    rw [hk.get 0x1103 1 (by decide) (by decide) (by decide) (by decide) (by decide), hget]
    exact congrArg EngState.code he
  · obtain ⟨heng, hfacets, hside, hflt, hget⟩ := (s.begun p).hw.enterOperational_spec
    obtain ⟨hk, hans⟩ := s.stateRequest_kept p 4 _ _ hr ha (by decide) (.inl he)
      ((s.begun p).hw.askOperational_config he hf hs) hside hflt
    refine ⟨_, rfl, hans, by rw [hk.eng, heng], ?_, hk.facets.trans hfacets, fun i => ?_⟩
    · rw [hk.get 0x1103 1 (by decide) (by decide) (by decide) (by decide) (by decide), hget]
      exact congrArg EngState.code he
    · have henter : ∀ y : Hw, (y.enter .operational).get 0x1012 (i + 1) = y.get 0x1012 (i + 1) := fun y =>
        (Hw.getAt_setAt_ne (y.set 0x1103 1 y.eng.state.code) 0x1012 (i + 1) 0 0x1104 1 0 _
          (odKey_idx_ne _ _ _ _ _ _ (by omega) (by decide) (by decide))).trans
          (Hw.get_set_ne _ _ _ _ _ _ (odKey_idx_ne _ _ _ _ _ _ (by omega) (by decide) (by decide)))
      rw [hk.get 0x1012 (i + 1) (by decide) (by omega) (by decide) (by decide) (by decide), Hw.enterOperational_eq, henter]
      exact (s.begun p).hw.preparing_features he i
  · obtain ⟨hk, hans⟩ := s.stateRequest_kept p 4 _ _ hr ha (by decide) (.inr (.inr (.inl he)))
      ((s.begun p).hw.askOperational_draining he hs) rfl rfl
    exact ⟨_, rfl, hans, hk.eng⟩
  · obtain ⟨hk, hans⟩ := s.stateRequest_kept p 3 _ _ hr ha (by decide) (.inr (.inr (.inl he))) ((s.begun p).hw.askConfig_draining he) rfl rfl
    exact ⟨_, rfl, hans, hk.eng⟩
  · obtain ⟨hk, hans⟩ := s.stateRequest_kept p 6 _ _ hr ha (by decide) (.inr (.inr (.inl he))) ((s.begun p).hw.askQuiesced_draining he) rfl rfl
    exact ⟨_, rfl, hans, hk.eng⟩

end Sys2Proof.Machine

/-! PROOFS. R16, R31, R32, R200, R203: partitions, mode, marks and pinned batch of a facet. -/

namespace Sys2Proof.Machine

open Sys2Proof

/-! ## Partitions -/

/-- The partitions of the other facets. -/
def Hw.othersParts (h : Hw) (f : Nat) : Nat := ((List.range 16).filter fun g => g ≠ f).foldl (fun a g => a ||| h.raw 0x5000 (g + 1)) 0

theorem Hw.writeParts_taken (h : Hw) (f v : Nat) (hs : (h.facet f).state = .unassigned ∨ (h.facet f).state = .standby ∧ v ≠ 0)
    (hv : v < 2 ^ h.get 0x1000 8) (hm : v &&& h.raw 0x2201 1 = 0) (ho : v &&& h.othersParts f = 0)
    (hd : (h.set 0x5000 (f + 1) v).descSumOk (h.set 0x5000 (f + 1) v).withParts = true) :
    h.writeParts f v = (.ok, h.set 0x5000 (f + 1) v) := by
  have hstate : ¬(v ≠ h.raw 0x5000 (f + 1) ∧ (h.facet f).state ≠ .unassigned ∧ (h.facet f).state ≠ .standby) := by
    rintro ⟨-, h1, h2⟩
    exact hs.elim (fun h => h1 h) (fun h => h2 h.1)
  have hrest : ¬(v = 0 ∧ (h.facet f).state = .standby) := by
    rintro ⟨h1, h2⟩
    exact hs.elim (fun h => by rw [h] at h2; cases h2) (fun h => h.2 h1)
  unfold Hw.writeParts
  dsimp only
  rw [if_neg hstate, if_neg, if_neg (by simp [hd]), if_neg hrest]
  rintro (h1 | h1 | h1)
  · exact h1 ho
  · omega
  · exact h1 hm

theorem Hw.writeParts_busy (h : Hw) (f v : Nat) (hs : (h.facet f).state = .active) (hv : v ≠ h.raw 0x5000 (f + 1)) :
    h.writeParts f v = (.busy, h) := by
  unfold Hw.writeParts
  exact if_pos ⟨hv, by rw [hs]; exact nofun, by rw [hs]; exact nofun⟩

/-! ## Mode and marks -/

theorem Hw.writeMode_set (h : Hw) (f v : Nat) (hv : v < 4) : h.writeMode f v = (.ok, (h.set 0x5001 (f + 1) v).loadMarks f v) := by
  unfold Hw.writeMode
  rw [if_neg (by omega), if_neg (by omega)]

/-- The five staged marks of a facet take those of a mode's set. -/
def Hw.markLoad (h : Hw) (f mode : Nat) (l : List Nat) : Hw := l.foldl (fun a i => a.set (0x5200 + i) (f + 1) (a.get (0x5100 + mode) (8 + i))) h

theorem Hw.markLoad_eq (h : Hw) (f mode : Nat) (l : List Nat) : ∃ m, h.markLoad f mode l = { h with od := m } := by
  unfold Hw.markLoad
  induction l generalizing h with
  | nil => exact ⟨_, rfl⟩
  | cons i r ih =>
    obtain ⟨m, hm⟩ := ih (h.set (0x5200 + i) (f + 1) (h.get (0x5100 + mode) (8 + i)))
    exact ⟨m, hm⟩

/-- Loading marks changes no other value. -/
theorem Hw.get_markLoad_ne (h : Hw) (f mode i s : Nat) (l : List Nat) (hf : f < 255) (hs : s < 256) (hi : ∀ j ∈ l, i ≠ 0x5200 + j) :
    (h.markLoad f mode l).get i s = h.get i s := by
  unfold Hw.markLoad
  induction l generalizing h with
  | nil => rfl
  | cons j r ih =>
    refine (ih _ fun k hk => hi k (List.mem_cons_of_mem _ hk)).trans ?_
    exact Hw.get_set_ne _ _ _ _ _ _ (odKey_idx_ne _ _ _ _ _ _ hs (by omega) (hi j List.mem_cons_self))

theorem Hw.get_markLoad (h : Hw) (f mode i : Nat) (l : List Nat) (hf : f < 255) (hm : mode < 4) (hi : i < 5) (hl : ∀ j ∈ l, j < 5)
    (hmem : i ∈ l ∨ h.get (0x5200 + i) (f + 1) = h.get (0x5100 + mode) (8 + i)) :
    (h.markLoad f mode l).get (0x5200 + i) (f + 1) = h.get (0x5100 + mode) (8 + i) := by
  unfold Hw.markLoad
  induction l generalizing h with
  | nil => exact hmem.resolve_left List.not_mem_nil
  | cons j r ih =>
    have hj : j < 5 := hl j List.mem_cons_self
    have hset : (h.set (0x5200 + j) (f + 1) (h.get (0x5100 + mode) (8 + j))).get (0x5100 + mode) (8 + i) = h.get (0x5100 + mode) (8 + i) :=
      Hw.get_set_ne _ _ _ _ _ _ (odKey_idx_ne _ _ _ _ _ _ (by omega) (by omega) (by omega))
    refine (ih _ (fun k hk => hl k (List.mem_cons_of_mem _ hk)) ?_).trans hset
    rw [hset]
    by_cases hji : i = j
    · subst hji
      exact .inr (Hw.get_set _ _ _ _)
    · refine hmem.imp (fun h => (List.mem_cons.mp h).resolve_left hji) fun h => ?_
      exact (Hw.get_set_ne _ _ _ _ _ _ (odKey_idx_ne _ _ _ _ _ _ (by omega) (by omega) (by omega))).trans h

theorem Hw.loadMarks_eq (h : Hw) (f mode : Nat) : h.loadMarks f mode =
    (h.markLoad f mode (List.range 5)).modFacet f fun x => { x with setPending := true, setReady := !x.state.runs } := rfl

/-! ## The pinned batch -/

theorem Hw.pinnedEnable_on (h : Hw) (f : Nat) (hne : h.pinnedList f ≠ []) (hd : (distinct (h.pinnedList f)).length = (h.pinnedList f).length)
    (hn : (h.pinnedList f).length ≤ h.modeParam f 2)
    (hl : ∀ x ∈ h.pinnedList f, ∃ slot q, h.liveSlot x = some slot ∧ h.seq? slot = some q ∧ q.com.facet = f ∧ q.com.shareReduced = false) :
    h.pinnedEnable f 1 = (.ok, h.set 0x5031 (f + 1) 1) := by
  unfold Hw.pinnedEnable
  dsimp only
  rw [if_neg (by decide), if_neg]
  rintro (h1 | h1 | h1 | h1)
  · exact hne h1
  · exact h1 hd
  · obtain ⟨x, hx, hb⟩ := List.any_eq_true.mp h1
    obtain ⟨slot, q, hs, hq, hf, hr⟩ := hl x hx
    rw [hs] at hb
    simp [hq, hf, hr] at hb
  · omega

/-! ## Their entries -/

def partsEntry : Entry := ⟨0x5000, 1, 16, .u64, .rw, true, 0, 2 ^ 64 - 1, .none⟩
def modeEntry : Entry := ⟨0x5001, 1, 16, .u8, .rw, true, 0, 255, .none⟩
def pinnedEntry : Entry := ⟨0x5031, 1, 16, .bool, .rw, false, 0, 1, .none⟩

theorem lookup_parts : ∀ f : Fin 16, lookup 0x5000 (f + 1) = some partsEntry := by decide +kernel
theorem lookup_mode : ∀ f : Fin 16, lookup 0x5001 (f + 1) = some modeEntry := by decide +kernel
theorem lookup_pinned : ∀ f : Fin 16, lookup 0x5031 (f + 1) = some pinnedEntry := by decide +kernel
theorem governs_pinned (sub : Nat) : governs 0x5031 sub = some 63 := rfl

theorem State.ownScalar_parts (s : State) (f obj v : Nat) :
    s.ownScalar 0x5000 (f + 1) obj v = ((s.hw.writeParts f v).1, { s with hw := (s.hw.writeParts f v).2 }) := rfl
theorem State.ownScalar_mode (s : State) (f obj v : Nat) :
    s.ownScalar 0x5001 (f + 1) obj v = ((s.hw.writeMode f v).1, { s with hw := (s.hw.writeMode f v).2 }) := rfl
theorem State.ownScalar_pinned (s : State) (f obj v : Nat) :
    s.ownScalar 0x5031 (f + 1) obj v = ((s.hw.pinnedEnable f v).1, { s with hw := (s.hw.pinnedEnable f v).2 }) := rfl

/-- Settles O6: what each write of a facet's configuration stores, and that it keeps the other facets. -/
theorem facetConfiguration : Obligations.FacetConfiguration := by
  unfold Obligations.FacetConfiguration
  intro s p f v hr he
  obtain ⟨-, -, -, hfaults⟩ := hr.quiet
  have hsub : ∀ k : Fin 16, k.val + 1 < 256 := fun k => by omega
  have hparts : s.AsksWrite p 0x5000 (f + 1) v → s.Takes p 0x5000 (f + 1) v (fun r => r.writes 0x5000) partsEntry := fun ha =>
    s.takes_operational p 0x5000 (f + 1) v _ _ hr he ha (lookup_parts f) (fun _ h => h.writes) nofun rfl
      (fun g h => absurd ((governs_none (by decide) (by decide)).symm.trans h) nofun) (by decide)
      ⟨Nat.zero_le _, ha.le_u64 (by rw [sizeOf, lookup_parts]; rfl)⟩
  have hkey : ∀ k : Fin 16, plainKey (odKey 0x5000 (k + 1) 0) = true := fun k => plainKey_low _ _ (hsub k) (by decide) (by decide)
  refine ⟨fun ha hs hv hm ho hd => ?_, fun ha hs hv => ?_, fun ha hv => ?_, fun i ha hm => ?_, fun i ha hm => ?_, fun ha hf hne hd hn hl => ?_⟩
  · have hown := (s.begun p).ownScalar_parts f (s.hw.objOf p .none) v
    rw [(s.begun p).hw.writeParts_taken f v hs hv hm ho hd] at hown
    obtain ⟨hsv, hans⟩ := (hparts ha).served hown rfl rfl hfaults id
    refine ⟨_, rfl, hans, (hsv.raw _ _ (hkey f)).trans (Hw.raw_set _ _ _ _), hsv.facets, fun k hk => (hsv.raw _ _ (hkey k)).trans ?_⟩
    exact Hw.raw_set_ne _ _ _ _ _ _ (odKey_sub_ne _ _ _ _ _ fun h => hk (Fin.ext (Nat.succ.inj h)))
  · have hown := (s.begun p).ownScalar_parts f (s.hw.objOf p .none) v
    rw [(s.begun p).hw.writeParts_busy f v hs hv] at hown
    obtain ⟨hsv, hans⟩ := (hparts ha).served hown rfl rfl hfaults id
    exact ⟨_, rfl, hans, hsv.raw _ _ (hkey f), hsv.facets⟩
  · have ht := s.takes_operational p 0x5001 (f + 1) v (fun r => r.writes 0x5001) modeEntry hr he ha (lookup_mode f) (fun _ h => h.writes) nofun rfl
      (fun g h => absurd ((governs_none (by decide) (by decide)).symm.trans h) nofun) (by decide) ⟨Nat.zero_le _, by
        show v ≤ 255
        omega⟩
    have hown := (s.begun p).ownScalar_mode f (s.hw.objOf p .none) v
    obtain ⟨m, hload⟩ := ((s.begun p).hw.set 0x5001 (f + 1) v).markLoad_eq f v (List.range 5)
    have hmarks : ∀ i : Fin 5, (((s.begun p).hw.set 0x5001 (f + 1) v).markLoad f v (List.range 5)).get (0x5200 + i) (f + 1) =
        s.hw.get (0x5100 + v) (8 + i) := fun i => by
      rw [Hw.get_markLoad _ f v i _ (by omega) hv i.isLt (fun j hj => List.mem_range.mp hj) (.inl (List.mem_range.mpr i.isLt))]
      exact Hw.get_set_ne _ _ _ _ _ _ (odKey_idx_ne _ _ _ _ _ _ (by omega) (by omega) (by omega))
    have hmode : (((s.begun p).hw.set 0x5001 (f + 1) v).markLoad f v (List.range 5)).get 0x5001 (f + 1) = v := by
      rw [Hw.get_markLoad_ne _ f v _ _ _ (by omega) (hsub f) (fun j _ => by omega)]
      exact Hw.get_set _ _ _ _
    rw [(s.begun p).hw.writeMode_set f v hv, Hw.loadMarks_eq] at hown
    rw [hload] at hown hmarks hmode
    obtain ⟨hsv, hans⟩ := ht.served hown rfl rfl hfaults id
    refine ⟨_, rfl, hans, (hsv.get _ _ (plainKey_low _ _ (hsub f) (by decide) (by decide))).trans hmode,
      fun i => (hsv.get _ _ (plainKey_low _ _ (hsub f) (by omega) (by omega))).trans (hmarks i), (hsv.facet f).trans ?_,
      fun k hk => (hsv.facet k).trans ?_⟩
    · exact Hw.facet_modFacet _ _ _
    · exact Hw.facet_modFacet_ne _ _ _ _ fun h => hk (Fin.ext h)
  · obtain ⟨hserved, hanswered⟩ := s.markWrite_served p i f v hr (.inr (.inl he)) ha
    rw [(s.begun p).hw.writeMark_legal i f v hm] at hanswered hserved
    refine ⟨_, exec_markWrite p s, hanswered, (hserved.mark i f).trans (Hw.get_set _ _ _ _), hserved.facets, fun j hj => (hserved.mark j f).trans ?_⟩
    exact Hw.get_set_ne _ _ _ _ _ _ (odKey_idx_ne _ _ _ _ _ _ (hsub f) (hsub f) fun h => hj (Fin.ext (by omega)))
  · obtain ⟨hserved, hanswered⟩ := s.markWrite_served p i f v hr (.inr (.inl he)) ha
    rw [(s.begun p).hw.writeMark_illegal i f v hm] at hanswered hserved
    exact ⟨_, exec_markWrite p s, hanswered, hserved.facets, fun j => hserved.mark j f⟩
  · have ht := s.takes_operational p 0x5031 (f + 1) 1 (fun r => r.writes 0x5031) pinnedEntry hr he ha (lookup_pinned f) (fun _ h => h.writes)
      nofun rfl (fun g h => by rw [governs_pinned] at h; cases h; exact hf) (by decide) ⟨Nat.zero_le _, Nat.le_refl _⟩
    have hown := (s.begun p).ownScalar_pinned f (s.hw.objOf p .none) 1
    rw [(s.begun p).hw.pinnedEnable_on f hne hd hn hl] at hown
    obtain ⟨hsv, hans⟩ := ht.served hown rfl rfl hfaults id
    exact ⟨_, rfl, hans, (hsv.raw _ _ (plainKey_low _ _ (hsub f) (by decide) (by decide))).trans (Hw.raw_set _ _ _ _), hsv.facets⟩

end Sys2Proof.Machine

/-! PROOFS. R359: the verdict that a resolved round gives the job that waits for it. -/

namespace Sys2Proof.Machine

open Sys2Proof

/-- A round of model 0 whose vote has been sent. -/
def openRound : Round :=
  { attempt := 0, votes := [], own := some 0, sent := true, verdict := 0, proposed := 0, digest := 0, sinceNs := 0, job := (0, false) }

/-- The learner job of facet 0 waits at its GATE for the round. -/
def votedHw : Hw :=
  { Hw.reset with
    eng := { Hw.reset.eng with state := .operational }
    jobs := [(0, { Job.idle with state := .running, gateReady := true })]
    learners := [(0, { Learner.reset with round := some openRound })]
    od := [(odKey 0x1012 1 0, 2 ^ 2)] }

/-- The window resolves the round of model 0 with verdict 2. -/
def votedState : State :=
  { State.reset with
    hw := votedHw
    win := { Window.reset with index := 0x8309, sub := 1, op := 1, busy := true, data := [(0, 2)] } }

theorem votedState_ready : votedState.Ready := ⟨rfl, rfl, rfl, ⟨rfl, rfl, rfl, rfl⟩⟩

theorem votedState_asks : votedState.AsksWrite .window 0x8309 1 2 := by
  have hroom : ((votedState.begun .window).serveOne .window fun _ => true).pendingBytes < 24576 := by decide +kernel
  exact ⟨nofun, hroom, votedState.windowReq, rfl, rfl, rfl, rfl, rfl, rfl, rfl, by decide +kernel, by decide +kernel⟩

/-- The decision that the learner job of facet 0 has after an outcome. -/
def decisionAfter : Host.Outcome State Fault Refusal → Option Nat
  | .next t => (t.hw.job 0 false).decision
  | _ => none

/-- The job's decision is the verdict: the telemetry ring has room. -/
theorem votedState_decides : decisionAfter (exec (.fedResolve .window) votedState) = some 2 := by decide +kernel

/-- Refutes O10: its last clause takes `2 * d + …` in `Fin 2`, where it is 0 whatever the verdict, and the decision of a job that waits at its
GATE is the verdict 2. -/
theorem not_modelRequests : ¬ Obligations.ModelRequests := by
  unfold Obligations.ModelRequests
  intro h
  obtain ⟨-, -, -, -, -, -, -, -, -, -, -, -, hresolve⟩ := h.2 votedState .window 0 votedState_ready rfl rfl
  obtain ⟨t, ht, -, -, hdecision⟩ := hresolve 1 openRound 0 false votedState_asks (by decide +kernel) rfl (by decide +kernel)
    (by decide +kernel) rfl
  have hzero : decisionAfter (.next t) = some 0 := hdecision
  rw [← ht, votedState_decides] at hzero
  exact absurd hzero (by decide)

end Sys2Proof.Machine

/-! PROOFS. What a decision, a round and a shadow slot leave of the island and of the jobs (R344 to R348, R357, R358). -/

namespace Sys2Proof.Machine

open Sys2Proof

/-! ## What the learner's side keeps -/

/-- An island without what learner, federation and memory port change. -/
def Hw.unlearned (h : Hw) : Hw :=
  { h with od := [], dom := [], learners := [], jobs := [], events := Hw.reset.events, mem := Hw.reset.mem, fed := Hw.reset.fed }

/-- A job without its attempt: the shadow, the sums and the decision. -/
def Job.course (j : Job) : Job :=
  { j with sums := [], bad := none, holdsShadow := false, acquired := none, decision := none, retains := false, telemetryOk := false,
           nextHeaderOk := false }

/-- Only the learner's side has changed: every job goes on as it was. -/
structure Hw.Learned (a b : Hw) : Prop where
  body : a.unlearned = b.unlearned
  course : ∀ k v, (a.job k v).course = (b.job k v).course

theorem Hw.Learned.refl (a : Hw) : Hw.Learned a a := ⟨rfl, fun _ _ => rfl⟩

theorem Hw.Learned.trans {a b c : Hw} (h1 : Hw.Learned a b) (h2 : Hw.Learned b c) : Hw.Learned a c :=
  ⟨h1.body.trans h2.body, fun k v => (h1.course k v).trans (h2.course k v)⟩

theorem Hw.Learned.eng {a b : Hw} (h : Hw.Learned a b) : a.eng = b.eng := by have e := congrArg Hw.eng h.body; exact e
theorem Hw.Learned.faults {a b : Hw} (h : Hw.Learned a b) : a.faults = b.faults := by have e := congrArg Hw.faults h.body; exact e
theorem Hw.Learned.side {a b : Hw} (h : Hw.Learned a b) : a.side = b.side := by have e := congrArg Hw.side h.body; exact e

theorem Hw.Learned.parts {a b : Hw} (h : Hw.Learned a b) : a.parts = b.parts := by have e := congrArg Hw.parts h.body; exact e
theorem Hw.Learned.descs {a b : Hw} (h : Hw.Learned a b) : a.descs = b.descs := by have e := congrArg Hw.descs h.body; exact e
theorem Hw.Learned.facets {a b : Hw} (h : Hw.Learned a b) : a.facets = b.facets := by have e := congrArg Hw.facets h.body; exact e

/-- A change beside the jobs. -/
theorem Hw.Learned.of_body {a b : Hw} (h : a.unlearned = b.unlearned) (hj : a.jobs = b.jobs) : Hw.Learned a b :=
  ⟨h, fun k v => congrArg (fun m => (Map.getD m (jobKey k v) Job.idle).course) hj⟩

theorem Hw.Learned.of_mem {a b : Hw} (h : Hw.SameButMem a b) : Hw.Learned a b :=
  .of_body (by have e := congrArg Hw.unlearned h.body; exact e) h.jobs

theorem Hw.learned_ite {c : Prop} [Decidable c] {a b h : Hw} (ha : Hw.Learned a h) (hb : Hw.Learned b h) :
    Hw.Learned (if c then a else b) h := by
  split
  · exact ha
  · exact hb

theorem Hw.learned_foldl {α : Type} (g : Hw → α → Hw) (hg : ∀ b a, Hw.Learned (g b a) b) (l : List α) (b : Hw) :
    Hw.Learned (l.foldl g b) b := by
  induction l generalizing b with
  | nil => exact .refl b
  | cons a r ih => exact (ih (g b a)).trans (hg b a)

theorem Hw.job_setJob_ne (h : Hw) (f k : Nat) (u v : Bool) (j : Job) (hne : ¬(k = f ∧ v = u)) : (h.setJob f u j).job k v = h.job k v := by
  have hk : jobKey k v ≠ jobKey f u := by
    intro e
    unfold jobKey at e
    cases u <;> cases v <;> simp at e hne <;> omega
  exact Map.getD_insert_ne _ _ _ _ _ hk

theorem Hw.job_modJob_ne (h : Hw) (f k : Nat) (u v : Bool) (g : Job → Job) (hne : ¬(k = f ∧ v = u)) : (h.modJob f u g).job k v = h.job k v :=
  h.job_setJob_ne f k u v _ hne

/-- A job whose course stays. -/
theorem Hw.learned_setJob (h : Hw) (f : Nat) (u : Bool) (j : Job) (hj : j.course = (h.job f u).course) : Hw.Learned (h.setJob f u j) h := by
  refine ⟨rfl, fun k v => ?_⟩
  by_cases he : k = f ∧ v = u
  · obtain ⟨rfl, rfl⟩ := he
    rw [Hw.job_setJob, hj]
  · rw [h.job_setJob_ne f k u v j he]

theorem Hw.learned_modJob (h : Hw) (f : Nat) (u : Bool) (g : Job → Job) (hg : ∀ j, (g j).course = j.course) :
    Hw.Learned (h.modJob f u g) h := h.learned_setJob f u _ (hg _)

/-- A job that ends its hold of the shadow. -/
theorem Hw.learned_unshadow (h : Hw) (f : Nat) (u : Bool) :
    Hw.Learned (h.modJob f u fun x => { x with holdsShadow := false, acquired := none }) h := h.learned_modJob f u _ fun _ => rfl

theorem Hw.learned_setAt (h : Hw) (i s o v : Nat) : Hw.Learned (h.setAt i s o v) h := .of_body rfl rfl
theorem Hw.learned_modLearner (h : Hw) (m : Nat) (g : Learner → Learner) : Hw.Learned (h.modLearner m g) h := .of_body rfl rfl
theorem Hw.learned_event (h : Hw) (fam tag sev : Nat) (f p : Option Nat) : Hw.Learned (h.event fam tag sev f p) h := .of_body rfl rfl

/-! ## Shadows, flips and decisions -/

theorem Hw.learned_endShadow (h : Hw) (f : Nat) (u : Bool) (m st : Nat) : Hw.Learned (h.endShadow f u m st) h := by
  unfold Hw.endShadow
  refine (Hw.learned_unshadow ..).trans ((Hw.learned_modLearner ..).trans ?_)
  split
  · exact Hw.learned_ite (.of_body rfl rfl) (.refl h)
  · exact .refl h

theorem Hw.learned_serveShadow (h : Hw) (m : Nat) : Hw.Learned (h.serveShadow m) h := by
  unfold Hw.serveShadow
  dsimp only
  split
  · split
    · refine Hw.Learned.trans (Hw.learned_modJob _ _ _ _ ?_) (.of_body rfl rfl)
      exact fun _ => rfl
    · exact .of_body rfl rfl
    · exact .refl h
  · exact .refl h

theorem Hw.learned_flipWalk (h : Hw) (m : Nat) : Hw.Learned (h.flipWalk m) h := h.learned_modLearner ..

theorem Hw.learned_closeRound (h : Hw) (m a v : Nat) : Hw.Learned (h.closeRound m a v) h := h.learned_modLearner ..

theorem Hw.learned_steer (h : Hw) (m : Nat) (j : Job) : Hw.Learned (h.steer m j) h := by
  unfold Hw.steer
  refine Hw.learned_ite (.refl h) (Hw.learned_foldl _ (fun b e => ?_) _ h)
  exact Hw.learned_ite (.refl b) (b.learned_modLearner ..)

theorem Hw.learned_growScale (h : Hw) (m : Nat) : Hw.Learned (h.growScale m) h := by
  unfold Hw.growScale
  exact Hw.learned_ite (Hw.learned_ite (.of_body rfl rfl) (.of_body rfl rfl)) (.of_body rfl rfl)

theorem Hw.learned_voidData (h : Hw) (m : Nat) : Hw.Learned (h.voidData m) h := by
  unfold Hw.voidData
  exact Hw.learned_ite (.of_body rfl rfl) (.of_body rfl rfl)

/-- The island of a decision before its kind is told apart. -/
def Hw.judging (h : Hw) (f : Nat) (u : Bool) (m : Nat) : Hw :=
  ((h.keepNorms m (h.job f u)).bumpAt 0x802A 1 m 1).modJob f u fun x => { x with sums := [], bad := none }

theorem Hw.learned_judging (h : Hw) (f : Nat) (u : Bool) (m : Nat) : Hw.Learned (h.judging f u m) h := by
  unfold Hw.judging
  refine Hw.Learned.trans (Hw.learned_modJob _ _ _ _ ?_) (.of_body rfl rfl)
  exact fun _ => rfl

/-- The slots of a commit: the acquired one is CURRENT, the former CURRENT one PREVIOUS. -/
def Hw.commitSlots (h a : Hw) (f : Nat) (u : Bool) (m : Nat) : Hw :=
  let w := (h.job f u).acquired.getD (h.writeSlot m)
  let h1 := match h.currentSlot m with | some s => a.setSlot m s 4 | none => a
  ((h1.setSlot m w 3).setAt 0x8013 (w + 1) m (h.currentVersion m + 1)).modLearner m fun l =>
    { l with topVersion := max l.topVersion (h.currentVersion m + 1), keptVoids := 0, shadowOf := none }

theorem Hw.learned_commitSlots (h a : Hw) (f : Nat) (u : Bool) (m : Nat) : Hw.Learned (h.commitSlots a f u m) a := by
  unfold Hw.commitSlots
  dsimp only
  refine (Hw.learned_modLearner ..).trans ((Hw.learned_setAt ..).trans ((Hw.learned_setAt ..).trans ?_))
  split
  · exact a.learned_setAt ..
  · exact .refl a

/-- The counts at the end of a commit. -/
def Hw.commitEnd (a : Hw) (f : Nat) (u : Bool) (m : Nat) : Hw :=
  (((a.growScale m).bumpAt 0x802E 1 m 1).setAt 0x8031 1 m 0).modJob f u fun x => { x with holdsShadow := false, acquired := none }

theorem Hw.learned_commitEnd (a : Hw) (f : Nat) (u : Bool) (m : Nat) : Hw.Learned (a.commitEnd f u m) a :=
  (Hw.learned_unshadow ..).trans ((Hw.learned_setAt ..).trans ((Hw.learned_setAt ..).trans (a.learned_growScale m)))

/-- A commit. -/
def Hw.committing (h : Hw) (f : Nat) (u : Bool) (m : Nat) : Hw :=
  (((h.commitSlots (h.judging f u m) f u m).steer m (h.job f u)).bumpAt 0x8029 1 m 1).commitEnd f u m

theorem Hw.learned_committing (h : Hw) (f : Nat) (u : Bool) (m : Nat) : Hw.Learned (h.committing f u m) h :=
  (Hw.learned_commitEnd ..).trans ((Hw.learned_setAt ..).trans ((Hw.learned_steer ..).trans ((h.learned_commitSlots ..).trans
    (h.learned_judging f u m))))

/-- A void, or a job that ends as malformed, with its scale lowered and its run of voids counted. -/
def Hw.voiding (h a : Hw) (m : Nat) : Hw :=
  ((if h.bf16 m then a else a.setAt 0x8020 1 m (max (min (h.getAt 0x8020 1 m) (h.getAt 0x8022 1 m)) (h.getAt 0x8020 1 m - 1))).bumpAt
    0x802F 1 m 1).setAt 0x8031 1 m ((h.getAt 0x8031 1 m + 1) % 2 ^ 32)

/-- A decision is a commit, a void or the end of an attempt. -/
theorem Hw.applyDecision_eq (h : Hw) (f : Nat) (u : Bool) (m d : Nat) : h.applyDecision f u m d =
    if d = 0 then h.committing f u m
    else if d = 1 ∨ d = 4 then
      if (h.getAt 0x8031 1 m + 1) % 16 = 0 then
        (h.voiding (((h.judging f u m).endShadow f u m 0).voidData m) m).event 9 (351 * 16) 4 (some f) none
      else h.voiding (((h.judging f u m).endShadow f u m 0).voidData m) m
    else if h.federated m then ((h.judging f u m).endShadow f u m 0).bumpAt 0x8030 1 m 1
    else (h.judging f u m).endShadow f u m 0 := rfl

theorem Hw.learned_voiding (h a : Hw) (m : Nat) : Hw.Learned (h.voiding a m) a := by
  unfold Hw.voiding
  refine (Hw.learned_setAt ..).trans ((Hw.learned_setAt ..).trans ?_)
  exact Hw.learned_ite (.refl a) (a.learned_setAt ..)

theorem Hw.learned_applyDecision (h : Hw) (f : Nat) (u : Bool) (m d : Nat) : Hw.Learned (h.applyDecision f u m d) h := by
  have hj := h.learned_judging f u m
  have hend := ((h.judging f u m).learned_endShadow f u m 0).trans hj
  rw [h.applyDecision_eq f u m d]
  refine Hw.learned_ite ?_ (Hw.learned_ite ?_ (Hw.learned_ite ((Hw.learned_setAt ..).trans hend) hend))
  · exact h.learned_committing f u m
  · have hvoid := (h.learned_voiding (((h.judging f u m).endShadow f u m 0).voidData m) m).trans ((Hw.learned_voidData ..).trans hend)
    exact Hw.learned_ite ((Hw.learned_event ..).trans hvoid) hvoid

/-! ## Rounds -/

theorem Hw.learned_fedSend (h : Hw) (dest cls : Nat) (l : List Byte) : Hw.Learned (h.fedSend dest cls l) h := by
  obtain ⟨x, -, hs⟩ := h.fedSend_spec dest cls l
  exact (Hw.Learned.of_mem hs).trans (.of_body rfl rfl)

theorem Hw.learned_fedForward (h : Hw) (m v a p d : Nat) : Hw.Learned (h.fedForward m v a p d) h :=
  Hw.learned_foldl _ (fun b _ => b.learned_fedSend ..) _ h

theorem Hw.postDecision_spent (h : Hw) (f : Nat) (u : Bool) (d : Nat) (b : Bool) (hr : h.telemetryRoom (h.job f u).model = true) :
    ∃ j st k, h.postDecision f u d b = (((h.setJob f u j).writeTelemetry st f u d).writeHeader st f u k b).modJob f u (fun x =>
      { x with decision := some d, telemetryOk := false, nextHeaderOk := false }) ∧ j.course = (h.job f u).course := by
  unfold Hw.postDecision
  exact ⟨{ h.job f u with decision := some (d + 16), retains := b }, h.applyDecision f u (h.job f u).model d, _, if_pos hr, rfl⟩

theorem Hw.learned_postDecision (h : Hw) (f : Nat) (u : Bool) (d : Nat) (b : Bool) : Hw.Learned (h.postDecision f u d b) h := by
  have hset : ∀ j : Job, j.course = (h.job f u).course → Hw.Learned (h.setJob f u j) h := fun j hj => h.learned_setJob f u j hj
  cases hr : h.telemetryRoom (h.job f u).model with
  | true =>
    obtain ⟨j, st, k, e, hj⟩ := h.postDecision_spent f u d b hr
    rw [e]
    refine Hw.Learned.trans (Hw.learned_modJob _ _ _ _ fun _ => rfl) ((Hw.Learned.of_mem (Hw.sameButMem_writeHeader ..)).trans
      ((Hw.Learned.of_mem (Hw.sameButMem_writeTelemetry ..)).trans (hset j hj)))
  | false =>
    rw [h.postDecision_full f u d b hr]
    exact hset _ rfl

theorem Hw.learned_fedApply (h : Hw) (m v : Nat) : Hw.Learned (h.fedApply m v) h := by
  unfold Hw.fedApply
  split
  · exact .refl h
  · rename_i r hr
    split
    · exact Hw.learned_ite (.refl h) (h.learned_postDecision ..)
    · have hclose := (Hw.learned_closeRound _ m r.attempt v).trans (h.learned_applyDecision r.job.1 r.job.2 m v)
      exact (Hw.learned_serveShadow ..).trans (Hw.learned_ite ((Hw.learned_flipWalk ..).trans hclose) hclose)

theorem Hw.learned_fedProgress (h : Hw) (m : Nat) (late : Bool) : Hw.Learned (h.fedProgress m late) h := by
  unfold Hw.fedProgress
  split
  · exact .refl h
  · rename_i r hr
    dsimp only
    refine Hw.learned_ite (.refl h) ?_
    split
    · exact (Hw.learned_fedSend ..).trans (h.learned_modLearner ..)
    · exact (Hw.learned_fedApply ..).trans ((Hw.learned_fedForward ..).trans (h.learned_modLearner ..))

theorem Hw.learned_fedOwn (h : Hw) (f : Nat) (u : Bool) (m v : Nat) : Hw.Learned (h.fedOwn f u m v) h := by
  unfold Hw.fedOwn
  exact Hw.learned_ite (.refl h) ((Hw.learned_fedProgress ..).trans (h.learned_modLearner ..))

theorem Hw.learned_decideGate (h : Hw) (f : Nat) (u : Bool) : Hw.Learned (h.decideGate f u) h := by
  have hfed : ∀ v, Hw.Learned (if h.federated (h.job f u).model = true then h.fedOwn f u (h.job f u).model v else h) h := fun v =>
    Hw.learned_ite (h.learned_fedOwn ..) (.refl h)
  unfold Hw.decideGate
  dsimp only
  refine Hw.learned_ite (.refl h) (Hw.learned_ite ?_ (Hw.learned_ite (h.learned_postDecision ..)
    (Hw.learned_ite (h.learned_fedOwn ..) (h.learned_postDecision ..))))
  exact Hw.learned_ite (hfed 1) ((Hw.learned_postDecision ..).trans (hfed 1))

theorem Hw.learned_voidTorn (h : Hw) (f : Nat) (u : Bool) : Hw.Learned (h.voidTorn f u) h := by
  have hround : ∀ (r : Round) d, Hw.Learned (Hw.serveShadow (if d % 16 = 0 then
      ((h.applyDecision f u (h.job f u).model (d % 16)).closeRound (h.job f u).model r.attempt (d % 16)).flipWalk (h.job f u).model
      else (h.applyDecision f u (h.job f u).model (d % 16)).closeRound (h.job f u).model r.attempt (d % 16)) (h.job f u).model) h := fun r d => by
    have hclose := (Hw.learned_closeRound _ (h.job f u).model r.attempt (d % 16)).trans (h.learned_applyDecision f u (h.job f u).model (d % 16))
    exact (Hw.learned_serveShadow ..).trans (Hw.learned_ite ((Hw.learned_flipWalk ..).trans hclose) hclose)
  have htel : ∀ (st : Hw) c, Hw.Learned (if h.telemetryRoom (h.job f u).model = true then h.writeTelemetry st f u c else h) h := fun st c =>
    Hw.learned_ite (.of_mem (h.sameButMem_writeTelemetry ..)) (.refl h)
  unfold Hw.voidTorn
  dsimp only
  refine Hw.learned_ite ((Hw.learned_serveShadow ..).trans (h.learned_endShadow ..)) (Hw.learned_ite ?_ ?_)
  · split
    · exact hround _ _
    · exact h.learned_fedOwn ..
  · exact (Hw.learned_serveShadow ..).trans ((Hw.learned_applyDecision ..).trans (htel ..))

end Sys2Proof.Machine

/-! PROOFS. What the teardown of a job leaves of the island and of the jobs (R228, R323). -/

namespace Sys2Proof.Machine

open Sys2Proof

/-! ## What a teardown keeps -/

/-- An island without what the learner's side, the partitions, the descriptors and the semaphores hold. -/
def Hw.untorn (h : Hw) : Hw :=
  { h with od := [], dom := [], learners := [], jobs := [], events := Hw.reset.events, mem := Hw.reset.mem, fed := Hw.reset.fed, parts := [],
           descs := [], descFreed := [], delays := [], sems := [], images := [], irq := Hw.reset.irq, out := [], trace := Hw.reset.trace,
           acct := Hw.reset.acct }

/-- Only these have changed, and every job goes on as it was. -/
structure Hw.Torn (a b : Hw) : Prop where
  body : a.untorn = b.untorn
  course : ∀ k v, (a.job k v).course = (b.job k v).course

theorem Hw.Torn.refl (a : Hw) : Hw.Torn a a := ⟨rfl, fun _ _ => rfl⟩

theorem Hw.Torn.trans {a b c : Hw} (h1 : Hw.Torn a b) (h2 : Hw.Torn b c) : Hw.Torn a c :=
  ⟨h1.body.trans h2.body, fun k v => (h1.course k v).trans (h2.course k v)⟩

/-- A change beside the jobs. -/
theorem Hw.Torn.of_body {a b : Hw} (h : a.untorn = b.untorn) (hj : a.jobs = b.jobs) : Hw.Torn a b :=
  ⟨h, fun k v => congrArg (fun m => (Map.getD m (jobKey k v) Job.idle).course) hj⟩

theorem Hw.Torn.of_learned {a b : Hw} (h : Hw.Learned a b) : Hw.Torn a b :=
  ⟨by have e := congrArg Hw.untorn h.body; exact e, h.course⟩

theorem Hw.torn_ite {c : Prop} [Decidable c] {a b h : Hw} (ha : Hw.Torn a h) (hb : Hw.Torn b h) : Hw.Torn (if c then a else b) h := by
  split
  · exact ha
  · exact hb

theorem Hw.torn_foldl {α : Type} (g : Hw → α → Hw) (hg : ∀ b a, Hw.Torn (g b a) b) (l : List α) (b : Hw) : Hw.Torn (l.foldl g b) b := by
  induction l generalizing b with
  | nil => exact .refl b
  | cons a r ih => exact (ih (g b a)).trans (hg b a)

theorem Hw.Torn.eng {a b : Hw} (h : Hw.Torn a b) : a.eng = b.eng := by have e := congrArg Hw.eng h.body; exact e
theorem Hw.Torn.faults {a b : Hw} (h : Hw.Torn a b) : a.faults = b.faults := by have e := congrArg Hw.faults h.body; exact e
theorem Hw.Torn.side {a b : Hw} (h : Hw.Torn a b) : a.side = b.side := by have e := congrArg Hw.side h.body; exact e
theorem Hw.Torn.facets {a b : Hw} (h : Hw.Torn a b) : a.facets = b.facets := by have e := congrArg Hw.facets h.body; exact e
theorem Hw.Torn.seqs {a b : Hw} (h : Hw.Torn a b) : a.seqs = b.seqs := by have e := congrArg Hw.seqs h.body; exact e
theorem Hw.Torn.switches {a b : Hw} (h : Hw.Torn a b) : a.switches = b.switches := by have e := congrArg Hw.switches h.body; exact e

/-! ## Partitions and descriptors -/

theorem Hw.torn_setPart (h : Hw) (p : Nat) (x : Part) : Hw.Torn (h.setPart p x) h := .of_body rfl rfl
theorem Hw.torn_modPart (h : Hw) (p : Nat) (g : Part → Part) : Hw.Torn (h.modPart p g) h := h.torn_setPart p _
theorem Hw.torn_inc (h : Hw) (i s : Nat) : Hw.Torn (h.inc i s) h := .of_body rfl rfl
theorem Hw.torn_raiseEv (h : Hw) (e : Ev) : Hw.Torn (h.raiseEv e) h := .of_body rfl rfl
theorem Hw.torn_emit (h : Hw) (o : PortOut) : Hw.Torn (h.emit o) h := .of_body rfl rfl
theorem Hw.torn_modSem (h : Hw) (n : Nat) (g : Sem → Sem) : Hw.Torn (h.modSem n g) h := .of_body rfl rfl
theorem Hw.torn_dropWaiter (h : Hw) (t : Nat) : Hw.Torn (h.dropWaiter t) h := .of_body rfl rfl
theorem Hw.torn_modDelay (h : Hw) (l : Nat) (g : DelayList → DelayList) : Hw.Torn (h.modDelay l g) h := .of_body rfl rfl
theorem Hw.torn_cancelDelays (h : Hw) (t : Nat) : Hw.Torn (h.cancelDelays t) h := .of_body rfl rfl

theorem Hw.torn_modDesc (h : Hw) (t : Nat) (g : Desc → Desc) : Hw.Torn (h.modDesc t g) h := by
  unfold Hw.modDesc
  split
  · exact .of_body rfl rfl
  · exact .refl h

theorem Hw.torn_traceRec (h : Hw) (ty u : Nat) (f : Option Nat) (l : List Byte) : Hw.Torn (h.traceRec ty u f l) h := by
  unfold Hw.traceRec
  exact Hw.torn_ite (.of_body rfl rfl) (.refl h)

theorem Hw.torn_binAdd (h : Hw) (w : CmdWindow) (b e : Nat) : Hw.Torn (h.binAdd w b e) h := by
  have hs := h.sameButParts_binAdd w b e
  have e := congrArg Hw.jobs hs.body
  exact .of_body (by have e := congrArg Hw.untorn hs.body; exact e) e

theorem Hw.torn_endWindow (h : Hw) (p tag status fabric bytes energy : Nat) : Hw.Torn (h.endWindow p tag status fabric bytes energy) h := by
  unfold Hw.endWindow
  dsimp only
  split
  · exact Hw.torn_ite ((Hw.torn_traceRec ..).trans ((Hw.torn_binAdd ..).trans (h.torn_setPart ..))) (.refl h)
  · exact .refl h

theorem Hw.torn_startWindow (h : Hw) (p : Nat) : Hw.Torn (h.startWindow p) h := by
  unfold Hw.startWindow
  dsimp only
  split
  · split
    · exact h.torn_setPart ..
    · exact .refl h
  · exact .refl h

theorem Hw.torn_unsend (h : Hw) (p tag status fabric bytes energy : Nat) : Hw.Torn (h.unsend p tag status fabric bytes energy) h :=
  (Hw.torn_startWindow ..).trans ((Hw.torn_modPart ..).trans (h.torn_endWindow ..))

theorem Hw.torn_freeDesc (h : Hw) (t : Nat) : Hw.Torn (h.freeDesc t) h := by
  unfold Hw.freeDesc
  split
  · exact (Hw.torn_modPart ..).trans (.of_body rfl rfl)
  · exact .refl h

theorem Hw.torn_retire (h : Hw) (t : Nat) : Hw.Torn (h.retire t) h := by
  unfold Hw.retire
  split
  case h_2 => exact .refl h
  case h_1 d hd =>
    refine (Hw.torn_freeDesc ..).trans ((Hw.torn_dropWaiter ..).trans ?_)
    have hsent : Hw.Torn (if d.state = .dispatched ∧ (!d.expired) = true then
        (h.unsend d.part t 0xF 0 0 0).modPart d.part fun p => { p with ghosts := p.ghosts ++ [(t, false)] } else h) h :=
      Hw.torn_ite ((Hw.torn_modPart ..).trans (h.torn_unsend ..)) (.refl h)
    split
    · exact (Hw.torn_modDelay ..).trans hsent
    · exact (Hw.torn_cancelDelays ..).trans hsent
    · exact hsent

theorem Hw.torn_requestInt (h : Hw) (p : Nat) : Hw.Torn (h.requestInt p) h := by
  unfold Hw.requestInt
  exact Hw.torn_ite (h.torn_setPart ..) (.refl h)

theorem Hw.torn_requestPre (h : Hw) (p : Nat) : Hw.Torn (h.requestPre p) h := by
  unfold Hw.requestPre
  exact Hw.torn_ite (h.torn_setPart ..) (Hw.torn_ite (h.torn_setPart ..) (.refl h))

theorem Hw.torn_noteLevel (h : Hw) (idx sub threshold before after : Nat) : Hw.Torn (h.noteLevel idx sub threshold before after) h := by
  obtain ⟨o, i, e⟩ := h.noteLevel_eq idx sub threshold before after
  rw [e]
  exact .of_body rfl rfl

theorem Hw.torn_reenter (h : Hw) (t : Nat) : Hw.Torn (h.reenter t) h := by
  unfold Hw.reenter
  split
  · exact (Hw.torn_noteLevel ..).trans ((Hw.torn_modPart ..).trans (h.torn_modDesc ..))
  · exact .refl h

/-! ## Contexts and semaphores -/

theorem Hw.torn_dropImages (h : Hw) (f s : Nat) : Hw.Torn (h.dropImages f s) h := .of_body rfl rfl

theorem Hw.torn_dropContext (h : Hw) (f s : Nat) : Hw.Torn (h.dropContext f s) h :=
  (Hw.torn_foldl _ (fun b p => b.torn_modPart p _) _ _).trans (h.torn_dropImages f s)

theorem Hw.torn_grantSem (h : Hw) (n : Nat) : Hw.Torn (h.grantSem n) h := by
  unfold Hw.grantSem
  split
  · exact h.torn_modSem ..
  · exact .refl h

theorem Hw.torn_forceSems (h : Hw) (f : Nat) (u : Bool) : Hw.Torn (h.forceSems f u) h := by
  unfold Hw.forceSems
  refine Hw.torn_foldl _ (fun b e => ?_) _ h
  split
  · exact Hw.torn_ite ((Hw.torn_grantSem ..).trans ((Hw.torn_modSem ..).trans ((Hw.torn_raiseEv ..).trans (b.torn_inc ..)))) (.refl b)
  · exact .refl b

theorem Hw.torn_issueCtx (h : Hw) (f p s : Nat) (save : Bool) (ctx : Nat) : Hw.Torn (h.issueCtx f p s save ctx) h :=
  (Hw.torn_emit ..).trans ((Hw.torn_inc ..).trans (h.torn_modPart ..))

theorem Hw.torn_releasePart (h : Hw) (f p s ctx : Nat) : Hw.Torn (h.releasePart f p s ctx) h :=
  (Hw.torn_foldl Hw.reenter Hw.torn_reenter _ _).trans (h.torn_modPart ..)

/-! ## The teardown -/

/-- A job that is being torn down for a cause. -/
def Job.tearing (j : Job) (cause : Nat) : Job :=
  { j with state := .teardown, cause := cause, gateTag := none, gateReady := false, decision := none, headerOk := false, tags := [] }

/-- The island of a teardown whose job is told so. -/
def Hw.tearing (h : Hw) (f : Nat) (u : Bool) (cause : Nat) : Hw :=
  (((h.descTags fun d => jobDesc f u d && (d.state != .dispatched || d.expired)).foldl Hw.retire h).voidTorn f u).modJob f u fun x =>
    x.tearing cause

/-- The commands that are still out have their records retired, and their partitions an interrupt. -/
def Hw.stopsSent (h : Hw) (f : Nat) (u : Bool) : Hw :=
  let sent := h.descTags fun d => jobDesc f u d && d.state == .dispatched
  let h4 := sent.foldl (fun a t => a.modDesc t fun d => { d with retireOnRecord := true }) h
  (distinct (sent.filterMap fun t => (h4.desc? t).map fun d => d.part)).foldl Hw.requestInt h4

theorem Hw.torn_stopsSent (h : Hw) (f : Nat) (u : Bool) : Hw.Torn (h.stopsSent f u) h :=
  (Hw.torn_foldl Hw.requestInt Hw.torn_requestInt _ _).trans (Hw.torn_foldl _ (fun b t => b.torn_modDesc t _) _ h)

/-- The island of a teardown but for a donation's switch. -/
def Hw.tornDown (h : Hw) (f : Nat) (u : Bool) (cause : Nat) : Hw :=
  (((h.tearing f u cause).dropContext f (if u then 2 else 1)).forceSems f u).stopsSent f u

theorem Hw.torn_tornDown (h : Hw) (f : Nat) (u : Bool) (cause : Nat) : Hw.Torn (h.tornDown f u cause) (h.tearing f u cause) :=
  (Hw.torn_stopsSent ..).trans ((Hw.torn_forceSems ..).trans (Hw.torn_dropContext ..))

theorem Hw.teardown_eq (h : Hw) (f : Nat) (u : Bool) (cause : Nat)
    (hj : (h.job f u).state = .loading ∨ (h.job f u).state = .running) : h.teardown f u cause =
      if h.donated f u then (h.tornDown f u cause).startSwitch f (if u then 2 else 1) ((h.tornDown f u cause).ownerSlot f) true (h.jobTenant f u)
      else h.tornDown f u cause := by
  unfold Hw.teardown
  rw [if_neg]
  · rfl
  · rcases hj with e | e <;> rw [e] <;> decide

theorem Hw.teardown_of_other (h : Hw) (f : Nat) (u : Bool) (cause : Nat)
    (hj : ¬((h.job f u).state = .loading ∨ (h.job f u).state = .running)) : h.teardown f u cause = h := by
  unfold Hw.teardown
  refine if_pos ?_
  rw [not_or] at hj
  simp [hj]

/-- What the teardown's retired descriptors and voided attempt leave. -/
theorem Hw.torn_before (h : Hw) (f : Nat) (u : Bool) (l : List Nat) : Hw.Torn ((l.foldl Hw.retire h).voidTorn f u) h :=
  (Hw.Torn.of_learned (Hw.learned_voidTorn ..)).trans (Hw.torn_foldl Hw.retire Hw.torn_retire l h)

end Sys2Proof.Machine

/-! PROOFS. R145, R151, R365, R368, R369, R381, Table 15.1: faults that the checks inside the engine find. -/

namespace Sys2Proof.Machine

open Sys2Proof

/-! ## The engine's state while facets are halted -/

/-- Outside OPERATIONAL, the engine and the faults found stay. -/
structure Hw.Unmoved (a b : Hw) : Prop where
  keeps : b.eng.state ≠ .operational → a.eng = b.eng ∧ a.faults = b.faults

theorem Hw.Unmoved.refl (a : Hw) : Hw.Unmoved a a := ⟨fun _ => ⟨rfl, rfl⟩⟩

theorem Hw.Unmoved.trans {a b c : Hw} (h1 : Hw.Unmoved a b) (h2 : Hw.Unmoved b c) : Hw.Unmoved a c := by
  refine ⟨fun hc => ?_⟩
  obtain ⟨e2, f2⟩ := h2.keeps hc
  obtain ⟨e1, f1⟩ := h1.keeps (by rw [e2]; exact hc)
  exact ⟨e1.trans e2, f1.trans f2⟩

theorem Hw.Unmoved.of_torn {a b : Hw} (h : Hw.Torn a b) : Hw.Unmoved a b := ⟨fun _ => ⟨h.eng, h.faults⟩⟩

theorem Hw.Unmoved.of_replayed {a b : Hw} (h : Hw.Replayed a b) : Hw.Unmoved a b :=
  ⟨fun _ => ⟨by have e := congrArg Hw.eng h.body; exact e, by have e := congrArg Hw.faults h.body; exact e⟩⟩

theorem Hw.unmoved_ite {c : Prop} [Decidable c] {a b h : Hw} (ha : Hw.Unmoved a h) (hb : Hw.Unmoved b h) : Hw.Unmoved (if c then a else b) h := by
  split
  · exact ha
  · exact hb

theorem Hw.unmoved_foldl {α : Type} (g : Hw → α → Hw) (hg : ∀ b a, Hw.Unmoved (g b a) b) (l : List α) (b : Hw) :
    Hw.Unmoved (l.foldl g b) b := by
  induction l generalizing b with
  | nil => exact .refl b
  | cons a r ih => exact (ih (g b a)).trans (hg b a)

theorem Hw.unmoved_modJob (h : Hw) (f : Nat) (u : Bool) (g : Job → Job) : Hw.Unmoved (h.modJob f u g) h := ⟨fun _ => ⟨rfl, rfl⟩⟩
theorem Hw.unmoved_modFacet (h : Hw) (f : Nat) (g : Facet → Facet) : Hw.Unmoved (h.modFacet f g) h := ⟨fun _ => ⟨rfl, rfl⟩⟩
theorem Hw.unmoved_withSwitches (h : Hw) (m : Map Switch) : Hw.Unmoved { h with switches := m } h := ⟨fun _ => ⟨rfl, rfl⟩⟩

theorem Hw.unmoved_switchDone (h : Hw) (f : Nat) (sw : Switch) : Hw.Unmoved (h.switchDone f sw) h := by
  have h1 := h.unmoved_withSwitches (Map.erase h.switches f)
  unfold Hw.switchDone
  dsimp only
  refine Hw.unmoved_ite ?_ ?_
  · have h2 := (Hw.unmoved_modJob _ f false fun j => { j with suspended := false }).trans h1
    exact Hw.unmoved_ite ((Hw.Unmoved.of_torn (.of_learned (Hw.learned_decideGate ..))).trans h2) h2
  · split
    case isTrue hs => exact ⟨fun hc => absurd hs.2.2.2 hc⟩
    case isFalse => exact Hw.unmoved_ite ((Hw.unmoved_modJob ..).trans h1) h1

theorem Hw.unmoved_partSwitched (h : Hw) (f p : Nat) : Hw.Unmoved (h.partSwitched f p) h := by
  unfold Hw.partSwitched
  split
  · exact Hw.unmoved_ite (h.unmoved_switchDone ..) (h.unmoved_withSwitches _)
  · exact .refl h

theorem Hw.unmoved_ctxAdvance (h : Hw) (f p : Nat) (sw : Switch) : Hw.Unmoved (h.ctxAdvance f p sw) h := by
  unfold Hw.ctxAdvance
  exact Hw.unmoved_ite (.of_torn (h.torn_issueCtx ..)) ((Hw.unmoved_partSwitched ..).trans (.of_torn (h.torn_releasePart ..)))

theorem Hw.unmoved_ctxHeld (h : Hw) (p : Nat) : Hw.Unmoved (h.ctxHeld p) h := by
  have hstep : ∀ f sw, Hw.Unmoved (h.ctxStep f p sw) h := fun f sw => by
    unfold Hw.ctxStep
    exact Hw.unmoved_ite (.of_torn (h.torn_issueCtx ..)) (h.unmoved_ctxAdvance ..)
  unfold Hw.ctxHeld
  split
  · exact .refl h
  · split
    · exact Hw.unmoved_ite (hstep _ _) (.refl h)
    · exact .of_torn (h.torn_releasePart ..)

theorem Hw.unmoved_startSwitch (h : Hw) (f outSlot inSlot : Nat) (restore : Bool) (tenant : Nat) :
    Hw.Unmoved (h.startSwitch f outSlot inSlot restore tenant) h := by
  unfold Hw.startSwitch
  dsimp only
  refine Hw.unmoved_ite (h.unmoved_switchDone ..) ?_
  exact (Hw.unmoved_foldl Hw.ctxHeld Hw.unmoved_ctxHeld _ _).trans
    ((Hw.Unmoved.of_torn (Hw.torn_foldl Hw.requestPre Hw.torn_requestPre _ _)).trans (h.unmoved_withSwitches _))

theorem Hw.unmoved_teardown (h : Hw) (f : Nat) (u : Bool) (cause : Nat) : Hw.Unmoved (h.teardown f u cause) h := by
  by_cases hj : (h.job f u).state = .loading ∨ (h.job f u).state = .running
  · have ht := (Hw.Unmoved.of_torn (h.torn_tornDown f u cause)).trans ((Hw.unmoved_modJob ..).trans (.of_torn (h.torn_before f u _)))
    rw [h.teardown_eq f u cause hj]
    exact Hw.unmoved_ite ((Hw.unmoved_startSwitch ..).trans ht) ht
  · rw [h.teardown_of_other f u cause hj]
    exact .refl h

theorem Hw.unmoved_dropPlans (h : Hw) (f : Nat) : Hw.Unmoved (h.dropPlans f) h := by
  have hseq : ∀ (a : Hw) s g, Hw.Unmoved (a.modSeq s g) a := fun a s g => .of_replayed (a.replayed_modSeq s g)
  have hfold := Hw.unmoved_foldl (fun (a : Hw) s => a.modSeq s fun q => { q with
    resQueue := q.resQueue.filter fun e => !((h.facet f).plans.map fun p => p.step).contains e.1,
    resRing := q.resRing.filter fun e => !((h.facet f).plans.map fun p => p.step).contains e.1 }) (fun b s => hseq b s _) (h.slotsOf f) h
  exact ⟨fun hc => hfold.keeps hc⟩

theorem Hw.unmoved_retirePlans (h : Hw) (f : Nat) : Hw.Unmoved (h.retirePlans f) h :=
  .of_torn ((Hw.torn_foldl _ (fun b t => b.torn_modDesc t _) _ _).trans (Hw.torn_foldl Hw.retire Hw.torn_retire _ h))

theorem Hw.unmoved_halt (h : Hw) (f : Nat) : Hw.Unmoved (h.halt f) h := by
  unfold Hw.halt
  dsimp only
  refine Hw.unmoved_ite (.refl h) ?_
  refine (Hw.Unmoved.of_torn (Hw.torn_foldl Hw.requestInt Hw.torn_requestInt _ _)).trans ((Hw.unmoved_modJob ..).trans ?_)
  refine (Hw.Unmoved.of_torn (Hw.torn_dropImages ..)).trans ((Hw.unmoved_teardown ..).trans ((Hw.unmoved_teardown ..).trans ?_))
  exact (Hw.unmoved_modFacet ..).trans ((Hw.unmoved_dropPlans ..).trans ((Hw.unmoved_retirePlans ..).trans
    (.of_replayed (h.replayed_discardLedger f))))

/-- FAULT_HOLD, and no fault beyond those that had been found. -/
theorem Hw.faultHold_spec (h : Hw) (f : Option Nat) : (h.faultHold f).eng.state = .faultHold ∧ (h.faultHold f).faults = h.faults := by
  unfold Hw.faultHold
  split
  case isTrue he => exact ⟨he, rfl⟩
  case isFalse =>
    obtain ⟨x, a, m, l, e⟩ := h.closeAdmission_eq
    have hentered : (h.closeAdmission.enter .faultHold).eng.state = .faultHold ∧ (h.closeAdmission.enter .faultHold).faults = h.faults := by
      rw [e]
      exact ⟨rfl, rfl⟩
    dsimp only
    generalize h.closeAdmission.enter .faultHold = h0 at hentered ⊢
    obtain ⟨heng, hfaults⟩ := hentered
    have hraised : ∀ ev, ((List.range 16).foldl Hw.halt (h0.raiseEv ev)).flushEvents.eng.state = .faultHold ∧
        ((List.range 16).foldl Hw.halt (h0.raiseEv ev)).flushEvents.faults = h.faults := fun ev => by
      have hflush := Hw.sameEvr_flushEvents ((List.range 16).foldl Hw.halt (h0.raiseEv ev))
      have hhalt : Hw.Unmoved ((List.range 16).foldl Hw.halt (h0.raiseEv ev)) h0 :=
        (Hw.unmoved_foldl Hw.halt Hw.unmoved_halt _ _).trans (.of_torn (h0.torn_raiseEv ev))
      obtain ⟨e1, e2⟩ := hhalt.keeps (by rw [heng]; decide)
      exact ⟨by rw [hflush.eng, e1, heng], hflush.faults.trans (e2.trans hfaults)⟩
    exact hraised _

/-! ## Faults of one facet -/

theorem filter_range_one (f : Fin 16) (p : Nat → Bool) (hf : p f = true) (ho : ∀ g : Fin 16, g ≠ f → p g = false) :
    (List.range 16).filter p = [f.val] := by
  have hone : ∀ k : Fin 16, (List.range 16).filter (fun g => g == k.val) = [k.val] := by decide
  refine (List.filter_congr fun g hg => ?_).trans (hone f)
  have hlt : g < 16 := List.mem_range.mp hg
  by_cases he : g = f
  · simp [he, hf]
  · rw [beq_eq_false_iff_ne.mpr he]
    exact ho ⟨g, hlt⟩ fun h => he (congrArg Fin.val h)

/-- The one ACTIVE facet, where the engine cannot tell which is concerned. -/
theorem Hw.orActive_one (h : Hw) (f : Fin 16) (hf : (h.facet f).state = .active) (ho : ∀ g : Fin 16, g ≠ f → (h.facet g).state ≠ .active) :
    h.orActive [] = [f.val] := by
  unfold Hw.orActive
  rw [if_pos rfl]
  exact filter_range_one f _ (by rw [hf]; rfl) fun g hg => beq_eq_false_iff_ne.mpr (ho g hg)

theorem Hw.MayReplay.inc {h : Hw} {f : Nat} (hm : h.MayReplay f) (hf : f < 16) (n : Nat) (hn : n < 256) : (h.inc 0xA020 n).MayReplay f :=
  hm.of_eq rfl (Hw.raw_set_ne _ _ _ _ _ _ (odKey_idx_ne _ _ _ _ _ _ (by omega) hn (by decide)))
    (Hw.get_inc_ne _ _ _ _ _ (odKey_idx_ne _ _ _ _ _ _ (by decide) hn (by decide)))

theorem Hw.MayReplay.fault {h : Hw} {f : Nat} (hm : h.MayReplay f) (l : List Nat) (u : FaultUnit) (b : Bool) : (h.fault l u b).MayReplay f :=
  hm.of_eq rfl rfl rfl

section
variable {s : State} {f : Fin 16}

/-- A counted error of one facet makes it recover. -/
theorem State.Ready.recoversCounted (hr : s.Ready) (hm : s.hw.MayReplay f) (v n : Nat) (g : Hw → Hw) (u : FaultUnit) (hn : n < 256)
    (hg : g (s.hw.begun .alone v) = ((s.hw.begun .alone v).inc 0xA020 n).fault [f.val] u false) :
    ∃ t, (.next (s.onCoreFAt .alone v g) : Host.Outcome State Fault Refusal) = .next t ∧ (t.hw.facet f).recovering = true := by
  obtain ⟨-, -, -, hnone⟩ := hr.quiet
  have hm0 : (s.hw.begun .alone v).MayReplay f := hm.of_eq rfl rfl rfl
  refine hr.recovers .alone v g f u ?_ ?_
  · rw [hg]
    exact congrArg (· ++ _) hnone
  · rw [hg]
    exact (hm0.inc f.isLt n hn).fault ..

end

/-! ## Queues and pools that are rebuilt -/

/-- A fault of no facet is none. -/
theorem Hw.runFaults_nobody (h : Hw) (u : FaultUnit) (hf : h.faults = []) : (h.fault [] u false).runFaults = h := by
  obtain ⟨rest⟩ := h
  subst hf
  rfl

/-- Nor is one of a facet that does not run. -/
theorem Hw.runFaults_resting (h : Hw) (f : Nat) (u : FaultUnit) (hf : h.faults = []) (hr : (h.facet f).state.runs = false) :
    (h.fault [f] u false).runFaults = h := by
  rw [Hw.runFaults_one _ f u (congrArg (· ++ _) hf)]
  have hrest : ∀ g : Hw, (g.facet f).state.runs = false → g.faultOn f u = g := fun g hg => by
    unfold Hw.faultOn
    exact if_pos (by rw [hg]; rfl)
  obtain ⟨rest⟩ := h
  subst hf
  exact hrest _ hr

theorem Hw.rebuildQueue_spec (h : Hw) (q released : Nat) :
    (h.rebuildQueue q released).queue q = { h.queue q with w := (h.queue q).k } ∧
      (∃ x ∈ (h.rebuildQueue q released).mem.out ++ (h.rebuildQueue q released).mem.queue,
        x.use = .queueRebuild q (h.queue q).c released ∧ x.write = false) ∧
      (h.rebuildQueue q released).get 0xA020 3 = h.get 0xA020 3 ∧ (h.rebuildQueue q released).faults = h.faults := by
  unfold Hw.rebuildQueue
  dsimp only
  have hs := (h.modQueue q fun y => { y with w := y.k }).sameButMem_memPost false (h.getAt 0x3021 1 q) 1 [] .ring (some (h.getAt 0x3021 3 q))
    (.queueRebuild q (h.queue q).c released)
  obtain ⟨x, hx, hu, hw, -⟩ := (h.modQueue q fun y => { y with w := y.k }).memPost_request false (h.getAt 0x3021 1 q) 1 [] .ring
    (some (h.getAt 0x3021 3 q)) (.queueRebuild q (h.queue q).c released)
  refine ⟨?_, ⟨x, hx, hu, hw⟩, hs.get 0xA020 3 (by decide) (by decide), hs.faults⟩
  exact (congrArg (fun m => Map.getD m q Queue.reset) hs.queues).trans (Map.getD_insert_self _ _ _ _)

/-! ## Copies that differ -/

/-- A unit that goes simplex. -/
def Hw.simplex (h : Hw) (w : CopyUnit) (c : Fin 2) (g : Option (Fin 16)) : Hw :=
  ((h.inc 0xA020 3).set 0xA013 1 (setBit (h.raw 0xA013 1) (copyBit w) + if c.val = 1 then 2 ^ (2 + copyBit w) else 0)).event (4 + copyBit w)
    (369 * 16) 4 (g.map fun x => x.val) none

theorem Hw.copyMismatch_one (h : Hw) (w : CopyUnit) (c : Fin 2) (g : Option (Fin 16)) (hb : (h.raw 0xA013 1).testBit (copyBit w) = false) :
    h.copyMismatch w (some c) g = h.simplex w c g := by
  unfold Hw.copyMismatch
  exact if_neg (by rw [hb]; decide)

theorem Hw.copyMismatch_held (h : Hw) (w : CopyUnit) (c : Fin 2) (g : Option (Fin 16)) (hb : (h.raw 0xA013 1).testBit (copyBit w) = true) :
    h.copyMismatch w (some c) g = h.faultHold none := by
  unfold Hw.copyMismatch
  exact if_pos hb

theorem Hw.copyMismatch_simplex (h : Hw) (w : CopyUnit) (g : Option (Fin 16)) (hb : (h.raw 0xA013 1).testBit (copyBit w) = true) :
    h.copyMismatch w none g = h := by
  unfold Hw.copyMismatch
  exact if_pos hb

theorem Hw.copyMismatch_both (h : Hw) (w : CopyUnit) (f : Fin 16) (hb : (h.raw 0xA013 1).testBit (copyBit w) = false) :
    h.copyMismatch w none (some f) = (h.inc 0xA020 3).fault [f.val] .unnamed false := by
  unfold Hw.copyMismatch
  exact if_neg (by rw [hb]; decide)

theorem testBit_setBit_add (v k : Nat) (b : Bool) : (setBit v k + if b then 2 ^ (2 + k) else 0).testBit k = true := by
  split
  · rw [Nat.add_comm, Nat.testBit_two_pow_add_gt (by omega)]
    exact testBit_setBit v k
  · exact testBit_setBit v k

theorem copyBit_lt (w : CopyUnit) : copyBit w < 2 := by cases w <;> decide

theorem Hw.simplex_spec (h : Hw) (w : CopyUnit) (c : Fin 2) (g : Option (Fin 16)) :
    ((h.simplex w c g).raw 0xA013 1).testBit (copyBit w) = true ∧ (h.simplex w c g).get 0xA020 3 = (h.get 0xA020 3 + 1) % 2 ^ 64 ∧
      (h.simplex w c g).occurred (4 + copyBit w) = (h.occurred (4 + copyBit w) + 1) % 2 ^ 64 ∧ (h.simplex w c g).facets = h.facets ∧
      (h.simplex w c g).faults = h.faults := by
  have hb := copyBit_lt w
  unfold Hw.simplex
  refine ⟨?_, ?_, ?_, rfl, rfl⟩
  · refine (congrArg (Nat.testBit · (copyBit w)) ((Hw.raw_set_ne _ _ _ _ _ _ (odKey_idx_ne _ _ _ _ _ _ (by decide) (by
      show 4 + copyBit w + 1 < 256
      omega) (by decide))).trans (Hw.raw_set _ _ _ _))).trans ?_
    simpa using testBit_setBit_add (h.raw 0xA013 1) (copyBit w) (c.val == 1)
  · rw [Hw.get_event_ne _ _ _ _ _ _ _ _ (odKey_idx_ne _ _ _ _ _ _ (by decide) (by omega) (by decide)),
      Hw.get_set_ne _ _ _ _ _ _ (by decide), Hw.get_inc]
  · rw [Hw.occurred_event]
    refine congrArg (fun n => (n + 1) % 2 ^ 64) ?_
    exact (Hw.get_set_ne _ _ _ _ _ _ (odKey_idx_ne _ _ _ _ _ _ (by omega) (by decide) (by decide))).trans
      (Hw.get_inc_ne _ _ _ _ _ (odKey_idx_ne _ _ _ _ _ _ (by omega) (by decide) (by decide)))

/-- Settles O48: each error is counted, and makes its facet recover, rebuilds its structure or takes its unit to simplex. -/
theorem detectedFaults : Obligations.DetectedFaults := by
  unfold Obligations.DetectedFaults
  intro s f hr
  obtain ⟨-, -, -, hnone⟩ := hr.quiet
  refine ⟨fun hs hleft => ?_, fun b hb => ?_, ?_, ?_, fun k hk => ?_, fun q c hq => ?_, fun w c g => ⟨fun hb => ?_, fun hb => ?_⟩,
    fun w g hb => ?_⟩
  · have hm : s.hw.MayReplay f := ⟨hs, hleft⟩
    refine ⟨?_, fun b hb => ?_, fun ho c hc => ?_, fun lane hl => ?_, fun lane hl => ?_, fun w hw => ?_⟩
    · exact hr.recoversCounted hm 0 2 (fun h => h.eccError (.ledger f)) .unnamed (by decide) rfl
    · refine hr.recoversCounted hm 0 2 (fun h => h.eccError (.hotBank b)) (.bank b) (by decide) ?_
      have hb0 : (s.hw.begun .alone 0).bankFacets b = [f.val] := hb
      unfold Hw.eccError
      dsimp only
      rw [hb0]
      exact if_neg (List.cons_ne_nil _ _)
    · have hone : (s.hw.begun .alone 0).orActive [] = [f.val] := Hw.orActive_one _ f hs ho
      have hpair : ∀ p : Fin 8, ∃ t, exec (.sramEccError (.pairMemory p)) s = .next t ∧ (t.hw.facet f).recovering = true := fun p =>
        hr.recoversCounted hm 0 2 (fun h => h.eccError (.pairMemory p)) (.pair p) (by decide) (by rw [← hone]; rfl)
      simp only [List.mem_cons, List.not_mem_nil, or_false] at hc
      rcases hc with rfl | rfl | rfl
      · exact hr.recoversCounted hm 0 2 (fun h => h.eccError .delayList) .unnamed (by decide) (by rw [← hone]; rfl)
      · exact hpair 0
      · exact hpair 7
    · refine hr.recoversCounted hm 0 2 (fun h => h.eccError (.positionStore lane)) (.lane lane) (by decide) ?_
      have hl0 : distinct ((s.hw.begun .alone 0).smp.store.map fun e => e.facet) = [f.val] := hl
      unfold Hw.eccError
      dsimp only
      rw [hl0]
      rfl
    · have hl0 : facetsOf (Map.getD (s.hw.begun .alone (0x10 + lane)).smp.laneFacets lane 0) = [f.val] := hl
      have hg : (s.hw.begun .alone (0x10 + lane)).fault ((s.hw.begun .alone (0x10 + lane)).orActive
          (facetsOf (Map.getD (s.hw.begun .alone (0x10 + lane)).smp.laneFacets lane 0))) (.lane lane) false =
          (s.hw.begun .alone (0x10 + lane)).fault [f.val] (.lane lane) false := by rw [hl0]; rfl
      have hm0 : (s.hw.begun .alone (0x10 + lane)).MayReplay f := hm.of_eq rfl rfl rfl
      exact hr.recovers .alone (0x10 + lane) _ f (.lane lane) (by rw [hg]; exact congrArg (· ++ _) hnone) (by rw [hg]; exact hm0.fault ..)
    · exact hr.recoversCounted hm (4 + copyBit w) 3 (fun h => h.copyMismatch w none (some f)) .unnamed (by decide)
        (Hw.copyMismatch_both _ w f hw)
  · have hb0 : (s.hw.begun .alone 0).bankFacets b = [] := hb
    have he : (s.hw.begun .alone 0).eccError (.hotBank b) = (s.hw.begun .alone 0).inc 0xA020 2 := by
      unfold Hw.eccError
      dsimp only
      rw [hb0]
      exact if_pos rfl
    exact hr.leavesNoFault .alone 0 (fun h => h.eccError (.hotBank b)) (by rw [he]; exact hnone) (.of_eq he ⟨rfl, rfl⟩)
  · exact hr.leavesNoFault .alone 0 (fun h => h.eccError .oneCopy) hnone ⟨rfl, rfl⟩
  · exact hr.leavesNoFault .alone 0 (fun h => h.eccError .corrected) hnone ⟨rfl, rfl⟩
  · have hk0 : (s.hw.begun .alone 0).poolFacets k = [] := hk
    have he : (s.hw.begun .alone 0).eccError (.poolLists k) = ((s.hw.begun .alone 0).inc 0xA020 3).rescanPool k := by
      unfold Hw.eccError
      dsimp only
      rw [hk0]
      exact congrArg (fun x : Hw => x.rescanPool k) (Hw.runFaults_nobody _ .unnamed hnone)
    exact hr.leavesNoFault .alone 0 (fun h => h.eccError (.poolLists k)) (by rw [he]; exact hnone) (.of_eq he ⟨rfl, rfl⟩)
  · have he : (s.hw.begun .alone 0).eccError (.queueCounts q c) = ((s.hw.begun .alone 0).inc 0xA020 3).rebuildQueue q c.toNat := by
      unfold Hw.eccError
      dsimp only
      have hrest : (((s.hw.begun .alone 0).inc 0xA020 3).facet (s.hw.queueFacet q)).state.runs = false := by
        refine (congrArg FacetState.runs ?_).trans (rfl : FacetState.runs .standby = false)
        exact hq
      exact congrArg (fun x : Hw => x.rebuildQueue q c.toNat) (Hw.runFaults_resting _ (s.hw.queueFacet q) .unnamed hnone hrest)
    obtain ⟨h1, h2, h3, h4⟩ := ((s.hw.begun .alone 0).inc 0xA020 3).rebuildQueue_spec q c.toNat
    refine hr.nextEqF .alone 0 (fun h => h.eccError (.queueCounts q c)) he (h4.trans hnone) ⟨?_, ?_, ?_⟩
    · exact (Hw.settle_queue ..).trans h1
    · dsimp only
      rw [Hw.settle_mem]
      exact h2
    · exact (Hw.settle_get _ _ _ _ (by decide)).trans (h3.trans (Hw.get_inc ..))
  · obtain ⟨h1, h2, h3, h4, h5⟩ := (s.hw.begun .alone (4 + copyBit w)).simplex_spec w c g
    refine hr.nextEqF .alone (4 + copyBit w) (fun h => h.copyMismatch w (some c) g) (Hw.copyMismatch_one _ w c g hb) (h5.trans hnone)
      ⟨?_, ?_, ?_, ?_⟩
    · exact (congrArg (Nat.testBit · (copyBit w)) (Hw.settle_raw _ _ _ _ (by decide))).trans h1
    · exact (Hw.settle_get _ _ _ _ (by decide)).trans h2
    · exact (Hw.occurred_settle ..).trans h3
    · exact (Hw.settle_facets ..).trans h4
  · obtain ⟨h1, h2⟩ := (s.hw.begun .alone (4 + copyBit w)).faultHold_spec none
    refine hr.nextEqF .alone (4 + copyBit w) (fun h => h.copyMismatch w (some c) g) (Hw.copyMismatch_held _ w c g hb) (h2.trans hnone) ?_
    dsimp only
    rw [Hw.settle_eng, h1]
  · exact hr.idleF .alone (4 + copyBit w) (fun h => h.copyMismatch w none g) (Hw.copyMismatch_simplex _ w g hb)

end Sys2Proof.Machine

/-! PROOFS. R41, R328, R337, R344: accounting periods, slot handover, staleness and the update part. -/

namespace Sys2Proof.Machine

open Sys2Proof

/-! ## Accounting periods -/

/-- The end of an accounting period starts every account afresh. -/
theorem Hw.rollAccounts_due (h : Hw) (hn : h.acct.startNs / (h.acct.periodMs * 1000000) < h.now / (h.acct.periodMs * 1000000)) :
    ∃ a, h.rollAccounts = { h with acct := a } ∧ a.accounts = [] ∧ a.periodMs = h.get 0x9302 1 ∧
      a.startNs = h.now / (h.acct.periodMs * 1000000) * (h.acct.periodMs * 1000000) ∧ a.due = true ∧
      (h.acct.flushing ≠ [] → a.flushing ≠ []) := by
  have hjoin : ∀ (m : Map AcctRec) t r, joinRecord m t r false ≠ [] := fun m t r e => by
    have hf : Map.find? (joinRecord m t r false) t = none := by rw [e]; rfl
    unfold joinRecord at hf
    rw [Map.find?_insert_self] at hf
    cases hf
  have hfold : ∀ (p : Nat × Charges → Prop) [DecidablePred p] (k : Nat × Charges → AcctRec) (l : List (Nat × Charges)) (m : Map AcctRec), m ≠ [] →
      l.foldl (fun m e => if p e then m else joinRecord m e.1 (k e) false) m ≠ [] := by
    intro p _ k l
    induction l with
    | nil => exact fun m hm => hm
    | cons e r ih =>
      intro m hm
      refine ih _ ?_
      dsimp only
      split
      · exact hm
      · exact hjoin _ _ _
  unfold Hw.rollAccounts
  dsimp only
  rw [if_pos hn]
  exact ⟨_, rfl, rfl, rfl, rfl, rfl, hfold _ _ _ _⟩

theorem Hw.rollAccounts_early (h : Hw) (hn : h.now / (h.acct.periodMs * 1000000) ≤ h.acct.startNs / (h.acct.periodMs * 1000000)) :
    h.rollAccounts = h := by
  unfold Hw.rollAccounts
  exact if_neg (Nat.not_lt.mpr hn)

/-- What a record that goes out leaves of the accounts. -/
theorem Hw.flowAccount_keeps (h : Hw) : h.flowAccount.acct.accounts = h.acct.accounts ∧ h.flowAccount.acct.periodMs = h.acct.periodMs ∧
    h.flowAccount.acct.startNs = h.acct.startNs ∧ h.flowAccount.acct.due = h.acct.due ∧ h.flowAccount.seqs = h.seqs := by
  have hpost : h.postAccount.acct.accounts = h.acct.accounts ∧ h.postAccount.acct.periodMs = h.acct.periodMs ∧
      h.postAccount.acct.startNs = h.acct.startNs ∧ h.postAccount.acct.due = h.acct.due ∧ h.postAccount.seqs = h.seqs := by
    unfold Hw.postAccount
    split
    · exact ⟨rfl, rfl, rfl, rfl, rfl⟩
    · split
      · exact ⟨rfl, rfl, rfl, rfl, rfl⟩
      · rename_i t r rest hl
        have hs : ∀ (a : Hw) addr data, (a.memPost true addr 2 data .account none (.accountRecord t)).acct = a.acct ∧
            (a.memPost true addr 2 data .account none (.accountRecord t)).seqs = a.seqs := fun a addr data =>
          ⟨(a.sameButMem_memPost ..).acct, (a.sameButMem_memPost ..).seqs⟩
        dsimp only
        rw [(hs _ _ _).1, (hs _ _ _).2]
        exact ⟨rfl, rfl, rfl, rfl, rfl⟩
  unfold Hw.flowAccount
  split
  · exact hpost
  · exact ⟨rfl, rfl, rfl, rfl, rfl⟩

theorem Hw.flowAccount_full (h : Hw) (hf : h.acctFull = true) : h.flowAccount = h := by
  have hpost : h.postAccount = h := by
    unfold Hw.postAccount
    exact if_pos (.inr hf)
  unfold Hw.flowAccount
  rw [hpost]
  exact ite_self h

/-- The period that has ended, before its records go out. -/
def Hw.periodEnded (h : Hw) (a : Account) : Hw :=
  let g : Hw := { h with acct := { a with due := false } }
  if g.acctFull ∧ g.acct.flushing ≠ [] then g.inc 0x9306 1 else g

theorem Hw.accountBoundary_of_due (h : Hw) (a : Account) (hr : h.rollAccounts = { h with acct := a }) (hd : a.due = true) :
    h.accountBoundary = (h.periodEnded a).flowAccount := by
  unfold Hw.accountBoundary
  rw [hr]
  exact if_pos hd

theorem Hw.periodEnded_spec (h : Hw) (a : Account) : (h.periodEnded a).acct = { a with due := false } ∧ (h.periodEnded a).seqs = h.seqs ∧
    (h.acctFull = true → a.flushing ≠ [] → (h.periodEnded a).acctFull = true ∧ (h.periodEnded a).get 0x9306 1 = (h.get 0x9306 1 + 1) % 2 ^ 64) := by
  have hfull : ∀ g : Hw, (g.inc 0x9306 1).acctFull = g.acctFull := fun g => by
    unfold Hw.acctFull Hw.inc Hw.bump Hw.bumpAt
    change decide ((g.set 0x9306 1 _).get 0x9301 1 ≤ sub32 ((g.set 0x9306 1 _).raw 0x9303 1) ((g.set 0x9306 1 _).raw 0x9304 1)) = _
    rw [Hw.get_set_ne _ _ _ _ _ _ (by decide), Hw.raw_set_ne _ _ _ _ _ _ (by decide), Hw.raw_set_ne _ _ _ _ _ _ (by decide)]
  unfold Hw.periodEnded
  dsimp only
  split
  case isTrue hc => exact ⟨rfl, rfl, fun hf _ => ⟨(hfull _).trans hf, Hw.get_inc ..⟩⟩
  case isFalse hc => exact ⟨rfl, rfl, fun hf hl => absurd ⟨hf, hl⟩ hc⟩

/-! ## The handover of a slot -/

theorem Hw.handover_none (h : Hw) (m : Nat) (hr : (h.learner m).request = none) : h.handover m = h := by
  unfold Hw.handover
  rw [hr]

theorem Hw.handover_used (h : Hw) (m k : Nat) (hk : ([0, 1].find? fun x => decide (h.slotState m x = 5)) = some k) (hu : h.slotUse m k ≠ 0) :
    h.handover m = h := by
  unfold Hw.handover
  rw [hk]
  cases hr : (h.learner m).request with
  | none => rfl
  | some r => exact if_pos hu

theorem Hw.handover_load (h : Hw) (m k : Nat) (hk : ([0, 1].find? fun x => decide (h.slotState m x = 5)) = some k) (hu : h.slotUse m k = 0)
    (hr : (h.learner m).request = some .load) :
    h.handover m = (h.modLearner m fun l => { l with request := none, stale := false }).setSlot m k 1 := by
  unfold Hw.handover
  rw [hk, hr]
  exact if_neg (not_not.mpr hu)

/-- The attempt that waited for the slot has it. -/
def Hw.handed (h : Hw) (m k f : Nat) (u : Bool) : Hw :=
  (((h.modLearner m fun l => { l with request := none, stale := false }).setSlot m k 2).modLearner m fun l =>
    { l with shadowOf := some (f, u), shadowQueue := l.shadowQueue.filter fun x => x != (f, u) }).modJob f u fun x =>
    { x with holdsShadow := true, acquired := some k }

theorem Hw.handover_attempt (h : Hw) (m k f : Nat) (u : Bool) (hk : ([0, 1].find? fun x => decide (h.slotState m x = 5)) = some k)
    (hu : h.slotUse m k = 0) (hr : (h.learner m).request = some (.attempt f u)) (hs : (h.job f u).state = .running) (hm : (h.job f u).model = m) :
    h.handover m = h.handed m k f u := by
  unfold Hw.handover
  rw [hk, hr]
  dsimp only
  rw [if_neg (not_not.mpr hu), if_pos ⟨hs, hm⟩]
  rfl

theorem Hw.handed_spec (h : Hw) (m k f : Nat) (u : Bool) : (h.handed m k f u).slotState m k = 2 ∧ ((h.handed m k f u).learner m).request = none ∧
    ((h.handed m k f u).learner m).shadowOf = some (f, u) ∧ (h.handed m k f u).job f u = { h.job f u with holdsShadow := true, acquired := some k } ∧
    (h.handed m k f u).seqs = h.seqs := by
  have hl : (h.handed m k f u).learner m = { h.learner m with
      request := none, stale := false, shadowOf := some (f, u), shadowQueue := (h.learner m).shadowQueue.filter fun x => x != (f, u) } := by
    have hjob : ∀ (a : Hw) (g : Learner → Learner) j, ((a.modLearner m g).modJob f u j).learner m = g (a.learner m) := fun a g _ =>
      a.learner_modLearner m g
    have hslot : ∀ (a : Hw) (g : Learner → Learner), ((a.modLearner m g).setSlot m k 2).learner m = g (a.learner m) := fun a g =>
      a.learner_modLearner m g
    unfold Hw.handed
    rw [hjob, hslot]
  exact ⟨Hw.getAt_setAt _ _ _ _ _, congrArg Learner.request hl, congrArg Learner.shadowOf hl, Hw.job_modJob _ f u _, rfl⟩

/-! ## Staleness -/

/-- The request's budget has passed. -/
def Hw.staled (h : Hw) (m : Nat) : Hw := h.modLearner m fun x => { x with stale := true }

theorem Hw.expire_not (h : Hw) (m : Nat)
    (hc : (h.learner m).request = none ∨ (h.learner m).stale = true ∨ h.now < (h.learner m).requestNs + 1000000 * h.getAt 0x8008 1 m) :
    h.expire m = h := by
  unfold Hw.expire
  refine if_pos (hc.imp ?_ id)
  intro hr
  rw [hr]
  rfl

/-- What the passing of a budget makes of one sequence. -/
def Hw.expireSeq (m : Nat) (a : Hw) (e : Nat × Seq) : Hw :=
  if a.modelOf e.2.cur = m ∧ a.slotState m e.2.cur.vslot = 5 ∧ e.2.cur.state ≠ .ended then
    match e.2.cur.pins with
    | .fixed => if a.modeNow e.2.cur.facet = 2 ∧ a.raw 0x8103 (e.2.cur.facet + 1) = 1 then a else a.flip e.1
    | .exact => (a.askEnd e.1 .cancel).bumpAt 0x8017 1 m 1
    | .follow => a
  else a

theorem Hw.expire_passed (h : Hw) (m : Nat) (hr : (h.learner m).request.isSome = true) (hs : (h.learner m).stale = false)
    (hn : (h.learner m).requestNs + 1000000 * h.getAt 0x8008 1 m ≤ h.now) : h.expire m = h.seqs.foldl (Hw.expireSeq m) (h.staled m) := by
  unfold Hw.expire
  refine if_neg ?_
  rw [hs]
  rintro (h1 | h1 | h1)
  · cases hq : (h.learner m).request <;> rw [hq] at h1 hr <;> simp at h1 hr
  · cases h1
  · omega

theorem Hw.seq?_single (h : Hw) (slot : Nat) (q : Seq) (hs : h.seqs = [(slot, q)]) : h.seq? slot = some q := by
  unfold Hw.seq?
  rw [hs]
  simp [Map.find?]

theorem Hw.setSeq_single (h : Hw) (slot : Nat) (q x : Seq) (hs : h.seqs = [(slot, q)]) : (h.setSeq slot x).seqs = [(slot, x)] := by
  unfold Hw.setSeq
  dsimp only
  rw [hs]
  simp [Map.insert]

/-- A FIXED sequence on an active facet that is no Lattice facet flips at once. -/
theorem Hw.flip_fixed (h : Hw) (slot c m : Nat) (q : Seq) (hq : h.seq? slot = some q) (hm : h.modelOf q.cur = m) (hp : q.cur.pins = .fixed)
    (hmode : h.modeNow q.cur.facet ≠ 2) (hc : h.currentSlot m = some c) (hkv : h.getAt 0x8007 1 m ≠ 1)
    (ha : (h.facet q.cur.facet).state = .active) :
    h.flip slot = (h.setSeq slot { q with cur := { q.cur with vslot := c, version := h.slotVersion m c } }).bumpAt 0x8016 1 m 1 := by
  unfold Hw.flip
  rw [hq]
  dsimp only
  rw [hm, hc]
  dsimp only
  rw [if_neg hkv, ha, if_neg (fun hx => hmode hx.1), if_pos hp]
  rfl

theorem Hw.expireSeq_fixed (h : Hw) (slot c m : Nat) (q : Seq) (hs : h.seqs = [(slot, q)]) (hm : h.modelOf q.cur = m)
    (hv : h.slotState m q.cur.vslot = 5) (hend : q.cur.state ≠ .ended) (hp : q.cur.pins = .fixed) (hmode : h.modeNow q.cur.facet ≠ 2)
    (hc : h.currentSlot m = some c) (hkv : h.getAt 0x8007 1 m ≠ 1) (ha : (h.facet q.cur.facet).state = .active) :
    (Hw.expireSeq m h (slot, q)).seqs = [(slot, { q with cur := { q.cur with vslot := c, version := h.slotVersion m c } })] ∧
      (Hw.expireSeq m h (slot, q)).getAt 0x8016 1 m = (h.getAt 0x8016 1 m + 1) % 2 ^ 64 ∧
      (Hw.expireSeq m h (slot, q)).learners = h.learners := by
  unfold Hw.expireSeq
  rw [if_pos ⟨hm, hv, hend⟩, hp]
  dsimp only
  rw [if_neg (fun hx => hmode hx.1), h.flip_fixed slot c m q (h.seq?_single slot q hs) hm hp hmode hc hkv ha]
  exact ⟨h.setSeq_single slot q _ hs, Hw.getAt_setAt _ _ _ _ _, rfl⟩

theorem Hw.expireSeq_exact (h : Hw) (slot m : Nat) (q : Seq) (hs : h.seqs = [(slot, q)]) (hm : h.modelOf q.cur = m)
    (hv : h.slotState m q.cur.vslot = 5) (hend : q.cur.state ≠ .ended) (hp : q.cur.pins = .exact) :
    (Hw.expireSeq m h (slot, q)).seqs = [(slot, { q with cancelAsked := some (q.cancelAsked.getD .cancel) })] ∧
      (Hw.expireSeq m h (slot, q)).getAt 0x8017 1 m = (h.getAt 0x8017 1 m + 1) % 2 ^ 64 ∧
      (Hw.expireSeq m h (slot, q)).learners = h.learners := by
  have hask : h.askEnd slot .cancel = h.setSeq slot { q with cancelAsked := some (q.cancelAsked.getD .cancel) } := by
    unfold Hw.askEnd Hw.modSeq
    rw [h.seq?_single slot q hs]
  unfold Hw.expireSeq
  rw [if_pos ⟨hm, hv, hend⟩, hp]
  dsimp only
  rw [hask]
  exact ⟨h.setSeq_single slot q _ hs, Hw.getAt_setAt _ _ _ _ _, rfl⟩

end Sys2Proof.Machine

/-! PROOFS. R230, R231, R346: a recorded decision takes its job to the next iteration or to its end. -/

namespace Sys2Proof.Machine

open Sys2Proof

/-! ## The dictionary beside the learner's entries -/

/-- The values outside the learner's, the observation's and the memory port's are as they were. -/
structure Hw.Beside (a b : Hw) : Prop where
  od : ∀ i s, s < 256 → (i < 0x8000 ∨ 0x8032 ≤ i ∧ i < 0xB000) → i ≠ 0x2112 → Map.find? a.od (odKey i s 0) = Map.find? b.od (odKey i s 0)

theorem Hw.Beside.refl (a : Hw) : Hw.Beside a a := ⟨fun _ _ _ _ _ => rfl⟩

theorem Hw.Beside.trans {a b c : Hw} (h1 : Hw.Beside a b) (h2 : Hw.Beside b c) : Hw.Beside a c :=
  ⟨fun i s hs hi hm => (h1.od i s hs hi hm).trans (h2.od i s hs hi hm)⟩

theorem Hw.Beside.of_od {a b : Hw} (h : a.od = b.od) : Hw.Beside a b := ⟨fun _ _ _ _ _ => by rw [h]⟩

theorem Hw.Beside.of_mem {a b : Hw} (h : Hw.SameButMem a b) : Hw.Beside a b := ⟨fun i s hs _ hm => h.od i s 0 hm hs⟩

theorem Hw.Beside.raw {a b : Hw} (h : Hw.Beside a b) (i s : Nat) (hs : s < 256) (hi : i < 0x8000 ∨ 0x8032 ≤ i ∧ i < 0xB000) (hm : i ≠ 0x2112) :
    a.raw i s = b.raw i s := by simp only [Hw.raw, Map.getD, h.od i s hs hi hm]

theorem Hw.Beside.get {a b : Hw} (h : Hw.Beside a b) (i s : Nat) (hs : s < 256) (hi : i < 0x8000 ∨ 0x8032 ≤ i ∧ i < 0xB000) (hm : i ≠ 0x2112) :
    a.get i s = b.get i s := by simp only [Hw.get, Hw.getAt, h.od i s hs hi hm]

theorem Hw.beside_ite {c : Prop} [Decidable c] {a b h : Hw} (ha : Hw.Beside a h) (hb : Hw.Beside b h) : Hw.Beside (if c then a else b) h := by
  split
  · exact ha
  · exact hb

theorem Hw.beside_setAt (h : Hw) (i s o v : Nat) (hi : 0x8000 ≤ i ∧ i < 0x8032 ∨ 0xB000 ≤ i) (hs : s < 256) : Hw.Beside (h.setAt i s o v) h :=
  ⟨fun j r hr hj _ => Map.find?_insert_ne _ _ _ _ (odKey_idx_ne _ _ _ _ _ _ hr hs (by omega))⟩

theorem Hw.beside_learnerSet (h : Hw) (i s o v : Nat) (hi : 0x8000 ≤ i ∧ i < 0x8032) (hs : s < 256) : Hw.Beside (h.setAt i s o v) h :=
  h.beside_setAt i s o v (.inl hi) hs

theorem Hw.beside_bumpAt (h : Hw) (i s o n : Nat) (hi : 0x8000 ≤ i ∧ i < 0x8032) (hs : s < 256) : Hw.Beside (h.bumpAt i s o n) h :=
  h.beside_setAt i s o _ (.inl hi) hs

theorem Hw.beside_modLearner (h : Hw) (m : Nat) (g : Learner → Learner) : Hw.Beside (h.modLearner m g) h := .of_od rfl
theorem Hw.beside_modJob (h : Hw) (f : Nat) (u : Bool) (g : Job → Job) : Hw.Beside (h.modJob f u g) h := .of_od rfl

theorem Hw.writeSlot_lt (h : Hw) (m : Nat) : h.writeSlot m < 2 := by
  unfold Hw.writeSlot
  split <;> omega

theorem Hw.beside_flipWalk (h : Hw) (m : Nat) : Hw.Beside (h.flipWalk m) h := .of_od rfl

theorem Hw.beside_serveShadow (h : Hw) (m : Nat) : Hw.Beside (h.serveShadow m) h := by
  have hw := h.writeSlot_lt m
  unfold Hw.serveShadow
  dsimp only
  split
  · split
    · exact (Hw.beside_modJob ..).trans ((Hw.beside_modLearner ..).trans (h.beside_learnerSet _ _ _ _ (by decide) (by omega)))
    · exact (Hw.beside_modLearner ..).trans (h.beside_learnerSet _ _ _ _ (by decide) (by omega))
    · exact .refl h
  · exact .refl h

theorem Hw.beside_endShadow (h : Hw) (f : Nat) (u : Bool) (m st : Nat) (ha : ∀ w, (h.job f u).acquired = some w → w < 2) :
    Hw.Beside (h.endShadow f u m st) h := by
  unfold Hw.endShadow
  dsimp only
  refine (Hw.beside_modJob ..).trans ((Hw.beside_modLearner ..).trans ?_)
  split
  · rename_i x w hx hw
    refine Hw.beside_ite ((Hw.beside_modLearner ..).trans (h.beside_learnerSet _ _ _ _ (by decide) ?_)) (.refl h)
    have := ha w hw
    omega
  · exact .refl h

theorem Hw.beside_growScale (h : Hw) (m : Nat) : Hw.Beside (h.growScale m) h := by
  have hset : ∀ (a : Hw) i v, 0x8000 ≤ i ∧ i < 0x8032 → Hw.Beside (a.setAt i 1 m v) a := fun a i v hi => a.beside_learnerSet i 1 m v hi (by decide)
  unfold Hw.growScale
  dsimp only
  exact Hw.beside_ite (Hw.beside_ite (hset _ _ _ (by decide)) ((hset _ _ _ (by decide)).trans (hset _ _ _ (by decide))))
    (hset _ _ _ (by decide))

theorem Hw.beside_voidData (h : Hw) (m : Nat) : Hw.Beside (h.voidData m) h := by
  unfold Hw.voidData
  exact Hw.beside_ite (h.beside_modLearner ..) ((Hw.beside_modLearner ..).trans (h.beside_bumpAt _ _ _ _ (by decide) (by decide)))

theorem Hw.od_steer (h : Hw) (m : Nat) (j : Job) : (h.steer m j).od = h.od := by
  unfold Hw.steer
  dsimp only
  split
  · rfl
  · refine foldl_keeps Hw.od _ (fun b e => ?_) _ h
    split <;> rfl

theorem Hw.beside_judging (h : Hw) (f : Nat) (u : Bool) (m : Nat) : Hw.Beside (h.judging f u m) h :=
  (Hw.beside_modJob ..).trans ((Hw.beside_bumpAt _ _ _ _ _ (by decide) (by decide)).trans (.of_od rfl))

theorem Hw.beside_commitSlots (h a : Hw) (f : Nat) (u : Bool) (m : Nat) (ha : ∀ w, (h.job f u).acquired = some w → w < 2) :
    Hw.Beside (h.commitSlots a f u m) a := by
  have hw : (h.job f u).acquired.getD (h.writeSlot m) < 2 := by
    cases hj : (h.job f u).acquired with
    | none => exact h.writeSlot_lt m
    | some w => exact ha w hj
  unfold Hw.commitSlots
  dsimp only
  generalize (h.job f u).acquired.getD (h.writeSlot m) = w at hw ⊢
  refine (Hw.beside_modLearner ..).trans ((Hw.beside_learnerSet _ _ _ _ _ (by decide) (by omega)).trans
    ((Hw.beside_learnerSet _ _ _ _ _ (by decide) (by omega)).trans ?_))
  split
  · rename_i c hc
    refine a.beside_learnerSet _ _ _ _ (by decide) ?_
    unfold Hw.currentSlot at hc
    split at hc
    · cases hc
      decide
    · split at hc
      · cases hc
        decide
      · cases hc
  · exact .refl a

theorem Hw.beside_commitEnd (a : Hw) (f : Nat) (u : Bool) (m : Nat) : Hw.Beside (a.commitEnd f u m) a :=
  (Hw.beside_modJob ..).trans ((Hw.beside_learnerSet _ _ _ _ _ (by decide) (by decide)).trans
    ((Hw.beside_bumpAt _ _ _ _ _ (by decide) (by decide)).trans (a.beside_growScale m)))

theorem Hw.beside_voiding (h a : Hw) (m : Nat) : Hw.Beside (h.voiding a m) a := by
  unfold Hw.voiding
  refine (Hw.beside_learnerSet _ _ _ _ _ (by decide) (by decide)).trans ((Hw.beside_bumpAt _ _ _ _ _ (by decide) (by decide)).trans ?_)
  exact Hw.beside_ite (.refl a) (a.beside_learnerSet _ _ _ _ (by decide) (by decide))

theorem Hw.beside_event (h : Hw) (fam tag sev : Nat) (f p : Option Nat) (hf : fam < 255) : Hw.Beside (h.event fam tag sev f p) h := by
  have hinc : Hw.Beside (h.inc 0xC030 (fam + 1)) h := h.beside_setAt 0xC030 (fam + 1) 0 _ (.inr (by decide)) (by omega)
  exact ⟨fun i s hs hi hm => hinc.od i s hs hi hm⟩

/-- A decision changes values of the learner alone. -/
theorem Hw.beside_applyDecision (h : Hw) (f : Nat) (u : Bool) (m d : Nat) (ha : ∀ w, (h.job f u).acquired = some w → w < 2) :
    Hw.Beside (h.applyDecision f u m d) h := by
  have hacq : ((h.judging f u m).job f u).acquired = (h.job f u).acquired := by
    unfold Hw.judging
    rw [Hw.job_modJob]
    rfl
  have hend := ((h.judging f u m).beside_endShadow f u m 0 (by rw [hacq]; exact ha)).trans (h.beside_judging f u m)
  have hsteer : Hw.Beside ((h.commitSlots (h.judging f u m) f u m).steer m (h.job f u)) h :=
    (Hw.Beside.of_od (Hw.od_steer ..)).trans ((h.beside_commitSlots _ f u m ha).trans (h.beside_judging f u m))
  rw [h.applyDecision_eq f u m d]
  refine Hw.beside_ite ?_ (Hw.beside_ite ?_ (Hw.beside_ite ((Hw.beside_bumpAt _ _ _ _ _ (by decide) (by decide)).trans hend) hend))
  · exact (Hw.beside_commitEnd ..).trans ((Hw.beside_bumpAt _ _ _ _ _ (by decide) (by decide)).trans hsteer)
  · have hvoid := (h.beside_voiding (((h.judging f u m).endShadow f u m 0).voidData m) m).trans ((Hw.beside_voidData ..).trans hend)
    exact Hw.beside_ite ((Hw.beside_event _ _ _ _ _ _ (by decide)).trans hvoid) hvoid

/-! ## A recorded decision -/

/-- The decision carried out, with the round closed. -/
def Hw.verdictMade (h : Hw) (f : Nat) (u : Bool) (d : Nat) : Hw :=
  let m := (h.job f u).model
  let h1 := h.applyDecision f u m d
  let h2 := if d = 0 then h1.flipWalk m else h1
  if (h.learner m).round.isSome then h2.closeRound m (h.getAt 0x802A 1 m) (if d = 4 then 1 else d) else h2

theorem Hw.learned_verdictMade (h : Hw) (f : Nat) (u : Bool) (d : Nat) : Hw.Learned (h.verdictMade f u d) h := by
  have h1 := h.learned_applyDecision f u (h.job f u).model d
  have h2 := Hw.learned_ite (c := d = 0) ((Hw.learned_flipWalk _ (h.job f u).model).trans h1) h1
  unfold Hw.verdictMade
  exact Hw.learned_ite ((Hw.learned_closeRound ..).trans h2) h2

theorem Hw.beside_verdictMade (h : Hw) (f : Nat) (u : Bool) (d : Nat) (ha : ∀ w, (h.job f u).acquired = some w → w < 2) :
    Hw.Beside (h.verdictMade f u d) h := by
  have h1 := h.beside_applyDecision f u (h.job f u).model d ha
  have h2 := Hw.beside_ite (c := d = 0) ((Hw.beside_flipWalk _ (h.job f u).model).trans h1) h1
  unfold Hw.verdictMade
  exact Hw.beside_ite ((Hw.beside_modLearner ..).trans h2) h2

/-- A job at the end of an iteration. -/
def Job.iterated (x : Job) (retains : Bool) (now : Nat) : Job :=
  { x with
    iteration := x.iteration + 1, sliceIters := x.sliceIters + 1, gateTag := none, gateReady := false, decision := none,
    tags := [], headerOk := true, updateOk := false, retained := retains, retains := false, gateTimes := (now :: x.gateTimes).take 17 }

/-- The island with the GATE's descriptor done and the iteration over. -/
def Hw.iterated (h : Hw) (f : Nat) (u : Bool) (d : Nat) : Hw :=
  let h3 := h.verdictMade f u d
  let h4 := match (h.job f u).gateTag with | some t => h3.doneDesc t | none => h3
  (h4.modJob f u fun x => x.iterated (h.job f u).retains h.now).serveShadow (h.job f u).model

theorem Hw.recordDecision_decided (h : Hw) (f : Nat) (u : Bool) (d : Nat) (hs : (h.job f u).state = .running)
    (hg : (h.job f u).gateReady = true) (hsus : (h.job f u).suspended = false) (hd : (h.job f u).decision = some d) (hlt : d < 16)
    (ht : (h.job f u).telemetryOk = true) (hn : (h.job f u).nextHeaderOk = true) : h.recordDecision f u =
      (if (!((h.iterated f u d).job f u).finished && (u || !(h.iterated f u d).yields f ((h.iterated f u d).job f u))) = true then
        (h.iterated f u d).rereadGraph f u else h.iterated f u d).tryEndJob f u := by
  unfold Hw.recordDecision
  dsimp only
  rw [if_neg (by simp [hs, hg, hsus]), hd]
  dsimp only
  rw [if_neg (by omega), if_neg (by simp [ht, hn])]
  rfl

theorem Hw.recordDecision_idle (h : Hw) (f : Nat) (u : Bool)
    (hc : (h.job f u).state ≠ .running ∨ (h.job f u).gateReady = false ∨ (h.job f u).suspended = true) : h.recordDecision f u = h := by
  unfold Hw.recordDecision
  dsimp only
  refine if_pos (hc.imp id (Or.imp ?_ id))
  intro hg
  rw [hg]
  rfl

theorem Hw.doneDesc_beside (h : Hw) (t : Nat) : (h.doneDesc t).jobs = h.jobs ∧ (h.doneDesc t).od = h.od ∧
    ∀ p, ((h.doneDesc t).part p).credits = (h.part p).credits ∧ ((h.doneDesc t).part p).intReq = (h.part p).intReq ∧
      ((h.doneDesc t).part p).preReq = (h.part p).preReq := by
  unfold Hw.doneDesc
  split
  case h_2 => exact ⟨rfl, rfl, fun _ => ⟨rfl, rfl, rfl⟩⟩
  case h_1 d hd =>
    have hfree : h.freeDesc t = ({ h with descs := Map.erase h.descs t, descFreed := h.descFreed ++ [t] } : Hw).modPart d.part
        fun p => { p with ready := p.ready.erase t } := by
      unfold Hw.freeDesc
      rw [hd]
    dsimp only
    rw [hfree]
    refine ⟨rfl, rfl, fun p => ?_⟩
    have hpart : ∀ a : Hw, ((a.modPart d.part fun p => { p with ready := p.ready.erase t }).part p).credits = (a.part p).credits ∧
        ((a.modPart d.part fun p => { p with ready := p.ready.erase t }).part p).intReq = (a.part p).intReq ∧
        ((a.modPart d.part fun p => { p with ready := p.ready.erase t }).part p).preReq = (a.part p).preReq := fun a => by
      by_cases hp : p = d.part
      · rw [hp, Hw.part_modPart]
        exact ⟨rfl, rfl, rfl⟩
      · rw [Hw.part_modPart_ne _ _ _ _ hp]
        exact ⟨rfl, rfl, rfl⟩
    exact hpart _

theorem Hw.doneDesc_descs (h : Hw) (t : Nat) (d : Desc) (hd : h.desc? t = some d) : (h.doneDesc t).descs = Map.erase h.descs t := by
  unfold Hw.doneDesc Hw.freeDesc
  rw [hd]
  rfl

/-! ## The island after the iteration -/

theorem Hw.job_of_jobs {a b : Hw} (h : a.jobs = b.jobs) (f : Nat) (u : Bool) : a.job f u = b.job f u := by
  unfold Hw.job
  rw [h]

theorem Hw.decision_serveShadow (h : Hw) (m k : Nat) (v : Bool) : ((h.serveShadow m).job k v).decision = (h.job k v).decision := by
  unfold Hw.serveShadow
  dsimp only
  split
  · split
    · rename_i f u rest _ _ _ _ _
      by_cases hk : k = f ∧ v = u
      · rw [hk.1, hk.2, Hw.job_modJob]
        rfl
      · rw [Hw.job_modJob_ne _ _ _ _ _ _ hk]
        rfl
    · rfl
    · rfl
  · rfl

/-- The island before the next shadow: the GATE's descriptor is done and the job iterated. -/
def Hw.gateDone (h : Hw) (f : Nat) (u : Bool) (d : Nat) : Hw :=
  match (h.job f u).gateTag with
  | some t => (h.verdictMade f u d).doneDesc t
  | none => h.verdictMade f u d

theorem Hw.gateDone_keeps (h : Hw) (f : Nat) (u : Bool) (d : Nat) : (h.gateDone f u d).jobs = (h.verdictMade f u d).jobs ∧
    (h.gateDone f u d).od = (h.verdictMade f u d).od ∧ ∀ p, ((h.gateDone f u d).part p).credits = (h.part p).credits ∧
      ((h.gateDone f u d).part p).intReq = (h.part p).intReq ∧ ((h.gateDone f u d).part p).preReq = (h.part p).preReq := by
  have hp : (h.verdictMade f u d).parts = h.parts := (h.learned_verdictMade f u d).parts
  have hpart : ∀ p, (h.verdictMade f u d).part p = h.part p := fun p => by
    unfold Hw.part
    rw [hp]
  unfold Hw.gateDone
  split
  · obtain ⟨h1, h2, h3⟩ := (h.verdictMade f u d).doneDesc_beside ‹Nat›
    exact ⟨h1, h2, fun p => by rw [← hpart]; exact h3 p⟩
  · exact ⟨rfl, rfl, fun p => by rw [hpart]; exact ⟨rfl, rfl, rfl⟩⟩

theorem Hw.iterated_eq (h : Hw) (f : Nat) (u : Bool) (d : Nat) : h.iterated f u d =
    ((h.gateDone f u d).modJob f u fun x => x.iterated (h.job f u).retains h.now).serveShadow (h.job f u).model := rfl

/-- The job goes on with its iteration counted, its GATE and its decision gone. -/
theorem Hw.iterated_job (h : Hw) (f : Nat) (u : Bool) (d : Nat) :
    ((h.iterated f u d).job f u).course = ((h.job f u).iterated (h.job f u).retains h.now).course ∧
      ((h.iterated f u d).job f u).decision = none := by
  have hj : ((h.gateDone f u d).job f u).course = (h.job f u).course := by
    rw [Hw.job_of_jobs (h.gateDone_keeps f u d).1]
    exact (h.learned_verdictMade f u d).course f u
  have hit : ∀ x y : Job, x.course = y.course → ∀ r n, (x.iterated r n).course = (y.iterated r n).course := fun x y e r n =>
    congrArg (fun z => Job.course (z.iterated r n)) e
  rw [h.iterated_eq f u d]
  refine ⟨((Hw.learned_serveShadow ..).course f u).trans ?_, (Hw.decision_serveShadow ..).trans ?_⟩
  · rw [Hw.job_modJob]
    exact hit _ _ hj _ _
  · rw [Hw.job_modJob]
    rfl

theorem Hw.beside_iterated (h : Hw) (f : Nat) (u : Bool) (d : Nat) (ha : ∀ w, (h.job f u).acquired = some w → w < 2) :
    Hw.Beside (h.iterated f u d) h := by
  rw [h.iterated_eq f u d]
  exact (Hw.beside_serveShadow ..).trans ((Hw.beside_modJob ..).trans ((Hw.Beside.of_od (h.gateDone_keeps f u d).2.1).trans
    (h.beside_verdictMade f u d ha)))

/-! ## The next iteration -/

theorem Job.finished_of_course {x y : Job} (e : x.course = y.course) : x.finished = y.finished := by
  have h1 : x.iterations = y.iterations := by have e1 := congrArg Job.iterations e; exact e1
  have h2 : x.iteration = y.iteration := by have e1 := congrArg Job.iteration e; exact e1
  unfold Job.finished
  rw [h1, h2]

theorem Hw.yields_not (h : Hw) (f : Nat) (j : Job) (hy : h.raw 0x9110 (f + 1) = 0 ∨ j.sliceIters < h.raw 0x9110 (f + 1)) : h.yields f j = false := by
  unfold Hw.yields
  rcases hy with e | e
  · simp [e]
  · have : ¬ h.raw 0x9110 (f + 1) ≤ j.sliceIters := by omega
    simp [this]

/-- A job that goes on does not end. -/
theorem Hw.tryEndJob_goesOn (h : Hw) (f : Nat) (u : Bool) (hf : (h.job f u).finished = false)
    (hy : u = true ∨ h.yields f (h.job f u) = false) : h.tryEndJob f u = h := by
  unfold Hw.tryEndJob
  dsimp only
  split
  · rfl
  · rw [if_neg (by simp [hf]), if_neg]
    rintro ⟨h1, h2, -⟩
    rcases hy with e | e
    · simp [e] at h1
    · rw [e] at h2
      cases h2

theorem Hw.rereadGraph_reads (h : Hw) (f : Nat) (u : Bool) : Hw.SameButMem (h.rereadGraph f u) h ∧
    (h.rereadGraph f u).underWay fun x => x.use = .graphRead f u ∧ x.write = false := by
  have hone : ∀ (n : Nat) (g : Nat → Hw → Hw), (∀ k a, ∃ w b l t, g k a = a.memPost false w b l .ring t (.graphRead f u)) → ∀ a : Hw,
      0 < n → ((List.range n).foldl (fun a k => g k a) a).underWay fun x => x.use = .graphRead f u ∧ x.write = false := by
    intro n g hg a hn
    obtain ⟨k, rfl⟩ : ∃ k, n = k + 1 := ⟨n - 1, by omega⟩
    rw [List.range_succ, List.foldl_append]
    obtain ⟨w, b, l, t, e⟩ := hg k ((List.range k).foldl (fun a k => g k a) a)
    show (g k _).underWay _
    rw [e]
    exact Hw.underWay_memSend _ _ (fun _ _ _ hp => hp) ⟨rfl, rfl⟩
  unfold Hw.rereadGraph
  refine ⟨h.sameButMem_readBytes .., ?_⟩
  unfold Hw.readBytes
  refine hone _ (fun k a => _) (fun k a => ⟨_, _, _, _, rfl⟩) h ?_
  unfold chunkCount
  rw [if_neg (by omega)]
  omega

section
variable {h : Hw} {f d : Nat} {u : Bool}

/-- What a decision leaves of a job that has iterations to go. -/
theorem Hw.recordDecision_next (hs : (h.job f u).state = .running)
    (hg : (h.job f u).gateReady = true) (hsus : (h.job f u).suspended = false) (hd : (h.job f u).decision = some d) (hlt : d < 16)
    (ht : (h.job f u).telemetryOk = true) (hn : (h.job f u).nextHeaderOk = true) (ha : ∀ w, (h.job f u).acquired = some w → w < 2)
    (hf : f < 255) (hi : (h.job f u).iterations = 0 ∨ (h.job f u).iteration + 1 < (h.job f u).iterations)
    (hy : u = true ∨ h.raw 0x9110 (f + 1) = 0 ∨ (h.job f u).sliceIters + 1 < h.raw 0x9110 (f + 1)) :
    ((h.recordDecision f u).job f u).state = .running ∧ ((h.recordDecision f u).job f u).iteration = (h.job f u).iteration + 1 ∧
      ((h.recordDecision f u).job f u).decision = none ∧ ((h.recordDecision f u).job f u).gateTag = none ∧
      (h.recordDecision f u).underWay fun x => x.use = .graphRead f u ∧ x.write = false := by
  obtain ⟨hcourse, hdec⟩ := h.iterated_job f u d
  have hfin : ((h.iterated f u d).job f u).finished = false := by
    rw [Job.finished_of_course hcourse]
    unfold Job.finished
    show ((h.job f u).iterations != 0 && decide ((h.job f u).iterations ≤ (h.job f u).iteration + 1)) = false
    rcases hi with e | e
    · simp [e]
    · have : ¬ (h.job f u).iterations ≤ (h.job f u).iteration + 1 := by omega
      simp [this]
  have hraw : (h.iterated f u d).raw 0x9110 (f + 1) = h.raw 0x9110 (f + 1) :=
    (h.beside_iterated f u d ha).raw _ _ (by omega) (.inr (by decide)) (by decide)
  have hslice : ((h.iterated f u d).job f u).sliceIters = (h.job f u).sliceIters + 1 := by
    have e := congrArg Job.sliceIters hcourse
    exact e
  have hyield : u = true ∨ (h.iterated f u d).yields f ((h.iterated f u d).job f u) = false :=
    hy.imp id fun hy => Hw.yields_not _ _ _ (by rw [hraw, hslice]; exact hy)
  have hagain : (!((h.iterated f u d).job f u).finished && (u || !(h.iterated f u d).yields f ((h.iterated f u d).job f u))) = true := by
    rw [hfin]
    rcases hyield with e | e <;> simp [e]
  obtain ⟨hmem, hread⟩ := (h.iterated f u d).rereadGraph_reads f u
  have hjob : ((h.iterated f u d).rereadGraph f u).job f u = (h.iterated f u d).job f u := Hw.job_of_jobs hmem.jobs f u
  have hyield2 : u = true ∨ ((h.iterated f u d).rereadGraph f u).yields f (((h.iterated f u d).rereadGraph f u).job f u) = false := by
    refine hyield.imp id fun e => ?_
    rw [hjob]
    unfold Hw.yields at e ⊢
    rw [(Hw.Beside.of_mem hmem).raw 0x9110 (f + 1) (by omega) (.inr (by decide)) (by decide)]
    exact e
  rw [h.recordDecision_decided f u d hs hg hsus hd hlt ht hn, if_pos hagain,
    Hw.tryEndJob_goesOn _ f u (by rw [hjob]; exact hfin) hyield2, hjob]
  have e1 := congrArg Job.state hcourse
  have e2 := congrArg Job.iteration hcourse
  have e3 := congrArg Job.gateTag hcourse
  exact ⟨e1.trans hs, e2, hdec, e3, hread⟩

end

/-! ## The end of a job -/

theorem Map.filter_erase {α : Type} (m : Map α) (k : Nat) (c : α → Bool) (hl : (m.filter fun e => c e.2).map Prod.fst = [k]) :
    (Map.erase m k).filter (fun e => c e.2) = [] := by
  unfold Map.erase
  rw [List.filter_filter]
  refine List.filter_eq_nil_iff.mpr fun e he hc => ?_
  obtain ⟨hce, hne⟩ := Bool.and_eq_true_iff.mp hc
  have hin : e.1 ∈ (m.filter fun e => c e.2).map Prod.fst := List.mem_map_of_mem (List.mem_filter.mpr ⟨he, hce⟩)
  rw [hl, List.mem_singleton] at hin
  exact of_decide_eq_true hne hin

/-- A GATE's descriptor that is done was the job's last one. -/
theorem Hw.iterated_descTags (h : Hw) (f : Nat) (u : Bool) (d n : Nat) (hg : (h.job f u).gateTag = some n) (hn : (h.desc? n).isSome = true)
    (hl : h.descTags (jobDesc f u) = [n]) : (h.iterated f u d).descTags (jobDesc f u) = [] := by
  have hd : (h.verdictMade f u d).descs = h.descs := (h.learned_verdictMade f u d).descs
  obtain ⟨x, hx⟩ := Option.isSome_iff_exists.mp hn
  have hx' : (h.verdictMade f u d).desc? n = some x := by
    unfold Hw.desc? at hx ⊢
    rw [hd]
    exact hx
  have hdone : (h.iterated f u d).descs = Map.erase h.descs n := by
    rw [h.iterated_eq f u d]
    refine (Hw.learned_serveShadow ..).descs.trans ?_
    unfold Hw.gateDone
    rw [hg]
    exact (Hw.doneDesc_descs _ n x hx').trans (congrArg (Map.erase · n) hd)
  unfold Hw.descTags at hl ⊢
  rw [hdone, Map.filter_erase _ _ _ hl]
  rfl

theorem Hw.mem_facetParts_lt (h : Hw) (f p : Nat) (hp : p ∈ h.facetParts f) : p < 64 := by
  unfold Hw.facetParts setBits at hp
  exact List.mem_range.mp (List.mem_of_mem_filter (List.mem_of_mem_filter hp))

theorem Hw.beside_facetParts {a b : Hw} (h : Hw.Beside a b) (f : Nat) (hf : f < 255) : a.facetParts f = b.facetParts f := by
  unfold Hw.facetParts
  rw [h.raw 0x5000 (f + 1) (by omega) (.inl (by decide)) (by decide), h.raw 0x2201 1 (by decide) (.inl (by decide)) (by decide)]

/-- Once its last descriptor is done, a job whose credits are back is clear. -/
theorem Hw.iterated_clear (h : Hw) (f : Nat) (u : Bool) (d n : Nat) (hf : f < 255) (ha : ∀ w, (h.job f u).acquired = some w → w < 2)
    (hg : (h.job f u).gateTag = some n) (hn : (h.desc? n).isSome = true) (hl : h.descTags (jobDesc f u) = [n])
    (hp : ∀ p ∈ h.facetParts f, (h.part p).credits = h.get 0x2200 (p + 1) ∧ (h.part p).intReq = false ∧ (h.part p).preReq = false) :
    (h.iterated f u d).jobClear f u = true := by
  have hb := h.beside_iterated f u d ha
  have hpart : ∀ p, (h.iterated f u d).part p = (h.gateDone f u d).part p := fun p => by
    rw [h.iterated_eq f u d]
    exact congrArg (fun m => Map.getD m p Part.reset) (Hw.learned_serveShadow ..).parts
  have hall : ((h.iterated f u d).facetParts f).all (fun p => ((h.iterated f u d).part p).credits == (h.iterated f u d).get 0x2200 (p + 1) &&
      !((h.iterated f u d).part p).intReq && !((h.iterated f u d).part p).preReq) = true := by
    rw [Hw.beside_facetParts hb f hf]
    refine List.all_eq_true.mpr fun p hm => ?_
    have hlt := h.mem_facetParts_lt f p hm
    obtain ⟨h1, h2, h3⟩ := hp p hm
    obtain ⟨e1, e2, e3⟩ := (h.gateDone_keeps f u d).2.2 p
    rw [hpart, e1, e2, e3, h1, h2, h3, hb.get 0x2200 (p + 1) (by omega) (.inl (by decide)) (by decide)]
    simp
  unfold Hw.jobClear
  rw [h.iterated_descTags f u d n hg hn hl, hall]
  simp

theorem Hw.jobs_closeParts (h : Hw) (f : Nat) : (h.closeParts f).jobs = h.jobs := by
  unfold Hw.closeParts
  refine foldl_keeps Hw.jobs _ ?_ _ h
  exact fun _ _ => rfl

/-- A facet whose job has ended goes to STANDBY with its jobs as they are. -/
theorem Hw.enterStandby_jobs (h : Hw) (f : Nat) (b : Bool) (hj : (h.job f false).state ≠ .pending) : (h.enterStandby f b).jobs = h.jobs := by
  have hstart : ∀ g : Hw, g.jobs = h.jobs →
      (if (g.job f false).state = .pending ∧ (!(g.job f false).yielded || b) = true then g.startJob f else g).jobs = h.jobs := fun g hg => by
    rw [if_neg]
    · exact hg
    · rw [Hw.job_of_jobs hg]
      exact fun hc => hj hc.1
  unfold Hw.enterStandby
  exact hstart _ (Hw.jobs_closeParts ..)

/-- The facet's job after its end. -/
theorem Hw.endJob_first (h : Hw) (f : Nat) : ((h.endJob f false 1).job f false).course =
    ({ h.job f false with state := .ended, result := 1, tags := [], gateTag := none, gateReady := false } : Job).course := by
  have hend : ∀ (g : Hw), Hw.Learned g h → ∀ x, x = ((g.modJob f false fun j =>
      { j with state := .ended, result := 1, tags := [], gateTag := none, gateReady := false }).dropContext f 1) →
      (x.job f false).course = ({ h.job f false with state := .ended, result := 1, tags := [], gateTag := none, gateReady := false } : Job).course := by
    intro g hg x hx
    have hc := hg.course f false
    rw [hx, (Hw.torn_dropContext ..).course f false, Hw.job_modJob]
    have e := congrArg (fun z : Job => Job.course { z with state := .ended, result := 1, tags := [], gateTag := none, gateReady := false }) hc
    exact e
  have h0 : Hw.Learned (if h.roundJobIs (h.job f false).model f false = true then h
      else (h.endShadow f false (h.job f false).model 0).serveShadow (h.job f false).model) h :=
    Hw.learned_ite (.refl h) ((Hw.learned_serveShadow ..).trans (h.learned_endShadow ..))
  have hx := hend _ h0 _ rfl
  unfold Hw.endJob
  dsimp only
  rw [if_pos rfl, if_neg Bool.false_ne_true]
  generalize ((Hw.modJob (if h.roundJobIs (h.job f false).model f false = true then h
      else (h.endShadow f false (h.job f false).model 0).serveShadow (h.job f false).model) f false fun j =>
      { j with state := .ended, result := 1, tags := [], gateTag := none, gateReady := false }).dropContext f 1) = x at hx ⊢
  have hne : (x.job f false).state ≠ .pending := by
    have e := congrArg Job.state hx
    have e' : (x.job f false).state = .ended := e
    rw [e']
    decide
  split
  · exact hx
  · split
    · rename_i hf
      cases hf
    · split
      · exact hx
      · rw [Hw.job_of_jobs (x.enterStandby_jobs f false hne)]
        exact hx

section
variable {h : Hw} {f d n : Nat}

/-- What a decision leaves of a facet's job after its last iteration. -/
theorem Hw.recordDecision_last (hs : (h.job f false).state = .running)
    (hg : (h.job f false).gateReady = true) (hsus : (h.job f false).suspended = false) (hd : (h.job f false).decision = some d) (hlt : d < 16)
    (ht : (h.job f false).telemetryOk = true) (hn : (h.job f false).nextHeaderOk = true) (ha : ∀ w, (h.job f false).acquired = some w → w < 2)
    (hf : f < 255) (hi : (h.job f false).iterations ≠ 0) (hlast : (h.job f false).iterations ≤ (h.job f false).iteration + 1)
    (htag : (h.job f false).gateTag = some n) (hdesc : (h.desc? n).isSome = true) (hl : h.descTags (jobDesc f false) = [n])
    (hp : ∀ p ∈ h.facetParts f, (h.part p).credits = h.get 0x2200 (p + 1) ∧ (h.part p).intReq = false ∧ (h.part p).preReq = false) :
    ((h.recordDecision f false).job f false).state = .ended ∧ ((h.recordDecision f false).job f false).result = 1 ∧
      ((h.recordDecision f false).job f false).iteration = (h.job f false).iteration + 1 := by
  obtain ⟨hcourse, -⟩ := h.iterated_job f false d
  have hclear := h.iterated_clear f false d n hf ha htag hdesc hl hp
  have hfin : ((h.iterated f false d).job f false).finished = true := by
    rw [Job.finished_of_course hcourse]
    unfold Job.finished
    show ((h.job f false).iterations != 0 && decide ((h.job f false).iterations ≤ (h.job f false).iteration + 1)) = true
    simp [hi, hlast]
  have e1 := congrArg Job.state hcourse
  have e2 := congrArg Job.gateTag hcourse
  have e3 := congrArg Job.suspended hcourse
  have e4 := congrArg Job.iteration hcourse
  have e1' : ((h.iterated f false d).job f false).state = .running := e1.trans hs
  have e2' : ((h.iterated f false d).job f false).gateTag = none := e2
  have e3' : ((h.iterated f false d).job f false).suspended = false := e3.trans hsus
  have e4' : ((h.iterated f false d).job f false).iteration = (h.job f false).iteration + 1 := e4
  rw [h.recordDecision_decided f false d hs hg hsus hd hlt ht hn, if_neg (by simp [hfin])]
  have hend := (h.iterated f false d).endJob_first f
  have htry : (h.iterated f false d).tryEndJob f false = (h.iterated f false d).endJob f false 1 := by
    unfold Hw.tryEndJob
    dsimp only
    rw [if_neg (by simp [e1', e2', e3', hclear]), if_pos hfin]
  rw [htry]
  generalize ((h.iterated f false d).endJob f false 1).job f false = x at hend ⊢
  have r1 := congrArg Job.state hend
  have r2 := congrArg Job.result hend
  have r3 := congrArg Job.iteration hend
  exact ⟨r1, r2, r3.trans e4'⟩

end

end Sys2Proof.Machine

/-! PROOFS. R41, R230, R231, R328, R337, R344, R346: the learner's commands and the accounts. -/

namespace Sys2Proof.Machine

open Sys2Proof

theorem Hw.writeUpdate_spec (h : Hw) (f : Nat) (u : Bool) : Hw.SameButMem (h.writeUpdate f u) h ∧
    (h.writeUpdate f u).underWay fun x => x.use = .updatePart f u ∧ x.write = true ∧
      x.addr = (h.attemptBlock f u (h.job f u).iteration + 64) / 64 * 64 := by
  unfold Hw.writeUpdate
  exact ⟨h.sameButMem_memPost .., Hw.underWay_memSend _ _ (fun _ _ _ hp => hp) ⟨rfl, rfl, rfl⟩⟩

theorem Hw.accountBoundary_early (h : Hw) (hn : h.now / (h.acct.periodMs * 1000000) ≤ h.acct.startNs / (h.acct.periodMs * 1000000))
    (hd : h.acct.due = false) : h.accountBoundary = h := by
  unfold Hw.accountBoundary
  rw [h.rollAccounts_early hn]
  exact if_neg (by rw [hd]; decide)

theorem Hw.learner_setSlot_modLearner (h : Hw) (m n k v : Nat) (g : Learner → Learner) :
    ((h.modLearner m g).setSlot n k v).learner m = g (h.learner m) := h.learner_modLearner m g

/-- Settles O45: what the end of a period, the handover, the budget's passing, the update part and the decision leave. -/
theorem learnerAndAccounts : Obligations.LearnerAndAccounts := by
  unfold Obligations.LearnerAndAccounts
  intro s hr
  have hobs : ∀ i j o, i < 0xB000 → j < 256 → obsKey (odKey i j o) = false := obsKey_low
  refine ⟨fun hn => ?_, fun hn hd => ?_, fun m k hk hu => ⟨fun hq => ?_, fun f u hq hs hm => ?_⟩, fun m hc => ?_, fun m _ _ hn => ?_,
    fun m hq hst hn => ⟨fun hs => ?_, fun slot q hs hm hv hend => ⟨fun c hp hmode hc hkv ha => ?_, fun hp => ?_⟩⟩, fun m hc => ?_,
    fun f u hup => ?_, fun f u hup => ?_, fun f u d hs hg hsus hd hlt ht hnx hm ha => ⟨fun hi hy => ?_, fun n hu hi hlast htag hn hl hp => ?_⟩,
    fun f u hc => ?_⟩
  · obtain ⟨a, hroll, h1, h2, h3, h4, h5⟩ := (s.hw.begun .alone 0x0C).rollAccounts_due hn
    obtain ⟨e1, e2, e3, e4, e5⟩ := ((s.hw.begun .alone 0x0C).periodEnded a).flowAccount_keeps
    obtain ⟨p1, p2, p3⟩ := (s.hw.begun .alone 0x0C).periodEnded_spec a
    refine hr.nextEq .alone 0x0C Hw.accountBoundary (Hw.accountBoundary_of_due _ a hroll h4) ?_
    dsimp only
    rw [Hw.settle_acct, Hw.settle_seqs, e1, e2, e3, e4, e5, p1, p2]
    refine ⟨h1, h2, h3, rfl, fun hf hl => ?_, rfl⟩
    obtain ⟨q1, q2⟩ := p3 hf (h5 hl)
    rw [Hw.settle_get _ _ _ _ (hobs _ _ _ (by decide) (by decide)), Hw.flowAccount_full _ q1]
    exact q2
  · exact hr.idle .alone 0x0C Hw.accountBoundary ((s.hw.begun .alone 0x0C).accountBoundary_early hn hd)
  · have he := (s.hw.begun .alone 9).handover_load m k hk hu hq
    refine hr.nextEq .alone 9 (fun h => h.handover m) he ⟨?_, ?_, ?_, ?_⟩
    · refine (Hw.settle_getAt _ _ _ _ _ (hobs _ _ _ (by decide) ?_)).trans (Hw.getAt_setAt _ _ _ _ _)
      have := List.mem_of_find?_eq_some hk
      simp at this
      omega
    · dsimp only
      rw [Hw.settle_learner, Hw.learner_setSlot_modLearner]
    · exact Hw.settle_seqs ..
    · exact Hw.settle_jobs ..
  · obtain ⟨h1, h2, h3, h4, h5⟩ := (s.hw.begun .alone 9).handed_spec m k f u
    refine hr.nextEq .alone 9 (fun h => h.handover m) ((s.hw.begun .alone 9).handover_attempt m k f u hk hu hq hs hm) ⟨?_, ?_, ?_, ?_, ?_⟩
    · refine (Hw.settle_getAt _ _ _ _ _ (hobs _ _ _ (by decide) ?_)).trans h1
      have := List.mem_of_find?_eq_some hk
      simp at this
      omega
    · dsimp only
      rw [Hw.settle_learner]
      exact h2
    · dsimp only
      rw [Hw.settle_learner]
      exact h3
    · exact (Hw.settle_job ..).trans h4
    · exact (Hw.settle_seqs ..).trans h5
  · refine hr.idle .alone 9 (fun h => h.handover m) ?_
    rcases hc with hq | ⟨k, hk, hu⟩
    · exact (s.hw.begun .alone 9).handover_none m hq
    · exact (s.hw.begun .alone 9).handover_used m k hk hu
  · exact hr.idle .alone 9 (fun h => h.expire m) ((s.hw.begun .alone 9).expire_not m (.inr (.inr hn)))
  · have he := (s.hw.begun .alone 9).expire_passed m hq hst hn
    have hs0 : (s.hw.begun .alone 9).seqs = [] := hs
    rw [hs0] at he
    exact hr.leaves .alone 9 (fun h => h.expire m) (.of_eq he ⟨rfl, rfl⟩)
  · have hs0 : (s.hw.begun .alone 9).seqs = [(slot, q)] := hs
    have he := (s.hw.begun .alone 9).expire_passed m hq hst hn
    rw [hs0] at he
    obtain ⟨h1, h2, h3⟩ := ((s.hw.begun .alone 9).staled m).expireSeq_fixed slot c m q hs hm hv hend hp hmode hc hkv ha
    refine hr.nextEq .alone 9 (fun h => h.expire m) he ⟨?_, ?_, ?_⟩
    · refine (congrArg Learner.stale (Hw.settle_learner ..)).trans ?_
      refine (congrArg (fun l => (Map.getD l m.val Learner.reset).stale) h3).trans ?_
      exact congrArg Learner.stale (Hw.learner_modLearner (s.hw.begun .alone 9) m.val _)
    · exact (Hw.settle_seqs ..).trans h1
    · exact (Hw.settle_getAt _ _ _ _ _ (hobs _ _ _ (by decide) (by decide))).trans h2
  · have hs0 : (s.hw.begun .alone 9).seqs = [(slot, q)] := hs
    have he := (s.hw.begun .alone 9).expire_passed m hq hst hn
    rw [hs0] at he
    obtain ⟨h1, h2, h3⟩ := ((s.hw.begun .alone 9).staled m).expireSeq_exact slot m q hs hm hv hend hp
    refine hr.nextEq .alone 9 (fun h => h.expire m) he ⟨?_, ?_, ?_⟩
    · refine (congrArg Learner.stale (Hw.settle_learner ..)).trans ?_
      refine (congrArg (fun l => (Map.getD l m.val Learner.reset).stale) h3).trans ?_
      exact congrArg Learner.stale (Hw.learner_modLearner (s.hw.begun .alone 9) m.val _)
    · exact (Hw.settle_seqs ..).trans h1
    · exact (Hw.settle_getAt _ _ _ _ _ (hobs _ _ _ (by decide) (by decide))).trans h2
  · refine hr.idle .alone 9 (fun h => h.expire m) ((s.hw.begun .alone 9).expire_not m ?_)
    exact hc.imp id .inl
  · obtain ⟨hmem, hwrite⟩ := (s.hw.begun .alone 8).writeUpdate_spec f u
    refine hr.nextEq .alone 8 (fun h => if h.updateReady f u then h.writeUpdate f u else h) (if_pos hup) ⟨?_, ?_, ?_⟩
    · dsimp only
      rw [Hw.settle_mem]
      exact hwrite
    · exact (Hw.settle_jobs ..).trans hmem.jobs
    · exact (Hw.settle_learners ..).trans hmem.learners
  · refine hr.idle .alone 8 (fun h => if h.updateReady f u then h.writeUpdate f u else h) (if_neg ?_)
    show ¬ s.hw.updateReady f u = true
    rw [hup]
    decide
  · obtain ⟨h1, h2, h3, h4, h5⟩ := Hw.recordDecision_next (h := s.hw.begun .alone 8) hs hg hsus hd (by omega) ht hnx ha (by omega) hi hy
    refine hr.next .alone 8 (fun h => h.recordDecision f u) ⟨?_, ?_, ?_, ?_, ?_⟩
    · dsimp only
      rw [Hw.settle_job]
      exact h1
    · dsimp only
      rw [Hw.settle_job]
      exact h2
    · dsimp only
      rw [Hw.settle_job]
      exact h3
    · dsimp only
      rw [Hw.settle_job]
      exact h4
    · dsimp only
      rw [Hw.settle_mem]
      exact h5
  · subst hu
    obtain ⟨h1, h2, h3⟩ := Hw.recordDecision_last (h := s.hw.begun .alone 8) hs hg hsus hd (by omega) ht hnx ha (by omega) hi hlast htag hn hl hp
    refine hr.next .alone 8 (fun h => h.recordDecision f false) ⟨?_, ?_, ?_⟩
    · dsimp only
      rw [Hw.settle_job]
      exact h1
    · dsimp only
      rw [Hw.settle_job]
      exact h2
    · dsimp only
      rw [Hw.settle_job]
      exact h3
  · exact hr.idle .alone 8 (fun h => h.recordDecision f u) ((s.hw.begun .alone 8).recordDecision_idle f u hc)

end Sys2Proof.Machine

/-! PROOFS. R410 and R411: facet gating and `aon_facet_up`. -/

namespace Sys2Proof.Machine

open Sys2Proof

/-! ## What a composition keeps of the facets -/

/-- A facet's state, and the state that it waits to enter. -/
def Facet.duty (x : Facet) : FacetState × Option FacetState := (x.state, x.waitingUp)

/-- Every facet has its state and the state that it waits to enter. -/
structure Hw.OnDuty (a b : Hw) : Prop where
  duty : ∀ k, (a.facet k).duty = (b.facet k).duty

theorem Hw.OnDuty.refl (a : Hw) : Hw.OnDuty a a := ⟨fun _ => rfl⟩

theorem Hw.OnDuty.trans {a b c : Hw} (h1 : Hw.OnDuty a b) (h2 : Hw.OnDuty b c) : Hw.OnDuty a c :=
  ⟨fun k => (h1.duty k).trans (h2.duty k)⟩

theorem Hw.OnDuty.of_facets {a b : Hw} (h : a.facets = b.facets) : Hw.OnDuty a b :=
  ⟨fun k => congrArg (fun m => (Map.getD m k Facet.reset).duty) h⟩

theorem Hw.onDuty_ite {c : Prop} [Decidable c] {a b h : Hw} (ha : Hw.OnDuty a h) (hb : Hw.OnDuty b h) : Hw.OnDuty (if c then a else b) h := by
  split
  · exact ha
  · exact hb

theorem Hw.onDuty_foldl {α : Type} (g : Hw → α → Hw) (hg : ∀ b a, Hw.OnDuty (g b a) b) (l : List α) (b : Hw) :
    Hw.OnDuty (l.foldl g b) b := by
  induction l generalizing b with
  | nil => exact .refl b
  | cons a r ih => exact (ih (g b a)).trans (hg b a)

theorem Hw.onDuty_modFacet (h : Hw) (f : Nat) (g : Facet → Facet) (hg : ∀ x, (g x).duty = x.duty) : Hw.OnDuty (h.modFacet f g) h := by
  refine ⟨fun k => ?_⟩
  by_cases hk : k = f
  · rw [hk, Hw.facet_modFacet, hg]
  · rw [Hw.facet_modFacet_ne _ _ _ _ hk]

theorem Hw.onDuty_setSeq (h : Hw) (slot : Nat) (q : Seq) : Hw.OnDuty (h.setSeq slot q) h := .of_facets rfl
theorem Hw.onDuty_inc (h : Hw) (i s : Nat) : Hw.OnDuty (h.inc i s) h := .of_facets rfl
theorem Hw.onDuty_bumpAt (h : Hw) (i s o n : Nat) : Hw.OnDuty (h.bumpAt i s o n) h := .of_facets rfl

theorem Hw.onDuty_withSecUsed (h : Hw) (n : Nat) : Hw.OnDuty { h with secUsed := n } h := .of_facets rfl

theorem Hw.onDuty_modSeq (h : Hw) (slot : Nat) (g : Seq → Seq) : Hw.OnDuty (h.modSeq slot g) h := by
  unfold Hw.modSeq
  split
  · exact h.onDuty_setSeq ..
  · exact .refl h

theorem Hw.onDuty_incOnceAt (h : Hw) (i s o : Nat) : Hw.OnDuty (h.incOnceAt i s o) h := by
  unfold Hw.incOnceAt
  exact Hw.onDuty_ite (.refl h) (.of_facets rfl)

/-! ## Flips and KV that is given up -/

theorem Hw.facets_dropRef (h : Hw) (r : Nat × Nat) : (h.dropRef r).facets = h.facets := by
  unfold Hw.dropRef
  dsimp only
  split
  · rfl
  · split
    · rfl
    · split <;> rfl

theorem Hw.onDuty_resetKv (h : Hw) (slot keep kv : Nat) : Hw.OnDuty (h.resetKv slot keep kv) h := by
  unfold Hw.resetKv
  split
  · exact .refl h
  · dsimp only
    refine Hw.OnDuty.trans (Hw.onDuty_modFacet _ _ _ ?_) ((Hw.onDuty_setSeq ..).trans (Hw.onDuty_foldl _ (fun b r => ?_) _ h))
    · exact fun _ => rfl
    · exact .of_facets rfl

theorem Hw.onDuty_commitSeqNow (h : Hw) (slot : Nat) : Hw.OnDuty (h.commitSeqNow slot) h := by
  have hlines : ∀ (a : Hw) p l, Hw.OnDuty (a.postLines p l) a := fun a p l =>
    Hw.onDuty_foldl _ (fun b x => .of_facets (b.sameButMem_memPost ..).facets) l a
  unfold Hw.commitSeqNow
  split
  · rename_i q hq
    dsimp only
    refine (Hw.OnDuty.of_facets (Hw.sameButMem_postPages ..).facets).trans ((hlines ..).trans ((Hw.onDuty_setSeq ..).trans ?_))
    have hdrop : Hw.OnDuty ((pagesMinus q.pagesCom q.pagesCur).foldl (fun (a : Hw) r => a.dropRef (r.pool, r.page)) h) h :=
      Hw.onDuty_foldl _ (fun b r => .of_facets (b.facets_dropRef _)) _ h
    have hfree : ∀ (a : Hw) l, Hw.OnDuty (a.freeBlocks l) a := fun _ _ => .of_facets rfl
    exact (hfree ..).trans hdrop
  · exact .refl h

theorem Hw.onDuty_flip (h : Hw) (slot : Nat) : Hw.OnDuty (h.flip slot) h := by
  unfold Hw.flip
  cases hq : h.seq? slot with
  | none => exact .refl h
  | some q =>
    dsimp only
    cases hc : h.currentSlot (h.modelOf q.cur) with
    | none => exact .refl h
    | some c =>
      dsimp only
      have h0 := h.onDuty_setSeq slot { q with cur := { q.cur with vslot := c, version := h.slotVersion (h.modelOf q.cur) c } }
      generalize h.setSeq slot { q with cur := { q.cur with vslot := c, version := h.slotVersion (h.modelOf q.cur) c } } = a at h0 ⊢
      have h1 := Hw.onDuty_ite (c := h.getAt 0x8007 1 (h.modelOf q.cur) = 1) ((a.onDuty_resetKv slot 0 0).trans h0) h0
      generalize (if h.getAt 0x8007 1 (h.modelOf q.cur) = 1 then a.resetKv slot 0 0 else a) = b at h1 ⊢
      have h2 := Hw.onDuty_ite (c := (h.facet q.cur.facet).state.runs = true) h1 ((b.onDuty_commitSeqNow slot).trans h1)
      generalize (if (h.facet q.cur.facet).state.runs = true then b else b.commitSeqNow slot) = x at h2 ⊢
      have h3 := Hw.onDuty_ite (c := q.cur.pins = .fixed) ((x.onDuty_bumpAt 0x8016 1 (h.modelOf q.cur) 1).trans h2) h2
      exact Hw.onDuty_ite ((Hw.onDuty_inc ..).trans h3) h3

/-! ## Resources -/

theorem Hw.onDuty_fillHot (h : Hw) (slot : Nat) : Hw.OnDuty (h.fillHot slot) h := by
  have hroom : Hw.OnDuty h.makeHotRoom h := by
    unfold Hw.makeHotRoom
    refine Hw.onDuty_ite (.refl h) ?_
    split
    · exact (Hw.onDuty_inc ..).trans (h.onDuty_modSeq ..)
    · exact .refl h
  unfold Hw.fillHot
  split
  · refine Hw.onDuty_ite (.refl h) (Hw.onDuty_ite ?_ hroom)
    exact (Hw.OnDuty.of_facets (Hw.sameButMem_memPost ..).facets).trans ((Hw.onDuty_inc ..).trans ((Hw.onDuty_modSeq ..).trans hroom))
  · exact .refl h

theorem Hw.facets_takeBlock (h : Hw) (b : Nat) (a : Hw) (hb : h.takeBlock = some (b, a)) : a.facets = h.facets := by
  unfold Hw.takeBlock at hb
  split at hb
  · cases hb
    rfl
  · split at hb
    · cases hb
      rfl
    · cases hb

theorem Hw.facets_takePage (h : Hw) (k : Nat) (r : Nat × Hw) (hr : h.takePage k = some r) : r.2.facets = h.facets := by
  unfold Hw.takePage at hr
  obtain ⟨q, -, rfl⟩ := Option.map_eq_some_iff.mp hr
  rfl

theorem Hw.facets_allocPage (h : Hw) (m affinity : Nat) (c : Cls) (r : PageRef × Hw) (hr : h.allocPage m affinity c = some r) :
    r.2.facets = h.facets := by
  unfold Hw.allocPage at hr
  split at hr
  · obtain ⟨x, hx, rfl⟩ := Option.map_eq_some_iff.mp hr
    exact h.facets_takePage _ x hx
  · cases hr

/-- What `takePages` leaves once the leaf for the next page is there. -/
theorem Hw.onDuty_takePages (slot n : Nat) (h : Hw) : Hw.OnDuty (h.takePages slot n).1 h := by
  induction n generalizing h with
  | zero => exact .refl h
  | succ n ih =>
    unfold Hw.takePages
    cases hq : h.seq? slot with
    | none => exact .refl h
    | some q =>
      dsimp only
      have hleaf : ∀ a, (if leavesFor (q.pagesCur.length + 1) ≤ q.blocks.length - 1 then some h
          else (h.takeBlock).map fun r => r.2.setSeq slot { q with blocks := q.blocks ++ [r.1] }) = some a → Hw.OnDuty a h := fun a ha => by
        split at ha
        · cases ha
          exact .refl h
        · obtain ⟨⟨b, x⟩, hx, rfl⟩ := Option.map_eq_some_iff.mp ha
          exact (Hw.onDuty_setSeq ..).trans (.of_facets (h.facets_takeBlock b x hx))
      generalize (if leavesFor (q.pagesCur.length + 1) ≤ q.blocks.length - 1 then some h
          else (h.takeBlock).map fun r => r.2.setSeq slot { q with blocks := q.blocks ++ [r.1] }) = leafed at hleaf ⊢
      cases leafed with
      | none => exact .refl h
      | some h1 =>
        dsimp only
        cases hp : h1.allocPage (h.modelOf q.cur) q.cur.affinity q.cur.cls with
        | none => exact .refl h
        | some r =>
          obtain ⟨pg, h2⟩ := r
          exact (ih _).trans ((Hw.onDuty_modSeq ..).trans ((Hw.OnDuty.of_facets (h1.facets_allocPage _ _ _ _ hp)).trans (hleaf h1 rfl)))

theorem Hw.onDuty_takeFor (h : Hw) (lim : Limits) (placed : List Place) (c : Place) : Hw.OnDuty (h.takeFor lim placed c).1 h := by
  unfold Hw.takeFor
  split
  · exact .refl h
  · rename_i q hq
    dsimp only
    split
    · exact .refl h
    · split
      · exact .refl h
      · have h2 := ((h.fillHot c.slot).onDuty_modSeq c.slot fun s => { s with
          resQueue := s.resQueue ++ [(lim.step, reserveCount q.cur c.tokensReserved)], lastPlaced := lim.step }).trans (h.onDuty_fillHot c.slot)
        generalize (h.fillHot c.slot).modSeq c.slot (fun s => { s with
          resQueue := s.resQueue ++ [(lim.step, reserveCount q.cur c.tokensReserved)], lastPlaced := lim.step }) = a at h2 ⊢
        have h3 : ∀ b : Bool, Hw.OnDuty (if b = true then a.modSeq c.slot fun s => { s with resRing := s.resRing ++ [(lim.step, c.tokensReserved)] }
            else a) h := fun b => Hw.onDuty_ite ((Hw.onDuty_modSeq ..).trans h2) h2
        have hlast : ∀ x : Hw, Hw.OnDuty x h → ∀ n, Hw.OnDuty (match x.takePages c.slot n with
            | (_, some e) => (h, some e)
            | (h4, none) => if h4.blocksFit lim (placed ++ [c]) = true then (h4, none) else (h, some .space)).1 h := fun x hx n => by
          have hp := (x.onDuty_takePages c.slot n).trans hx
          generalize x.takePages c.slot n = r at hp ⊢
          obtain ⟨y, e⟩ := r
          cases e with
          | some e => exact .refl h
          | none =>
            dsimp only
            split
            · exact hp
            · exact .refl h
        split
        · split
          · exact .refl h
          · exact hlast _ (h3 _) _
        · exact hlast _ (h3 _) _

/-! ## Placement -/

theorem Scan.onDuty_leaveOut (s : Scan) (f slot : Nat) (why : Option Short) : Hw.OnDuty (s.leaveOut f slot why).hw s.hw := by
  unfold Scan.leaveOut
  dsimp only
  have h1 := s.hw.onDuty_inc 0x5012 (f + 1)
  split
  · exact Hw.onDuty_ite ((Hw.onDuty_inc ..).trans h1) h1
  · exact h1

theorem Scan.onDuty_tryPlace (s : Scan) (lim : Limits) (posLimit : Nat) (c : Place) : Hw.OnDuty (s.tryPlace lim posLimit c).1.hw s.hw := by
  have ht := s.hw.onDuty_takeFor lim s.places c
  unfold Scan.tryPlace
  split
  · exact .refl s.hw
  · generalize s.hw.takeFor lim s.places c = r at ht ⊢
    obtain ⟨y, e⟩ := r
    cases e with
    | none => exact ht
    | some e => exact .refl s.hw

theorem Scan.onDuty_tried (s : Scan) (f slot : Nat) (lim : Limits) (posLimit : Nat) (c : Place) :
    Hw.OnDuty (match s.tryPlace lim posLimit c with
      | (s1, none) => s1
      | (s1, some why) => s1.leaveOut f slot why).hw s.hw := by
  have ht := s.onDuty_tryPlace lim posLimit c
  generalize s.tryPlace lim posLimit c = r at ht ⊢
  obtain ⟨y, e⟩ := r
  cases e with
  | none => exact ht
  | some why => exact (y.onDuty_leaveOut ..).trans ht

theorem Scan.onDuty_placeDecode (s : Scan) (f : Nat) (lim : Limits) (posLimit slot : Nat) (v : Vertex) (e : Expect) :
    Hw.OnDuty (s.placeDecode f lim posLimit slot v e).hw s.hw := by
  unfold Scan.placeDecode
  split
  · exact s.onDuty_leaveOut ..
  · exact s.onDuty_tried ..

theorem Scan.onDuty_decodeInstead (s : Scan) (f : Nat) (lim : Limits) (slot : Nat) (v : Vertex) (e : Expect) (why : TreeLack) :
    Hw.OnDuty (s.decodeInstead f lim slot v e why).hw s.hw := by
  unfold Scan.decodeInstead
  dsimp only
  have h1 : Hw.OnDuty (if (why = .space ∨ why = .sec) ∧ s.hw.mode f = 2 then { s with hw := s.hw.inc 0x5013 (f + 1) } else s : Scan).hw s.hw := by
    split
    · exact s.hw.onDuty_inc ..
    · exact .refl s.hw
  generalize (if (why = .space ∨ why = .sec) ∧ s.hw.mode f = 2 then { s with hw := s.hw.inc 0x5013 (f + 1) } else s : Scan) = a at h1 ⊢
  have h2 := (a.onDuty_placeDecode f lim lim.passA slot v e).trans h1
  split
  · exact (Hw.onDuty_inc ..).trans h2
  · exact h2

theorem Scan.onDuty_placeChunk (s : Scan) (f : Nat) (lim : Limits) (posLimit slot : Nat) (q : Seq) (e : Expect) (kind : PosKind) (left : Nat)
    (logits : Bool) : Hw.OnDuty (s.placeChunk f lim posLimit slot q e kind left logits).hw s.hw := by
  unfold Scan.placeChunk
  dsimp only
  split
  · exact s.onDuty_leaveOut ..
  · rename_i p hp
    generalize min (min lim.chunk left) (min (if q.cur.shareReduced = true then s.hw.getAt 0x4101 7 (s.hw.modelOf q.cur) else lim.maxPos)
      (min (posLimit - positionsOf s.places) (lim.room - positionsOn p s.places))) = c
    split
    · exact s.onDuty_leaveOut ..
    · exact s.onDuty_tried ..

theorem Scan.onDuty_flipAt (s : Scan) (f slot : Nat) (lim : Limits) : Hw.OnDuty (s.flipAt f slot lim).hw s.hw := by
  unfold Scan.flipAt
  split
  · split
    · exact s.hw.onDuty_flip slot
    · exact .refl s.hw
  · exact .refl s.hw

theorem Scan.onDuty_placeReady (s : Scan) (f : Nat) (lim : Limits) (slot : Nat) (q : Seq) (e : Expect) :
    Hw.OnDuty (s.placeReady f lim slot q e).hw s.hw := by
  unfold Scan.placeReady
  dsimp only
  split
  · exact s.onDuty_placeDecode ..
  · split
    · have h1 := s.onDuty_placeDecode f lim lim.passA slot q.cur e
      split
      · exact h1
      · exact (Hw.onDuty_modSeq ..).trans h1
    · have h0 : Hw.OnDuty (if (s.hw.chooseShape (s.hw.mode f) q.cur).2.2 = true then
          { s with hw := (s.hw.inc 0x7207 1).event 0xD (281 * 16) 2 (some f) none } else s : Scan).hw s.hw := by
        split
        · exact .of_facets rfl
        · exact .refl s.hw
      generalize (if (s.hw.chooseShape (s.hw.mode f) q.cur).2.2 = true then
          { s with hw := (s.hw.inc 0x7207 1).event 0xD (281 * 16) 2 (some f) none } else s : Scan) = a at h0 ⊢
      have hinstead : ∀ w, Hw.OnDuty (a.decodeInstead f lim slot q.cur e w).hw s.hw := fun w => (a.onDuty_decodeInstead ..).trans h0
      split
      · split
        · exact hinstead _
        · rename_i d p _ _ _
          have ht := (a.onDuty_tryPlace lim lim.passA (s.hw.treePlace slot p q.cur e (s.hw.chooseShape (s.hw.mode f) q.cur).1
            (s.hw.chooseShape (s.hw.mode f) q.cur).2.1 d (((s.hw.facet f).plans.flatMap fun p => p.places).all fun c =>
              !(c.slot == slot && c.isOpen && c.kind == .tree)))).trans h0
          split
          · exact hinstead _
          · exact hinstead _
          · rename_i s1 why _ _ hs
            rw [hs] at ht
            exact (s1.onDuty_leaveOut ..).trans ht
          · rename_i s1 hs
            rw [hs] at ht
            split
            · exact (Hw.onDuty_withSecUsed ..).trans ht
            · exact hinstead _
      · exact hinstead _

theorem Scan.onDuty_passA (f : Nat) (lim : Limits) (s : Scan) (slot : Nat) : Hw.OnDuty (Scan.passA f lim s slot).hw s.hw := by
  have h0 := s.onDuty_flipAt f slot lim
  unfold Scan.passA
  dsimp only
  generalize s.flipAt f slot lim = a at h0 ⊢
  split
  · exact h0
  · split
    · exact (a.onDuty_placeReady ..).trans h0
    · split
      · split
        · exact h0
        · exact (a.onDuty_placeChunk ..).trans h0
      · exact h0
    · exact h0

theorem Scan.onDuty_passB (f : Nat) (lim : Limits) (s : Scan) (slot : Nat) : Hw.OnDuty (Scan.passB f lim s slot).hw s.hw := by
  unfold Scan.passB
  split
  · exact .refl s.hw
  · split
    · exact .refl s.hw
    · dsimp only
      split
      · exact .refl s.hw
      · exact s.onDuty_placeChunk ..
      · exact s.onDuty_placeChunk ..

theorem Scan.onDuty_foldl {α : Type} (g : Scan → α → Scan) (hg : ∀ b a, Hw.OnDuty (g b a).hw b.hw) (l : List α) (b : Scan) :
    Hw.OnDuty (l.foldl g b).hw b.hw := by
  induction l generalizing b with
  | nil => exact .refl b.hw
  | cons a r ih => exact (ih (g b a)).trans (hg b a)

theorem Hw.onDuty_scanPasses (h : Hw) (f n : Nat) : Hw.OnDuty (h.scanPasses f n).hw h := by
  unfold Hw.scanPasses
  exact (Scan.onDuty_foldl _ (fun b a => Scan.onDuty_passB _ _ b a) _ _).trans
    (Scan.onDuty_foldl _ (fun b a => Scan.onDuty_passA _ _ b a) _ { hw := h, places := [], failed := [] })

/-! ## Pinned batches -/

theorem Scan.onDuty_pinPlace (s : Scan) (f : Nat) (lim : Limits) (slot : Nat) (c : Place) : Hw.OnDuty (s.pinPlace f lim slot c).hw s.hw := by
  unfold Scan.pinPlace
  split
  · exact .refl s.hw
  · exact s.onDuty_leaveOut ..

theorem Scan.onDuty_pinVacant (s : Scan) (f : Nat) (lim : Limits) (slot home : Nat) : Hw.OnDuty (s.pinVacant f lim slot home).hw s.hw := by
  have h1 := s.onDuty_pinPlace f lim slot (vacantPlace slot home)
  unfold Scan.pinVacant
  dsimp only
  split
  · exact h1
  · exact (Hw.onDuty_bumpAt ..).trans h1

/-- A listed sequence with its home, once the home is noted. -/
def Scan.pinAt (s0 : Scan) (f : Nat) (lim : Limits) (lattice : Bool) (later handle home : Nat) (live : Option Nat) : Scan :=
  match live with
  | none => s0.pinVacant f lim (handle % 2 ^ 20) home
  | some slot =>
    let s1 := s0.flipAt f slot lim
    match s1.hw.seq? slot with
    | none => s0.pinVacant f lim slot home
    | some q =>
      if q.cur.state = .ended ∨ q.cancelAsked.isSome then s1.pinVacant f lim slot home
      else if !s1.hw.isEligible f lim.step q then s1
      else match s1.hw.pinnedPlace f lim s1.places later slot (home % 64) q with
        | none => s1.leaveOut f slot none
        | some c =>
          let s2 := s1.pinPlace f lim slot c
          if s2.places.length = s1.places.length then s2
          else match s1.hw.takeFor lim s1.places c with
            | (h2, none) => { s1 with hw := h2, places := s1.places ++ [c] }
            | (_, some why) =>
              let v := s1.pinVacant f lim slot home
              { v with failed := v.failed ++ [(slot, why)], hw := if lattice then v.hw.inc 0x5013 (f + 1) else v.hw }

theorem Scan.pinOne_eq (f : Nat) (lim : Limits) (s : Scan) (i later handle : Nat) : ∃ home, Scan.pinOne f lim s (i, later, handle) =
    Scan.pinAt { s with hw := s.hw.modFacet f fun x => { x with pinnedParts := Map.insert x.pinnedParts i home } } f lim
      (decide (s.hw.mode f = 2)) later handle home (s.hw.liveSlot handle) := by
  unfold Scan.pinOne Scan.pinAt
  simp only [decide_eq_true_eq]
  exact ⟨_, rfl⟩

theorem Scan.onDuty_pinAt (s0 : Scan) (f : Nat) (lim : Limits) (lattice : Bool) (later handle home : Nat) (live : Option Nat) :
    Hw.OnDuty (s0.pinAt f lim lattice later handle home live).hw s0.hw := by
  unfold Scan.pinAt
  split
  · exact s0.onDuty_pinVacant ..
  · rename_i slot
    dsimp only
    have h1 := s0.onDuty_flipAt f slot lim
    generalize s0.flipAt f slot lim = s1 at h1 ⊢
    have hvac := (s1.onDuty_pinVacant f lim slot home).trans h1
    split
    · exact s0.onDuty_pinVacant ..
    · split
      · exact hvac
      · split
        · exact h1
        · split
          · exact (s1.onDuty_leaveOut ..).trans h1
          · rename_i c _
            split
            · exact (s1.onDuty_pinPlace ..).trans h1
            · have ht := (s1.hw.onDuty_takeFor lim s1.places c).trans h1
              generalize s1.hw.takeFor lim s1.places c = r at ht ⊢
              obtain ⟨x, why⟩ := r
              cases why with
              | none => exact ht
              | some why => exact Hw.onDuty_ite ((Hw.onDuty_inc ..).trans hvac) hvac

theorem Scan.onDuty_pinOne (f : Nat) (lim : Limits) (s : Scan) (e : Nat × Nat × Nat) : Hw.OnDuty (Scan.pinOne f lim s e).hw s.hw := by
  obtain ⟨i, later, handle⟩ := e
  obtain ⟨home, he⟩ := Scan.pinOne_eq f lim s i later handle
  rw [he]
  refine (Scan.onDuty_pinAt ..).trans ?_
  dsimp only
  refine s.hw.onDuty_modFacet _ _ ?_
  exact fun _ => rfl

theorem Hw.onDuty_scanPinned (h : Hw) (f n : Nat) : Hw.OnDuty (h.scanPinned f n).hw h :=
  Scan.onDuty_foldl _ (fun b a => Scan.onDuty_pinOne f _ b a) _ { hw := h, places := [], failed := [] }

/-! ## The composition -/

theorem Hw.onDuty_starve (h : Hw) (f m : Nat) (b : Bool) : Hw.OnDuty (h.starve f m b) h := by
  unfold Hw.starve
  refine Hw.onDuty_ite (.refl h) ?_
  split
  · exact .refl h
  · split
    · exact .refl h
    · dsimp only
      rename_i q _
      have h1 := (Hw.onDuty_inc (h.resetKv ‹Nat› (h.prefixPages q) q.cur.prefixLen) 0x4032 1).trans (h.onDuty_resetKv ..)
      exact Hw.onDuty_ite ((Hw.onDuty_inc ..).trans h1) h1

theorem Hw.onDuty_rereadRing (h : Hw) (r : Nat) : Hw.OnDuty (h.rereadRing r) h := by
  unfold Hw.rereadRing
  exact Hw.onDuty_ite (.refl h) (.of_facets (Hw.sameButMem_memPost ..).facets)

theorem Scan.onDuty_shortages (s : Scan) (f : Nat) : Hw.OnDuty (s.shortages f) s.hw := by
  have hone : ∀ (b : Bool) (a : Hw) i, Hw.OnDuty a s.hw → Hw.OnDuty (if b = true then a.incOnce i 1 else a) s.hw := fun b a i ha =>
    Hw.onDuty_ite ((a.onDuty_incOnceAt i 1 0).trans ha) ha
  unfold Scan.shortages
  dsimp only
  refine (Hw.onDuty_foldl _ (fun b m => b.onDuty_starve f m true) _ _).trans ((Hw.onDuty_foldl _ (fun b m => b.onDuty_starve f m false) _ _).trans
    ((Hw.onDuty_foldl _ (fun b r => (Hw.onDuty_rereadRing ..).trans (b.onDuty_incOnceAt ..)) _ _).trans
      ((Hw.onDuty_foldl _ (fun b q => b.onDuty_incOnceAt ..) _ _).trans ?_)))
  have h1 := Hw.onDuty_ite (c := (s.failed.filter fun x => x.2 = .pages).map Prod.fst ≠ []) (s.hw.onDuty_incOnceAt 0x4033 1 0) (.refl s.hw)
  exact Hw.onDuty_ite ((Hw.onDuty_incOnceAt ..).trans h1) h1

theorem Scan.onDuty_finish (s : Scan) (f n : Nat) (carry : Bool) : Hw.OnDuty (s.finish f n carry) s.hw := by
  unfold Scan.finish
  dsimp only
  refine Hw.OnDuty.trans (Hw.onDuty_modFacet _ _ _ ?_) (s.onDuty_shortages f)
  exact fun _ => rfl

theorem Hw.onDuty_useProposal (h : Hw) (f : Nat) : Hw.OnDuty (h.useProposal f) h := by
  unfold Hw.useProposal
  refine Hw.onDuty_ite (.refl h) (Hw.OnDuty.trans (Hw.onDuty_modFacet _ _ _ ?_) (Hw.onDuty_ite (.of_facets rfl) (.refl h)))
  exact fun _ => rfl

/-- A composition leaves every facet its state, and the state that it waits to enter. -/
theorem Hw.onDuty_compose (h : Hw) (f n : Nat) : Hw.OnDuty (h.compose f n) h := by
  have hsync : Hw.OnDuty (h.syncPinned f) h := by
    unfold Hw.syncPinned
    refine Hw.onDuty_ite (.refl h) (h.onDuty_modFacet _ _ ?_)
    exact fun _ => rfl
  have h1 : Hw.OnDuty ((h.syncPinned f).modFacet f fun x => { x with setReady := x.setPending, modePlan := h.mode f }) h := by
    refine Hw.OnDuty.trans (Hw.onDuty_modFacet _ _ _ ?_) hsync
    exact fun _ => rfl
  unfold Hw.compose
  dsimp only
  generalize (h.syncPinned f).modFacet f (fun x => { x with setReady := x.setPending, modePlan := h.mode f }) = a at h1 ⊢
  refine (Hw.onDuty_useProposal ..).trans ((Scan.onDuty_finish ..).trans ?_)
  split
  · exact (a.onDuty_scanPinned f n).trans h1
  · exact (a.onDuty_scanPasses f n).trans h1

/-! ## The entry -/

theorem Hw.facets_openParts (h : Hw) (f ctx : Nat) : (h.openParts f ctx).facets = h.facets := by
  unfold Hw.openParts
  refine foldl_keeps Hw.facets _ ?_ _ h
  exact fun _ _ => rfl

/-- A facet that enters its state no longer waits for it. -/
theorem Hw.enterRun_duty (h : Hw) (f : Nat) (st : FacetState) : ((h.enterRun f st).facet f).duty = (st, none) := by
  have hset : ∀ (a : Hw) (g : Facet → Facet) ctx, (∀ x, (g x).duty = (st, none)) → (((a.modFacet f g).openParts f ctx).facet f).duty = (st, none) :=
    fun a g ctx hg => by
      refine (congrArg (fun m => (Map.getD m f Facet.reset).duty) (Hw.facets_openParts ..)).trans ?_
      exact (congrArg Facet.duty (Hw.facet_modFacet a f g)).trans (hg _)
  have hcomp : ∀ x : Hw, (x.facet f).duty = (st, none) →
      ((if st = .active then x.compose f ((x.facet f).step + 1) else x).facet f).duty = (st, none) := fun x hx => by
    split
    · exact ((x.onDuty_compose f _).duty f).trans hx
    · exact hx
  unfold Hw.enterRun
  refine hcomp _ (hset _ _ _ ?_)
  exact fun _ => rfl

theorem Hw.enterUp_up (h : Hw) (f : Nat) (st : FacetState) (hw : (h.facet f).waitingUp = some st) (hs : h.eng.state = .operational)
    (hu : h.pins.facetUp.testBit f = true) : h.enterUp f = h.enterRun f st := by
  unfold Hw.enterUp
  rw [hw]
  dsimp only
  rw [if_pos hu, if_neg]
  rw [hs]
  exact fun hc => nomatch hc.2

theorem Hw.enterUp_down (h : Hw) (f : Nat) (st : FacetState) (hw : (h.facet f).waitingUp = some st)
    (hu : h.pins.facetUp.testBit f = false) : h.enterUp f = h := by
  unfold Hw.enterUp
  rw [hw]
  exact if_neg (by rw [hu]; decide)

/-! ## Gating and late pins -/

theorem Hw.gate_on (h : Hw) (f since : Nat) (hm : h.mayGate f = true) (hd : h.get 0xD014 (f + 1) ≠ 0xFFFFFFFF)
    (hi : (h.facet f).idleSinceNs = some since) (hn : since + 1000000 * h.get 0xD014 (f + 1) ≤ h.now) : h.gate f = h.set 0xD010 (f + 1) 0 := by
  unfold Hw.gate
  rw [hi]
  exact if_pos ⟨hm, hd, hn⟩

theorem Hw.gate_off (h : Hw) (f : Nat) (hc : h.mayGate f = false ∨ h.get 0xD014 (f + 1) = 0xFFFFFFFF ∨
    (∀ since, (h.facet f).idleSinceNs = some since → h.now < since + 1000000 * h.get 0xD014 (f + 1))) : h.gate f = h := by
  unfold Hw.gate
  cases hi : (h.facet f).idleSinceNs with
  | none => rfl
  | some since =>
    refine if_neg ?_
    rintro ⟨h1, h2, h3⟩
    rcases hc with e | e | e
    · rw [e] at h1
      cases h1
    · exact h2 e
    · have := e since hi
      omega

/-- An entry that is abandoned. -/
def Hw.abandoned (h : Hw) (f : Nat) (st : FacetState) : Hw :=
  let h1 := (h.modFacet f fun x => { x with waitingUp := none, idleSinceNs := some h.now }).set 0xD010 (f + 1) 0
  (if st = .exclusive then h1.modJob f false fun _ => Job.idle else h1).event 0 (411 * 16) 4 (some f) none

theorem Hw.facetUpLate_late (h : Hw) (f : Nat) (st : FacetState) (hw : (h.facet f).waitingUp = some st)
    (hn : (h.facet f).upSinceNs + 100000000 ≤ h.now) : h.facetUpLate f = h.abandoned f st := by
  unfold Hw.facetUpLate
  dsimp only
  rw [hw]
  exact if_neg (Nat.not_lt.mpr hn)

theorem Hw.facetUpLate_not (h : Hw) (f : Nat) (hc : (h.facet f).waitingUp = none ∨ h.now < (h.facet f).upSinceNs + 100000000) :
    h.facetUpLate f = h := by
  unfold Hw.facetUpLate
  dsimp only
  cases hw : (h.facet f).waitingUp with
  | none => rfl
  | some st => exact if_pos (hc.resolve_left (by rw [hw]; exact nofun))

theorem Hw.abandoned_spec (h : Hw) (f : Nat) (st : FacetState) (hf : f < 16) :
    ((h.abandoned f st).facet f).waitingUp = none ∧ ((h.abandoned f st).facet f).state = (h.facet f).state ∧
      (h.abandoned f st).raw 0xD010 (f + 1) = 0 ∧ (h.abandoned f st).occurred 0 = (h.occurred 0 + 1) % 2 ^ 64 ∧
      (if st = .exclusive then ((h.abandoned f st).job f false).state = .idle else (h.abandoned f st).jobs = h.jobs) ∧
      ∀ k, k ≠ f → (h.abandoned f st).facet k = h.facet k := by
  have hfacets : (h.abandoned f st).facets = (h.modFacet f fun x => { x with waitingUp := none, idleSinceNs := some h.now }).facets := by
    unfold Hw.abandoned
    dsimp only
    split <;> rfl
  have hod : ∀ x : Hw, x.od = (h.set 0xD010 (f + 1) 0).od → (x.event 0 (411 * 16) 4 (some f) none).raw 0xD010 (f + 1) = 0 ∧
      (x.event 0 (411 * 16) 4 (some f) none).occurred 0 = (h.occurred 0 + 1) % 2 ^ 64 := fun x hx => by
    refine ⟨?_, (Hw.occurred_event ..).trans (congrArg (fun n => (n + 1) % 2 ^ 64) ?_)⟩
    · refine (Hw.raw_set_ne _ _ _ _ _ _ (odKey_idx_ne _ _ _ _ _ _ (by omega) (by
        show 0 + 1 < 256
        decide) (by decide))).trans ?_
      unfold Hw.raw
      rw [hx]
      exact Hw.raw_set ..
    · unfold Hw.occurred Hw.get Hw.getAt
      rw [hx]
      exact Hw.get_set_ne _ _ _ _ _ _ (odKey_idx_ne _ _ _ _ _ _ (by decide) (by omega) (by decide))
  obtain ⟨hraw, hocc⟩ : (h.abandoned f st).raw 0xD010 (f + 1) = 0 ∧ (h.abandoned f st).occurred 0 = (h.occurred 0 + 1) % 2 ^ 64 := by
    unfold Hw.abandoned
    refine hod _ ?_
    split <;> rfl
  have hself : (h.abandoned f st).facet f = { h.facet f with waitingUp := none, idleSinceNs := some h.now } :=
    (congrArg (fun m => Map.getD m f Facet.reset) hfacets).trans (Hw.facet_modFacet ..)
  refine ⟨by rw [hself], by rw [hself], hraw, hocc, ?_, fun k hk => ?_⟩
  · unfold Hw.abandoned
    dsimp only
    split
    · exact congrArg Job.state (Hw.job_modJob _ f false fun _ => Job.idle)
    · rfl
  · exact (congrArg (fun m => Map.getD m k Facet.reset) hfacets).trans (Hw.facet_modFacet_ne _ _ _ _ hk)

theorem Hw.facetFell_low (h : Hw) (f : Nat) (hz : h.raw 0xD010 (f + 1) = 0) :
    h.facetFell f = { h with pins := { h.pins with facetUp := clearBit h.pins.facetUp f } } := if_pos hz

theorem Hw.facetFell_driven (h : Hw) (f : Nat) (hz : h.raw 0xD010 (f + 1) ≠ 0) : h.facetFell f = h := if_neg hz

/-- Settles O15: gating and the pin's fall by their equations, the late pin by what it leaves, and the entry since a composition keeps every
facet's state. -/
theorem facetLevels : Obligations.FacetLevels := by
  unfold Obligations.FacetLevels
  refine ⟨fun s f hr => ⟨fun since hm hd hi hn => ?_, fun hc => ?_, ?_, fun st hw hn => ?_, fun hc => ?_, fun hz => ?_, fun hz => ?_⟩,
    fun h f st hw _ => ⟨fun hs hu => ?_, fun hu => ?_⟩⟩
  · exact hr.leaves .alone 0 (fun h => h.gate f) (.of_eq ((s.hw.begun .alone 0).gate_on f since hm hd hi hn) ⟨rfl, rfl⟩)
  · exact hr.idle .alone 0 (fun h => h.gate f) ((s.hw.begun .alone 0).gate_off f hc)
  · exact hr.leaves .alone 0 (fun h => h.facetRose f) ⟨rfl, rfl⟩
  · obtain ⟨h1, h2, h3, h4, h5, h6⟩ := (s.hw.begun .alone 0).abandoned_spec f st f.isLt
    refine hr.nextEq .alone 0 (fun h => h.facetUpLate f) ((s.hw.begun .alone 0).facetUpLate_late f st hw hn) ?_
    dsimp only
    simp only [Hw.settle_facet, Hw.settle_job, Hw.settle_jobs, Hw.occurred_settle]
    refine ⟨h1, h2, (Hw.settle_raw _ _ _ _ ?_).trans h3, h4, h5, fun k hk => h6 k fun e => hk (Fin.ext e)⟩
    simp [obsKey, odKey]
    omega
  · exact hr.idle .alone 0 (fun h => h.facetUpLate f) ((s.hw.begun .alone 0).facetUpLate_not f hc)
  · exact hr.leaves .alone 0 (fun h => h.facetFell f) (.of_eq ((s.hw.begun .alone 0).facetFell_low f hz) ⟨rfl, rfl⟩)
  · exact hr.idle .alone 0 (fun h => h.facetFell f) ((s.hw.begun .alone 0).facetFell_driven f hz)
  · rw [h.enterUp_up f st hw hs hu]
    have e := h.enterRun_duty f st
    exact ⟨congrArg Prod.fst e, congrArg Prod.snd e⟩
  · exact h.enterUp_down f st hw hu

end Sys2Proof.Machine

/-! PROOFS. What the record of a position's results leaves as it was: the outline of the plans, the tokens that wait, and the counts of walks. -/

namespace Sys2Proof.Machine

open Sys2Proof

/-! ## The outline of a facet's plans -/

/-- A plan's step and the indices of its positions. -/
def Plan.outline (p : Plan) : Nat × List Nat := (p.step, p.positions.map fun x => x.index)

/-- The outlines of a facet's live plans, in their order. -/
def Facet.outline (x : Facet) : List (Nat × List Nat) :=
  (x.plans ++ match x.composing with | some p => [p] | none => []).map Plan.outline

/-- The step of the plan that an outline gives for a step's low 16 bits and a position. -/
def stepFound (l : List (Nat × List Nat)) (low i : Nat) : Option Nat :=
  l.findSome? fun o => if o.1 % 65536 = low % 65536 ∧ i ∈ o.2 then some o.1 else none

theorem Hw.livePlans_outline (h : Hw) (f : Nat) : (h.livePlans f).map Plan.outline = (h.facet f).outline := rfl

/-- What a plan gives for a position. -/
def Plan.posFound (p : Plan) (low i : Nat) : Option (Plan × Pos) :=
  if p.step % 65536 = low % 65536 then (p.positions.find? fun x => x.index = i).map fun x => (p, x) else none

theorem Hw.posAt_eq (h : Hw) (f low i : Nat) : h.posAt f low i = (h.livePlans f).findSome? fun p => p.posFound low i := rfl

/-- A plan gives a position where its outline does. -/
theorem Plan.posFound_step (p : Plan) (low i : Nat) :
    (p.posFound low i).map (fun y => y.1.step) =
      if p.outline.1 % 65536 = low % 65536 ∧ i ∈ p.outline.2 then some p.outline.1 else none := by
  unfold Plan.posFound Plan.outline
  by_cases hs : p.step % 65536 = low % 65536
  · rw [if_pos hs]
    cases hx : p.positions.find? fun x => x.index = i with
    | none =>
      rw [if_neg]
      · rfl
      · rintro ⟨-, hm⟩
        obtain ⟨x, hxm, hi⟩ := List.mem_map.mp hm
        simpa [hi] using List.find?_eq_none.mp hx x hxm
    | some x =>
      have hi : x.index = i := by simpa using List.find?_some hx
      rw [if_pos ⟨hs, List.mem_map.mpr ⟨x, List.mem_of_find?_eq_some hx, hi⟩⟩]
      rfl
  · rw [if_neg hs, if_neg fun hh => hs hh.1]
    rfl

theorem Hw.posAt_step (h : Hw) (f low i : Nat) : (h.posAt f low i).map (fun y => y.1.step) = stepFound (h.facet f).outline low i := by
  rw [h.posAt_eq, ← h.livePlans_outline]
  unfold stepFound
  induction h.livePlans f with
  | nil => rfl
  | cons p l ih =>
    rw [List.findSome?_cons, List.map_cons, List.findSome?_cons, ← p.posFound_step low i, ← ih]
    cases p.posFound low i <;> rfl

/-- A change of the plans of one step. -/
def Plan.atStep (n : Nat) (g : Plan → Plan) (p : Plan) : Plan := if p.step = n then g p else p

theorem Hw.livePlans_modPlan (h : Hw) (f n : Nat) (g : Plan → Plan) :
    (h.modPlan f n g).livePlans f = (h.livePlans f).map (Plan.atStep n g) := by
  unfold Hw.livePlans Hw.modPlan
  dsimp only
  rw [Hw.facet_modFacet, List.map_append]
  refine congrArg₂ _ rfl ?_
  cases (h.facet f).composing <;> rfl

/-- The outlines stay where the plans' change keeps them. -/
theorem Hw.outline_modPlan (h : Hw) (f n k : Nat) (g : Plan → Plan) (hg : ∀ p, (g p).outline = p.outline) :
    ((h.modPlan f n g).facet k).outline = (h.facet k).outline := by
  by_cases hk : k = f
  · subst hk
    rw [← Hw.livePlans_outline, Hw.livePlans_modPlan, List.map_map, ← Hw.livePlans_outline]
    refine List.map_congr_left fun p _ => ?_
    show (Plan.atStep n g p).outline = _
    unfold Plan.atStep
    split
    · exact hg p
    · rfl
  · exact congrArg Facet.outline (h.facet_modFacet_ne _ _ _ hk)

/-- A change of the positions that keeps their indices. -/
theorem Plan.outline_positions (p : Plan) (m : Pos → Pos) (hm : ∀ x, (m x).index = x.index) :
    ({ p with positions := p.positions.map m } : Plan).outline = p.outline := by
  unfold Plan.outline
  dsimp only
  rw [List.map_map]
  exact congrArg _ (List.map_congr_left fun x _ => hm x)

theorem Plan.outline_places (p : Plan) (l : List Place) : ({ p with places := l } : Plan).outline = p.outline := rfl

/-- A position of a step is changed where it is found. -/
theorem Hw.posAt_modPos (h : Hw) (f n i : Nat) (g : Pos → Pos) (hg : ∀ x, (g x).index = x.index) (p : Plan) (x : Pos)
    (hx : h.posAt f n i = some (p, x)) (hp : p.step = n) :
    ∃ p', (h.modPos f n i g).posAt f n i = some (p', g x) := by
  rw [Hw.posAt_eq] at hx ⊢
  unfold Hw.modPos
  rw [Hw.livePlans_modPlan]
  generalize h.livePlans f = l at hx
  let m : Pos → Pos := fun x => if x.index = i then g x else x
  have hm : ∀ x, (m x).index = x.index := fun x => by
    show (if x.index = i then g x else x).index = _
    split
    · exact hg x
    · rfl
  have hfind : ∀ l : List Pos, (l.map m).find? (fun x => decide (x.index = i)) = (l.find? fun x => decide (x.index = i)).map g := by
    intro l
    induction l with
    | nil => rfl
    | cons y ys ih =>
      rw [List.map_cons, List.find?_cons, List.find?_cons, hm y, ih]
      by_cases hy : y.index = i
      · simp [m, hy]
      · simp [hy]
  have hone : ∀ q : Plan, (Plan.atStep n (fun p => { p with positions := p.positions.map m }) q).posFound n i =
      (q.posFound n i).map fun y => if y.1.step = n then ({ y.1 with positions := y.1.positions.map m }, g y.2) else y := by
    intro q
    unfold Plan.atStep Plan.posFound
    by_cases hq : q.step = n
    · rw [if_pos hq]
      dsimp only
      rw [hq, if_pos rfl, if_pos rfl, hfind]
      cases q.positions.find? fun x => decide (x.index = i) with
      | none => rfl
      | some y => simp [hq]
    · rw [if_neg hq]
      split
      · cases q.positions.find? fun x => decide (x.index = i) with
        | none => rfl
        | some y => simp [hq]
      · rfl
  induction l with
  | nil => cases hx
  | cons q ls ih =>
    rw [List.map_cons, List.findSome?_cons, hone q]
    rw [List.findSome?_cons] at hx
    cases hq : q.posFound n i with
    | none =>
      rw [hq] at hx
      exact ih hx
    | some y =>
      rw [hq] at hx
      cases hx
      exact ⟨_, by rw [Option.map_some, if_pos hp]⟩

/-! ## What a record of results keeps -/

/-- The plans' outlines, the tokens that already wait, the faults found and the two counts of walks. -/
structure Hw.Steady (a b : Hw) : Prop where
  faults : a.faults = b.faults
  outline : ∀ f, (a.facet f).outline = (b.facet f).outline
  tokens : ∃ l, a.smp.tokens = b.smp.tokens ++ l
  walks : a.get 0x7203 1 = b.get 0x7203 1
  walked : a.get 0x7205 1 = b.get 0x7205 1

theorem Hw.Steady.refl (h : Hw) : Hw.Steady h h := ⟨rfl, fun _ => rfl, ⟨[], (List.append_nil _).symm⟩, rfl, rfl⟩

theorem Hw.Steady.trans {a b c : Hw} (h1 : Hw.Steady a b) (h2 : Hw.Steady b c) : Hw.Steady a c := by
  obtain ⟨l1, e1⟩ := h1.tokens
  obtain ⟨l2, e2⟩ := h2.tokens
  exact ⟨h1.faults.trans h2.faults, fun f => (h1.outline f).trans (h2.outline f), ⟨l2 ++ l1, by rw [e1, e2, List.append_assoc]⟩,
    h1.walks.trans h2.walks, h1.walked.trans h2.walked⟩

theorem Hw.steady_foldl {α : Type} (f : Hw → α → Hw) (hf : ∀ b a, Hw.Steady (f b a) b) (l : List α) (b : Hw) :
    Hw.Steady (l.foldl f b) b := by
  induction l generalizing b with
  | nil => exact .refl b
  | cons x xs ih => exact (ih _).trans (hf b x)

/-- A change of none of this. -/
theorem Hw.Steady.of_eq {a b : Hw} (hf : a.faults = b.faults) (hx : a.facets = b.facets) (ht : a.smp.tokens = b.smp.tokens)
    (ho : a.od = b.od) : Hw.Steady a b :=
  ⟨hf, fun f => congrArg (fun m => (Map.getD m f Facet.reset).outline) hx, ⟨[], by rw [ht, List.append_nil]⟩,
    by unfold Hw.get Hw.getAt; rw [ho], by unfold Hw.get Hw.getAt; rw [ho]⟩

theorem Hw.Steady.of_mem {a b : Hw} (h : Hw.SameButMem a b) : Hw.Steady a b :=
  ⟨h.faults, fun f => congrArg (fun m => (Map.getD m f Facet.reset).outline) h.facets, ⟨[], by rw [h.smp, List.append_nil]⟩,
    h.get _ _ (by decide) (by decide), h.get _ _ (by decide) (by decide)⟩

/-- A record of a facet that keeps its plans. -/
theorem Hw.steady_modFacet (h : Hw) (f : Nat) (g : Facet → Facet) (hg : ∀ x, (g x).outline = x.outline) : Hw.Steady (h.modFacet f g) h := by
  refine ⟨rfl, fun k => ?_, ⟨[], (List.append_nil _).symm⟩, rfl, rfl⟩
  by_cases hk : k = f
  · rw [hk, Hw.facet_modFacet]
    exact hg _
  · exact congrArg Facet.outline (h.facet_modFacet_ne _ _ _ hk)

theorem Hw.steady_modPlan (h : Hw) (f n : Nat) (g : Plan → Plan) (hg : ∀ p, (g p).outline = p.outline) : Hw.Steady (h.modPlan f n g) h :=
  ⟨rfl, fun k => h.outline_modPlan f n k g hg, ⟨[], (List.append_nil _).symm⟩, rfl, rfl⟩

theorem Hw.steady_modPlace (h : Hw) (f n slot : Nat) (g : Place → Place) : Hw.Steady (h.modPlace f n slot g) h :=
  h.steady_modPlan f n _ fun _ => rfl

theorem Hw.steady_modPos (h : Hw) (f n i : Nat) (g : Pos → Pos) (hg : ∀ x, (g x).index = x.index) : Hw.Steady (h.modPos f n i g) h := by
  refine h.steady_modPlan f n _ fun p => p.outline_positions _ fun x => ?_
  split
  · exact hg x
  · rfl

theorem Hw.steady_modSeq (h : Hw) (slot : Nat) (g : Seq → Seq) : Hw.Steady (h.modSeq slot g) h := by
  unfold Hw.modSeq
  split
  · exact .of_eq rfl rfl rfl rfl
  · exact .refl h

theorem Hw.steady_modCur (h : Hw) (slot : Nat) (g : Vertex → Vertex) : Hw.Steady (h.modCur slot g) h := h.steady_modSeq slot _

theorem Hw.steady_modDesc (h : Hw) (t : Nat) (g : Desc → Desc) : Hw.Steady (h.modDesc t g) h := by
  unfold Hw.modDesc
  split
  · exact .of_eq rfl rfl rfl rfl
  · exact .refl h

theorem Hw.steady_charge (h : Hw) (f tenant : Nat) (c : Charges) : Hw.Steady (h.charge f tenant c) h := h.steady_modFacet f _ fun _ => rfl

/-- A counter other than those of the walks. -/
theorem Hw.steady_bump (h : Hw) (i s n : Nat) (h1 : odKey i s 0 ≠ odKey 0x7203 1 0) (h2 : odKey i s 0 ≠ odKey 0x7205 1 0) :
    Hw.Steady (h.bump i s n) h :=
  ⟨rfl, fun _ => rfl, ⟨[], (List.append_nil _).symm⟩, h.get_set_ne _ _ _ _ _ h1.symm, h.get_set_ne _ _ _ _ _ h2.symm⟩

theorem Hw.steady_emit (h : Hw) (o : PortOut) : Hw.Steady (h.emit o) h := .of_eq rfl rfl rfl rfl

theorem Hw.steady_returnToken (h : Hw) (e : TokenEntry) : Hw.Steady (h.returnToken e) h := ⟨rfl, fun _ => rfl, ⟨[e], rfl⟩, rfl, rfl⟩

theorem Hw.steady_freeEntry (h : Hw) (f n i : Nat) : Hw.Steady (h.freeEntry f n i) h := .of_eq rfl rfl rfl rfl

theorem Hw.steady_modQueue (h : Hw) (q : Nat) (g : Queue → Queue) : Hw.Steady (h.modQueue q g) h := .of_eq rfl rfl rfl rfl

theorem Hw.steady_deliver (h : Hw) (q : Nat) (l : List Byte) : Hw.Steady (h.deliver q l) h := by
  unfold Hw.deliver
  dsimp only
  exact (Hw.steady_modQueue _ _ _).trans (.of_mem (h.sameButMem_memPost ..))

theorem Hw.steady_deliveries {α : Type} (h : Hw) (q : Nat) (g : α → List Byte) (l : List α) :
    Hw.Steady (l.foldl (fun a e => a.deliver q (g e)) h) h := Hw.steady_foldl _ (fun b e => b.steady_deliver q (g e)) l h

theorem Hw.steady_moveBudget (h : Hw) (f slot n : Nat) : Hw.Steady (h.moveBudget f slot n) h := by
  unfold Hw.moveBudget
  split
  · refine (Hw.steady_modFacet _ _ _ ?_).trans (.of_eq rfl rfl rfl rfl)
    exact fun _ => rfl
  · exact .refl h

theorem Hw.steady_closePlace (h : Hw) (f n slot kv : Nat) (c : Place) : Hw.Steady (h.closePlace f n slot kv c) h := by
  have h1 : Hw.Steady ((h.modPlace f n slot fun x => { x with isOpen := false }).noteResult f n slot) h := by
    refine (Hw.steady_modFacet _ _ _ ?_).trans (h.steady_modPlace f n slot _)
    exact fun _ => rfl
  unfold Hw.closePlace
  dsimp only
  split
  · exact h1
  · exact (Hw.steady_modCur _ _ _).trans h1

theorem Hw.steady_recordPrefill (h : Hw) (f n : Nat) (c : Place) : Hw.Steady (h.recordPrefill f n c) h := by
  unfold Hw.recordPrefill
  split
  · exact .refl h
  · refine (Hw.steady_modCur _ _ _).trans ?_
    have h1 := fun k m => (Hw.steady_moveBudget _ f c.slot m).trans (h.steady_closePlace f n c.slot k c)
    split
    · exact (Hw.steady_charge _ _ _ _).trans (h1 _ _)
    · exact h1 _ _

theorem Hw.steady_emitToken (h : Hw) (f slot : Nat) (r : Sampled) (model version : Nat) (scored walk : Bool) :
    Hw.Steady (h.emitToken f slot r model version scored walk).1 h := by
  unfold Hw.emitToken
  split
  · exact .refl h
  · dsimp only
    have h4 := fun (a : Hw) (g : Seq → Seq) t c (ha : Hw.Steady a h) =>
      (((((a.modSeq slot g).moveBudget f slot 1).steady_charge f t c).trans (Hw.steady_moveBudget _ f slot 1)).trans
        (a.steady_modSeq slot g)).trans ha
    split
    · refine (Hw.steady_modFacet _ _ _ ?_).trans (h4 _ _ _ _ ((Hw.steady_deliveries _ _ _ _).trans (h.steady_deliver ..)))
      exact fun _ => rfl
    · exact h4 _ _ _ _ ((Hw.steady_deliveries _ _ _ _).trans (h.steady_deliver ..))

/-! ## Vacated positions -/

theorem Hw.steady_releasePlan (h : Hw) (f : Nat) (p : Plan) : Hw.Steady (h.releasePlan f p) h := by
  unfold Hw.releasePlan
  dsimp only
  split
  · exact .refl h
  · refine (Hw.steady_modPlan _ _ _ _ ?_).trans (Hw.steady_foldl _ (fun b _ => b.steady_emit _) _ _)
    exact fun p => p.outline_positions _ fun x => by split <;> rfl

theorem Hw.steady_releaseStep (h : Hw) (f n : Nat) : Hw.Steady (h.releaseStep f n) h := by
  unfold Hw.releaseStep
  split
  · exact h.steady_releasePlan f _
  · exact .refl h

theorem Pos.vacate_index (x : Pos) (b : Bool) : (x.vacate b).index = x.index := by
  unfold Pos.vacate
  split <;> rfl

theorem Hw.steady_vacateIn (h : Hw) (f : Nat) (p : Plan) (slot : Nat) (owed : Pos → Bool) : Hw.Steady (h.vacateIn f p slot owed) h := by
  unfold Hw.vacateIn
  dsimp only
  refine (Hw.steady_releaseStep _ _ _).trans (Hw.Steady.trans (b := h.modPlan f p.step fun y => { y with
    places := y.places.map fun c => if c.slot = slot then { c with isOpen := false } else c,
    positions := y.positions.map fun x => if x.slot = slot then x.vacate (h.tilesIn f p.step x.index) else x }) ?_ ?_)
  · exact ⟨rfl, fun _ => rfl, ⟨_, rfl⟩, rfl, rfl⟩
  · refine h.steady_modPlan f p.step _ fun y => ?_
    refine (Plan.outline_positions ({ y with places := _ } : Plan) _ fun x => ?_).trans (y.outline_places _)
    split
    · exact x.vacate_index _
    · rfl

theorem Hw.steady_vacateAfter (h : Hw) (f slot n : Nat) : Hw.Steady (h.vacateAfter f slot n) h := by
  unfold Hw.vacateAfter
  refine Hw.steady_foldl _ (fun b p => ?_) _ _
  dsimp only
  refine (Hw.steady_vacateIn _ f p slot _).trans ?_
  split
  · exact b.steady_bump _ _ _ (by decide) (by decide)
  · exact .refl b

theorem Hw.steady_afterEnd (h : Hw) (f slot n : Nat) (e : Bool) : Hw.Steady (h.afterEnd f slot n e) h := by
  unfold Hw.afterEnd
  split
  · exact h.steady_vacateAfter f slot n
  · exact .refl h

/-! ## Later blocks that are written again -/

theorem Plan.outline_renumber (p : Plan) (c : Place) (gen : Nat) : (p.renumber c gen).outline = p.outline := by
  refine (Plan.outline_positions ({ p with places := _ } : Plan) _ fun x => ?_).trans (p.outline_places _)
  split <;> rfl

theorem Hw.steady_rewriteBlocks (h : Hw) (f : Nat) (p : Plan) (slot : Nat) : Hw.Steady (h.rewriteBlocks f p slot) h := by
  refine Hw.steady_foldl _ (fun b _ => ?_) _ _
  exact (Hw.steady_foldl _ (fun g r => .of_mem (g.sameButMem_writeBytes ..)) _ _).trans (Hw.steady_foldl _ (fun g t => g.steady_modDesc t _) _ _)

/-- A later plan of a slot: renumbered unless its number is known, and its blocks written again. -/
theorem Hw.steady_renumbered (a : Hw) (f n slot : Nat) (c : Place) (gen : Nat) (p : Plan) (k e : Bool) :
    Hw.Steady (if (k || e) = true then (if k = true then a else a.modPlan f n fun y => y.renumber c gen)
      else (if k = true then a else a.modPlan f n fun y => y.renumber c gen).rewriteBlocks f p slot) a := by
  have h1 : Hw.Steady (if k = true then a else a.modPlan f n fun y => y.renumber c gen) a := by
    split
    · exact .refl a
    · exact a.steady_modPlan f n _ fun y => y.outline_renumber c _
  split
  · exact h1
  · exact (Hw.steady_rewriteBlocks _ f _ slot).trans h1

theorem Hw.steady_fixLater (h : Hw) (f slot n : Nat) : Hw.Steady (h.fixLater f slot n) h := by
  unfold Hw.fixLater
  split
  · exact .refl h
  · next q _ =>
    dsimp only
    refine List.foldlRecOn (motive := fun acc : Hw × Expect => Hw.Steady acc.1 h) _ _ (.refl h) ?_
    intro acc ha p _
    cases p.places.find? fun c => c.slot == slot && c.isOpen && (c.kind == .decode || c.kind == .tree) with
    | none => exact ha
    | some c =>
      dsimp only
      exact (acc.1.steady_renumbered f p.step slot c acc.2.gen _ _ _).trans ha

/-! ## The records themselves -/

/-- A token that is returned waits, whatever is recorded after it. -/
theorem Hw.Steady.returned {a b : Hw} {e : TokenEntry} (h : Hw.Steady b (a.returnToken e)) : e ∈ b.smp.tokens := by
  obtain ⟨l, hl⟩ := h.tokens
  rw [hl]
  exact List.mem_append_left _ (List.mem_append_right _ (List.mem_singleton.mpr rfl))

theorem Hw.steady_recordToken (h : Hw) (f : Nat) (p : Plan) (c : Place) (x : Pos) (r : Sampled) :
    Hw.Steady (h.recordToken f p c x r) h ∧
      ∃ y ∈ (h.recordToken f p c x r).smp.tokens, y.facet = f ∧ y.step = p.step ∧ y.position = x.index ∧ y.token = r.token ∧ y.pad = false := by
  unfold Hw.recordToken
  dsimp only
  have h0 : Hw.Steady (if c.kind = .prefill then h.recordPrefill f p.step c else h.closePlace f p.step c.slot 1 c) h := by
    split
    · exact h.steady_recordPrefill f p.step c
    · exact h.steady_closePlace f p.step c.slot 1 c
  have hcur := fun (a : Hw) (ha : Hw.Steady a h) => ((Hw.steady_modCur _ c.slot Vertex.settled).trans
    ((a.inc 0x7021 1).steady_emitToken f c.slot r x.model x.version false false)).trans
      ((a.steady_bump 0x7021 1 1 (by decide) (by decide)).trans ha)
  exact ⟨(Hw.steady_afterEnd _ _ _ _ _).trans ((Hw.steady_returnToken _ _).trans (hcur _ h0)), _,
    (Hw.steady_afterEnd _ _ _ _ _).returned, rfl, rfl, rfl, rfl, rfl⟩

theorem Hw.steady_recordDraft (h : Hw) (f : Nat) (p : Plan) (c : Place) (x : Pos) (e : PosEntry) (s : SampCtx) :
    Hw.Steady (h.recordDraft f p c x e s) h := by
  unfold Hw.recordDraft
  split
  · exact .refl h
  · dsimp only
    refine (Hw.steady_returnToken _ _).trans ?_
    have h1 := fun g => h.steady_modPlace f p.step c.slot g
    have h2 := fun (b : Prop) [Decidable b] g => show Hw.Steady (if b then (h.modPlace f p.step c.slot g).inc 0x720B 1 else
        h.modPlace f p.step c.slot g) h from by
      split
      · exact (Hw.steady_bump _ _ _ _ (by decide) (by decide)).trans (h1 g)
      · exact h1 g
    split
    · exact (Hw.steady_charge _ _ _ _).trans (h2 _ _)
    · exact h2 _ _

end Sys2Proof.Machine

/-! PROOFS. R91, R93, R187, R273, R284 and R287: replays, token returns, decided positions and tree walks. -/

namespace Sys2Proof.Machine

open Sys2Proof

/-! ## Replays -/

theorem Hw.replayLost_faults (h : Hw) (r : ReplayReq) : (h.replayLost r).faults = h.faults ++ [{ facets := [r.facet], unit := .unnamed, permanent := false }] :=
  rfl

theorem Hw.MayReplay.replayLost {h : Hw} {f : Nat} (hm : h.MayReplay f) (r : ReplayReq) : (h.replayLost r).MayReplay f := hm.of_eq rfl rfl rfl

theorem Hw.MayReplay.refused {h : Hw} {f : Nat} (hm : h.MayReplay f) (hf : f < 16) : (h.inc 0x2304 1).MayReplay f :=
  hm.of_eq rfl (Hw.raw_set_ne _ _ _ _ _ _ (odKey_idx_ne _ _ _ _ _ _ (by omega) (by decide) (by decide)))
    (Hw.get_inc_ne _ _ _ _ _ (by decide))

/-- Whether a refusal names a request (Table 4.11). -/
def ReplayReq.named (data : Word64) (r : ReplayReq) : Bool :=
  r.facet == bits data.toNat 3 0 && r.step % 65536 == bits data.toNat 19 4 && r.position == bits data.toNat 36 20 &&
    r.first == bits data.toNat 49 37 && r.last == bits data.toNat 62 50

theorem ReplayReq.named_facet {data : Word64} {r : ReplayReq} (h : r.named data = true) : r.facet < 16 := by
  unfold ReplayReq.named at h
  simp only [Bool.and_eq_true, beq_iff_eq] at h
  obtain ⟨⟨⟨⟨hf, -⟩, -⟩, -⟩, -⟩ := h
  rw [hf]
  unfold bits
  omega

theorem Hw.replayNak_none (h : Hw) (data : Word64) (hn : (h.smp.replays.find? fun r => r.named data) = none) : h.replayNak data = h.inc 0x2304 1 := by
  have hn' : ((h.inc 0x2304 1).smp.replays.find? fun r => r.named data) = none := hn
  unfold Hw.replayNak
  unfold ReplayReq.named at hn'
  dsimp only
  rw [hn']

theorem Hw.replayNak_some (h : Hw) (data : Word64) (r : ReplayReq) (hn : (h.smp.replays.find? fun r => r.named data) = some r) :
    h.replayNak data = (h.inc 0x2304 1).replayLost r := by
  have hn' : ((h.inc 0x2304 1).smp.replays.find? fun r => r.named data) = some r := hn
  unfold Hw.replayNak
  unfold ReplayReq.named at hn'
  dsimp only
  rw [hn']

/-- The first request of a position that has waited for its tiles for REPLAY_WATCHDOG. -/
def Hw.replayDue (h : Hw) (f i : Nat) : Option ReplayReq :=
  h.smp.replays.find? fun r => r.facet == f && r.position == i && decide (r.sinceNs + 1000 * h.get 0x2305 1 ≤ h.now)

/-- What the watchdog of a position does. -/
def Hw.replayExpires (h : Hw) (f i : Nat) : Hw :=
  match h.replayDue f i with
  | some r => h.replayLost r
  | none => h

theorem exec_replayTimeout_eq (f : Fin 16) (i : Nat) (s : State) :
    exec (.replayTimeout f i) s = .next (s.onCoreFAt .expiry 0x10 fun h => h.replayExpires f i) := rfl

theorem Hw.replayDue_none (h : Hw) (f i : Nat) (hn : ∀ r ∈ h.smp.replays, r.facet = f → r.position = i → h.now < r.sinceNs + 1000 * h.get 0x2305 1) :
    h.replayDue f i = none := by
  unfold Hw.replayDue
  rw [List.find?_eq_none]
  intro r hm
  simp only [Bool.and_eq_true, beq_iff_eq, decide_eq_true_eq, not_and, Nat.not_le]
  exact fun h1 => hn r hm h1.1 h1.2

/-- One of the facet's requests is due where any is. -/
theorem Hw.replayDue_some (h : Hw) (f i : Nat) (r : ReplayReq) (hm : r ∈ h.smp.replays) (hf : r.facet = f) (hi : r.position = i)
    (ht : r.sinceNs + 1000 * h.get 0x2305 1 ≤ h.now) : ∃ r0, h.replayDue f i = some r0 ∧ r0.facet = f := by
  unfold Hw.replayDue
  cases hfind : h.smp.replays.find? fun r => r.facet == f && r.position == i && decide (r.sinceNs + 1000 * h.get 0x2305 1 ≤ h.now) with
  | none =>
    have h0 := List.find?_eq_none.mp hfind r hm
    simp [hf, hi, ht] at h0
  | some r0 =>
    have hp := List.find?_some hfind
    simp only [Bool.and_eq_true, beq_iff_eq] at hp
    exact ⟨r0, rfl, hp.1.1⟩

/-! ## Token returns -/

/-- The island after its first token has left. -/
def Hw.tokenSent (h : Hw) (e : TokenEntry) (rest : List TokenEntry) : Hw :=
  ({ h with smp := { h.smp with tokens := rest } } : Hw).emit (.token e)

theorem Hw.sendToken_none (h : Hw) (hn : h.smp.tokens = []) : h.sendToken = h := by
  unfold Hw.sendToken
  rw [hn]

theorem Hw.sendToken_cons (h : Hw) (e : TokenEntry) (rest : List TokenEntry) (hn : h.smp.tokens = e :: rest) :
    h.sendToken = if (rest.any fun t => t.key == e.key) = true then h.tokenSent e rest else (h.tokenSent e rest).endWaits e.key := by
  unfold Hw.sendToken
  rw [hn]
  rfl

theorem Hw.sendTokens_none (n : Nat) (h : Hw) (hn : h.smp.tokens = []) : (List.range n).foldl (fun a _ => a.sendToken) h = h := by
  induction n with
  | zero => rfl
  | succ n ih => rw [List.range_succ, List.foldl_append, ih]; exact h.sendToken_none hn

/-- The commands that wait on a key. -/
def Hw.waitersOn (h : Hw) (key : Nat) : List Nat := h.descTags fun d => d.owner == .plan && d.waitTok.contains key

theorem Hw.endWaits_nobody (h : Hw) (key : Nat) (hn : h.waitersOn key = []) : h.endWaits key = h := by
  unfold Hw.waitersOn at hn
  unfold Hw.endWaits
  rw [hn]
  rfl

/-- One command that waits is decremented. -/
theorem Hw.endWaits_one (h : Hw) (key k : Nat) (d : Desc) (hn : h.waitersOn key = [k]) (hd : h.desc? k = some d) (hs : d.state = .waiting)
    (hc : 0 < d.counter) :
    (h.endWaits key).smp = h.smp ∧ (h.endWaits key).out = h.out ∧ (h.endWaits key).faults = h.faults ∧
      ∃ d', (h.endWaits key).desc? k = some d' ∧ d'.counter = d.counter - 1 := by
  unfold Hw.waitersOn at hn
  have he : h.endWaits key = (h.modDesc k fun d => { d with waitTok := d.waitTok.erase key }).decrement k := by
    unfold Hw.endWaits
    rw [hn]
    rfl
  have hm : h.modDesc k (fun d => { d with waitTok := d.waitTok.erase key }) =
      { h with descs := Map.insert h.descs k { d with waitTok := d.waitTok.erase key } } := by
    unfold Hw.modDesc
    rw [hd]
  rw [he, hm]
  have hd' : ({ h with descs := Map.insert h.descs k { d with waitTok := d.waitTok.erase key } } : Hw).desc? k =
      some { d with waitTok := d.waitTok.erase key } := Map.find?_insert_self _ _ _
  generalize hg : ({ h with descs := Map.insert h.descs k { d with waitTok := d.waitTok.erase key } } : Hw) = g at hd' ⊢
  have hk : g.smp = h.smp ∧ g.out = h.out ∧ g.faults = h.faults := by rw [← hg]; exact ⟨rfl, rfl, rfl⟩
  obtain ⟨hsmp, hout, hfaults⟩ := hk
  obtain ⟨d', h1, h2, -, hf, -⟩ := g.decrement_waiting k _ hd' hs hc
  have hdec : (g.decrement k).smp = g.smp ∧ (g.decrement k).out = g.out := by
    have hd2 : (g.markBusy 5).desc? k = some { d with waitTok := d.waitTok.erase key } := hd'
    unfold Hw.decrement
    dsimp only
    rw [hd2]
    dsimp only
    rw [if_pos ⟨hs, hc⟩]
    exact ⟨rfl, rfl⟩
  exact ⟨hdec.1.trans hsmp, hdec.2.trans hout, hf.trans hfaults, d', h1, h2⟩

/-! ## Decided positions -/

theorem Hw.entry?_freeEntry (h : Hw) (f n i : Nat) : (h.freeEntry f n i).entry? f n i = none := by
  unfold Hw.entry? Hw.freeEntry
  dsimp only
  rw [List.find?_eq_none]
  intro e he
  obtain ⟨a, -, rfl⟩ := List.mem_map.mp he
  by_cases hm : (a.facet == f && a.step == n && a.position == i) = true
  · rw [if_pos hm]
    simp
  · rw [if_neg hm]
    simp only [Bool.not_eq_true] at hm
    simp [hm]

/-- The mark of a position whose result is recorded. -/
def Hw.positionDone (h : Hw) (f n i : Nat) : Hw := (h.modPos f n i fun y => { y with status := .decided }).freeEntry f n i

/-- A position decided after a record of results. -/
structure Hw.Decides (b h : Hw) (f n i : Nat) : Prop where
  faults : b.faults = h.faults
  freed : b.entry? f n i = none
  decided : ∃ y, b.posAt f n i = some y ∧ y.2.status = .decided

/-- A plan of a step is found for it after a record of results as before. -/
theorem Hw.Steady.posAt {a h : Hw} (hs : Hw.Steady a h) {f n i : Nat} {p : Plan} {x : Pos} (hx : h.posAt f n i = some (p, x)) (hp : p.step = n) :
    ∃ p' x', a.posAt f n i = some (p', x') ∧ p'.step = n := by
  have e := (a.posAt_step f n i).trans ((congrArg (stepFound · n i) (hs.outline f)).trans (h.posAt_step f n i).symm)
  rw [hx] at e
  obtain ⟨⟨p', x'⟩, hy, hstep⟩ := Option.map_eq_some_iff.mp e
  exact ⟨p', x', hy, hstep.trans hp⟩

theorem Hw.Steady.decides {a h : Hw} (hs : Hw.Steady a h) {f n i : Nat} {p : Plan} {x : Pos} (hx : h.posAt f n i = some (p, x)) (hp : p.step = n) :
    Hw.Decides (a.positionDone f n i) h f n i := by
  obtain ⟨p', x', hy, hp'⟩ := hs.posAt hx hp
  obtain ⟨p2, h2⟩ := a.posAt_modPos f n i (fun y => { y with status := .decided }) (fun _ => rfl) p' x' hy hp'
  exact ⟨hs.faults, Hw.entry?_freeEntry _ _ _ _, _, h2, rfl⟩

section
variable {h : Hw} {f n i : Nat} {p : Plan} {x : Pos} {e : PosEntry} {c : Place} {q : Seq}

/-- A complete position that is to be decided, with its plan, entry, place and sequence, and no further pass to make. -/
structure Hw.ToDecide (h : Hw) (f n i : Nat) (p : Plan) (x : Pos) (e : PosEntry) (c : Place) (q : Seq) : Prop where
  pos : h.posAt f n i = some (p, x)
  entry : h.entry? f n i = some e
  place : p.placeOf x = some c
  seq : h.seq? x.slot = some q
  complete : e.complete = true
  step : p.step = n
  fresh : x.status ≠ .decided
  passed : e.passDue (h.sampCtx q c x) = none

theorem Hw.steady_ifInc (h : Hw) (b : Prop) [Decidable b] (k : Nat) (h1 : odKey k 1 0 ≠ odKey 0x7203 1 0) (h2 : odKey k 1 0 ≠ odKey 0x7205 1 0) :
    Hw.Steady (if b then h.inc k 1 else h) h := by
  split
  · exact h.steady_bump _ _ _ h1 h2
  · exact .refl h

theorem Hw.ToDecide.decode (ht : h.ToDecide f n i p x e c q) (r : Sampled) (hk : x.kind = .decode) (hn : e.nonfinite = false) (hc : e.count ≠ 0)
    (hr : (e.settleNucleus (h.sampCtx q c x)).sampled (h.sampCtx q c x) q.cur = some r) :
    ∃ a, Hw.Steady a h ∧ h.decidePosition f n i = ((a.recordToken f p c x r).positionDone f n i) := by
  unfold Hw.decidePosition
  rw [ht.pos, ht.entry]
  dsimp only
  rw [ht.place, ht.seq]
  dsimp only
  rw [if_neg (by simp [ht.complete, ht.step, ht.fresh, hk]), ht.passed]
  dsimp only
  rw [hk]
  dsimp only
  rw [if_neg (by simp [hn, hc]), hr]
  exact ⟨_, h.steady_ifInc _ 0x7024 (by decide) (by decide), rfl⟩

theorem Hw.ToDecide.draft (ht : h.ToDecide f n i p x e c q) (hk : x.kind = .draft) :
    ∃ a e' s', Hw.Steady a h ∧ h.decidePosition f n i = ((a.recordDraft f p c x e' s').positionDone f n i) := by
  unfold Hw.decidePosition
  rw [ht.pos, ht.entry]
  dsimp only
  rw [ht.place, ht.seq]
  dsimp only
  rw [if_neg (by simp [ht.complete, ht.step, ht.fresh, hk]), ht.passed]
  dsimp only
  rw [hk]
  dsimp only
  exact ⟨_, _, _, (Hw.steady_ifInc _ _ 0x7021 (by decide) (by decide)).trans (h.steady_ifInc _ 0x7024 (by decide) (by decide)), rfl⟩

theorem Hw.ToDecide.tree (ht : h.ToDecide f n i p x e c q) (hk : x.kind = .tree) (ho : c.isOpen = true) :
    ∃ a, Hw.Steady a h ∧ a.smp = h.smp ∧ h.decidePosition f n i =
      ((a.setEntry (e.settleNucleus (h.sampCtx q c x))).modPos f n i fun y => { y with status := .complete }) := by
  unfold Hw.decidePosition
  rw [ht.pos, ht.entry]
  dsimp only
  rw [ht.place, ht.seq]
  dsimp only
  rw [if_neg (by simp [ht.complete, ht.step, ht.fresh, hk]), ht.passed]
  dsimp only
  rw [hk]
  dsimp only
  rw [if_pos ho]
  refine ⟨_, (Hw.steady_ifInc _ _ 0x7021 (by decide) (by decide)).trans (h.steady_ifInc _ 0x7024 (by decide) (by decide)), ?_, rfl⟩
  split <;> split <;> rfl

end

theorem PosEntry.settleNucleus_keeps (e : PosEntry) (s : SampCtx) :
    (e.settleNucleus s).facet = e.facet ∧ (e.settleNucleus s).step = e.step ∧ (e.settleNucleus s).position = e.position ∧
      (e.settleNucleus s).done = e.done := by
  unfold PosEntry.settleNucleus
  split
  · exact ⟨rfl, rfl, rfl, rfl⟩
  · split <;> exact ⟨rfl, rfl, rfl, rfl⟩

/-- An entry that is replaced is still there. -/
theorem Hw.entry?_setEntry (h : Hw) (f n i : Nat) (e e' : PosEntry) (he : h.entry? f n i = some e) (hf : e'.facet = e.facet)
    (hn : e'.step = e.step) (hi : e'.position = e.position) (hd : e'.done = e.done) : ((h.setEntry e').entry? f n i).isSome = true := by
  have hm := List.mem_of_find?_eq_some he
  have hp := List.find?_some he
  unfold Hw.entry?
  rw [List.find?_isSome]
  refine ⟨e', List.mem_map.mpr ⟨e, hm, if_pos ⟨hf.symm, hn.symm, hi.symm⟩⟩, ?_⟩
  rw [hf, hn, hi, hd]
  exact hp

/-! ## Tree walks -/

theorem Hw.get_bump_same (h : Hw) (i s n : Nat) : (h.bump i s n).get i s = (h.get i s + n) % 2 ^ 64 := by
  simp [Hw.bump, Hw.bumpAt, Hw.get]

theorem Hw.steady_walkTokens (h : Hw) (f slot model version : Nat) (out : List (Nat × Sampled)) (b : Bool) :
    Hw.Steady (out.foldl (fun (acc : Hw × Bool) o => ((acc.1.emitToken f slot o.2 model version false true).1,
      acc.2 || (acc.1.emitToken f slot o.2 model version false true).2)) (h, b)).1 h := by
  induction out generalizing h b with
  | nil => exact .refl h
  | cons o l ih => exact (ih _ _).trans (h.steady_emitToken ..)

/-- The counts of a walk (R284, R287). -/
def Hw.walkCounted (h : Hw) (a e : Nat) : Hw := (((h.inc 0x7203 1).bump 0x7204 1 a).bump 0x7205 1 e).inc 0x7206 (a + 1)

theorem Hw.walkCounted_spec (h : Hw) (a e : Nat) : (h.walkCounted a e).faults = h.faults ∧
    (h.walkCounted a e).get 0x7203 1 = (h.get 0x7203 1 + 1) % 2 ^ 64 ∧
    (h.walkCounted a e).get 0x7205 1 = (h.get 0x7205 1 + e) % 2 ^ 64 := by
  have hne : ∀ k : Nat, k < 0x7206 → ∀ s, s < 256 → odKey k s 0 ≠ odKey 0x7206 (a + 1) 0 := by
    intro k hk s hs
    simp only [odKey]
    omega
  refine ⟨rfl, ?_, ?_⟩
  · refine (Hw.get_inc_ne _ _ _ _ _ (hne _ (by decide) _ (by decide))).trans ?_
    refine (Hw.get_set_ne _ _ _ _ _ _ (by decide)).trans ((Hw.get_set_ne _ _ _ _ _ _ (by decide)).trans (Hw.get_inc ..))
  · refine (Hw.get_inc_ne _ _ _ _ _ (hne _ (by decide) _ (by decide))).trans ?_
    refine (Hw.get_bump_same _ _ _ _).trans ?_
    rw [show ((h.inc 0x7203 1).bump 0x7204 1 a).get 0x7205 1 = h.get 0x7205 1 from
      (Hw.get_set_ne _ _ _ _ _ _ (by decide)).trans (Hw.get_inc_ne _ _ _ _ _ (by decide))]

/-- The entry that a walk returns for a node's token. -/
def Tree.entryOf (t : Tree) (f n slot : Nat) (o : Nat × Sampled) : TokenEntry :=
  { facet := f, step := n, position := t.treePos + o.1, token := o.2.token, pad := false, key := tokenKey n slot }

/-- The tokens of a walk are returned. -/
theorem Hw.steady_returnTokens {α : Type} (g : α → TokenEntry) (l : List α) (h : Hw) :
    Hw.Steady (l.foldl (fun a o => a.returnToken (g o)) h) h := Hw.steady_foldl _ (fun b o => b.steady_returnToken (g o)) l h

theorem Hw.steady_positionDone (h : Hw) (f n i : Nat) : Hw.Steady (h.positionDone f n i) h :=
  (Hw.steady_freeEntry _ _ _ _).trans (h.steady_modPos _ _ _ _ fun _ => rfl)

/-- A walk's positions are decided where `b` says. -/
theorem Hw.steady_positionsDone (f n : Nat) (b : Pos → Bool) (l : List Pos) (h : Hw) :
    Hw.Steady (l.foldl (fun g x => if b x = true then g.positionDone f n x.index else g) h) h := by
  refine Hw.steady_foldl _ (fun g x => ?_) l h
  split
  · exact g.steady_positionDone f n _
  · exact .refl g

section
variable (h : Hw) (f : Nat) (p : Plan) (c : Place) (t : Tree) (v : Vertex) (out : List (Nat × Sampled))

/-- A walk's tokens are emitted, and whether one of them ends the sequence. -/
def Hw.walkTokens : Hw × Bool :=
  out.foldl (fun (acc : Hw × Bool) o => let z := acc.1.emitToken f c.slot o.2 c.model c.version false true; (z.1, acc.2 || z.2))
    (h.closePlace f p.step c.slot out.length c, false)

/-- The nodes of a walk that match the tree. -/
def Tree.matched : Nat := (out.filter fun o => (t.match? o.1 o.2.token).isSome).length

/-- What a walk does before its counts. -/
def Hw.walkBefore : Hw :=
  let h3 := ((h.walkTokens f p c out).1.modCur c.slot Vertex.settled).charge f v.tenant
    { Charges.zero with spec := t.parents.length + 1 - out.length }
  let st := v.spec.walked (t.matched out) (h.get 0x7201 1) (h.get 0x7202 1)
  let h4 := h3.modCur c.slot fun y => { y with spec := { st.1 with shape := y.spec.shape, shapeValid := y.spec.shapeValid } }
  if st.2 then h4.inc 0x720A 1 else h4

/-- What it does after them: its tokens return and its positions are decided. -/
def Hw.walkAfter : Hw :=
  let g := p.positions.foldl (fun g x => if (x.slot == c.slot && x.kind == .tree && x.status == .complete) = true then
    g.positionDone f p.step x.index else g) (out.foldl (fun g o => g.returnToken (t.entryOf f p.step c.slot o)) h)
  { g with secUsed := g.secUsed - 1 }

/-- A walk that meets no bad position. -/
theorem Hw.recordWalk_good (stop : WalkStop) (hb : ∀ b, stop ≠ .bad b) :
    h.recordWalk f p c t v out stop =
      if (h.walkTokens f p c out).2 = true then
        ((((h.walkBefore f p c t v out).walkCounted (t.matched out) out.length).walkAfter f p c t out).vacateAfter f c.slot p.step)
      else ((((h.walkBefore f p c t v out).walkCounted (t.matched out) out.length).walkAfter f p c t out).fixLater f c.slot p.step) := by
  cases stop with
  | bad b => exact absurd rfl (hb b)
  | waits | noChild | ends => rfl

theorem Hw.steady_walkBefore : Hw.Steady (h.walkBefore f p c t v out) h := by
  have h1 : Hw.Steady (h.walkTokens f p c out).1 h :=
    (Hw.steady_walkTokens _ f c.slot c.model c.version out false).trans (h.steady_closePlace f p.step c.slot out.length c)
  have h4 := fun k z => (Hw.steady_modCur _ c.slot z).trans
    ((Hw.steady_charge _ f v.tenant k).trans ((Hw.steady_modCur _ c.slot Vertex.settled).trans h1))
  unfold Hw.walkBefore
  dsimp only
  split
  · exact (Hw.steady_bump _ _ _ _ (by decide) (by decide)).trans (h4 _ _)
  · exact h4 _ _

theorem Hw.steady_walkAfter : Hw.Steady (h.walkAfter f p c t out) h := by
  unfold Hw.walkAfter
  dsimp only
  refine Hw.Steady.trans (Hw.Steady.of_eq (b := p.positions.foldl _ _) rfl rfl rfl rfl) ?_
  exact (Hw.steady_positionsDone f p.step (fun x => x.slot == c.slot && x.kind == .tree && x.status == .complete) p.positions _).trans
    (Hw.steady_returnTokens (t.entryOf f p.step c.slot) out h)

end

/-- What comes before the counts of a good walk and after them is steady. -/
theorem Hw.recordWalk_counted (h : Hw) (f : Nat) (p : Plan) (c : Place) (t : Tree) (v : Vertex) (out : List (Nat × Sampled)) (stop : WalkStop)
    (hb : ∀ b, stop ≠ .bad b) :
    ∃ g a, Hw.Steady g h ∧ Hw.Steady (h.recordWalk f p c t v out stop) (g.walkCounted a out.length) := by
  refine ⟨h.walkBefore f p c t v out, t.matched out, h.steady_walkBefore f p c t v out, ?_⟩
  rw [h.recordWalk_good f p c t v out stop hb]
  split
  · exact (Hw.steady_vacateAfter _ _ _ _).trans (Hw.steady_walkAfter _ _ _ _ _ _)
  · exact (Hw.steady_fixLater _ _ _ _).trans (Hw.steady_walkAfter _ _ _ _ _ _)

/-- The two counts that such a walk takes. -/
theorem Hw.recordWalk_spec (h : Hw) (f : Nat) (p : Plan) (c : Place) (t : Tree) (v : Vertex) (out : List (Nat × Sampled)) (stop : WalkStop)
    (hb : ∀ b, stop ≠ .bad b) :
    (h.recordWalk f p c t v out stop).faults = h.faults ∧
      (h.recordWalk f p c t v out stop).get 0x7203 1 = (h.get 0x7203 1 + 1) % 2 ^ 64 ∧
      (h.recordWalk f p c t v out stop).get 0x7205 1 = (h.get 0x7205 1 + out.length) % 2 ^ 64 := by
  obtain ⟨g, a, hg, hw⟩ := h.recordWalk_counted f p c t v out stop hb
  obtain ⟨hf, h3, h5⟩ := g.walkCounted_spec a out.length
  rw [hw.faults, hw.walks, hw.walked, hf, h3, h5, hg.faults, hg.walks, hg.walked]
  exact ⟨rfl, rfl, rfl⟩

/-! ## The obligation -/

theorem Hw.posAt_settle (b h : Hw) (f n i : Nat) : (Hw.settle b h).posAt f n i = h.posAt f n i := by
  rw [Hw.posAt_eq, Hw.posAt_eq]
  unfold Hw.livePlans
  rw [Hw.settle_facet]

theorem Hw.entry?_settle (b h : Hw) (f n i : Nat) : (Hw.settle b h).entry? f n i = h.entry? f n i := by
  unfold Hw.entry?
  rw [Hw.settle_smp]

/-- A position decided by a record is so in the machine that the command leaves. -/
theorem State.Ready.positionDecided {s : State} (hr : s.Ready) {f : Fin 16} {n i : Nat} {p : Plan} {x : Pos} (hx : s.hw.posAt f n i = some (p, x))
    (hp : p.step = n) {a : Hw} (hs : Hw.Steady a (s.hw.begun .alone 0x10))
    (he : (s.hw.begun .alone 0x10).decidePosition f n i = a.positionDone f n i) :
    ∃ t, exec (.sampleResult f n i) s = .next t ∧ t.hw.entry? f n i = none ∧
      (∃ y, t.hw.posAt f n i = some y ∧ y.2.status = .decided) ∧ t.hw.smp.tokens = a.smp.tokens := by
  obtain ⟨-, -, -, hnone⟩ := hr.quiet
  have hd : Hw.Decides (a.positionDone f n i) (s.hw.begun .alone 0x10) f n i := hs.decides hx hp
  refine hr.nextEqF .alone 0x10 _ he (hd.faults.trans hnone) ⟨?_, ?_, ?_⟩
  · exact (Hw.entry?_settle ..).trans hd.freed
  · obtain ⟨y, hy, hst⟩ := hd.decided
    exact ⟨y, (Hw.posAt_settle ..).trans hy, hst⟩
  · have e := congrArg Sampler.tokens (Hw.settle_smp (s.hw.started .alone) (a.positionDone f n i))
    exact e

/-- Settles O37: a named replay request that is lost is a fault of its facet; a token that leaves ends the waits on its key; each kind of position
is marked after its record; a walk counts itself between steady operations. -/
theorem decisions : Obligations.Decisions := by
  unfold Obligations.Decisions
  intro s hr
  obtain ⟨-, -, -, hnone⟩ := hr.quiet
  refine ⟨fun data hn => ?_, fun data r hn hs hc => ?_, fun f i r hr1 hr2 hr3 hr4 hs hc => ?_, fun f i hn => ?_, fun ht => ?_, fun n ht => ?_,
    fun e rest ht => ⟨fun hw => ?_, fun k d hk hw hd hs hc => ?_⟩,
    fun f n i p x e c q hx he hc hq hcm hp hfr hps => ?_, fun f n i hx => ?_, fun f slot w hw hb => ?_, fun f slot hw => ?_⟩
  · have e : (s.hw.begun .alone 0x10).replayNak data = (s.hw.begun .alone 0x10).inc 0x2304 1 := Hw.replayNak_none _ data hn
    exact hr.leavesNoFault .alone 0x10 _ (by rw [e]; exact hnone) (.of_eq e ⟨rfl, rfl⟩)
  · have e : (s.hw.begun .alone 0x10).replayNak data = ((s.hw.begun .alone 0x10).inc 0x2304 1).replayLost r := Hw.replayNak_some _ data r hn
    have hnamed : r.named data = true := by have e := List.find?_some hn; exact e
    have hm : (s.hw.begun .alone 0x10).MayReplay r.facet := (Hw.MayReplay.mk (h := s.hw) hs hc).of_eq rfl rfl rfl
    refine hr.replays .alone 0x10 _ r.facet .unnamed (ReplayReq.named_facet hnamed) ?_ ?_ fun t ht _ hget => ⟨ht, ?_⟩
    · rw [e]
      exact congrArg (· ++ _) hnone
    · rw [e]
      exact (hm.refused (ReplayReq.named_facet hnamed)).replayLost r
    · refine (hget 0x2304 1 (by decide) (by decide) (by decide) (by decide) (by decide)).trans ?_
      rw [e]
      exact Hw.get_inc ..
  · have hm : (s.hw.begun .expiry 0x10).MayReplay f := (Hw.MayReplay.mk (h := s.hw) hs hc).of_eq rfl rfl rfl
    obtain ⟨r0, hd, hf0⟩ := (s.hw.begun .expiry 0x10).replayDue_some f i r hr1 hr2 hr3 hr4
    have e : (s.hw.begun .expiry 0x10).replayExpires f i = (s.hw.begun .expiry 0x10).replayLost r0 := by
      unfold Hw.replayExpires
      rw [hd]
    rw [exec_replayTimeout_eq]
    refine hr.recovers .expiry 0x10 _ f .unnamed ?_ ?_
    · rw [e, Hw.replayLost_faults, hf0]
      exact congrArg (· ++ _) hnone
    · rw [e]
      exact hm.replayLost r0
  · rw [exec_replayTimeout_eq]
    refine hr.idleF .expiry 0x10 _ ?_
    unfold Hw.replayExpires
    rw [(s.hw.begun .expiry 0x10).replayDue_none f i hn]
  · refine hr.leavesNoFault .alone 0x10 _ (h := (s.hw.inc 0x2306 1).sends []) ?_ ?_
    · have e : (if (s.hw.begun .alone 0x10).smp.tokens = [] then s.hw.begun .alone 0x10 else (s.hw.begun .alone 0x10).inc 0x2306 1) =
        (s.hw.begun .alone 0x10).inc 0x2306 1 := if_neg ht
      exact (congrArg Hw.faults e).trans hnone
    · exact .of_eq (y := (s.hw.begun .alone 0x10).inc 0x2306 1) (if_neg ht) ⟨rfl, rfl⟩
  · have ht' : (s.hw.begun .alone 0x10).smp.tokens = [] := ht
    refine hr.idleF .alone 0x10 _ ?_
    rw [if_pos ht', Hw.sendTokens_none _ _ ht', ite_self]
  · have ht' : (s.hw.begun .alone 0x10).smp.tokens = e :: rest := ht
    have e1 : (s.hw.begun .alone 0x10).sendToken = (s.hw.begun .alone 0x10).tokenSent e rest := by
      rw [Hw.sendToken_cons _ _ _ ht']
      split
      · rfl
      · next hno => exact Hw.endWaits_nobody _ _ (hw.resolve_left hno)
    exact hr.leavesNoFault .alone 0x10 _ ((congrArg Hw.faults e1).trans hnone) (.of_eq e1 ⟨rfl, rfl⟩)
  · have ht' : (s.hw.begun .alone 0x10).smp.tokens = e :: rest := ht
    have e1 : (s.hw.begun .alone 0x10).sendToken = ((s.hw.begun .alone 0x10).tokenSent e rest).endWaits e.key := by
      rw [Hw.sendToken_cons _ _ _ ht', if_neg (by rw [hk]; exact Bool.false_ne_true)]
    obtain ⟨hsmp, hout, hfaults, d', hd', hcd⟩ := ((s.hw.begun .alone 0x10).tokenSent e rest).endWaits_one e.key k d hw hd hs hc
    refine hr.nextEqF .alone 0x10 _ e1 (hfaults.trans hnone) ⟨?_, ?_, ?_⟩
    · exact congrArg Sampler.tokens ((Hw.settle_smp ..).trans hsmp)
    · exact (Hw.settle_out ..).trans hout
    · refine (congrArg (fun m => (Map.find? m k).map fun x : Desc => x.counter) (Hw.settle_descs ..)).trans ?_
      exact (congrArg (Option.map fun x : Desc => x.counter) hd').trans (congrArg some hcd)
  · have hto : (s.hw.begun .alone 0x10).ToDecide f n i p x e c q := ⟨hx, he, hc, hq, hcm, hp, hfr, hps⟩
    refine ⟨fun r hk hnf hct hsr => ?_, fun hk => ?_, fun hk ho => ?_⟩
    · obtain ⟨a, ha, e1⟩ := hto.decode r hk hnf hct hsr
      obtain ⟨hst, y, hy, hyf, hyn, hyi, hyt, hyp⟩ := a.steady_recordToken f p c x r
      obtain ⟨t, ht, h1, h2, h3⟩ := hr.positionDecided hx hp (hst.trans ha) e1
      exact ⟨t, ht, h1, h2, y, h3 ▸ hy, hyf, hyn.trans hp, hyi, hyt, hyp⟩
    · obtain ⟨a, e', s', ha, e1⟩ := hto.draft hk
      obtain ⟨t, ht, h1, h2, -⟩ := hr.positionDecided hx hp ((a.steady_recordDraft f p c x e' s').trans ha) e1
      exact ⟨t, ht, h1, h2⟩
    · obtain ⟨a, ha, hsmp, e1⟩ := hto.tree hk ho
      obtain ⟨p', x', hy, hp'⟩ := ha.posAt hto.pos hp
      generalize he2 : e.settleNucleus ((s.hw.begun .alone 0x10).sampCtx q c x) = e2 at e1
      have hkeep := e.settleNucleus_keeps ((s.hw.begun .alone 0x10).sampCtx q c x)
      rw [he2] at hkeep
      obtain ⟨hef, hen, hei, hed⟩ := hkeep
      obtain ⟨p2, h2⟩ := (a.setEntry e2).posAt_modPos f n i (fun y => { y with status := .complete }) (fun _ => rfl) p' x' hy hp'
      have hae : a.entry? f n i = some e := by
        refine Eq.trans ?_ hto.entry
        unfold Hw.entry?
        rw [hsmp]
      refine hr.nextEqF .alone 0x10 _ e1 (ha.faults.trans hnone) ⟨⟨(p2, { x' with status := .complete }), ?_, rfl⟩, ?_⟩
      · rw [Hw.posAt_settle]
        exact h2
      · rw [Hw.entry?_settle]
        exact a.entry?_setEntry f n i e e2 hae hef hen hei hed
  · refine hr.idleF .alone 0x10 _ ?_
    have hx' : (s.hw.begun .alone 0x10).posAt f n i = none := hx
    unfold Hw.decidePosition
    rw [hx']
  · have hw' : (s.hw.begun .alone 7).walkDue f slot = some w := hw
    have e1 : (s.hw.begun .alone 7).walk f slot = (s.hw.begun .alone 7).recordWalk f w.plan w.place w.tree w.seq w.out w.stop := by
      unfold Hw.walk
      rw [hw']
    obtain ⟨hf, h3, h5⟩ := (s.hw.begun .alone 7).recordWalk_spec f w.plan w.place w.tree w.seq w.out w.stop hb
    exact hr.nextEqF .alone 7 _ e1 (hf.trans hnone) ⟨(Hw.settle_get _ _ _ _ (by decide)).trans h3, (Hw.settle_get _ _ _ _ (by decide)).trans h5⟩
  · refine hr.idleF .alone 7 _ ?_
    have hw' : (s.hw.begun .alone 7).walkDue f slot = none := hw
    unfold Hw.walk
    rw [hw']

end Sys2Proof.Machine

/-! PROOFS. R147 and R167: the reply to a sequence whose KV has been reset while it migrated. -/

namespace Sys2Proof.Machine

open Sys2Proof

/-- A sequence that migrates, none of whose prompt's tokens has KV any more. -/
def unfilledVertex : Vertex := { lateVertex with state := .migrating, promptLen := 2, generated := 1, kvTokens := 0 }

/-- The sequence in slot 5. -/
def unfilledSeq : Seq := { lateSeq with com := unfilledVertex, cur := unfilledVertex }

/-- Its migration, with number 0. -/
def unfilledMigration : Migration :=
  { msgId := 0, queue := 0, slot := some 5, handle := handleOf 5 unfilledVertex, dest := 1, sinceNs := 0, reply := none }

/-- The machine that waits for the reply. -/
def unfilledState : State :=
  { State.reset with hw := { Hw.reset with
      seqs := [(5, unfilledSeq)], fed := { Hw.reset.fed with migrations := [unfilledMigration] }, od := [(odKey 0x1012 1 0, 2 ^ 3)] } }

theorem unfilledState_ready : unfilledState.Ready := ⟨rfl, rfl, rfl, ⟨rfl, rfl, rfl, rfl⟩⟩

/-- The reply, with another outcome than ADMIT. -/
def refusingReply : List Byte := migrationMessage 3 1 0 0 0 0 0 2 []

/-- The committed state of the sequence in slot 5 after an outcome. -/
def stateAfter : Host.Outcome State Fault Refusal → Option SeqState
  | .next t => (t.hw.seq? 5).map fun q => q.com.state
  | _ => none

/-- The sequence computes its KV again. -/
theorem unfilledState_prefills : stateAfter (exec (.replyMessage refusingReply) unfilledState) = some .prefill := by decide +kernel

/-- Refutes O41: a sequence whose KV has been reset while it migrated returns to PREFILL. -/
theorem not_migrations : ¬ Obligations.Migrations := by
  unfold Obligations.Migrations
  intro h
  obtain ⟨-, -, -, htaken, -⟩ := h unfilledState refusingReply [] unfilledState_ready
  obtain ⟨-, -, -, hreply⟩ := htaken (by decide +kernel) (by decide +kernel) (by decide +kernel)
  obtain ⟨-, hlive⟩ := hreply unfilledMigration (by decide +kernel) (by decide +kernel)
  obtain ⟨-, hback⟩ := hlive 5 unfilledSeq rfl rfl rfl rfl
  obtain ⟨t, ht, -, hseq, -⟩ := hback (by decide +kernel) rfl
  have hdecode : stateAfter (.next t) = some .decode := by
    have e := congrArg (Option.map fun q : Seq => q.com.state) hseq
    exact e
  rw [← ht, unfilledState_prefills] at hdecode
  exact absurd hdecode (by decide)

end Sys2Proof.Machine

/-! PROOFS. R121 to R141: the end of check 7, deferred starts, budget periods, hot fills and queue publication. -/

namespace Sys2Proof.Machine

open Sys2Proof

/-! ## The end of check 7 -/

/-- What checks 7 to 9 may end in: they change the references of pages alone, and refuse for the footprint or for the deadline. -/
structure Hw.LateRuling (h : Hw) (r : Ruling × Hw) : Prop where
  pages : ∃ x, r.2 = { h with pages := x }
  refuses : ∀ o p, r.1 = .refuse o p → o = 3 ∨ o = 4

theorem Hw.giveBack_twice (h : Hw) (l m : List PageRef) : ∃ x, (h.giveBack l).giveBack m = { h with pages := x } := by
  obtain ⟨x, hx⟩ := h.giveBack_eq l
  obtain ⟨y, hy⟩ := (h.giveBack l).giveBack_eq m
  exact ⟨y, by rw [hy, hx]⟩

theorem Hw.lastChecks_late (h : Hw) (a : Asker) (e : Submission) (c : Cls) (slot window : Nat) (walk : List PageRef) :
    h.LateRuling (h.lastChecks a e c slot window walk) := by
  unfold Hw.lastChecks
  dsimp only
  generalize (if decide (h.now / 1000000000 < window) = true then window * 1000000000 else h.now) = start
  split
  · exact ⟨h.giveBack_twice _ _, fun o p ho => by cases ho; exact .inl rfl⟩
  · next flags _ =>
    generalize h.entryVertex a e c slot start h.now (h.pageTokens e.model * (walk.take (h.walkRoom e.model e.promptLen)).length) flags
      (decide (h.now / 1000000000 < window)) = v
    split
    · exact ⟨h.giveBack_eq _, nofun⟩
    · split
      · exact ⟨h.giveBack_eq _, nofun⟩
      · generalize (if v.flags.testBit 1 = true then h.fallbackModel e.model else none) = other
        cases other with
        | none => exact ⟨h.giveBack_twice _ _, fun o p ho => by cases ho; exact .inr rfl⟩
        | some b =>
          dsimp only
          split
          · exact ⟨h.giveBack_twice _ _, nofun⟩
          · exact ⟨h.giveBack_twice _ _, fun o p ho => by cases ho; exact .inr rfl⟩

theorem Hw.traceRec_eq (h : Hw) (t u : Nat) (f : Option Nat) (l : List Byte) : ∃ x, h.traceRec t u f l = { h with trace := x } := by
  unfold Hw.traceRec
  split
  · exact ⟨_, rfl⟩
  · exact ⟨_, rfl⟩

/-- A decision is noted: it is counted by its outcome. -/
theorem Hw.noteDecision_keeps (h : Hw) (r : Nat) (a : AdmitFields) :
    (h.noteDecision r a).seqs = h.seqs ∧ (h.noteDecision r a).adm = h.adm ∧ (h.noteDecision r a).rings = h.rings ∧
      (a.outcome ≠ 0xB → a.outcome ≠ 6 → (h.noteDecision r a).get 0x3007 (a.outcome + 1) = (h.get 0x3007 (a.outcome + 1) + 1) % 2 ^ 64) := by
  unfold Hw.noteDecision
  dsimp only
  obtain ⟨x, hx⟩ := (if a.outcome = 0xB ∨ a.outcome = 6 then (h.inc 0x3007 (a.outcome + 1)).event 1 (129 * 16) 2 none none
    else h.inc 0x3007 (a.outcome + 1)).traceRec_eq 4 1 none (leBytes 8 a.handle ++ [BitVec.ofNat 8 a.outcome, 0, 0, 0] ++ leBytes 2 r)
  rw [hx]
  dsimp only
  refine ⟨?_, ?_, ?_, fun h1 h2 => ?_⟩
  · split <;> rfl
  · split <;> rfl
  · split <;> rfl
  · rw [if_neg (by simp [h1, h2])]
    exact Hw.get_inc h 0x3007 (a.outcome + 1)

/-- A record of a decision on a ring. -/
theorem Hw.postRecord_keeps (h : Hw) (r : Nat) (tag : Word64) (a : AdmitFields) :
    (h.postRecord r tag a).seqs = h.seqs ∧ (h.postRecord r tag a).adm = h.adm ∧ ((h.postRecord r tag a).ring r).deciding = true ∧
      (a.outcome ≠ 0xB → a.outcome ≠ 6 → a.outcome < 255 →
        (h.postRecord r tag a).get 0x3007 (a.outcome + 1) = (h.get 0x3007 (a.outcome + 1) + 1) % 2 ^ 64) := by
  obtain ⟨hseqs, hadm, -, hget⟩ := h.noteDecision_keeps r a
  unfold Hw.postRecord
  dsimp only
  generalize h.noteDecision r a = g at hseqs hadm hget ⊢
  have hm := fun w ad b d p t u => (g.modRing r fun x => { x with deciding := true, hold := 0 }).sameButMem_memPost w ad b d p t u
  refine ⟨(hm ..).seqs.trans hseqs, (hm ..).adm.trans hadm, ?_, fun h1 h2 h3 => ((hm ..).get _ _ (by decide) (by omega)).trans (hget h1 h2)⟩
  exact (congrArg (fun m => (Map.getD m r Ring.reset).deciding) (hm ..).rings).trans
    (congrArg (fun o : Option Ring => (o.getD Ring.reset).deciding) (Map.find?_insert_self _ _ _))

theorem Hw.nextMessage_none (h : Hw) (hm : h.adm.messages = []) : h.nextMessage = h := by
  unfold Hw.nextMessage
  rw [hm]
  rfl

theorem Hw.takeBlocks_eq (n : Nat) : ∀ (h : Hw) (l : List Nat), ∃ x, (h.takeBlocks n l).2 = { h with pages := x } := by
  induction n with
  | zero => exact fun h l => ⟨_, rfl⟩
  | succ n ih =>
    intro h l
    unfold Hw.takeBlocks
    cases hb : h.takeBlock with
    | none => exact ⟨_, rfl⟩
    | some e =>
      obtain ⟨b, a⟩ := e
      have ha : ∃ y, a = { h with pages := y } := by
        unfold Hw.takeBlock at hb
        split at hb
        · cases hb; exact ⟨_, rfl⟩
        · split at hb
          · cases hb; exact ⟨_, rfl⟩
          · cases hb
      obtain ⟨y, rfl⟩ := ha
      exact ih _ _

theorem Hw.sameButMem_postLines (h : Hw) (p : Purpose) (l : List Line) : Hw.SameButMem (h.postLines p l) h :=
  Hw.sameButMem_foldl _ (fun b _ => b.sameButMem_memPost ..) l h

/-- A sequence as an admission makes it. -/
structure Seq.Made (q : Seq) (h : Hw) (v : Vertex) (prompt : List Nat) (pages : List PageRef) (slot : Nat) : Prop where
  tenant : q.com.tenant = v.tenant
  model : q.com.model = v.model
  state : q.com.state = v.state
  generation : q.com.generation = Map.getD h.gens slot 0 + 1
  cur : q.cur = q.com
  prompt : q.prompt = prompt
  pages : q.pagesCom = pages
  unready : q.recordReady = false

/-- What taking a slot leaves. -/
theorem Hw.takeSlot_keeps (h : Hw) (slot : Nat) (g : Hw) (hs : h.takeSlot = some (slot, g)) :
    g.seqs = h.seqs ∧ g.gens = h.gens ∧ g.adm = h.adm := by
  unfold Hw.takeSlot at hs
  split at hs
  · cases hs; exact ⟨rfl, rfl, rfl⟩
  · split at hs
    · cases hs; exact ⟨rfl, rfl, rfl⟩
    · split at hs
      · cases hs; exact ⟨rfl, rfl, rfl⟩
      · cases hs

/-- The slot that is taken follows from the lists of slots alone. -/
theorem Hw.takeSlot_of_eq {h k : Hw} (h1 : k.slotsFront = h.slotsFront) (h2 : k.slotsFresh = h.slotsFresh) (h3 : k.slotsFreed = h.slotsFreed)
    {slot : Nat} {g : Hw} (hs : h.takeSlot = some (slot, g)) : ∃ g', k.takeSlot = some (slot, g') := by
  unfold Hw.takeSlot at hs ⊢
  rw [h1, h2, h3]
  split at hs
  · next hf => cases hs; exact ⟨_, rfl⟩
  · next hf =>
    split at hs
    · next hlt => cases hs; exact ⟨_, if_pos hlt⟩
    · next hlt =>
      split at hs
      · next hfr => cases hs; exact ⟨_, if_neg hlt⟩
      · cases hs

/-- The sequence that is made stands in the slot that is taken. -/
theorem Hw.makeSeq_made (h : Hw) (v : Vertex) (prompt tokens : List Nat) (pages : List PageRef) (slot : Nat) (g : Hw)
    (hs : h.takeSlot = some (slot, g)) :
    ∃ k q, h.makeSeq v prompt tokens pages = some (slot, k) ∧ k.seq? slot = some q ∧ q.Made h v prompt pages slot ∧
      (∀ n, n ≠ slot → k.seq? n = h.seq? n) ∧ k.adm = h.adm := by
  obtain ⟨hseqs, hgens, hadm⟩ := h.takeSlot_keeps slot g hs
  obtain ⟨x, hx⟩ := Hw.takeBlocks_eq (1 + leavesFor pages.length) g []
  have hbs : (g.takeBlocks (1 + leavesFor pages.length) []).2.seqs = h.seqs := by rw [hx]; exact hseqs
  have hba : (g.takeBlocks (1 + leavesFor pages.length) []).2.adm = h.adm := by rw [hx]; exact hadm
  unfold Hw.makeSeq
  rw [hs]
  dsimp only
  generalize (g.takeBlocks (1 + leavesFor pages.length) []).2 = b at hbs hba
  refine ⟨_, _, rfl, (congrArg (Map.find? · slot) (Hw.sameButMem_postLines _ _ _).seqs).trans (Map.find?_insert_self _ _ _),
    ⟨rfl, rfl, rfl, rfl, rfl, rfl, rfl, rfl⟩, fun n hn => ?_, ?_⟩
  · refine (congrArg (Map.find? · n) (Hw.sameButMem_postLines ..).seqs).trans ((Map.find?_insert_ne _ _ _ _ hn).trans ?_)
    exact congrArg (Map.find? · n) hbs
  · exact (Hw.sameButMem_postLines ..).adm.trans hba

/-- An admission on a ring keeps the sequences. -/
theorem Hw.takeIn_keeps (h : Hw) (r : Nat) (tag : Word64) (slot : Nat) (q : Seq) :
    (h.takeIn r tag slot q).seqs = h.seqs ∧ (h.takeIn r tag slot q).adm = h.adm := by
  unfold Hw.takeIn
  dsimp only
  obtain ⟨hseqs, hadm, -⟩ := h.noteDecision_keeps r (h.admittedFields slot q.com h.now)
  exact ⟨(Hw.sameButMem_memPost ..).seqs.trans hseqs, (Hw.sameButMem_memPost ..).adm.trans hadm⟩

section
variable (h : Hw) (x : Trial) (walk : List PageRef) (r : Nat) (a : Asker) (c : Cls) (hx : x.ring = some r) (hm : h.adm.messages = [])
  (ha : h.ringAsker r x.entry = a) (hc : (clsOf ((submissionOf x.entry).classByte % 4)).getD .be = c)
include hx hm ha hc

/-- A refusal at checks 7 to 9. -/
theorem Hw.decideTrial_refuse (o : Nat) (p : Option Nat)
    (hr : (({ h with adm := { h.adm with trial := none } } : Hw).lastChecks a (submissionOf x.entry) c x.slot x.window walk).1 = .refuse o p) :
    ((h.decideTrial x walk).ring r).deciding = true ∧ (h.decideTrial x walk).seqs = h.seqs ∧
      (h.decideTrial x walk).get 0x3007 (o + 1) = (h.get 0x3007 (o + 1) + 1) % 2 ^ 64 := by
  obtain ⟨⟨y, hy⟩, hrf⟩ := ({ h with adm := { h.adm with trial := none } } : Hw).lastChecks_late a (submissionOf x.entry) c x.slot x.window walk
  have ho := hrf o p hr
  unfold Hw.decideTrial
  rw [hx]
  dsimp only
  rw [ha, hc, hr, hy]
  dsimp only
  obtain ⟨hseqs, hadm, hdec, hget⟩ := ({ h with adm := { h.adm with trial := none }, pages := y } : Hw).postRecord_keeps r
    (submissionOf x.entry).tag (refusedFields o 0 h.now (h.ring r).consumed p)
  rw [Hw.nextMessage_none _ ((congrArg Adm.messages hadm).trans hm)]
  exact ⟨hdec, hseqs, hget (show o ≠ 0xB by omega) (show o ≠ 6 by omega) (show o < 255 by omega)⟩

/-- An admission at checks 7 to 9. -/
theorem Hw.decideTrial_take (v : Vertex) (pages : List PageRef) (slot : Nat) (g : Hw)
    (hr : (({ h with adm := { h.adm with trial := none } } : Hw).lastChecks a (submissionOf x.entry) c x.slot x.window walk).1 = .take v pages)
    (hs : h.takeSlot = some (slot, g)) :
    ∃ q, (h.decideTrial x walk).seq? slot = some q ∧ q.Made h v x.prompt pages slot ∧
      ∀ k, k ≠ slot → (h.decideTrial x walk).seq? k = h.seq? k := by
  obtain ⟨⟨y, hy⟩, -⟩ := ({ h with adm := { h.adm with trial := none } } : Hw).lastChecks_late a (submissionOf x.entry) c x.slot x.window walk
  generalize hb : (({ h with adm := { h.adm with trial := none }, pages := y } : Hw).countStart v.tenant x.window) = b
  have hbk : b.slotsFront = h.slotsFront ∧ b.slotsFresh = h.slotsFresh ∧ b.slotsFreed = h.slotsFreed ∧ b.seqs = h.seqs ∧ b.gens = h.gens ∧
      b.adm.messages = h.adm.messages := by
    rw [← hb]
    exact ⟨rfl, rfl, rfl, rfl, rfl, rfl⟩
  obtain ⟨h1, h2, h3, h4, h5, h6⟩ := hbk
  obtain ⟨g', hs'⟩ := Hw.takeSlot_of_eq h1 h2 h3 hs
  obtain ⟨k, q, hk, hq, hmade, hne, hadm⟩ := b.makeSeq_made v x.prompt [] pages slot g' hs'
  obtain ⟨hti, hta⟩ := k.takeIn_keeps r (submissionOf x.entry).tag slot q
  have he : h.decideTrial x walk = k.takeIn r (submissionOf x.entry).tag slot q := by
    unfold Hw.decideTrial
    rw [hx]
    dsimp only
    rw [ha, hc, hr, hy]
    dsimp only
    rw [hb, hk]
    dsimp only
    rw [hq]
    exact Hw.nextMessage_none _ ((congrArg Adm.messages (hta.trans hadm)).trans (h6.trans hm))
  rw [he]
  refine ⟨q, (congrArg (Map.find? · slot) hti).trans hq, ?_, fun n hn => ?_⟩
  · obtain ⟨m1, m2, m3, m4, m5, m6, m7, m8⟩ := hmade
    exact ⟨m1, m2, m3, by rw [m4, h5], m5, m6, m7, m8⟩
  · exact (congrArg (Map.find? · n) hti).trans ((hne n hn).trans (congrArg (Map.find? · n) h4))

end

/-! ## Starts -/

theorem Hw.deferredStart_due (h : Hw) (slot : Nat) (q : Seq) (hq : h.seq? slot = some q) (hc : q.com.state = .deferred)
    (hu : q.cur.state = .deferred) (ht : q.com.start ≤ h.nowUs * 1000) :
    (h.deferredStart slot).seqs =
      Map.insert h.seqs slot { q with com := { q.com with state := .prefill }, cur := { q.cur with state := .prefill } } := by
  unfold Hw.deferredStart
  rw [hq]
  dsimp only
  rw [if_pos ⟨hc, ht⟩, if_pos hc, if_pos hu]
  unfold Hw.postVertex
  split
  · exact (Hw.sameButMem_postLines ..).seqs
  · rfl

theorem Hw.deferredStart_early (h : Hw) (slot : Nat) (q : Seq) (hq : h.seq? slot = some q) (ht : h.nowUs * 1000 < q.com.start) :
    h.deferredStart slot = h := by
  unfold Hw.deferredStart
  rw [hq]
  exact if_neg fun hh => Nat.not_le.mpr ht hh.2

/-! ## Budget periods -/

/-- A key that is filtered out is not found. -/
theorem Map.find?_filter_out {α : Type} (m : Map α) (c : Nat → Bool) (k : Nat) (hc : c k = false) : Map.find? (m.filter fun e => c e.1) k = none := by
  induction m with
  | nil => rfl
  | cons e m ih =>
    rw [List.filter_cons]
    split
    · next he =>
      unfold Map.find?
      rw [if_neg fun hk => by rw [hk, he] at hc; cases hc]
      split
      · rfl
      · exact ih
    · exact ih

/-- A key is found as before where those filtered out lie below it. -/
theorem Map.find?_filter_below {α : Type} (m : Map α) (c : Nat → Bool) (k : Nat) (hc : ∀ n, c n = false → n < k) :
    Map.find? (m.filter fun e => c e.1) k = Map.find? m k := by
  induction m with
  | nil => rfl
  | cons e m ih =>
    rw [List.filter_cons]
    split
    · unfold Map.find?
      rw [ih]
    · next he =>
      have hlt : e.1 < k := hc _ (Bool.not_eq_true _ ▸ he)
      rw [ih]
      conv_rhs => unfold Map.find?
      rw [if_neg (by omega), if_neg (by omega)]

theorem odDefault_used : odDefault 0x3101 0xD = 0 := by decide +kernel

/-- Whether a key lies outside of a range. -/
def outside (lo hi k : Nat) : Bool := !(decide (lo ≤ k) && decide (k < hi))

theorem outside_eq_false (lo hi k : Nat) : outside lo hi k = false ↔ lo ≤ k ∧ k < hi := by simp [outside]

/-- The keys of a sub-index lie between its own first and that of the next. -/
theorem odKey_bounds (i s o : Nat) : odKey i s 0 ≤ odKey i s o ∧ odKey i s o < odKey i (s + 1) 0 := by
  simp only [odKey]
  omega

theorem Hw.rollBudget_od (h : Hw) (hb : h.budgetOver = true) :
    h.rollBudget.od = h.od.filter fun e => outside (odKey 0x3101 0xD 0) (odKey 0x3101 0xE 0) e.1 := by
  unfold Hw.rollBudget
  rw [if_pos hb]
  rfl

/-- A sub-index whose keys are filtered out reads its default, and the next one what it did. -/
theorem Hw.getAt_filtered (h g : Hw) (i s : Nat) (hod : g.od = h.od.filter fun e => outside (odKey i s 0) (odKey i (s + 1) 0) e.1) (n : Nat) :
    g.getAt i s n = odDefault i s ∧ g.getAt i (s + 1) n = h.getAt i (s + 1) n := by
  obtain ⟨hlo, hhi⟩ := odKey_bounds i s n
  obtain ⟨hnext, -⟩ := odKey_bounds i (s + 1) n
  constructor
  · unfold Hw.getAt
    rw [hod, Map.find?_filter_out h.od (outside _ _) _ ((outside_eq_false ..).mpr ⟨hlo, hhi⟩)]
  · unfold Hw.getAt
    rw [hod, Map.find?_filter_below h.od (outside _ _) _ fun e he => Nat.lt_of_lt_of_le ((outside_eq_false ..).mp he).2 hnext]

/-- The used tokens of every tenant are 0 after a period, and the reserved ones are kept. -/
theorem Hw.rollBudget_spec (h : Hw) (hb : h.budgetOver = true) (n : Nat) :
    h.rollBudget.getAt 0x3101 0xD n = 0 ∧ h.rollBudget.getAt 0x3101 0xE n = h.getAt 0x3101 0xE n := by
  obtain ⟨hused, hres⟩ := h.getAt_filtered h.rollBudget 0x3101 0xD (h.rollBudget_od hb) n
  exact ⟨hused.trans odDefault_used, hres⟩

theorem Hw.rollBudget_over (h : Hw) (hb : h.budgetOver = true) : h.rollBudget.budgetNs = h.now ∧ h.rollBudget.seqs = h.seqs := by
  unfold Hw.rollBudget
  rw [if_pos hb]
  exact ⟨rfl, rfl⟩

/-! ## Hot fills -/

theorem Hw.fillHot_room (h : Hw) (slot : Nat) (q : Seq) (hq : h.seq? slot = some q) (hc : q.hot = false)
    (hr : (h.seqs.filter fun e => e.2.hot).length < h.hotCapacity) :
    (h.fillHot slot).seqs = Map.insert h.seqs slot { q with hot := true } ∧
      (h.fillHot slot).get 0x3004 1 = (h.get 0x3004 1 + 1) % 2 ^ 64 := by
  have hroom : h.makeHotRoom = h := if_pos hr
  have hmod : h.modSeq slot (fun s => { s with hot := true }) = h.setSeq slot { q with hot := true } := by
    unfold Hw.modSeq
    rw [hq]
  unfold Hw.fillHot
  rw [hq]
  dsimp only
  rw [if_neg (by rw [hc]; exact Bool.false_ne_true), hroom, if_pos hr, hmod]
  have hm := fun w ad b d p t u => ((h.setSeq slot { q with hot := true }).inc 0x3004 1).sameButMem_memPost w ad b d p t u
  exact ⟨(hm ..).seqs, ((hm ..).get _ _ (by decide) (by decide)).trans (Hw.get_inc ..)⟩

/-! ## Publication -/

theorem Hw.publish_due (h : Hw) (q : Nat) (hon : h.queueOn q = true) (he : h.eng.state ≠ .faultHold) (hk : (h.queue q).k ≠ (h.queue q).m)
    (hp : (h.queue q).publishing = none) (hd : h.deliveredBelow q (h.queue q).k = true) (hl : h.linesDone (h.queueFacet q) = true) :
    (h.publish q).queues = Map.insert h.queues q { h.queue q with publishing := some (h.queue q).k } ∧ (h.publish q).seqs = h.seqs ∧
      (h.publish q).underWay fun x => x.use = .queueHeader q (h.queue q).k ∧ x.write = true ∧ x.addr = h.getAt 0x3021 1 q / 64 * 64 := by
  unfold Hw.publish
  dsimp only
  rw [if_pos ⟨hon, he, hk, by rw [hp]; rfl, hd, hl⟩]
  have hm := fun w ad b d p t u => (h.modQueue q fun y => { y with publishing := some (h.queue q).k }).sameButMem_memPost w ad b d p t u
  exact ⟨(hm ..).queues, (hm ..).seqs, Hw.underWay_memSend _ _ (fun _ _ _ hh => hh) ⟨rfl, rfl, rfl⟩⟩

theorem Hw.publish_done (h : Hw) (q : Nat) (hk : (h.queue q).k = (h.queue q).m) : h.publish q = h :=
  if_neg fun hh => hh.2.2.1 hk

/-! ## The obligation -/

/-- What a hot fill does. -/
def Hw.hotFill (h : Hw) (slot : Nat) : Hw :=
  match h.seq? slot with
  | some q => if h.nextFill q.com.facet = some slot then h.fillHot slot else h
  | none => h

theorem exec_hotFill_eq (slot : Nat) (s : State) : exec (.hotFill slot) s = .next (s.onCore 2 fun h => h.hotFill slot) := rfl

theorem Hw.hotFill_some (h : Hw) (slot : Nat) (q : Seq) (hq : h.seq? slot = some q) :
    h.hotFill slot = if h.nextFill q.com.facet = some slot then h.fillHot slot else h := by
  unfold Hw.hotFill
  rw [hq]

/-- Settles O40: each command by what its function does when it is due. -/
theorem startsAndPeriods : Obligations.StartsAndPeriods := by
  unfold Obligations.StartsAndPeriods
  refine ⟨fun h x walk r a c hx hm ha hc => ⟨fun o p hr => h.decideTrial_refuse x walk r a c hx hm ha hc o p hr, fun v pages slot g hr hs => ?_⟩,
    fun s hr => ⟨fun slot q hq hc hu ht => ?_, fun slot q hq ht => ?_, fun hb => ?_, fun hb => ?_, fun slot q hq hn hh hroom => ?_,
      fun slot q hq hn => ?_, fun q hon he hk hp hd hl => ?_, fun q hk => ?_⟩⟩
  · obtain ⟨q, hq, ⟨m1, m2, m3, m4, m5, m6, m7, m8⟩, hne⟩ := h.decideTrial_take x walk r a c hx hm ha hc v pages slot g hr hs
    exact ⟨q, hq, m1, m2, m3, m4, m5, m6, m7, m8, hne⟩
  · have hseqs := (s.hw.begun .alone 1).deferredStart_due slot q hq hc hu ht
    refine hr.next .alone 1 _ ⟨?_, fun k hk => ?_⟩
    · exact (congrArg (Map.find? · slot) ((Hw.settle_seqs ..).trans hseqs)).trans (Map.find?_insert_self _ _ _)
    · exact (congrArg (Map.find? · k) ((Hw.settle_seqs ..).trans hseqs)).trans (Map.find?_insert_ne _ _ _ _ hk)
  · exact hr.idle .alone 1 _ ((s.hw.begun .alone 1).deferredStart_early slot q hq ht)
  · obtain ⟨hns, hseqs⟩ := (s.hw.begun .alone 1).rollBudget_over hb
    refine hr.next .alone 1 _ ⟨fun n => ?_, (Hw.settle_budgetNs ..).trans hns, (Hw.settle_seqs ..).trans hseqs⟩
    obtain ⟨h1, h2⟩ := (s.hw.begun .alone 1).rollBudget_spec hb n
    exact ⟨(Hw.settle_getAt _ _ _ _ _ (obsKey_low _ _ _ (by decide) (by decide))).trans h1,
      (Hw.settle_getAt _ _ _ _ _ (obsKey_low _ _ _ (by decide) (by decide))).trans h2⟩
  · exact hr.idle .alone 1 Hw.rollBudget (if_neg (by rw [show (s.hw.begun .alone 1).budgetOver = false from hb]; exact Bool.false_ne_true))
  · have e : (s.hw.begun .alone 2).hotFill slot = (s.hw.begun .alone 2).fillHot slot := ((s.hw.begun .alone 2).hotFill_some slot q hq).trans (if_pos hn)
    obtain ⟨hseqs, hget⟩ := (s.hw.begun .alone 2).fillHot_room slot q hq hh hroom
    rw [exec_hotFill_eq]
    refine hr.nextEq .alone 2 _ e ⟨?_, (Hw.settle_get _ _ _ _ (by decide)).trans hget, fun k hk => ?_⟩
    · exact (congrArg (Map.find? · slot) ((Hw.settle_seqs ..).trans hseqs)).trans (Map.find?_insert_self _ _ _)
    · exact (congrArg (Map.find? · k) ((Hw.settle_seqs ..).trans hseqs)).trans (Map.find?_insert_ne _ _ _ _ hk)
  · rw [exec_hotFill_eq]
    exact hr.idle .alone 2 _ (((s.hw.begun .alone 2).hotFill_some slot q hq).trans (if_neg hn))
  · obtain ⟨hqs, hseqs, hway⟩ := (s.hw.begun .alone 2).publish_due q hon he hk hp hd hl
    refine hr.next .alone 2 _ ⟨?_, ?_, fun k hk => ?_, (Hw.settle_seqs ..).trans hseqs⟩
    · exact (congrArg (fun m => Map.getD m q.val Queue.reset) ((Hw.settle_queues ..).trans hqs)).trans
        (congrArg (·.getD Queue.reset) (Map.find?_insert_self _ _ _))
    · obtain ⟨y, hy, hy2⟩ := hway
      exact ⟨y, by rw [Hw.settle_mem]; exact hy, hy2⟩
    · exact (congrArg (fun m => Map.getD m k Queue.reset) ((Hw.settle_queues ..).trans hqs)).trans
        (congrArg (·.getD Queue.reset) (Map.find?_insert_ne _ _ _ _ hk))
  · exact hr.idle .alone 2 _ ((s.hw.begun .alone 2).publish_done q hk)

end Sys2Proof.Machine

/-! PROOFS. R373, R377, R379 and Table 15.6: a start without failures, and the start watchdog. -/

namespace Sys2Proof.Machine

open Sys2Proof

/-! ## What the steps of a start keep -/

/-- The engine's state, the reset pin and the faults found. -/
def Hw.base (h : Hw) : Eng × Bool × List FaultRec := (h.eng, h.pins.rstLow, h.faults)

/-- The queue, that part of the core island, and the two outputs of the Gnomon's island. -/
def State.base (s : State) : List Instr × (Eng × Bool × List FaultRec) × Bool × Bool := (s.pending, s.hw.base, s.gnm.wake, s.gnm.iso)

theorem State.base_withHw (s : State) (h : Hw) (hh : h.base = s.hw.base) : ({ s with hw := h } : State).base = s.base :=
  congrArg (fun b => (s.pending, b, s.gnm.wake, s.gnm.iso)) hh

theorem Hw.base_foldl {α : Type} (f : Hw → α → Hw) (hf : ∀ b a, (f b a).base = b.base) (l : List α) (b : Hw) : (l.foldl f b).base = b.base :=
  foldl_keeps Hw.base f hf l b

theorem Hw.base_startChecks (h : Hw) (r : StartReport) : (h.startChecks r).base = h.base := by
  unfold Hw.startChecks
  refine (Hw.base_foldl _ (fun b a => ?_) _ _).trans rfl
  rfl

theorem Hw.base_resume (h : Hw) (k v : Nat) : (h.resume k v).base = h.base := by
  unfold Hw.resume
  split
  · rfl
  · split
    · rfl
    · split <;> rfl

theorem Hw.base_tenantCounts (h : Hw) : h.tenantCounts.base = h.base := by
  unfold Hw.tenantCounts
  refine (Hw.base_foldl _ (fun b a => ?_) _ _).trans rfl
  rfl

theorem Hw.base_restoreLocus (h : Hw) : h.restoreLocus.base = h.base := by
  unfold Hw.restoreLocus
  exact (Hw.base_tenantCounts _).trans rfl

theorem Hw.base_set (h : Hw) (i s v : Nat) : (h.set i s v).base = h.base := rfl

theorem Hw.base_coldLocus (h : Hw) : h.coldLocus.base = h.base := by
  unfold Hw.coldLocus
  exact (Hw.base_set ..).trans ((Hw.base_set ..).trans ((Hw.base_tenantCounts _).trans rfl))

theorem Hw.base_scanPool (h : Hw) (k : Nat) : (h.scanPool k).base = h.base := rfl

theorem Hw.base_restorePages (h : Hw) : h.restorePages.base = h.base := by
  have h2 := fun (g : Hw) l => Hw.base_foldl Hw.scanPool (fun b k => b.base_scanPool k) l g
  unfold Hw.restorePages
  exact h2 ({ h with pages := { h.pages with index := h.pages.index.filter fun e => (h.pageInfo (e.pool, e.page)).key == e.key } } : Hw) _

theorem Hw.base_dropPages (h : Hw) : h.dropPages.base = h.base := by
  unfold Hw.dropPages
  exact (Hw.base_restorePages _).trans rfl

theorem Hw.base_freeSlot (h : Hw) (slot : Nat) : (h.freeSlot slot).base = h.base := by
  unfold Hw.freeSlot
  dsimp only
  split <;> rfl

theorem Hw.base_restoreQueues (h : Hw) : h.restoreQueues.base = h.base := by
  unfold Hw.restoreQueues
  refine (Hw.base_foldl _ (fun b a => ?_) _ _).trans rfl
  exact b.base_freeSlot _

theorem Hw.base_restoreFacet (h : Hw) (f : Nat) : (h.restoreFacet f).base = h.base := rfl

/-- The highest version of a model's slots becomes its highest one yet. -/
theorem Hw.base_topVersion (h : Hw) (m v : Nat) : (if v = 0 then h else h.modLearner m fun l => { l with topVersion := v }).base = h.base := by
  split <;> rfl

theorem Hw.base_restoreFacets (h : Hw) : h.restoreFacets.base = h.base := by
  have h1 : ((List.range 16).foldl Hw.restoreFacet h).base = h.base := Hw.base_foldl _ Hw.base_restoreFacet _ _
  unfold Hw.restoreFacets
  dsimp only
  generalize (List.range 16).foldl Hw.restoreFacet h = g at h1
  refine Eq.trans ?_ h1
  generalize List.range 6 = tasks
  generalize List.range 256 = models
  have h4 : ∀ a : Hw, (tasks.foldl (fun (a : Hw) t => a.modTask t fun _ =>
      { Task.reset with state := if a.get 0xA050 (t + 1) = 1 then 1 else 0, sinceNs := a.now }) a).base = a.base := fun a => by
    refine Hw.base_foldl _ ?_ _ _
    exact fun _ _ => rfl
  have h3 : ∀ a : Hw, (models.foldl (fun (a : Hw) m => if max (a.slotVersion m 0) (a.slotVersion m 1) = 0 then a
      else a.modLearner m fun l => { l with topVersion := max (a.slotVersion m 0) (a.slotVersion m 1) }) a).base = a.base := fun a =>
    Hw.base_foldl _ (fun b m => b.base_topVersion m _) _ _
  exact (h4 _).trans (h3 _)

theorem Hw.base_drivePoint (h : Hw) : h.drivePoint.base = h.base := by
  unfold Hw.drivePoint
  dsimp only
  split <;> rfl

theorem Gnomon.restoreImage_outputs (g : Gnomon) (img : PImage) : (g.restoreImage img).wake = g.wake ∧ (g.restoreImage img).iso = g.iso := by
  constructor
  · refine foldl_keeps Gnomon.wake _ (fun a e => ?_) _ _
    cases Map.find? a.od e.1 <;> rfl
  · refine foldl_keeps Gnomon.iso _ (fun a e => ?_) _ _
    cases Map.find? a.od e.1 <;> rfl

theorem State.base_restoreImage (s : State) (img : PImage) : (s.restoreImage img).base = s.base := by
  obtain ⟨hw, hi⟩ := s.gnm.restoreImage_outputs img
  unfold State.base State.restoreImage
  dsimp only
  rw [hw, hi]
  rfl

theorem State.base_imageDefaults (s : State) (rejected : Bool) : (s.imageDefaults rejected).base = s.base := by
  unfold State.imageDefaults
  cases rejected <;> rfl

theorem State.base_eventRecover (s : State) (anew : Bool) : (s.eventRecover anew).base = s.base := by
  have h1 : ∀ (a : Hw) (n : Nat), (if n ≠ 0 then a.gapEvent n 3 else a).base = a.base := fun a n => by split <;> rfl
  refine s.base_withHw _ ((h1 _ _).trans ?_)
  cases anew <;> rfl

/-- Each reserved counter resumes. -/
theorem Hw.base_resumed (h : Hw) (v : Nat → Nat) (l : List Nat) : (l.foldl (fun a k => a.resume k (v k)) h).base = h.base :=
  Hw.base_foldl _ (fun b k => b.base_resume k (v k)) l h

theorem State.base_resumeRecord (s : State) (m : KeptRecord) : (s.resumeRecord m).base = s.base :=
  s.base_withHw _ (s.hw.base_resumed (fun k => Map.getD m.values k 0) highWaterKeys)

theorem State.base_resumeImage (s : State) (restored : Bool) : (s.resumeImage restored).base = s.base := by
  have hev : ∀ a : Hw, ((a.set 0xA104 1 1).event 0 (102 * 16) 4 none none).base = a.base := fun _ => rfl
  unfold State.resumeImage
  generalize highWaterKeys = l
  exact s.base_withHw _ ((hev _).trans (s.hw.base_resumed _ l))

/-- Partitions that are masked. -/
theorem Hw.base_modParts (h : Hw) (f : Part → Part) (l : List Nat) : (l.foldl (fun a p => a.modPart p f) h).base = h.base := by
  refine Hw.base_foldl _ ?_ l h
  exact fun _ _ => rfl

theorem State.base_applyMasks (s : State) (r : StartReport) (useRecord : Bool) : (s.applyMasks r useRecord).base = s.base := by
  have h5 : ∀ (a : Hw) (i1 i2 i3 i4 i5 v1 v2 v3 v4 v5 : Nat), (((((a.set i1 1 v1).set i2 1 v2).set i3 1 v3).set i4 1 v4).set i5 1 v5).base = a.base :=
    fun _ _ _ _ _ _ _ _ _ _ _ => rfl
  have hev : ∀ (a : Hw) (b : Bool), (if b = true then a else a.event 0 (102 * 16 + 1) 4 none none).base = a.base := fun a b => by cases b <;> rfl
  unfold State.applyMasks
  refine s.base_withHw _ ((hev _ _).trans ((Hw.base_modParts _ _ _).trans ((Hw.base_set ..).trans (h5 ..))))

/-! ## The steps -/

/-- A step's way leaves the ledger and the outcome of the start, and what every step keeps. -/
structure StartRun.Same (y x : StartRun) : Prop where
  failed : y.failed = x.failed
  log : y.log = x.log
  base : y.s.base = x.s.base

theorem StartRun.Same.refl (x : StartRun) : StartRun.Same x x := ⟨rfl, rfl, rfl⟩

theorem StartRun.same_modHw (x : StartRun) (f : Hw → Hw) (hf : ∀ h, (f h).base = h.base) : StartRun.Same (x.modHw f) x :=
  ⟨rfl, rfl, x.s.base_withHw _ (hf _)⟩

/-- A start of which `n` steps have gone well. -/
structure StartRun.Good (x : StartRun) (s : State) (n : Nat) : Prop where
  failed : x.failed = 0
  log : x.log.length = n
  base : x.s.base = s.base

theorem StartRun.Good.of_same {x y : StartRun} {s : State} {n : Nat} (hx : x.Good s n) (hy : StartRun.Same y x) : y.Good s n :=
  ⟨hy.failed.trans hx.failed, (congrArg List.length hy.log).trans hx.log, hy.base.trans hx.base⟩

theorem StartRun.Good.note {x : StartRun} {s : State} {n : Nat} (hx : x.Good s n) (o w d : Nat) : (x.note o w d).Good s (n + 1) :=
  ⟨hx.failed, by rw [← hx.log]; exact List.length_append, hx.base⟩

section
variable {x : StartRun} {s : State} {n k outS outA detail : Nat} {r : StartReport} {std : StartRun → Option StartRun} {alt : StartRun → StartRun}

/-- A step with an alternate goes well where no alternate fails. -/
theorem StartRun.Good.step (hx : x.Good s n) (hr : r.alternateFails = []) (hk : noAlternate.contains k = false)
    (hstd : ∀ y z, std y = some z → StartRun.Same z y) (halt : ∀ y, StartRun.Same (alt y) y) : (x.step r k outS outA detail std alt).Good s (n + 1) := by
  have htry : (if r.alternateFails.contains k then { x.note 6 1 0 with failed := k } else (alt x).note outA 1 detail).Good s (n + 1) := by
    rw [hr]
    exact (hx.of_same (halt x)).note outA 1 detail
  unfold StartRun.step
  dsimp only
  rw [if_neg (by simp [hx.failed])]
  split
  · exact htry
  · split
    · next y hy =>
      split at hy
      · cases hy
      · exact (hx.of_same (hstd x y hy)).note outS 0 0
    · rw [hk]
      exact htry

/-- A step without one goes well where its only way succeeds. -/
theorem StartRun.Good.only (hx : x.Good s n) (hf : k ∉ r.standardFails) (hk : noAlternate.contains k = true) {g : StartRun → StartRun}
    (hg : ∀ y, StartRun.Same (g y) y) : (x.step r k outS outA detail (fun y => some (g y)) alt).Good s (n + 1) := by
  have hstart : x.startsAlternate k = false := by
    unfold StartRun.startsAlternate
    rw [hk]
    rfl
  have hno : r.standardFails.contains k = false := by simp [hf]
  unfold StartRun.step
  dsimp only
  rw [if_neg (by simp [hx.failed]), if_neg (by rw [hstart]; exact Bool.false_ne_true), if_neg (by rw [hno]; exact Bool.false_ne_true)]
  exact (hx.of_same (hg x)).note outS 0 0

end

theorem StartRun.same_some {g : StartRun → StartRun} (hg : ∀ y, StartRun.Same (g y) y) (y z : StartRun) (h : some (g y) = some z) :
    StartRun.Same z y := by
  cases h
  exact hg y

theorem StartRun.same_ite {c : Prop} [Decidable c] {a y z : StartRun} (h : (if c then some a else none) = some z) (ha : StartRun.Same a y) :
    StartRun.Same z y := by
  split at h
  · cases h
    exact ha
  · cases h

theorem StartRun.same_withS (y : StartRun) (s : State) (hs : s.base = y.s.base) : StartRun.Same { y with s := s } y := ⟨rfl, rfl, hs⟩

section
variable {x : StartRun} {s : State} {n : Nat} {r : StartReport}

/-- Steps 1 to 5. -/
theorem StartRun.Good.first (hx : x.Good s n) (hr : r.alternateFails = []) (h1 : 1 ∉ r.standardFails) : (x.first r).Good s (n + 5) := by
  have hid : ∀ y : StartRun, StartRun.Same (id y) y := fun y => .refl y
  have hchecks : ∀ y : StartRun, StartRun.Same (y.modHw fun h => h.startChecks r) y := fun y => y.same_modHw _ fun h => h.base_startChecks r
  unfold StartRun.first
  dsimp only
  refine StartRun.Good.step (StartRun.Good.step (StartRun.Good.step (StartRun.Good.step (hx.only (g := id) h1 rfl hid) hr rfl ?_ ?_) hr rfl ?_ ?_)
    hr rfl ?_ ?_) hr rfl ?_ ?_
  · exact StartRun.same_some hid
  · exact hid
  · exact StartRun.same_some hchecks
  · exact hchecks
  · exact StartRun.same_some hid
  · exact fun y => ⟨rfl, rfl, rfl⟩
  · exact StartRun.same_some fun y => y.same_withS _ (y.s.base_eventRecover _)
  · exact fun y => y.same_withS _ (y.s.base_eventRecover _)

theorem StartRun.Good.afterSix (hx : x.Good s n) (m k : Nat) :
    (if x.failed ≠ 0 then x else { x with s := { x.s with gnm := { x.s.gnm with watchdogMs := m }, hw := x.s.hw.inc 0x7105 k } }).Good s n := by
  rw [if_neg (by simp [hx.failed])]
  exact hx.of_same ⟨rfl, rfl, rfl⟩

theorem StartRun.Good.afterSeven (hx : x.Good s n) (m : Nat) :
    (if x.failed ≠ 0 then x
      else { x.modHw fun h => h.set 0xA101 1 m with s := (x.modHw fun h => h.set 0xA101 1 m).s.saveCounters }).Good s n := by
  rw [if_neg (by simp [hx.failed])]
  exact hx.of_same ⟨rfl, rfl, rfl⟩

/-- Steps 6 to 9. -/
theorem StartRun.Good.second (hx : x.Good s n) (hr : r.alternateFails = []) (h9 : 9 ∉ r.standardFails) : (x.second r).Good s (n + 4) := by
  unfold StartRun.second
  dsimp only
  refine StartRun.Good.only (g := fun y => { y with s := y.s.applyMasks r _ }) (StartRun.Good.step (StartRun.Good.afterSeven (StartRun.Good.step
    (StartRun.Good.afterSix (StartRun.Good.step hx hr rfl ?_ ?_) _ _) hr rfl ?_ ?_) _) hr rfl ?_ ?_) h9 rfl ?_
  · intro y z hy
    split at hy
    · exact StartRun.same_ite hy ⟨rfl, rfl, y.s.base_restoreImage _⟩
    · cases hy
  · exact fun y => y.same_withS _ (y.s.base_imageDefaults _)
  · intro y z hy
    split at hy
    · exact StartRun.same_ite hy (y.same_withS _ (y.s.base_resumeRecord _))
    · cases hy
  · exact fun y => y.same_withS _ (y.s.base_resumeImage _)
  · exact fun y z hy => StartRun.same_ite hy (.refl y)
  · exact fun y => ⟨rfl, rfl, rfl⟩
  · exact fun y => y.same_withS _ (y.s.base_applyMasks _ _)

/-- Steps 10 to 15. -/
theorem StartRun.Good.third (hx : x.Good s n) (hr : r.alternateFails = []) (h15 : 15 ∉ r.standardFails) : (x.third r).Good s (n + 6) := by
  have hid : ∀ y : StartRun, StartRun.Same (id y) y := fun y => .refl y
  unfold StartRun.third
  dsimp only
  refine StartRun.Good.only (g := fun y => y.modHw fun h => h.restoreFacets.drivePoint) (StartRun.Good.step (StartRun.Good.step (StartRun.Good.step
    (StartRun.Good.step (StartRun.Good.step hx hr rfl ?_ ?_) hr rfl ?_ ?_) hr rfl ?_ ?_) hr rfl ?_ ?_) hr rfl ?_ ?_) h15 rfl ?_
  · exact StartRun.same_some fun y => y.same_modHw _ fun _ => rfl
  · exact fun y => ⟨rfl, rfl, rfl⟩
  · intro y z hy
    split at hy
    · cases hy
    · exact StartRun.same_some (fun y => y.same_modHw _ Hw.base_restoreLocus) y z hy
  · exact fun y => y.same_modHw _ Hw.base_coldLocus
  · exact StartRun.same_some fun y => y.same_modHw _ Hw.base_restorePages
  · exact fun y => y.same_modHw _ Hw.base_dropPages
  · exact StartRun.same_some fun y => y.same_modHw _ Hw.base_restoreQueues
  · exact fun y => y.same_modHw _ fun _ => rfl
  · intro y z hy
    split at hy
    · cases hy
      exact .refl y
    · exact StartRun.same_ite hy (y.same_modHw _ fun _ => rfl)
  · exact hid
  · exact fun y => y.same_modHw _ fun h => (Hw.base_drivePoint _).trans h.base_restoreFacets

/-- The machine that a start without failures leaves: in CONFIG, with a ledger of its steps. -/
structure State.Started (t s : State) (n : Nat) : Prop where
  pending : t.pending = s.pending
  config : t.hw.eng.state = .config
  rst : t.hw.pins.rstLow = s.hw.pins.rstLow
  faults : t.hw.faults = s.hw.faults
  wake : t.gnm.wake = s.gnm.wake
  iso : t.gnm.iso = s.gnm.iso
  next : t.gnm.get 0xA014 1 = 0
  run : t.gnm.watchdogRun = 0
  ledger : ∃ l, t.gnm.ledgers.head? = some l ∧ l.result = 0 ∧ l.failed = 0 ∧ l.steps.length = n

/-- The last step. -/
theorem StartRun.Good.last (hx : x.Good s n) (hr : r.alternateFails = []) (stamp cause : Nat) : (x.last r stamp cause).Started s (n + 1) := by
  have h16 : (x.step r 16 2 4 0 some fun y => y.modHw fun h => h.event 0 (377 * 16) 3 none none).Good s (n + 1) :=
    hx.step hr rfl (StartRun.same_some (g := id) fun y => .refl y) fun y => y.same_modHw _ fun _ => rfl
  unfold StartRun.last
  dsimp only
  generalize (x.step r 16 2 4 0 some fun y => y.modHw fun h => h.event 0 (377 * 16) 3 none none) = y at h16
  obtain ⟨hf, hl, hb⟩ := h16
  have hp := congrArg Prod.fst hb
  have hh := congrArg (fun b => b.2.1) hb
  have hw := congrArg (fun b => b.2.2.1) hb
  have hi := congrArg (fun b => b.2.2.2) hb
  have hrst := congrArg (fun b => b.2.1) hh
  have hfaults := congrArg (fun b => b.2.2) hh
  have hnext : ∀ g : Gnomon, (g.set 0xA014 1 0).get 0xA014 1 = 0 := fun g => by
    unfold Gnomon.get Gnomon.set Map.getD
    rw [Map.find?_insert_self]
    rfl
  have hled : ∃ l, [y.ledger stamp cause].head? = some l ∧ l.result = 0 ∧ l.failed = 0 ∧ l.steps.length = n + 1 :=
    ⟨_, rfl, if_pos hf, hf, hl⟩
  rw [if_neg (by simp [hf])]
  split
  · exact ⟨hp, rfl, hrst, hfaults, hw, hi, hnext _, rfl, hled⟩
  · exact ⟨hp, rfl, hrst, hfaults, hw, hi, hnext _, rfl, hled⟩

end

/-- The run of a start before its first step. -/
theorem State.good_zero (s : State) (c : Clock) : (⟨{ s with hw := { s.hw with clk := c } }, [], 0, false, false, false⟩ : StartRun).Good s 0 :=
  ⟨rfl, rfl, rfl⟩

/-- A start without failures. -/
theorem State.started_start (s : State) (r : StartReport) (cause : Nat) (hr : r.alternateFails = []) (h1 : 1 ∉ r.standardFails)
    (h9 : 9 ∉ r.standardFails) (h15 : 15 ∉ r.standardFails) : (s.start r cause).Started s 16 := by
  unfold State.start
  exact (((((s.good_zero _).first hr h1).second hr h9).third hr h15).last hr _ _)

/-! ## The obligation -/

/-- A command that reaches beyond the core island, in the first cc that it may join. -/
theorem State.onAll_first (s : State) (f : State → State) (hl : s.live = true) (hn : s.hw.ccNext = 0) :
    s.onAll 0 f = { f { s with hw := s.hw.begun .alone 0 } with
      hw := Hw.settle (s.hw.started .alone) (f { s with hw := s.hw.begun .alone 0 }).hw.runFaults } := by
  have hj : s.hw.joins .alone = true := by simp [Hw.joins, hn]
  have he : s.enterCc .alone = { s with hw := s.hw.started .alone } := by
    simp [State.enterCc, hl, Hw.enterCc, hj, Hw.started]
  unfold State.onAll State.onAllAt
  dsimp only
  rw [if_pos hl, he]
  rfl

/-- The machine as the reset pin's release finds it ready to start. -/
def State.released (s : State) : State :=
  { s with
    gnm := { s.gnm with wake := false, iso := false, startTicks := 0 }
    hw := { s.hw with eng := { s.hw.eng with state := .start }, pins := { s.hw.pins with rstLow := false } } }

theorem State.rstRelease_starts (s : State) (r : StartReport) (ho : s.hw.eng.state ≠ .off) (hl : s.hw.pins.rstLow = true ∨ s.hw.eng.state = .start) :
    s.rstRelease r = s.released.onAll 0 fun s1 => s1.start r (if s.hw.eng.state = .retain then 2 else s.gnm.cause) := by
  unfold State.rstRelease
  rw [if_neg ho, if_pos hl]
  rfl

/-- The core domain reset by the watchdog for another start. -/
def State.startOver (s : State) : State :=
  { s.resetCore .start false with gnm :=
    { s.gnm with ledgers := s.interrupted :: s.gnm.ledgers.take 1, cause := 3, watchdogRun := s.gnm.watchdogRun + 1, startTicks := 0 } }

/-- Settles O19: a start keeps the queue, the reset pin and the Gnomon's outputs through its steps; the watchdog by its cases. -/
theorem starts : Obligations.Starts := by
  unfold Obligations.Starts
  intro s
  refine ⟨fun r hq hn ho hl hr h1 h9 h15 => ?_, fun hs hrst ht hw => ?_, fun hr hs ht hw => ?_, fun ht => ?_⟩
  · have hst := State.started_start { s.released with hw := s.released.hw.begun .alone 0 } r (if s.hw.eng.state = .retain then 2 else s.gnm.cause)
      hr h1 h9 h15
    refine ⟨s.rstRelease r, rfl, ?_⟩
    rw [s.rstRelease_starts r ho hl, s.released.onAll_first _ rfl hn]
    generalize ({ s.released with hw := s.released.hw.begun .alone 0 } : State).start r _ = t at hst
    obtain ⟨-, -, -, hnone⟩ := hq
    obtain ⟨hp, hc, hrst, hf, hwk, hi, hnx, hrun, hled⟩ := hst
    dsimp only
    rw [Hw.runFaults_none _ (hf.trans hnone)]
    exact ⟨(congrArg Eng.state (Hw.settle_eng ..)).trans hc, (congrArg Pins.rstLow (Hw.settle_pins ..)).trans hrst, hwk, hi, hnx, hrun, hp, hled⟩
  · have he : s.watchdogExpiry = s.startOver := by
      unfold State.watchdogExpiry
      rw [if_neg (by simp [hs, hrst, Nat.not_lt.mpr ht]), if_neg (by omega)]
      rfl
    exact ⟨_, congrArg Host.Outcome.next he, rfl, rfl, rfl, rfl, rfl, rfl⟩
  · have hrst : s.hw.pins.rstLow = false := by
      have hlive := hr.live
      unfold State.live at hlive
      simp at hlive
      exact hlive.2
    have he : s.watchdogExpiry = s.onAll 0 fun s1 => { s1 with hw := s1.hw.faultHold none } := by
      unfold State.watchdogExpiry
      rw [if_neg (by simp [hs, hrst, Nat.not_lt.mpr ht]), if_pos hw]
    obtain ⟨-, -, -, hnone⟩ := hr.quiet
    obtain ⟨hst, hf⟩ := (s.hw.begun .alone 0).faultHold_spec none
    refine ⟨_, congrArg Host.Outcome.next (he.trans (s.onAll_first _ hr.live hr.first)), ?_, rfl⟩
    dsimp only
    rw [Hw.runFaults_none _ (hf.trans hnone)]
    exact (congrArg Eng.state (Hw.settle_eng ..)).trans hst
  · exact congrArg Host.Outcome.next (if_pos (.inr (.inr ht)))

end Sys2Proof.Machine

/-! PROOFS. R228, R232, R315 and R323: the requests of jobs and urgent jobs. -/

namespace Sys2Proof.Machine

open Sys2Proof

/-! ## What a start of a job keeps -/

/-- The jobs and the facets, with what the answer to a request asks of the island. -/
structure Hw.Staffed (a b : Hw) : Prop where
  jobs : a.jobs = b.jobs
  facets : a.facets = b.facets
  faults : a.faults = b.faults
  side : a.side = b.side
  eng : a.eng = b.eng

theorem Hw.Staffed.refl (h : Hw) : Hw.Staffed h h := ⟨rfl, rfl, rfl, rfl, rfl⟩

theorem Hw.Staffed.trans {a b c : Hw} (h1 : Hw.Staffed a b) (h2 : Hw.Staffed b c) : Hw.Staffed a c :=
  ⟨h1.jobs.trans h2.jobs, h1.facets.trans h2.facets, h1.faults.trans h2.faults, h1.side.trans h2.side, h1.eng.trans h2.eng⟩

theorem Hw.Staffed.of_mem {a b : Hw} (h : Hw.SameButMem a b) : Hw.Staffed a b := ⟨h.jobs, h.facets, h.faults, h.side, h.eng⟩

theorem Hw.Staffed.facet {a b : Hw} (h : Hw.Staffed a b) (f : Nat) : a.facet f = b.facet f := by unfold Hw.facet; rw [h.facets]
theorem Hw.Staffed.job {a b : Hw} (h : Hw.Staffed a b) (f : Nat) (u : Bool) : a.job f u = b.job f u := by unfold Hw.job; rw [h.jobs]

theorem Hw.staffed_foldl {α : Type} (g : Hw → α → Hw) (hg : ∀ b a, Hw.Staffed (g b a) b) (l : List α) (b : Hw) : Hw.Staffed (l.foldl g b) b := by
  induction l generalizing b with
  | nil => exact .refl b
  | cons a r ih => exact (ih (g b a)).trans (hg b a)

theorem Hw.staffed_modPart (h : Hw) (p : Nat) (g : Part → Part) : Hw.Staffed (h.modPart p g) h := ⟨rfl, rfl, rfl, rfl, rfl⟩
theorem Hw.staffed_set (h : Hw) (i s v : Nat) : Hw.Staffed (h.set i s v) h := ⟨rfl, rfl, rfl, rfl, rfl⟩

theorem Hw.staffed_openParts (h : Hw) (f ctx : Nat) : Hw.Staffed (h.openParts f ctx) h :=
  Hw.staffed_foldl _ (fun b p => b.staffed_modPart p _) _ h

theorem Hw.staffed_setHolds (h : Hw) (f s : Nat) : Hw.Staffed (h.setHolds f s) h := Hw.staffed_foldl _ (fun b p => b.staffed_modPart p _) _ h

theorem Hw.staffed_readGraph (h : Hw) (f : Nat) (u : Bool) : Hw.Staffed (h.readGraph f u) h :=
  (Hw.staffed_foldl _ (fun b _ => .of_mem (b.sameButMem_readBytes ..)) _ _).trans (.of_mem (h.sameButMem_memPost ..))

/-- A facet that enters EXCLUSIVE, all others as they were. -/
structure Hw.Enters (a b : Hw) (f : Nat) : Prop where
  state : (a.facet f).state = .exclusive
  others : ∀ k, k ≠ f → a.facet k = b.facet k
  jobs : a.jobs = b.jobs
  faults : a.faults = b.faults
  side : a.side = b.side
  eng : a.eng = b.eng

theorem Hw.Enters.then {a b c : Hw} {f : Nat} (h : Hw.Enters b c f) (hs : Hw.Staffed a b) : Hw.Enters a c f :=
  ⟨(congrArg Facet.state (hs.facet f)).trans h.state, fun k hk => (hs.facet k).trans (h.others k hk), hs.jobs.trans h.jobs,
    hs.faults.trans h.faults, hs.side.trans h.side, hs.eng.trans h.eng⟩

theorem Hw.enters_modFacet (h : Hw) (f : Nat) (g : Facet → Facet) (hg : (g (h.facet f)).state = .exclusive) : Hw.Enters (h.modFacet f g) h f :=
  ⟨(congrArg Facet.state (h.facet_modFacet f g)).trans hg, fun k hk => h.facet_modFacet_ne f k g hk, rfl, rfl, rfl, rfl⟩

theorem Hw.enterRun_exclusive (h : Hw) (f : Nat) : Hw.Enters (h.enterRun f .exclusive) h f := by
  have h0 : Hw.Staffed (if h.mode f = 3 then h.set 0xD010 (f + 1) (h.workLevel f) else h) h := by
    split
    · exact h.staffed_set ..
    · exact .refl h
  unfold Hw.enterRun
  dsimp only
  rw [if_neg (by decide)]
  generalize (if h.mode f = 3 then h.set 0xD010 (f + 1) (h.workLevel f) else h) = g at h0 ⊢
  refine Hw.Enters.then (b := g.modFacet f _) ?_ (Hw.staffed_openParts _ _ _)
  have he := g.enters_modFacet f (fun x => { x with
    state := .exclusive, waitingUp := none, phaseNs := h.now, stallLogged := false, stallFaulted := false, noPlacing := false,
    stopAtCommit := false, entryPlan := FacetState.exclusive == .active, raiseRun := 0, fired := [], stepRuns := false,
    sliceEndNs := if FacetState.exclusive == .active && x.alternating then some (h.now + 1000000 * h.get 0x9111 (f + 1)) else none }) rfl
  exact ⟨he.state, fun k hk => (he.others k hk).trans (h0.facet k), he.jobs.trans h0.jobs, he.faults.trans h0.faults,
    he.side.trans h0.side, he.eng.trans h0.eng⟩

/-- A job as it is started the first time. -/
def Job.started (j : Job) (parts : List Nat) : Job :=
  { j with state := .loading, loaded := j.yielded, graphOk := false, yielded := false, sliceIters := 0, parts := parts, suspended := false }

/-- The start of a job that has not yielded, on a facet that is driven and up. -/
theorem Hw.startJob_fresh (h : Hw) (f : Nat) (hy : (h.job f false).yielded = false) (hl : h.raw 0xD010 (f + 1) ≠ 0)
    (hu : h.pins.facetUp.testBit f = true) :
    Hw.Enters (h.startJob f) (h.setJob f false ((h.job f false).started (h.facetParts f))) f := by
  have hpins : ∀ j g, ((h.setJob f false j).modFacet f g).startRun f .exclusive = ((h.setJob f false j).modFacet f g).enterRun f .exclusive :=
    fun j g => by
      unfold Hw.startRun
      refine if_neg fun hh => ?_
      rcases hh with hh | hh
      · exact hl hh
      · have e : (!h.pins.facetUp.testBit f) = true := hh
        rw [hu] at e
        cases e
  have htail : ∀ g : Hw, Hw.Staffed (if (h.job f false).resume = true then
      (g.readGraph f false).memPost false (h.raw 0x910A (f + 1)) 1 [] .ring none (.contextRecord f) else (g.readGraph f false).setHolds f 1) g := by
    intro g
    split
    · exact (Hw.Staffed.of_mem (Hw.sameButMem_memPost ..)).trans (g.staffed_readGraph f false)
    · exact (Hw.staffed_setHolds _ _ _).trans (g.staffed_readGraph f false)
  unfold Hw.startJob
  dsimp only
  rw [hpins]
  refine Hw.Enters.then ?_ (Hw.Staffed.trans (b := ((h.setJob f false ((h.job f false).started (h.facetParts f))).modFacet f fun x =>
    { x with alternating := (h.job f false).yielded, sliceEndNs := none }).enterRun f .exclusive) ?_ (.refl _))
  · have he := Hw.enterRun_exclusive ((h.setJob f false ((h.job f false).started (h.facetParts f))).modFacet f fun x =>
      { x with alternating := (h.job f false).yielded, sliceEndNs := none }) f
    exact ⟨he.state, fun k hk => (he.others k hk).trans (Hw.facet_modFacet_ne _ _ _ _ hk), he.jobs, he.faults, he.side, he.eng⟩
  · rw [if_neg (by rw [hy]; exact Bool.false_ne_true)]
    exact htail _

/-! ## The requests -/

section
variable {h : Hw} {f : Nat}

theorem Hw.jobStart_standby (he : h.eng.state = .operational) (hlc : h.lcReserved f = false) (hh : (h.job f false).state.held = false)
    (hs : (h.facet f).state = .standby) : h.jobStart f = (.ok, (h.setJob f false (h.newJob f .pending)).startJob f) := by
  unfold Hw.jobStart
  dsimp only
  rw [if_neg (by simp [he, hlc]), if_neg (by simp [hh]), hs]

theorem Hw.jobStart_active (he : h.eng.state = .operational) (hlc : h.lcReserved f = false) (hh : (h.job f false).state.held = false)
    (hs : (h.facet f).state = .active) (hr : h.feature 62 = false) :
    h.jobStart f = (.ok, (h.setJob f false (h.newJob f .pending)).modFacet f fun x => { x with state := .draining }) := by
  unfold Hw.jobStart
  dsimp only
  rw [if_neg (by simp [he, hlc]), if_neg (by simp [hh]), hs]
  dsimp only
  rw [if_neg (by simp [hr])]

theorem Hw.jobStart_held (he : h.eng.state = .operational) (hlc : h.lcReserved f = false) (hh : (h.job f false).state.held = true) :
    h.jobStart f = (.busy, h) := by
  unfold Hw.jobStart
  dsimp only
  rw [if_neg (by simp [he, hlc]), if_pos hh]

theorem Hw.jobStop_pending (hlc : h.lcReserved f = false) (hs : (h.job f false).state = .pending) (hy : (h.job f false).yielded = false) :
    h.jobStop f = (.ok, h.modJob f false fun x => { x with state := .idle }) := by
  unfold Hw.jobStop
  dsimp only
  rw [if_neg (by simp [hlc]), hs]
  dsimp only
  rw [if_neg (by simp [hy])]

theorem Hw.jobStop_yielded (hlc : h.lcReserved f = false) (hs : (h.job f false).state = .pending) (hy : (h.job f false).yielded = true) :
    h.jobStop f = (.ok, (h.endPending f).modFacet f fun x => { x with sliceEndNs := none, alternating := false }) := by
  unfold Hw.jobStop
  dsimp only
  rw [if_neg (by simp [hlc]), hs]
  dsimp only
  rw [if_pos hy]

theorem Hw.jobStop_runs (hlc : h.lcReserved f = false) (hs : (h.job f false).state = .running ∨ (h.job f false).state = .loading) :
    h.jobStop f = (.ok, h.teardown f false 2) := by
  unfold Hw.jobStop
  dsimp only
  rw [if_neg (by simp [hlc])]
  rcases hs with e | e <;> rw [e]

theorem Hw.urgentStart_ok (he : h.eng.state = .operational) (hlc : h.lcReserved f = false) (h1 : h.feature 1 = true) (h4 : h.feature 4 = true)
    (hx : (h.facet f).state = .exclusive) (hr : (h.job f false).state = .running) (hb : (h.job f false).cls = .be)
    (hu : (h.job f true).state.held = false) (hg : h.raw 0x9200 (f + 1) ≠ 0) (hg64 : h.raw 0x9200 (f + 1) % 64 = 0)
    (hd : h.now + h.switchNs f 1 2 ≤ h.raw 0x9202 (f + 1)) :
    h.urgentStart f = (.ok, (h.setJob f true { Job.idle with state := .loading, parts := h.facetParts f }).readGraph f true) := by
  have hf1 : h.featureForWrites 1 = true := (h.featureForWrites_of_operational 1 he).trans h1
  have hf4 : h.featureForWrites 4 = true := (h.featureForWrites_of_operational 4 he).trans h4
  unfold Hw.urgentStart
  dsimp only
  rw [if_neg (by simp [hf1, hf4]), if_neg (by simp [he, hlc, hx, hr, hb]), if_neg (by simp [hu]), if_neg (by simp [hg, hg64]),
    if_neg (Nat.not_lt.mpr hd)]

theorem Hw.urgentStop_ok (hlc : h.lcReserved f = false) : h.urgentStop f = (.ok, h.teardown f true 2) := by
  unfold Hw.urgentStop
  rw [if_neg (by simp [hlc])]

theorem Job.state_of_course {a b : Job} (h : a.course = b.course) : a.state = b.state := by have e := congrArg Job.state h; exact e
theorem Job.cause_of_course {a b : Job} (h : a.course = b.course) : a.cause = b.cause := by have e := congrArg Job.cause h; exact e

/-- The job that is torn down and the other job of the facet. -/
theorem Hw.teardown_spec (u : Bool) (cause : Nat) (hs : (h.job f u).state = .running ∨ (h.job f u).state = .loading) (hd : h.donated f u = false) :
    ((h.teardown f u cause).job f u).state = .teardown ∧ ((h.teardown f u cause).job f u).cause = cause ∧
      ((h.teardown f u cause).job f (!u)).state = (h.job f (!u)).state ∧ (h.teardown f u cause).faults = h.faults ∧
      (h.teardown f u cause).side = h.side ∧ (h.teardown f u cause).eng = h.eng := by
  rw [h.teardown_eq f u cause hs.symm, if_neg (by rw [hd]; exact Bool.false_ne_true)]
  have ht := h.torn_tornDown f u cause
  have hb := h.torn_before f u (h.descTags fun d => jobDesc f u d && (d.state != .dispatched || d.expired))
  unfold Hw.tearing at ht
  generalize h.tornDown f u cause = x at ht ⊢
  generalize ((h.descTags fun d => jobDesc f u d && (d.state != .dispatched || d.expired)).foldl Hw.retire h).voidTorn f u = g at ht hb
  have hself := (ht.course f u).trans (congrArg Job.course (Hw.job_modJob g f u _))
  have hother := (ht.course f (!u)).trans (congrArg Job.course (Hw.job_modJob_ne g f f u (!u) _ (by cases u <;> simp)))
  exact ⟨Job.state_of_course hself, Job.cause_of_course hself, Job.state_of_course (hother.trans (hb.course f (!u))), ht.faults.trans hb.faults,
    ht.side.trans hb.side, ht.eng.trans hb.eng⟩

end

theorem Hw.endPending_yielded (h : Hw) (f : Nat) (hs : (h.job f false).state = .pending) :
    (h.endPending f).job f false = { h.job f false with state := .ended, result := 2, yielded := false } ∧ (h.endPending f).faults = h.faults ∧
      (h.endPending f).side = h.side ∧ (h.endPending f).eng = h.eng := by
  unfold Hw.endPending
  rw [if_pos hs]
  exact ⟨Hw.job_modJob .., rfl, rfl, rfl⟩

/-! ## The obligation -/

/-- The requests of jobs and of urgent jobs in the dictionary. -/
def jobEntry : Entry := ⟨0x6401, 1, 16, .u8, .wo, false, 1, 2, .none⟩
def urgentEntry : Entry := ⟨0x9201, 1, 16, .u8, .wo, false, 1, 2, .none⟩

theorem lookup_job : ∀ f : Fin 16, lookup 0x6401 (f + 1) = some jobEntry := by decide +kernel
theorem lookup_urgent : ∀ f : Fin 16, lookup 0x9201 (f + 1) = some urgentEntry := by decide +kernel
theorem governs_job (sub : Nat) : governs 0x6401 sub = some 1 := rfl
theorem governs_urgent (sub : Nat) : governs 0x9201 sub = some 4 := rfl

theorem State.ownScalar_job (s : State) (f obj v : Nat) :
    s.ownScalar 0x6401 (f + 1) obj v = ((s.hw.jobRequest f v).1, { s with hw := (s.hw.jobRequest f v).2 }) := rfl
theorem State.ownScalar_urgent (s : State) (f obj v : Nat) :
    s.ownScalar 0x9201 (f + 1) obj v = ((s.hw.urgentRequest f v).1, { s with hw := (s.hw.urgentRequest f v).2 }) := rfl

section
variable {s : State} {p : Path} {f : Fin 16} {v : Nat}

theorem State.takes_job (hr : s.Ready) (he : s.hw.eng.state = .operational) (h1 : s.hw.feature 1 = true) (ha : s.AsksWrite p 0x6401 (f + 1) v)
    (hv : 1 ≤ v ∧ v ≤ 2) : s.Takes p 0x6401 (f + 1) v (fun r => r.writesValue 0x6401 v) jobEntry :=
  s.takes_operational p 0x6401 (f + 1) v (fun r => r.writesValue 0x6401 v) jobEntry hr he ha (lookup_job f) (fun _ h => h.writesValue) nofun rfl
    (fun g h => by rw [governs_job] at h; cases h; exact h1) (by decide) hv

theorem State.takes_urgent (hr : s.Ready) (he : s.hw.eng.state = .operational) (h4 : s.hw.feature 4 = true)
    (ha : s.AsksWrite p 0x9201 (f + 1) v) (hv : 1 ≤ v ∧ v ≤ 2) : s.Takes p 0x9201 (f + 1) v (fun r => r.writesValue 0x9201 v) urgentEntry :=
  s.takes_operational p 0x9201 (f + 1) v (fun r => r.writesValue 0x9201 v) urgentEntry hr he ha (lookup_urgent f) (fun _ h => h.writesValue) nofun rfl
    (fun g h => by rw [governs_urgent] at h; cases h; exact h4) (by decide) hv

end

/-- Settles O7: each request by what it makes of the island, of which the answer's cc keeps jobs and facets. -/
theorem jobRequests : Obligations.JobRequests := by
  unfold Obligations.JobRequests
  intro s p f hr he hlc h1 h4 h62
  obtain ⟨-, -, -, hnone⟩ := hr.quiet
  have hfaults : (s.begun p).hw.faults = [] := hnone
  have hne : ∀ k : Fin 16, k ≠ f → k.val ≠ f.val := fun k hk h => hk (Fin.ext h)
  refine ⟨fun ha hh hs hl hu => ?_, fun ha hh hs => ?_, fun ha hh => ?_, fun ha hs hy => ?_, fun ha hs hy => ?_, fun ha hs hd => ?_,
    fun ha hx hj hb hh hg hg64 ht => ?_, fun ha hs hd => ?_⟩
  · have hown := (s.begun p).ownScalar_job f (s.hw.objOf p .none) 1
    rw [show (s.begun p).hw.jobRequest f 1 = (s.begun p).hw.jobStart f from rfl, Hw.jobStart_standby (h := (s.begun p).hw) he hlc hh hs] at hown
    have hen := ((s.begun p).hw.setJob f false ((s.begun p).hw.newJob f .pending)).startJob_fresh f
      (congrArg Job.yielded (Hw.job_setJob ..)) hl hu
    rw [Hw.job_setJob] at hen
    obtain ⟨hsv, hans⟩ := (s.takes_job hr he h1 ha (by decide)).served hown rfl hen.side (hen.faults.trans hfaults) fun _ => he
    have hjob : ∀ u, (((s.begun p).hw.setJob f false ((s.begun p).hw.newJob f .pending)).startJob f).job f u = _ := fun u =>
      congrArg (fun m => Map.getD m (jobKey f u) Job.idle) hen.jobs
    have hmine := (hjob false).trans (Hw.job_setJob ..)
    refine ⟨_, rfl, hans, ?_, ?_, ?_, ?_, fun k hk => ?_⟩
    · exact (congrArg Job.state ((hsv.job f false).trans hmine)).trans rfl
    · exact (congrArg Job.parts ((hsv.job f false).trans hmine)).trans rfl
    · exact (congrArg Facet.state (hsv.facet f)).trans hen.state
    · refine (hsv.job f true).trans ((hjob true).trans ((Hw.job_setJob_ne _ _ _ _ _ _ (by simp)).trans ?_))
      exact Hw.job_setJob_ne _ _ _ _ _ _ (by simp)
    · exact (hsv.facet k).trans (hen.others k (hne k hk))
  · have hown := (s.begun p).ownScalar_job f (s.hw.objOf p .none) 1
    rw [show (s.begun p).hw.jobRequest f 1 = (s.begun p).hw.jobStart f from rfl, Hw.jobStart_active (h := (s.begun p).hw) he hlc hh hs h62] at hown
    obtain ⟨hsv, hans⟩ := (s.takes_job hr he h1 ha (by decide)).served hown rfl rfl hfaults fun _ => he
    refine ⟨_, rfl, hans, ?_, ?_, ?_, fun k hk => ?_⟩
    · exact (congrArg Job.state (hsv.job f false)).trans (congrArg Job.state (Hw.job_setJob ..))
    · exact (congrArg Facet.state (hsv.facet f)).trans (congrArg Facet.state (Hw.facet_modFacet ..))
    · exact (hsv.job f true).trans (Hw.job_setJob_ne _ _ _ _ _ _ (by simp))
    · exact (hsv.facet k).trans (Hw.facet_modFacet_ne _ _ _ _ (hne k hk))
  · have hown := (s.begun p).ownScalar_job f (s.hw.objOf p .none) 1
    rw [show (s.begun p).hw.jobRequest f 1 = (s.begun p).hw.jobStart f from rfl, Hw.jobStart_held (h := (s.begun p).hw) he hlc hh] at hown
    obtain ⟨hsv, hans⟩ := (s.takes_job hr he h1 ha (by decide)).served hown rfl rfl hfaults id
    exact ⟨_, rfl, hans, hsv.jobs, hsv.facets⟩
  · have hown := (s.begun p).ownScalar_job f (s.hw.objOf p .none) 2
    rw [show (s.begun p).hw.jobRequest f 2 = (s.begun p).hw.jobStop f from rfl, Hw.jobStop_pending (h := (s.begun p).hw) hlc hs hy] at hown
    obtain ⟨hsv, hans⟩ := (s.takes_job hr he h1 ha (by decide)).served hown rfl rfl hfaults id
    exact ⟨_, rfl, hans, (congrArg Job.state (hsv.job f false)).trans (congrArg Job.state (Hw.job_modJob ..)), hsv.facets⟩
  · have hown := (s.begun p).ownScalar_job f (s.hw.objOf p .none) 2
    rw [show (s.begun p).hw.jobRequest f 2 = (s.begun p).hw.jobStop f from rfl, Hw.jobStop_yielded (h := (s.begun p).hw) hlc hs hy] at hown
    obtain ⟨hj, hf, hsd, -⟩ := (s.begun p).hw.endPending_yielded f hs
    obtain ⟨hsv, hans⟩ := (s.takes_job hr he h1 ha (by decide)).served hown rfl hsd (hf.trans hfaults) fun _ => he
    exact ⟨_, rfl, hans, (congrArg Job.state ((hsv.job f false).trans hj)).trans rfl, (congrArg Job.result ((hsv.job f false).trans hj)).trans rfl⟩
  · have hown := (s.begun p).ownScalar_job f (s.hw.objOf p .none) 2
    rw [show (s.begun p).hw.jobRequest f 2 = (s.begun p).hw.jobStop f from rfl, Hw.jobStop_runs (h := (s.begun p).hw) hlc hs] at hown
    obtain ⟨hst, hcause, hother, hf, hsd, -⟩ := Hw.teardown_spec (h := (s.begun p).hw) (f := f) false 2 hs hd
    obtain ⟨hsv, hans⟩ := (s.takes_job hr he h1 ha (by decide)).served hown rfl hsd (hf.trans hfaults) fun _ => he
    exact ⟨_, rfl, hans, (congrArg Job.state (hsv.job f false)).trans hst, (congrArg Job.cause (hsv.job f false)).trans hcause,
      (congrArg Job.state (hsv.job f true)).trans hother⟩
  · have hown := (s.begun p).ownScalar_urgent f (s.hw.objOf p .none) 1
    rw [show (s.begun p).hw.urgentRequest f 1 = (s.begun p).hw.urgentStart f from rfl,
      Hw.urgentStart_ok (h := (s.begun p).hw) he hlc h1 h4 hx hj hb hh hg hg64 ht] at hown
    have hst := ((s.begun p).hw.setJob f true { Job.idle with state := .loading, parts := (s.begun p).hw.facetParts f }).staffed_readGraph f true
    obtain ⟨hsv, hans⟩ := (s.takes_urgent hr he h4 ha (by decide)).served hown rfl hst.side (hst.faults.trans hfaults) fun _ => he
    have hmine := (hsv.job f true).trans ((hst.job f true).trans (Hw.job_setJob ..))
    refine ⟨_, rfl, hans, ?_, ?_, ?_, ?_⟩
    · exact (congrArg Job.state hmine).trans rfl
    · exact (congrArg Job.parts hmine).trans rfl
    · exact (hsv.job f false).trans ((hst.job f false).trans (Hw.job_setJob_ne _ _ _ _ _ _ (by simp)))
    · exact hsv.facets.trans hst.facets
  · have hown := (s.begun p).ownScalar_urgent f (s.hw.objOf p .none) 2
    rw [show (s.begun p).hw.urgentRequest f 2 = (s.begun p).hw.urgentStop f from rfl, Hw.urgentStop_ok (h := (s.begun p).hw) hlc] at hown
    obtain ⟨hst, hcause, hother, hf, hsd, -⟩ := Hw.teardown_spec (h := (s.begun p).hw) (f := f) true 2 hs hd
    obtain ⟨hsv, hans⟩ := (s.takes_urgent hr he h4 ha (by decide)).served hown rfl hsd (hf.trans hfaults) fun _ => he
    exact ⟨_, rfl, hans, (congrArg Job.state (hsv.job f true)).trans hst, (congrArg Job.cause (hsv.job f true)).trans hcause,
      (congrArg Job.state (hsv.job f false)).trans hother⟩

end Sys2Proof.Machine

/-! PROOFS. R227, R232 and R310: what the end of a job and a switch of contexts leave of the facet's jobs. -/

namespace Sys2Proof.Machine

open Sys2Proof

/-! ## The partitions of a facet while a job ends -/

/-- The partitions' states, and the entries below those of learning, are as they were: among them the lists of partitions and their masks. -/
structure Hw.Placed (a b : Hw) : Prop where
  states : ∀ p, (a.part p).state = (b.part p).state
  low : ∀ i s, i < 0x8000 → s < 256 → a.raw i s = b.raw i s

theorem Hw.Placed.refl (h : Hw) : Hw.Placed h h := ⟨fun _ => rfl, fun _ _ _ _ => rfl⟩

theorem Hw.Placed.trans {a b c : Hw} (h1 : Hw.Placed a b) (h2 : Hw.Placed b c) : Hw.Placed a c :=
  ⟨fun p => (h1.states p).trans (h2.states p), fun i s hi hs => (h1.low i s hi hs).trans (h2.low i s hi hs)⟩

theorem Hw.Placed.of_eq {a b : Hw} (hp : a.parts = b.parts) (ho : a.od = b.od) : Hw.Placed a b :=
  ⟨fun p => congrArg (fun m => (Map.getD m p Part.reset).state) hp, fun _ _ _ _ => by unfold Hw.raw; rw [ho]⟩

theorem Hw.placed_ite {c : Prop} [Decidable c] {a b h : Hw} (ha : Hw.Placed a h) (hb : Hw.Placed b h) : Hw.Placed (if c then a else b) h := by
  split
  · exact ha
  · exact hb

theorem Hw.placed_foldl {α : Type} (g : Hw → α → Hw) (hg : ∀ b a, Hw.Placed (g b a) b) (l : List α) (b : Hw) : Hw.Placed (l.foldl g b) b := by
  induction l generalizing b with
  | nil => exact .refl b
  | cons a r ih => exact (ih (g b a)).trans (hg b a)

theorem Hw.Placed.facetParts {a b : Hw} (h : Hw.Placed a b) (f : Nat) (hf : f < 255) : a.facetParts f = b.facetParts f := by
  unfold Hw.facetParts
  rw [h.low 0x5000 (f + 1) (by decide) (by omega), h.low 0x2201 1 (by decide) (by decide)]

/-- An entry of learning or above. -/
theorem Hw.placed_setAt (h : Hw) (i s o v : Nat) (hi : 0x8000 ≤ i) : Hw.Placed (h.setAt i s o v) h := by
  refine ⟨fun _ => rfl, fun j t hj ht => ?_⟩
  have hne : odKey j t 0 ≠ odKey i s o := by
    simp only [odKey]
    omega
  exact congrArg (·.getD 0) (Map.find?_insert_ne _ _ _ _ hne)

theorem Hw.placed_inc (h : Hw) (i s : Nat) (hi : 0x8000 ≤ i) : Hw.Placed (h.inc i s) h := h.placed_setAt i s _ _ hi

theorem Hw.placed_setSlot (h : Hw) (m i v : Nat) : Hw.Placed (h.setSlot m i v) h := h.placed_setAt 0x8012 _ _ _ (by decide)

theorem Hw.placed_modLearner (h : Hw) (m : Nat) (g : Learner → Learner) : Hw.Placed (h.modLearner m g) h := .of_eq rfl rfl

theorem Hw.placed_modJob (h : Hw) (f : Nat) (u : Bool) (g : Job → Job) : Hw.Placed (h.modJob f u g) h := by
  unfold Hw.modJob Hw.setJob
  exact .of_eq rfl rfl

theorem Hw.placed_modPart (h : Hw) (p : Nat) (g : Part → Part) (hg : ∀ x, (g x).state = x.state) : Hw.Placed (h.modPart p g) h := by
  refine ⟨fun k => ?_, fun _ _ _ _ => rfl⟩
  by_cases hk : k = p
  · rw [hk, Hw.part_modPart]
    exact hg _
  · rw [Hw.part_modPart_ne _ _ _ _ hk]

theorem Hw.placed_endShadow (h : Hw) (f : Nat) (u : Bool) (m st : Nat) : Hw.Placed (h.endShadow f u m st) h := by
  unfold Hw.endShadow
  dsimp only
  refine Hw.Placed.trans (b := match (h.learner m).shadowOf, (h.job f u).acquired with
    | some x, some w => if x = (f, u) then (h.setSlot m w st).modLearner m fun y => { y with shadowOf := none } else h
    | _, _ => h) (.of_eq rfl rfl) ?_
  split
  · exact Hw.placed_ite ((Hw.placed_modLearner ..).trans (h.placed_setSlot ..)) (.refl h)
  · exact .refl h

theorem Hw.placed_serveShadow (h : Hw) (m : Nat) : Hw.Placed (h.serveShadow m) h := by
  unfold Hw.serveShadow
  dsimp only
  split
  · split
    · exact (Hw.placed_modJob ..).trans ((Hw.placed_modLearner ..).trans (h.placed_setSlot ..))
    · exact (Hw.placed_modLearner ..).trans (h.placed_setSlot ..)
    · exact .refl h
  · exact .refl h

theorem Hw.placed_grantSem (h : Hw) (n : Nat) : Hw.Placed (h.grantSem n) h := by
  unfold Hw.grantSem
  split
  · exact .of_eq rfl rfl
  · exact .refl h

theorem Hw.placed_raiseEv (h : Hw) (e : Ev) : Hw.Placed (h.raiseEv e) h :=
  Hw.Placed.trans (b := h.inc 0xC030 (e.fam + 1)) (.of_eq rfl rfl) (h.placed_inc 0xC030 _ (by decide))

theorem Hw.placed_modSem (h : Hw) (n : Nat) (g : Sem → Sem) : Hw.Placed (h.modSem n g) h := .of_eq rfl rfl

theorem Hw.placed_forceSems (h : Hw) (f : Nat) (u : Bool) : Hw.Placed (h.forceSems f u) h := by
  unfold Hw.forceSems
  refine Hw.placed_foldl _ (fun b e => ?_) _ h
  split
  · exact Hw.placed_ite ((Hw.placed_grantSem ..).trans ((Hw.placed_modSem ..).trans ((Hw.placed_raiseEv ..).trans
      (b.placed_inc 0x9224 _ (by decide))))) (.refl b)
  · exact .refl b

theorem Hw.placed_dropContext (h : Hw) (f s : Nat) : Hw.Placed (h.dropContext f s) h := by
  refine (Hw.placed_foldl _ (fun b p => b.placed_modPart p _ fun x => ?_) _ _).trans (.of_eq rfl rfl)
  split <;> rfl

/-! ## A switch no partition of which is held -/

/-- A switch of a facet with no held partition: it waits for its partitions, or is done at once. -/
theorem Hw.startSwitch_unheld (h : Hw) (f outSlot inSlot : Nat) (restore : Bool) (tenant : Nat)
    (hp : ∀ p ∈ h.facetParts f, (h.part p).state ≠ .held) :
    ∃ sw : Switch, sw.inSlot = inSlot ∧ sw.outSlot = outSlot ∧
      (h.startSwitch f outSlot inSlot restore tenant = h.switchDone f sw ∨
        h.startSwitch f outSlot inSlot restore tenant = (h.facetParts f).foldl Hw.requestPre { h with switches := Map.insert h.switches f sw }) := by
  unfold Hw.startSwitch
  dsimp only
  split
  · exact ⟨_, rfl, rfl, .inl rfl⟩
  · have hnone : ((h.facetParts f).filter fun p => (h.part p).state == .held && (h.part p).ctxBusy == 0) = [] := by
      rw [List.filter_eq_nil_iff]
      intro p hm
      simp [hp p hm]
    rw [hnone]
    exact ⟨_, rfl, rfl, .inr rfl⟩

/-- Pre-empting a partition changes the partitions alone. -/
theorem Hw.requestPre_eq (h : Hw) (p : Nat) : ∃ x, h.requestPre p = { h with parts := x } := by
  unfold Hw.requestPre
  dsimp only
  split
  · exact ⟨_, rfl⟩
  · split <;> exact ⟨_, rfl⟩

theorem Hw.requestPres_eq (l : List Nat) (h : Hw) : ∃ x, l.foldl Hw.requestPre h = { h with parts := x } := by
  induction l generalizing h with
  | nil => exact ⟨_, rfl⟩
  | cons p l ih =>
    obtain ⟨x, hx⟩ := h.requestPre_eq p
    obtain ⟨y, hy⟩ := ih { h with parts := x }
    exact ⟨y, by rw [List.foldl_cons, hx, hy]⟩

/-- A switch to the urgent job changes partitions and switches alone. -/
theorem Hw.startSwitch_urgent (h : Hw) (f : Nat) (restore : Bool) (tenant : Nat) (hp : ∀ p ∈ h.facetParts f, (h.part p).state ≠ .held) :
    ∃ x m, h.startSwitch f 1 2 restore tenant = { h with parts := x, switches := m } := by
  obtain ⟨sw, hin, hout, e | e⟩ := h.startSwitch_unheld f 1 2 restore tenant hp
  · refine ⟨h.parts, Map.erase h.switches f, e.trans ?_⟩
    unfold Hw.switchDone
    dsimp only
    rw [if_neg fun hh => absurd (hin.symm.trans hh.1) (by decide), if_neg fun hh => absurd (hin.symm.trans hh.1) (by decide),
      if_neg fun hh => absurd (hin.symm.trans hh) (by decide)]
  · obtain ⟨x, hx⟩ := Hw.requestPres_eq (h.facetParts f) { h with switches := Map.insert h.switches f sw }
    exact ⟨x, _, e.trans hx⟩

/-- A switch back to the facet's job leaves its urgent job on its course. -/
theorem Hw.startSwitch_back (h : Hw) (f : Nat) (restore : Bool) (tenant : Nat) (hp : ∀ p ∈ h.facetParts f, (h.part p).state ≠ .held) :
    ((h.startSwitch f 2 1 restore tenant).job f true).course = (h.job f true).course := by
  obtain ⟨sw, hin, hout, e | e⟩ := h.startSwitch_unheld f 2 1 restore tenant hp
  · have hmod : ∀ (a : Hw) (g : Job → Job), a.jobs = h.jobs → (a.modJob f false g).job f true = h.job f true := fun a g ha =>
      (Hw.job_modJob_ne _ _ _ _ _ _ (by simp)).trans (Hw.job_of_jobs ha f true)
    rw [e]
    unfold Hw.switchDone
    dsimp only
    split
    · split
      · exact ((Hw.learned_decideGate ..).course f true).trans (congrArg Job.course (hmod _ _ rfl))
      · exact congrArg Job.course (hmod _ _ rfl)
    · split
      · next hh => exact absurd (hin.symm.trans hh.1) (by decide)
      · exact congrArg Job.course (hmod _ _ rfl)
  · obtain ⟨x, hx⟩ := Hw.requestPres_eq (h.facetParts f) { h with switches := Map.insert h.switches f sw }
    rw [e, hx]
    rfl

/-! ## The end of a job -/

/-- A start of a job that has not yielded leaves the urgent job. -/
theorem Hw.startJob_urgent (h : Hw) (f : Nat) (hy : (h.job f false).yielded = false) : (h.startJob f).job f true = h.job f true := by
  have hrun : ∀ (a : Hw), (a.startRun f .exclusive).jobs = a.jobs := by
    intro a
    unfold Hw.startRun
    split
    · rfl
    · exact (a.enterRun_exclusive f).jobs
  unfold Hw.startJob
  dsimp only
  rw [if_neg (by rw [hy]; exact Bool.false_ne_true)]
  have hset : ∀ (j : Job) (g : Facet → Facet), (((h.setJob f false j).modFacet f g).startRun f .exclusive).job f true = h.job f true := fun j g =>
    (Hw.job_of_jobs (hrun _) f true).trans (h.job_setJob_ne f f false true j (by simp))
  split
  · exact (Hw.Staffed.job (.of_mem (Hw.sameButMem_memPost ..)) f true).trans (((Hw.staffed_readGraph _ _ _).job f true).trans (hset _ _))
  · exact ((Hw.staffed_setHolds _ _ _).job f true).trans (((Hw.staffed_readGraph _ _ _).job f true).trans (hset _ _))

/-- A facet that goes to STANDBY leaves its urgent job. -/
theorem Hw.enterStandby_urgent (h : Hw) (f : Nat) : (h.enterStandby f false).job f true = h.job f true := by
  have hstart : ∀ g : Hw, g.jobs = h.jobs →
      (if (g.job f false).state = .pending ∧ (!(g.job f false).yielded || false) = true then g.startJob f else g).job f true = h.job f true := by
    intro g hg
    split
    · next hc => exact (g.startJob_urgent f (by simpa using hc.2)).trans (Hw.job_of_jobs hg f true)
    · exact Hw.job_of_jobs hg f true
  unfold Hw.enterStandby
  exact hstart _ (Hw.jobs_closeParts ..)

/-- A job as it is when it has ended. -/
def Job.ended (j : Job) (result : Nat) : Job := { j with state := .ended, result := result, tags := [], gateTag := none, gateReady := false }

/-- What the end of a job is before the facet goes on. -/
def Hw.jobEnded (h : Hw) (f : Nat) (u : Bool) (result : Nat) : Hw :=
  let m := (h.job f u).model
  let h1 := (if h.roundJobIs m f u then h else (h.endShadow f u m 0).serveShadow m).modJob f u fun j => j.ended result
  (if result = 1 then h1 else h1.forceSems f u).dropContext f (if u then 2 else 1)

theorem Hw.jobEnded_course (h : Hw) (f : Nat) (u : Bool) (result : Nat) :
    ((h.jobEnded f u result).job f u).course = ((h.job f u).ended result).course ∧ Hw.Placed (h.jobEnded f u result) h := by
  have h0 : Hw.Learned (if h.roundJobIs (h.job f u).model f u = true then h
      else (h.endShadow f u (h.job f u).model 0).serveShadow (h.job f u).model) h :=
    Hw.learned_ite (.refl h) ((Hw.learned_serveShadow ..).trans (h.learned_endShadow ..))
  have hp0 : Hw.Placed (if h.roundJobIs (h.job f u).model f u = true then h
      else (h.endShadow f u (h.job f u).model 0).serveShadow (h.job f u).model) h :=
    Hw.placed_ite (.refl h) ((Hw.placed_serveShadow ..).trans (h.placed_endShadow ..))
  unfold Hw.jobEnded
  dsimp only
  generalize (if h.roundJobIs (h.job f u).model f u = true then h
      else (h.endShadow f u (h.job f u).model 0).serveShadow (h.job f u).model) = g at h0 hp0
  have hforce : Hw.Torn (if result = 1 then g.modJob f u fun j => j.ended result else (g.modJob f u fun j => j.ended result).forceSems f u)
      (g.modJob f u fun j => j.ended result) := Hw.torn_ite (.refl _) (Hw.torn_forceSems ..)
  have hpforce : Hw.Placed (if result = 1 then g.modJob f u fun j => j.ended result else (g.modJob f u fun j => j.ended result).forceSems f u)
      (g.modJob f u fun j => j.ended result) := Hw.placed_ite (.refl _) (Hw.placed_forceSems ..)
  constructor
  · rw [(Hw.torn_dropContext ..).course f u, hforce.course f u, Hw.job_modJob]
    have e := congrArg (fun z : Job => (z.ended result).course) (h0.course f u)
    exact e
  · exact (Hw.placed_dropContext ..).trans (hpforce.trans ((Hw.placed_modJob ..).trans hp0))

theorem Hw.endJob_eq (h : Hw) (f : Nat) (u : Bool) (result : Nat) : h.endJob f u result =
    (let h2 := h.jobEnded f u result
    if (h2.facet f).state ≠ .exclusive then
      h2.modFacet f fun x => { x with waitingUp := if x.waitingUp = some .exclusive then none else x.waitingUp }
    else if u then
      let j := h2.job f false
      if j.state = .running ∧ j.suspended then (h2.endDonations f).startSwitch f 2 1 true 0x10000
      else if j.state.live then h2
      else h2.enterStandby f false
    else if (h2.job f true).state.live then h2
    else h2.enterStandby f false) := rfl

/-- A job that ends keeps the rest of its course. -/
theorem Hw.endJob_course (h : Hw) (f : Nat) (u : Bool) (result : Nat) (hf : f < 255)
    (hp : u = true → ∀ p ∈ h.facetParts f, (h.part p).state ≠ .held) :
    ((h.endJob f u result).job f u).course = ((h.job f u).ended result).course := by
  obtain ⟨hc, hpl⟩ := h.jobEnded_course f u result
  rw [h.endJob_eq f u result]
  dsimp only
  generalize h.jobEnded f u result = x at hc hpl
  split
  · exact hc
  · cases u with
    | true =>
      rw [if_pos rfl]
      split
      · refine (Hw.startSwitch_back _ f true 0x10000 fun p hm => ?_).trans hc
        have hm' : p ∈ x.facetParts f := hm
        rw [hpl.facetParts f hf] at hm'
        have hst : ((x.endDonations f).part p).state = (h.part p).state := hpl.states p
        rw [hst]
        exact hp rfl p hm'
      · split
        · exact hc
        · rw [x.enterStandby_urgent f]
          exact hc
    | false =>
      rw [if_neg Bool.false_ne_true]
      split
      · exact hc
      · have hne : (x.job f false).state ≠ .pending := by
          have e : (x.job f false).state = .ended := Job.state_of_course hc
          rw [e]
          decide
        rw [Hw.job_of_jobs (x.enterStandby_jobs f false hne)]
        exact hc

end Sys2Proof.Machine

/-! PROOFS. R22, R227, R228, R230 to R232 and R316: the graphs of jobs, their iterations, their GATEs and their ends. -/

namespace Sys2Proof.Machine

open Sys2Proof

/-! ## A graph that is not well formed -/

/-- A job with the node in error. -/
def Job.erred (j : Job) (n : Nat) : Job := { j with errorNode := n }

section
variable (h : Hw) (f : Nat) (u : Bool) (n : Nat)

theorem Hw.malformed_eq : h.malformed f u n =
    (let h1 := h.modJob f u fun j => j.erred n
    if h1.jobClear f u then h1.endJob f u 3 else h1.modJob f u fun j => { j with state := .teardown, cause := 3 }) := rfl

theorem Hw.onFacet_erred : (h.modJob f u fun j => j.erred n).onFacet f u = h.onFacet f u := by
  cases u with
  | true =>
    have hne := h.job_modJob_ne f f true false (fun j => j.erred n) (by simp)
    unfold Hw.onFacet
    dsimp only
    rw [if_pos rfl, if_pos rfl, hne]
  | false =>
    have hne := h.job_modJob_ne f f false true (fun j => j.erred n) (by simp)
    unfold Hw.onFacet
    dsimp only
    rw [hne, Hw.job_modJob]
    rfl

theorem Hw.jobClear_erred : (h.modJob f u fun j => j.erred n).jobClear f u = h.jobClear f u := by
  unfold Hw.jobClear
  rw [h.onFacet_erred f u n]
  rfl

/-- A malformed job with no command out is ended. -/
theorem Hw.malformed_clear (hf : f < 255) (hp : u = true → ∀ p ∈ h.facetParts f, (h.part p).state ≠ .held) (hc : h.jobClear f u = true) :
    ((h.malformed f u n).job f u).course = (((h.job f u).erred n).ended 3).course := by
  rw [h.malformed_eq f u n]
  dsimp only
  rw [if_pos ((h.jobClear_erred f u n).trans hc), Hw.endJob_course (h.modJob f u fun j => j.erred n) f u 3 hf hp, Hw.job_modJob]

/-- One with commands out is torn down. -/
theorem Hw.malformed_out (hc : h.jobClear f u = false) :
    (h.malformed f u n).job f u = { h.job f u with state := .teardown, cause := 3, errorNode := n } := by
  rw [h.malformed_eq f u n]
  dsimp only
  rw [if_neg (by rw [h.jobClear_erred f u n, hc]; exact Bool.false_ne_true), Hw.job_modJob, Hw.job_modJob]
  rfl

end

section
variable {h : Hw} {f : Nat} {u : Bool} {graph sem off : List Byte}

theorem Hw.graphLoaded_idle (hc : (h.job f u).state ≠ .loading ∨ (h.job f u).graphOk = true) : h.graphLoaded f u graph sem off = h := by
  unfold Hw.graphLoaded
  exact if_pos hc

theorem Hw.graphLoaded_malformed {n : Nat} {ns : List JobNode} (hs : (h.job f u).state = .loading) (hg : (h.job f u).graphOk = false)
    (hn : ns = (if h.headerOk f graph (graphHeader graph) then
      (List.range (graphHeader graph).nodes).map (graphNode (graphHeader graph) graph) else []))
    (he : h.graphError f (graphHeader graph) graph ns = some n) : h.graphLoaded f u graph sem off = h.malformed f u n := by
  subst hn
  unfold Hw.graphLoaded
  dsimp only
  rw [if_neg (by simp [hs, hg]), he]

/-- A job with the graph's fields and nodes, and no tables. -/
def Job.withGraph (j : Job) (graph : List Byte) : Job :=
  let g := graphHeader graph
  { j with nodes := (List.range g.nodes).map (graphNode g graph), iterations := g.iters, tenant := g.tenant,
           cls := (clsOf (g.classByte % 4)).getD .be, level := g.classByte / 16, model := g.model, context := g.context, loaded := true,
           succs := g.succs, sems := [], offload := [] }

theorem Hw.graphLoaded_formed (hs : (h.job f u).state = .loading) (hg : (h.job f u).graphOk = false)
    (hh : h.headerOk f graph (graphHeader graph) = true) (ha : h.jobAllowed f (graphHeader graph) = true)
    (hu : u = true → h.urgentAllowed f (graphHeader graph) = true)
    (he : h.graphError f (graphHeader graph) graph ((List.range (graphHeader graph).nodes).map (graphNode (graphHeader graph) graph)) = none)
    (hsem : h.raw (if u then 0x9211 else 0x9210) (f + 1) = 0) (hoff : u = true ∨ h.raw 0x8101 (f + 1) = 0)
    (hres : u = true ∨ (h.job f u).resume = false) :
    h.graphLoaded f u graph sem off = (h.setJob f u ((h.job f u).withGraph graph)).beginJob f u := by
  have hnot : ¬((!h.jobAllowed f (graphHeader graph)) = true ∨ u = true ∧ (!h.urgentAllowed f (graphHeader graph)) = true) := by
    rintro (e | ⟨e1, e2⟩)
    · simp [ha] at e
    · simp [hu e1] at e2
  have hoff' : ¬((!u) = true ∧ h.raw 0x8101 (f + 1) ≠ 0) := fun hh => by
    rcases hoff with e | e
    · simp [e] at hh
    · exact hh.2 e
  have hres' : (!u && (h.job f u).resume) = false := by rcases hres with e | e <;> simp [e]
  have hsem' : ¬h.raw (if u then 0x9211 else 0x9210) (f + 1) ≠ 0 := fun hh => hh hsem
  unfold Hw.graphLoaded
  dsimp only
  rw [if_neg (by simp [hs, hg]), if_pos hh, he]
  dsimp only
  rw [if_neg hnot, if_neg hsem', if_neg hoff']
  dsimp only
  rw [if_neg (fun hh => Bool.false_ne_true (hres'.symm.trans hh.1)),
    if_neg (c := (!u && (h.job f u).resume) = true) (by rw [hres']; exact Bool.false_ne_true), if_neg hsem', if_neg hoff']
  rfl

end

/-! ## The begin of a job -/

/-- A job whose graph has been taken. -/
def Job.graphTaken (j : Job) : Job := { j with graphOk := true, headerOk := false, retained := false }

/-- The island with the graph taken, the attempt's header written and the graph read again. -/
def Hw.begunJob (h : Hw) (f : Nat) (u : Bool) : Hw :=
  let h1 := h.setJob f u (h.job f u).graphTaken
  (h1.writeHeader h1 f u (h.job f u).iteration false).rereadGraph f u

theorem Hw.begunJob_mem (h : Hw) (f : Nat) (u : Bool) : Hw.SameButMem (h.begunJob f u) (h.setJob f u (h.job f u).graphTaken) :=
  (Hw.rereadGraph_reads _ f u).1.trans (Hw.sameButMem_writeHeader ..)

theorem Hw.beginJob_eq (h : Hw) (f : Nat) (u : Bool) : h.beginJob f u =
    if u then
      ((h.begunJob f u).modJob f false fun x => { x with suspended := true }).inc 0x9205 (f + 1) |>.startSwitch f 1 2 false (h.job f u).tenant
    else
      let h3 := ((h.begunJob f u).facetParts f).foldl (fun a p => a.modPart p fun x =>
        { x with resident := if x.resident = 0x10000 then (h.job f u).context else x.resident }) (h.begunJob f u)
      if (h.job f u).resume then (h3.set 0x910A (f + 1) 0).startSwitch f 0 1 true (h.job f u).tenant else h3 := rfl

/-- A job of the facet that does not resume begins. -/
theorem Hw.beginJob_plain (h : Hw) (f : Nat) (hr : (h.job f false).resume = false) :
    (h.beginJob f false).job f false = (h.job f false).graphTaken ∧ (h.beginJob f false).seqs = h.seqs ∧
      (h.beginJob f false).facets = h.facets := by
  have hmem := h.begunJob_mem f false
  have hkeep : Hw.Staffed (h.beginJob f false) (h.begunJob f false) ∧ (h.beginJob f false).seqs = (h.begunJob f false).seqs := by
    rw [h.beginJob_eq f false, if_neg Bool.false_ne_true]
    dsimp only
    rw [if_neg (by rw [hr]; exact Bool.false_ne_true)]
    refine ⟨Hw.staffed_foldl _ (fun b p => b.staffed_modPart p _) _ _, foldl_keeps Hw.seqs _ ?_ _ _⟩
    exact fun _ _ => rfl
  exact ⟨(hkeep.1.job f false).trans ((Hw.job_of_jobs hmem.jobs f false).trans (Hw.job_setJob ..)), hkeep.2.trans hmem.seqs,
    hkeep.1.facets.trans hmem.facets⟩

theorem Hw.get_modJob (h : Hw) (f : Nat) (u : Bool) (g : Job → Job) (i s : Nat) : (h.modJob f u g).get i s = h.get i s := rfl

/-- An urgent job begins: the facet's job is suspended and its pre-emption counted. -/
theorem Hw.beginJob_urgent (h : Hw) (f : Nat) (hf : f < 255) (hp : ∀ p ∈ h.facetParts f, (h.part p).state ≠ .held) :
    (h.beginJob f true).job f true = (h.job f true).graphTaken ∧ ((h.beginJob f true).job f false).suspended = true ∧
      (h.beginJob f true).get 0x9205 (f + 1) = (h.get 0x9205 (f + 1) + 1) % 2 ^ 64 := by
  have hmem := h.begunJob_mem f true
  have hparts : (h.begunJob f true).facetParts f = h.facetParts f := by
    unfold Hw.facetParts
    rw [hmem.raw 0x5000 (f + 1) (by decide) (by omega), hmem.raw 0x2201 1 (by decide) (by decide)]
    rfl
  have hpl : Hw.Placed (((h.begunJob f true).modJob f false fun x => { x with suspended := true }).inc 0x9205 (f + 1)) (h.begunJob f true) :=
    (Hw.placed_inc _ 0x9205 _ (by decide)).trans (Hw.placed_modJob ..)
  have hcount : (h.begunJob f true).get 0x9205 (f + 1) = h.get 0x9205 (f + 1) := hmem.get _ _ (by decide) (by omega)
  have hjob : (h.begunJob f true).job f true = (h.job f true).graphTaken :=
    (Hw.job_of_jobs hmem.jobs f true).trans (Hw.job_setJob ..)
  have hstate : ∀ p, ((h.begunJob f true).part p).state = (h.part p).state := fun p =>
    congrArg (fun m => (Map.getD m p Part.reset).state) hmem.parts
  have hurgent := (Hw.job_modJob_ne (h.begunJob f true) f f false true (fun x => { x with suspended := true }) (by simp)).trans hjob
  have hsus : (((h.begunJob f true).modJob f false fun x => { x with suspended := true }).job f false).suspended = true :=
by
    rw [Hw.job_modJob]
  have hget : ((h.begunJob f true).modJob f false fun x => { x with suspended := true }).get 0x9205 (f + 1) = h.get 0x9205 (f + 1) :=
    (Hw.get_modJob ..).trans hcount
  have hheld : ∀ p ∈ (((h.begunJob f true).modJob f false fun x => { x with suspended := true }).inc 0x9205 (f + 1)).facetParts f,
      ((((h.begunJob f true).modJob f false fun x => { x with suspended := true }).inc 0x9205 (f + 1)).part p).state ≠ .held := by
    intro p hm
    rw [hpl.facetParts f hf, hparts] at hm
    rw [hpl.states p, hstate p]
    exact hp p hm
  rw [h.beginJob_eq f true, if_pos rfl]
  generalize (h.begunJob f true).modJob f false (fun x => { x with suspended := true }) = g at hurgent hsus hget hheld ⊢
  obtain ⟨x, m, e⟩ := (g.inc 0x9205 (f + 1)).startSwitch_urgent f false (h.job f true).tenant hheld
  rw [e]
  refine ⟨hurgent, hsus, ?_⟩
  rw [← hget]
  exact Hw.get_inc g 0x9205 (f + 1)

end Sys2Proof.Machine

/-! PROOFS. R22, R227, R228, R230 to R232 and R316: the iterations of jobs, their GATEs and their ends. -/

namespace Sys2Proof.Machine

open Sys2Proof

/-! ## The descriptors of an iteration -/

/-- A tag that names a descriptor of the job. -/
def Hw.jobTag (h : Hw) (f : Nat) (u : Bool) (n : Nat) : Prop := ∃ d, h.desc? n = some d ∧ d.owner = .job ∧ d.facet = f ∧ d.urgentJob = u

theorem Hw.jobTag_of_descs {a b : Hw} (h : a.descs = b.descs) {f n : Nat} {u : Bool} (ht : b.jobTag f u n) : a.jobTag f u n := by
  obtain ⟨d, h1, h2⟩ := ht
  refine ⟨d, ?_, h2⟩
  unfold Hw.desc? at h1 ⊢
  rw [h]
  exact h1

/-- Taking a descriptor changes the descriptors, their tags and the level of the facet's. -/
theorem Hw.takeDesc_eq (h : Hw) (d : Desc) : ∃ o i a b c, (h.takeDesc d).2 =
    { h with od := o, irq := i, descFresh := a, descFreed := b, descDone := c, descs := Map.insert h.descs (h.takeDesc d).1 d } := by
  unfold Hw.takeDesc
  dsimp only
  split
  · obtain ⟨o, i, e⟩ := Hw.noteLevel_eq _ 0x6021 (d.facet + 1) (h.descHigh d.facet) (h.descHeld d.facet) (h.descHeld d.facet + 1)
    exact ⟨o, i, _, _, _, e⟩
  · split
    · obtain ⟨o, i, e⟩ := Hw.noteLevel_eq _ 0x6021 (d.facet + 1) (h.descHigh d.facet) (h.descHeld d.facet) (h.descHeld d.facet + 1)
      exact ⟨o, i, _, _, _, e⟩
    · obtain ⟨o, i, e⟩ := Hw.noteLevel_eq _ 0x6021 (d.facet + 1) (h.descHigh d.facet) (h.descHeld d.facet) (h.descHeld d.facet + 1)
      exact ⟨o, i, _, _, _, e⟩

section
variable {f : Nat} {u : Bool}

theorem Hw.jobTag_takeDesc (h : Hw) (d : Desc) (h1 : d.owner = .job) (h2 : d.facet = f) (h3 : d.urgentJob = u) :
    (h.takeDesc d).2.jobTag f u (h.takeDesc d).1 ∧ ∀ n, h.jobTag f u n → (h.takeDesc d).2.jobTag f u n := by
  obtain ⟨o, i, a, b, c, e⟩ := h.takeDesc_eq d
  have hnew : (h.takeDesc d).2.desc? (h.takeDesc d).1 = some d := (h.desc?_takeDesc d).1
  refine ⟨⟨d, hnew, h1, h2, h3⟩, fun n ht => ?_⟩
  by_cases hn : n = (h.takeDesc d).1
  · rw [hn]
    exact ⟨d, hnew, h1, h2, h3⟩
  · obtain ⟨x, hx, hrest⟩ := ht
    refine ⟨x, ?_, hrest⟩
    rw [e]
    exact (Map.find?_insert_ne _ _ _ _ hn).trans hx

/-- A change of a descriptor that leaves owner, facet and job. -/
theorem Hw.jobTag_modDesc (h : Hw) (t n : Nat) (g : Desc → Desc) (hg : ∀ d, (g d).owner = d.owner ∧ (g d).facet = d.facet ∧ (g d).urgentJob = d.urgentJob)
    (ht : h.jobTag f u n) : (h.modDesc t g).jobTag f u n := by
  obtain ⟨d, hd, ho, hf, hu⟩ := ht
  by_cases hn : n = t
  · subst hn
    obtain ⟨g1, g2, g3⟩ := hg d
    exact ⟨g d, h.desc?_modDesc n g d hd, g1.trans ho, g2.trans hf, g3.trans hu⟩
  · exact ⟨d, (h.desc?_modDesc_ne t n g hn).trans hd, ho, hf, hu⟩

end

/-- The descriptor of a node, taken and its tag kept. -/
def Hw.nodeTaken (f : Nat) (u : Bool) (j : Job) (acc : List Nat × Hw) (e : JobNode × Nat) : List Nat × Hw :=
  let t := acc.2.takeDesc (acc.2.nodeDesc f u j e.2 e.1)
  let t2 : Hw := match e.1.delay with
    | some (l, _) => t.2.modDelay l fun x => { x with reserved := x.reserved + 1 }
    | none => t.2
  (acc.1 ++ [t.1], t2)

/-- The descriptors of an iteration, before their successors are known. -/
def Hw.nodesTaken (h : Hw) (f : Nat) (u : Bool) (j : Job) : List Nat × Hw :=
  (j.nodes.zip (List.range j.nodes.length)).foldl (Hw.nodeTaken f u j) ([], h)

theorem Hw.nodeTaken_spec (f : Nat) (u : Bool) (j : Job) (acc : List Nat × Hw) (e : JobNode × Nat) :
    (Hw.nodeTaken f u j acc e).1.length = acc.1.length + 1 ∧
    ((∀ n ∈ acc.1, acc.2.jobTag f u n) → ∀ n ∈ (Hw.nodeTaken f u j acc e).1, (Hw.nodeTaken f u j acc e).2.jobTag f u n) ∧
    (Hw.nodeTaken f u j acc e).2.jobs = acc.2.jobs ∧ (Hw.nodeTaken f u j acc e).2.seqs = acc.2.seqs := by
  obtain ⟨hnew, hold⟩ := acc.2.jobTag_takeDesc (f := f) (u := u) (acc.2.nodeDesc f u j e.2 e.1) rfl rfl rfl
  obtain ⟨o, i, a, b, c, he⟩ := acc.2.takeDesc_eq (acc.2.nodeDesc f u j e.2 e.1)
  have hdelay : (Hw.nodeTaken f u j acc e).2.descs = (acc.2.takeDesc (acc.2.nodeDesc f u j e.2 e.1)).2.descs ∧
      (Hw.nodeTaken f u j acc e).2.jobs = (acc.2.takeDesc (acc.2.nodeDesc f u j e.2 e.1)).2.jobs ∧
      (Hw.nodeTaken f u j acc e).2.seqs = (acc.2.takeDesc (acc.2.nodeDesc f u j e.2 e.1)).2.seqs := by
    unfold Hw.nodeTaken
    dsimp only
    split <;> exact ⟨rfl, rfl, rfl⟩
  obtain ⟨hd, hj, hs⟩ := hdelay
  refine ⟨by simp [Hw.nodeTaken], fun hacc n hn => Hw.jobTag_of_descs hd ?_, hj.trans ?_, hs.trans ?_⟩
  · have hn' : n ∈ acc.1 ++ [(acc.2.takeDesc (acc.2.nodeDesc f u j e.2 e.1)).1] := hn
    rcases List.mem_append.mp hn' with hm | hm
    · exact hold n (hacc n hm)
    · rw [List.mem_singleton.mp hm]
      exact hnew
  · rw [he]
  · rw [he]

theorem Hw.foldl_nodeTaken (f : Nat) (u : Bool) (j : Job) (l : List (JobNode × Nat)) (acc : List Nat × Hw) (hacc : ∀ n ∈ acc.1, acc.2.jobTag f u n) :
    (l.foldl (Hw.nodeTaken f u j) acc).1.length = acc.1.length + l.length ∧
    (∀ n ∈ (l.foldl (Hw.nodeTaken f u j) acc).1, (l.foldl (Hw.nodeTaken f u j) acc).2.jobTag f u n) ∧
    (l.foldl (Hw.nodeTaken f u j) acc).2.jobs = acc.2.jobs ∧ (l.foldl (Hw.nodeTaken f u j) acc).2.seqs = acc.2.seqs := by
  induction l generalizing acc with
  | nil => exact ⟨rfl, hacc, rfl, rfl⟩
  | cons e l ih =>
    obtain ⟨h1, h2, h3, h4⟩ := Hw.nodeTaken_spec f u j acc e
    obtain ⟨i1, i2, i3, i4⟩ := ih (Hw.nodeTaken f u j acc e) (h2 hacc)
    refine ⟨?_, i2, i3.trans h3, i4.trans h4⟩
    rw [List.foldl_cons, i1, h1, List.length_cons]
    omega

/-- One descriptor for each node, all of the job. -/
theorem Hw.nodesTaken_spec (h : Hw) (f : Nat) (u : Bool) (j : Job) :
    (h.nodesTaken f u j).1.length = j.nodes.length ∧ (∀ n ∈ (h.nodesTaken f u j).1, (h.nodesTaken f u j).2.jobTag f u n) ∧
    (h.nodesTaken f u j).2.jobs = h.jobs ∧ (h.nodesTaken f u j).2.seqs = h.seqs := by
  obtain ⟨h1, h2⟩ := Hw.foldl_nodeTaken f u j (j.nodes.zip (List.range j.nodes.length)) ([], h) (fun n hn => absurd hn List.not_mem_nil)
  refine ⟨h1.trans ?_, h2⟩
  simp

/-- The descriptors with the tags of their successors. -/
def Hw.nodesLinked (h : Hw) (f : Nat) (u : Bool) (j : Job) : Hw :=
  (j.nodes.zip (h.nodesTaken f u j).1).foldl
    (fun a e => a.modDesc e.2 fun d => { d with succ := e.1.succ.map fun i => (h.nodesTaken f u j).1.getD i 0 }) (h.nodesTaken f u j).2

theorem Hw.nodesLinked_spec (h : Hw) (f : Nat) (u : Bool) (j : Job) :
    (∀ n ∈ (h.nodesTaken f u j).1, (h.nodesLinked f u j).jobTag f u n) ∧ (h.nodesLinked f u j).seqs = h.seqs := by
  obtain ⟨-, h2, -, h4⟩ := h.nodesTaken_spec f u j
  have hfold : ∀ (l : List (JobNode × Nat)) (a : Hw), (∀ n ∈ (h.nodesTaken f u j).1, a.jobTag f u n) →
      ∀ n ∈ (h.nodesTaken f u j).1, (l.foldl (fun a e => a.modDesc e.2 fun d =>
        { d with succ := e.1.succ.map fun i => (h.nodesTaken f u j).1.getD i 0 }) a).jobTag f u n := by
    intro l
    induction l with
    | nil => exact fun a ha => ha
    | cons e l ih => exact fun a ha => ih _ fun n hn => a.jobTag_modDesc e.2 n _ (fun d => ⟨rfl, rfl, rfl⟩) (ha n hn)
  refine ⟨hfold _ _ h2, Eq.trans ?_ h4⟩
  unfold Hw.nodesLinked
  refine foldl_keeps Hw.seqs _ ?_ _ _
  intro b a
  have e := congrArg Hw.seqs (b.sameButDescs_modDesc a.2 fun d => { d with succ := a.1.succ.map fun i => (h.nodesTaken f u j).1.getD i 0 }).body
  exact e

/-- A job that runs an iteration on these descriptors. -/
def Job.iterating (j : Job) (tags : List Nat) : Job :=
  { j with state := .running, tags := tags, gateTag := (j.nodes.findIdx? fun n => n.kind == 8).bind fun i => tags[i]?, gateReady := false,
           decision := none, updateOk := false, learnSent := [], sums := [], bad := none,
           learnLeft := (j.nodes.filter fun n => n.kind == 3).length }

theorem Hw.loadIteration_eq (h : Hw) (f : Nat) (u : Bool) : h.loadIteration f u =
    if !h.mayLoad f u then h
    else ((h.nodesLinked f u (h.job f u)).setJob f u ((h.job f u).iterating (h.nodesTaken f u (h.job f u)).1)).requestShadow f u := rfl

theorem Hw.Learned.seqs {a b : Hw} (h : Hw.Learned a b) : a.seqs = b.seqs := by have e := congrArg Hw.seqs h.body; exact e

theorem Hw.requestShadow_spec (h : Hw) (f : Nat) (u : Bool) : Hw.Learned (h.requestShadow f u) h ∧
    ((h.requestShadow f u).job f u).decision = (h.job f u).decision := by
  unfold Hw.requestShadow
  exact ⟨(Hw.learned_serveShadow ..).trans (h.learned_modLearner ..), Hw.decision_serveShadow ..⟩

/-- An iteration takes a descriptor for each node. -/
theorem Hw.loadIteration_spec (h : Hw) (f : Nat) (u : Bool) (hm : h.mayLoad f u = true) :
    ∃ tags, ((h.loadIteration f u).job f u).course = ((h.job f u).iterating tags).course ∧ tags.length = (h.job f u).nodes.length ∧
      (∀ n ∈ tags, (h.loadIteration f u).jobTag f u n) ∧ ((h.loadIteration f u).job f u).decision = none ∧
      (h.loadIteration f u).seqs = h.seqs := by
  obtain ⟨h1, -, -, -⟩ := h.nodesTaken_spec f u (h.job f u)
  obtain ⟨l1, l2⟩ := h.nodesLinked_spec f u (h.job f u)
  rw [h.loadIteration_eq f u, if_neg (by simp [hm])]
  obtain ⟨r1, r2⟩ := ((h.nodesLinked f u (h.job f u)).setJob f u
    ((h.job f u).iterating (h.nodesTaken f u (h.job f u)).1)).requestShadow_spec f u
  refine ⟨(h.nodesTaken f u (h.job f u)).1, ?_, h1, fun n hn => Hw.jobTag_of_descs (r1.descs.trans rfl) (l1 n hn), ?_, r1.seqs.trans l2⟩
  · rw [r1.course f u, Hw.job_setJob]
  · rw [r2, Hw.job_setJob]
    rfl

/-! ## The GATE -/

theorem Hw.jobs_modDesc (h : Hw) (t : Nat) (g : Desc → Desc) : (h.modDesc t g).jobs = h.jobs := by
  have e := congrArg Hw.jobs (h.sameButDescs_modDesc t g).body
  exact e

/-- The GATE's descriptor READY and the job at its GATE. -/
def Hw.gateReached (h : Hw) (f : Nat) (u : Bool) (t : Nat) : Hw :=
  (h.modDesc t fun x => { x with state := .ready, readyCc := h.cc }).modJob f u fun x => { x with gateReady := true }

theorem Hw.telemetryRoom_of {a b : Hw} (ho : a.od = b.od) (hm : a.mem = b.mem) (hj : ∀ k v, (a.job k v).model = (b.job k v).model) (m : Nat) :
    a.telemetryRoom m = b.telemetryRoom m := by
  have hg : ∀ i s o, a.getAt i s o = b.getAt i s o := fun i s o => by
    unfold Hw.getAt
    rw [ho]
  have hnext : a.telemetryNext m = b.telemetryNext m := by
    unfold Hw.telemetryNext
    rw [hg, hm]
    simp only [hj]
  unfold Hw.telemetryRoom
  rw [hnext, hg, hg]

section
variable {h : Hw} {f t : Nat} {u : Bool} {d : Desc}

theorem Hw.gateZero_running (ht : (h.job f u).gateTag = some t) (hd : h.desc? t = some d) (hs : (h.job f u).state = .running)
    (hc : d.counter = 0) (hw : d.state = .waiting) :
    h.gateZero f u = if (h.job f u).suspended then h.gateReached f u t else (h.gateReached f u t).decideGate f u := by
  unfold Hw.gateZero
  dsimp only
  rw [ht]
  dsimp only [Option.bind]
  rw [hd]
  dsimp only [Option.map]
  rw [if_pos ⟨hs, hc, hw⟩]
  rfl

theorem Hw.gateZero_early (ht : (h.job f u).gateTag = some t) (hd : h.desc? t = some d) (hc : d.counter ≠ 0) : h.gateZero f u = h := by
  unfold Hw.gateZero
  dsimp only
  rw [ht]
  dsimp only [Option.bind]
  rw [hd]
  dsimp only [Option.map]
  rw [if_neg fun hh => hc hh.2.1]

theorem Hw.gateZero_none (ht : (h.job f u).gateTag = none) : h.gateZero f u = h := by
  unfold Hw.gateZero
  dsimp only
  rw [ht]
  rfl

theorem Hw.job_gateReached : (h.gateReached f u t).job f u = { h.job f u with gateReady := true } := by
  unfold Hw.gateReached
  rw [Hw.job_modJob, Hw.job_of_jobs (h.jobs_modDesc ..)]

theorem Hw.desc?_gateReached (hd : h.desc? t = some d) : (h.gateReached f u t).desc? t = some { d with state := .ready, readyCc := h.cc } :=
  h.desc?_modDesc t (fun x => { x with state := .ready, readyCc := h.cc }) d hd

theorem Hw.gateReached_eq (hd : h.desc? t = some d) : ∃ x j, h.gateReached f u t = { h with descs := x, jobs := j } := by
  unfold Hw.gateReached
  rw [h.modDesc_some t _ d hd]
  exact ⟨_, _, rfl⟩

theorem Hw.model_gateReached (k : Nat) (v : Bool) : ((h.gateReached f u t).job k v).model = (h.job k v).model := by
  by_cases he : k = f ∧ v = u
  · obtain ⟨rfl, rfl⟩ := he
    rw [Hw.job_gateReached]
  · unfold Hw.gateReached
    rw [Hw.job_modJob_ne _ _ _ _ _ _ he, Hw.job_of_jobs (h.jobs_modDesc ..)]

/-- What the GATE of a job without federation decides. -/
theorem Hw.decideGate_plain (hd : (h.job f u).decision = none) (hf : h.federated (h.job f u).model = false) :
    h.decideGate f u = h.postDecision f u (if (h.job f u).bad.isSome then 1
      else if h.currentVersion (h.job f u).model = 2 ^ 32 - 1 then 4 else 0) false := by
  have hd' : ¬(h.job f u).decision.isSome = true := by simp [hd]
  have hf' : ¬h.federated (h.job f u).model = true := by simp [hf]
  unfold Hw.decideGate
  dsimp only
  rw [if_neg hd']
  by_cases hb : (h.job f u).bad.isSome = true
  · rw [if_pos hb, if_pos hb, if_neg hf', if_neg hd']
  · rw [if_neg hb, if_neg hb]
    by_cases hv : h.currentVersion (h.job f u).model = 2 ^ 32 - 1
    · rw [if_pos hv, if_pos hv]
    · rw [if_neg hv, if_neg hv, if_neg hf']

/-- A GATE that is reached is decided with what the job and its model are before. -/
theorem Hw.decideGate_reached (ht : h.desc? t = some d) (hd : (h.job f u).decision = none) (hf : h.federated (h.job f u).model = false) :
    (((h.gateReached f u t).decideGate f u).job f u).decision = some ((if (h.job f u).bad.isSome then 1
      else if h.currentVersion (h.job f u).model = 2 ^ 32 - 1 then 4 else 0) + if h.telemetryRoom (h.job f u).model then 0 else 16) := by
  have hj : (h.gateReached f u t).job f u = { h.job f u with gateReady := true } := Hw.job_gateReached
  obtain ⟨x, y, e⟩ := Hw.gateReached_eq (f := f) (u := u) ht
  have hfed : (h.gateReached f u t).federated (h.job f u).model = h.federated (h.job f u).model := by rw [e]; rfl
  have hcur : (h.gateReached f u t).currentVersion (h.job f u).model = h.currentVersion (h.job f u).model := by rw [e]; rfl
  have hroom : (h.gateReached f u t).telemetryRoom (h.job f u).model = h.telemetryRoom (h.job f u).model :=
    Hw.telemetryRoom_of (by rw [e]) (by rw [e]) (fun _ _ => Hw.model_gateReached ..) _
  have hpost := (h.gateReached f u t).postDecision_spec f u
  have hplain := Hw.decideGate_plain (h := h.gateReached f u t) (f := f) (u := u)
  rw [hj] at hpost hplain
  dsimp only at hpost hplain
  rw [hplain hd (hfed.trans hf), (hpost _ _).2, hcur, hroom]

end

/-! ## Teardown -/

theorem Hw.finishTeardown_clear (h : Hw) (f : Nat) (u : Bool) (hs : (h.job f u).state = .teardown) (hc : h.jobClear f u = true) :
    h.finishTeardown f u = h.endJob f u (h.job f u).cause := if_pos ⟨hs, hc⟩

theorem Hw.finishTeardown_idle (h : Hw) (f : Nat) (u : Bool) (hc : (h.job f u).state ≠ .teardown ∨ h.jobClear f u = false) :
    h.finishTeardown f u = h := by
  refine if_neg fun hh => ?_
  rcases hc with e | e
  · exact e hh.1
  · rw [e] at hh
    exact Bool.false_ne_true hh.2

section
variable {x y : Job}

theorem Job.result_of_course (e : x.course = y.course) : x.result = y.result := by
  have e1 := congrArg Job.result e
  exact e1

theorem Job.errorNode_of_course (e : x.course = y.course) : x.errorNode = y.errorNode := by
  have e1 := congrArg Job.errorNode e
  exact e1

theorem Job.tags_of_course (e : x.course = y.course) : x.tags = y.tags := by
  have e1 := congrArg Job.tags e
  exact e1

theorem Job.gateReady_of_course (e : x.course = y.course) : x.gateReady = y.gateReady := by
  have e1 := congrArg Job.gateReady e
  exact e1

theorem Job.iteration_of_course (e : x.course = y.course) : x.iteration = y.iteration := by
  have e1 := congrArg Job.iteration e
  exact e1

end

/-! ## The obligation -/

/-- The graph of a job, once none of its reads is awaited. -/
def Hw.graphArrived (h : Hw) (f : Nat) (u : Bool) (graph sem off : List Byte) : Hw :=
  if h.memWaiting fun x => x == .graphRead f u || (!u && x == .contextRecord f) then h else h.graphLoaded f u graph sem off

theorem Hw.graphArrived_read (h : Hw) (f : Nat) (u : Bool) (graph sem off : List Byte)
    (hw : (h.memWaiting fun x => x == .graphRead f u || (!u && x == .contextRecord f)) = false) :
    h.graphArrived f u graph sem off = h.graphLoaded f u graph sem off := if_neg (by rw [hw]; exact Bool.false_ne_true)

theorem Hw.graphArrived_idle (h : Hw) (f : Nat) (u : Bool) (graph sem off : List Byte)
    (hc : (h.memWaiting fun x => x == .graphRead f u || (!u && x == .contextRecord f)) = true ∨ (h.job f u).state ≠ .loading ∨
      (h.job f u).graphOk = true) : h.graphArrived f u graph sem off = h := by
  unfold Hw.graphArrived
  split
  · rfl
  · next hn => exact Hw.graphLoaded_idle (hc.resolve_left hn)

/-- Settles O43: what a graph, an iteration, a GATE and a teardown leave of their job. -/
theorem jobLives : Obligations.JobLives := by
  unfold Obligations.JobLives
  intro s f u hr
  have hf : f.val < 255 := by omega
  refine ⟨fun graph sem off ns n hs hg hp hw hn he => ⟨fun hc => ?_, fun hc => ?_⟩,
    fun graph sem off hs hg hw hh ha he => ⟨fun hu hres hsem hoff => ?_, fun hu hua hsem hp => ?_⟩, fun graph sem off hc => ?_, fun hm => ?_,
    fun hm => ?_, fun n d ht hd hs hc hw => ⟨fun hsus => ?_, fun hsus hdec hfed => ?_⟩, fun n d ht hd hc => ?_, fun ht => ?_,
    fun hs hc hp => ?_, fun hc => ?_⟩
  · have e := ((s.hw.begun .alone 5).graphArrived_read f u graph sem off hw).trans (Hw.graphLoaded_malformed hs hg hn he)
    have hcourse := (s.hw.begun .alone 5).malformed_clear f u n hf (fun hu => (hp hu).2) hc
    refine hr.nextEq .alone 5 (fun h => h.graphArrived f u graph sem off) e ⟨?_, ?_, ?_⟩ <;> dsimp only <;> rw [Hw.settle_job]
    · exact Job.state_of_course hcourse
    · exact Job.result_of_course hcourse
    · exact Job.errorNode_of_course hcourse
  · have e := ((s.hw.begun .alone 5).graphArrived_read f u graph sem off hw).trans (Hw.graphLoaded_malformed hs hg hn he)
    refine hr.nextEq .alone 5 (fun h => h.graphArrived f u graph sem off) e ?_
    exact (Hw.settle_job ..).trans ((s.hw.begun .alone 5).malformed_out f u n hc)
  · subst hu
    have e := ((s.hw.begun .alone 5).graphArrived_read f false graph sem off hw).trans
      (Hw.graphLoaded_formed hs hg hh ha (fun hu => absurd hu Bool.false_ne_true) he hsem (.inr hoff) (.inr hres))
    obtain ⟨hj, hseqs, hfacets⟩ := Hw.beginJob_plain ((s.hw.begun .alone 5).setJob f false (((s.hw.begun .alone 5).job f false).withGraph graph)) f
      (by rw [Hw.job_setJob]; exact hres)
    rw [Hw.job_setJob] at hj
    refine hr.nextEq .alone 5 (fun h => h.graphArrived f false graph sem off) e ?_
    dsimp only
    rw [Hw.settle_job, Hw.settle_seqs, Hw.settle_facets, hj, hseqs, hfacets]
    refine ⟨hs, rfl, rfl, rfl, rfl, ?_, rfl, rfl⟩
    exact (List.length_map ..).trans List.length_range
  · subst hu
    have e := ((s.hw.begun .alone 5).graphArrived_read f true graph sem off hw).trans
      (Hw.graphLoaded_formed hs hg hh ha (fun _ => hua) he hsem (.inl rfl) (.inl rfl))
    obtain ⟨hj, hsus, hget⟩ := Hw.beginJob_urgent ((s.hw.begun .alone 5).setJob f true (((s.hw.begun .alone 5).job f true).withGraph graph)) f hf hp
    rw [Hw.job_setJob] at hj
    refine hr.nextEq .alone 5 (fun h => h.graphArrived f true graph sem off) e ?_
    dsimp only
    rw [Hw.settle_job, Hw.settle_job, Hw.settle_get _ _ _ _ (obsKey_low _ _ _ (by decide) (by omega)), hj]
    refine ⟨hs, rfl, ?_, hsus, hget⟩
    exact (List.length_map ..).trans List.length_range
  · exact hr.idle .alone 5 (fun h => h.graphArrived f u graph sem off) ((s.hw.begun .alone 5).graphArrived_idle f u graph sem off hc)
  · obtain ⟨tags, hcourse, hlen, htags, hdec, hseqs⟩ := (s.hw.begun .alone 5).loadIteration_spec f u hm
    have ht : (((s.hw.begun .alone 5).loadIteration f u).job f u).tags = tags := Job.tags_of_course hcourse
    refine hr.nextEq .alone 5 (fun h => h.loadIteration f u) (y := (s.hw.begun .alone 5).loadIteration f u) rfl ?_
    dsimp only
    rw [Hw.settle_job, Hw.settle_seqs, ht]
    refine ⟨Job.state_of_course hcourse, hlen, fun n hn => ?_, Job.gateReady_of_course hcourse, hdec, (Job.iteration_of_course hcourse).trans rfl, hseqs⟩
    rw [Hw.settle_desc?]
    exact htags n hn
  · exact hr.idle .alone 5 (fun h => h.loadIteration f u) (if_pos (by rw [show (s.hw.begun .alone 5).mayLoad f u = false from hm]; rfl))
  · have e := (Hw.gateZero_running (h := s.hw.begun .alone 5) ht hd hs hc hw).trans (if_pos hsus)
    refine hr.nextEq .alone 5 (fun h => h.gateZero f u) e ⟨?_, ?_⟩
    · exact (Hw.settle_job ..).trans Hw.job_gateReached
    · exact (Hw.settle_desc? ..).trans (Hw.desc?_gateReached hd)
  · have e := (Hw.gateZero_running (h := s.hw.begun .alone 5) ht hd hs hc hw).trans (if_neg (by
      rw [show ((s.hw.begun .alone 5).job f u).suspended = false from hsus]; exact Bool.false_ne_true))
    have hl := ((s.hw.begun .alone 5).gateReached f u n).learned_decideGate f u
    refine hr.nextEq .alone 5 (fun h => h.gateZero f u) e ⟨?_, ?_, ?_⟩
    · refine (congrArg Job.gateReady (Hw.settle_job ..)).trans ((Job.gateReady_of_course (hl.course f u)).trans ?_)
      rw [Hw.job_gateReached]
    · refine (Hw.settle_desc? ..).trans ((congrArg (Map.find? · n) hl.descs).trans ?_)
      exact Hw.desc?_gateReached hd
    · exact (congrArg Job.decision (Hw.settle_job ..)).trans (Hw.decideGate_reached (h := s.hw.begun .alone 5) hd hdec hfed)
  · exact hr.idle .alone 5 (fun h => h.gateZero f u) (Hw.gateZero_early (h := s.hw.begun .alone 5) ht hd hc)
  · exact hr.idle .alone 5 (fun h => h.gateZero f u) (Hw.gateZero_none (h := s.hw.begun .alone 5) ht)
  · have e := (s.hw.begun .alone 5).finishTeardown_clear f u hs hc
    have hcourse := (s.hw.begun .alone 5).endJob_course f u ((s.hw.begun .alone 5).job f u).cause hf fun hu => (hp hu).2
    refine hr.nextEq .alone 5 (fun h => h.finishTeardown f u) e ⟨?_, ?_⟩ <;> dsimp only <;> rw [Hw.settle_job]
    · exact Job.state_of_course hcourse
    · exact Job.result_of_course hcourse
  · exact hr.idle .alone 5 (fun h => h.finishTeardown f u) ((s.hw.begun .alone 5).finishTeardown_idle f u hc)

end Sys2Proof.Machine
